-- ==== Sys2Proof/Word.lean ====
section
/-! DEFINITION. The word types of the OXN-340 and the ranges of the numbers the spec gives its units
(00_scope.md R7, R8; 01_architecture.md R15). Only the types stand here; every operation over them stands
under Machine/. -/

namespace Sys2Proof

/-- A BAR0 register, a scalar register and an Aznil word are 32 bits (R120, R329, R347). -/
abbrev Word := BitVec 32

/-- The smallest addressable unit (R8). -/
abbrev Byte := BitVec 8

/-- Partition P0 to P7 (R135). -/
abbrev Part := Fin 8

/-- Voice V0 to V15 (R329). -/
abbrev Voice := Fin 16

/-- DRAM channel 0 to 15; DMC0 serves 0 to 7 (R237). -/
abbrev Chan := Fin 16

/-- Clock island 0 to 31 (R15). -/
abbrev Island := Fin 32

/-- Resident model handle 0 to 63 (R144). -/
abbrev Handle := Fin 64

/-- Event source 0 to 63 (R221). -/
abbrev Source := Fin 64

/-- Ensemble port 0 to 3 (R422). -/
abbrev Port := Fin 4

/-- Mirror pair 0 to 7 (R448). -/
abbrev Pair := Fin 8

end Sys2Proof
end

