-- ==== Sys2Proof/Syntax.lean ====
section
/-! DEFINITION. The commands of the block: the ONE inductive `Instr`, one constructor per row of
spec/opcode_table.json, and the types of their operands. An operand carries what
comes from outside the block: a written value, an answer of a device, a measurement, the data of a host
read. What the block knows by itself is in State. -/

namespace Sys2Proof

/-- The two ledgers of the breath governor (R30). -/
inductive Ledger where
  | core | io
  deriving DecidableEq, Repr

/-- The level of a voice's grant, each including the levels below it (R34). -/
inductive VLevel where
  | idle | scalar | array
  deriving DecidableEq, Repr

/-- What draws current under a grant: the consumers of R34, and the ramp of a waking island (R62). A burst
of the host-interface engine names the command that it serves, whose breath-wait time it adds to (R45). -/
inductive Consumer where
  | voice (v : Voice) (level : VLevel)
  | secMem (m : Fin 4)
  | prism
  | prismTwin
  | aperture
  | streamer
  | dma (forCmd : Option Nat)
  | port (n : Port)
  | dram (c : Chan)
  | flash (ch : Fin 2)
  | ramp (i : Island)
  deriving DecidableEq, Repr

/-- The model a pass runs: a resident handle, or the early model (R107). -/
inductive ModelRef where
  | handle (h : Handle)
  | early
  deriving DecidableEq, Repr

/-- The tag of a request (R510). A batch carries the rows of each partition, P0 first. -/
inductive Tag where
  | part (p : Part)
  | batch (m : ModelRef) (rows : List Nat)
  | system
  deriving DecidableEq, Repr

/-- A request that a unit makes of the governor. -/
structure BreathReq where
  unit : Consumer
  tag : Tag
  deriving DecidableEq, Repr

/-- What the JESD216 tables of the score's NOR show (R85). -/
structure Sfdp where
  present : Bool
  quad : Bool
  density : Nat
  deriving DecidableEq, Repr

/-- The conventional resets of the function (R129). -/
inductive LinkReset where
  | perst | hotReset | linkDown
  deriving DecidableEq, Repr

/-- A PCI Express configuration request for one DW: a read, or a write with its byte enables. -/
inductive CfgReq where
  | read (offset : Nat)
  | write (offset : Nat) (value : Word) (be : BitVec 4)
  deriving DecidableEq, Repr

/-- Why a DMA read attempt failed (R132, R208 kind 0x06). -/
inductive DmaFail where
  | poisoned | ecrc | timeout
  deriving DecidableEq, Repr

/-- What a DMA read served: a command's data, or a submission-entry fetch of a partition. -/
inductive DmaTarget where
  | command (id : Nat)
  | fetch (p : Part)
  deriving DecidableEq, Repr

/-- What the ECC of a block or word found (R249, R342). -/
inductive EccRes where
  | clean
  | corrected
  | linkCured
  | uncorrectable (kind : Fin 4)
  deriving DecidableEq, Repr

/-- What the ECC of a read found in each block or word that it touches, in ascending address; clean beyond the end. -/
abbrev Ecc := List EccRes

/-- Who makes a channel request; the code of DMC_ERR_INFO.SOURCE (R261). -/
inductive DmcSource where
  | streamer | voice (v : Voice) | hostDma | bar2 | scrub
  deriving DecidableEq, Repr

/-- A channel request of 1 to 64 bytes inside one aligned 64-byte piece (R240). -/
structure DmcReq where
  source : DmcSource
  cmds : List Nat
  part : Option Part
  addr : Nat
  len : Nat
  data : Option (List Byte)
  deriving DecidableEq, Repr

/-- The unit that paces a pass, named from the layer plan (R45). -/
inductive Pacing where
  | dram | flash | hostLink | voices
  deriving DecidableEq, Repr

/-- A strip load of the layer plan (R289 to R291): where its bytes lie, in stacked memory or, for the early model, in the
image; the run-ahead at it, and the voices that read it, by their place among the pass's participants. -/
structure StripLoad where
  addr : Nat
  len : Nat
  ahead : Nat
  readers : BitVec 16
  deriving DecidableEq, Repr

/-- What the voices computed for one row of a pass: the final logits of each position to be selected or scored, in
binary32, and for an EMBED the vector of each position at the layer that it names (R25, R185); `diff` when the second of the aperture's two
selections for a mirrored pass disagreed (R456). -/
structure RowResult where
  cmd : Nat
  logits : List (List Word)
  hidden : List (List Word)
  diff : Bool
  deriving DecidableEq, Repr

/-- How one LDPC codeword of a flash page decoded: the read-retry offset that served, and the bits it
corrected; `none` when it failed after offset 8 (R269). -/
structure CwRead where
  offset : Option (Fin 9)
  corrected : Nat
  deriving DecidableEq, Repr

/-- What MR4 of a channel asks for (R252). -/
inductive Mr4 where
  | x4 | x2 | x1 | half | hotter (value : Nat)
  deriving DecidableEq, Repr

/-- The comparator's report of one clock: its two-rail code and the difference it saw (R451). -/
structure CmpReport where
  code : BitVec 2
  diff : BitVec 64
  deriving DecidableEq, Repr

/-- A formation probe of a pair (R448, R452): the pattern, and what the comparator reports. -/
structure FormProbe where
  pair : Pair
  pattern : BitVec 64
  rep : CmpReport
  deriving DecidableEq, Repr

/-- An ensemble packet: the header of R425 and its payload. -/
structure Packet where
  type : Nat
  dst : Nat
  src : Nat
  ttl : Nat
  seq : Nat
  arg : List Byte
  payload : List Byte
  deriving DecidableEq, Repr

/-- Why a received packet is bad (R426, R428). -/
inductive LinkErr where
  | crc | unlisted | gap (routed : Packet)
  deriving DecidableEq, Repr

/-- What ended REST (R502). -/
inductive WakeEvent where
  | source (n : Source)
  | gpio (n : Fin 8)
  | hostWrite
  deriving DecidableEq, Repr

/-- The commands: one constructor per row of spec/opcode_table.json, in its order but for the rows without an operand. -/
inductive Instr where
  -- start-up and the score (04)
  | porstNRelease (bootSel : BitVec 2)
  | scoreHeaderRead (sfdp : Sfdp) (header : List Byte)
  | scoreCopyReadEnd (copy : List Byte)
  | channelTrainAttemptEnd (c : Chan) (failedStep : Option (Fin 8)) (ms : Nat)
  | scoreUpdateCopyWritten (readBack : List Byte)
  -- breath (02)
  | breathGrant (led : Ledger) (reqs : List BreathReq)
  | leaseExpiry (id : Nat)
  | overCurrentSample (core io : Nat)
  | brgStatusWrite (v : Word)
  | brgCeilWrite (v : Word)
  | brgCeilLowWrite (v : Word)
  -- clocks and islands (03)
  | clockMonitorWindow (counts : List Nat)
  | aonClockCheckWindow (count : Nat)
  | islFaultWrite (v : Word)
  | islandGate (n : Island) (collapse : Bool)
  | islandWakeComplete (n : Island)
  -- time base (03)
  | alarmFire (a : Fin 2)
  | tbsLoad (v : Word)
  | tbsAlarmHiWrite (a : Fin 2) (v : Word)
  -- host link (05)
  | configRequest (req : CfgReq)
  | hostLinkReset (kind : LinkReset)
  | hifPartResetWrite (p : Part) (v : Word)
  | partResetComplete (p : Part)
  | unmappedBar0Access (offset : Nat) (write : Bool)
  | bar2Read (offset len : Nat)
  | bar2Write (offset : Nat) (data : List Byte)
  | glbHwinLenWrite (p : Part) (v : Word)
  | glbWinBaseHiWrite (v : Word)
  | dmaReadCompletion (id : Nat) (data : List Byte)
  | dmaReadFailure (target : DmaTarget) (why : DmaFail)
  | msixHeldSend (vector : Fin 2)
  -- rings, quotas and queues (06, 08)
  | hifSqTailWrite (p : Part) (v : Word)
  | submissionFetch (p : Part) (entry : List Byte)
  | hifCqHeadWrite (p : Part) (v : Word)
  | hifSqSizeWrite (p : Part) (v : Word)
  | hifCqSizeWrite (p : Part) (v : Word)
  | hifSqStatusWrite (p : Part) (v : Word)
  | completionRecordWrite (p : Part)
  | hifQDramUserWrite (p : Part) (v : Word)
  | hifQStripsWrite (p : Part) (v : Word)
  | hifQSectionUseWrite (p : Part) (v : Word)
  | hifEvqHeadWrite (v : Word)
  | hifErrqSizeWrite (v : Word)
  -- host commands (07); the operand names the fetched command that is carried out
  | nop (id : Nat)
  | fence (id : Nat)
  | modelLoad (id : Nat)
  | modelSwap (id : Nat)
  | modelEvict (id : Nat)
  | modelPin (id : Nat)
  | modelQuery (id : Nat)
  | prefill (id : Nat)
  | generate (id : Nat)
  | scoreTokens (id : Nat)
  | embed (id : Nat)
  | hush (id : Nat)
  | wake (id : Nat)
  | contextDestroy (id : Nat)
  | maskLoad (id : Nat)
  | maskBind (id : Nat)
  | kernel (id : Nat)
  | abort (id : Nat)
  | flashWriteImage (id : Nat)
  | flashEraseSlot (id : Nat)
  | scoreUpdate (id : Nat)
  | progressQuery (id : Nat)
  | deferredStart (id : Nat)
  | patienceExpiry (id : Nat)
  -- passes (01, 17)
  | passStart (m : ModelRef) (pacing : Pacing) (plan : List StripLoad) (probes : List FormProbe)
  | passEnd (m : ModelRef) (results : List RowResult)
  | autoHush (p : Part) (ctx : Nat)
  -- streaming, repair and swap (12, 13)
  | streamerBurstComplete (strip : Fin 64) (addr len : Nat) (ecc : Ecc) (last : Bool)
  | prismBlockDecoded (strip : Fin 64) (addr : Nat) (lastOfTensor lastOfStrip : Bool) (checkerDiff : Bool)
  -- flash (11)
  | flashInitComplete (failed : Option (Fin 2)) (copies : List Bool) (factoryBad : List Nat)
  | flashPageRead (block page : Nat) (codewords : List CwRead)
  | flashPageProgrammed (failed : Bool)
  | flashBlockErased (failed : Bool)
  | flashPatrol (reads : List CwRead)
  | blockRefreshComplete (uncorrectable : List (Nat × Nat)) (programFailed : Bool)
  -- stacked memory (10)
  | dmcRequestAccept (c : Chan) (req : DmcReq)
  | dmcRequestIssue (c : Chan) (isWrite : Bool) (index : Nat) (ecc : Ecc)
  | rowIdleClose (c : Chan) (bank : Fin 16)
  | refreshSlot (d : Fin 2)
  | mr4Poll (d : Fin 2) (values : List Mr4)
  | dqsTrack (c : Chan) (driftMilliUi : Nat)
  | retrainComplete (c : Chan) (ok : Bool)
  | scrubRead (d : Fin 2) (ecc : Ecc)
  | selfRefreshExitComplete (d : Fin 2)
  | hazardApply (c : Chan)
  | dmcCntSnap (d : Fin 2)
  | dmcCntClear (d : Fin 2)
  | sectionScrub (m : Fin 4) (offset : Nat) (ecc : Ecc)
  -- event controller (09)
  | eventSourcePending (n : Source)
  | evcDoneWrite (v : Word)
  | evcArmedWrite (half : Fin 2) (v : Word)
  | evcSoftSetWrite (v : Word)
  | evcLatchWrite (half : Fin 2) (v : Word)
  | evcCountRead (n : Source)
  -- KERNEL sets (14)
  | preemptSaveComplete (id : Nat)
  | kernelRestore (id : Nat)
  | kernelSetStart (id : Nat) (probes : List FormProbe)
  | kernelTimeout (id : Nat)
  | vceCtrlWrite (n : Voice) (v : Word)
  -- Aznil, scalar and memory (15); voice n issues the word at its PC, which is this instruction
  | add (n : Voice)
  | sub (n : Voice)
  | and (n : Voice)
  | or (n : Voice)
  | xor (n : Voice)
  | not (n : Voice)
  | sll (n : Voice)
  | srl (n : Voice)
  | sra (n : Voice)
  | mul (n : Voice)
  | mulhu (n : Voice)
  | mulhs (n : Voice)
  | divu (n : Voice)
  | divs (n : Voice)
  | remu (n : Voice)
  | rems (n : Voice)
  | mins (n : Voice)
  | maxs (n : Voice)
  | minu (n : Voice)
  | maxu (n : Voice)
  | neg (n : Voice)
  | abs (n : Voice)
  | clz (n : Voice)
  | popc (n : Voice)
  | cmp (n : Voice)
  | plog (n : Voice)
  | addi (n : Voice)
  | andi (n : Voice)
  | ori (n : Voice)
  | xori (n : Voice)
  | slli (n : Voice)
  | srli (n : Voice)
  | srai (n : Voice)
  | lui (n : Voice)
  | br (n : Voice)
  | jal (n : Voice)
  | sysNop (n : Voice)
  | stop (n : Voice)
  | jalr (n : Voice)
  | rdsr (n : Voice)
  | wrpr (n : Voice)
  | ldb (n : Voice) (ecc : Ecc)
  | ldbu (n : Voice) (ecc : Ecc)
  | ldh (n : Voice) (ecc : Ecc)
  | ldhu (n : Voice) (ecc : Ecc)
  | ldw (n : Voice) (ecc : Ecc)
  | stb (n : Voice)
  | sth (n : Voice)
  | stw (n : Voice)
  -- Aznil, tile, gather and synchronisation (16)
  | tcfg (n : Voice)
  | trel (n : Voice)
  | tld (n : Voice) (ecc : Ecc)
  | tst (n : Voice)
  | tmma (n : Voice) (cmp : CmpReport)
  | tsacc (n : Voice)
  | tout (n : Voice) (ecc : Ecc)
  | tewAdd (n : Voice)
  | tewSub (n : Voice)
  | tewMul (n : Voice)
  | tewMax (n : Voice)
  | tewMin (n : Voice)
  | tewAddr (n : Voice)
  | tewMulr (n : Voice)
  | tewAddc (n : Voice)
  | tewMulc (n : Voice)
  | tewCvt (n : Voice)
  | tewExp (n : Voice)
  | tewRsqrt (n : Voice)
  | tewRecip (n : Voice)
  | tewSilu (n : Voice)
  | rsum (n : Voice)
  | rsumsq (n : Voice)
  | rmax (n : Voice)
  | tq (n : Voice)
  | tdq (n : Voice) (ecc : Ecc)
  | scld (n : Voice) (ecc : Ecc)
  | trda (n : Voice)
  | gather (n : Voice) (ecc : Ecc)
  | scatter (n : Voice)
  | bar (n : Voice)
  | waitev (n : Voice)
  | setev (n : Voice)
  | brthHold (n : Voice)
  | brthRelease (n : Voice)
  -- mirror mode (19)
  | mirrorProbe (k : Pair) (pattern : BitVec 64) (rep : CmpReport)
  | mirRequalWrite (v : Word)
  | mirrorSelftestEnd (k : Pair) (passed : Bool)
  | aonCopyOutvoted (group : Fin 5) (copy : Fin 3)
  -- ensemble link (18)
  | portDetect (n : Port) (answered : Bool)
  | portEqualizeEnd (n : Port) (ok : Bool)
  | portAlignEnd (n : Port) (lanes : BitVec 4)
  | portIdentEnd (n : Port) (delay : Option Nat)
  | portDownExpiry (n : Port)
  | ensRetrain (v : Word)
  | data (n : Port) (pkt : Packet)
  | join (n : Port) (pkt : Packet)
  | reach (n : Port) (pkt : Packet)
  | reserve (n : Port) (pkt : Packet)
  | reserveReply (n : Port) (pkt : Packet)
  | release (n : Port) (pkt : Packet)
  | commit (n : Port) (pkt : Packet)
  | rollback (n : Port) (pkt : Packet)
  | stageDone (n : Port) (pkt : Packet)
  | fault (n : Port) (pkt : Packet)
  | destroy (n : Port) (pkt : Packet)
  | downbeat (n : Port) (pkt : Packet) (residence : Nat)
  | keepalive (n : Port) (pkt : Packet)
  | ack (n : Port) (pkt : Packet)
  | ident (n : Port) (pkt : Packet)
  | keepaliveIdleTimer (n : Port)
  | ackTimer (n : Port)
  | replayTimeout (n : Port)
  | linkSilence (n : Port)
  -- vibrato (20)
  | vibUnlockWrite (v : Word)
  -- power, AVSBus, thermal, GPIO (21)
  | glbOppointWrite (v : Word)
  | avsTransactionEnd (ok : Bool)
  | thermalSample (temps : List Int)
  | restRequest (v : Word)
  | restWakeRequest (v : Word)
  | restWake (w : WakeEvent)
  | gpioChange (n : Fin 8) (level : Bool)
  -- JTAG (21 R498)
  | samplePreload (boundary : List Bool)
  | dbgReg (dr : BitVec 64)
  -- the remaining rows of the table
  | registerWrite (offset : Nat) (dws : List (Word × BitVec 4))
  | linkUp (speed width : Nat)
  | linkError (n : Port) (err : LinkErr)
  | rcRegisterRead (offset dws : Nat)
  | hushWakeDeviceWorkEnd (id : Nat)
  -- the rows without an operand, of every family; they stand last, since a compiled program can build a value with
  -- fields only of the first 245 constructors
  | porstNAssert
  | otpLoadComplete
  | scoreVerifyEnd
  | islandsExit
  | earlyServiceStart
  | breathLimAssert
  | breathLimRelease
  | brgPeakRead
  | refclk38Loss
  | tbsTick
  | downbeatCrossing
  | downbeatOutPulseEnd
  | downbeatInCapture
  | tbsNowLoRead
  | downbeatMissed
  | flr
  | flrComplete
  | ltrMessage
  | hifErrqLostRead
  | hifDeferTotalRead
  | errorRecordWrite
  | repairEnd
  | swapVerifyEnd
  | swapWriteStart
  | swapShardWritten
  | swapRevertEnd
  | flashWriteCheckPassEnd
  | eventRecordWrite
  | evcClaimRead
  | cantorMismatch
  | ensDbinLoRead
  | vibGo
  | vibStop
  | vibLock
  | vibDurationExpiry
  | avsSettleExpiry
  | glbThermRead
  | dozeEntry
  | restExitComplete
  | idcode
  | extest
  | clamp
  | highz
  | dbgStat
  | bypass
  deriving DecidableEq, Repr

end Sys2Proof
end

