-- ==== Sys2Proof/Config.lean ====
section
/-! DEFINITION. What the spec leaves open, as constants without a body: no proof can see their values, so a claim
holds whatever they are (log entry 3). -/

namespace Sys2Proof

/-- The error, in units in the last place less 2, of Brodkacen's fixed approximation of function `f` at a
binary32 operand: within 2 ulp of the exact value (R384, R412). `f`: 0 EXP, 1 RSQRT, 2 RECIP, 3 SILU, 4 LN. -/
opaque Config.approxUlp : (f : Nat) → Word → Fin 5

/-- The part of a follower's rate trim after its n-th downbeat, in ppb, that R73 and R74 leave open: they state bounds, a
purpose and a time to lock, not a control law. -/
opaque Config.trim : Nat → Int

/-- The activation selector that TOUT's sx(i) follows, from rw and the scalar registers: R380 uses sx(i) and names no
selector register. -/
opaque Config.toutSel : (rw : Fin 16) → (regs : List Word) → Word

/-- A fresh value of the n-th open read: what a read sees where the spec gives no content. -/
opaque Config.freeNat : Nat → Nat

/-- The erase unit of the board's NOR in bytes, less 1 (R111): a property of the part fitted. -/
opaque Config.norUnit : Nat

/-- The ten SECDED bits of a block's check word (R246, chapter 10, Inline ECC): the code's matrix is not stated. -/
opaque Config.secded : List Byte → BitVec 10

end Sys2Proof
end

