-- ==== Sys2Proof/Machine/Bytes.lean ====
section
/-! DEFINITION. Bytes, bit fields and byte order: little-endian fields (R8) of entries, records, images and
packets, and the bit ranges [hi:lo] of registers (R7). -/

namespace Sys2Proof.Machine

/-- Byte i of a byte string; bytes beyond its end read 0. -/
def byteAt (bs : List Byte) (i : Nat) : Nat := (bs.getD i 0).toNat

/-- The little-endian number in a whole byte string (R8). -/
def leNat : List Byte → Nat
  | [] => 0
  | b :: bs => b.toNat + 256 * leNat bs

/-- The big-endian number in a whole byte string (the signature block, R89). -/
def beNat (bs : List Byte) : Nat := leNat bs.reverse

/-- `len` bytes from offset `off`; short where the string ends. -/
def slice (bs : List Byte) (off len : Nat) : List Byte := (bs.drop off).take len

/-- The little-endian field of `len` bytes at offset `off` (R8). -/
def le (bs : List Byte) (off len : Nat) : Nat := leNat (slice bs off len)

/-- The `n` little-endian bytes of a number, modulo 256^n (R8). -/
def toLe : Nat → Nat → List Byte
  | 0, _ => []
  | n + 1, v => BitVec.ofNat 8 v :: toLe n (v / 256)

/-- The `n` big-endian bytes of a number (R89). -/
def toBe (n v : Nat) : List Byte := (toLe n v).reverse

/-- Bits [hi:lo] of a number (R7). -/
def bits (v hi lo : Nat) : Nat := v / 2 ^ lo % 2 ^ (hi + 1 - lo)

/-- Bit i of a number (R7). -/
def bitAt (v i : Nat) : Bool := v / 2 ^ i % 2 == 1

/-- 1 for true. -/
def b2n (b : Bool) : Nat := if b then 1 else 0

/-- An element put in its place in a sorted list, before its equals. -/
def insertBy {α : Type} (le : α → α → Bool) (x : α) : List α → List α
  | [] => [x]
  | y :: ys => if le x y then x :: y :: ys else y :: insertBy le x ys

/-- The elements in the order of `le`, equals in the order of the list. -/
def sortBy {α : Type} (le : α → α → Bool) (l : List α) : List α := l.foldr (insertBy le) []

/-- A word from a number, modulo 2^32. -/
def w32 (v : Nat) : Word := BitVec.ofNat 32 v

/-- The low and the high half of a 64-bit register pair. -/
def lo32 (v : Nat) : Word := w32 v
def hi32 (v : Nat) : Word := w32 (v / 2 ^ 32)

/-- Replace the low or the high half of a 64-bit number. -/
def setLo (v : Nat) (w : Word) : Nat := v / 2 ^ 32 * 2 ^ 32 + w.toNat
def setHi (v : Nat) (w : Word) : Nat := v % 2 ^ 32 + w.toNat * 2 ^ 32

/-- The signed number in the two's complement of `w` bits. -/
def signed (w v : Nat) : Int := if v % 2 ^ w < 2 ^ (w - 1) then (v % 2 ^ w : Nat) else ((v % 2 ^ w : Nat) : Int) - 2 ^ w

/-- The two's complement of a signed number in `w` bits. -/
def unsigned (w : Nat) (i : Int) : Nat := (i % 2 ^ w).toNat

/-- A number that counts up to `m` and stays there. -/
def satAdd (m v k : Nat) : Nat := min m (v + k)

/-- Every byte of the range is 0 (a reserved field, R87, R99 step 7). -/
def allZero (bs : List Byte) (off len : Nat) : Bool := (slice bs off len).all (· == 0)

/-- Quotient rounded up; a divisor of 0 gives 0. -/
def ceilDiv (a b : Nat) : Nat := (a + b - 1) / b

/-- The byte string with the bytes of `new` in place of those from offset `off`. -/
def patch (bs : List Byte) (off : Nat) (new : List Byte) : List Byte :=
  bs.take off ++ new ++ bs.drop (off + new.length)

/-- A number as bits, bit 0 first. -/
def bitsOf (n v : Nat) : List Bool := (List.range n).map fun i => bitAt v i

/-- The number whose bit i is the i-th of the list. -/
def ofBits : List Bool → Nat
  | [] => 0
  | b :: bs => b2n b + 2 * ofBits bs

/-- The number with a 1 at each position where `p` holds, for positions below `n`. -/
def maskOf (n : Nat) (p : Nat → Bool) : Nat := ofBits ((List.range n).map p)

end Sys2Proof.Machine
end

