-- ==== Sys2Proof/Machine/Float.lean ====
section
/-! DEFINITION. Floating-point formats and exact arithmetic with the single rounding of R326: binary32, BF16, FP8
E4M3 and E5M2 as exact dyadic numbers; quantisation (R327); the elementary functions inside 2 ulp (R384). -/

namespace Sys2Proof.Machine

/-- A format: mantissa bits, exponent bias, the code of its largest finite value, its canonical NaN, its width,
and whether an all-ones exponent holds infinity. -/
structure Fmt where
  mant : Nat
  bias : Nat
  maxCode : Nat
  nan : Nat
  width : Nat
  hasInf : Bool
  deriving DecidableEq, Repr

def binary32 : Fmt := ⟨23, 127, 0x7F7FFFFF, 0x7FC00000, 32, true⟩
def bf16 : Fmt := ⟨7, 127, 0x7F7F, 0x7FC0, 16, true⟩
def e4m3 : Fmt := ⟨3, 7, 0x7E, 0x7F, 8, false⟩
def e5m2 : Fmt := ⟨2, 15, 0x7B, 0x7E, 8, true⟩

/-- A floating-point value: NaN, infinity, or (−1)^neg × mag × 2^exp exactly. -/
inductive Fl where
  | nan
  | inf (neg : Bool)
  | fin (neg : Bool) (mag : Nat) (exp : Int)
  deriving DecidableEq, Repr

/-- The value of a code. -/
def Fmt.decode (f : Fmt) (c : Nat) : Fl :=
  let neg := bitAt c (f.width - 1)
  let m := c % 2 ^ f.mant
  let e := c / 2 ^ f.mant % 2 ^ (f.width - 1 - f.mant)
  let top := 2 ^ (f.width - 1 - f.mant) - 1
  if f.hasInf ∧ e = top then (if m = 0 then .inf neg else .nan)
  else if !f.hasInf ∧ e = top ∧ m = 2 ^ f.mant - 1 then .nan
  else if e = 0 then .fin neg m (1 - f.bias - f.mant)
  else .fin neg (2 ^ f.mant + m) (e - f.bias - f.mant)

/-- Round n ÷ 2^k to an integer, ties to even. -/
def roundShift (n k : Nat) : Nat :=
  let q := n / 2 ^ k
  let r := n % 2 ^ k
  if 2 ^ k < 2 * r ∨ (2 ^ k = 2 * r ∧ q % 2 = 1) then q + 1 else q

/-- The code of a magnitude mag × 2^exp, rounded to nearest even; it can pass `maxCode`. -/
def Fmt.codeOf (f : Fmt) (mag : Nat) (exp : Int) : Nat :=
  if mag = 0 then 0
  else
    let low : Int := 1 - f.bias - f.mant
    let q := max (exp + Nat.log2 mag - f.mant) low
    let n := if q ≤ exp then mag * 2 ^ (exp - q).toNat else roundShift mag (q - exp).toNat
    (q - low).toNat * 2 ^ f.mant + n

/-- Rounding into a format (R326): the code, and whether S is set. -/
def Fmt.round (f : Fmt) : Fl → Nat × Bool
  | .nan => (f.nan, false)
  | .inf neg => (f.maxCode + b2n neg * 2 ^ (f.width - 1), true)
  | .fin neg mag exp =>
    let c := f.codeOf mag exp
    let sat := f.maxCode < c
    ((if sat then f.maxCode else c) + b2n neg * 2 ^ (f.width - 1), sat)

/-- An infinite operand is taken as the largest finite value of its sign, and S is set (R384). -/
def finOf (f : Fmt) : Fl → Fl × Bool
  | .inf neg => (match f.decode f.maxCode with
    | .fin _ m e => .fin neg m e
    | x => x, true)
  | x => (x, false)

/-! ### Exact arithmetic on finite values; NaN absorbs -/

/-- The signed integer numerator of a finite value at exponent e. -/
def atExp (neg : Bool) (mag : Nat) (exp e : Int) : Int :=
  let n : Int := mag * 2 ^ (exp - e).toNat
  if neg then -n else n

/-- A value from a signed integer at exponent e; zero takes the given sign. -/
def ofInt (n : Int) (e : Int) (zeroNeg : Bool) : Fl := .fin (if n = 0 then zeroNeg else n < 0) n.natAbs e

def Fl.add : Fl → Fl → Fl
  | .fin a m e, .fin b n d =>
    let l := min e d
    ofInt (atExp a m e l + atExp b n d l) l (a && b)
  | .inf a, .inf b => if a = b then .inf a else .nan
  | .inf a, .fin .. | .fin .., .inf a => .inf a
  | _, _ => .nan

def Fl.neg : Fl → Fl
  | .fin a m e => .fin (!a) m e
  | .inf a => .inf (!a)
  | .nan => .nan

def Fl.sub (x y : Fl) : Fl := x.add y.neg

def Fl.mul : Fl → Fl → Fl
  | .fin a m e, .fin b n d => .fin (a != b) (m * n) (e + d)
  | .inf a, .inf b => .inf (a != b)
  | .inf a, .fin b m _ | .fin b m _, .inf a => if m = 0 then .nan else .inf (a != b)
  | _, _ => .nan

/-- A quotient of magnitudes with enough bits below the rounding position, the last one sticky. -/
def quotient (m n : Nat) : Nat × Int :=
  let k := 64 + Nat.log2 n - min (64 + Nat.log2 n) (Nat.log2 m)
  (2 * (m * 2 ^ k / n) + (if m * 2 ^ k % n = 0 then 0 else 1), -(k : Int) - 1)

/-- x ÷ y for a finite y that is not 0; a division by 0 gives NaN here and is treated by each user. -/
def Fl.div : Fl → Fl → Fl
  | .fin a m e, .fin b n d =>
    if n = 0 then .nan
    else
      let (q, k) := quotient m n
      .fin (a != b) q (e - d + k)
  | _, _ => .nan

/-- x < y for values that are not NaN. -/
def Fl.lt : Fl → Fl → Bool
  | .fin a m e, .fin b n d =>
    let l := min e d
    atExp a m e l < atExp b n d l
  | .inf true, .inf true => false
  | .inf true, _ => true
  | .fin .., .inf false => true
  | _, _ => false

def Fl.isNan : Fl → Bool
  | .nan => true
  | _ => false

def Fl.zero : Fl := .fin false 0 0

/-- The exact sum of a list (rounded once by its user). -/
def Fl.sum (l : List Fl) : Fl := l.foldl Fl.add .zero

/-- Round to binary32, dropping the S flag. -/
def f32 (x : Fl) : Nat := (binary32.round x).1
def f32v (c : Nat) : Fl := binary32.decode c

/-- Round to an integer, ties to even. -/
def Fl.toInt : Fl → Int
  | .fin a m e =>
    let n := if 0 ≤ e then m * 2 ^ e.toNat else roundShift m (-e).toNat
    if a then -(n : Int) else n
  | _ => 0

/-- R327: the integer, and whether S is set. An infinite t clamps. -/
def quantise (v r : Fl) (lim : Nat) : Int × Bool :=
  if v.isNan || r.isNan then (0, true)
  else match v, r with
    | .fin .., .fin .. =>
      let c := binary32.codeOf (match v.mul r with | .fin _ m _ => m | _ => 0) (match v.mul r with | .fin _ _ e => e | _ => 0)
      let neg := match v.mul r with | .fin a _ _ => a | _ => false
      let q := if binary32.maxCode < c then (if neg then -(lim + 1 : Int) else lim + 1)
        else (f32v (c + b2n neg * 2 ^ 31)).toInt
      if (lim : Int) < q then (lim, true) else if q < -(lim : Int) then (-(lim : Int), true) else (q, false)
    | .inf a, .fin b m _ | .fin b m _, .inf a => if m = 0 then (0, true) else (if a != b then -(lim : Int) else lim, true)
    | .inf a, .inf b => (if a != b then -(lim : Int) else lim, true)
    | _, _ => (0, true)

/-! ### Elementary functions: a reference in fixed point, correctly rounded, moved by the device's error -/

/-- Fixed-point precision, and ln 2 in it (Σ 1 ÷ (k 2^k)). -/
def fx : Nat := 192
def ln2 : Nat := ((List.range 200).map fun k => 2 ^ fx / ((k + 1) * 2 ^ (k + 1))).sum

/-- Σ r^k ÷ k! in fixed point. -/
def expSeries (r : Nat) : Nat → Nat → Nat → Nat
  | 0, _, acc => acc
  | n + 1, term, acc =>
    let t := term * r / (2 ^ fx) / (61 - n)
    expSeries r n t (acc + t)

/-- e^x for a finite x, as an exact-looking value good to far more bits than binary32. -/
def expRef (x : Fl) : Fl :=
  match x with
  | .fin a m e =>
    if m = 0 then .fin false 1 0
    else if 8 ≤ e + Nat.log2 m then (if a then .fin false 1 (-400) else .fin false 1 400)
    else
      let v : Int := atExp a m (e + fx) 0
      let v : Int := if 0 ≤ e + fx then v else (if a then -1 else 1) * ((m : Int) / 2 ^ (-(e + fx)).toNat)
      let k := v / (ln2 : Int)
      let r := (v - k * ln2).toNat
      .fin false (expSeries r 61 (2 ^ fx) (2 ^ fx)) (k - fx)
  | .inf true => .zero
  | x => x

/-- Σ z^(2k+1) ÷ (2k+1) in fixed point. -/
def atanhSeries (z2 : Nat) : Nat → Nat → Nat → Nat → Nat
  | 0, _, _, acc => acc
  | n + 1, pw, d, acc => atanhSeries z2 n (pw * z2 / 2 ^ fx) (d + 2) (acc + pw / d)

/-- ln x for a finite x > 0. -/
def lnRef (x : Fl) : Fl :=
  match x with
  | .fin _ m e =>
    if m = 0 then .nan
    else
      let l := Nat.log2 m
      let y := m * 2 ^ fx / 2 ^ l
      let z := (y - 2 ^ fx) * 2 ^ fx / (y + 2 ^ fx)
      let a := 2 * atanhSeries (z * z / 2 ^ fx) 70 z 1 0
      ofInt ((a : Int) + (e + l) * ln2) (-(fx : Int)) false
  | x => x

/-- 1 ÷ √x for a finite x > 0. -/
def rsqrtRef (x : Fl) : Fl :=
  match x with
  | .fin _ m e =>
    let (m, e) := if e % 2 = 0 then (m, e) else (2 * m, e - 1)
    let k := 128 + Nat.log2 m
    .fin false (2 * Nat.sqrt (2 ^ (2 * k) / m) + 1) (-(k : Int) - 1 - e / 2)
  | x => x

/-- Move a binary32 code by up to 2 units in the last place, as the device's fixed approximation does. -/
def approx (f : Nat) (x : Nat) (c : Nat) : Nat :=
  let d : Int := (Config.approxUlp f (w32 x)).val - 2
  let m : Int := (c % 2 ^ 31 : Nat)
  let m' := max 0 (min (m + d) 0x7F7FFFFF)
  c / 2 ^ 31 * 2 ^ 31 + m'.toNat

/-- An approximation: the binary32 code and whether S is set; a value beyond the largest finite one saturates. -/
def approxOf (f : Nat) (c : Nat) (ref : Fl) : Nat × Bool :=
  let r := binary32.round ref
  if r.2 then r else (approx f c r.1, false)

/-- The approximations, on binary32 codes of finite operands in their domains. -/
def expApprox (c : Nat) : Nat × Bool := approxOf 0 c (expRef (f32v c))
def rsqrtApprox (c : Nat) : Nat × Bool := approxOf 1 c (rsqrtRef (f32v c))
def recipApprox (c : Nat) : Nat × Bool := approxOf 2 c ((Fl.fin false 1 0).div (f32v c))
def siluApprox (c : Nat) : Nat × Bool :=
  let x := f32v c
  let d := (Fl.fin false 1 0).add (expRef x.neg)
  approxOf 3 c (x.div d)
def lnApprox (c : Nat) : Nat := (approxOf 4 c (lnRef (f32v c))).1

end Sys2Proof.Machine
end

