-- ==== Sys2Proof/Machine/State.lean ====
section
/-! DEFINITION. The state of the OXN-340 as plain data: one structure per unit, its registers and buffers under
the spec's names, and `State.reset`, the machine right after the release of PORST_N. -/

namespace Sys2Proof.Machine

/-- Why the block stops. No row of the table does: every command answers a next state (R204 to R208 report what
goes wrong in records, statuses, latches and halts). Safe: the model never uses it. -/
inductive Fault where
  /-- Raised by nothing; safe. -/
  | none
  deriving DecidableEq, Repr

/-- Why a command has no meaning. -/
inductive Refusal where
  /-- Raised by an arm of `exec` whose command has no meaning yet; safe, since nothing is claimed of it. -/
  | notModelled (mnemonic : String)
  deriving DecidableEq, Repr

/-! ### Pins, fuses and what is loaded from them -/

/-- OTP contents, programmed at manufacture and by FUSE_COMMIT (R12, R89, R100, R134). They survive PORST_N. -/
structure Fuses where
  dram : BitVec 2
  flash : BitVec 2
  grade : Bool
  serial : BitVec 64
  rollback : Nat
  revoked : BitVec 4
  keyHash : List (List Byte)
  deriving DecidableEq, Repr

/-- The start-up stages (R79). -/
inductive Stage where
  | otp | scoreRead | scoreVerify | islands | train | preload | full | mute
  deriving DecidableEq, Repr

/-! ### GLB: identity, resets, windows (R12, R134) -/

/-- One host window: the staged and the committed base, and the length in MiB (R128, R133). -/
structure HostWin where
  loW : Word
  hiW : Word
  base : Nat
  len : Nat
  deriving DecidableEq, Repr

structure Glb where
  loaded : Bool
  serial : BitVec 64
  porst : Bool
  perst : Bool
  flr : Bool
  unmLogged : BitVec 8
  unmOffset : Nat
  unmPart : Part
  unmWrite : Bool
  winEn : Bool
  winOutside : Bool
  winLo : Word
  winHi : Nat
  winBase : Nat
  hwin : Vector HostWin 8
  deriving DecidableEq, Repr

/-! ### BRG: the breath governor (02) -/

/-- A grant held (R38): who, under which tag, since when. -/
structure Grant where
  id : Nat
  unit : Consumer
  tag : Tag
  since : Nat
  deriving DecidableEq, Repr

/-- A request that waits (R40). -/
structure Waiting where
  unit : Consumer
  tag : Tag
  since : Nat
  deriving DecidableEq, Repr

/-- One ledger: grants, waiting requests, the totals of the last microsecond with their instants, newest
first, the over-current state and the registers that follow the total. -/
structure LedgerSt where
  grants : List Grant
  reqs : List Waiting
  hist : List (Nat × Nat)
  ocRun : Nat
  oc : Bool
  peak : Nat
  meas : Nat
  deriving DecidableEq, Repr

structure Brg where
  ceil : Nat
  ceilLow : Nat
  slope : Nat
  ioCeil : Nat
  ioCeilLow : Nat
  ioSlope : Nat
  margin : Nat
  lim : Bool
  starved : BitVec 8
  partMin : Vector Nat 8
  partMax : Vector Nat 8
  core : LedgerSt
  io : LedgerSt
  nextId : Nat
  deriving DecidableEq, Repr

/-! ### ISL: the clock islands (03) -/

/-- The four states of an island, with the code of ISL_STATE. -/
inductive IslSt where
  | run | gated | collapsed | fault
  deriving DecidableEq, Repr

/-- One island: its state, whether its last judged window was out of range, whether its next window is its
first after a start, the good windows still wanted by a re-qualification and whether its clock has started, and
ISL_FREQ. -/
structure IslandSt where
  st : IslSt
  bad : Bool
  fresh : Bool
  requal : Option Nat
  ramped : Bool
  meas : Nat
  target : Nat
  deriving DecidableEq, Repr

/-- The islands and the ISL registers. `acts` are the writes (offset, value) to units whose island does not run, which they
act on when it next runs (R60). -/
structure Isl where
  each : Vector IslandSt 32
  acts : List (Nat × Word)
  fault : BitVec 32
  spread : BitVec 2
  spreadActive : BitVec 2
  keep : Word
  pair : BitVec 8
  causeIsland : Island
  causeKind : BitVec 2
  discard : Bool
  refLost : Bool
  aonBad : Bool
  deriving DecidableEq, Repr

/-! ### TBS: the time base (03) -/

/-- An alarm (R72); `fresh` from the commit of a new value to the next increment of TBS_NOW (R77). -/
structure Alarm where
  value : Nat
  stagedLo : Word
  period : Nat
  fresh : Bool
  armed : Bool
  fired : Bool
  deriving DecidableEq, Repr

/-- The lock states of R73, in the order of their codes. -/
inductive LockSt where
  | standalone | leader | seek | align | locked | holdover | free
  deriving DecidableEq, Repr

/-- The time base. `resid` is the phase error left after the last downbeat: 0 where it caused a step. -/
structure Tbs where
  now : Nat
  cycle : Nat
  acc : Int
  trim : Int
  crossed : Bool
  hiShadow : Word
  set : Nat
  lock : LockSt
  hops : Nat
  miss : Nat
  phase : Int
  resid : Int
  alarms : Vector Alarm 2
  dbCount : Word
  goodRun : Nat
  loadedLeft : Nat
  deriving DecidableEq, Repr

/-! ### BSC: start-up and the accepted score (04) -/

/-- An entry of the PARTITIONS section (R91). -/
structure PartCfg where
  cls : Nat
  dramUnits : Nat
  strips : Nat
  sectionUnits : Nat
  slots : BitVec 32
  voiceShare : Nat
  breathMin : Nat
  breathMax : Nat
  patience : Nat
  hushWindow : Nat
  partialInt : Nat
  sessions : Nat
  deriving DecidableEq, Repr

/-- A slot of the FLASH section (R93). -/
structure SlotCfg where
  slot : Nat
  first : Nat
  count : Nat
  deriving DecidableEq, Repr

/-- An entry of the PRELOAD section (R96). -/
structure PreloadCfg where
  slot : Nat
  part : Part
  handle : Handle
  pin : Bool
  degraded : Bool
  modelId : Nat
  deriving DecidableEq, Repr

/-- The EARLY section (R97). -/
structure EarlyCfg where
  slot : Nat
  parts : BitVec 8
  sessions : Nat
  modelId : Nat
  deriving DecidableEq, Repr

/-- The ENSEMBLE section (R94). -/
structure EnsCfg where
  device : Nat
  leader : Bool
  hops : Nat
  ports : BitVec 4
  route : List Nat
  deriving DecidableEq, Repr

/-- The DRAM section (R92). -/
structure DramCfg where
  rate : Nat
  order0 : Nat
  order1 : Nat
  hazard : BitVec 16
  idle : Nat
  postpone : Nat
  scrubH : Nat
  deriving DecidableEq, Repr

/-- The BREATH section (R90). -/
structure BreathCfg where
  ceil : Nat
  ceilLow : Nat
  slope : Nat
  ioCeil : Nat
  ioCeilLow : Nat
  ioSlope : Nat
  margin : Nat
  oppoint : Nat
  deriving DecidableEq, Repr

/-- A score whose fields have been read (R87 to R98). -/
structure Score where
  version : Nat
  build : BitVec 64
  fw : Word
  debugUnlock : Bool
  commit : Bool
  revoke : BitVec 4
  keySlot : Nat
  breath : BreathCfg
  parts : Vector (Option PartCfg) 8
  dram : DramCfg
  dies : Nat
  slots : List SlotCfg
  ens : Option EnsCfg
  queueMode : Bool
  routes : List Nat
  preload : List PreloadCfg
  early : Option EarlyCfg
  spread : BitVec 2
  noCollapse : Word
  deriving DecidableEq, Repr

/-- The SPI pins of the score's NOR (R86): in use, with SPI_CS_N high and SPI_CLK stopped, or in high impedance. -/
inductive SpiSt where
  | used | idle | highZ
  deriving DecidableEq, Repr

/-- The sequencer of start-up and the BSC registers (R113). `header` is the header of the copy in hand and
`image` its bytes; `tries` are the copies still to try, true for B. -/
structure Bsc where
  stage : Stage
  spi : SpiSt
  percent : Nat
  early : Bool
  drain : Bool
  copy : Bool
  unit : Nat
  layer : Nat
  offset : Nat
  joined : BitVec 16
  tEarly : Word
  tFull : Word
  bootSel : BitVec 2
  trainFail : Bool
  earlyFail : Bool
  aReason : Nat
  bReason : Nat
  muteCause : Nat
  muteIsland : Island
  version : Nat
  fw : Word
  build : BitVec 64
  rollback : Nat
  revoked : BitVec 4
  debugOk : Bool
  earlyDropped : Nat
  updStep : Nat
  updPercent : Nat
  tries : List Bool
  header : List Byte
  image : List Byte
  preloadIdx : Nat
  deriving DecidableEq, Repr

/-! ### The host link (05) -/

/-- One entry of the MSI-X table. -/
structure MsixEntry where
  lo : Word
  hi : Word
  data : Word
  masked : Bool
  deriving DecidableEq, Repr

/-- What leaves the device towards the host, the peers, the board and the devices it commands. -/
inductive Msg where
  /-- a posted write to a host bus address -/
  | write (addr : Nat) (data : List Byte)
  /-- a read request of the host-interface engine -/
  | readReq (addr len : Nat)
  | msix (vector : Fin 2) (addr : Nat) (data : Word)
  | pme (source : Source)
  /-- an AER error message: correctable, non-fatal or fatal -/
  | aer (severity : Nat)
  | ltr (requirementNs : Option Nat)
  /-- a BAR0 read completion -/
  | bar0 (offset : Nat) (value : Word)
  /-- what a channel answers a read with (R240); `none` is uncorrectable -/
  | dram (req : DmcReq) (data : Option (List Byte))
  /-- a BAR2 read completion; `none` is poisoned -/
  | bar2 (offset : Nat) (data : Option (List Byte))
  /-- an Unsupported Request completion -/
  | unsupported
  /-- a configuration completion; `none` is Configuration Request Retry Status -/
  | config (value : Option Nat)
  /-- an ensemble packet; `bad` when an injection inverted its CRC (R473) -/
  | packet (port : Port) (pkt : Packet) (bad : Bool)
  /-- this many bytes of a copy of the score's NOR are erased, true for B -/
  | norErase (copyB : Bool) (len : Nat)
  /-- bytes programmed to a copy of the score's NOR, true for B -/
  | norWrite (copyB : Bool) (image : List Byte)
  /-- an AVSBus voltage write in mV -/
  | avs (mv : Nat)
  | tdo (bits : List Bool)
  deriving DecidableEq, Repr

/-- What the host sent through BAR2 that waits for its grant (R124), in the order received: a read with its BAR2 offset and
device address, a write to a device address; and a read completion that stands behind them (R125). -/
inductive HostReq where
  | read (offset addr len : Nat)
  | write (addr : Nat) (data : List Byte)
  | reply (m : Msg)
  deriving DecidableEq, Repr

/-- The PCI Express function (R114 to R118): the state of the link with its equalisation results, the fields of configuration
space, the AER registers, MSI-X, and BAR2 requests that wait. Names without a comment are those of the PCI Express registers
(log entry 6). -/
structure Link where
  perst : Bool
  up : Bool
  l1 : Bool
  l2 : Bool
  speed : Nat
  width : Nat
  eq : Nat
  mse : Bool
  bme : Bool
  command : Word
  cacheLine : Nat
  d3 : Bool
  pmeEn : Bool
  pmeStatus : Bool
  msixEn : Bool
  msixMask : Bool
  msix : Vector MsixEntry 2
  pba : BitVec 2
  ltrEn : Bool
  ltrSent : Option Nat
  ltrMax : Word
  devCtl : BitVec 4
  devStatus : BitVec 4
  linkCtl : Word
  linkCtl2 : Word
  mps : Nat
  mrrs : Nat
  cto : Nat
  ctoDis : Bool
  tag10 : Bool
  ecrcGen : Bool
  ecrcChk : Bool
  l1ss1 : Word
  l1ss2 : Word
  bar0 : Nat
  bar2 : Nat
  intLine : Nat
  aerStatus : Word
  aerMask : Word
  aerSeverity : Word
  aerCor : Word
  aerCorMask : Word
  aerFirst : Nat
  aerHeader : Nat
  flrBusy : Bool
  wakeN : Bool
  held : List HostReq
  deriving DecidableEq, Repr

/-! ### HIF: rings and records (06, 08) -/

/-- A ring in host memory (R150, R153). `base` is the base in use, taken when the ring is enabled. -/
structure Ring where
  lo : Word
  hi : Word
  base : Nat
  size : Nat
  head : Nat
  tail : Nat
  phase : Bool
  dbBad : Bool
  fullCount : Nat
  deriving DecidableEq, Repr

/-- A completion record without its phase (R200), and the command that it belongs to; `held` when it found no room (R155). -/
structure CompRec where
  status : Nat
  opcode : Nat
  tag : Nat
  ctx : Nat
  admission : Nat
  early : Bool
  detail : Nat
  queuedUs : Nat
  payload : List Byte
  breathUs : Nat
  cmd : Nat
  held : Bool
  deriving DecidableEq, Repr

/-- An error-queue record without LOST and PHASE (R207). -/
structure ErrRec where
  kind : Nat
  part : Nat
  tag : Nat
  ctx : Nat
  opcode : Nat
  unit : Nat
  time : Nat
  arg0 : Nat
  arg1 : Nat
  arg2 : Nat
  deriving DecidableEq, Repr

/-- The HIF page of one partition and what the host-interface engine holds for it (R155, R164, R220): records that wait,
and command output that waits for its burst, with its command and its device address (R16, R168). `asked` are the entries
whose read has been issued and not completed (R152). -/
structure Page where
  isOpen : Bool
  sq : Ring
  cq : Ring
  fetchStop : Bool
  fetchTries : Nat
  asked : Nat
  cqWait : List CompRec
  outWait : List (Nat × Nat × List Byte)
  userDram : Nat
  userStrips : Nat
  userSec : Nat
  lastTier : Nat
  lastShort : Nat
  deferMark : Nat
  resetting : Bool
  deriving DecidableEq, Repr

/-- The HIF global page. `errWait` is the backlog of R219 while the queue is disabled, and the records on
their way with the one held ready (R218) while it is enabled. -/
structure Hif where
  pages : Vector Page 8
  evq : Ring
  errq : Ring
  errWait : List ErrRec
  errLost : Nat
  errLostRun : Nat
  deferPeak : Nat
  earlyId : Nat
  deriving DecidableEq, Repr

/-! ### Objects, commands, sessions, models (06, 07, 08, 12, 17) -/

/-- Which KV page of a context (R395): of the target or the draft model, its layer (`none` for the token log)
and its index in the layer. -/
structure KvPage where
  draft : Bool
  layer : Option Nat
  idx : Nat
  deriving DecidableEq, Repr

/-- Who a load works for: a command, or a PRELOAD entry (R106). -/
inductive JobFor where
  | cmd (id : Nat) | preload (idx : Nat)
  deriving DecidableEq, Repr

/-- The objects of the charge table (R142). `model h (some j)` and `strips h (some j)` belong to a load
that is not yet accepted and to a swap's extra units; `mask m (some id)` to the MASK_LOAD that checks its bytes. -/
inductive ObjKind where
  | model (h : Handle) (load : Option JobFor)
  | kv (ctx : Nat) (page : KvPage)
  | hush (ctx : Nat)
  | mask (m : Fin 32) (load : Option Nat)
  | strips (h : Handle) (load : Option JobFor)
  | row (cmd : Nat)
  | voices (cmd : Nat)
  | session (ctx : Nat)
  deriving DecidableEq, Repr

/-- One allocated object: its owner, its tier code, and its extents (first unit, units) in the tier's unit. -/
structure Obj where
  part : Part
  tier : Nat
  kind : ObjKind
  ext : List (Nat × Nat)
  deriving DecidableEq, Repr

/-! ### EVC (09) -/

structure Evc where
  claimMode : Bool
  irqEn : Bool
  inServ : Option Source
  latch : BitVec 64
  mask : BitVec 64
  armed : BitVec 64
  routeHost : BitVec 64
  routeCpu : BitVec 64
  pend : BitVec 64
  count : Vector Nat 64
  time : Vector Nat 64
  deriving DecidableEq, Repr

/-! ### Power, operating point, thermal, pads and JTAG (21) -/

/-- REST, DOZE, or working; SPEAK and FULL are told apart by the point in force (R499). -/
inductive PwrSt where
  | rest | doze | on
  deriving DecidableEq, Repr

/-- A change of operating point in progress (R488): the AVSBus write is out, or the settling wait runs since an
instant. -/
inductive AvsPhase where
  | idle
  | writing (target : Nat)
  | settling (target since : Nat)
  deriving DecidableEq, Repr

structure Pwr where
  st : PwrSt
  waking : Option Nat
  idleSince : Nat
  dozeUs : Nat
  woke : Bool
  wakeSrc : Nat
  wake : BitVec 64
  req : Nat
  active : Nat
  clockPt : Nat
  chargePt : Nat
  avsPhase : AvsPhase
  thermal : Bool
  avsErr : Bool
  settle : Nat
  mv : Nat
  temp : Int
  sensor : Nat
  warn : Bool
  trip : Bool
  crit : Bool
  peak : Int
  warnAt : Nat
  pad : BitVec 11
  gpioOut : BitVec 8
  gpioOe : BitVec 8
  gpioIn : BitVec 8
  gpioWake : BitVec 8
  gpioFilter : BitVec 2
  gpioNoPull : BitVec 8
  deriving DecidableEq, Repr

/-- The JTAG instruction register, the DBG_REG data captured by the next Capture-DR, and the boundary
register (R498). -/
structure Jtag where
  ir : BitVec 8
  dr : BitVec 64
  boundary : List Bool
  driving : Bool
  deriving DecidableEq, Repr

/-- Where a fetched command stands (R211, R214): it waits unadmitted behind a FENCE or an earlier command of its
context (R148, R172); it holds a deferral entry, `judged` once its checks have been made and its quotas reserved; it is
admitted and its work has not started; it runs. -/
inductive CmdPhase where
  | waiting | deferred (judged : Bool) | ready | running
  deriving DecidableEq, Repr

/-- The progress of a work command (R179 to R185, R401): the input tokens; the committed position at its admission and
the positions that passes have fed; what the command has committed, with the log-probability of each entry; how
many entries its records have reported; the row that it holds in the batches of its models (R22, R23); the drafts of the round with their logits, and why no more are drafted; the
vectors of an EMBED's tokens (R185); the scores so far (log-probability, rank, flags, R184) and the copy of the automaton state that walks along them. -/
structure Work where
  input : List Nat
  inputRead : Bool
  start : Nat
  fed : Nat
  gen : List (Nat × Word)
  reported : Nat
  row : Option Nat
  accepted : Nat
  drafts : List Nat
  draftLogits : List (List Word)
  draftOver : Bool
  noDraft : Bool
  hidden : List (List Word)
  scored : List (Nat × Nat × Nat × Nat)
  scoreState : Option Nat
  deriving DecidableEq, Repr

/-- A command fetched and not completed (R211, R214). `input` holds what its DMA reads have brought of the
`inWant` bytes from the device address `inAddr`; reads of the first `inAsked` have been issued, the last of them with
`inHost` as the host bus address of `inAddr`; `attempt` the failed attempts of the present read (R132). `reserved`: it holds quota
reservations (R212); `madeCtx` and `boundCtx`: its admission created its session, or bound the model to it; `mark`: the
number of the next command to be fetched at the admission of an eviction (R176). A reset leaves a flash or
score command `silent`: it runs to its end without a record (R130). -/
structure Cmd where
  id : Nat
  part : Part
  entry : List Byte
  ringIdx : Nat
  readAt : Nat
  phase : CmdPhase
  admission : Nat
  early : Bool
  deadline : Nat
  lastShort : Nat
  waitFrom : Option Nat
  queuedNs : Nat
  breathNs : Nat
  input : List Byte
  inAddr : Nat
  inWant : Nat
  inAsked : Nat
  inHost : Nat
  attempt : Nat
  work : Work
  count : Nat
  mark : Nat
  reserved : Bool
  madeCtx : Bool
  boundCtx : Bool
  silent : Bool
  deriving DecidableEq, Repr

/-! ### Sessions and masks (R145, R189, R394, R408, R409) -/

inductive CtxSt where
  | new | live | hushed | out
  deriving DecidableEq, Repr

/-- The session state of a context (R145, R394). `num` is the context number, or a key above 2^32 of a
transient session of context 0 (R146). `image` is the length of a hush image in stacked memory (R417). `mstate` is the automaton state; `draft` the draft binding (R398); `early` marks early session state (R110). -/
structure Ctx where
  part : Part
  num : Nat
  st : CtxSt
  model : Option ModelRef
  pos : Nat
  log : List Nat
  mask : Option (Fin 32)
  mstate : Nat
  draft : Option (Handle × Nat)
  image : Option Nat
  early : Bool
  idleSince : Nat
  deriving DecidableEq, Repr

/-- A state of a grammar automaton and one of its edges (R408). -/
structure AutoState where
  first : Nat
  count : Nat
  accept : Bool
  deriving DecidableEq, Repr

structure AutoEdge where
  lo : Nat
  hi : Nat
  next : Nat
  deriving DecidableEq, Repr

/-- A loaded mask (R408, R409). -/
inductive Mask where
  | automaton (states : List AutoState) (edges : List AutoEdge) (start vocab eos : Nat)
  | list (tokens : List Nat) (vocab : Nat)
  deriving DecidableEq, Repr

/-! ### Horte images and resident models (11, 12) -/

/-- The split record of a part image (R436); `none` when STAGES is 1. -/
structure Split where
  stages : Nat
  stage : Nat
  first : Nat
  last : Nat
  devices : List Nat
  id : Nat
  deriving DecidableEq, Repr

/-- The header of a Horte image (R275), with the split record of its layer plan. -/
structure ImgHdr where
  imageLen : Nat
  modelId : Nat
  residentLen : Nat
  tensorCount : Nat
  shardOff : Nat
  shardCount : Nat
  sigOff : Nat
  dataOff : Nat
  layers : Nat
  hidden : Nat
  vocab : Nat
  contextMax : Nat
  kvPerToken : Nat
  eos : Nat
  rowUnits : Nat
  minStrips : Nat
  split : Option Split
  deriving DecidableEq, Repr

structure Tensor where
  layer : Nat
  kind : Nat
  format : Nat
  group : Nat
  gathered : Bool
  rows : Nat
  cols : Nat
  first : Nat
  shards : Nat
  off : Nat
  deriving DecidableEq, Repr

structure Shard where
  tensor : Nat
  layer : Nat
  length : Nat
  offset : Nat
  crc : Nat
  packets : Nat
  sha : List Byte
  deriving DecidableEq, Repr

/-- STATE of R178; `empty` for a handle without a model. -/
inductive ModelSt where
  | empty | loading | resident | degraded | swapping | evicting
  deriving DecidableEq, Repr

/-- How a read of a shard ended (R270, R282). -/
inductive ShardRead where
  | good (data : List Byte)
  | damaged
  | transferFailed
  deriving DecidableEq, Repr

/-- A repair (R295): the shard, the next image page of it, the re-reads (R270), the bytes read, and how its read ended. -/
structure Repair where
  shard : Nat
  page : Nat
  attempt : Nat
  buf : List Byte
  got : Option ShardRead
  deriving DecidableEq, Repr

/-- A resident model handle (R144, R178, R295, R309). `units` are the granule extents of its resident space, in order; `slot`
where it was loaded or last swapped from; `repairing` the repair that runs (R295);
`barrier` is up while a swap writes (R302). `plan` is the layer plan, known from its first pass on, and `streamed` the number of
strip loads of the passes that have ended (R290). -/
structure Model where
  st : ModelSt
  owner : Part
  pinned : Bool
  hdr : ImgHdr
  tensors : List Tensor
  shards : List Shard
  units : List (Nat × Nat)
  slot : Option (Fin 32)
  badLayers : List Nat
  front : Nat
  lastUse : Nat
  repairing : Option Repair
  barrier : Bool
  plan : List StripLoad
  streamed : Nat
  deriving DecidableEq, Repr

/-- What a load reads, and the phases of a swap (R280, R300). -/
inductive JobStage where
  | header | tables | shards | verify | write | revert
  deriving DecidableEq, Repr

/-- A load or swap in progress. `slot` is its source slot, else the image lies in host memory at `addr`; `buf`
holds the bytes of the header, the tables or the shard being read and `page` the next image page; `attempt`
counts the re-reads of the shard (R270), whose read has ended as `got` says while SWAP_VERIFY_END or SWAP_SHARD_WRITTEN is
still to come; `bad` are the layers found bad; `units` the new model's extents; `revSlot`
is the reversion source of a swap (R299), `failedAt` the first layer that failed, `frontAt` the swap front then and `written` the
shards written until a revert; `orphan` marks a swap whose command a reset ended (R307). -/
structure Job where
  owner : JobFor
  h : Handle
  part : Part
  swap : Bool
  stage : JobStage
  slot : Option (Fin 32)
  addr : Nat
  len : Nat
  modelId : Nat
  pin : Bool
  degraded : Bool
  hdr : ImgHdr
  tensors : List Tensor
  shards : List Shard
  units : List (Nat × Nat)
  strips : Nat
  shard : Nat
  page : Nat
  attempt : Nat
  buf : List Byte
  got : Option ShardRead
  done : Nat
  bad : List Nat
  staging : Bool
  revSlot : Option (Fin 32)
  failedAt : Option Nat
  frontAt : Nat
  written : Nat
  orphan : Bool
  deriving DecidableEq, Repr

/-! ### Passes, strips, the streamer and the aperture (01, 12, 17) -/

/-- What a row of a pass carries (R399). -/
inductive RowKind where
  | prefill (n : Nat)
  | decode
  | verify
  | draft (n : Nat)
  deriving DecidableEq, Repr

/-- A row of a running pass: its command and the key of its session, its position in the batch (R23), what it carries. -/
structure PassRow where
  cmd : Nat
  part : Part
  key : Nat
  pos : Nat
  kind : RowKind
  deriving DecidableEq, Repr

/-- A running pass (R21, R22): its rows and voices, what paces it, the waits of its pacing lanes (R45), and the
failure of a weight read (R294) or of a unit (R65) that ends its commands, or some of them (R250): status and
DETAIL; the voices that an uncorrectable read has halted, and RUNAHEAD_MAX at its start (R293). Of a split pass: its PASS number, the stages that have reported its end, and their breath-wait time
(R438). -/
structure Pass where
  model : ModelRef
  rows : List PassRow
  voices : List Voice
  mirrored : Bool
  pacing : Pacing
  waitNs : Nat
  since : Nat
  failure : Option (Nat × Nat)
  rowFail : List (Nat × Nat × Nat)
  halted : List Voice
  runahead : Nat
  num : Nat
  stagesDone : List Nat
  stageWait : Nat
  deriving DecidableEq, Repr

inductive StripSt where
  | free | filling | ready | inUse
  deriving DecidableEq, Repr

/-- A window strip: its state, the model whose window it is in, the number of the strip load it took last (from 1); the
bytes of the load that bursts have moved, those of them that the prism has decoded, and the bytes that have landed; whether its
last packet or block failed once, since when a voice has stalled on it, and the voices that have read it and those that have
signalled done (R289, R294). -/
structure Strip where
  st : StripSt
  owner : Option ModelRef
  load : Nat
  fetched : Nat
  taken : Nat
  filled : Nat
  retry : Bool
  stallFrom : Option Nat
  readBy : BitVec 16
  doneBy : BitVec 16
  deriving DecidableEq, Repr

/-- The STR block (R309) beside the strips and models. -/
structure Str where
  runaheadMax : Nat
  autoEvict : BitVec 8
  fills : Nat
  stall : Nat
  repaired : Nat
  badRepairs : Nat
  deriving DecidableEq, Repr

/-- The APT block (R421): live counters, and their snapshot. -/
structure Apt where
  live : Vector Nat 8
  snap : Vector Nat 8
  auto : Nat
  deadState : Nat
  deadPart : Part
  deadValid : Bool
  deadCtx : Nat
  deriving DecidableEq, Repr

/-! ### The flash (11) -/

/-- A block of the array: retired, program and erase count, page reads since the last program, the mark of
refresh with its reason, the preferred read-retry offset, and pages flagged uncorrectable (R269, R271, R272). -/
structure NandBlock where
  num : Nat
  retired : Bool
  pe : Nat
  reads : Nat
  mark : Nat
  offset : Nat
  flagged : List Nat
  deriving DecidableEq, Repr

/-- A slot's record in the metadata (R268): its state code, the image length and identifier. -/
structure SlotSt where
  st : Nat
  len : Nat
  id : Nat
  deriving DecidableEq, Repr

/-- The NAND and its metadata, which survive PORST_N (R129). `pages` are the programmed pages by page number;
`blocks` lists the blocks that differ from a fresh one; `remap` the replaced blocks (R272); `pool` the free
blocks of the refresh pool. -/
structure Nand where
  pages : List (Nat × List Byte)
  blocks : List NandBlock
  slots : Vector SlotSt 32
  remap : List (Nat × Nat)
  pool : List Nat
  deriving DecidableEq, Repr

/-- A write or erase in progress (R273, R274): the command, the slot, the position in the pass, the bytes of the
item in hand, the restarts, the blocks retired, those still to erase and the number done; `fail` is the status and DETAIL with
which it ends once its blocks are erased. -/
structure FlashOp where
  cmd : Nat
  erase : Bool
  slot : Fin 32
  checking : Bool
  clearing : Bool
  hdr : ImgHdr
  shards : List Shard
  tables : List Byte
  shard : Nat
  page : Nat
  buf : List Byte
  restarts : Nat
  retired : Nat
  blocks : List Nat
  done : Nat
  fail : Option (Nat × Nat)
  deriving DecidableEq, Repr

/-- The FLC block (R286). `patrolAt` is when the last patrol ended, and `early` the pages of the early model's image that have
been read for the streamer, each with its uncorrectable codewords. -/
structure Flc where
  ready : Bool
  metaLost : Bool
  fail : Bool
  op : Option FlashOp
  lastStatus : Nat
  lastSlot : Fin 32
  lastValid : Bool
  lastRetired : Nat
  lastId : Nat
  recovered : Nat
  uncorr : Nat
  limit : Nat
  patrol : Nat
  patrolAt : Nat
  early : List (Nat × List Nat)
  refreshes : Nat
  deriving DecidableEq, Repr

/-! ### Memory: section, window and stacked memory by device address (R126) -/

/-- Bytes that differ from 0, by rising device address; an unlisted byte reads 0 (log entry 7). -/
abbrev Memory := List Host.Cell

/-! ### The stacked-memory controllers (10) -/

/-- The open row of a bank: its number, and the words of the check register that differ from DRAM, by data burst (R247). -/
structure OpenRow where
  row : Nat
  words : List (Nat × BitVec 16)
  deriving DecidableEq, Repr

/-- A queued request, the instant of its acceptance, and what R240 answers a read with: the bytes, and the uncorrectable blocks;
`partialWait` while it waits under R244. -/
structure Queued where
  req : DmcReq
  since : Nat
  value : List Byte
  lost : List (Nat × Nat)
  partialWait : Bool
  deriving DecidableEq, Repr

/-- A channel: training (R254), requests in acceptance order (R240), the write batch (R241), the open rows,
hazard mode (R243, R244), refresh (R251 to R253), retraining (R255, R256), its counters. `checks` are the check words written back since ECC initialisation, by bank, row, burst and
byte (R246). -/
structure Channel where
  step : Nat
  attempt : Nat
  joined : Bool
  failed : Bool
  ms : Nat
  queue : List Queued
  batch : Bool
  openRows : Vector (Option OpenRow) 16
  checks : List ((Nat × Nat × Nat × Nat) × BitVec 16)
  fwd : Bool
  rate : Nat
  halfNext : Bool
  acc : Nat
  owed : Nat
  pairNext : Nat
  hot : Bool
  dead : Bool
  retraining : Bool
  tries : Nat
  ce : Nat
  link : Nat
  ue : Nat
  live : Vector Nat 8
  snap : Vector Nat 8
  deriving DecidableEq, Repr

/-- One controller: the DMC registers (R261), its slot (R251) and its self-refresh (R258): `down` with the PHY powered down. -/
structure Dmc where
  staged : BitVec 8
  idle : Nat
  mode : Bool
  modeNow : Bool
  postpone : Nat
  sr : Bool
  down : Bool
  exiting : Bool
  slot : Nat
  period : Nat
  retrains : Nat
  errAddr : Nat
  errChannel : Nat
  errSource : Nat
  errKind : Nat
  errValid : Bool
  hours : Nat
  posChannel : Nat
  posBank : Nat
  posRow : Nat
  posBurst : Nat
  passes : Word
  chans : Vector Channel 8
  deriving DecidableEq, Repr

/-! ### Voices, sections and KERNEL sets (14) -/

/-- A tile register: EMPTY, or LIVE with its descriptor (R333, R335). `data` are its bytes; bytes beyond its end
are 0. -/
structure Tile where
  live : Bool
  rows : Nat
  cols : Nat
  fmt : Nat
  data : List Byte
  deriving DecidableEq, Repr

inductive AccKind where
  | empty | int32 | fp32
  deriving DecidableEq, Repr

/-- An accumulator; element (i, j) is word 32 × i + j. -/
structure Accum where
  kind : AccKind
  data : List Word
  deriving DecidableEq, Repr

/-- What a voice serves (VCE_STATUS.STATE). -/
inductive VoiceRun where
  | free
  | pass (m : ModelRef)
  | set (cmd : Nat) (idx : Nat)
  | held
  deriving DecidableEq, Repr

/-- What a voice waits for (R388 to R390), with the instant at which it began to wait for the array grant. -/
inductive VoiceWait where
  | none | bar | event
  deriving DecidableEq, Repr

/-- A voice: the architectural state of R329, the latches of R340, what it serves and waits for, and the VCE
registers of R346. -/
structure VoiceSt where
  s : Vector Word 16
  p : BitVec 4
  pc : Nat
  v : Bool
  z : Bool
  sat : Bool
  tiles : Vector Tile 16
  accs : Vector Accum 4
  sc : List (BitVec 16)
  code : List Word
  latchA : Option (Fin 16)
  latchB : Option (Fin 16)
  run : VoiceRun
  wait : VoiceWait
  arrayFrom : Option Nat
  stopped : Bool
  hold : Bool
  cause : Nat
  element : Nat
  elValid : Bool
  tile : Nat
  detail : Nat
  overrun : Bool
  valid : Bool
  haltPc : Nat
  haltWord : Word
  haltAddr : Nat
  reuseA : Nat
  reuseB : Nat
  tmma : Nat
  arrayWait : Nat
  preempt : Nat
  dbgItem : Nat
  dbgHalf : Bool
  deriving DecidableEq, Repr

/-- The VCE_SEC registers of a section (R342). -/
structure SectionSt where
  ce : Word
  ue : Word
  conflict : Word
  ueAddr : Nat
  deriving DecidableEq, Repr

/-- A KERNEL set that has been given its voices (R192, R193): in set order, the instants of its first start and of
its start or last restore, the voices that it was given last, and the save records of a preempted set (R338). `stopping`
while the stop of a preemption is ordered. -/
structure KSet where
  cmd : Nat
  part : Part
  mirror : Bool
  voices : List Voice
  startedAt : Nat
  resumedAt : Nat
  given : List Voice
  stopping : Bool
  saved : List VoiceSt
  deriving DecidableEq, Repr

/-! ### Prism (13), mirror checkers (19), vibrato (20) -/

/-- The PRZ block (R328): live counters and their snapshot. Blocks in decode and in the input buffer are the
prism's grants and waiting requests. -/
structure Prz where
  live : Vector Nat 4
  snap : Vector Nat 4
  damage : Nat
  damageCause : Nat
  damageSub : Nat
  damageAddr : Nat
  pktFail : Nat
  pktCause : Nat
  deriving DecidableEq, Repr

/-- MIR_PAIR.STATE (R467). -/
inductive PairSt where
  | unformed | formed | mismatch | comparator | requal | failed
  deriving DecidableEq, Repr

structure PairState where
  st : PairSt
  mismatches : Nat
  requals : Nat
  /-- The instant of the last probe, and the period from it to the next (R452, R465). -/
  probeAt : Nat
  per : Nat
  deriving DecidableEq, Repr

structure Mir where
  period : Nat
  model : BitVec 64
  probes : Nat
  aon : Nat
  checksPrism : Nat
  checksApt : Nat
  lastPair : Nat
  lastKind : Nat
  lastUnit : Nat
  lastValid : Bool
  lastPc : Nat
  lastDiff : BitVec 64
  pairs : Vector PairState 8
  deriving DecidableEq, Repr

/-- Vibrato: the unlock sequence, the run, the settings, and the block whose re-read a REPEAT also alters. -/
structure Vib where
  keyAt : Option Nat
  unlocked : Bool
  runFrom : Option Nat
  applied : Nat
  missed : Nat
  ms : Nat
  hsMask : Word
  hsDelay : Nat
  bpLen : Nat
  bpPeriod : Nat
  brgDelay : Nat
  brgCore : Bool
  brgIo : Bool
  stretch : Nat
  channels : BitVec 16
  target : Nat
  count : Nat
  interval : Nat
  unit : Nat
  rep : Bool
  part : BitVec 8
  bit : Nat
  lastAt : Option Nat
  again : Option Nat
  deriving DecidableEq, Repr

/-! ### The ensemble link (18) -/

inductive PortSt where
  | disabled | detect | equalize | align | ident | active | down
  deriving DecidableEq, Repr

/-- A routed packet sent and not acknowledged, the instant of its last sending, its replays, whether a replay of it
is due, and whether REPEAT inverts its CRC again (R428, R473). -/
structure SentPkt where
  pkt : Packet
  at_ : Nat
  replays : Nat
  due : Bool
  bad : Bool
  deriving DecidableEq, Repr

/-- A port (R422 to R429): state, link registers, the two directions of the routed stream, credits by running
totals, packets that wait for a credit or a grant, each with the port whose buffer it holds when it is forwarded, and
the instants that its timers run from. -/
structure PortState where
  st : PortSt
  cause : Nat
  lanes : BitVec 4
  neighbour : Nat
  nhops : Nat
  nrole : Nat
  delay : Nat
  crc : Nat
  replays : Nat
  since : Nat
  penalty : Bool
  idents : Nat
  answered : Nat
  txSeq : Nat
  unacked : List SentPkt
  queue : List (Option Port × Packet)
  sent : Vector Nat 2
  granted : Vector Nat 2
  rxSeq : Nat
  rxNew : Nat
  skipping : Bool
  freed : Vector Nat 2
  lastRx : Nat
  lastTx : Nat
  lastAck : Nat
  deriving DecidableEq, Repr

/-- A RESERVE in progress on the entry device (R439): its command, the stage devices asked and their replies:
tier and shortfall. -/
structure Reserving where
  cmd : Nat
  h : Handle
  asked : List Nat
  replies : List (Nat × Nat × Nat)
  deriving DecidableEq, Repr

/-- A JOIN report received (R437). -/
structure JoinRep where
  device : Nat
  h : Handle
  part : Part
  state : Nat
  record : List Byte
  deriving DecidableEq, Repr

/-- The activation block of a split pass on this device: its handle, partition and number, and the bytes that
arrived (R438). -/
structure ActBlock where
  h : Handle
  part : Part
  num : Nat
  from_ : Nat
  data : List (Nat × List Byte)
  deriving DecidableEq, Repr

structure Ens where
  lockReq : Bool
  dbOutEn : Bool
  hold : BitVec 4
  leader : Nat
  reach : BitVec 256
  lostDevice : Nat
  lostCount : Nat
  dropCount : Nat
  dropReason : Nat
  dbin : Nat
  dbinHi : Word
  destroyed : Nat
  ports : Vector PortState 4
  joined : BitVec 64
  joins : List JoinRep
  reserving : List Reserving
  blocks : List ActBlock
  passNum : Nat
  deriving DecidableEq, Repr
/-! ### The whole machine -/

structure State where
  pending : List Instr
  clk : Nat
  freeCtr : Nat
  porst : Bool
  fuses : Fuses
  glb : Glb
  brg : Brg
  isl : Isl
  tbs : Tbs
  dbOut : Bool
  bsc : Bsc
  score : Option Score
  link : Link
  out : List Msg
  hif : Hif
  objs : List Obj
  cmds : List Cmd
  nextCmd : Nat
  ctxs : List Ctx
  masks : Vector (Vector (Option Mask) 32) 8
  defMask : Vector (Option (Fin 32 × Nat)) 8
  models : Vector Model 64
  jobs : List Job
  early : Option Model
  passes : List Pass
  strips : Vector Strip 64
  str : Str
  apt : Apt
  nand : Nand
  flc : Flc
  evc : Evc
  pwr : Pwr
  jtag : Jtag
  mem : Memory
  bad : List (Nat × Nat)
  dmc : Vector Dmc 2
  voices : Vector VoiceSt 16
  sections : Vector SectionSt 4
  sets : List KSet
  prz : Prz
  mir : Mir
  vib : Vib
  ens : Ens
  deriving DecidableEq, Repr

/-! ### After reset

Every value below is the reset value of a register table, or is named in a log entry: 4 (pins), 5 (OTP), 6 (PCI
Express configuration), 8 (flash), 9 (voice registers), 10 (JTAG). A field whose reset the tables call "score" holds
0 until the score is applied. -/

/-- Log entry 5: an OXN-340-16F128-C, no key, nothing revoked. -/
def Fuses.reset : Fuses :=
  { dram := 2, flash := 2, grade := false, serial := 0, rollback := 0, revoked := 0,
    keyHash := List.replicate 4 (List.replicate 32 0) }

def HostWin.reset : HostWin := { loW := 0, hiW := 0, base := 0, len := 0 }

def Glb.reset : Glb :=
  { loaded := false, serial := 0, porst := true, perst := false, flr := false, unmLogged := 0, unmOffset := 0,
    unmPart := 0, unmWrite := false, winEn := false, winOutside := false, winLo := 0, winHi := 0, winBase := 0,
    hwin := Vector.replicate 8 HostWin.reset }

def LedgerSt.reset : LedgerSt :=
  { grants := [], reqs := [], hist := [], ocRun := 0, oc := false, peak := 0, meas := 0 }

/-- The ceilings of R33. -/
def Brg.reset : Brg :=
  { ceil := 40, ceilLow := 40, slope := 8, ioCeil := 16, ioCeilLow := 16, ioSlope := 4, margin := 8, lim := false,
    starved := 0, partMin := Vector.replicate 8 0, partMax := Vector.replicate 8 0, core := LedgerSt.reset,
    io := LedgerSt.reset, nextId := 0 }

/-- Island 0 runs, and every other island is collapsed (R78). -/
def IslandSt.reset (i : Island) : IslandSt :=
  { st := if i = 0 then .run else .collapsed, bad := false, fresh := false, requal := none,
    ramped := false, meas := 0, target := 0 }

def Isl.reset : Isl :=
  { each := Vector.ofFn IslandSt.reset, acts := [], fault := 0, spread := 0, spreadActive := 0, keep := 0, pair := 0,
    causeIsland := 0, causeKind := 0, discard := false, refLost := false, aonBad := false }

def Alarm.reset : Alarm := { value := 0, stagedLo := 0, period := 0, fresh := false, armed := false, fired := false }

def Tbs.reset : Tbs :=
  { now := 0, cycle := 0, acc := 0, trim := 0, crossed := false, hiShadow := 0, set := 0, lock := .standalone,
    hops := 0, miss := 0, phase := 0, resid := 0, alarms := Vector.replicate 2 Alarm.reset, dbCount := 0, goodRun := 0,
    loadedLeft := 0 }

def Bsc.reset : Bsc :=
  { stage := .otp, spi := .idle, percent := 0, early := false, drain := false, copy := false, unit := 0, layer := 0, offset := 0,
    joined := 0, tEarly := 0, tFull := 0, bootSel := 0, trainFail := false, earlyFail := false, aReason := 0,
    bReason := 0, muteCause := 0, muteIsland := 0, version := 0, fw := 0, build := 0, rollback := 0, revoked := 0,
    debugOk := false, earlyDropped := 0, updStep := 0, updPercent := 0, tries := [], header := [], image := [],
    preloadIdx := 0 }

def MsixEntry.reset : MsixEntry := { lo := 0, hi := 0, data := 0, masked := true }

/-- Masks and severities of AER hold the values that PCI Express gives them at reset (log entry 6). -/
def Link.reset : Link :=
  { perst := false, up := false, l1 := false, l2 := false, speed := 0, width := 0, eq := 0, mse := false, bme := false,
    command := 0, cacheLine := 0, d3 := false, pmeEn := false, pmeStatus := false, msixEn := false, msixMask := false,
    msix := Vector.replicate 2 MsixEntry.reset, pba := 0, ltrEn := false, ltrSent := none, ltrMax := 0, devCtl := 0,
    devStatus := 0, linkCtl := 0, linkCtl2 := 4, mps := 0, mrrs := 2, cto := 0, ctoDis := false, tag10 := false,
    ecrcGen := false, ecrcChk := false, l1ss1 := 0, l1ss2 := 0, bar0 := 0, bar2 := 0, intLine := 0, aerStatus := 0,
    aerMask := 0, aerSeverity := 0x00462030, aerCor := 0, aerCorMask := 0x2000, aerFirst := 0, aerHeader := 0,
    flrBusy := false, wakeN := true, held := [] }

def Ring.reset : Ring :=
  { lo := 0, hi := 0, base := 0, size := 0, head := 0, tail := 0, phase := true, dbBad := false, fullCount := 0 }

def Page.reset : Page :=
  { isOpen := false, sq := Ring.reset, cq := Ring.reset, fetchStop := false, fetchTries := 0, asked := 0, cqWait := [], outWait := [], userDram := 0,
    userStrips := 0, userSec := 0, lastTier := 0, lastShort := 0, deferMark := 0, resetting := false }

def Hif.reset : Hif :=
  { pages := Vector.replicate 8 Page.reset, evq := Ring.reset, errq := Ring.reset, errWait := [], errLost := 0,
    errLostRun := 0, deferPeak := 0, earlyId := 0 }

/-- Claim mode and the fixed-on host routes, until the EVENTS section is applied (R223, R225). -/
def Evc.reset : Evc :=
  { claimMode := true, irqEn := true, inServ := none, latch := 0, mask := 0, armed := BitVec.allOnes 64,
    routeHost := 0xFFFF, routeCpu := 0xFFFF003B, pend := 0, count := Vector.replicate 64 0,
    time := Vector.replicate 64 0 }

/-- `chargePt` and `active` are point D, whose voltage is 550 mV (R488); `warnAt` is the grade maximum − 10. -/
def Pwr.reset : Pwr :=
  { st := .on, waking := none, idleSince := 0, dozeUs := 500, woke := false, wakeSrc := 0xFF,
    wake := 0x0000004000000008, req := 0, active := 3, clockPt := 3, chargePt := 3, avsPhase := .idle,
    thermal := false, avsErr := false, settle := 20, mv := 550, temp := 0, sensor := 0, warn := false, trip := false,
    crit := false, peak := 0, warnAt := 85, pad := 0x005, gpioOut := 0, gpioOe := 0, gpioIn := 0, gpioWake := 0,
    gpioFilter := 0, gpioNoPull := 0 }

def Jtag.reset : Jtag := { ir := 0x01, dr := 0, boundary := [], driving := false }

def ImgHdr.none : ImgHdr :=
  { imageLen := 0, modelId := 0, residentLen := 0, tensorCount := 0, shardOff := 0, shardCount := 0, sigOff := 0,
    dataOff := 0, layers := 0, hidden := 0, vocab := 0, contextMax := 0, kvPerToken := 0, eos := 0, rowUnits := 0,
    minStrips := 0, split := Option.none }

/-- A handle without a model; its swap mark reads 0x7FF (R309). -/
def Model.empty : Model :=
  { st := .empty, owner := 0, pinned := false, hdr := ImgHdr.none, tensors := [], shards := [], units := [],
    slot := none, badLayers := [], front := 0x7FF, lastUse := 0, repairing := none, barrier := false, plan := [],
    streamed := 0 }

def Strip.reset : Strip :=
  { st := .free, owner := none, load := 0, fetched := 0, taken := 0, filled := 0, retry := false, stallFrom := none,
    readBy := 0, doneBy := 0 }

def Str.reset : Str :=
  { runaheadMax := 16, autoEvict := 0, fills := 0, stall := 0, repaired := 0, badRepairs := 0 }

def Apt.reset : Apt :=
  { live := Vector.replicate 8 0, snap := Vector.replicate 8 0, auto := 0, deadState := 0, deadPart := 0,
    deadValid := false, deadCtx := 0 }

/-- Log entry 8: an erased flash whose metadata names no image, with blocks 16 to 79 in the refresh pool (R263). -/
def Nand.reset : Nand :=
  { pages := [], blocks := [], slots := Vector.replicate 32 { st := 0, len := 0, id := 0 }, remap := [],
    pool := (List.range 64).map (· + 16) }

def Flc.reset : Flc :=
  { ready := false, metaLost := false, fail := false, op := none, lastStatus := 0, lastSlot := 0, lastValid := false,
    lastRetired := 0, lastId := 0, recovered := 0, uncorr := 0, limit := 4096, patrol := 168,
    patrolAt := 0, early := [], refreshes := 0 }

def Channel.reset : Channel :=
  { step := 0, attempt := 0, joined := false, failed := false, ms := 0, queue := [], batch := false,
    openRows := Vector.replicate 16 none, checks := [], fwd := false, rate := 0, halfNext := false, acc := 0, owed := 0,
    pairNext := 0, hot := false, dead := false, retraining := false, tries := 0, ce := 0, link := 0, ue := 0,
    live := Vector.replicate 8 0, snap := Vector.replicate 8 0 }

def Dmc.reset : Dmc :=
  { staged := 0, idle := 0, mode := false, modeNow := false, postpone := 0, sr := false, down := false, exiting := false, slot := 0,
    period := 16, retrains := 0, errAddr := 0, errChannel := 0, errSource := 0, errKind := 0, errValid := false,
    hours := 0, posChannel := 0, posBank := 0, posRow := 0, posBurst := 0, passes := 0,
    chans := Vector.replicate 8 Channel.reset }

def Tile.empty : Tile := { live := false, rows := 0, cols := 0, fmt := 0, data := [] }
def Accum.empty : Accum := { kind := .empty, data := [] }

/-- Log entry 9: scalar registers and predicates 0, tiles and accumulators EMPTY. -/
def VoiceSt.reset : VoiceSt :=
  { s := Vector.replicate 16 0, p := 0, pc := 0, v := false, z := false, sat := false,
    tiles := Vector.replicate 16 Tile.empty, accs := Vector.replicate 4 Accum.empty, sc := [], code := [],
    latchA := none, latchB := none, run := .free, wait := .none, arrayFrom := none, stopped := false, hold := false,
    cause := 0, element := 0, elValid := false, tile := 0, detail := 0, overrun := false, valid := false, haltPc := 0,
    haltWord := 0, haltAddr := 0, reuseA := 0, reuseB := 0, tmma := 0, arrayWait := 0, preempt := 0, dbgItem := 0,
    dbgHalf := false }

def SectionSt.reset : SectionSt := { ce := 0, ue := 0, conflict := 0, ueAddr := 0 }

def Prz.reset : Prz :=
  { live := Vector.replicate 4 0, snap := Vector.replicate 4 0, damage := 0, damageCause := 0, damageSub := 0,
    damageAddr := 0, pktFail := 0, pktCause := 0 }

def Mir.reset : Mir :=
  { period := 8, model := 0, probes := 0, aon := 0, checksPrism := 0, checksApt := 0, lastPair := 0, lastKind := 0,
    lastUnit := 0, lastValid := false, lastPc := 0, lastDiff := 0,
    pairs := Vector.replicate 8 { st := .unformed, mismatches := 0, requals := 0, probeAt := 0, per := 8 } }

def Vib.reset : Vib :=
  { keyAt := none, unlocked := false, runFrom := none, applied := 0, missed := 0, ms := 100, hsMask := 0, hsDelay := 0,
    bpLen := 0, bpPeriod := 0, brgDelay := 0, brgCore := false, brgIo := false, stretch := 0, channels := 0,
    target := 0, count := 0, interval := 0, unit := 0, rep := false, part := 0, bit := 0, lastAt := none,
    again := none }

def PortState.reset : PortState :=
  { st := .disabled, cause := 0, lanes := 0, neighbour := 0, nhops := 0, nrole := 0, delay := 0, crc := 0,
    replays := 0, since := 0, penalty := false, idents := 0, answered := 0, txSeq := 0, unacked := [], queue := [],
    sent := Vector.replicate 2 0, granted := Vector.replicate 2 0, rxSeq := 0, rxNew := 0, skipping := false,
    freed := Vector.replicate 2 0, lastRx := 0, lastTx := 0, lastAck := 0 }

/-- The local device's own bit of ENS_REACH is 1; without an ENSEMBLE section the device number is 0 (R94). -/
def Ens.reset : Ens :=
  { lockReq := false, dbOutEn := false, hold := 0, leader := 0, reach := 1, lostDevice := 0,
    lostCount := 0, dropCount := 0, dropReason := 0, dbin := 0, dbinHi := 0, destroyed := 0,
    ports := Vector.replicate 4 PortState.reset, joined := 0, joins := [], reserving := [], blocks := [],
    passNum := 0 }

/-- The machine right after the release of PORST_N. -/
def State.reset : State :=
  { pending := [], clk := 0, freeCtr := 0, porst := false, fuses := Fuses.reset, glb := Glb.reset, brg := Brg.reset,
    isl := Isl.reset, tbs := Tbs.reset, dbOut := false, bsc := Bsc.reset, score := none, link := Link.reset,
    out := [], hif := Hif.reset, objs := [], cmds := [], nextCmd := 0, ctxs := [],
    masks := Vector.replicate 8 (Vector.replicate 32 none), defMask := Vector.replicate 8 none,
    models := Vector.replicate 64 Model.empty, jobs := [], early := none, passes := [],
    strips := Vector.replicate 64 Strip.reset, str := Str.reset, apt := Apt.reset, nand := Nand.reset,
    flc := Flc.reset, evc := Evc.reset, pwr := Pwr.reset, jtag := Jtag.reset, mem := [], bad := [],
    dmc := Vector.replicate 2 Dmc.reset, voices := Vector.replicate 16 VoiceSt.reset,
    sections := Vector.replicate 4 SectionSt.reset, sets := [], prz := Prz.reset, mir := Mir.reset, vib := Vib.reset,
    ens := Ens.reset }

end Sys2Proof.Machine
end

