-- ==== Sys2Proof/Machine/Ops.lean ====
section
/-! DEFINITION. The operations that every family shares: running a command, occurrences and pending events (09),
messages and MSI-X (R512), error-queue records (R207, R218, R219), the ledgers of the breath governor (02),
islands, BAR0 gating (R82, R120 to R122, R368) and the entry to MUTE (R102). -/

namespace Sys2Proof.Machine

/-- Run a command's effect. While PORST_N is low the device does nothing (R486). Every command answers a next
state. -/
def live (s : State) (f : State → State) : Host.Outcome State Fault Refusal :=
  .next (if s.porst then s else f s)

/-! ### Small reads -/

def stageCode : Stage → Nat
  | .otp => 0 | .scoreRead => 1 | .scoreVerify => 2 | .islands => 3
  | .train => 4 | .preload => 5 | .full => 6 | .mute => 0xF

def partCfg (s : State) (p : Part) : Option PartCfg := s.score.bind fun c => c.parts[p]

def islOf (s : State) (i : Island) : IslandSt := s.isl.each[i]

def islRuns (s : State) (i : Island) : Bool := (islOf s i).st == .run

/-- The island is powered: RUN or GATED. -/
def islPowered (s : State) (i : Island) : Bool := (islOf s i).st == .run || (islOf s i).st == .gated

def muted (s : State) : Bool := s.bsc.stage == .mute

/-- In-package flash is present: FLASH 0b01 or 0b10 (R5, R99). -/
def flashPart (s : State) : Bool := s.fuses.flash == 1 || s.fuses.flash == 2

/-- The grade maximum of the junction in °C (R4). -/
def gradeMax (s : State) : Int := if s.fuses.grade then 105 else 95

/-- Any port is trained; mirror mode is on for any pair; DRAM is out of self-refresh (R36). -/
def portTrained (s : State) : Bool := s.ens.ports.toList.any (·.st == .active)
def mirrorOn (s : State) : Bool := s.mir.pairs.toList.any (·.st != .unformed)
def refreshOn (s : State) : Bool :=
  (s.bsc.stage == .train || s.bsc.stage == .preload || s.bsc.stage == .full) && s.dmc.toList.any (!·.sr)

def send (m : Msg) (s : State) : State := { s with out := m :: s.out }

def isHeldWrite : HostReq → Bool
  | .write _ _ => true
  | _ => false

/-- A read completion leaves after every earlier BAR2 write has been applied (R125). -/
def reply (m : Msg) (s : State) : State :=
  if s.link.held.any isHeldWrite then { s with link := { s.link with held := s.link.held ++ [.reply m] } } else send m s

/-! ### Rings (R150, R153) -/

/-- Records or entries between tail and head. -/
def Ring.used (r : Ring) : Nat := if r.size = 0 then 0 else (r.tail + r.size - r.head) % r.size

/-- Records that a queue still takes: at most size − 1 unconsumed (R153). -/
def Ring.room (r : Ring) : Nat := r.size - 1 - r.used

/-- Write one record of `n` bytes at the tail; the phase turns when the tail wraps (R153). -/
def Ring.push (r : Ring) : Ring :=
  if r.tail + 1 = r.size then { r with tail := 0, phase := !r.phase } else { r with tail := r.tail + 1 }

/-- The phase bit as bit 7 of a record's last byte. -/
def phaseByte (b : Bool) : Byte := if b then 0x80 else 0

/-- A ring enabled with the base written before: head 0, tail 0, phase 1 (R150). -/
def Ring.enable (r : Ring) (size : Nat) : Ring :=
  { r with base := setHi r.lo.toNat r.hi, size := size, head := 0, tail := 0, phase := true }

def pageOf (s : State) (p : Part) : Page := s.hif.pages[p]

def setPage (p : Part) (f : Page → Page) (s : State) : State :=
  { s with hif := { s.hif with pages := s.hif.pages.set p (f s.hif.pages[p]) } }

/-! ### Commands in the table (R214) -/

def cmdOf (s : State) (id : Nat) : Option Cmd := s.cmds.find? (·.id == id)

def setCmd (id : Nat) (f : Cmd → Cmd) (s : State) : State :=
  { s with cmds := s.cmds.map fun c => if c.id = id then f c else c }

def Cmd.op (c : Cmd) : Nat := byteAt c.entry 0
def Cmd.tag (c : Cmd) : Nat := le c.entry 2 2
def Cmd.ctx (c : Cmd) : Nat := le c.entry 4 2
def Cmd.model (c : Cmd) : Nat := byteAt c.entry 6
def Cmd.noWait (c : Cmd) : Bool := bitAt (byteAt c.entry 1) 0

def Cmd.isDeferred (c : Cmd) : Bool := match c.phase with | .deferred _ => true | _ => false

/-- HIF_SQ_STATUS.INFLIGHT: commands of the partition fetched and not completed (R164); one that runs on after a reset without
a record has left it (R129, R130). -/
def inflight (s : State) (p : Part) : Nat := (s.cmds.filter fun c => c.part == p && !c.silent).length

/-- HIF_DEFER[p].COUNT and HIF_DEFER_TOTAL.COUNT (R220). -/
def deferCount (s : State) (p : Part) : Nat := (s.cmds.filter fun c => c.part == p && c.isDeferred).length
def deferTotal (s : State) : Nat := (s.cmds.filter Cmd.isDeferred).length

/-! ### Event sources (R221) -/

/-- DEFER_HIGH of the partition is active (R213). -/
def deferHigh (s : State) (p : Part) : Bool :=
  (pageOf s p).deferMark != 0 && (pageOf s p).deferMark ≤ deferCount s p

/-- The level of each source (R221): a condition of its unit, or its latch. -/
def sourceActive (s : State) (n : Source) : Bool :=
  if n = 2 then s.brg.lim
  else if n = 5 then s.isl.fault != 0 || s.isl.refLost
  else if n = 6 then s.hif.errq.tail != s.hif.errq.head
  else if n = 7 then s.hif.errLost != 0
  else if 8 ≤ n.val ∧ n.val < 16 then
    let pg := pageOf s (Fin.ofNat 8 (n.val - 8))
    pg.cq.tail != pg.cq.head
  else if n = 38 then s.tbs.alarms[0].fired || s.tbs.alarms[1].fired
  else if 40 ≤ n.val ∧ n.val < 48 then deferHigh s (Fin.ofNat 8 (n.val - 40))
  else s.evc.latch.getLsbD n

/-- EVC_LEVEL: all levels (R236). -/
def levels (s : State) : BitVec 64 := BitVec.ofNat 64 (maskOf 64 fun i => sourceActive s (Fin.ofNat 64 i))

/-- Sources whose latches software sees; the others are level sources (R221, R236). -/
def latchedMask : BitVec 64 := 0xFFFF00BFFFFF001B

def bit64 (n : Source) : BitVec 64 := BitVec.ofNat 64 (2 ^ n.val)

/-- One occurrence of a source: its counter, saturating at 255, and the instant (R227, R233). -/
def occur (n : Source) (s : State) : State :=
  { s with evc := { s.evc with
      count := s.evc.count.set n (satAdd 255 s.evc.count[n] 1)
      time := s.evc.time.set n s.tbs.now } }

/-- A report of a latched source: the latch is set and the occurrence counted (R222). -/
def report (n : Source) (s : State) : State :=
  let s := occur n s
  { s with evc := { s.evc with latch := s.evc.latch ||| bit64 n } }

/-- What pending means for the host (R224). -/
def pendingFor (s : State) (n : Source) : Bool :=
  sourceActive s n && s.evc.routeHost.getLsbD n && !s.evc.mask.getLsbD n &&
  !(s.evc.claimMode && s.evc.inServ == some n)

/-- The host is presentable: some source pending, none in service, in claim mode (R231). -/
def presentable (s : State) : Bool := s.evc.claimMode && s.evc.inServ == none && s.evc.pend != 0

/-! ### MSI-X (R512), PME (R513) -/

/-- A message of the vector is held while any of these holds (R512). -/
def msixHeld (s : State) (v : Fin 2) : Bool :=
  s.link.msix[v].masked || s.link.msixMask || !s.link.msixEn || !s.link.bme || s.link.d3

def msixMsg (s : State) (v : Fin 2) : Msg :=
  .msix v (setHi s.link.msix[v].lo.toNat s.link.msix[v].hi) s.link.msix[v].data

/-- Raise a vector: sent at once, or held in the pending bit array, where a second raise adds nothing (R512). None is sent in
MUTE (R102). -/
def raiseMsix (v : Fin 2) (s : State) : State :=
  if muted s || s.link.pba.getLsbD v.val then s
  else if msixHeld s v then
    { s with link := { s.link with pba := s.link.pba ||| BitVec.ofNat 2 (2 ^ v.val) } }
  else send (msixMsg s v) s

/-- In D3hot a source that becomes pending sets PME_Status, and sends one PME while PME_En is set (R513). -/
def sendPme (n : Source) (s : State) : State :=
  if s.link.d3 then
    let t := { s with link := { s.link with pmeStatus := true } }
    if s.link.pmeEn then send (.pme n) t else t
  else s

/-- A source that is pending while the link is in L2 makes the device assert WAKE_N (R513). -/
def assertWake (s : State) : State :=
  if s.link.l2 then { s with link := { s.link with wakeN := false } } else s

/-- The pending bit of a source follows its condition (R224); what follows when it becomes pending: the PME of
R513 and, in claim mode, vector 1 when the host becomes presentable (R231). -/
def updatePend (n : Source) (s : State) : State :=
  let was := s.evc.pend.getLsbD n
  let now := pendingFor s n
  if was == now then s
  else
    let s' := { s with evc := { s.evc with pend := s.evc.pend ^^^ bit64 n } }
    if now then
      let s' := assertWake (sendPme n s')
      if presentable s' && !presentable s then raiseMsix 1 s' else s'
    else s'

/-! ### IRQ_N and the other output pins -/

/-- IRQ_N is driven low (R232). -/
def irqLow (s : State) : Bool :=
  (s.evc.irqEn && ((!s.evc.claimMode && s.hif.evq.tail != s.hif.evq.head) || presentable s)) ||
  muted s || s.isl.refLost || decide (gradeMax s + 10 ≤ s.pwr.temp)

/-! ### The error queue (R207, R218, R219) -/

/-- A record of the device itself: no command, no partition. -/
def devErr (kind unit : Nat) (s : State) : ErrRec :=
  { kind := kind, part := 0xFF, tag := 0, ctx := 0, opcode := 0, unit := unit, time := s.tbs.now,
    arg0 := 0, arg1 := 0, arg2 := 0 }

/-- A record for a command (R507). -/
def cmdErr (kind unit : Nat) (c : Cmd) (s : State) : ErrRec :=
  { devErr kind unit s with part := c.part.val, tag := c.tag, ctx := c.ctx, opcode := c.op }

/-- A record that concerns a command names it (R207). -/
def about (who : Option Cmd) (r : ErrRec) : ErrRec :=
  match who with
  | some c => { r with tag := c.tag, ctx := c.ctx, opcode := c.op }
  | none => r

/-- One record is lost: it is counted, and source 7 occurs (R218). -/
def loseErr (s : State) : State :=
  occur 7 { s with hif := { s.hif with
    errLost := satAdd 65535 s.hif.errLost 1, errLostRun := satAdd 255 s.hif.errLostRun 1 } }

/-- Drop the oldest records beyond 16, each counted as lost (R219). -/
def trimBacklog : Nat → State → State
  | 0, s => s
  | n + 1, s =>
    if s.hif.errWait.length ≤ 16 then s
    else trimBacklog n (loseErr { s with hif := { s.hif with errWait := s.hif.errWait.tail } })

/-- Raise an error-queue record. While the queue is disabled it enters the backlog of 16. While it is enabled it
waits for its write, one record beyond the room is held ready, and later ones are lost (R218, R219). In MUTE,
and once REFCLK38 is lost, no record is kept or counted (R102, R67). -/
def logErr (r : ErrRec) (s : State) : State :=
  if muted s || s.isl.refLost then s
  else if s.hif.errq.size = 0 then
    trimBacklog 1 { s with hif := { s.hif with errWait := s.hif.errWait ++ [r] } }
  else if s.hif.errWait.length ≤ s.hif.errq.room then
    let full := s.hif.errWait.length == s.hif.errq.room
    { s with hif := { s.hif with
        errWait := s.hif.errWait ++ [r]
        errq := { s.hif.errq with fullCount := if full then satAdd 255 s.hif.errq.fullCount 1 else s.hif.errq.fullCount } } }
  else loseErr s

/-! ### BAR0 (R82, R120 to R122, R368) -/

/-- The blocks of R120, by offset. -/
inductive Block where
  | glb | brg | tbs | bsc | page (p : Part) | hif | evc | dmc (d : Fin 2) | flc | str | prz | apt | ens
  | mir | vib | vce (n : Voice) | msix | pba
  deriving DecidableEq, Repr

def blockOf (off : Nat) : Option Block :=
  if 0x100000 ≤ off then none
  else if 0x30000 ≤ off then
    if off < 0x30020 then some .msix else if 0x31000 ≤ off ∧ off < 0x31008 then some .pba else none
  else if 0x20000 ≤ off then some (.vce (Fin.ofNat 16 ((off - 0x20000) / 0x1000)))
  else if 0x11000 ≤ off then none
  else match off / 0x1000 with
    | 0x0 => some .glb | 0x1 => some .brg | 0x2 => some .tbs | 0x3 => some .bsc
    | 0x4 => some (.page (Fin.ofNat 8 ((off - 0x4000) / 0x200)))
    | 0x5 => some .hif | 0x6 => some .evc | 0x8 => some (.dmc 0) | 0x9 => some (.dmc 1)
    | 0xA => some .flc | 0xB => some .str | 0xC => some .prz | 0xD => some .apt | 0xE => some .ens
    | 0xF => some .mir | 0x10 => some .vib
    | _ => none

/-- The island that holds a block (R120, R507). -/
def blockIsland : Block → Nat
  | .page _ | .hif => 30
  | .dmc d => 25 + d.val
  | .flc => 27 | .str => 21 | .prz => 22 | .apt => 23 | .ens => 29 | .mir | .vib => 31
  | .vce n => n.val + 1
  | .msix | .pba => 28
  | _ => 0

/-- The block answers at the present stage (R82). The MSI-X table and PBA answer with configuration space. -/
def answers (s : State) : Block → Bool
  | .glb | .bsc | .tbs | .brg | .evc | .msix | .pba => s.bsc.stage != .otp
  | .dmc _ => 4 ≤ stageCode s.bsc.stage && !muted s
  | .flc => 4 ≤ stageCode s.bsc.stage && !muted s && flashPart s
  | _ => 4 ≤ stageCode s.bsc.stage && !muted s

/-- The partition charged with a BAR0 access (R122). -/
def barPart (off : Nat) : Part := if 0x4000 ≤ off ∧ off < 0x5000 then Fin.ofNat 8 ((off - 0x4000) / 0x200) else 0

/-- An unmapped access charged to a partition: GLB_UNMAPPED_ADDR, and one record until LOGGED is cleared (R122). -/
def unmappedFor (p : Part) (off : Nat) (write : Bool) (s : State) : State :=
  let s' := { s with glb := { s.glb with unmOffset := off % 2 ^ 20, unmPart := p, unmWrite := write } }
  if s.glb.unmLogged.getLsbD p.val then s'
  else logErr { devErr 0x02 28 s with part := p.val, arg0 := off, arg2 := b2n write }
    { s' with glb := { s'.glb with unmLogged := s'.glb.unmLogged ||| BitVec.ofNat 8 (2 ^ p.val) } }

/-- An unmapped BAR0 access. -/
def unmapped (off : Nat) (write : Bool) (s : State) : State := unmappedFor (barPart off) off write s

/-- PART of a record about a register (R368, R507). -/
def regPart (off : Nat) : Nat := if 0x4000 ≤ off ∧ off < 0x5000 then (off - 0x4000) / 0x200 else 0xFF

def regIsland (off : Nat) : Nat := ((blockOf off).map blockIsland).getD 28

/-- A register write ignored as a whole: kind 0x03, `why` 1 for a reserved encoding (R368), 2 for a write
refused by a rule (R208). -/
def regRefused (off : Nat) (v : Word) (why : Nat) (s : State) : State :=
  logErr { devErr 0x03 (regIsland off) s with part := regPart off, arg0 := off, arg1 := v.toNat, arg2 := why } s

/-- Configuration space and BAR0 answer at all: after OTP, with island 28 running and the link up, and not while
an FLR runs (R81, R82, R130). In REST the registers answer from retention (R60, R502). -/
def linkAnswers (s : State) : Bool :=
  s.bsc.stage != .otp && s.link.up && !s.link.flrBusy && (islRuns s 28 || (s.pwr.st == .rest && (islOf s 28).st != .fault))

/-- A BAR0 or BAR2 request arrives: nothing where the device does not answer, Unsupported Request while Memory
Space Enable is clear. -/
def barAccess (f : State → State) (s : State) : State :=
  if !linkAnswers s then s else if !s.link.mse then send .unsupported s else f s

/-- A page that exists and is not in reset takes its registers (R131, R135). -/
def pageOpen (s : State) (p : Part) : Bool := (pageOf s p).isOpen

/-- A write that reaches a register of an answering block (R82, R131, R135). -/
def regWrite (off : Nat) (f : State → State) (s : State) : State :=
  barAccess (fun s =>
    match blockOf off with
    | none => unmapped off true s
    | some b =>
      if !answers s b then s
      else match b with
        | .page p =>
          if !pageOpen s p then unmapped off true s
          else if (pageOf s p).resetting then s else f s
        | _ => f s) s

/-- A read of a register of an answering block: its value, and the effect of the read. `none` is unmapped. -/
def regRead (off : Nat) (val : State → Option Word) (eff : State → State) (s : State) : State :=
  barAccess (fun s =>
    match blockOf off with
    | none => reply (.bar0 off 0) (unmapped off false s)
    | some b =>
      if !answers s b then reply (.bar0 off 0) s
      else if (match b with | .page p => !pageOpen s p | _ => false) then
        reply (.bar0 off 0) (unmapped off false s)
      else match val s with
        | none => reply (.bar0 off 0) (unmapped off false s)
        | some v => reply (.bar0 off v) (eff s)) s

/-- A unit acts on a written value when its island runs: at once, or when it next runs (R60). -/
def whenRuns (off : Nat) (v : Word) (f : State → State) (s : State) : State :=
  if (s.isl.each[(Fin.ofNat 32 (regIsland off) : Island)]).st == .run then f s
  else { s with isl := { s.isl with acts := s.isl.acts ++ [(off, v)] } }

/-! ### Power (R500, R503) -/

/-- The idle time of R500 runs from the end of the last pass, KERNEL, load, swap, repair, hush or flash operation. -/
def markIdle (s : State) : State := { s with pwr := { s.pwr with idleSince := s.clk } }

/-- The cantors start no such work: while CRIT holds (R503), and in DOZE or REST until they have ended. -/
def paused (s : State) : Bool := s.pwr.crit || s.pwr.st != .on

/-! ### Islands -/

def setIsl (i : Island) (f : IslandSt → IslandSt) (s : State) : State :=
  { s with isl := { s.isl with each := s.isl.each.set i (f s.isl.each[i]) } }

/-- Every island but those kept is stopped and collapsed. -/
def collapseAll (spare : Island → Bool) (s : State) : State :=
  let f := fun (i : Island) =>
    if spare i || s.isl.each[i].st == .fault then s.isl.each[i]
    else { s.isl.each[i] with st := .collapsed, bad := false }
  { s with isl := { s.isl with each := Vector.ofFn f } }

/-- Stage changes and changes of EARLY and DRAIN report source 37 (R83). -/
def stageChange (s : State) : State := report 37 s

/-- Enter a stage with the PERCENT and position that R83 gives at its start. -/
def enterStage (st : Stage) (percent : Nat) (s : State) : State :=
  stageChange { s with bsc := { s.bsc with stage := st, percent := percent, unit := 0, layer := 0, offset := 0 } }

/-- The entry to MUTE (R102): cause 1 when no copy was accepted, 2 under R65 with the island. Every island but
0 and 28 is collapsed, the SPI pins are released (R86), no grant but the standing charges remains, and no record is kept. -/
def enterMute (cause : Nat) (island : Island) (s : State) : State :=
  let s := enterStage .mute 100 { s with bsc := { s.bsc with muteCause := cause, muteIsland := island, spi := .highZ } }
  let s := collapseAll (fun i => i = 0 || i = 28) s
  { s with
    hif := { s.hif with errWait := [] }
    brg := { s.brg with
      core := { s.brg.core with grants := [], reqs := [] }
      io := { s.brg.io with grants := [], reqs := [] } } }

/-! ### The ledgers of the breath governor (02) -/

/-- The cost of a voice's level, the levels below it included, at an operating point (R34, R35). -/
def voiceCost (pt : Nat) : VLevel → Nat
  | .idle => 1
  | .scalar => 2
  | .array => match pt with | 0 => 12 | 1 => 9 | 2 => 7 | _ => 4

/-- A formed pair makes one request of twice the voice cost, which its leading voice holds (R450). -/
def pairFactor (pair : BitVec 8) (v : Voice) : Nat :=
  if pair.getLsbD (v.val / 2) then (if v.val % 2 = 0 then 2 else 0) else 1

/-- The cost of a consumer (R34, R62). -/
def cost (pt : Nat) (pair : BitVec 8) : Consumer → Nat
  | .voice v l => pairFactor pair v * voiceCost pt l
  | .secMem _ => 2
  | .prism | .prismTwin => 4
  | .aperture => 3
  | .streamer | .dma _ | .port _ | .flash _ => 2
  | .dram _ => 3
  | .ramp _ => 1

/-- The ledger that accounts for a consumer (R34). -/
def ledgerOf : Consumer → Ledger
  | .dram _ | .flash _ => .io
  | _ => .core

/-- The island of a consumer, the last key of R40. -/
def unitIsland : Consumer → Nat
  | .voice v _ => v.val + 1
  | .secMem m => 17 + m.val
  | .prism | .prismTwin => 22 | .aperture => 23 | .streamer => 21 | .dma _ => 30 | .port _ => 29
  | .dram c => 25 + c.val / 8
  | .flash _ => 27
  | .ramp i => i.val

/-- A unit that holds at most one grant of its kind; a new grant of it renews the old one. -/
def oneGrant : Consumer → Bool
  | .prism | .prismTwin | .streamer | .dma _ | .port _ => false
  | _ => true

def levelRank : VLevel → Nat
  | .idle => 0 | .scalar => 1 | .array => 2

/-- The highest level below `l` that voice v holds costs this much (R34: each figure includes the levels
below it). -/
def lowerHeld (pt : Nat) (pair : BitVec 8) (gs : List Grant) (v : Voice) (l : VLevel) : Nat :=
  gs.foldl (fun m g => match g.unit with
    | .voice v' l' => if v' = v ∧ levelRank l' < levelRank l then max m (pairFactor pair v * voiceCost pt l') else m
    | _ => m) 0

/-- What a unit adds to its ledger beyond what it holds at a lower level. -/
def addedCost (pt : Nat) (pair : BitVec 8) (gs : List Grant) : Consumer → Nat
  | .voice v l => pairFactor pair v * voiceCost pt l - lowerHeld pt pair gs v l
  | c => cost pt pair c

def ledger (s : State) : Ledger → LedgerSt
  | .core => s.brg.core
  | .io => s.brg.io

def setLedger (l : Ledger) (f : LedgerSt → LedgerSt) (s : State) : State :=
  match l with
  | .core => { s with brg := { s.brg with core := f s.brg.core } }
  | .io => { s with brg := { s.brg with io := f s.brg.io } }

/-- The sum of the grants held in a ledger. -/
def granted (s : State) (l : Ledger) : Nat :=
  let gs := (ledger s l).grants
  (gs.map fun g => addedCost s.pwr.chargePt s.isl.pair gs g.unit).sum

/-- The normal, low and effective ceilings (R30). -/
def ceilOf (s : State) : Ledger → Nat
  | .core => s.brg.ceil
  | .io => s.brg.ioCeil
def ceilLowOf (s : State) : Ledger → Nat
  | .core => s.brg.ceilLow
  | .io => s.brg.ioCeilLow
def effCeil (s : State) (l : Ledger) : Nat :=
  if s.brg.lim then min (ceilLowOf s l) (ceilOf s l) else ceilOf s l

/-- The slope in force: 0 while an over-current holds the ledger (R32, R49). -/
def slopeOf (s : State) (l : Ledger) : Nat :=
  if (ledger s l).oc then 0 else match l with
    | .core => s.brg.slope
    | .io => s.brg.ioSlope

def requestOf (c : Consumer) (t : Tag) (s : State) : Waiting := { unit := c, tag := t, since := s.clk }

/-- The streamer keeps at most 8 bursts in issue (R292). -/
def streamerFull (s : State) (c : Consumer) : Bool :=
  c == .streamer && 8 ≤ ((ledger s .core).grants.filter fun g => g.unit == .streamer).length +
    ((ledger s .core).reqs.filter fun r => r.unit == .streamer).length

/-- A unit requests a grant; a request that already waits keeps its instant. -/
def request (c : Consumer) (t : Tag) (s : State) : State :=
  if (ledger s (ledgerOf c)).reqs.any (fun r => r.unit == c && r.tag == t) || streamerFull s c then s
  else setLedger (ledgerOf c) (fun l => { l with reqs := l.reqs ++ [requestOf c t s] }) s

def holdsGrant (s : State) (c : Consumer) : Bool := (ledger s (ledgerOf c)).grants.any (·.unit == c)

/-- The first grant of a consumer ends (R38). -/
def endGrant (c : Consumer) (s : State) : State :=
  setLedger (ledgerOf c) (fun l => { l with grants := l.grants.eraseP (·.unit == c) }) s

/-- Every grant and request of some units and tags ends. -/
def dropGrants (p : Consumer → Tag → Bool) (s : State) : State :=
  let f := fun (l : LedgerSt) => { l with
    grants := l.grants.filter (fun g => !p g.unit g.tag), reqs := l.reqs.filter (fun r => !p r.unit r.tag) }
  setLedger .core f (setLedger .io f s)

/-- Every grant and request of the units ends. -/
def dropUnits (p : Consumer → Bool) (s : State) : State := dropGrants (fun u _ => p u) s

/-- R16: a burst of a unit happens under a grant that ends with it; without one the unit requests it and
waits. -/
def withBurst (c : Consumer) (t : Tag) (k : State → State) (s : State) : State :=
  if holdsGrant s c then k (endGrant c s) else request c t s

/-- The same of a unit that serves several passes at once: the grant carries the tag (R510). -/
def withTagged (c : Consumer) (t : Tag) (k : State → State) (s : State) : State :=
  let own := fun (g : Grant) => g.unit == c && g.tag == t
  if (ledger s (ledgerOf c)).grants.any own then
    k (setLedger (ledgerOf c) (fun l => { l with grants := l.grants.eraseP own }) s)
  else request c t s

/-- R16: an operation under a leased grant, which stays held; without one the unit requests it and waits. -/
def withLease (c : Consumer) (t : Tag) (k : State → State) (s : State) : State :=
  if holdsGrant s c then k s else request c t s

/-- The host-interface engine can send: its island runs, and Bus Master Enable is set in D0. -/
def hifRuns (s : State) : Bool := islRuns s 30 && islRuns s 28 && s.link.up && s.link.bme && !s.link.d3

/-- A burst of the host-interface engine (R16, R119): it is held while Bus Master Enable is clear or the
function is in D3hot, then waits for its grant. -/
def withDma (forCmd : Option Nat) (k : State → State) (s : State) : State :=
  if !hifRuns s then s else withBurst (.dma forCmd) .system k s

end Sys2Proof.Machine
end

