-- ==== Sys2Proof/Machine/Serve.lean ====
section
/-! DEFINITION. Partitions, charges and placement (R137 to R143), session state (R145, R395 to R397), and the
commit point that ends a command (R200, R214). -/

namespace Sys2Proof.Machine

/-! ### Carve-outs and user parts (R137, R139, R140) -/

/-- The sum of a quota over the existing partitions numbered below p (R137). -/
def sumBelow (c : Score) (f : PartCfg → Nat) (p : Nat) : Nat :=
  ((List.range 8).map fun i => if i < p then ((c.parts[Fin.ofNat 8 i]).map f).getD 0 else 0).sum

/-- Early service holds S3, V12 to V15 and strips 48 to 63 (R108, R139): from the accepted score until early
service ends or fails. -/
def earlyHolds (s : State) : Bool :=
  ((s.score.bind (·.early)).isSome) && !s.bsc.earlyFail && (s.bsc.stage != .full || s.bsc.early)

/-- Stacked memory begins here; a granule is 64 KiB (R126, R143). -/
def stackBase : Nat := 0x100000000
def granule : Nat := 0x10000

/-- Usable 2 MiB units of the part (R99). -/
def usableUnits (s : State) : Nat := if s.fuses.dram == 2 then 7680 else if s.fuses.dram == 1 then 3840 else 0

/-- First unit and number of units of a tier's carve-out (R137): granules, strips or section units. -/
def carve (s : State) (p : Part) (tier : Nat) : Nat × Nat :=
  match s.score, partCfg s p with
  | some c, some g => match tier with
    | 1 => (32 * sumBelow c (·.dramUnits) p, 32 * g.dramUnits)
    | 2 => (sumBelow c (·.strips) p, g.strips)
    | 3 => (sumBelow c (·.sectionUnits) p, g.sectionUnits)
    | 5 => (0, g.voiceShare)
    | 6 => (0, g.sessions)
    | _ => (0, 0)
  | _, _ => (0, 0)

/-- The USER field of a tier (R140). -/
def userPart (s : State) (p : Part) (tier : Nat) : Nat :=
  match tier with
  | 1 => (pageOf s p).userDram
  | 2 => (pageOf s p).userStrips
  | 3 => (pageOf s p).userSec
  | _ => 0

/-- Units that early service withholds from the carve-outs (R139). -/
def withheld (s : State) (tier u : Nat) : Bool :=
  earlyHolds s && ((tier == 2 && 48 ≤ u) || (tier == 3 && u % 4 == 3))

/-- The managed units of a tier that are not withheld. -/
def managed (s : State) (p : Part) (tier : Nat) : Nat :=
  let (a, n) := carve s p tier
  let u := userPart s p tier
  if tier = 2 ∨ tier = 3 then ((List.range (n - u)).filter fun i => !withheld s tier (a + u + i)).length
  else n - u

/-- The charge of the partition in a tier (R142): USED, HELD and SESSIONS.USED. -/
def used (s : State) (p : Part) (tier : Nat) : Nat :=
  ((s.objs.filter fun o => o.part == p && o.tier == tier).map fun o => (o.ext.map (·.2)).sum).sum

/-- The room of R143. -/
def room (s : State) (p : Part) (tier : Nat) : Nat := managed s p tier - used s p tier

/-- Units of a tier occupied by objects. -/
def occupied (s : State) (tier : Nat) : List (Nat × Nat) :=
  (s.objs.filter (·.tier == tier)).flatMap (·.ext)

def freeAt (occ : List (Nat × Nat)) (a n : Nat) : Bool := occ.all fun e => a + n ≤ e.1 || e.1 + e.2 ≤ a

/-- The highest place at or above `lo` where `n` units are free and none is excluded, from `a` downwards in steps
of `n` (R140). -/
def highestFree (occ : List (Nat × Nat)) (bad : Nat → Bool) (lo n : Nat) : Nat → Nat → Option Nat
  | 0, _ => none
  | k + 1, a =>
    if a < lo then none
    else if freeAt occ a n && !bad a then some a
    else if a < n then none else highestFree occ bad lo n k (a - n)

/-- Place one object of `n` units (`n` 1, or 32 for a whole 2 MiB unit) in the managed part. -/
def placeOne (s : State) (p : Part) (tier n : Nat) (occ : List (Nat × Nat)) : Option Nat :=
  let (a, c) := carve s p tier
  highestFree occ (withheld s tier) (a + userPart s p tier) n (c + 1) (a + c - n)

/-- Place `k` pieces of `n` units, each at the highest free place. -/
def placeMany (s : State) (p : Part) (tier n : Nat) : Nat → List (Nat × Nat) → List (Nat × Nat)
  | 0, _ => []
  | k + 1, occ =>
    match placeOne s p tier n occ with
    | none => []
    | some a => (a, n) :: placeMany s p tier n k ((a, n) :: occ)

/-- The extents of a resident model of `u` 2 MiB units: whole units, highest first, the resident space in
ascending address; where whole units run out, single granules (R140, log entry 14). -/
def placeModel (s : State) (p : Part) (u : Nat) : List (Nat × Nat) :=
  let occ := occupied s 1
  let whole := placeMany s p 1 32 u occ
  let rest := placeMany s p 1 1 (32 * (u - whole.length)) (whole ++ occ)
  (whole ++ rest).reverse

def addObj (p : Part) (tier : Nat) (k : ObjKind) (ext : List (Nat × Nat)) (s : State) : State :=
  { s with objs := s.objs ++ [{ part := p, tier := tier, kind := k, ext := ext }] }

def dropObjs (f : Obj → Bool) (s : State) : State := { s with objs := s.objs.filter fun o => !f o }

/-- A placed object of `n` separate units in tiers 1 to 3. -/
def placeObj (p : Part) (tier : Nat) (k : ObjKind) (n : Nat) (s : State) : State :=
  addObj p tier k (placeMany s p tier 1 n (occupied s tier)) s

/-- The device address of a granule, and of the section unit u (R137). -/
def granuleAddr (g : Nat) : Nat := stackBase + granule * g
def sectionAddr (u : Nat) : Nat := 0x800000 * (u % 4) + 0x10000 * (u / 4)

/-! ### The user part in addresses (R127, R140, R167) -/

/-- The section unit that holds an address. -/
def sectionUnit (a : Nat) : Option Nat :=
  if a < 0x2000000 ∧ a % 0x800000 < 0x600000 then some (4 * (a % 0x800000 / 0x10000) + a / 0x800000) else none

/-- An address lies in the user part of one of the partition's tiers. -/
def inUserByte (s : State) (p : Part) (a : Nat) : Bool :=
  let inTier := fun (t u : Nat) =>
    let (c, _) := carve s p t
    c ≤ u && u < c + userPart s p t && !withheld s t u
  if a < 0x2000000 then match sectionUnit a with
    | some u => inTier 3 u
    | none => false
  else if a < 0x3000000 then inTier 2 ((a - 0x2000000) / 0x40000)
  else if stackBase ≤ a ∧ a < stackBase + usableUnits s * 0x200000 then inTier 1 ((a - stackBase) / granule)
  else false

/-- A buffer lies wholly in the user part: every 64 KiB piece that it touches does. -/
def inUser (s : State) (p : Part) (a n : Nat) : Bool :=
  n != 0 && inUserByte s p a && inUserByte s p (a + n - 1) &&
  (List.range (n / granule + 1)).all fun i => a + n ≤ a + i * granule || inUserByte s p (a + i * granule)

def hostWinBase : Nat := 0x8000000000

/-- A buffer lies wholly in the partition's host window (R128). -/
def inHostWin (s : State) (p : Part) (a n : Nat) : Bool :=
  hostWinBase ≤ a && (a - hostWinBase) + n ≤ s.glb.hwin[p].len * 0x100000

/-- The host bus address of a host-window address (R128). -/
def hostAddr (s : State) (p : Part) (a : Nat) : Nat := s.glb.hwin[p].base + (a - hostWinBase)

/-- A command's buffer is valid (R167). -/
def bufferOk (s : State) (p : Part) (a n : Nat) : Bool := inHostWin s p a n || inUser s p a n

/-! ### Sessions (R145, R394) -/

/-- The session key of a command: its context, or a key of its own for context 0 (R146). -/
def Cmd.key (c : Cmd) : Nat := if c.ctx = 0 then 4294967296 + 2 * c.id else c.ctx

/-- The key of KV pages that no session holds any more and a row of a running pass still uses (R27). -/
def goneKey (id : Nat) : Nat := 4294967296 + 2 * id + 1

def ctxOf (s : State) (p : Part) (key : Nat) : Option Ctx := s.ctxs.find? fun x => x.part == p && x.num == key

def setCtx (p : Part) (key : Nat) (f : Ctx → Ctx) (s : State) : State :=
  { s with ctxs := s.ctxs.map fun x => if x.part = p ∧ x.num = key then f x else x }

/-- A new session with the partition's default binding (R145, R146); it is an object of tier 6. -/
def newCtx (p : Part) (key : Nat) (s : State) : State :=
  let d := s.defMask[p]
  let x : Ctx :=
    { part := p, num := key, st := .new, model := none, pos := 0, log := [], mask := d.map (·.1)
      mstate := (d.map (·.2)).getD 0
      draft := none
      image := none
      early := false
      idleSince := s.clk }
  addObj p 6 (.session key) [(0, 1)] { s with ctxs := s.ctxs ++ [x] }

/-- The objects of a session. -/
def ofCtx (p : Part) (key : Nat) (o : Obj) : Bool :=
  o.part == p && match o.kind with
    | .kv k _ | .hush k | .session k => k == key
    | _ => false

def isKv (p : Part) (key : Nat) (o : Obj) : Bool :=
  o.part == p && match o.kind with
    | .kv k _ => k == key
    | _ => false

/-- Objects of sessions are freed; a KV page that a row of a running pass uses stays with that row up to the pass boundary
(R27, R216). -/
def freeObjs (f : Obj → Bool) (s : State) : State :=
  let rows := s.passes.flatMap (·.rows)
  let left := fun (o : Obj) => match o.kind with
    | .kv k pg => (rows.find? fun r => r.part == o.part && r.key == k).map fun r =>
        { o with kind := .kv (goneKey r.cmd) pg }
    | _ => none
  { s with objs := s.objs.filterMap fun o => if f o then left o else some o }

/-- Session state is freed with everything it holds. -/
def dropCtx (p : Part) (key : Nat) (s : State) : State :=
  freeObjs (ofCtx p key) { s with ctxs := s.ctxs.filter fun x => !(x.part == p && x.num == key) }

/-! ### KV geometry (R395, R397) -/

/-- Positions per page of a layer, as a power of two: the largest with S × Lb ≤ 65,536. -/
def pagePow (lb : Nat) : Nat → Nat
  | 0 => 1
  | k + 1 => if 2 ^ (k + 1) * lb ≤ 65536 then 2 ^ (k + 1) else pagePow lb k

/-- Per-layer bytes of a token (R395). -/
def layerBytes (h : ImgHdr) : Nat := if h.layers = 0 then 0 else h.kvPerToken / h.layers

/-- Pages of a layer whose first position is below n, and the first position of page j. -/
def layerPages (lb n : Nat) : Nat :=
  if lb = 0 then 0 else if lb ≤ 65536 then ceilDiv n (pagePow lb 16) else n * ceilDiv lb 65536

/-- The layers that this device holds of a model: its own, for a part image (R439). -/
def ownLayers (h : ImgHdr) : List Nat :=
  match h.split with
  | some sp => (List.range h.layers).filter fun l => sp.first ≤ l && l ≤ sp.last
  | none => List.range h.layers

/-- The pages that positions below n need: every layer, and the token log unless for the draft. -/
def kvPagesFor (h : ImgHdr) (draft : Bool) (n : Nat) : List KvPage :=
  ((ownLayers h).flatMap fun l =>
    (List.range (layerPages (layerBytes h) n)).map fun j => { draft := draft, layer := some l, idx := j }) ++
  (if draft then [] else (List.range (ceilDiv n 16384)).map fun j => { draft := false, layer := none, idx := j })

/-- The KV pages that a session holds. -/
def heldPages (s : State) (p : Part) (key : Nat) : List KvPage :=
  s.objs.filterMap fun o => match o.kind with
    | .kv k pg => if o.part == p && k == key then some pg else none
    | _ => none

/-- The pages below the bound that the session does not already hold (R397). -/
def missingPages (s : State) (p : Part) (key : Nat) (h : ImgHdr) (draft : Bool) (n : Nat) : List KvPage :=
  let held := heldPages s p key
  (kvPagesFor h draft n).filter fun pg => !held.contains pg

/-- Reserve pages, each one granule at the highest free place. -/
def reservePages (p : Part) (key : Nat) (pgs : List KvPage) (s : State) : State :=
  pgs.foldl (fun s pg => placeObj p 1 (.kv key pg) 1 s) s

/-- The header of the model that a session or command runs on; early models are in `early`. -/
def hdrOf (s : State) : ModelRef → Option ImgHdr
  | .handle h => if s.models[h].st == .empty then none else some s.models[h].hdr
  | .early => s.early.map (·.hdr)

/-- A session keeps the pages whose first position is below P and releases the rest (R397). -/
def trimPages (p : Part) (key : Nat) (s : State) : State :=
  match ctxOf s p key with
  | none => s
  | some x =>
    let keepT := match x.model.bind (hdrOf s) with
      | some h => kvPagesFor h false x.pos
      | none => []
    let keepD := match x.draft with
      | some (h, _) => kvPagesFor s.models[h].hdr true x.pos
      | none => []
    freeObjs (fun o => match o.kind with
      | .kv k pg => o.part == p && k == key && !(keepT.contains pg || keepD.contains pg)
      | _ => false) s

/-! ### Ending a command (R200, R202, R214) -/

/-- Queued time so far, with a wait still running (R202). -/
def queuedNow (s : State) (c : Cmd) : Nat :=
  c.queuedNs + match c.waitFrom with
    | some t => s.clk - t
    | none => 0

/-- A wait that counts as queued time begins or ends (R202). -/
def startWait (id : Nat) (s : State) : State :=
  setCmd id (fun c => if c.waitFrom.isSome then c else { c with waitFrom := some s.clk }) s
def endWait (id : Nat) (s : State) : State :=
  setCmd id (fun c => { c with queuedNs := queuedNow s c, waitFrom := none }) s

/-- A completion record of a command (R200). -/
def recordOf (s : State) (c : Cmd) (status detail : Nat) (refused : Bool) (payload : List Byte) : CompRec :=
  { status := status, opcode := c.op, tag := c.tag, ctx := c.ctx,
    admission := if refused then 2 else c.admission, early := c.early, detail := detail % 65536,
    queuedUs := min 0xFFFFFF (queuedNow s c / 1000), payload := payload,
    breathUs := min 0xFFFFFF (c.breathNs / 1000), cmd := c.id, held := false }

/-- A record enters the queue of its partition; FULL counts when it finds no room (R155, R164). None is written
in MUTE (R102). -/
def queueRec (p : Part) (r : CompRec) (s : State) : State :=
  if muted s then s
  else setPage p (fun g =>
    let full := g.cqWait.length == g.cq.room
    { g with cqWait := g.cqWait ++ [{ r with held := decide (g.cq.room ≤ g.cqWait.length) }]
             cq := { g.cq with fullCount := if full then satAdd 255 g.cq.fullCount 1 else g.cq.fullCount } }) s

/-- A record of the command found no room and is not yet written (R155). -/
def recordWaits (s : State) (c : Cmd) : Bool := (pageOf s c.part).cqWait.any fun r => r.cmd == c.id && r.held

/-- HIF_CQ_STATUS.FULL: a record waits for room (R155). -/
def cqFull (g : Page) : Bool := g.cq.room < g.cqWait.length

def isWork (op : Nat) : Bool := 0x20 ≤ op && op ≤ 0x23

/-- The row of a command is in a pass that runs: it is freed at the pass boundary (R27). -/
def inPass (s : State) (id : Nat) : Bool := s.passes.any fun p => p.rows.any (·.cmd == id)

/-- A context keeps what its state holds (R394, R397): the pages below P while LIVE, the image while HUSHED; without
session state nothing. Reservations of a command that has ended go. -/
def settleCtx (p : Part) (key : Nat) (s : State) : State :=
  match ctxOf s p key with
  | none => freeObjs (ofCtx p key) s
  | some x =>
    let noKv := freeObjs (isKv p key)
    let noHush := dropObjs fun o => o.part == p && o.kind == .hush key
    let s := match x.st with
      | .live => noHush (trimPages p key s)
      | .hushed => noKv s
      | _ => noHush (noKv s)
    setCtx p key (fun x => { x with idleSince := s.clk }) s

/-- What a command held or had reserved ends with it (R142, R212, R397): row working space, unless a running pass still uses
it, voices, and the pages beyond P or a transient session; the images that a HUSH of context 0 was building. -/
def releaseCmd (c : Cmd) (s : State) : State :=
  let busy := inPass s c.id
  let s := dropObjs (fun o => match o.kind with
    | .row i => i == c.id && !busy
    | .voices i => i == c.id
    | .mask _ l => l == some c.id
    | _ => false) s
  if isWork c.op ∧ c.ctx = 0 then dropCtx c.part c.key s
  else if !c.reserved then s
  else if c.ctx ≠ 0 then settleCtx c.part c.ctx s
  else if c.op = 0x28 then
    dropObjs (fun o => o.part == c.part && match o.kind with
      | .hush k => ((ctxOf s c.part k).map (·.st == .live)).getD true
      | _ => false) s
  else s

/-- Commands of early service in flight (R110). -/
def earlyInFlight (s : State) : Bool := s.cmds.any (·.early)

/-- Contexts with early session state: those that a command of early service created. -/
def isEarlyCtx (x : Ctx) : Bool := x.early

/-- Contexts with early session state whose last early command has completed are destroyed once FULL has begun,
and early service ends with the last (R110). -/
def settleEarly (s : State) : State :=
  if s.bsc.stage != .full || !s.bsc.early then s
  else
    let gone := s.ctxs.filter fun x => isEarlyCtx x && !(s.cmds.any fun c => c.early && c.part == x.part && c.key == x.num)
    let named := gone.filter (·.num < 65536)
    let s := gone.foldl (fun s x => dropCtx x.part x.num s) s
    let s := { s with bsc := { s.bsc with earlyDropped := min 15 (s.bsc.earlyDropped + named.length) } }
    if earlyInFlight s then s
    else stageChange { s with
      bsc := { s.bsc with early := false, drain := false }
      early := none
      strips := s.strips.map fun t => if t.owner = some .early then Strip.reset else t }

/-- A command leaves the table at its commit point without a record (R129, R214). -/
def leave (c : Cmd) (s : State) : State :=
  let s := releaseCmd c { s with cmds := s.cmds.filter (·.id != c.id) }
  if ([0x10, 0x11, 0x28, 0x29, 0x38, 0x48, 0x49] : List Nat).contains c.op then markIdle s else s

/-- The commit point of a command (R214): it leaves the table, its reservations end, its one final record is
queued, and a fault status writes a record of kind 0x16 (R208). -/
def finish (id status detail : Nat) (refused : Bool) (payload : List Byte) (s : State) : State :=
  match cmdOf s id with
  | none => s
  | some c =>
    let r := recordOf s c status detail refused payload
    let s := if c.silent then leave c s else queueRec c.part r (leave c s)
    let s := if 0x40 ≤ status ∧ status ≤ 0x60 ∧ !c.silent then
        logErr { cmdErr 0x16 24 c s with arg1 := status, arg2 := detail } s
      else s
    settleEarly s

/-- The payload of 16 bytes (R165) from its fields: byte offset, size, value. -/
def payloadOf (fs : List (Nat × Nat × Nat)) : List Byte :=
  fs.foldl (fun b (o, n, v) => patch b o (toLe n v)) (List.replicate 16 0)

/-- The 16 bytes of a completion that defines no payload. -/
def noPayload : List Byte := List.replicate 16 0

/-- END of R183 for an ending that no rule of the mask or of MAX_TOKENS gives. -/
def endOf (status : Nat) : Nat := if status = 0x02 then 4 else if status = 0x24 then 5 else 6

/-- The committed position of a command's context. -/
def positionOf (s : State) (c : Cmd) : Nat := ((ctxOf s c.part c.key).map (·.pos)).getD 0

/-- The payload of a GENERATE (R183). -/
def genPayload (s : State) (c : Cmd) (ending : Nat) : List Byte :=
  payloadOf [(0, 4, c.work.reported), (4, 4, c.work.gen.length - c.work.reported), (8, 4, positionOf s c),
    (12, 1, ending), (14, 2, min 65535 c.work.accepted)]

/-- The payload of a command that ends before its natural end (R165, R180, R183). -/
def failPayload (s : State) (c : Cmd) (status : Nat) : List Byte :=
  if c.op = 0x21 then genPayload s c (endOf status)
  else if c.op = 0x20 then payloadOf [(0, 4, positionOf s c - c.work.start), (4, 4, positionOf s c)]
  else noPayload

/-! ### The models of a command (07) -/

def Cmd.byte (c : Cmd) (i : Nat) : Nat := byteAt c.entry i
def Cmd.field (c : Cmd) (i n : Nat) : Nat := le c.entry i n
def Cmd.handle (c : Cmd) : Handle := Fin.ofNat 64 c.model
def Cmd.ref (c : Cmd) : ModelRef := if c.early then .early else .handle c.handle
def Cmd.isGen (c : Cmd) : Bool := c.op == 0x21
def Cmd.specK (c : Cmd) : Nat := if c.isGen && !c.early then c.byte 45 else 0
def Cmd.draft (c : Cmd) : Handle := Fin.ofNat 64 (c.byte 46)

/-- The command runs on the model as its target or drafts on it. -/
def asTarget (c : Cmd) (m : ModelRef) : Bool := isWork c.op && c.ref == m
def asDraft (c : Cmd) (m : ModelRef) : Bool :=
  c.specK != 0 && !c.work.noDraft && (match m with | .handle h => c.draft == h | .early => false)

/-- A command was admitted: it is neither waiting nor in the deferral queue (R201). -/
def Cmd.admitted (c : Cmd) : Bool := c.phase == .ready || c.phase == .running

/-- A record or output of the command waits while the host-interface engine issues no request: its sequence keeps its row and
waits (R119). -/
def dmaHeld (s : State) (c : Cmd) : Bool :=
  !hifRuns s && ((pageOf s c.part).cqWait.any (·.cmd == c.id) || (pageOf s c.part).outWait.any (·.1 == c.id))

/-- A model of the command is behind its barrier (R302). -/
def behindBarrier (s : State) (c : Cmd) : Bool :=
  (!c.early && s.models[c.handle].barrier) || (c.specK != 0 && !c.work.noDraft && s.models[c.draft].barrier)

/-- A model of the command is repaired (R295). -/
def behindRepair (s : State) (c : Cmd) : Bool :=
  (!c.early && s.models[c.handle].repairing.isSome) ||
  (c.specK != 0 && !c.work.noDraft && s.models[c.draft].repairing.isSome)

/-- A rule keeps the command's row from its next pass, and counts the wait as queued time (R119, R155, R295, R302, R503). -/
def rowHeld (s : State) (c : Cmd) : Bool :=
  recordWaits s c || dmaHeld s c || behindBarrier s c || behindRepair s c || paused s

/-- The waits of started work commands begin and end with what holds their rows back (R202). -/
def syncHolds (who : Cmd → Bool) (s : State) : State :=
  { s with cmds := s.cmds.map fun c =>
      if !(isWork c.op && c.phase == .running && who c) || inPass s c.id then c
      else if rowHeld s c then (if c.waitFrom.isSome then c else { c with waitFrom := some s.clk })
      else { c with queuedNs := queuedNow s c, waitFrom := none } }

/-- The command names the handle as its model or its draft. -/
def ofHandle (h : Handle) (c : Cmd) : Bool := asTarget c (.handle h) || asDraft c (.handle h)

/-- A command ends before its natural end. -/
def failCmd (id status detail : Nat) (s : State) : State :=
  match cmdOf s id with
  | none => s
  | some c =>
    finish id status detail (!c.admitted) (if c.admitted ∨ c.op = 0x21 then failPayload s c status else noPayload) s

/-! ### The requester (R117) -/

/-- The longest read request and the longest write of the requester. -/
def maxRead (s : State) : Nat := 128 * 2 ^ min 2 s.link.mrrs
def maxWrite (s : State) : Nat := 128 * 2 ^ min 1 s.link.mps

/-- Read requests that have not completed, and how many may be so. -/
def outstanding (s : State) : Nat :=
  (s.cmds.map fun c => ceilDiv (c.inAsked - c.input.length) (maxRead s)).sum +
    (s.hif.pages.toList.filter fun g => g.asked != 0).length
def tagLimit (s : State) : Nat := if s.link.tag10 then 512 else 256

def ensCfg (s : State) : Option EnsCfg := s.score.bind (·.ens)
def deviceNo (s : State) : Nat := ((ensCfg s).map (·.device)).getD 0

/-- DETAIL of DATA_CORRUPT: the device number, and the layer (R204). -/
def corruptDetail (s : State) (layer : Nat) : Nat := deviceNo s + 0x100 * if layer = 0xFFFF then 0xFF else min 0xFE layer

/-! ### Voices in service (R22, R192, R510) -/

def voiceOf (s : State) (n : Voice) : VoiceSt := s.voices[n]
def setVoice (n : Voice) (f : VoiceSt → VoiceSt) (s : State) : State :=
  { s with voices := s.voices.set n (f s.voices[n]) }

def setOf (s : State) (cmd : Nat) : Option KSet := s.sets.find? (·.cmd == cmd)
def passOf (s : State) (m : ModelRef) : Option Pass := s.passes.find? (·.model == m)

/-- The model that a pass uses. -/
def modelOf (s : State) : ModelRef → Option Model
  | .handle h => if s.models[h].st == .empty then none else some s.models[h]
  | .early => s.early

def setModel (h : Handle) (f : Model → Model) (s : State) : State :=
  { s with models := s.models.set h (f s.models[h]) }

/-- The same of the model that a pass uses. -/
def setRef (m : ModelRef) (f : Model → Model) (s : State) : State :=
  match m with
  | .handle h => setModel h f s
  | .early => { s with early := s.early.map f }

def setPass (m : ModelRef) (f : Pass → Pass) (s : State) : State :=
  { s with passes := s.passes.map fun p => if p.model = m then f p else p }

/-- Rows of each partition in a batch. -/
def rowCounts (rows : List PassRow) : List Nat :=
  (List.range 8).map fun i => (rows.filter (·.part.val == i)).length

/-- The batch tag of a pass (R510). The rows of a split pass lie on the entry device, all of the part's partition: on another
stage that partition bears the pass. -/
def passTag (s : State) (p : Pass) : Tag :=
  .batch p.model (match p.rows, p.model with
    | [], .handle h => (List.range 8).map fun i => b2n (s.models[h].owner.val == i)
    | rows, _ => rowCounts rows)

/-- The batch tag of the running pass of a model. -/
def modelTag (s : State) (m : ModelRef) : Tag := ((passOf s m).map (passTag s)).getD .system

/-- The tag of the voice's grants: its set's partition, or the rows of its pass (R510). -/
def voiceTag (s : State) (n : Voice) : Tag :=
  match (voiceOf s n).run with
  | .set c _ => ((setOf s c).map fun k => Tag.part k.part).getD .system
  | .pass m => modelTag s m
  | _ => .system

end Sys2Proof.Machine
end

