-- ==== Sys2Proof/Machine/Breath.lean ====
section
/-! DEFINITION. The breath governor (02): standing charges, arbitration (R40), partition charges (R41), the pin
(R46 to R51), over-current (R49), and the commands of the breath family with the BRG registers (R52). -/

namespace Sys2Proof.Machine

/-! ### Standing charges (R36) -/

/-- Uncore: islands 25 to 28 and 30 together, while any is powered. -/
def uncoreOn (s : State) : Bool :=
  islPowered s 25 || islPowered s 26 || islPowered s 27 || islPowered s 28 || islPowered s 30

/-- The standing charges of a ledger. In REST only AON's (R501), in MUTE those of islands 0 and 28 (R102). -/
def standing (s : State) : Ledger → Nat
  | .core =>
    if s.pwr.st == .rest && s.pwr.waking.isNone then 1
    else if muted s then 1 + b2n (islPowered s 28)
    else 1 + 2 + b2n (uncoreOn s) + b2n (portTrained s) + b2n (mirrorOn s)
  | .io => if muted s || !refreshOn s then 0 else 6

/-- The total of a ledger at the present instant (R30). -/
def total (s : State) (l : Ledger) : Nat := standing s l + granted s l

/-- The smallest total of the last microsecond: over the instants recorded inside it and the one in force at its
start (R32). -/
def minLast (now cur : Nat) : List (Nat × Nat) → Nat
  | [] => cur
  | (t, g) :: rest => if t + 1000 ≤ now then min cur g else minLast now (min cur g) rest

/-- The history kept: the instants of the last microsecond and the one before. -/
def pruneHist (now : Nat) : List (Nat × Nat) → List (Nat × Nat)
  | [] => []
  | e :: rest => if e.1 + 1000 ≤ now then [e] else e :: pruneHist now rest

/-- The total as it now stands enters the history and the peak (R32, BRG_PEAK). -/
def noteLedger (l : Ledger) (s : State) : State :=
  let g := total s l
  setLedger l (fun d => { d with
    hist := match d.hist with
      | (t, g') :: rest => if g' = g then (t, g') :: rest else pruneHist s.clk ((s.clk, g) :: (t, g') :: rest)
      | [] => [(s.clk, g)]
    peak := max d.peak g }) s

def noteLedgers (s : State) : State := noteLedger .io (noteLedger .core s)

/-- What `f` lifts by a standing charge, or by a dearer operating point, enters the history and the peak as the governor's
own grants do: the total before, then the total after (R32, R36, R52). -/
def noteRise (l : Ledger) (s t : State) : State :=
  if total t l ≤ total s l then t
  else noteLedger l (setLedger l (fun d => { d with hist := (ledger (noteLedger l s) l).hist }) t)

def standingChange (f : State → State) (s : State) : State := noteRise .io s (noteRise .core s (f s))

/-- The limit of a ledger's total at an arbitration (R30, R32). -/
def ledgerLimit (s : State) (l : Ledger) : Nat :=
  min (effCeil s l) (minLast s.clk (total s l) (ledger s l).hist + slopeOf s l)

/-! ### Tags, charges and keys (R40, R41, R510) -/

/-- Rows of a partition in a batch tag. -/
def tagRows (rows : List Nat) (p : Nat) : Nat := rows.getD p 0

/-- The share of a cost that a tag charges to a partition, in 1/64 breath (R41). -/
def shareOf (t : Tag) (c : Nat) (p : Part) : Nat :=
  match t with
  | .part q => if q = p then 64 * c else 0
  | .batch _ rows => if rows.sum = 0 then 0 else 64 * c * tagRows rows p / rows.sum
  | .system => 0

/-- The tag of a grant at this instant: an idle breath carries that of the pass or KERNEL which holds the voice (R510). -/
def tagNow (s : State) (g : Grant) : Tag := match g.unit with
  | .voice v .idle => voiceTag s v
  | _ => g.tag

/-- BRG_CHARGE[p]: the charge of a partition, in 1/64 breath (R41). -/
def charge (s : State) (p : Part) : Nat :=
  let gs := s.brg.core.grants
  (gs.map fun g => shareOf (tagNow s g) (addedCost s.pwr.chargePt s.isl.pair gs g.unit) p).sum

def tagHas (t : Tag) (p : Part) : Bool :=
  match t with
  | .part q => q == p
  | .batch _ rows => tagRows rows p.val != 0
  | .system => false

/-- The partition is below its minimum (R41): `reqs` are the requests that wait. -/
def belowMin (s : State) (reqs : List Waiting) (p : Part) : Bool :=
  charge s p < 64 * s.brg.partMin[p] && reqs.any (fun r => tagHas r.tag p) && !s.brg.starved.getLsbD p.val

def classOf (s : State) (p : Part) : Nat := ((partCfg s p).map (·.cls)).getD 3

/-- The class of a tag: SYSTEM counts as 0, a batch as the lowest class among its partitions (R40). -/
def tagClass (s : State) (t : Tag) : Nat :=
  match t with
  | .part p => classOf s p
  | .batch _ _ => (List.range 8).foldl (fun m i =>
      if tagHas t (Fin.ofNat 8 i) then min m (classOf s (Fin.ofNat 8 i)) else m) 3
  | .system => 0

/-- The keys of R40 in turn: below minimum, class, instant, island. -/
def keysOf (s : State) (l : Ledger) (reqs : List Waiting) (r : Waiting) : List Nat :=
  let below := l == .core && (List.range 8).any fun i =>
    tagHas r.tag (Fin.ofNat 8 i) && belowMin s reqs (Fin.ofNat 8 i)
  [if below then 0 else 1, tagClass s r.tag, r.since, unitIsland r.unit]

/-- Lexicographic order of keys. -/
def keyLt : List Nat → List Nat → Bool
  | a :: as, b :: bs => a < b || (a == b && keyLt as bs)
  | _, _ => false

/-- The first of a list by its keys; the earlier among equals. -/
def firstBy {α : Type} (key : α → List Nat) : List α → Option α
  | [] => none
  | a :: rest => match firstBy key rest with
    | none => some a
    | some b => if keyLt (key b) (key a) then some b else some a

/-- The grants of a ledger once a request has its grant: a unit that holds one renews it (R38). -/
def grantsWith (s : State) (r : Waiting) (gs : List Grant) : List Grant :=
  (if oneGrant r.unit then gs.filter (·.unit != r.unit) else gs) ++
    [{ id := s.brg.nextId, unit := r.unit, tag := r.tag, since := s.clk }]

/-- The state as the ledger would stand after a grant. -/
def withGrant (l : Ledger) (r : Waiting) (s : State) : State :=
  setLedger l (fun d => { d with grants := grantsWith s r d.grants }) s

/-- From `s` to `t` some partition's charge rises above its maximum (R40, R42). -/
def overMax (s t : State) : Bool :=
  (List.range 8).any fun i =>
    let p : Part := Fin.ofNat 8 i
    64 * s.brg.partMax[p] < charge t p && charge s p < charge t p

/-- The wait of a burst of a command's own data beyond its first 40 ns adds to the command's breath-wait time (R45). -/
def noteWait (r : Waiting) (s : State) : State :=
  match r.unit with
  | .dma (some id) => setCmd id (fun c => { c with breathNs := c.breathNs + (s.clk - r.since - 40) }) s
  | _ => s

/-- The part of the time up to `till` in which a request has waited beyond its first 40 ns since the last instant (R45). -/
def waitedIn (s : State) (till : Nat) (r : Waiting) : Nat := till - max s.clk (r.since + 40)

/-- The lanes of a pass's pacing unit: to each of them, the requests of that lane. -/
def paceLanes (p : Pass) : List (Consumer → Bool) := match p.pacing with
  | .dram => (List.range 16).map fun i u => u == .dram (Fin.ofNat 16 i)
  | .flash => (List.range 2).map fun i u => u == .flash (Fin.ofNat 2 i)
  | .hostLink => [fun u => match u with | .dma _ => true | _ => false]
  | .voices => p.voices.map fun v u => match u with | .voice n _ => n == v | _ => false

/-- Time passes for the lanes of the running passes: W grows by the time in which each had a request waiting (R45). -/
def paceWaits (till : Nat) (s : State) : State :=
  let rs := s.brg.core.reqs ++ s.brg.io.reqs
  let lane := fun (f : Consumer → Bool) => rs.foldl (fun m r => if f r.unit then max m (waitedIn s till r) else m) 0
  { s with passes := s.passes.map fun p => { p with waitNs := p.waitNs + ((paceLanes p).map lane).sum } }

/-- Give a grant. -/
def giveGrant (l : Ledger) (r : Waiting) (s : State) : State :=
  let s := setLedger l (fun d => { d with reqs := d.reqs.erase r }) (withGrant l r s)
  noteWait r { s with brg := { s.brg with nextId := s.brg.nextId + 1 } }

/-- The arbitration of R40 over the remaining requests. G + cost is the total once the grant is given. -/
def arbitrate (l : Ledger) (limit : Nat) : Nat → List Waiting → State → State
  | 0, _, s => s
  | n + 1, rem, s =>
    match firstBy (keysOf s l rem) rem with
    | none => s
    | some r =>
      let rest := rem.erase r
      let t := withGrant l r s
      if l == .core && overMax s t then arbitrate l limit n rest s
      else if total t l ≤ limit then arbitrate l limit n rest (giveGrant l r s)
      else if 50000 ≤ s.clk - r.since then s
      else arbitrate l limit n rest s

/-- VIB_BRG: during a run each grant of a selected ledger is given DELAY × 10 ns later (R472). -/
def heldBack (s : State) (l : Ledger) (r : Waiting) : Bool :=
  s.vib.runFrom.isSome && (match l with | .core => s.vib.brgCore | .io => s.vib.brgIo) &&
  s.clk < r.since + 10 * s.vib.brgDelay

/-- A partition exists (R135). -/
def tagExists (s : State) (p : Part) : Bool := (partCfg s p).isSome

/-- The tag that a request of a unit carries (R510): of a voice, what holds it; of the host-interface engine and of an
island's ramp, SYSTEM; of every other unit, SYSTEM, an existing partition, or the rows of a running pass. -/
def tagOk (s : State) (r : BreathReq) : Bool :=
  match r.unit, r.tag with
  | .voice v _, t => t == voiceTag s v
  | .dma _, t | .ramp _, t => t == .system
  | _, .system => true
  | _, .part p => tagExists s p
  | _, .batch m rows => s.passes.any fun q => q.model == m && passTag s q == .batch m rows

/-- BREATH_GRANT: the new requests join those that wait, and the governor arbitrates. None is granted in MUTE or
REST (R102, R501). -/
def breathGrant (l : Ledger) (reqs : List BreathReq) (s : State) : State :=
  let s := noteLedger l s
  let s := (reqs.filter fun r => ledgerOf r.unit == l && tagOk s r).foldl (fun s r => request r.unit r.tag s) s
  if muted s || (s.pwr.st == .rest && s.pwr.waking.isNone) || s.isl.refLost then s
  else
    let rs := (ledger s l).reqs.filter fun r => !heldBack s l r
    noteLedger l (arbitrate l (ledgerLimit s l) rs.length rs s)

/-- A grant that is held while its island is clocked and not leased: the idle breath (R34, R37). -/
def isIdleBreath (g : Grant) : Bool := match g.unit with
  | .voice _ .idle => true
  | _ => false

/-- The clock of a voice island stops for want of its idle breath (R37): what the voice held ends, and the idle breath is
requested again. -/
def stopForBreath (v : Voice) (s : State) : State :=
  let both := if s.isl.pair.getLsbD (v.val / 2) then [v.val / 2 * 2, v.val / 2 * 2 + 1] else [v.val]
  both.foldl (fun s n =>
    let s := dropUnits (fun u => unitIsland u == n + 1) s
    let s := setIsl (Fin.ofNat 32 (n + 1)) (fun x => { x with
      st := if x.st = .run then .gated else x.st
      ramped := false
      bad := false
      fresh := false }) s
    request (.voice (Fin.ofNat 16 n) .idle) (voiceTag s (Fin.ofNat 16 n)) s) s

/-- The idle breath of a clocked island, 1 µs after it was given: it goes on where its renewal, arbitrated like any other,
fits; otherwise it ends and the island is gated until it is granted again (R37, R38, R47). -/
def renewIdle (v : Voice) (s : State) : State :=
  let r := requestOf (.voice v .idle) (voiceTag s v) s
  let t := withGrant .core r s
  if overMax s t || ledgerLimit s .core < total t .core then stopForBreath v s
  else { t with brg := { t.brg with nextId := t.brg.nextId + 1 } }

def isArray (g : Grant) : Bool := match g.unit with
  | .voice _ .array => true
  | _ => false

/-- Array grants end, the youngest first, while the total stands above the effective ceiling (R30): a dearer operating
point charges the grants held at its own costs at once (R35). -/
def shedArrays : Nat → State → State
  | 0, s => s
  | n + 1, s =>
    if total s .core ≤ effCeil s .core then s
    else match s.brg.core.grants.reverse.find? isArray with
      | some g => shedArrays n (setLedger .core (fun d => { d with grants := d.grants.filter (·.id != g.id) }) s)
      | none => s

/-- LEASE_EXPIRY: a grant ends 1 µs after it was given (R38). -/
def leaseExpiry (id : Nat) (s : State) : State :=
  let due := fun (g : Grant) => g.id == id && g.since + 1000 ≤ s.clk
  match s.brg.core.grants.find? fun g => due g && isIdleBreath g with
  | some g => match g.unit with
    | .voice v _ => noteLedger .core (renewIdle v (noteLedger .core s))
    | _ => s
  | none =>
    let f := fun (d : LedgerSt) => { d with grants := d.grants.filter fun g => !due g }
    noteLedgers (setLedger .core f (setLedger .io f s))

def execLeaseExpiry (id : Nat) (s : State) : Host.Outcome State Fault Refusal := live s (leaseExpiry id)

/-! ### The pin (R46 to R48, R51) -/

/-- The marks of R51: the partitions with a minimum, by class and then number, are admitted while 6 breaths and
the minimums still fit within BRG_CEIL_LOW. -/
def starvedMarks (s : State) : BitVec 8 :=
  let order := (List.range 4).flatMap fun c =>
    (List.range 8).filter fun i => classOf s (Fin.ofNat 8 i) == c && s.brg.partMin[Fin.ofNat 8 i] != 0
  (order.foldl (fun (acc : Nat × BitVec 8) i =>
    let m := s.brg.partMin[Fin.ofNat 8 i]
    if acc.1 + m ≤ s.brg.ceilLow then (acc.1 + m, acc.2) else (acc.1, acc.2 ||| BitVec.ofNat 8 (2 ^ i)))
    (6, 0)).2

def markStarved (s : State) : State :=
  if s.brg.lim then { s with brg := { s.brg with starved := starvedMarks s } } else s

def execBreathLimAssert (s : State) : Host.Outcome State Fault Refusal :=
  live s fun s => if s.brg.lim then s else occur 2 (markStarved { s with brg := { s.brg with lim := true } })

def execBreathLimRelease (s : State) : Host.Outcome State Fault Refusal :=
  live s fun s => { s with brg := { s.brg with lim := false, starved := 0 } }

/-! ### Over-current (R49) -/

/-- One sample of one ledger: four samples in a row above the effective ceiling plus the margin are detected,
unless the ledger is already held. -/
def sampleLedger (l : Ledger) (meas : Nat) (s : State) : State :=
  let d := ledger s l
  let excess := effCeil s l + s.brg.margin < meas
  let run := if excess && !d.oc then d.ocRun + 1 else 0
  let hit := run == 4
  let s := setLedger l (fun d => { d with meas := meas, ocRun := if hit then 0 else run, oc := d.oc || hit }) s
  if hit then logErr { devErr 0x10 0 s with arg1 := meas, arg2 := if l = .core then 0 else 1 } s else s

def execOverCurrentSample (core io : Nat) (s : State) : Host.Outcome State Fault Refusal :=
  live s fun s => sampleLedger .io io (sampleLedger .core core s)

/-- A W1C write of OC or IO_OC ends the hold; a new run starts at the next sample (R49). -/
def writeBrgStatus (v : Word) (s : State) : State :=
  let clr := fun (b : Bool) (d : LedgerSt) => if b then { d with oc := false, ocRun := 0 } else d
  setLedger .core (clr (v.getLsbD 1)) (setLedger .io (clr (v.getLsbD 2)) s)

def execBrgStatusWrite (v : Word) (s : State) : Host.Outcome State Fault Refusal :=
  live s (regWrite 0x1010 (writeBrgStatus v))

/-! ### The BRG registers (R50, R52) -/

def minSum (s : State) : Nat := ((List.range 8).map fun i => s.brg.partMin[Fin.ofNat 8 i]).sum

/-- BRG_CEIL: 8 to 400 (R50), and at least 6 plus the minimums (R43). -/
def writeBrgCeil (v : Word) (s : State) : State :=
  let c := bits v.toNat 8 0
  if c < 8 ∨ 400 < c then regRefused 0x1000 v 1 s
  else if c < 6 + minSum s then regRefused 0x1000 v 2 s
  else { s with brg := { s.brg with ceil := c } }

def execBrgCeilWrite (v : Word) (s : State) : Host.Outcome State Fault Refusal :=
  live s (regWrite 0x1000 (writeBrgCeil v))

def writeBrgCeilLow (v : Word) (s : State) : State :=
  let c := bits v.toNat 8 0
  if c < 8 ∨ 400 < c then regRefused 0x1004 v 1 s
  else markStarved { s with brg := { s.brg with ceilLow := c } }

def execBrgCeilLowWrite (v : Word) (s : State) : Host.Outcome State Fault Refusal :=
  live s (regWrite 0x1004 (writeBrgCeilLow v))

def writeBrgSlope (v : Word) (s : State) : State :=
  let c := bits v.toNat 6 0
  if 64 < c then regRefused 0x1008 v 1 s else { s with brg := { s.brg with slope := c } }

def writeBrgIoCeil (v : Word) (s : State) : State :=
  let c := bits v.toNat 6 0
  let l := bits v.toNat 14 8
  let k := bits v.toNat 20 16
  if c < 8 ∨ 64 < c ∨ l < 8 ∨ 64 < l ∨ 16 < k then regRefused 0x100C v 1 s
  else { s with brg := { s.brg with ioCeil := c, ioCeilLow := l, ioSlope := k } }

def writeBrgMargin (v : Word) (s : State) : State :=
  let c := bits v.toNat 5 0
  if c < 1 ∨ 32 < c then regRefused 0x1020 v 1 s else { s with brg := { s.brg with margin := c } }

/-- A slope of 0 is in force in either ledger (BRG_STATUS.HOLD). DESIGN CHOICE (log entry 20): the hold of an over-current,
"as a slope of 0 would" (R49), reads 1 too. -/
def holdBit (s : State) : Bool := slopeOf s .core == 0 || slopeOf s .io == 0

/-- BRG_EFF (R52). -/
def brgEff (s : State) : Word := w32 (effCeil s .core + 0x10000 * effCeil s .io)

/-- The value of a BRG register; `none` is unmapped. DESIGN CHOICE (log entry 20): a measured sum beyond its field of
BRG_MEAS reads as the field's highest value. -/
def brgRead (off : Nat) (s : State) : Option Word :=
  match off with
  | 0x1000 => some (w32 s.brg.ceil)
  | 0x1004 => some (w32 s.brg.ceilLow)
  | 0x1008 => some (w32 s.brg.slope)
  | 0x100C => some (w32 (s.brg.ioCeil + 0x100 * s.brg.ioCeilLow + 0x10000 * s.brg.ioSlope))
  | 0x1010 => some (w32 (b2n s.brg.lim + 2 * b2n s.brg.core.oc + 4 * b2n s.brg.io.oc + 8 * b2n (holdBit s)
      + 0x100 * s.brg.starved.toNat))
  | 0x1014 => some (w32 (total s .core % 512 + 0x10000 * (total s .io % 128)))
  | 0x1018 => some (brgEff s)
  | 0x101C => some (w32 (min 1023 s.brg.core.meas + 0x10000 * min 127 s.brg.io.meas))
  | 0x1020 => some (w32 s.brg.margin)
  | 0x1024 => some (w32 (max s.brg.core.peak (total s .core) % 512 + 0x10000 * (max s.brg.io.peak (total s .io) % 128)))
  | _ =>
    if 0x1040 ≤ off ∧ off < 0x1060 then
      let p : Part := Fin.ofNat 8 ((off - 0x1040) / 4)
      some (w32 (s.brg.partMin[p] + 0x10000 * s.brg.partMax[p]))
    else if 0x1060 ≤ off ∧ off < 0x1080 then some (w32 (charge s (Fin.ofNat 8 ((off - 0x1060) / 4))))
    else none

/-- BRG_PEAK clears at the read and resumes from the present totals (R509). -/
def brgReadEff (off : Nat) (s : State) : State :=
  if off = 0x1024 then
    setLedger .core (fun d => { d with peak := total s .core }) (setLedger .io (fun d => { d with peak := total s .io }) s)
  else s

def execBrgPeakRead (s : State) : Host.Outcome State Fault Refusal :=
  live s (regRead 0x1024 (brgRead 0x1024) (brgReadEff 0x1024))

/-- A write to a BRG register; `none` is unmapped. Read-only registers ignore writes (R9). -/
def brgWrite (off : Nat) (v : Word) (s : State) : Option State :=
  match off with
  | 0x1000 => some (writeBrgCeil v s)
  | 0x1004 => some (writeBrgCeilLow v s)
  | 0x1008 => some (writeBrgSlope v s)
  | 0x100C => some (writeBrgIoCeil v s)
  | 0x1010 => some (writeBrgStatus v s)
  | 0x1020 => some (writeBrgMargin v s)
  | _ => (brgRead off s).map fun _ => s

end Sys2Proof.Machine
end

