-- ==== Sys2Proof/Machine/Memory.lean ====
section
/-! DEFINITION. Section, window and stacked memory (R126): bytes in canonical form, ECC words and blocks (R249,
R342, R457), where a stacked address lies (R238, R239), uncorrectable reads (R250), and vibrato's injections
(R473, R474). -/

namespace Sys2Proof.Machine

/-! ### Bytes -/

/-- The byte at a device address; an unlisted one reads 0. -/
def memByte : Memory → Nat → Byte
  | [], _ => 0
  | (k, v) :: m, a => if k = a then v else memByte m a

/-- Write one byte: the list stays sorted, and a 0 is not listed. -/
def memSet : Memory → Nat → Byte → Memory
  | [], a, b => if b = 0 then [] else [(a, b)]
  | (k, v) :: m, a, b =>
    if k < a then (k, v) :: memSet m a b
    else if k = a then (if b = 0 then m else (a, b) :: m)
    else if b = 0 then (k, v) :: m else (a, b) :: (k, v) :: m

/-- The canonical form: addresses strictly rising, no byte equal to what an unlisted address reads as. -/
def Memory.wf : Memory → Bool
  | [] => true
  | (k, v) :: m => v != 0 && m.all (fun c => k < c.1) && Memory.wf m

def memRead (m : Memory) (a n : Nat) : List Byte := (List.range n).map fun i => memByte m (a + i)

def memWrite (m : Memory) (a : Nat) : List Byte → Memory
  | [] => m
  | b :: bs => memWrite (memSet m a b) (a + 1) bs

/-! ### Where a stacked address lies (R238, R239) -/

def bigPart (s : State) : Bool := s.fuses.dram == 2

/-- The order of a controller. -/
def orderOf (s : State) (d : Nat) : Nat :=
  (s.score.map fun c => if d = 0 then c.dram.order0 else c.dram.order1).getD 0

/-- Row-low bits of a region, and rows of data per bank. -/
def rowBits (s : State) : Nat := if bigPart s then 11 else 10
def dataRows (s : State) : Nat := 15 * 2 ^ rowBits s

/-- The place of an address: channel, bank, row and burst. -/
structure DramPlace where
  chan : Chan
  bank : Fin 16
  row : Nat
  burst : Nat
  deriving DecidableEq, Repr

/-- Bank and local channel, burst group, by order, from the controller offset q. -/
def placeOf (s : State) (addr : Nat) : DramPlace :=
  let x := addr - stackBase
  let ob := if bigPart s then 30 else 29
  let k := x / 2 ^ ob
  let o := x % 2 ^ ob
  let d := bits o 6 6
  let q := o / 128 * 64 + o % 64
  let low := q / 2 ^ 18
  let pick := fun (burst chan bank : Nat) =>
    { chan := Fin.ofNat 16 (8 * d + chan), bank := Fin.ofNat 16 bank, row := k * 2 ^ rowBits s + low,
      burst := 2 * burst + bits q 5 5 : DramPlace }
  match orderOf s d with
  | 1 => pick (bits q 17 13) (bits q 8 6) (bits q 12 9)
  | 2 => pick (bits q 10 6) (bits q 13 11) (bits q 17 14)
  | 3 => pick (bits q 13 9) (bits q 8 6) (bits q 17 14 ^^^ bits q 21 18)
  | _ => pick (bits q 13 9) (bits q 8 6) (bits q 17 14)

/-- The address of a block, from its place. -/
def addrOf (s : State) (c : Chan) (bank row burst : Nat) : Nat :=
  let d := c.val / 8
  let i := c.val % 8
  let k := row / 2 ^ rowBits s
  let low := row % 2 ^ rowBits s
  let b5 := burst % 2 * 32
  let g := burst / 2
  let q := match orderOf s d with
    | 1 => low * 2 ^ 18 + g * 2 ^ 13 + bank * 2 ^ 9 + i * 2 ^ 6 + b5
    | 2 => low * 2 ^ 18 + bank * 2 ^ 14 + i * 2 ^ 11 + g * 2 ^ 6 + b5
    | 3 => low * 2 ^ 18 + (bank ^^^ low % 16) * 2 ^ 14 + g * 2 ^ 9 + i * 2 ^ 6 + b5
    | _ => low * 2 ^ 18 + bank * 2 ^ 14 + g * 2 ^ 9 + i * 2 ^ 6 + b5
  stackBase + k * 2 ^ (if bigPart s then 30 else 29) + q / 64 * 128 + d * 64 + q % 64

/-- The check word of a data burst lies here (R246): bank, row, burst and byte. -/
def checkPlace (s : State) (bank row burst : Nat) : Nat × Nat × Nat × Nat :=
  (bank ^^^ 8, dataRows s + row / 16, 4 * (row % 16) + 2 * burst / 32, 2 * burst % 32)

/-! ### Channels -/

def setDmc (d : Fin 2) (f : Dmc → Dmc) (s : State) : State := { s with dmc := s.dmc.set d (f s.dmc[d]) }
def ctlOf (c : Chan) : Fin 2 := Fin.ofNat 2 (c.val / 8)
def localOf (c : Chan) : Fin 8 := Fin.ofNat 8 (c.val % 8)
def chanOf (s : State) (c : Chan) : Channel := s.dmc[ctlOf c].chans[localOf c]
def setChan (c : Chan) (f : Channel → Channel) (s : State) : State :=
  setDmc (ctlOf c) (fun d => { d with chans := d.chans.set (localOf c) (f d.chans[localOf c]) }) s

/-- A live counter of a channel adds `n`, wrapping (R261). -/
def bump (c : Chan) (j : Fin 8) (n : Nat) (s : State) : State :=
  setChan c (fun h => { h with live := h.live.set j ((h.live[j] + n) % 2 ^ 32) }) s

def sourceCode : DmcSource → Nat
  | .streamer => 0 | .voice _ => 1 | .hostDma => 2 | .bar2 => 3 | .scrub => 4

/-- An uncorrectable read other than scrub's (R250): DMC_UE, DMC_ERR, source 1, one record of kind 0x13. -/
def reportUe (addr kind source part : Nat) (who : Option Cmd) (s : State) : State :=
  let c := (placeOf s addr).chan
  let blk := addr / 32 * 32
  let s := setChan c (fun h => { h with ue := satAdd 65535 h.ue 1 }) s
  let s := setDmc (ctlOf c) (fun d => { d with
    errAddr := blk
    errChannel := c.val
    errSource := source
    errKind := kind
    errValid := true }) s
  logErr { about who (devErr 0x13 (25 + c.val / 8) s) with part := part, arg0 := blk, arg2 := c.val } (report 1 s)

/-- The same of every uncorrectable block of a read. -/
def reportUes (l : List (Nat × Nat)) (source part : Nat) (who : Option Cmd) (s : State) : State :=
  l.foldl (fun s e => reportUe e.1 e.2 source part who s) s

/-! ### ECC words and blocks -/

/-- The unit that ECC covers: 32-byte blocks of stacked memory (R246), 8-byte words of section and window memory
(R342, R457). -/
def eccUnit (a : Nat) : Nat := if stackBase ≤ a then 32 else 8

/-- The first uncorrectable unit that `n` bytes at `a` touch, and its kind. -/
def badIn (s : State) (a n : Nat) : Option (Nat × Nat) :=
  s.bad.find? fun b => b.1 < a + n && a < b.1 + eccUnit a

/-- The unit at `a` becomes uncorrectable. -/
def markBad (a kind : Nat) (s : State) : State :=
  let u := a / eccUnit a * eccUnit a
  { s with bad := (u, kind) :: s.bad.filter (·.1 != u) }

/-- The channel of a stacked address has failed (R256). -/
def deadAt (s : State) (a : Nat) : Bool := stackBase ≤ a && (chanOf s (placeOf s a).chan).dead

/-- Write bytes, unit by unit: a write of a whole unit replaces it, a partial write of an uncorrectable unit is not applied
(R248, R249, R342), and one to a failed channel is discarded (R256). `k` bounds the units. -/
def storeUnits : Nat → Nat → List Byte → State → State
  | 0, _, _, s => s
  | k + 1, a, bs, s =>
    if bs.isEmpty then s
    else
      let u := eccUnit a
      let n := min bs.length (u - a % u)
      let whole := n == u
      let s :=
        if deadAt s a || (!whole && (badIn s a n).isSome) then s
        else
          let left := if whole then s.bad.filter (·.1 != a) else s.bad
          { s with mem := memWrite s.mem a (bs.take n), bad := left }
      storeUnits k (a + n) (bs.drop n) s

def storeRaw (a : Nat) (bs : List Byte) (s : State) : State := storeUnits (bs.length + 1) a bs s

/-- The units that a write touches in part and that are uncorrectable: the merge finds the damage (R248, R342). -/
def badMerges (s : State) (a n : Nat) : List (Nat × Nat) :=
  s.bad.filter fun b => b.1 < a + n && a < b.1 + eccUnit a && (b.1 < a || a + n < b.1 + eccUnit a)

/-! ### Rows and check words (R245 to R247) -/

/-- The check word of a block: SECDED in its low bits, then six bits that fold address bits [39:5] by exclusive-or. DEDUCED (log
entry 39): six bits at a time, from bit 5. -/
def checkWord (a : Nat) (b : List Byte) : BitVec 16 :=
  let fold := (List.range 6).foldl (fun f i => f ^^^ (a % 2 ^ 40 / 2 ^ (5 + 6 * i) % 64)) 0
  BitVec.ofNat 16 ((Config.secded b).toNat + 1024 * fold)

/-- Close a row: the words of the check register that have changed are written back to their places (R247). -/
def closeRow (c : Chan) (b : Fin 16) (s : State) : State :=
  let back := fun (h : Channel) => match h.openRows[b] with
    | none => h
    | some o => { h with
        openRows := h.openRows.set b none
        checks := o.words.foldl (fun l (w : Nat × BitVec 16) =>
          let p := checkPlace s b.val o.row w.1
          (p, w.2) :: l.filter (·.1 != p)) h.checks }
  setChan c back s

def closeAll (c : Chan) (s : State) : State := (List.range 16).foldl (fun s b => closeRow c (Fin.ofNat 16 b) s) s

def partner (b : Fin 16) : Fin 16 := Fin.ofNat 16 (b.val ^^^ 8)

/-- Open a row: another row of the bank closes first, and so does the partner bank's row, which the check access
needs (R245, R247); the check register then holds the row's words. The activation is counted. -/
def openRow (c : Chan) (b : Fin 16) (r : Nat) (s : State) : State :=
  let s := closeRow c (partner b) (closeRow c b s)
  bump c 2 1 (setChan c (fun h => { h with openRows := h.openRows.set b (some { row := r, words := [] }) }) s)

def isOpenAt (s : State) (c : Chan) (b : Fin 16) (r : Nat) : Bool :=
  match (chanOf s c).openRows[b] with
  | some o => o.row == r
  | none => false

/-- The blocks of `n` bytes at an address. -/
def blocksOf (a n : Nat) : List Nat :=
  if n = 0 then [] else (List.range ((a + n - 1) / 32 - a / 32 + 1)).map fun i => 32 * (a / 32 + i)

/-- The check word of a written block enters the check register. -/
def setCheck (c : Chan) (u : Nat) (s : State) : State :=
  let p := placeOf s u
  let w := checkWord u (memRead s.mem u 32)
  let put := fun (o : OpenRow) =>
    if o.row = p.row then { o with words := (p.burst, w) :: o.words.filter (·.1 != p.burst) } else o
  setChan c (fun h => { h with openRows := h.openRows.set p.bank (h.openRows[p.bank].map put) }) s

/-- The bursts of one request: its row is opened or hit, its bursts are counted, its check words enter the check register, and an
IDLE of 0 closes the row (R245, R247, R261). `us` are its blocks. -/
def moveBursts (w : Bool) (us : List Nat) (s : State) : State :=
  match us with
  | [] => s
  | u :: _ =>
    let p := placeOf s u
    let c := p.chan
    let was := isOpenAt s c p.bank p.row
    let s := if was then s else openRow c p.bank p.row s
    let n := us.length
    let s := bump c (if w then 1 else 0) n (bump c 3 (if was then n else n - 1) s)
    let s := if w then us.foldl (fun s u => setCheck c u s) s else s
    if s.dmc[ctlOf c].idle = 0 then closeRow c p.bank s else s

/-- The requests of an access, one for each aligned 64 bytes. -/
def moveAll (w : Bool) (a n : Nat) (s : State) : State :=
  let us := (blocksOf a n).filter fun u => stackBase ≤ u && !deadAt s u
  ((us.map (· / 64)).dedup).foldl (fun s k => moveBursts w (us.filter (· / 64 == k)) s) s

/-- A write of stacked memory counts its merges and moves its bursts. -/
def storeMem (a : Nat) (bs : List Byte) (s : State) : State :=
  let t := storeRaw a bs s
  if a < stackBase then t
  else
    let part := (blocksOf a bs.length).filter fun u => (u < a || a + bs.length < u + 32) && !deadAt s u
    moveAll true a bs.length (part.foldl (fun s u => bump (placeOf s u).chan 6 1 s) t)

/-! ### Vibrato's injections (20) -/

/-- VIB_INJ_ARG as it reads. -/
def injArg (v : Vib) : Nat := v.unit + 0x100 * b2n v.rep + 0x10000 * v.part.toNat + 0x1000000 * v.bit

/-- A run is in progress at this instant (R470). -/
def vibRuns (s : State) : Bool := s.vib.runFrom.isSome

/-- An opportunity of a target on a unit: the settings name it, injections remain, and the interval has passed
(R473). -/
def opportunity (target : Nat) (unitOk : Nat → Bool) (s : State) : Bool :=
  match s.vib.runFrom with
  | none => false
  | some t0 =>
    s.vib.target == target && unitOk s.vib.unit && s.vib.applied < s.vib.count &&
    (s.vib.lastAt.getD t0) + 1000 * s.vib.interval ≤ s.clk

/-- Apply one injection: APPLIED counts, and the record of kind 0x3D precedes what it causes (R474, R476). -/
def applyInjection (island : Nat) (s : State) : State :=
  let n := satAdd 255 s.vib.applied 1
  logErr { devErr 0x3D island s with arg0 := s.vib.target, arg1 := injArg s.vib, arg2 := n }
    { s with vib := { s.vib with applied := n, lastAt := some s.clk } }

/-- The work of these partitions is meant by VIB_INJ_ARG.PART; PART 0 means SYSTEM-tagged reads (R473). -/
def injParts (s : State) (parts : List Part) : Bool :=
  if s.vib.part = 0 then parts.isEmpty else parts.any fun p => s.vib.part.getLsbD p.val

/-! ### Reads with ECC -/

/-- What a read brings: the bytes, or the uncorrectable units with their kinds. -/
inductive ReadRes where
  | ok (data : List Byte)
  | bad (units : List (Nat × Nat))
  deriving DecidableEq, Repr

/-- The unit and kind that a failed read names: its first. -/
def firstLost (l : List (Nat × Nat)) : Nat × Nat := l.headD (0, 0)

/-- One block is read (R249, R256): from a failed channel, already uncorrectable, struck by an injection, or as its ECC finds
it. Answers its kind when it is uncorrectable. -/
def readBlock (u : Nat) (e : EccRes) (parts : List Part) (s : State) : Option Nat × State :=
  let c := (placeOf s u).chan
  let unitOk := fun k => k == c.val && injParts s parts
  let corrected := setChan c fun h => { h with ce := satAdd 65535 h.ce 1 }
  if (chanOf s c).dead then (some (Config.freeNat s.freeCtr % 4), { s with freeCtr := s.freeCtr + 1 })
  else match s.bad.find? (·.1 == u) with
    | some (_, k) => (some k, s)
    | none =>
      if opportunity 2 unitOk s then (some 1, applyInjection (25 + c.val / 8) s)
      else
        let s := if opportunity 1 unitOk s then corrected (applyInjection (25 + c.val / 8) s) else s
        match e with
        | .clean => (none, s)
        | .corrected => (none, corrected s)
        | .linkCured => (none, setChan c (fun h => { h with link := satAdd 65535 h.link 1 }) s)
        | .uncorrectable k => (some k.val, markBad u k.val s)

/-- Blocks read in turn: those that are uncorrectable. -/
def readBlocks (parts : List Part) : List Nat → Ecc → State → List (Nat × Nat) × State
  | [], _, s => ([], s)
  | u :: us, es, s =>
    let (k, s) := readBlock u (es.headD .clean) parts s
    let (l, s) := readBlocks parts us es.tail s
    (match k with | some k => (u, k) :: l | none => l, s)

/-- A read of stacked memory; every block is judged (R248 to R250). -/
def readStack (a n : Nat) (ecc : Ecc) (parts : List Part) (s : State) : ReadRes × State :=
  let vals := memRead s.mem a n
  let (l, t) := readBlocks parts (blocksOf a n) ecc (moveAll false a n s)
  (if l.isEmpty then .ok vals else .bad l, t)

/-- The section of a section-memory address. -/
def sectionOf (a : Nat) : Fin 4 := Fin.ofNat 4 (a / 0x800000)

def setSection (m : Fin 4) (f : SectionSt → SectionSt) (s : State) : State :=
  { s with sections := s.sections.set m (f s.sections[m]) }

/-- One word of section or window memory is read (R342, R457). Answers its kind when it is uncorrectable. -/
def readWord (u : Nat) (e : EccRes) (parts : List Part) (s : State) : Option Nat × State :=
  let inSec := decide (u < 0x2000000)
  let m := sectionOf u
  match s.bad.find? (·.1 == u) with
  | some (_, k) => (some k, s)
  | none =>
    if inSec && opportunity 3 (fun u => u == m.val && injParts s parts) s then (some 1, applyInjection (17 + m.val) s)
    else match e with
      | .corrected => (none, if inSec then setSection m (fun x => { x with ce := x.ce + 1 }) s else s)
      | .uncorrectable k => (some k.val, markBad u k.val s)
      | _ => (none, s)

def readWords (parts : List Part) : List Nat → Ecc → State → List (Nat × Nat) × State
  | [], _, s => ([], s)
  | u :: us, es, s =>
    let (k, s) := readWord u (es.headD .clean) parts s
    let (l, s) := readWords parts us es.tail s
    (match k with | some k => (u, k) :: l | none => l, s)

/-- The words of `n` bytes at an address. -/
def wordsOf (a n : Nat) : List Nat :=
  if n = 0 then [] else (List.range ((a + n - 1) / 8 - a / 8 + 1)).map fun i => 8 * (a / 8 + i)

def readNear (a n : Nat) (ecc : Ecc) (parts : List Part) (s : State) : ReadRes × State :=
  let (l, t) := readWords parts (wordsOf a n) ecc s
  (if l.isEmpty then .ok (memRead s.mem a n) else .bad l, t)

def readMem (a n : Nat) (ecc : Ecc) (parts : List Part) (s : State) : ReadRes × State :=
  if stackBase ≤ a then readStack a n ecc parts s else readNear a n ecc parts s

end Sys2Proof.Machine
end

