-- ==== Sys2Proof/Machine/Output.lean ====
section
/-! DEFINITION. The host-interface engine and command data: its bursts on device memory (R16, R34, R44), and the output of
commands (R117, R127, R133, R168). -/

namespace Sys2Proof.Machine

/-! ### Section memory by address -/

def sectionAt (a : Nat) : Option (Fin 4) := if a < 0x2000000 then some (sectionOf a) else none
def sectionIsland (m : Fin 4) : Island := Fin.ofNat 32 (17 + m.val)

/-- The sections that addresses fall into. -/
def sectionsOf (as : List Nat) : List (Fin 4) := (as.filterMap sectionAt).dedup

/-- An access reaches a section in FAULT, which answers with an error (R64). -/
def faultySection (s : State) (as : List Nat) : Bool := (sectionsOf as).any fun m => (islOf s (sectionIsland m)).st == .fault

/-- The leases and the clocks that accesses to these sections need are there (R34, R341). -/
def sectionsReady (s : State) (ms : List (Fin 4)) : Bool :=
  ms.all fun m => holdsGrant s (.secMem m) && islRuns s (sectionIsland m)

/-- The missing leases are requested. -/
def askSections (t : Tag) (ms : List (Fin 4)) (s : State) : State :=
  (ms.filter fun m => !holdsGrant s (.secMem m)).foldl (fun s m => request (.secMem m) t s) s

/-- The sections have no access in issue any more: their leases end (R38, R341). -/
def releaseSections (ms : List (Fin 4)) (s : State) : State := ms.foldl (fun s m => endGrant (.secMem m) s) s

/-- A burst of the host-interface engine on device memory for a command: under its grant, and for section memory under the
section's lease (R16, R34, R341, R510). -/
def withDevice (id a : Nat) (k : State → State) (s : State) : State :=
  let ms := sectionsOf [a]
  if !islRuns s 30 || muted s then s
  else if sectionsReady s ms then withBurst (.dma (some id)) .system (fun s => k (releaseSections ms s)) s
  else
    let s := askSections .system ms s
    if holdsGrant s (.dma (some id)) then s else request (.dma (some id)) .system s

/-! ### Output (R168) -/

/-- Posted writes of at most the maximum payload. -/
def sendWrites (n : Nat) (a : Nat) (bs : List Byte) (s : State) : State :=
  (List.range (ceilDiv bs.length n)).foldl (fun s i => send (.write (a + n * i) (slice bs (n * i) n)) s) s

/-- What a piece of output that waits still needs: nothing, when it can be moved under a burst. -/
def outReady (s : State) (e : Nat × Nat × List Byte) : Bool :=
  if hostWinBase ≤ e.2.1 then hifRuns s
  else islRuns s 30 && (faultySection s [e.2.1] || sectionsReady s (sectionsOf [e.2.1]))

/-- Ask for the grants of a piece of output. -/
def askOutput (e : Nat × Nat × List Byte) (s : State) : State :=
  let s := if hostWinBase ≤ e.2.1 then s else askSections .system (sectionsOf [e.2.1]) s
  if (hostWinBase ≤ e.2.1 && !hifRuns s) || holdsGrant s (.dma (some e.1)) then s
  else request (.dma (some e.1)) .system s

/-- Output of a command at a device address waits for a burst (R16, R168). -/
def outWrite (id : Nat) (p : Part) (a : Nat) (bs : List Byte) (s : State) : State :=
  if bs.isEmpty then s
  else askOutput (id, a, bs) (setPage p (fun g => { g with outWait := g.outWait ++ [(id, a, bs)] }) s)

/-- Output has failed: the command completes with the status, in the record that still waits where its commit point has been
(DEDUCED, log entry 35). -/
def outFail (p : Part) (id status detail : Nat) (s : State) : State :=
  match cmdOf s id with
  | some _ => failCmd id status detail s
  | none =>
    let fix := fun (r : CompRec) =>
      if r.cmd = id ∧ r.status ≠ 0x01 then { r with status := status, detail := detail } else r
    setPage p (fun g => { g with cqWait := g.cqWait.map fix }) s

/-- A record about a command's output. -/
def outRecord (p : Part) (id kind : Nat) (s : State) : ErrRec :=
  let e := devErr kind 30 s
  match cmdOf s id, (pageOf s p).cqWait.find? (·.cmd == id) with
  | some c, _ => cmdErr kind 30 c s
  | none, some r => { e with part := p.val, tag := r.tag, ctx := r.ctx, opcode := r.opcode }
  | none, none => { e with part := p.val }

/-- Output that no longer lies within reach when it is to be moved (R127, R133): one record of kind 0x08, and BAD_FIELD with DETAIL
0xFFFF. -/
def outFault (p : Part) (id a : Nat) (s : State) : State :=
  outFail p id 0x31 0xFFFF (logErr { outRecord p id 0x08 s with arg0 := a } s)

/-- Output to the user part. A merge that meets damage is not applied: the command completes MEMORY_UNCORRECTABLE, or DATA_CORRUPT
for section memory (R248, R250, R342); a section in FAULT answers with an error, and it completes FAULT_VOICE (R64, R204). -/
def putUser (p : Part) (id a : Nat) (bs : List Byte) (s : State) : State :=
  let bads := badMerges s a bs.length
  if !inUser s p a bs.length then outFault p id a s
  else if faultySection s [a] then outFail p id 0x50 0x100 s
  else
    let s := storeMem a bs (releaseSections (sectionsOf [a]) s)
    if bads.isEmpty then s
    else if a < stackBase then outFail p id 0x41 (corruptDetail s 0xFFFF) s
    else outFail p id 0x42 (placeOf s (firstLost bads).1).chan.val (reportUes bads 2 p.val (cmdOf s id) s)

/-- One piece of output is moved, at the addresses of the present window (R133). -/
def putOutput (p : Part) (e : Nat × Nat × List Byte) (s : State) : State :=
  if e.2.1 < hostWinBase then putUser p e.1 e.2.1 e.2.2 s
  else if inHostWin s p e.2.1 e.2.2.length then sendWrites (maxWrite s) (hostAddr s p e.2.1) e.2.2 s
  else outFault p e.1 e.2.1 s

/-- Output is moved in order, up to a piece that must wait. -/
def moveOutput (p : Part) : List (Nat × Nat × List Byte) → State → State
  | [], s => s
  | e :: rest, s =>
    if outReady s e then moveOutput p rest (putOutput p e (setPage p (fun g => { g with outWait := rest }) s))
    else askOutput e s

def sendOutput (p : Part) (s : State) : State := moveOutput p (pageOf s p).outWait s

/-- Bursts that have been granted for output carry it. -/
def grantedOutput (s : State) : State :=
  (List.range 8).foldl (fun s i =>
    let p : Part := Fin.ofNat 8 i
    match (pageOf s p).outWait with
    | [] => s
    | e :: _ =>
      if outReady s e && holdsGrant s (.dma (some e.1)) then sendOutput p (endGrant (.dma (some e.1)) s) else s) s

end Sys2Proof.Machine
end

