-- ==== Sys2Proof/Machine/Port.lean ====
section
/-! DEFINITION. Sending on the ensemble ports (18): packets, credits, sequence numbers, replay copies, grants of
bursts, and the CTRL messages (R425 to R428, R430, R444). -/

namespace Sys2Proof.Machine

def hopsOf (s : State) : Nat := ((ensCfg s).map (·.hops)).getD 0
def isLeader (s : State) : Bool := ((ensCfg s).map (·.leader)).getD false

/-- ROUTE[d]; 0xFF without a route, 0xFE for the device itself (R94). -/
def routeOf (s : State) (d : Nat) : Nat := ((ensCfg s).map fun c => c.route.getD d 0xFF).getD 0xFF

def portOf (s : State) (n : Port) : PortState := s.ens.ports[n]
def setPort (n : Port) (f : PortState → PortState) (s : State) : State :=
  { s with ens := { s.ens with ports := s.ens.ports.set n (f s.ens.ports[n]) } }

/-- The port carries packets: it is ACTIVE and island 29 runs. -/
def portActive (s : State) (n : Port) : Bool := (portOf s n).st == .active && islRuns s 29

/-- VC0 carries CTRL, VC1 DATA. -/
def vcOf (p : Packet) : Fin 2 := if p.type = 1 then 1 else 0

/-- The CONTEXT of a CTRL packet about a session: 0 for a transient one. -/
def wireCtx (key : Nat) : Nat := if key < 65536 then key else 0

/-- A credit of the VC is held at the neighbour, and room in the replay buffer (R427, R428). -/
def hasCredit (q : PortState) (vc : Fin 2) : Bool :=
  (q.sent[vc] + 256 - q.granted[vc] % 256) % 256 < (if vc = 0 then 8 else 64) && q.unacked.length < 256

/-- A buffer of a VC is free again: the credit goes back with the next ACK, which is due (R427). -/
def freeBuf (n : Port) (vc : Fin 2) (s : State) : State :=
  setPort n (fun q => { q with freed := q.freed.set vc ((q.freed[vc] + 1) % 256), rxNew := max 1 q.rxNew }) s

/-- Send one routed packet: it takes the next SEQ and stays until acknowledged (R428). An injection of target 5
inverts its CRC, with REPEAT on each replay too (R473). -/
def transmit (n : Port) (p : Packet) (s : State) : State :=
  let q := portOf s n
  let p := { p with seq := q.txSeq }
  let hit := opportunity 5 (fun u => u == n.val) s
  let s := if hit then applyInjection 29 s else s
  let vc := vcOf p
  send (.packet n p hit) (setPort n (fun q => { q with
    txSeq := (q.txSeq + 1) % 4096
    unacked := q.unacked ++ [{ pkt := p, at_ := s.clk, replays := 0, due := false, bad := hit && s.vib.rep }]
    sent := q.sent.set vc ((q.sent[vc] + 1) % 256)
    lastTx := s.clk }) s)

/-- Send the first packet whose replay is due again, with its SEQ; ENS_ERR counts it. REPEAT acts while its run
lasts. -/
def replayOne (n : Port) (p : SentPkt) (s : State) : State :=
  send (.packet n p.pkt (p.bad && vibRuns s)) (setPort n (fun q => { q with
    unacked := q.unacked.map fun e => if e = p then { e with replays := e.replays + 1, at_ := s.clk, due := false } else e
    replays := satAdd 65535 q.replays 1
    lastTx := s.clk }) s)

/-- A link-local packet goes at the next packet boundary and needs neither credit nor grant (R427, R429). -/
def sendLocal (n : Port) (p : Packet) (s : State) : State :=
  send (.packet n p false) (setPort n (fun q => { q with lastTx := s.clk }) s)

/-- The tag of a burst: that of the pass whose activations DATA carries, SYSTEM for CTRL (R429). DATA in transit belongs to no
pass of this device and is SYSTEM's (DEDUCED, log entry 33). -/
def pktTag (s : State) (p : Packet) : Tag :=
  let h : Handle := Fin.ofNat 64 (byteAt p.arg 0)
  if p.type = 1 ∧ p.src = deviceNo s then
    ((s.passes.find? fun q => q.model == .handle h && q.num == le p.arg 2 2).map (passTag s)).getD
      (.part (Fin.ofNat 8 (byteAt p.arg 1)))
  else .system

/-- What a port sends next: a replay that is due, else a queued packet with a credit, VC0 ahead of VC1 (R427). -/
def nextOut (q : PortState) : Option (SentPkt ⊕ (Option Port × Packet)) :=
  match q.unacked.find? (·.due) with
  | some e => some (.inl e)
  | none =>
    let ready := fun (vc : Fin 2) => (q.queue.find? fun p => vcOf p.2 == vc).filter fun _ => hasCredit q vc
    ((ready 0).or (ready 1)).map .inr

/-- Send what a port holds while credits and grants last (R427, R429). A forwarded packet leaves its buffer. -/
def drain (n : Port) : Nat → State → State
  | 0, s => s
  | k + 1, s =>
    if !portActive s n then s
    else match nextOut (portOf s n) with
      | none => s
      | some (.inl e) =>
        if holdsGrant s (.port n) then drain n k (replayOne n e (endGrant (.port n) s))
        else request (.port n) (pktTag s e.pkt) s
      | some (.inr e) =>
        if holdsGrant s (.port n) then
          let s := setPort n (fun q => { q with queue := q.queue.erase e }) (endGrant (.port n) s)
          let s := match e.1 with
            | some m => freeBuf m (vcOf e.2) s
            | none => s
          drain n k (transmit n e.2 s)
        else request (.port n) (pktTag s e.2) s

def drainPort (n : Port) (s : State) : State :=
  drain n ((portOf s n).queue.length + (portOf s n).unacked.length) s

def drainPorts (s : State) : State := (List.range 4).foldl (fun s i => drainPort (Fin.ofNat 4 i) s) s

/-- Queue a routed packet on a port and send what can go. -/
def enqueue (n : Port) (origin : Option Port) (p : Packet) (s : State) : State :=
  drainPort n (setPort n (fun q => { q with queue := q.queue ++ [(origin, p)] }) s)

/-- A packet of this device goes on port ROUTE[DST] with TTL 16 (R430). One without an active route is not sent. -/
def originate (p : Packet) (s : State) : State :=
  let r := routeOf s p.dst
  if r < 4 ∧ portActive s (Fin.ofNat 4 r) then
    enqueue (Fin.ofNat 4 r) none { p with src := deviceNo s, ttl := 16 } s
  else s

/-- Payloads are multiples of 16 bytes (R425). -/
def pad16 (bs : List Byte) : List Byte := bs ++ List.replicate ((16 - bs.length % 16) % 16) 0

/-- A CTRL packet (R426, R444). -/
def ctrl (dst msg part ctx : Nat) (arg : List Byte) (payload : List Byte) : Packet :=
  { type := 2, dst := dst, src := 0, ttl := 16, seq := 0,
    arg := [BitVec.ofNat 8 msg, BitVec.ofNat 8 part] ++ toLe 2 ctx ++ (arg ++ List.replicate 4 0).take 4,
    payload := pad16 payload }

/-- The other stages of a split image. -/
def otherStages (s : State) (sp : Split) : List Nat :=
  (sp.devices.take sp.stages).filter (· != deviceNo s)

def toStages (sp : Split) (f : Nat → Packet) (s : State) : State :=
  (otherStages s sp).foldl (fun s d => originate (f d) s) s

/-- The split record of a model reference, when it is joined and this device is its entry (R436, R437). -/
def splitOf (s : State) : ModelRef → Option Split
  | .early => none
  | .handle h => s.models[h].hdr.split

end Sys2Proof.Machine
end

