-- ==== Sys2Proof/Machine/Voice.lean ====
section
/-! DEFINITION. Voices (14): what a voice reaches (R364), mirror pairs (R448 to R450), the end of a set and of a pass,
halts (R344, R345), barriers (R388), the detections of mirror mode (R453), and the frame in which every Aznil
instruction issues (R330, R348, R349). -/

namespace Sys2Proof.Machine

def voiceIsland (n : Voice) : Island := Fin.ofNat 32 (n.val + 1)

/-- The voice clock of an operating point in MHz (R35). -/
def voiceMhz : Nat → Nat
  | 0 => 1100 | 1 => 900 | 2 => 700 | _ => 450

/-- The work that the voice runs is mirrored (R447). -/
def runsMirrored (s : State) (n : Voice) : Bool :=
  match (voiceOf s n).run with
  | .set c _ => ((setOf s c).map (·.mirror)).getD false
  | .pass m => ((passOf s m).map (·.mirrored)).getD false
  | _ => false

/-- The voice runs as one half of a formed pair; the even voice leads (R448, R449). -/
def pairOn (s : State) (n : Voice) : Bool := s.isl.pair.getLsbD (n.val / 2) && runsMirrored s n
def trailer (n : Voice) : Voice := Fin.ofNat 16 (n.val + 1)
def pairOf (n : Voice) : Pair := Fin.ofNat 8 (n.val / 2)

/-- The partitions that the voice works for. -/
def voiceParts (s : State) (n : Voice) : List Part :=
  match (voiceOf s n).run with
  | .set c _ => ((setOf s c).map fun k => [k.part]).getD []
  | .pass m => ((passOf s m).map fun p => p.rows.map (·.part)).getD []
  | _ => []

/-- The KERNEL that the voice works for. -/
def voiceCmd (s : State) (n : Voice) : Option Cmd :=
  match (voiceOf s n).run with
  | .set c _ => cmdOf s c
  | _ => none

/-- PART of a record about the work of a voice: batch-tagged work names none (R507). -/
def voicePart (s : State) (n : Voice) : Nat :=
  match (voiceOf s n).run, voiceParts s n with
  | .set _ _, p :: _ => p.val
  | _, _ => 0xFF

/-! ### Reach (R364) -/

/-- A stacked address lies in an extent of granules. -/
def inExtents (ext : List (Nat × Nat)) (a : Nat) : Bool :=
  stackBase ≤ a && ext.any fun e => e.1 ≤ (a - stackBase) / granule && (a - stackBase) / granule < e.1 + e.2

/-- The KV pages and working space of a pass's rows. -/
def inRows (s : State) (p : Pass) (a : Nat) : Bool :=
  s.objs.any fun o => match o.kind with
    | .kv key _ => p.rows.any (fun r => r.part == o.part && (r.key == key || goneKey r.cmd == key)) &&
        inExtents o.ext a
    | .row id => p.rows.any (·.cmd == id) &&
        (match sectionUnit a with
          | some u => o.ext.any fun e => e.1 ≤ u && u < e.1 + e.2
          | none => false)
    | _ => false

/-- The window strip of an address. -/
def stripOf (a : Nat) : Option (Fin 64) :=
  if 0x2000000 ≤ a ∧ a < 0x3000000 then some (Fin.ofNat 64 ((a - 0x2000000) / 0x40000)) else none

/-- One byte lies within the reach of the voice (R364). -/
def reachByte (s : State) (n : Voice) (store : Bool) (a : Nat) : Bool :=
  match (voiceOf s n).run with
  | .set c _ => ((setOf s c).map fun k => inUserByte s k.part a).getD false
  | .pass m => match passOf s m with
    | none => false
    | some p =>
      inRows s p a || (!store &&
        ((match stripOf a with | some t => s.strips[t].owner == some m | none => false) ||
         (match m with | .handle h => inExtents s.models[h].units a | .early => false)))
  | _ => false

/-- Every byte of an access of at most 64 KiB lies within reach: limits lie on 64 KiB boundaries (R365). -/
def reaches (s : State) (n : Voice) (store : Bool) (a len : Nat) : Bool :=
  len == 0 || (a + len ≤ 2 ^ 40 && reachByte s n store a && reachByte s n store (a + len - 1))

/-! ### The window of a pass (R289, R290) -/

/-- The strips of a model's window, as a ring. -/
def window (s : State) (m : ModelRef) : List (Fin 64) :=
  ((List.range 64).map (Fin.ofNat 64)).filter fun (i : Fin 64) => s.strips[i].owner == some m

def setStrip (i : Fin 64) (f : Strip → Strip) (s : State) : State :=
  { s with strips := s.strips.set i (f s.strips[i]) }

/-- A further pass of the model will run: a command that is under way names it. -/
def wantsPass (s : State) (m : ModelRef) : Bool := s.cmds.any fun c => c.admitted && (asTarget c m || asDraft c m)

/-- The number of the next strip load of a model. -/
def nextLoad (s : State) (m : ModelRef) (x : Model) : Nat :=
  1 + (window s m).foldl (fun a i => max a s.strips[i].load) x.streamed

/-- A strip load of the layer plan by its number: the plan lists one pass, and the passes follow one another. -/
def planAt (x : Model) (load : Nat) : Option StripLoad := x.plan[(load - 1 - x.streamed) % x.plan.length]?

/-- The strip load that a strip holds or takes. -/
def loadOf (s : State) (m : ModelRef) (i : Fin 64) : Option StripLoad :=
  (modelOf s m).bind fun x => planAt x s.strips[i].load

/-- The run-ahead at a strip load of a pass (R290, R293). -/
def runAhead (s : State) (m : ModelRef) (p : Pass) (x : Model) (load : Nat) : Nat :=
  min (min 16 (window s m).length) (min p.runahead (((planAt x load).map (·.ahead)).getD 0))

/-- STRIP_LOAD_START: while a pass runs, strips are filled in turn and in plan order, as long as fewer than the run-ahead are
FILLING or READY (R290); beyond the loads of the pass come only the first ones of a pass that will follow (R291). -/
def fillAhead (m : ModelRef) : Nat → State → State
  | 0, s => s
  | k + 1, s =>
    match modelOf s m, passOf s m with
    | some x, some p =>
      let w := window s m
      let next := nextLoad s m x
      let busy := (w.filter fun i => s.strips[i].st == .filling || s.strips[i].st == .ready).length
      let beyond := x.streamed + x.plan.length < next
      if runAhead s m p x next ≤ busy ∨ p.failure.isSome ∨ x.streamed + 2 * x.plan.length < next ∨
          (beyond && !wantsPass s m) then s
      else match w[(next - 1) % w.length]? with
        | none => s
        | some i =>
          if s.strips[i].st != .free then s
          else fillAhead m k (setStrip i (fun t => { t with
            st := .filling
            load := next
            fetched := 0
            taken := 0
            filled := 0
            retry := false
            readBy := 0
            doneBy := 0 }) s)
    | _, _ => s

/-- The voices that issue for a pass; a pair counts as one. -/
def passLeads (p : Pass) : List Voice := if p.mirrored then p.voices.filter (·.val % 2 == 0) else p.voices

/-- The voices that the plan names as readers of a strip load. -/
def readersOf (p : Pass) (l : StripLoad) : List Voice :=
  ((passLeads p).zipIdx.filter fun e => l.readers.getLsbD e.2).map (·.1)

/-- Strips become FREE whose every reader has signalled done or has stopped (R289). -/
def freeRead (m : ModelRef) (p : Pass) (s : State) : State :=
  let free_ := fun (i : Fin 64) => s.strips[i].owner == some m && s.strips[i].st == .inUse &&
    match loadOf s m i with
    | some l => (readersOf p l).all fun v => s.strips[i].doneBy.getLsbD v.val || (voiceOf s v).stopped
    | none => true
  { s with strips := Vector.ofFn fun i => if free_ i then { s.strips[i] with st := .free } else s.strips[i] }

/-- A voice signals done with the strips that it has read: when it comes to a barrier or to the end of its run (DESIGN CHOICE,
log entry 16). -/
def signalDone (n : Voice) (s : State) : State :=
  match (voiceOf s n).run with
  | .pass m => match passOf s m with
    | some p =>
      let mark := fun (t : Strip) =>
        if t.owner = some m ∧ t.readBy.getLsbD n.val then { t with doneBy := t.doneBy ||| BitVec.ofNat 16 (2 ^ n.val) }
        else t
      fillAhead m 16 (freeRead m p { s with strips := s.strips.map mark })
    | none => s
  | _ => s

/-- The wait for a strip ends. STR_STALL adds the time in which no other strip of the window is waited for as well: it counts
time in which at least one voice of the pass waits (R309). -/
def endStall (i : Fin 64) (s : State) : State :=
  match s.strips[i].stallFrom with
  | none => s
  | some t =>
    let others := s.strips.toList.filterMap fun x => if x.owner = s.strips[i].owner then x.stallFrom else none
    let till := (others.erase t).foldl min s.clk
    setStrip i (fun t => { t with stallFrom := none })
      { s with str := { s.str with stall := satAdd 0xFFFFFFFF s.str.stall ((till - t) / 1000) } }

/-- The window at the end of a pass: the strips of its loads are FREE, and the next pass counts its loads from here
(R291). -/
def endWindow (m : ModelRef) (s : State) : State :=
  match modelOf s m with
  | none => s
  | some x =>
    let last := x.streamed + x.plan.length
    let s := (window s m).foldl (fun s i => endStall i s) s
    setRef m (fun x => { x with streamed := last })
      { s with strips := s.strips.map fun t => if t.owner = some m ∧ t.load ≤ last then { t with st := .free } else t }

/-! ### The end of sets and passes -/

/-- The voice's grants above the idle breath end (R332, R388). -/
def toIdle (n : Voice) (s : State) : State :=
  dropUnits (fun u => match u with
    | .voice v .scalar | .voice v .array => v == n
    | _ => false) s

/-- The clocks that a voice has waited for its array grant. -/
def arrayClocks (s : State) (v : VoiceSt) : Nat :=
  match v.arrayFrom with
  | some t => (s.clk - t) * voiceMhz s.pwr.clockPt / 1000
  | none => 0

/-- A wait for the array grant ends: VCE_ARRAY_WAIT counts its clocks (R332, R390). -/
def endArrayWait (s : State) (v : VoiceSt) : VoiceSt :=
  { v with arrayFrom := none, arrayWait := satAdd 0xFFFFFFFF v.arrayWait (arrayClocks s v) }

/-- The voice leaves service: free, or held when it halted with HOLD 1 (R345). -/
def freeVoice (held : Bool) (n : Voice) (s : State) : State :=
  toIdle n (setVoice n (fun v => { endArrayWait s v with
    run := if held && v.hold then .held else .free
    wait := .none
    stopped := false
    latchA := none
    latchB := none }) s)

/-- The physical voices of a set (R192). -/
def physical (k : KSet) : List Voice :=
  k.voices.flatMap fun v => if k.mirror then [v, trailer v] else [v]

/-- The payload of a KERNEL (R193); of a preempted set, with the voices that it was given last. -/
def kernelPayload (s : State) (k : KSet) (faultIdx : Nat) (timeout : Bool) : List Byte :=
  let first := match k.saved.head?, k.voices.head? with
    | some v, _ => v.s[15]
    | none, some v => (voiceOf s v).s[15]
    | none, none => 0
  let mask := maskOf 16 fun i => (physical { k with voices := k.given }).contains (Fin.ofNat 16 i)
  payloadOf [(0, 4, first.toNat), (4, 4, (s.clk - k.startedAt) / 1000), (8, 1, k.given.length), (9, 1, faultIdx),
    (10, 1, b2n timeout), (12, 2, mask)]

/-- A set ends: its voices are freed, its save records discarded, and its KERNEL completes (R193, R339). -/
def endSet (k : KSet) (status detail faultIdx : Nat) (timeout : Bool) (halted : List Voice) (s : State) : State :=
  let pay := kernelPayload s k faultIdx timeout
  let s := { s with sets := s.sets.filter (·.cmd != k.cmd) }
  let vs := if k.saved.isEmpty then physical k else []
  finish k.cmd status detail false pay (vs.foldl (fun s v => freeVoice (halted.contains v) v s) s)

/-- The voices of a pass go back to service, and its grants end. -/
def endPass (p : Pass) (halted : List Voice) (s : State) : State :=
  let tag := passTag s p
  let s := markIdle (endWindow p.model { s with passes := s.passes.filter (·.model != p.model) })
  let s := dropObjs (fun o => match o.kind with
    | .row i => p.rows.any (·.cmd == i) && (cmdOf s i).isNone && !inPass s i
    | .kv k _ => p.rows.any (fun r => goneKey r.cmd == k && !inPass s r.cmd)
    | _ => false) s
  syncHolds (fun c => p.rows.any (·.cmd == c.id)) (dropGrants (fun u t => u == .aperture || t == tag)
    (p.voices.foldl (fun s v => freeVoice ((halted ++ p.halted).contains v) v s) s))

/-- Byte 13 of a FAULT: the layer of MODEL_DEGRADED and DATA_CORRUPT, 0xFF for data with no layer (R444). -/
def faultLayer (status detail : Nat) : Nat :=
  if status = 0x40 then min 0xFE detail else if status = 0x41 then bits detail 15 8 else 0xFF

/-- The other stages of a split pass learn of its end: the entry device sends ROLLBACK (R440), another stage reports
the fault to the entry device (R441). -/
def tellStages (p : Pass) (status detail : Nat) (s : State) : State :=
  match splitOf s p.model, p.model with
  | some sp, .handle h =>
    let part := s.models[h].owner.val
    if sp.stage = 0 then toStages sp (fun d => ctrl d 0x07 part 0 (toLe 2 p.num) []) s
    else originate (ctrl (sp.devices.getD 0 0) 0x09 part 0
      ([BitVec.ofNat 8 status, BitVec.ofNat 8 (faultLayer status detail)] ++ toLe 2 p.num) []) s
  | _, _ => s

/-- A pass is abandoned: every command with a row completes with the status at one commit point (R65, R342, R453). -/
def abandonPass (p : Pass) (status detail : Nat) (halted : List Voice) (s : State) : State :=
  let s := tellStages p status detail (endPass p halted s)
  (p.rows.map (·.cmd)).dedup.foldl (fun s id => failCmd id status detail s) s

/-! ### Halts (R344) -/

/-- Why a voice halts: the cause code and the further fields of the record. -/
structure Halt where
  cause : Nat
  tile : Nat
  detail : Nat
  addr : Option Nat
  elem : Option Nat
  deriving DecidableEq, Repr

def haltIllegal : Halt := { cause := 1, tile := 0, detail := 0, addr := none, elem := none }
def haltAccess (a : Nat) : Halt := { cause := 2, tile := 0, detail := 0, addr := some a, elem := none }
def haltTcfg (t rule : Nat) : Halt := { cause := 3, tile := t, detail := rule, addr := none, elem := none }
def haltEmpty (t : Nat) : Halt := { cause := 4, tile := t, detail := 0, addr := none, elem := none }
def haltShape (t detail : Nat) : Halt := { cause := 5, tile := t, detail := detail, addr := none, elem := none }
def haltRange : Halt := { cause := 6, tile := 0, detail := 0, addr := none, elem := none }
def haltSection (a : Nat) : Halt := { cause := 7, tile := 0, detail := 0, addr := some a, elem := none }

/-- The record of a halt replaces the one held (R344). -/
def recordHalt (h : Halt) (pc : Nat) (word : Word) (v : VoiceSt) : VoiceSt :=
  { v with
    cause := h.cause
    element := h.elem.getD 0
    elValid := h.elem.isSome
    tile := h.tile
    detail := h.detail
    overrun := v.overrun || v.valid
    valid := true
    haltPc := pc
    haltWord := word
    haltAddr := h.addr.getD v.haltAddr }

/-- FAULT_VOICE's DETAIL: the voice, and 1 in [15:8] for a section fault (R204, R342). -/
def faultDetail (n : Voice) (sec : Bool) : Nat := n.val + 0x100 * b2n sec

/-- What a voice served ends with the status: its set is stopped, its pass abandoned. -/
def failService (n : Voice) (status detail : Nat) (halted : List Voice) (s : State) : State :=
  match (voiceOf s n).run with
  | .set c i => match setOf s c with
    | some k => endSet k status detail i false halted s
    | none => s
  | .pass m => match passOf s m with
    | some p => abandonPass p status detail halted s
    | none => s
  | _ => s

/-- The record of a halt, in both windows of a pair, and the latch of source 16 + n (R344, R450). -/
def noteHalt (n : Voice) (h : Halt) (s : State) : State :=
  let v := voiceOf s n
  let (word, s) := match v.code[v.pc]? with
    | some w => (w, s)
    | none => (w32 (Config.freeNat s.freeCtr), { s with freeCtr := s.freeCtr + 1 })
  let rec_ := recordHalt h v.pc word
  let paired := pairOn s n
  let s := setVoice n rec_ s
  let s := if paired then setVoice (trailer n) rec_ s else s
  report (Fin.ofNat 64 (16 + n.val)) s

/-- The voices that stop together. -/
def halves (s : State) (n : Voice) : List Voice := if pairOn s n then [n, trailer n] else [n]

/-! ### Mirror detections (R453, R464) -/

def setPair (k : Pair) (f : PairState → PairState) (s : State) : State :=
  { s with mir := { s.mir with pairs := s.mir.pairs.set k (f s.mir.pairs[k]) } }

/-- A detection in a pair, the prism or the aperture: MIR_LAST, the pair's state, source 0 and the record. `kind`: 1
mismatch, 2 invalid rail code, 3 missed probe. -/
def recordDetection (k : Pair) (kind unit pc : Nat) (diff : BitVec 64) (arg0 arg1 : Nat) (s : State) : State :=
  let st := if unit = 0 then (if kind = 1 then PairSt.mismatch else .comparator) else s.mir.pairs[k].st
  let s := if unit = 0 then
      setPair k (fun p => { p with st := st, mismatches := satAdd 255 p.mismatches 1 }) s
    else s
  let s := { s with mir := { s.mir with
    lastPair := k.val, lastKind := kind, lastUnit := unit, lastValid := true, lastPc := pc, lastDiff := diff } }
  logErr { devErr (if kind = 1 then 0x38 else 0x39) 31 s with
      arg0 := arg0, arg1 := arg1, arg2 := k.val + (if kind = 1 then 0x100 * unit else 0) } (report 0 s)

/-- A mismatch or comparator fault of a pair: both voices stop, and what they served completes MIRROR_MISMATCH. -/
def pairFault (k : Pair) (kind : Nat) (diff : BitVec 64) (arg0 arg1 : Nat) (s : State) : State :=
  let lead : Voice := Fin.ofNat 16 (2 * k.val)
  let busy := pairOn s lead
  let s := recordDetection k kind 0 (voiceOf s lead).pc diff arg0 arg1 s
  if busy then failService lead 0x51 k.val [] s else s

/-- What the comparator reports of a clock without a probe (R451, R453). -/
def plainClock (k : Pair) (r : CmpReport) (s : State) : State :=
  if r.code = 1 then s
  else if r.code = 2 then pairFault k 1 r.diff r.diff.toNat (voiceOf s (Fin.ofNat 16 (2 * k.val))).pc s
  else pairFault k 2 0 r.code.toNat 0 s

/-! ### Barriers (R388) -/

/-- The voices that take part in the barriers of a voice's set or pass; a pair counts as one. -/
def participants (s : State) (n : Voice) : List Voice :=
  match (voiceOf s n).run with
  | .set c _ => ((setOf s c).map (·.voices)).getD []
  | .pass m => ((passOf s m).map passLeads).getD []
  | _ => []

/-- A trailing voice executes what its leading voice executes (R449, R450): its architectural state, latches and waits
are the leading voice's. The registers of its own window stay its own (R9). -/
def follow (n : Voice) (s : State) : State :=
  if pairOn s n then
    let v := voiceOf s n
    setVoice (trailer n) (fun t => { t with
      s := v.s, p := v.p, pc := v.pc, v := v.v, z := v.z, sat := v.sat, tiles := v.tiles, accs := v.accs, sc := v.sc,
      code := v.code, latchA := v.latchA, latchB := v.latchB, run := v.run, wait := v.wait,
      stopped := v.stopped }) s
  else s

/-- Both voices of a formed pair count in their own windows (R346, R449). -/
def countVoice (n : Voice) (f : VoiceSt → VoiceSt) (s : State) : State :=
  if pairOn s n then setVoice (trailer n) f (setVoice n f s) else setVoice n f s

/-- The barrier releases at one instant once every participant has arrived or stopped. -/
def releaseBar (n : Voice) (s : State) : State :=
  let ps := participants s n
  if ps.all fun v => (voiceOf s v).wait == .bar || (voiceOf s v).stopped then
    ps.foldl (fun s v =>
      if (voiceOf s v).wait == .bar then
        follow v (setVoice v (fun x => { x with wait := .none, pc := x.pc + 1 }) s)
      else s) s
  else s

/-- A voice of a pass has met damage that ends only some of its commands (R250): the voice stops and reads no more, and the pass
goes on to its end without it (DESIGN CHOICE). -/
def stopAlone (n : Voice) (s : State) : State :=
  match (voiceOf s n).run with
  | .pass m =>
    let vs := halves s n
    let s := vs.foldl (fun s v => toIdle v (setVoice v (fun x => { endArrayWait s x with stopped := true, wait := .none }) s)) s
    releaseBar n (signalDone n (setPass m (fun p => { p with halted := p.halted ++ vs }) s))
  | _ => s

/-- A voice halts: its record and latch, and what it served ends (R193, R344). `alone`: of a pass, only the voice stops, since
R250 says which commands end. -/
def haltVoice (n : Voice) (h : Halt) (alone : Bool) (s : State) : State :=
  let vs := halves s n
  let inPass := match (voiceOf s n).run with | .pass _ => true | _ => false
  let s := noteHalt n h s
  if alone && inPass then stopAlone n s else failService n 0x50 (faultDetail n (h.cause == 7)) vs s

/-! ### Issue -/

/-- What an instruction does, when it does not fault: its effect, a jump, a halt, or a wait at the instruction. -/
inductive Ran where
  | next (s : State)
  | jump (s : State) (pc : Nat)
  | halt (h : Halt) (alone : Bool) (s : State)
  | wait (s : State)

/-- A voice of a pass reads window strips (R289): it waits while one is FREE or FILLING; otherwise they are IN_USE, with the voice
among their readers, and a READY one that becomes so starts the next strip load. -/
def stripGate (n : Voice) (as : List Nat) (k : State → Ran) (s : State) : Ran :=
  match (voiceOf s n).run with
  | .pass m =>
    let hit := ((as.filterMap stripOf).dedup).filter fun i => s.strips[i].owner == some m
    if hit.any fun i => s.strips[i].st == .free || s.strips[i].st == .filling then
      .wait (hit.foldl (fun s i => setStrip i (fun t =>
        if t.st = .free ∨ t.st = .filling then { t with stallFrom := t.stallFrom.or (some s.clk) } else t) s) s)
    else
      let s := hit.foldl (fun s i => setStrip i (fun t => { t with
        st := .inUse
        readBy := t.readBy ||| BitVec.ofNat 16 (2 ^ n.val) }) s) s
      k (fillAhead m 16 s)
  | _ => k s

/-- The guard holds (R348). -/
def guardOk (v : VoiceSt) (w : Nat) : Bool :=
  !bitAt w 25 || (v.p.getLsbD (bits w 23 22) != bitAt w 24)

/-- The voice can issue: it runs a set or pass, its island runs, and neither a stop nor a wait holds it. -/
def canIssue (s : State) (n : Voice) : Bool :=
  let v := voiceOf s n
  let running := match v.run with
    | .set c _ => (setOf s c).any fun k => !k.stopping && k.saved.isEmpty
    | .pass _ => true
    | _ => false
  running && !v.stopped && v.wait != .bar && islRuns s (voiceIsland n) && !muted s &&
  !(pairOn s n && n.val % 2 == 1)

/-- After an instruction, PC moves, and the fetch of a taken branch's target is part of its step (R330). -/
def settle (n : Voice) (r : Ran) : State :=
  match r with
  | .next s => follow n (setVoice n (fun v => { v with pc := v.pc + 1 }) s)
  | .jump s pc =>
    let s := follow n (setVoice n (fun v => { v with pc := pc % 2 ^ 24 }) s)
    if (voiceOf s n).code.length ≤ (voiceOf s n).pc then haltVoice n haltRange false s else s
  | .halt h alone s => haltVoice n h alone s
  | .wait s => follow n s

/-- An injection of target 6 strikes the pair in this clock (R473): a bit of the trailing signature is flipped, and the
comparator finds it before the instruction has any effect (R449, R453). -/
def strikePair (n : Voice) (s : State) : Option State :=
  if pairOn s n && opportunity 6 (fun u => u == n.val / 2) s then
    let diff := BitVec.ofNat 64 (2 ^ s.vib.bit)
    some (pairFault (pairOf n) 1 diff diff.toNat (voiceOf s n).pc (applyInjection 31 s))
  else none

/-- An instruction of a voice issues under its scalar grant (R16, R332). The word at PC must be this instruction, or
one that no map defines, or PC must lie beyond the loaded length: those halt the voice at this step (R330,
R349). `is` recognises this instruction among the defined words, `ok` the defined words. -/
def issueInsn (n : Voice) (ok is_ : Nat → Bool) (k : Nat → State → Ran) (s : State) : State :=
  if !canIssue s n then s
  else
    let v := voiceOf s n
    let go := fun (f : State → State) => withLease (.voice n .scalar) (voiceTag s n) (fun s => (strikePair n s).getD (f s)) s
    match v.code[v.pc]? with
    | none => go (haltVoice n haltRange false)
    | some w =>
      if !ok w.toNat then go (haltVoice n haltIllegal false)
      else if !is_ w.toNat then s
      else if v.wait == .event then settle n (k w.toNat s)
      else go fun s => settle n (if guardOk (voiceOf s n) w.toNat then k w.toNat s else .next s)

end Sys2Proof.Machine
end

