-- ==== Sys2Proof/Machine/Mirror.lean ====
section
/-! DEFINITION. Mirror pairs, the comparator and the probe (19), and the MIR registers (R467). -/

namespace Sys2Proof.Machine

/-! ### Pairs (R448, R452 to R454) -/

def pairAt (s : State) (k : Pair) : PairState := s.mir.pairs[k]

/-- A pair is out of service in every state but UNFORMED and FORMED. -/
def pairOut (p : PairState) : Bool := p.st != .unformed && p.st != .formed

/-- A probe cycle of a pair (R452): the comparator must report exactly the pattern. An injection of target 7 withholds it. -/
def probeCycle (k : Pair) (pattern : BitVec 64) (r : CmpReport) (s : State) : State :=
  let lo := pattern.toNat % 2 ^ 32
  let s := setPair k (fun p => { p with probeAt := s.clk, per := s.mir.period }) s
  if opportunity 7 (fun u => u == k.val) s then pairFault k 3 0 0xFF lo (applyInjection 31 s)
  else if r.code = 1 then pairFault k 3 0 0xFF lo s
  else if r.code = 2 then
    if r.diff = pattern then { s with mir := { s.mir with probes := satAdd 0xFFFFFFFF s.mir.probes 1 } }
    else pairFault k 1 r.diff r.diff.toNat (voiceOf s (Fin.ofNat 16 (2 * k.val))).pc s
  else pairFault k 2 0 r.code.toNat lo s

/-- Form a pair at a pass boundary: the clock is slaved and a probe cycle runs, which passes unless `probes` says otherwise
(R448, R452). A pair that fails it is handled as a comparator fault and is out of service. -/
def formPair (k : Pair) (probes : List FormProbe) (s : State) : State :=
  if (pairAt s k).st = .formed then s
  else
    let s := setPair k (fun p => { p with st := .formed })
      { s with isl := { s.isl with pair := s.isl.pair ||| BitVec.ofNat 8 (2 ^ k.val) } }
    match probes.find? (·.pair == k) with
    | some f => probeCycle k f.pattern f.rep s
    | none => probeCycle k 1 { code := 2, diff := 1 } s

/-- Dissolve a formed pair whose voices are needed unmirrored. -/
def dissolvePair (k : Pair) (s : State) : State :=
  if (pairAt s k).st = .formed then
    let s := setPair k (fun p => { p with st := .unformed }) s
    { s with isl := { s.isl with pair := s.isl.pair &&& ~~~BitVec.ofNat 8 (2 ^ k.val) } }
  else s

/-- MIRROR_PROBE (R452): the probe cycle once a period has passed; a pattern of 0 is a clock without a probe. -/
def mirrorProbe (k : Pair) (pattern : BitVec 64) (r : CmpReport) (s : State) : State :=
  let p := pairAt s k
  if !islRuns s 31 || p.st != .formed then s
  else if pattern = 0 then plainClock k r s
  else if s.clk < p.probeAt + 125000 * p.per then s
  else probeCycle k pattern r s

def execMirrorProbe (k : Pair) (pattern : BitVec 64) (r : CmpReport) (s : State) : Host.Outcome State Fault Refusal :=
  live s (mirrorProbe k pattern r)

/-- MIR_REQUAL (R454, R466): pairs in MISMATCH, COMPARATOR or FAILED begin re-qualification; a bit of any other pair
is ignored and logged. -/
def writeRequal (v : Word) (s : State) : State :=
  let may := fun (k : Pair) => match (pairAt s k).st with
    | .mismatch | .comparator | .failed => true
    | _ => false
  let ks := ((List.range 8).map (Fin.ofNat 8)).filter fun k => v.getLsbD k.val
  let s' := ks.foldl (fun s k =>
    if may k then setPair k (fun p => { p with st := .requal, requals := satAdd 255 p.requals 1 }) s else s) s
  if ks.any fun k => !may k then regRefused 0xF00C v 2 s' else s'

def execMirRequalWrite (v : Word) (s : State) : Host.Outcome State Fault Refusal :=
  live s (regWrite 0xF00C (whenRuns 0xF00C v (writeRequal v)))

/-- MIRROR_SELFTEST_END (R454): FORMED or FAILED, with one record of kind 0x3A. -/
def selftestEnd (k : Pair) (passed : Bool) (s : State) : State :=
  if (pairAt s k).st != .requal then s
  else
    let s := setPair k (fun p => { p with
      st := if passed then .formed else .failed
      probeAt := s.clk
      per := s.mir.period }) s
    logErr { devErr 0x3A 31 s with arg1 := b2n !passed, arg2 := k.val } s

def execMirrorSelftestEnd (k : Pair) (passed : Bool) (s : State) : Host.Outcome State Fault Refusal :=
  live s (selftestEnd k passed)

/-- A disagreement of the prism's or the aperture's double work abandons the pass (R455, R456): unit 22 or 23. The pair that its
record and its DETAIL name is open (log entry 3). -/
def unitMismatch (m : ModelRef) (unit : Nat) (s : State) : State :=
  let s := { s with mir := { s.mir with
    checksPrism := if unit = 22 then satAdd 65535 s.mir.checksPrism 1 else s.mir.checksPrism
    checksApt := if unit = 23 then satAdd 65535 s.mir.checksApt 1 else s.mir.checksApt } }
  match passOf s m with
  | none => s
  | some p =>
    let k : Pair := Fin.ofNat 8 (Config.freeNat s.freeCtr)
    let s := { s with freeCtr := s.freeCtr + 1 }
    let lead : Voice := Fin.ofNat 16 (2 * k.val)
    let s := recordDetection k 1 unit (voiceOf s lead).pc 0 0 (voiceOf s lead).pc s
    abandonPass p 0x51 (k.val + 0x100 * unit) [] s

/-- CANTOR_MISMATCH (R459): MUTE with cause 2 and island 24. -/
def execCantorMismatch (s : State) : Host.Outcome State Fault Refusal :=
  live s fun s => if s.isl.refLost || muted s || s.bsc.stage == .otp then s else enterMute 2 24 s

/-- AON_COPY_OUTVOTED (R460): MIR_AON counts, with a record of kind 0x3B when it changes from 0. -/
def copyOutvoted (group : Fin 5) (copy : Fin 3) (s : State) : State :=
  if group = 0 then s
  else
    let first := s.mir.aon = 0
    let s := { s with mir := { s.mir with aon := satAdd 65535 s.mir.aon 1 } }
    if first then logErr { devErr 0x3B 0 s with arg1 := group.val, arg2 := copy.val } s else s

def execAonCopyOutvoted (group : Fin 5) (copy : Fin 3) (s : State) : Host.Outcome State Fault Refusal :=
  live s (copyOutvoted group copy)

/-- Every pair in mirror mode stops when island 31 takes a clock fault: its state becomes COMPARATOR, source 0 occurs, and its
commands complete MIRROR_MISMATCH (R65, R221, Edges of 19). -/
def stopPairs (s : State) : State :=
  (List.range 8).foldl (fun s i =>
    let k : Pair := Fin.ofNat 8 i
    if (pairAt s k).st = .formed then
      let lead : Voice := Fin.ofNat 16 (2 * i)
      let busy := pairOn s lead
      let s := report 0 (setPair k (fun p => { p with st := .comparator }) s)
      if busy then failService lead 0x51 i [] s else s
    else s) s

/-! ### The MIR registers (R467) -/

def pairStCode : PairSt → Nat
  | .unformed => 0 | .formed => 1 | .mismatch => 2 | .comparator => 3 | .requal => 4 | .failed => 5

def mirRead (off : Nat) (s : State) : Option Word :=
  let m := s.mir
  match off with
  | 0xF000 => some (w32 m.period)
  | 0xF004 => some (lo32 m.model.toNat)
  | 0xF008 => some (hi32 m.model.toNat)
  | 0xF00C => some 0
  | 0xF010 => some (w32 (maskOf 8 fun i => pairOut (pairAt s (Fin.ofNat 8 i))))
  | 0xF014 => some (w32 m.probes)
  | 0xF018 => some (w32 m.aon)
  | 0xF01C => some (w32 (m.checksPrism + 0x10000 * m.checksApt))
  | 0xF020 => some (w32 (m.lastPair + 0x10 * m.lastKind + 0x100 * m.lastUnit + 0x80000000 * b2n m.lastValid))
  | 0xF024 => some (w32 m.lastPc)
  | 0xF028 => some (lo32 m.lastDiff.toNat)
  | 0xF02C => some (hi32 m.lastDiff.toNat)
  | _ =>
    if 0xF040 ≤ off ∧ off < 0xF060 ∧ off % 4 = 0 then
      let p := pairAt s (Fin.ofNat 8 ((off - 0xF040) / 4))
      some (w32 (pairStCode p.st + 0x100 * p.mismatches + 0x10000 * p.requals))
    else none

def mirReadEff (off : Nat) (s : State) : State :=
  match off with
  | 0xF014 => { s with mir := { s.mir with probes := 0 } }
  | 0xF018 => { s with mir := { s.mir with aon := 0 } }
  | 0xF01C => { s with mir := { s.mir with checksPrism := 0, checksApt := 0 } }
  | _ => s

def mirWrite (off : Nat) (v : Word) (s : State) : Option State :=
  match off with
  | 0xF000 =>
    let p := bits v.toNat 6 0
    if p = 0 ∨ 64 < p then some (regRefused off v 1 s) else some { s with mir := { s.mir with period := p } }
  | 0xF004 => some { s with mir := { s.mir with model := BitVec.ofNat 64 (setLo s.mir.model.toNat v) } }
  | 0xF008 => some { s with mir := { s.mir with model := BitVec.ofNat 64 (setHi s.mir.model.toNat v) } }
  | 0xF00C => some (whenRuns off v (writeRequal v) s)
  | 0xF020 => some { s with mir := { s.mir with lastValid := s.mir.lastValid && !v.getLsbD 31 } }
  | _ => (mirRead off s).map fun _ => s

end Sys2Proof.Machine
end

