-- ==== Sys2Proof/Machine/Vibrato.lean ====
section
/-! DEFINITION. Vibrato (20): the unlock sequence, runs, settings and the VIB registers (R477). The injections stand
where the data that they alter passes (Memory, Port, Prism, Mirror, Tile); VIB_BRG's delay stands in Breath. -/

namespace Sys2Proof.Machine

def setVib (f : Vib → Vib) (s : State) : State := { s with vib := f s.vib }

/-- The record of a change between locked and unlocked (R468, R476): 1 unlocked, 2 locked. -/
def lockRec (what : Nat) (s : State) : State := logErr { devErr 0x3C 31 s with arg2 := what } s

/-- A run ends (R470): pending injections are dropped and counted, source 39 reports, one record of kind 0x3E. -/
def endRun (reason : Nat) (s : State) : State :=
  if s.vib.runFrom.isNone then s
  else
    let missed := if s.vib.target = 0 then 0 else s.vib.count - s.vib.applied
    let s := setVib (fun v => { v with runFrom := none, missed := missed, lastAt := none, again := none }) s
    let s := report 39 s
    logErr { devErr 0x3E 31 s with arg1 := s.vib.applied + 0x100 * missed, arg2 := reason } s

/-! ### The unlock sequence (R468) -/

def writeVibUnlock (v : Word) (s : State) : State :=
  let key := bits v.toNat 15 0
  let was := s.vib.keyAt
  let s := setVib (fun x => { x with keyAt := none }) s
  if s.vib.runFrom.isSome then regRefused 0x10000 v 2 s
  else match was with
    | none =>
      if key = 0x5649 then setVib (fun x => { x with keyAt := some s.clk }) s else regRefused 0x10000 v 2 s
    | some t =>
      if key = 0xA9B6 ∧ s.clk ≤ t + 100000 ∧ s.bsc.stage = .full then
        if s.vib.unlocked then s else lockRec 1 (setVib (fun x => { x with unlocked := true }) s)
      else regRefused 0x10000 v 2 s

def execVibUnlockWrite (v : Word) (s : State) : Host.Outcome State Fault Refusal :=
  live s (regWrite 0x10000 (whenRuns 0x10000 v (writeVibUnlock v)))

/-! ### VIB_CTRL (R469 to R471) -/

/-- GO: a run starts with the current settings. -/
def startRun (v : Word) (s : State) : State :=
  if s.vib.runFrom.isSome then regRefused 0x10004 v 2 s
  else setVib (fun x => { x with runFrom := some s.clk, applied := 0, lastAt := none, again := none }) s

/-- LOCK: any run is stopped first. -/
def lockVib (s : State) : State := lockRec 2 (setVib (fun x => { x with unlocked := false }) (endRun 3 s))

def writeVibCtrl (v : Word) (s : State) : State :=
  let s := setVib (fun x => { x with keyAt := none }) s
  if !s.vib.unlocked then regRefused 0x10004 v 2 s
  else match bits v.toNat 2 0 with
    | 0 => s
    | 1 => startRun v s
    | 2 => endRun 2 s
    | 4 => lockVib s
    | _ => regRefused 0x10004 v 1 s

def vibCtrl (v : Word) (s : State) : Host.Outcome State Fault Refusal :=
  live s (regWrite 0x10004 (whenRuns 0x10004 v (writeVibCtrl v)))

def execVibGo (s : State) : Host.Outcome State Fault Refusal := vibCtrl 1 s
def execVibStop (s : State) : Host.Outcome State Fault Refusal := vibCtrl 2 s
def execVibLock (s : State) : Host.Outcome State Fault Refusal := vibCtrl 4 s

/-- VIB_DURATION_EXPIRY: VIB_DURATION.MS has passed since GO. -/
def durationExpiry (s : State) : State :=
  match s.vib.runFrom with
  | some t => if t + 1000000 * s.vib.ms ≤ s.clk then endRun 1 s else s
  | none => s

def execVibDurationExpiry (s : State) : Host.Outcome State Fault Refusal := live s durationExpiry

/-! ### The VIB registers (R473, R477) -/

/-- UNIT and BIT lie in the ranges of a target (R473): channels, sections, sub-streams, ports, pairs. -/
def argOk (target unit bit : Nat) : Bool :=
  match target with
  | 3 => unit < 4 && bit < 64
  | 4 => bit < 8
  | 5 => unit < 4
  | 6 => unit < 8 && bit < 64
  | 7 => unit < 8
  | _ => true

/-- A setting: refused by a rule while vibrato is locked or a run is in progress (R469, R471). -/
def vibSetting (off : Nat) (v : Word) (ok : Bool) (f : Vib → Vib) (s : State) : State :=
  let s := setVib (fun x => { x with keyAt := none }) s
  if !s.vib.unlocked || s.vib.runFrom.isSome then regRefused off v 2 s
  else if !ok then regRefused off v 1 s
  else setVib f s

def vibRead (off : Nat) (s : State) : Option Word :=
  let x := s.vib
  match off with
  | 0x10000 => some 0
  | 0x10004 => some 0
  | 0x10008 => some (w32 (b2n x.unlocked + 2 * b2n x.runFrom.isSome + 0x100 * x.applied + 0x10000 * x.missed))
  | 0x1000C => some (w32 x.ms)
  | 0x10010 => some x.hsMask
  | 0x10014 => some (w32 (x.hsDelay + 0x100 * x.bpLen + 0x10000 * x.bpPeriod))
  | 0x10018 => some (w32 (x.brgDelay + 0x10000 * b2n x.brgCore + 0x20000 * b2n x.brgIo))
  | 0x1001C => some (w32 (x.stretch + 0x10000 * x.channels.toNat))
  | 0x10020 => some (w32 (x.target + 0x100 * x.count + 0x10000 * x.interval))
  | 0x10024 => some (w32 (injArg x))
  | _ => none

def vibWrite (off : Nat) (v : Word) (s : State) : Option State :=
  let n := v.toNat
  match off with
  | 0x10000 => some (whenRuns off v (writeVibUnlock v) s)
  | 0x10004 => some (whenRuns off v (writeVibCtrl v) s)
  | 0x10008 => some (vibSetting off v true id s)
  | 0x1000C => some (vibSetting off v (bits n 15 0 != 0) (fun x => { x with ms := bits n 15 0 }) s)
  | 0x10010 => some (vibSetting off v true (fun x => { x with hsMask := v }) s)
  | 0x10014 =>
    let len := bits n 15 8
    let per := bits n 23 16
    some (vibSetting off v (len == 0 || len < 10 * per)
      (fun x => { x with hsDelay := bits n 7 0, bpLen := len, bpPeriod := per }) s)
  | 0x10018 => some (vibSetting off v (bits n 9 0 ≤ 1000)
      (fun x => { x with brgDelay := bits n 9 0, brgCore := bitAt n 16, brgIo := bitAt n 17 }) s)
  | 0x1001C => some (vibSetting off v true
      (fun x => { x with stretch := bits n 3 0, channels := BitVec.ofNat 16 (bits n 31 16) }) s)
  | 0x10020 => some (vibSetting off v (bits n 3 0 ≤ 7 && (bits n 3 0 == 0 || bits n 15 8 != 0))
      (fun x => { x with target := bits n 3 0, count := bits n 15 8, interval := bits n 31 16 }) s)
  | 0x10024 => some (vibSetting off v (argOk s.vib.target (bits n 3 0) (bits n 31 24))
      (fun x => { x with
        unit := bits n 3 0
        rep := bitAt n 8
        part := BitVec.ofNat 8 (bits n 23 16)
        bit := bits n 31 24 }) s)
  | _ => none

end Sys2Proof.Machine
end

