-- ==== Sys2Proof/Machine/Aperture.lean ====
section
/-! DEFINITION. The aperture (17): masks (R408 to R410), the sampling order (R412), the counter-based generator
(R413), the acceptance of drafts (R403, R404), and the APT registers (R421). -/

namespace Sys2Proof.Machine

/-! ### Loading masks (R408, R409) -/

/-- The edges of a state, in the table. -/
def edgesOf (edges : List AutoEdge) (st : AutoState) : List AutoEdge := (edges.drop st.first).take st.count

/-- Edges in ascending LO, not overlapping, inside the vocabulary and not covering EOS. -/
def edgesOk (states vocab eos : Nat) : List AutoEdge → Bool
  | [] => true
  | e :: rest =>
    e.lo ≤ e.hi && e.hi < vocab && e.next < states && !(e.lo ≤ eos && eos ≤ e.hi) &&
    (match rest with | [] => true | n :: _ => e.hi < n.lo) && edgesOk states vocab eos rest

/-- A grammar automaton (R408); `none` when it breaks a rule. -/
def parseAutomaton (bs : List Byte) (vocab : Nat) : Option Mask :=
  let states := le bs 8 4
  let edges := le bs 12 4
  let eos := le bs 24 4
  let start := le bs 16 2
  let head := le bs 0 4 == 0x4147584F && le bs 4 2 == 1 && allZero bs 6 2 && 1 ≤ states && states ≤ 65536 &&
    edges ≤ 1048576 && start < states && allZero bs 18 2 && le bs 20 4 == vocab && eos < vocab && allZero bs 28 4 &&
    bs.length == 32 + 8 * states + 8 * edges
  if !head then none
  else
    let st := (List.range states).map fun i => (le bs (32 + 8 * i) 8)
    let ed := (List.range edges).map fun i => (le bs (32 + 8 * states + 8 * i) 8)
    let sts := st.map fun v => { first := bits v 31 0, count := bits v 47 32, accept := bitAt v 48 : AutoState }
    let eds := ed.map fun v => { lo := bits v 17 0, hi := bits v 35 18, next := bits v 51 36 : AutoEdge }
    let ok := st.all (fun v => bits v 63 49 == 0) && ed.all (fun v => bits v 63 52 == 0) &&
      sts.all fun x => (x.count == 0 || x.first + x.count ≤ edges) && edgesOk states vocab eos (edgesOf eds x)
    if ok then some (.automaton sts eds start vocab eos) else none

def ascending : List Nat → Bool
  | a :: b :: rest => a < b && ascending (b :: rest)
  | _ => true

/-- An explicit allow list (R409). -/
def parseList (bs : List Byte) (vocab : Nat) : Option Mask :=
  let n := le bs 8 4
  let head := le bs 0 4 == 0x4C41584F && le bs 4 2 == 1 && allZero bs 6 2 && 1 ≤ n && n ≤ 4096 &&
    le bs 12 4 == vocab && bs.length == 16 + 4 * n
  if !head then none
  else
    let ts := (List.range n).map fun i => le bs (16 + 4 * i) 4
    if ascending ts && ts.all (fun t => t < vocab && t < 2 ^ 18) then some (.list ts vocab) else none

def maskVocab : Mask → Nat
  | .automaton _ _ _ v _ => v
  | .list _ v => v

/-- States or tokens, as the payload of MASK_LOAD reports them. -/
def maskSize : Mask → Nat
  | .automaton st _ _ _ _ => st.length
  | .list ts _ => ts.length

/-! ### The allowed set (R410) -/

/-- The mask of a context, and the automaton state reached. -/
def boundMask (s : State) (p : Part) (m : Option (Fin 32)) : Option Mask := m.bind fun i => s.masks[p][i]

/-- The allowed set as ranges. -/
def allowedSet (mask : Option Mask) (st vocab eos : Nat) : List (Nat × Nat) :=
  match mask with
  | none => if vocab = 0 then [] else [(0, vocab - 1)]
  | some (.list ts _) => ts.map fun t => (t, t)
  | some (.automaton sts eds _ _ _) => match sts[st]? with
    | none => []
    | some x => ((edgesOf eds x).map fun e => (e.lo, e.hi)) ++ if x.accept then [(eos, eos)] else []

def isAllowed (rs : List (Nat × Nat)) (t : Nat) : Bool := rs.any fun r => r.1 ≤ t && t ≤ r.2

/-- The allowed tokens in ascending order. -/
def allowedTokens (rs : List (Nat × Nat)) (vocab : Nat) : List Nat := (List.range vocab).filter (isAllowed rs)

/-- Only the end-of-sequence token is allowed (R411). -/
def onlyEos (rs : List (Nat × Nat)) (eos : Nat) : Bool := !rs.isEmpty && rs.all fun r => r.1 == eos && r.2 == eos

/-- The automaton state after a selected token; `none` after a token that no edge covers (R410). -/
def advance (mask : Option Mask) (eos st t : Nat) : Option Nat :=
  match mask with
  | some (.automaton sts eds start _ _) =>
    if t = eos then some start
    else match sts[st]? with
      | none => none
      | some x => ((edgesOf eds x).find? fun e => e.lo ≤ t && t ≤ e.hi).map (·.next)
  | some (.list ts _) => if ts.contains t then some st else none
  | none => some st

/-! ### The generator (R413) -/

/-- One round of Philox4x32: the counter words and the key. -/
def philoxRound (c : Nat × Nat × Nat × Nat) (k0 k1 : Nat) : Nat × Nat × Nat × Nat :=
  let a := 0xD2511F53 * c.1
  let b := 0xCD9E8D57 * c.2.2.1
  let hi := fun (x : Nat) => x / 2 ^ 32 % 2 ^ 32
  let lo := fun (x : Nat) => x % 2 ^ 32
  (hi b ^^^ c.2.1 ^^^ k0, lo b, hi a ^^^ c.2.2.2 ^^^ k1, lo a)

def philox : Nat → Nat × Nat × Nat × Nat → Nat → Nat → Nat × Nat × Nat × Nat
  | 0, c, _, _ => c
  | n + 1, c, k0, k1 => philox n (philoxRound c k0 k1) ((k0 + 0x9E3779B9) % 2 ^ 32) ((k1 + 0xBB67AE85) % 2 ^ 32)

/-- u = (x[31:8] + 0.5) × 2⁻²⁴, exactly. -/
def uniform (seed ctx pos stream : Nat) : Fl :=
  let x := (philox 10 (pos % 2 ^ 32, ctx % 65536 + 65536 * stream, 0, 0) (seed % 2 ^ 32) (seed / 2 ^ 32 % 2 ^ 32)).1
  .fin false (2 * (x / 256) + 1) (-25)

/-! ### Selection (R412) -/

/-- The sampling fields of a GENERATE. -/
structure Sampling where
  greedy : Bool
  temp : Nat
  topK : Nat
  topP : Nat
  seed : Nat
  ctx : Nat
  deriving DecidableEq, Repr

/-- The logit of a token with NaN replaced by the most negative finite value. An infinite one is taken as the largest
finite value of its sign (DEDUCED from R326 and R384: log entry 18). -/
def logitOf (z : List Word) (t : Nat) : Nat :=
  let v := f32v (z.getD t 0).toNat
  if v.isNan then 0xFF7FFFFF else f32 v

def countNan (z : List Word) (ts : List Nat) : Nat := (ts.filter fun t => (f32v (z.getD t 0).toNat).isNan).length

/-- The token with the largest value; the lowest among equals. -/
def largest (z : List Word) : List Nat → Option Nat
  | [] => none
  | t :: rest => match largest z rest with
    | none => some t
    | some u => if (f32v (logitOf z t)).lt (f32v (logitOf z u)) then some u else some t

/-- A distribution: tokens in ascending order with their p, and the exact W. -/
structure Dist where
  ps : List (Nat × Fl)
  w : Fl
  deriving DecidableEq, Repr

def Dist.prob (d : Dist) (t : Nat) : Fl := ((d.ps.find? fun e => e.1 == t).map (·.2)).getD .zero

/-- The threshold of TOP_P: the largest p[t] whose exact sum of all values at or above it is at least TOP_P; `none` when
the whole sum falls short. -/
def threshold (topP : Fl) (ps : List Fl) : Option Fl :=
  let ok := fun (v : Fl) => !((Fl.sum (ps.filter fun q => !q.lt v)).lt topP)
  ps.foldl (fun best v => if !ok v then best else match best with
    | none => some v
    | some b => if b.lt v then some v else some b) none

/-- The final distribution of R412. -/
def distribution (f : Sampling) (z : List Word) (a : List Nat) : Dist :=
  let temp := bf16.decode f.temp
  let y := a.map fun t => (t, f32v (f32 ((f32v (logitOf z t)).div temp)))
  let k := if f.topK = 0 ∨ a.length ≤ f.topK then y
    else
      let best := (sortBy (fun u v => v.2.lt u.2 || (!u.2.lt v.2 && u.1 ≤ v.1)) y).take f.topK
      y.filter fun e => best.any fun b => b.1 == e.1
  let m := k.foldl (fun m e => match m with
    | none => some e.2
    | some v => if v.lt e.2 then some e.2 else some v) none
  let e := k.map fun t => (t.1, f32v (expApprox (f32 (t.2.sub (m.getD .zero)))).1)
  let total := f32v (f32 (Fl.sum (e.map (·.2))))
  let p := e.map fun t => (t.1, f32v (f32 (t.2.div total)))
  let topP := bf16.decode f.topP
  let p := if topP.lt (.fin false 1 0) then
      match threshold topP (p.map (·.2)) with
      | some th => p.filter fun t => !t.2.lt th
      | none => p
    else p
  { ps := p, w := Fl.sum (p.map (·.2)) }

/-- The lowest token whose cumulative sum exceeds u × the whole. -/
def draw (lim : Fl) : Fl → List (Nat × Fl) → Option Nat
  | _, [] => none
  | acc, (t, p) :: rest =>
    let acc := acc.add p
    if lim.lt acc then some t else draw lim acc rest

/-- Draw from weights with the uniform of a position and stream. -/
def drawFrom (f : Sampling) (ps : List (Nat × Fl)) (pos stream : Nat) : Option Nat :=
  (draw ((uniform f.seed f.ctx pos stream).mul (Fl.sum (ps.map (·.2)))) .zero ps).or (ps.head?.map (·.1))

/-- The aperture's selection of a token among the allowed ones. -/
def selectTok (f : Sampling) (z : List Word) (a : List Nat) (pos stream : Nat) : Option Nat :=
  if f.greedy then largest z a else drawFrom f (distribution f z a).ps pos stream

/-- The fields with which a probability is reported for a greedy selection and a scored token (R182, R184). -/
def Sampling.plain (f : Sampling) : Sampling := { f with greedy := false, temp := 0x3F80, topK := 0, topP := 0x3F80 }

/-- The natural log of a probability in binary32; of 0 it is free (log entry 3). -/
def lnProb (k : Nat) (d : Dist) (t : Nat) : Nat :=
  let c := f32 ((d.prob t).div d.w)
  if c = 0 then Config.freeNat k % 2 ^ 32 else lnApprox c

/-- binary32 to BF16. -/
def toBf16 (c : Nat) : Nat := (bf16.round (f32v c)).1

/-! ### Acceptance of drafts (R403, R404) -/

/-- What a verify round settles: the tokens to commit in order, whether the last is the target's own. -/
structure Round where
  accepted : Nat
  next : Option Nat
  deriving DecidableEq, Repr

/-- u × q(x) < p(x) for two distributions, compared exactly. -/
def accepts (u : Fl) (p q : Dist) (x : Nat) : Bool :=
  ((u.mul (q.prob x)).mul p.w).lt ((p.prob x).mul q.w)

/-- The residual weights max(0, p − q), scaled by both sums. -/
def residual (p q : Dist) : List (Nat × Fl) :=
  p.ps.map fun e =>
    let d := (e.2.mul q.w).sub ((q.prob e.1).mul p.w)
    (e.1, if d.lt .zero then .zero else d)

/-! ### Counters and the APT registers (R421) -/

def bumpApt (j : Fin 8) (n : Nat) (s : State) : State :=
  { s with apt := { s.apt with live := s.apt.live.set j ((s.apt.live[j] + n) % 2 ^ 64) } }

/-- One selection counts (R421): a token selected, the logits that the mask excludes, the NaN logits replaced. -/
def countSelect (z : List Word) (a : List Nat) (s : State) : State :=
  bumpApt 0 1 (bumpApt 3 (z.length - a.length) (bumpApt 4 (countNan z a) s))

def aptRead (off : Nat) (s : State) : Option Word :=
  let held := holdsGrant s .aperture
  let wait := s.brg.core.reqs.any fun r => r.unit == .aperture
  let rows := ((s.passes.find? fun p => s.brg.core.grants.any fun g =>
    g.unit == .aperture && (match g.tag with | .batch m _ => m == p.model | _ => false)).map (·.rows.length)).getD 0
  match off with
  | 0xD000 => some (w32 (b2n held + 2 * b2n wait + 0x100 * rows))
  | 0xD004 => some 0
  | 0xD008 => some (w32 (s.apt.auto +
      0x10000 * (s.ctxs.filter fun x => x.st == .hushed || x.st == .out).length))
  | 0xD00C => some (w32 (s.apt.deadState + 0x1000000 * s.apt.deadPart.val + 0x80000000 * b2n s.apt.deadValid))
  | 0xD010 => some (w32 s.apt.deadCtx)
  | _ =>
    if 0xD100 ≤ off ∧ off < 0xD140 ∧ off % 4 = 0 then
      let v := s.apt.snap[Fin.ofNat 8 ((off - 0xD100) / 8)]
      some (if off % 8 = 0 then lo32 v else hi32 v)
    else none

def aptReadEff (off : Nat) (s : State) : State :=
  if off = 0xD008 then { s with apt := { s.apt with auto := 0 } } else s

/-- APT_CNT_CTRL: CLEAR after any SNAP of the same write. -/
def writeAptCtrl (v : Word) (s : State) : State :=
  let s := if v.getLsbD 0 then { s with apt := { s.apt with snap := s.apt.live } } else s
  if v.getLsbD 1 then { s with apt := { s.apt with live := Vector.replicate 8 0 } } else s

def aptWrite (off : Nat) (v : Word) (s : State) : Option State :=
  match off with
  | 0xD004 => some (whenRuns off v (writeAptCtrl v) s)
  | 0xD00C => some { s with apt := { s.apt with deadValid := s.apt.deadValid && !v.getLsbD 31 } }
  | _ => (aptRead off s).map fun _ => s

end Sys2Proof.Machine
end

