-- ==== Sys2Proof/Machine/Crypto.lean ====
section
/-! DEFINITION. The published algorithms that the spec names without giving their steps: CRC-32C (R88, R270),
SHA-256 and ECDSA over P-256 (R85, R89). PRESUMED from RFC 3720, FIPS 180-4 and FIPS 186-4: log entry 11. -/

namespace Sys2Proof.Machine

/-- One bit of the reflected CRC-32C, polynomial 0x82F6_3B78. -/
def crcBit (c : Nat) : Nat := if c % 2 == 1 then (c / 2) ^^^ 0x82F63B78 else c / 2

/-- `f n`, with `n` evaluated first, so that a long loop stays shallow when the kernel evaluates it. -/
def onValue {α : Type} (n : Nat) (f : Nat → α) : α := match n with
  | 0 => f 0
  | k + 1 => f (k + 1)

/-- The remainder after the bytes, from the remainder before them. -/
def crcFrom : List Byte → Nat → Nat
  | [], c => c
  | b :: bs, c => onValue (Nat.repeat crcBit 8 (c ^^^ b.toNat)) (crcFrom bs)

/-- CRC-32C of a byte string. -/
def crc32c (bs : List Byte) : Nat := crcFrom bs 0xFFFFFFFF ^^^ 0xFFFFFFFF

/-- The first n primes above the list found so far, by trial division with fuel. -/
def primesUpTo : Nat → List Nat
  | 0 => []
  | n + 1 =>
    let ps := primesUpTo n
    if n + 1 < 2 || ps.any (fun p => (n + 1) % p == 0) then ps else ps ++ [n + 1]

/-- Integer root by bisection: the largest r below 2^k with r^e ≤ v. -/
def iroot (e v : Nat) : Nat → Nat → Nat
  | 0, r => r
  | k + 1, r => if (r + 2 ^ k) ^ e ≤ v then iroot e v k (r + 2 ^ k) else iroot e v k r

/-- The round constants of SHA-256: the first 32 bits of the fractions of the cube roots of the first 64
primes. -/
def shaK : List Nat := (primesUpTo 311).map fun p => iroot 3 (p * 2 ^ 96) 36 0 % 2 ^ 32

/-- The initial hash value: the fractions of the square roots of the first 8 primes. -/
def shaH : List Nat := (primesUpTo 19).map fun p => iroot 2 (p * 2 ^ 64) 36 0 % 2 ^ 32

/-- A 32-bit word rotated right. -/
def rotr (x n : Nat) : Nat := x / 2 ^ n + x % 2 ^ n * 2 ^ (32 - n)

/-- The message schedule, newest word first, grown to `n` more words. -/
def shaExpand : Nat → List Nat → List Nat
  | 0, w => w
  | n + 1, w =>
    let g := fun k => w.getD (k - 1) 0
    let s0 := rotr (g 15) 7 ^^^ rotr (g 15) 18 ^^^ g 15 / 2 ^ 3
    let s1 := rotr (g 2) 17 ^^^ rotr (g 2) 19 ^^^ g 2 / 2 ^ 10
    onValue ((g 16 + s0 + g 7 + s1) % 2 ^ 32) fun x => shaExpand n (x :: w)

/-- The rounds of SHA-256 on the working variables a to h, each with its constant plus word. -/
def shaRounds : List (Nat × Nat) → List Nat → List Nat
  | [], v => v
  | kw :: rest, v => match v with
    | [a, b, c, d, e, f, g, h] =>
      let s1 := rotr e 6 ^^^ rotr e 11 ^^^ rotr e 25
      let t1 := h + s1 + ((e &&& f) ^^^ ((2 ^ 32 - 1 - e) &&& g)) + kw.1 + kw.2
      let s0 := rotr a 2 ^^^ rotr a 13 ^^^ rotr a 22
      let t2 := s0 + ((a &&& b) ^^^ (a &&& c) ^^^ (b &&& c))
      onValue ((t1 + t2) % 2 ^ 32) fun a' => onValue ((d + t1) % 2 ^ 32) fun e' => shaRounds rest [a', a, b, c, e', e, f, g]
    | v => v

/-- The 16 big-endian words of a 64-byte block. -/
def shaWords (blk : List Byte) : List Nat := (List.range 16).map fun i => beNat (slice blk (4 * i) 4)

/-- The hash value after one block. -/
def shaBlock (h : List Nat) (blk : List Byte) : List Nat :=
  let v := shaRounds (shaK.zip (shaExpand 48 (shaWords blk).reverse).reverse) h
  List.zipWith (fun x y => (x + y) % 2 ^ 32) h v

/-- The padded message, a multiple of 64 bytes. -/
def shaPad (m : List Byte) : List Byte :=
  m ++ [0x80] ++ List.replicate ((119 - m.length % 64) % 64) 0 ++ toBe 8 (8 * m.length)

/-- The blocks of a padded message, hashed in order. -/
def shaBlocks : Nat → List Byte → List Nat → List Nat
  | 0, _, h => h
  | n + 1, m, h => match shaBlock h (m.take 64) with
    | [] => []
    | x :: xs => shaBlocks n (m.drop 64) (x :: xs)

/-- SHA-256 of a byte string, 32 bytes. -/
def sha256 (m : List Byte) : List Byte :=
  let p := shaPad m
  (shaBlocks (p.length / 64) p shaH).flatMap (toBe 4)

/-- The prime, the order, the coefficient b and the base point of P-256. -/
def p256p : Nat := 0xFFFFFFFF00000001000000000000000000000000FFFFFFFFFFFFFFFFFFFFFFFF
def p256n : Nat := 0xFFFFFFFF00000000FFFFFFFFFFFFFFFFBCE6FAADA7179E84F3B9CAC2FC632551
def p256b : Nat := 0x5AC635D8AA3A93E7B3EBBD55769886BC651D06B0CC53B0F63BCE3C3E27D2604B
def p256g : Nat × Nat :=
  (0x6B17D1F2E12C4247F8BCE6E563A440F277037D812DEB33A0F4A13945D898C296,
   0x4FE342E2FE1A7F9B8EE7EB4A7C0F9E162BCE33576B315ECECBB6406837BF51F5)

/-- a^e modulo m, by the bits of e from `k` bits down. -/
def powMod (m a e : Nat) : Nat → Nat
  | 0 => 1 % m
  | k + 1 =>
    let r := powMod m a (e / 2) k
    if e % 2 == 1 then r * r % m * a % m else r * r % m

/-- The inverse modulo a prime. -/
def invMod (m a : Nat) : Nat := powMod m (a % m) (m - 2) 256

/-- A difference modulo the prime. -/
def pSub (a b : Nat) : Nat := (a + p256p - b) % p256p

/-- A point in Jacobian coordinates: (x / z², y / z³); z = 0 is the point at infinity. -/
structure EcPoint where
  x : Nat
  y : Nat
  z : Nat
  deriving DecidableEq, Repr

def EcPoint.zero : EcPoint := { x := 1, y := 1, z := 0 }

/-- Twice a point of the curve. -/
def ecDouble (p : EcPoint) : EcPoint :=
  let yy := p.y * p.y % p256p
  let zz := p.z * p.z % p256p
  let s := 4 * p.x * yy % p256p
  let m := 3 * pSub p.x zz * (p.x + zz) % p256p
  let x := pSub (m * m % p256p) (2 * s % p256p)
  { x := x, y := pSub (m * pSub s x % p256p) (8 * yy * yy % p256p), z := 2 * p.y * p.z % p256p }

/-- The sum of two points of the curve. -/
def ecAdd (p q : EcPoint) : EcPoint :=
  if p.z == 0 then q
  else if q.z == 0 then p
  else
    let zp := p.z * p.z % p256p
    let zq := q.z * q.z % p256p
    let u := p.x * zq % p256p
    let h := pSub (q.x * zp % p256p) u
    let v := p.y * zq * q.z % p256p
    let r := pSub (q.y * zp * p.z % p256p) v
    if h == 0 then (if r == 0 then ecDouble p else EcPoint.zero)
    else
      let hh := h * h % p256p
      let hhh := hh * h % p256p
      let w := u * hh % p256p
      let x := pSub (pSub (r * r % p256p) hhh) (2 * w % p256p)
      { x := x, y := pSub (r * pSub w x % p256p) (v * hhh % p256p), z := h * p.z * q.z % p256p }

/-- k times a point, by the bits of k. -/
def ecMul (q : EcPoint) (k : Nat) : Nat → EcPoint
  | 0 => EcPoint.zero
  | n + 1 =>
    let d := ecDouble (ecMul q (k / 2) n)
    if k % 2 == 1 then ecAdd d q else d

/-- An ECDSA signature (r, s) over SHA-256 verifies under the key (qx, qy) (R89). -/
def ecdsaVerify (qx qy r s : Nat) (digest : List Byte) : Bool :=
  qx < p256p && qy < p256p && (qy * qy) % p256p == (qx * qx * qx + (p256p - 3) * qx + p256b) % p256p &&
  0 < r && r < p256n && 0 < s && s < p256n &&
  let w := invMod p256n s
  let u1 := beNat digest * w % p256n
  let u2 := r * w % p256n
  let p := ecAdd (ecMul { x := p256g.1, y := p256g.2, z := 1 } u1 256) (ecMul { x := qx, y := qy, z := 1 } u2 256)
  p.z != 0 && p.x * invMod p256p (p.z * p.z % p256p) % p256p % p256n == r

end Sys2Proof.Machine
end

