-- ==== Sys2Proof/Machine/Image.lean ====
section
/-! DEFINITION. Horte images (11): the header (R275), the tables (R276, R277), the split record (R436), the signature
block (R89, R278), the checks of a shard, and where a slot's image pages lie (R263, R267). -/

namespace Sys2Proof.Machine

/-! ### The signature block (R89) -/

/-- The signature of `whole`, whose last 160 bytes are the signature block. -/
def sigOk (f : Fuses) (whole : List Byte) : Bool :=
  let n := whole.length
  let blk := whole.drop (n - 160)
  let slot := byteAt blk 0
  160 ≤ n && slot < 4 && allZero blk 1 31 &&
  sha256 (slice blk 32 64) == f.keyHash.getD slot [] && !f.revoked.getLsbD slot &&
  ecdsaVerify (beNat (slice blk 32 32)) (beNat (slice blk 64 32)) (beNat (slice blk 96 32)) (beNat (slice blk 128 32))
    (sha256 (whole.take (n - 64)))

/-! ### The header (R275) -/

/-- The fields of a header, when every rule of R275 holds. -/
def parseHeader (b : List Byte) : Option ImgHdr :=
  let h : ImgHdr :=
    { imageLen := le b 8 8
      modelId := le b 16 8
      residentLen := le b 24 8
      tensorCount := le b 36 4
      shardOff := le b 40 4
      shardCount := le b 44 4
      sigOff := le b 48 4
      dataOff := le b 52 4
      layers := le b 56 2
      hidden := le b 58 2
      vocab := le b 60 4
      contextMax := le b 64 4
      kvPerToken := le b 68 4
      eos := le b 72 4
      rowUnits := le b 76 2
      minStrips := byteAt b 78
      split := none }
  let inr := fun (v lo hi : Nat) => lo ≤ v && v ≤ hi
  let ok := le b 0 4 == 0x4948584F && le b 4 2 == 1 && le b 6 2 == 256 && h.imageLen % 16384 == 0 && h.modelId != 0 &&
    le b 32 4 == 256 && inr h.tensorCount 1 65535 && h.shardOff == 256 + 32 * h.tensorCount &&
    inr h.shardCount 1 262144 && h.sigOff == h.shardOff + 64 * h.shardCount && h.sigOff + 160 ≤ h.dataOff &&
    h.dataOff % 16384 == 0 && inr h.layers 1 1024 && inr h.hidden 1 16384 && inr h.vocab 1 262144 &&
    inr h.contextMax 1 131072 && h.eos < h.vocab && inr h.rowUnits 1 96 && inr h.minStrips 1 64 &&
    byteAt b 79 == 0 && allZero b 84 172
  if ok then some h else none

/-- The 2 MiB units of a model (R142). -/
def unitsOf (h : ImgHdr) : Nat := ceilDiv h.residentLen 0x200000

/-- Bytes before the shards: header, tables and signature block. -/
def tablesLen (h : ImgHdr) : Nat := h.sigOff + 160

/-! ### The tables (R276, R277) -/

def readTensor (b : List Byte) (i : Nat) : Tensor :=
  let e := slice b (256 + 32 * i) 32
  { layer := le e 2 2, kind := byteAt e 4, format := byteAt e 5, group := byteAt e 6, gathered := bitAt (byteAt e 7) 0,
    rows := le e 8 4, cols := le e 12 4, first := le e 16 4, shards := le e 20 2, off := le e 24 8 }

def readShard (h : ImgHdr) (b : List Byte) (i : Nat) : Shard :=
  let e := slice b (h.shardOff + 64 * i) 64
  { tensor := le e 0 2, layer := le e 2 2, length := le e 4 4, offset := le e 8 8, crc := le e 16 4,
    packets := le e 20 4, sha := slice e 32 32 }

def tensorsOf (h : ImgHdr) (b : List Byte) : List Tensor := (List.range h.tensorCount).map (readTensor b)
def shardsOf (h : ImgHdr) (b : List Byte) : List Shard := (List.range h.shardCount).map (readShard h b)

/-- The shards of a tensor. -/
def ownShards (t : Tensor) (ss : List Shard) : List Shard := (ss.drop t.first).take t.shards

/-- The rules of one tensor entry. -/
def tensorOk (h : ImgHdr) (b : List Byte) (ss : List Shard) (i : Nat) (t : Tensor) : Bool :=
  let e := slice b (256 + 32 * i) 32
  let quant := 1 ≤ t.format && t.format ≤ 4
  let own := ownShards t ss
  let total := (own.map (·.length)).sum
  le e 0 2 == i && (t.layer < h.layers || t.layer == 0xFFFF) && 1 ≤ t.kind && t.kind ≤ 7 &&
  1 ≤ t.format && t.format ≤ 7 &&
  (if t.kind ≤ 3 then t.format ≤ 6 else if t.kind ≤ 5 then t.format == 5 else t.format == 7 && t.layer == 0xFFFF) &&
  (t.group == 0 || (quant && (t.group == 32 || t.group == 64 || t.group == 128))) &&
  byteAt e 7 < 2 && (!t.gathered || t.kind == 3) && 1 ≤ t.rows && 1 ≤ t.cols && (t.format != 7 || t.cols == 1) &&
  1 ≤ t.shards && own.length == t.shards && (own.all fun x => x.tensor == i && x.layer == t.layer) &&
  allZero e 22 2 && (t.format != 7 || total == t.rows) && (t.format != 5 || total == 2 * t.rows * t.cols) &&
  (own.all fun x => if quant then x.length == 4096 * x.packets else x.packets == 0) &&
  t.off + total ≤ h.residentLen

/-- Shards in ascending order inside the image, each of 1 byte to 16 MiB, reserved bytes 0. -/
def shardsOk (h : ImgHdr) (b : List Byte) : Nat → List Shard → Bool
  | _, [] => true
  | i, x :: rest =>
    1 ≤ x.length && x.length ≤ 16777216 && x.offset % 16384 == 0 && h.dataOff ≤ x.offset &&
    x.offset + x.length ≤ h.imageLen && allZero b (h.shardOff + 64 * i + 24) 8 &&
    (match rest with | [] => true | n :: _ => x.offset + x.length ≤ n.offset) && shardsOk h b (i + 1) rest

/-- The resident spaces of two tensors do not overlap. -/
def disjointTensors (ts : List (Nat × Nat)) : Bool :=
  let ord := sortBy (fun a b => a.1 ≤ b.1) ts
  (ord.zip ord.tail).all fun p => p.1.1 + p.1.2 ≤ p.2.1

/-- Step 5 of R280, but for the split record, which stands in a shard. -/
def tablesOk (h : ImgHdr) (b : List Byte) : Bool :=
  let ts := tensorsOf h b
  let ss := shardsOf h b
  let once := fun (k : Nat) => (ts.filter (·.kind == k)).length == 1
  ((List.range ts.length).zip ts).all (fun p => tensorOk h b ss p.1 p.2) && shardsOk h b 0 ss &&
  (ts.map (·.shards)).sum == ss.length && once 2 && once 3 && once 7 &&
  disjointTensors (ts.map fun t => (t.off, ((ownShards t ss).map (·.length)).sum))

/-- Step 6 of R280: header, tables and signature block (R278). -/
def imageSigOk (f : Fuses) (h : ImgHdr) (b : List Byte) : Bool := sigOk f (b.take (tablesLen h))

/-! ### The split record (R436) -/

/-- The split record of a layer plan; `none` when it breaks a rule. -/
def parseSplit (dev : Option Nat) (h : ImgHdr) (ts : List Tensor) (b : List Byte) : Option Split :=
  let sp : Split :=
    { stages := byteAt b 4, stage := byteAt b 5, first := le b 8 2, last := le b 10 2
      devices := (List.range 16).map fun i => byteAt b (16 + i)
      id := le b 32 8 }
  let used := sp.devices.take sp.stages
  let ok := le b 0 4 == 0x5053584F && 1 ≤ sp.stages && sp.stages ≤ 16 && sp.stage < sp.stages && allZero b 6 2 &&
    (sp.stage != 0 || sp.first == 0) && sp.first ≤ sp.last &&
    (sp.stage + 1 != sp.stages || sp.last + 1 == h.layers) && allZero b 12 4 && decide used.Nodup &&
    (sp.devices.drop sp.stages).all (· == 0) && sp.devices.getD sp.stage 0 == dev.getD 0 &&
    (sp.stages == 1 || dev.isSome) && (sp.stages != 1 || sp.id == 0) && allZero b 40 24 &&
    ts.all fun t => t.layer == 0xFFFF || (sp.first ≤ t.layer && t.layer ≤ sp.last)
  if ok then some sp else none

/-! ### Shards -/

/-- The checks of a shard's bytes: its length and CRC, and SHA-256 for a host source (R270, R280 step 7). -/
def shardOk (x : Shard) (host : Bool) (bs : List Byte) : Bool :=
  bs.length == x.length && crc32c bs == x.crc && (!host || sha256 bs == x.sha)

/-- The resident offset of a shard: its tensor's, and the lengths of the tensor's shards before it (R277). -/
def shardPlace (ts : List Tensor) (ss : List Shard) (i : Nat) : Nat :=
  match ss[i]? with
  | none => 0
  | some x => match ts[x.tensor]? with
    | none => 0
    | some t => t.off + (((ss.drop t.first).take (i - t.first)).map (·.length)).sum

/-- The device address of a resident byte, from the extents of a model in order (R140). -/
def residentAddr : List (Nat × Nat) → Nat → Nat
  | [], o => granuleAddr (o / granule) + o % granule
  | (a, n) :: rest, o => if o < n * granule then granuleAddr a + o else residentAddr rest (o - n * granule)

/-- Store bytes in resident space, granule by granule. `k` bounds the granules. -/
def storeResident (units : List (Nat × Nat)) : Nat → Nat → List Byte → State → State
  | 0, _, _, s => s
  | k + 1, o, bs, s =>
    if bs.isEmpty then s
    else
      let n := granule - o % granule
      storeResident units k (o + n) (bs.drop n) (storeMem (residentAddr units o) (bs.take n) s)

def putShard (units : List (Nat × Nat)) (o : Nat) (bs : List Byte) (s : State) : State :=
  storeResident units (bs.length / granule + 2) o bs s

/-- Bytes of resident space, as stored. -/
def residentBytes (s : State) (units : List (Nat × Nat)) (o n : Nat) : List Byte :=
  (List.range n).map fun i => memByte s.mem (residentAddr units (o + i))

/-! ### Blocks, slots and pages (R263, R267, R268) -/

/-- Dies per channel (R263). -/
def diesOf (s : State) : Nat := if s.fuses.flash == 2 then 2 else 1
def blockCount (s : State) : Nat := 5440 * diesOf s

def blockOfNand (s : State) (b : Nat) : NandBlock :=
  (s.nand.blocks.find? (·.num == b)).getD
    { num := b, retired := false, pe := 0, reads := 0, mark := 0, offset := 0, flagged := [] }

def setBlock (b : Nat) (f : NandBlock → NandBlock) (s : State) : State :=
  { s with nand := { s.nand with blocks := f (blockOfNand s b) :: s.nand.blocks.filter (·.num != b) } }

def slotCfg (s : State) (n : Fin 32) : Option SlotCfg := s.score.bind fun c => c.slots.find? (·.slot == n.val)

/-- The block in the place of a block of an extent (R272). -/
def actualBlock (s : State) (b : Nat) : Nat := ((s.nand.remap.find? (·.1 == b)).map (·.2)).getD b

/-- The good blocks of a slot, in order (R267). -/
def goodBlocks (s : State) (n : Fin 32) : List Nat :=
  match slotCfg s n with
  | none => []
  | some c => ((List.range c.count).map fun i => actualBlock s (c.first + i)).filter fun b =>
      !(blockOfNand s b).retired

/-- The block and page of image page k. -/
def pagePlace (s : State) (n : Fin 32) (k : Nat) : Option (Nat × Nat) :=
  let g := goodBlocks s n
  if g.length = 0 then none else (g[k % g.length]?).map fun b => (b, k / g.length)

def setSlot (n : Fin 32) (st len id : Nat) (s : State) : State :=
  { s with nand := { s.nand with slots := s.nand.slots.set n { st := st, len := len, id := id } } }

/-- The 16,384 data bytes of a page; an erased page reads all ones. -/
def nandPage (s : State) (b p : Nat) : List Byte :=
  let d := ((s.nand.pages.find? (·.1 == 768 * b + p)).map (·.2)).getD []
  d ++ List.replicate (16384 - d.length) 0xFF

/-- FLC_SLOT.STATE: UNDEFINED where the FLASH section has no such slot. -/
def slotState (s : State) (n : Fin 32) : Nat :=
  if (slotCfg s n).isNone then 0 else if s.nand.slots[n].st = 0 then 1 else s.nand.slots[n].st

/-- Bytes of a slot's image as stored. -/
def slotBytes (s : State) (n : Fin 32) (off len : Nat) : List Byte :=
  let first := off / 16384
  let pages := (List.range (ceilDiv (off % 16384 + len) 16384)).flatMap fun i =>
    match pagePlace s n (first + i) with
    | some (b, p) => nandPage s b p
    | none => List.replicate 16384 0xFF
  slice pages (off % 16384) len

end Sys2Proof.Machine
end

