-- ==== Sys2Proof/Machine/Kernel.lean ====
section
/-! DEFINITION. KERNEL sets: the voices that can be given, preemption and restore (R192, R193, R337 to R339), held
voices (R345) and the VCE windows (R346). -/

namespace Sys2Proof.Machine

/-! ### The order of service (R210) -/

def guaranteeUnmet (s : State) (c : Cmd) : Bool :=
  (charge s c.part < 64 * s.brg.partMin[c.part] && !s.brg.starved.getLsbD c.part.val) ||
  (c.op == 0x38 && used s c.part 5 < (carve s c.part 5).2)

def serviceKey (s : State) (c : Cmd) : List Nat := [classOf s c.part, if guaranteeUnmet s c then 0 else 1, c.readAt, c.id]

/-! ### Voices that can be given (R192, R345, R448) -/

/-- A voice is free for work: nobody holds it, its island and its section's are not in FAULT, and early service does
not hold it (R108). -/
def voiceFree (s : State) (n : Voice) : Bool :=
  (voiceOf s n).run == .free && (islOf s (voiceIsland n)).st != .fault &&
  (islOf s (Fin.ofNat 32 (17 + n.val / 4))).st != .fault && !(earlyHolds s && 12 ≤ n.val)

/-- Free for unmirrored work: not of a pair that is out of service. -/
def soloFree (s : State) (n : Voice) : Bool := voiceFree s n && !pairOut (pairAt s (pairOf n))

/-- A pair is available (R448). -/
def pairFree (s : State) (k : Pair) : Bool :=
  voiceFree s (Fin.ofNat 16 (2 * k.val)) && voiceFree s (Fin.ofNat 16 (2 * k.val + 1)) && !pairOut (pairAt s k) &&
  (islOf s 31).st != .fault

def allVoices : List Voice := (List.range 16).map (Fin.ofNat 16)
def allPairs : List Pair := (List.range 8).map (Fin.ofNat 8)

/-- A model has a row waiting or running: a work command is past its admission (R192). -/
def rowsWanted (s : State) : Bool :=
  s.cmds.any fun c => isWork c.op && (c.phase == .ready || c.phase == .running)

/-- The voices in KERNEL sets. -/
def inSets (s : State) : Nat := (s.sets.flatMap fun k => if k.saved.isEmpty then physical k else []).length

/-- Voices in service, from which the four for passes are drawn (R192, R345). -/
def inService (s : State) : Nat :=
  (allVoices.filter fun n => (voiceOf s n).run != .held && (islOf s (voiceIsland n)).st != .fault &&
    !pairOut (pairAt s (pairOf n))).length

/-- The set that could be given now, in set order: the lowest-numbered voices, or the leading voices of the
lowest-numbered pairs. `gone` counts voices that a preemption frees. -/
def choose (s : State) (voices : Nat) (mirror : Bool) : Option (List Voice) :=
  let phys := if mirror then 2 * voices else voices
  if rowsWanted s && inService s < inSets s + phys + 4 then none
  else
    let l := if mirror then (allPairs.filter (pairFree s)).map fun k => (Fin.ofNat 16 (2 * k.val) : Voice)
      else allVoices.filter (soloFree s)
    if l.length < voices then none else some (l.take voices)

/-! ### Preemption (R337, R338) -/

def saveSlots (s : State) : Nat := (s.sets.map fun k => k.saved.length + if k.stopping then k.voices.length else 0).sum

/-- A set may be stopped for a KERNEL of class `cls` (R337). -/
def stoppable (s : State) (cls : Nat) (k : KSet) : Bool :=
  cls < ((partCfg s k.part).map (·.cls)).getD 3 && !k.mirror && k.saved.isEmpty && !k.stopping &&
  k.resumedAt + 1000000 ≤ s.clk

/-- Sub-lists of `m` elements, in order. -/
def combos {α : Type} : Nat → List α → List (List α)
  | 0, _ => [[]]
  | _ + 1, [] => []
  | m + 1, a :: l => ((combos m l).map (a :: ·)) ++ combos (m + 1) l

/-- The state with the voices of some sets free. -/
def withFreed (ks : List KSet) (s : State) : State :=
  (ks.flatMap physical).foldl (fun s v => setVoice v (fun x => { x with run := .free }) s)
    { s with sets := s.sets.filter fun k => !(ks.any fun j => j.cmd == k.cmd) }

/-- The sets to stop: the fewest that cover the need, highest class number first, most recently started first. -/
def victims (s : State) (cls voices : Nat) (mirror : Bool) : Option (List KSet) :=
  let key := fun (k : KSet) => [3 - ((partCfg s k.part).map (·.cls)).getD 3, s.clk - k.startedAt]
  let cands := sortBy (fun a b => !keyLt (key b) (key a)) (s.sets.filter (stoppable s cls))
  let okSet := fun (ks : List KSet) =>
    saveSlots s + (ks.map (·.voices.length)).sum ≤ 16 && (choose (withFreed ks s) voices mirror).isSome
  ((List.range (cands.length + 1)).flatMap fun m => if m = 0 then [] else combos m cands).find? okSet

/-- The stop of a set is ordered: its voices issue no more, and abandon their waits (R338, R391). -/
def stopSet (k : KSet) (s : State) : State :=
  let s := { s with sets := s.sets.map fun j => if j.cmd = k.cmd then { j with stopping := true } else j }
  k.voices.foldl (fun s v => setVoice v (fun x => { endArrayWait s x with wait := .none }) s) s

/-- PREEMPT_SAVE_COMPLETE: the records are written, VCE_PREEMPT counts, and the voices are free (R338). -/
def preemptSaved (id : Nat) (s : State) : State :=
  match setOf s id with
  | none => s
  | some k =>
    if !k.stopping then s
    else
      let recs := k.voices.map fun v => voiceOf s v
      let s := k.voices.foldl (fun s v =>
        freeVoice false v (setVoice v (fun x => { x with preempt := satAdd 0xFFFFFFFF x.preempt 1 }) s)) s
      { s with sets := s.sets.map fun j =>
          if j.cmd = id then { j with stopping := false, saved := recs, voices := [] } else j }

def execPreemptSaveComplete (id : Nat) (s : State) : Host.Outcome State Fault Refusal := live s (preemptSaved id)

/-! ### Starting and restoring a set (R192, R193, R339) -/

def Cmd.kVoices (c : Cmd) : Nat := byteAt c.entry 16
def Cmd.kMirror (c : Cmd) : Bool := bitAt (byteAt c.entry 17) 0
def Cmd.kEntry (c : Cmd) : Nat := le c.entry 20 4
def Cmd.kCode (c : Cmd) : Nat := le c.entry 24 8
def Cmd.kLen (c : Cmd) : Nat := le c.entry 32 4
def Cmd.kArg (c : Cmd) : Nat := le c.entry 40 8
def Cmd.kTimeout (c : Cmd) : Nat := le c.entry 48 4

/-- The code words, once they have been read from the host window or the user part. -/
def kernelCode (c : Cmd) : Option (List Word) :=
  if c.input.length = c.kLen then some ((List.range (c.kLen / 4)).map fun i => w32 (le c.input (4 * i) 4)) else none

/-- Voices are put to unmirrored or mirrored work: pairs are formed, or dissolved where they stand formed. -/
def joinPairs (mirror : Bool) (probes : List FormProbe) (vs : List Voice) (s : State) : State :=
  vs.foldl (fun s v => if mirror then formPair (pairOf v) probes s else dissolvePair (pairOf v) s) s

/-- A voice at the start of a set (R193); its counters, HOLD and halt record stay. -/
def startVoice (v : VoiceSt) (run : VoiceRun) (code : List Word) (pc : Nat) (regs : List (Nat × Nat)) : VoiceSt :=
  { v with
    s := Vector.ofFn fun (i : Fin 16) => w32 (((regs.find? fun r => r.1 = i.val).map (·.2)).getD 0)
    p := 0
    pc := pc
    v := false
    z := false
    sat := false
    tiles := Vector.replicate 16 Tile.empty
    accs := Vector.replicate 4 Accum.empty
    sc := []
    code := code
    latchA := none
    latchB := none
    run := run
    wait := .none
    arrayFrom := none
    stopped := false }

/-- A KERNEL of a lower class number waits for voices (R339). -/
def lowerWaits (s : State) (cls : Nat) : Bool :=
  s.cmds.any fun c => c.op == 0x38 && (c.phase == .running || c.phase == .ready) && (setOf s c.id).isNone &&
    ((partCfg s c.part).map (·.cls)).getD 3 < cls

/-- A KERNEL waits for voices and could be given them now: its first start, or its restore (R192, R339). -/
def couldHave (s : State) (c : Cmd) : Bool :=
  c.op == 0x38 && c.phase == .running &&
  (match setOf s c.id with
    | none => (kernelCode c).isSome && (choose s c.kVoices c.kMirror).isSome
    | some k => !k.saved.isEmpty && !lowerWaits s (((partCfg s k.part).map (·.cls)).getD 3) &&
        (choose s k.saved.length false).isSome)

/-- Of the KERNELs that could be given voices, the first in the order of service is given them (R192, R210). -/
def firstForVoices (s : State) (id : Nat) : Bool :=
  ((firstBy (serviceKey s) (s.cmds.filter (couldHave s))).map (·.id)) == some id

/-- KERNEL_SET_START: at a pass boundary the KERNEL is given the lowest-numbered free voices (R192, R448). Where the formation
probe of a pair fails, the pair is out of service and the KERNEL waits on. -/
def setStart (id : Nat) (probes : List FormProbe) (s : State) : State :=
  match cmdOf s id with
  | none => s
  | some c =>
    if (setOf s id).isSome ∨ paused s ∨ !firstForVoices s id then s
    else match kernelCode c, choose s c.kVoices c.kMirror with
      | some code, some vs =>
        let s := joinPairs c.kMirror probes vs s
        if vs.any fun v => pairOut (pairAt s (pairOf v)) then s else
        let regs := fun (i : Nat) => [(1, i), (2, vs.length), (3, c.kArg % 2 ^ 32), (4, bits c.kArg 39 32)]
        let s := (List.range vs.length).foldl (fun s i =>
          let v := vs.getD i 0
          let f := fun (x : VoiceSt) => startVoice x (.set id i) code c.kEntry (regs i)
          let s := setVoice v f s
          if c.kMirror then setVoice (trailer v) f s else s) s
        endWait id { s with sets := s.sets ++ [{
          cmd := id
          part := c.part
          mirror := c.kMirror
          voices := vs
          startedAt := s.clk
          resumedAt := s.clk
          given := vs
          stopping := false
          saved := [] }] }
      | _, _ => s

def execKernelSetStart (id : Nat) (probes : List FormProbe) (s : State) : Host.Outcome State Fault Refusal :=
  live s (standingChange (setStart id probes))

/-- KERNEL_RESTORE: the saved state comes back on the lowest-numbered free voices, latches empty (R339). -/
def restore (id : Nat) (s : State) : State :=
  match setOf s id with
  | none => s
  | some k =>
    if k.saved.isEmpty || !firstForVoices s id then s
    else match choose s k.saved.length false with
      | none => s
      | some vs =>
        let s := joinPairs false [] vs s
        let s := (List.range vs.length).foldl (fun s i =>
          setVoice (vs.getD i 0) (fun x =>
            let r := k.saved.getD i VoiceSt.reset
            { r with
              latchA := none
              latchB := none
              wait := .none
              hold := x.hold
              cause := x.cause
              element := x.element
              elValid := x.elValid
              tile := x.tile
              detail := x.detail
              overrun := x.overrun
              valid := x.valid
              haltPc := x.haltPc
              haltWord := x.haltWord
              haltAddr := x.haltAddr
              reuseA := x.reuseA
              reuseB := x.reuseB
              tmma := x.tmma
              arrayWait := x.arrayWait
              preempt := x.preempt
              dbgItem := x.dbgItem
              dbgHalf := x.dbgHalf }) s) s
        { s with sets := s.sets.map fun j =>
            if j.cmd = id then { j with saved := [], voices := vs, given := vs, resumedAt := s.clk } else j }

def execKernelRestore (id : Nat) (s : State) : Host.Outcome State Fault Refusal := live s (standingChange (restore id))

/-- KERNEL_TIMEOUT: TIMEOUT µs from the start of the set (R193, R339). -/
def kernelTimeout (id : Nat) (s : State) : State :=
  match setOf s id, cmdOf s id with
  | some k, some c =>
    if s.clk < k.startedAt + 1000 * c.kTimeout then s else endSet k 0x02 4 0xFF true [] s
  | _, _ => s

def execKernelTimeout (id : Nat) (s : State) : Host.Outcome State Fault Refusal := live s (kernelTimeout id)

/-! ### The VCE windows (R346) -/

def vceBase (n : Voice) : Nat := 0x20000 + 0x1000 * n.val

/-- VCE_CTRL.HOLD: writing 0 returns a held voice to service (R345). -/
def writeVceCtrl (n : Voice) (v : Word) (s : State) : State :=
  let h := v.getLsbD 0
  setVoice n (fun x => { x with hold := h, run := if !h && x.run == .held then .free else x.run }) s

def execVceCtrlWrite (n : Voice) (v : Word) (s : State) : Host.Outcome State Fault Refusal :=
  live s (regWrite (vceBase n + 0x004) (writeVceCtrl n v))

def vceState (s : State) (n : Voice) : Nat :=
  match (islOf s (voiceIsland n)).st with
  | .fault => 5
  | _ => match (voiceOf s n).run with
    | .held => 3
    | .pass _ => 1
    | .set _ _ => 2
    | .free => if islRuns s (voiceIsland n) then 0 else 4

/-- The grant held: 0 none, 1 idle, 2 scalar, 3 array. A trailing voice shows its pair's. -/
def vceLevel (s : State) (n : Voice) : Nat :=
  let m := if pairOn s n then (Fin.ofNat 16 (n.val / 2 * 2) : Voice) else n
  if holdsGrant s (.voice m .array) then 3 else if holdsGrant s (.voice m .scalar) then 2
  else if holdsGrant s (.voice m .idle) then 1 else 0

def vceStatus (s : State) (n : Voice) : Word :=
  let (idx, part) := match (voiceOf s n).run with
    | .set c i => (i, ((setOf s c).map (·.part.val)).getD 0)
    | _ => (0, 0)
  w32 (vceState s n + 0x10 * vceLevel s n + 0x100 * b2n (s.isl.pair.getLsbD (n.val / 2)) + 0x10000 * idx
    + 0x1000000 * part)

/-- A tile descriptor as VCE_DBG_DATA shows it. -/
def descriptorWord (t : Tile) : Nat :=
  if t.live then t.rows + 0x100 * t.cols + 0x100000 * t.fmt + 0x80000000 else 0

/-- Word i of the item that VCE_DBG_SEL names. -/
def dbgWord (v : VoiceSt) (i : Nat) : Nat :=
  if v.dbgItem = 0 then
    if i = 0 then v.pc else if i < 16 then v.s[Fin.ofNat 16 i].toNat
    else if i = 16 then v.p.toNat else if i = 17 then 4 * b2n v.v + 2 * b2n v.z + b2n v.sat else 0
  else if v.dbgItem ≤ 16 then le (v.tiles[Fin.ofNat 16 (v.dbgItem - 1)].data ++ [0, 0, 0]) (4 * i) 4
  else if v.dbgItem ≤ 20 then
    (v.accs[Fin.ofNat 4 (v.dbgItem - 17)].data.getD (i + if v.dbgHalf then 512 else 0) 0).toNat
  else if v.dbgItem = 21 then (if i < 16 then descriptorWord v.tiles[Fin.ofNat 16 i] else 0)
  else if v.dbgItem = 22 then (v.sc.getD (2 * i) 0).toNat + 0x10000 * (v.sc.getD (2 * i + 1) 0).toNat
  else 0

def vceRead (n : Voice) (off : Nat) (s : State) : Option Word :=
  let v := voiceOf s n
  let x := s.sections[Fin.ofNat 4 (n.val / 4)]
  let o := off - vceBase n
  if o % 4 ≠ 0 then none
  else match o with
    | 0x000 => some (vceStatus s n)
    | 0x004 => some (w32 (b2n v.hold))
    | 0x008 => some (w32 (v.cause + 0x100 * v.element + 0x1000 * b2n v.elValid + 0x10000 * v.tile
        + 0x1000000 * v.detail + 0x40000000 * b2n v.overrun + 0x80000000 * b2n v.valid))
    | 0x00C => some (w32 v.haltPc)
    | 0x010 => some v.haltWord
    | 0x014 => some (lo32 v.haltAddr)
    | 0x018 => some (hi32 v.haltAddr)
    | 0x01C => some (w32 (4 * b2n v.v + 2 * b2n v.z + b2n v.sat))
    | 0x020 => some (w32 ((maskOf 16 fun i => v.tiles[Fin.ofNat 16 i].live)
        + 0x10000 * maskOf 4 fun i => v.accs[Fin.ofNat 4 i].kind != .empty))
    | 0x040 => some (w32 v.reuseA)
    | 0x044 => some (w32 v.reuseB)
    | 0x048 => some (w32 v.tmma)
    | 0x04C => some (w32 (satAdd 0xFFFFFFFF v.arrayWait (arrayClocks s v)))
    | 0x050 => some (w32 v.preempt)
    | 0x060 => some x.ce
    | 0x064 => some x.ue
    | 0x068 => some x.conflict
    | 0x06C => some (w32 x.ueAddr)
    | 0x100 => some (w32 (v.dbgItem + 0x100 * b2n v.dbgHalf))
    | _ => if 0x800 ≤ o then some (if vceState s n = 3 then w32 (dbgWord v ((o - 0x800) / 4)) else 0) else none

def vceReadEff (n : Voice) (off : Nat) (s : State) : State :=
  match off - vceBase n with
  | 0x040 => setVoice n (fun v => { v with reuseA := 0 }) s
  | 0x044 => setVoice n (fun v => { v with reuseB := 0 }) s
  | 0x048 => setVoice n (fun v => { v with tmma := 0 }) s
  | 0x04C => setVoice n (fun v => { v with arrayWait := 0, arrayFrom := v.arrayFrom.map fun _ => s.clk }) s
  | 0x050 => setVoice n (fun v => { v with preempt := 0 }) s
  | _ => s

def vceWrite (n : Voice) (off : Nat) (v : Word) (s : State) : Option State :=
  match off - vceBase n with
  | 0x004 => some (writeVceCtrl n v s)
  | 0x008 => some (setVoice n (fun x => { x with
      overrun := x.overrun && !v.getLsbD 30
      valid := x.valid && !v.getLsbD 31 }) s)
  | 0x100 =>
    let i := bits v.toNat 4 0
    if 22 < i then some (regRefused off v 1 s)
    else some (setVoice n (fun x => { x with dbgItem := i, dbgHalf := v.getLsbD 8 }) s)
  | _ => (vceRead n off s).map fun _ => s

end Sys2Proof.Machine
end

