-- ==== Sys2Proof/Machine/Check.lean ====
section
/-! DEFINITION. The check of a fetched entry (R158, R165 to R169, R146, R147) and of the bodies of the commands
(07): step 2, reserved bits; step 3, handle and context; step 4, the body. -/

namespace Sys2Proof.Machine

/-! ### The fields of an entry -/

/-- Fields of an entry: first byte, length and the bits that may be set. -/
abbrev Fields := List (Nat × Nat × Nat)

def full (n : Nat) : Nat := 2 ^ (8 * n) - 1
def addrBits : Nat := 2 ^ 40 - 1

def headFields : Fields :=
  [(0, 1, 0xFF), (1, 1, 0x01), (2, 2, full 2), (4, 2, full 2), (6, 1, 0xFF), (8, 2, full 2), (10, 6, 0)]

/-- The body fields of each opcode (07); a field that another makes reserved may hold only 0. The address of a buffer whose
length of 0 means no access is not checked (R166). -/
def bodyFields (c : Cmd) : Fields :=
  let when_ := fun (b : Bool) (m : Nat) => if b then m else 0
  let addr := fun (used : Bool) => if used then addrBits else full 8
  let inBuf : Fields := [(16, 8, addr (c.field 24 4 != 0)), (24, 4, full 4)]
  let outBuf : Fields := [(28, 8, addr (c.field 36 4 != 0)), (36, 4, full 4)]
  match c.op with
  | 0x02 | 0x12 => [(16, 1, 1)]
  | 0x10 | 0x11 =>
    let host := c.byte 16 != 1
    [(16, 1, 0xFF), (17, 1, 0xFF), (18, 1, if c.op = 0x10 then 3 else 2), (24, 8, when_ host addrBits),
      (32, 4, when_ host (full 4)), (40, 8, full 8)]
  | 0x13 => [(16, 1, 0xFF)]
  | 0x20 => inBuf
  | 0x21 =>
    let smp := c.byte 44 != 0
    inBuf ++ outBuf ++ [(40, 2, full 2), (42, 2, full 2), (44, 1, 0xFF), (45, 1, 0xFF),
      (46, 1, when_ (c.byte 45 != 0) 0xFF), (47, 1, 0x0F), (48, 2, when_ smp (full 2)), (50, 2, when_ smp (full 2)),
      (52, 4, when_ smp (2 ^ 18 - 1)), (56, 8, full 8)]
  | 0x22 => inBuf ++ outBuf ++ [(40, 1, 1)]
  | 0x23 => inBuf ++ outBuf ++ [(40, 1, 0xFF), (41, 1, 0xFF), (42, 2, full 2), (44, 1, 1)]
  | 0x28 | 0x29 => [(16, 1, 1), (24, 8, addr (c.field 32 4 != 0)), (32, 4, full 4)]
  | 0x30 =>
    let load := c.byte 16 != 3
    [(16, 1, 0xFF), (17, 1, 0xFF), (24, 8, when_ load addrBits), (32, 4, when_ load (full 4)),
      (36, 4, when_ load (full 4))]
  | 0x31 =>
    let bind := c.byte 16 != 2
    [(16, 1, 0xFF), (17, 1, when_ bind 0xFF), (20, 4, when_ bind (full 4))]
  | 0x38 =>
    [(16, 1, 0xFF), (17, 1, 1), (20, 4, full 4), (24, 8, addrBits), (32, 4, full 4), (40, 8, full 8), (48, 4, full 4)]
  | 0x40 => [(16, 1, 0xFF), (18, 2, when_ (c.byte 16 != 0) (full 2))]
  | 0x48 => [(17, 1, 0xFF), (24, 8, addrBits), (32, 4, full 4)]
  | 0x49 => [(17, 1, 0xFF)]
  | 0x4A => [(24, 8, addrBits), (32, 4, full 4)]
  | 0x50 => [(16, 1, 0xFF), (17, 1, when_ (c.byte 16 == 3) 0xFF), (18, 2, full 2)]
  | _ => []

def opcodes : List Nat :=
  [0x01, 0x02, 0x10, 0x11, 0x12, 0x13, 0x14, 0x20, 0x21, 0x22, 0x23, 0x28, 0x29, 0x2A, 0x30, 0x31, 0x38, 0x40, 0x48,
    0x49, 0x4A, 0x50]

/-- The first field, or unnamed byte, with a bit set that must be 0. -/
def firstReserved (fs : Fields) (e : List Byte) : Option Nat :=
  (List.range 64).find? fun i =>
    match fs.find? fun f => f.1 ≤ i && i < f.1 + f.2.1 with
    | some f => f.1 == i && (le e i f.2.1) &&& f.2.2 != le e i f.2.1
    | none => byteAt e i != 0

/-- Opcodes that name a model, and those whose CONTEXT must be 0 (R146, R157). -/
def namesModel (op : Nat) : Bool := (0x10 ≤ op && op ≤ 0x14) || isWork op
def zeroContext (op : Nat) : Bool :=
  [0x01, 0x02, 0x10, 0x11, 0x12, 0x13, 0x14, 0x30, 0x38, 0x48, 0x49, 0x4A, 0x50].contains op

/-- Status and DETAIL of a failure. -/
abbrev Bad := Nat × Nat

def badField (i : Nat) : Bad := (0x31, i)
def badContext : Bad := (0x32, 0)
def badModel (h reason : Nat) : Bad := (0x33, h + 0x100 * reason)

/-- Step 2 of R158. -/
def reservedCheck (c : Cmd) : Option Bad :=
  let ctxBad := zeroContext c.op && c.ctx != 0
  let modelBad := if namesModel c.op then 64 ≤ c.model else c.model != 0
  let found := (firstReserved (headFields ++ bodyFields c) c.entry).toList ++ (if ctxBad then [4] else []) ++
    (if modelBad then [6] else [])
  (found.foldl (fun m i => match m with
    | none => some i
    | some j => some (min i j)) none).map badField

/-! ### Step 3 (R147, R158, R176, R178) -/

/-- The command was fetched before the eviction of a handle was admitted (R176). -/
def beforeEvict (s : State) (c : Cmd) (h : Handle) : Bool :=
  s.cmds.any fun d => d.op == 0x12 && d.handle == h && c.id < d.mark

/-- A handle named: empty, evicting or still loading (R158, R176). -/
def handleCheck (s : State) (c : Cmd) : Option Bad :=
  if c.early || !namesModel c.op || c.op == 0x10 then none
  else match s.models[c.handle].st with
    | .empty => some (badModel c.model 1)
    | .evicting => if c.op = 0x14 || beforeEvict s c c.handle then none else some (badModel c.model 3)
    | .loading => if isWork c.op then some (badModel c.model 5) else none
    | _ => none

/-- A context whose model is split (R439). -/
def splitCtx (s : State) (x : Ctx) : Bool :=
  match x.model with
  | some (.handle h) => ((s.models[h].hdr.split).map (fun sp => decide (1 < sp.stages))).getD false
  | _ => false

/-- The context rules of R147, R394, R417, R419 and R439. -/
def contextCheck (s : State) (c : Cmd) : Option Bad :=
  let x := ctxOf s c.part c.ctx
  if isWork c.op then
    if c.ctx = 0 then none
    else match x with
      | none => none
      | some x =>
        if x.st == .out || (x.model.isSome && x.model != some c.ref) then some badContext else none
  else if c.op = 0x28 then
    if c.ctx = 0 then none
    else match x with
      | none => some badContext
      | some x =>
        let lb := ((x.model.bind (hdrOf s)).map layerBytes).getD 0
        if splitCtx s x || (x.st == .live && lb % 64 != 0) then some badContext else none
  else if c.op = 0x29 then
    let want : CtxSt := if bitAt (c.byte 16) 0 then .out else .hushed
    match x with
    | none => some badContext
    | some x => if c.ctx = 0 || x.st != want || splitCtx s x then some badContext else none
  else none

/-! ### Step 4: bodies -/

def Cmd.inAddr' (c : Cmd) : Nat := c.field 16 8
def Cmd.inCount (c : Cmd) : Nat := c.field 24 4
def Cmd.outAddr (c : Cmd) : Nat := c.field 28 8
def Cmd.outLen (c : Cmd) : Nat := c.field 36 4
def Cmd.maxTokens (c : Cmd) : Nat := if c.isGen then c.field 40 2 else 0
/-- SPEC_K, which counts towards the bound (R179), and the drafts that the command asks for: early service serves without
drafting (R109). -/
def Cmd.specField (c : Cmd) : Nat := if c.isGen then c.byte 45 else 0
def Cmd.flag (c : Cmd) (i : Nat) : Bool := bitAt (c.byte 47) i
def Cmd.prompt (c : Cmd) : Bool := c.flag 0
def Cmd.stopEos (c : Cmd) : Bool := c.flag 1
def Cmd.logprob (c : Cmd) : Bool := c.flag 2
/-- The size of an output entry of a GENERATE (R182). -/
def Cmd.entrySize (c : Cmd) : Nat := if c.logprob then 8 else 4
/-- COMMIT of SCORE_TOKENS and EMBED; the other work commands always commit. -/
def Cmd.commits (c : Cmd) : Bool :=
  if c.op = 0x22 then bitAt (c.byte 40) 0 else if c.op = 0x23 then bitAt (c.byte 44) 0 else true
/-- Input tokens that the command reads. -/
def Cmd.tokensIn (c : Cmd) : Nat := if c.isGen then (if c.prompt && c.maxTokens != 0 then c.inCount else 0) else c.inCount
/-- A work command that runs no pass (R180, R181, R184, R185). -/
def Cmd.noPass (c : Cmd) : Bool := if c.isGen then c.maxTokens == 0 else c.inCount == 0

/-- A buffer of the command at a field: valid, or BAD_FIELD (R167). -/
def bufField (s : State) (c : Cmd) (i a n : Nat) : Option Bad := if bufferOk s c.part a n then none else some (badField i)

def hostField (s : State) (c : Cmd) (i a n : Nat) : Option Bad := if inHostWin s c.part a n then none else some (badField i)

def req (b : Bool) (e : Bad) : Option Bad := if b then none else some e

/-- The first failure of a list of checks. -/
def firstBad (l : List (Option Bad)) : Option Bad := l.findSome? id

/-- The bound of R179. -/
def boundOf (s : State) (c : Cmd) : Nat := positionOf s c + c.inCount + c.maxTokens + c.specField

/-- The bound is within the limits of R179. -/
def boundCheck (s : State) (c : Cmd) : Option Bad :=
  let lim := min 131072 (((hdrOf s c.ref).map (·.contextMax)).getD 131072)
  let i := if c.inCount ≠ 0 then 24 else if c.maxTokens ≠ 0 then 40 else if c.specField ≠ 0 then 45 else 4
  req (boundOf s c ≤ lim) (badField i)

/-- A positive finite BF16 (R412), and TOP_P above 0 and at most 1.0. -/
def posFinite (v : Nat) : Bool := 0 < v && v < 0x7F80

/-- The draft model of a GENERATE (R181, R437), a separate model (R23): the target's own handle is no handle for it (DEDUCED,
log entry 32). -/
def draftCheck (s : State) (c : Cmd) : Option Bad :=
  let m := s.models[c.draft]
  let h := c.byte 46
  if c.specK = 0 then none
  else if 64 ≤ h ∨ h = c.model then some (badField 46)
  else match m.st with
    | .empty => some (badModel h 1)
    | .loading => some (badModel h 5)
    | st =>
      if st = .evicting ∧ !beforeEvict s c c.draft then some (badModel h 3)
      else if ((m.hdr.split).map (fun sp => decide (1 < sp.stages))).getD false then some (badModel h 6)
      else req (some m.hdr.vocab == (hdrOf s c.ref).map (·.vocab)) (badField 46)

/-- A work command on a split handle (R437). -/
def splitCheck (s : State) (c : Cmd) : Option Bad :=
  match splitOf s c.ref with
  | none => none
  | some sp =>
    if sp.stages ≤ 1 then none
    else if sp.stage ≠ 0 then some (badField 6)
    else req (s.ens.joined.getLsbD c.model) (badModel c.model 5)

def inputCheck (s : State) (c : Cmd) : Option Bad :=
  if c.inCount = 0 then none else bufField s c 16 c.inAddr' (4 * c.inCount)

def outCheck (s : State) (c : Cmd) (need : Nat) : Option Bad :=
  if c.outLen = 0 then req (need == 0) (badField 36)
  else firstBad [bufField s c 28 c.outAddr c.outLen, req (need ≤ c.outLen) (badField 36)]

def workCheck (s : State) (c : Cmd) : Option Bad :=
  let hid := ((hdrOf s c.ref).map (·.hidden)).getD 0
  let own := match c.op with
    | 0x21 =>
      [inputCheck s c, if c.prompt then req (c.inCount != 0) (badField 24) else none,
        outCheck s c (c.maxTokens * c.entrySize), req (c.byte 44 ≤ 1) (badField 44), req (c.byte 45 ≤ 8) (badField 45),
        draftCheck s c,
        req (c.maxTokens == 0 || positionOf s c + c.tokensIn != 0) (badField 47),
        req (c.byte 44 == 0 || posFinite (c.field 48 2)) (badField 48),
        req (c.byte 44 == 0 || (0 < c.field 50 2 && c.field 50 2 ≤ 0x3F80)) (badField 50)]
    | 0x22 => [inputCheck s c, outCheck s c (4 * c.inCount)]
    | 0x23 =>
      let bytes := if c.byte 41 = 1 then 4 else 2
      [inputCheck s c, outCheck s c (if c.inCount = 0 then 0 else hid * bytes), req (c.byte 40 ≤ 1) (badField 40),
        req (c.byte 41 ≤ 1) (badField 41),
        req (c.field 42 2 ≤ ((hdrOf s c.ref).map (·.layers)).getD 0) (badField 42)]
    | _ => [inputCheck s c]
  firstBad (splitCheck s c :: own ++ [boundCheck s c])

/-- Where a MODEL_LOAD or MODEL_SWAP may come from (R5, R169, R173). -/
def sourceCheck (s : State) (c : Cmd) : Option Bad :=
  match c.byte 16 with
  | 1 => firstBad [req (flashPart s) (badField 16), req (c.byte 17 < 32) (badField 17)]
  | 2 => firstBad [req (c.field 32 4 != 0) (badField 32), hostField s c 24 (c.field 24 8) (c.field 32 4)]
  | _ => some (badField 16)

/-- A command in flight names the handle, as model or as draft. -/
def Cmd.names (c : Cmd) (h : Handle) : Bool :=
  (namesModel c.op && !c.early && c.handle == h) || (c.specK != 0 && c.draft == h)

def jobOn (s : State) (h : Handle) : Option Job := s.jobs.find? (·.h == h)

/-- The handle that a MODEL_LOAD fills or refills (R174): no session is bound to it and no command fetched before the load
names it (R198). -/
def loadHandleCheck (s : State) (c : Cmd) : Option Bad :=
  let m := s.models[c.handle]
  let busy := badModel c.model 5
  match m.st with
  | .empty => req (jobOn s c.handle).isNone busy
  | .resident | .degraded =>
    if m.owner ≠ c.part then some (badModel c.model 2)
    else
      let bound := s.ctxs.any fun x => x.model == some (.handle c.handle)
      let named := s.cmds.any fun d => decide (d.id < c.id) && d.names c.handle
      req (!bound && !named && (jobOn s c.handle).isNone) busy
  | .evicting => some (badModel c.model 3)
  | _ => if m.owner ≠ c.part then some (badModel c.model 2) else some busy

/-- The handle that a MODEL_SWAP replaces (R298, R437). -/
def swapHandleCheck (s : State) (c : Cmd) : Option Bad :=
  let m := s.models[c.handle]
  if m.owner ≠ c.part then some (badModel c.model 2)
  else if m.st == .loading then some (badModel c.model 5)
  else req (!(((m.hdr.split).map (fun sp => decide (1 < sp.stages))).getD false)) (badModel c.model 6)

def ownerCheck (s : State) (c : Cmd) : Option Bad :=
  req (s.models[c.handle].owner == c.part) (badModel c.model 2)

/-- Some session or the partition default binds the mask handle (R189). -/
def maskBound (s : State) (p : Part) (m : Fin 32) : Bool :=
  (s.ctxs.any fun x => x.part == p && x.mask == some m) || (s.defMask[p].map (·.1)) == some m

def maskLoadCheck (s : State) (c : Cmd) : Option Bad :=
  let kind := c.byte 16
  let m : Fin 32 := Fin.ofNat 32 (c.byte 17)
  firstBad ([req (1 ≤ kind && kind ≤ 3) (badField 16),
    req (c.byte 17 < 32 && !maskBound s c.part m) (badField 17)] ++
    if kind = 3 then []
    else [if c.field 32 4 = 0 then none else bufField s c 24 (c.field 24 8) (c.field 32 4),
      req (c.field 32 4 != 0) (badField 32), req (1 ≤ c.field 36 4 && c.field 36 4 ≤ 262144) (badField 36)])

def maskBindCheck (s : State) (c : Cmd) : Option Bad :=
  let m : Fin 32 := Fin.ofNat 32 (c.byte 17)
  let hdr := ((ctxOf s c.part c.ctx).bind (·.model)).bind (hdrOf s)
  match c.byte 16 with
  | 2 => none
  | 1 => match s.masks[c.part][m] with
    | none => some (badField 17)
    | some k =>
      let fits := match hdr, k with
        | none, _ => true
        | some h, .automaton _ _ _ v e => v == h.vocab && e == h.eos
        | some h, .list _ v => v == h.vocab
      let stOk := match k with
        | .automaton st _ _ _ _ => c.field 20 4 < st.length
        | .list _ _ => c.field 20 4 == 0
      firstBad [req (c.byte 17 < 32 && fits) (badField 17), req stOk (badField 20)]
  | _ => some (badField 16)

def kernelCheck (s : State) (c : Cmd) : Option Bad :=
  firstBad [req (1 ≤ c.kVoices && c.kVoices ≤ (if c.kMirror then 8 else 16)) (badField 16),
    req (c.kEntry < c.kLen / 4) (badField 20), if c.kLen = 0 then none else bufField s c 24 c.kCode c.kLen,
    req (c.kLen != 0 && c.kLen % 4 == 0 && c.kLen ≤ 65536) (badField 32), req (c.kTimeout != 0) (badField 48)]

/-- The image length of a context's hush image (R417). -/
def hushLen (lb layers p : Nat) : Nat :=
  let n := p - 1
  let x := min n 272
  let q := n - x
  let log := (4 * p + 63) / 64 * 64
  (64 + log + layers * (x * lb + q * (9 * lb / 32)) + 63) / 64 * 64

def hushImgLen (s : State) (x : Ctx) : Nat :=
  match x.model.bind (hdrOf s) with
  | some h => hushLen (layerBytes h) h.layers x.pos
  | none => 0

def hushCheck (s : State) (c : Cmd) : Option Bad :=
  if !bitAt (c.byte 16) 0 then none
  else
    let need := ((ctxOf s c.part c.ctx).map fun x => if x.st = .live then hushImgLen s x else
      if x.st = .hushed then x.image.getD 0 else 0).getD 0
    firstBad [req (c.ctx != 0) (badField 16), req (c.field 32 4 != 0) (badField 32),
      hostField s c 24 (c.field 24 8) (c.field 32 4), req (need ≤ c.field 32 4) (badField 32)]

def wakeCheck (s : State) (c : Cmd) : Option Bad :=
  if !bitAt (c.byte 16) 0 then none
  else firstBad [req (c.field 32 4 != 0) (badField 32), hostField s c 24 (c.field 24 8) (c.field 32 4)]

/-- P0's flash and score commands (R169, R195, R196). -/
def flashCheck (s : State) (c : Cmd) : Option Bad :=
  let slot : Fin 32 := Fin.ofNat 32 (c.byte 17)
  let st := slotState s slot
  firstBad ([req (c.part == 0 && flashPart s) (badField 0), req (c.byte 17 < 32 && st != 0) (badField 17)] ++
    if c.op = 0x48 then
      [req (st == 1) (badField 17), if c.field 32 4 = 0 then none else hostField s c 24 (c.field 24 8) (c.field 32 4),
        req (c.field 32 4 != 0) (badField 32)]
    else [req (st != 4 && st != 5) (badField 17)])

/-- Step 4 of R158. -/
def bodyCheck (s : State) (c : Cmd) : Option Bad :=
  match c.op with
  | 0x10 => firstBad [sourceCheck s c, loadHandleCheck s c]
  | 0x11 => firstBad [sourceCheck s c, swapHandleCheck s c]
  | 0x12 => ownerCheck s c
  | 0x13 => firstBad [req (c.byte 16 ≤ 1) (badField 16), ownerCheck s c]
  | 0x20 | 0x21 | 0x22 | 0x23 => workCheck s c
  | 0x28 => hushCheck s c
  | 0x29 => wakeCheck s c
  | 0x30 => maskLoadCheck s c
  | 0x31 => maskBindCheck s c
  | 0x38 => kernelCheck s c
  | 0x40 => req (c.byte 16 ≤ 1) (badField 16)
  | 0x48 | 0x49 => flashCheck s c
  | 0x4A => firstBad [req (c.part == 0) (badField 0), if c.field 32 4 = 0 then some (badField 32)
      else hostField s c 24 (c.field 24 8) (c.field 32 4)]
  | 0x50 => firstBad [req (1 ≤ c.byte 16 && c.byte 16 ≤ 4) (badField 16), req (c.byte 17 < 64) (badField 17)]
  | _ => none

end Sys2Proof.Machine
end

