-- ==== Sys2Proof/Machine/TimeBase.lean ====
section
/-! DEFINITION. The time base (03): TBS_NOW and its cycle, the follower's trim, LOAD, alarms, the lock states, and
the TBS registers (R78). -/

namespace Sys2Proof.Machine

/-- The period of the downbeat in ns (R73). -/
def downbeatNs : Nat := 1024000

/-- What one REFCLK38 cycle adds before trim: 26 ns on 23 cycles and 27 ns on the 24th (R70); on the backup
oscillator 25 ns (R67). -/
def cycleNs (s : State) : Nat := if s.isl.refLost then 25 else if s.tbs.cycle = 23 then 27 else 26

/-- The trim of the cycle: rate trim in ppb, accumulated; whole nanoseconds are applied (R70, R73). -/
def trimStep (s : State) : Int × Int :=
  if s.isl.refLost then (0, 0)
  else
    let a := s.tbs.acc + s.tbs.trim * (cycleNs s : Int)
    (a / 1000000000, a % 1000000000)

/-- TBS_TICK: TBS_NOW and the real time advance by one cycle; counting may cross a multiple of the downbeat
period (R70, R511), requests wait (R45), and a new alarm value is compared from now on (R77). DESIGN CHOICE (log entry 21):
at the end of its 64 bits TBS_NOW wraps. -/
def tick (s : State) : State :=
  let (d, acc) := trimStep s
  let now := (s.tbs.now + cycleNs s + d).toNat % 2 ^ 64
  let crossed := s.tbs.crossed || s.tbs.now / downbeatNs < now / downbeatNs
  let c := if s.tbs.cycle = 23 then 0 else s.tbs.cycle + 1
  let s := paceWaits (s.clk + cycleNs s) s
  noteLedgers { s with
    clk := s.clk + cycleNs s
    tbs := { s.tbs with
      now := now
      acc := acc
      cycle := if s.isl.refLost then s.tbs.cycle else c
      crossed := crossed
      alarms := s.tbs.alarms.map fun a => { a with fresh := false } } }

def execTbsTick (s : State) : Host.Outcome State Fault Refusal := live s tick

/-! ### Alarms (R72, R77) -/

/-- Fire one alarm that has reached its value: FIRED, an occurrence of source 38, and either disarm or advance by
the smallest whole number of periods beyond TBS_NOW (R72). -/
def fireAlarm (a : Fin 2) (s : State) : State :=
  let al := s.tbs.alarms[a]
  if !al.armed || al.fresh || s.tbs.now < al.value then s
  else
    let al' := if al.period = 0 then { al with fired := true, armed := false }
      else { al with fired := true, value := (al.value + ((s.tbs.now - al.value) / al.period + 1) * al.period) % 2 ^ 64 }
    occur 38 { s with tbs := { s.tbs with alarms := s.tbs.alarms.set a al' } }

def execAlarmFire (a : Fin 2) (s : State) : Host.Outcome State Fault Refusal := live s (fireAlarm a)

/-- A _LO write is staged; a _HI write commits both halves (R77). -/
def writeAlarmLo (a : Fin 2) (v : Word) (s : State) : State :=
  { s with tbs := { s.tbs with alarms := s.tbs.alarms.set a { s.tbs.alarms[a] with stagedLo := v } } }
def writeAlarmHi (a : Fin 2) (v : Word) (s : State) : State :=
  let al := s.tbs.alarms[a]
  { s with tbs := { s.tbs with alarms := s.tbs.alarms.set a { al with value := setHi al.stagedLo.toNat v, fresh := true } } }

def execTbsAlarmHiWrite (a : Fin 2) (v : Word) (s : State) : Host.Outcome State Fault Refusal :=
  live s (regWrite (0x2024 + 8 * a.val) (writeAlarmHi a v))

def setAlarm (a : Fin 2) (f : Alarm → Alarm) (s : State) : State :=
  { s with tbs := { s.tbs with alarms := s.tbs.alarms.set a (f s.tbs.alarms[a]) } }

/-- TBS_ALARM_CTRL: ARM bits are set as written, FIRED bits are cleared by a 1. -/
def writeAlarmCtrl (v : Word) (s : State) : State :=
  let f := fun (i : Nat) (al : Alarm) => { al with armed := v.getLsbD i, fired := al.fired && !v.getLsbD (8 + i) }
  setAlarm 0 (f 0) (setAlarm 1 (f 1) s)

/-! ### LOAD (R75, R76) -/

/-- TBS_CTRL.LOAD copies TBS_SET into TBS_NOW in STANDALONE or LEADER when it is not below TBS_NOW; any other
LOAD is ignored and logged. In LEADER the next 8 downbeats carry LOADED (R76). -/
def writeTbsCtrl (v : Word) (s : State) : State :=
  if !v.getLsbD 0 then s
  else if (s.tbs.lock = .standalone ∨ s.tbs.lock = .leader) ∧ s.tbs.now ≤ s.tbs.set then
    { s with tbs := { s.tbs with
        now := s.tbs.set
        loadedLeft := if s.tbs.lock = .leader then 8 else s.tbs.loadedLeft } }
  else regRefused 0x2010 v 2 s

def execTbsLoad (v : Word) (s : State) : Host.Outcome State Fault Refusal :=
  live s (regWrite 0x2010 (writeTbsCtrl v))

/-! ### The downbeat -/

/-- DOWNBEAT_OUT is driven for a pulse while ENS_CTRL.DBOUT_EN is 1 (R435). -/
def pulseOut (s : State) : State := if s.ens.dbOutEn then { s with dbOut := true } else s

def execDownbeatOutPulseEnd (s : State) : Host.Outcome State Fault Refusal :=
  live s fun s => { s with dbOut := false }

/-- DOWNBEAT_MISSED (R73): on a follower the miss count rises, saturating at 255; four in a row move ALIGN and
LOCKED to HOLDOVER. DESIGN CHOICE (log entry 22): a miss ends the run of good downbeats in ALIGN. -/
def execDownbeatMissed (s : State) : Host.Outcome State Fault Refusal :=
  live s fun s =>
    if s.tbs.lock = .align ∨ s.tbs.lock = .locked ∨ s.tbs.lock = .holdover then
      let m := satAdd 255 s.tbs.miss 1
      let hold := s.tbs.lock = .holdover ∨ 4 ≤ m
      { s with tbs := { s.tbs with miss := m, goodRun := 0, lock := if hold then .holdover else s.tbs.lock } }
    else s

/-- The lock state after a downbeat that caused no step, with phase error e at h hops (R73), and the run of good
downbeats in ALIGN. -/
def lockAfter (lock : LockSt) (run h : Nat) (e : Int) : LockSt × Nat :=
  let small := e.natAbs ≤ 20 * h
  let wide := e.natAbs ≤ 40 * h
  match lock with
  | .align => if small then (if 8 ≤ run + 1 then (.locked, 0) else (.align, run + 1)) else (.align, 0)
  | .locked => if wide then (.locked, 0) else (.align, 0)
  | .holdover => if wide then (.locked, 0) else (.align, if small then 1 else 0)
  | l => (l, run)

/-! ### The TBS registers (R78) -/

def lockCode : LockSt → Nat
  | .standalone => 0 | .leader => 1 | .seek => 2 | .align => 3 | .locked => 4 | .holdover => 5 | .free => 6

def tbsRead (off : Nat) (s : State) : Option Word :=
  let al := fun (a : Fin 2) => s.tbs.alarms[a]
  match off with
  | 0x2000 => some (lo32 s.tbs.now)
  | 0x2004 => some s.tbs.hiShadow
  | 0x2008 => some (lo32 s.tbs.set)
  | 0x200C => some (hi32 s.tbs.set)
  | 0x2010 => some 0
  | 0x2014 => some (w32 (lockCode s.tbs.lock + 0x100 * s.tbs.hops + 0x10000 * s.tbs.miss))
  | 0x2018 => some (w32 (unsigned 32 s.tbs.trim))
  | 0x201C => some (w32 (unsigned 32 s.tbs.phase))
  | 0x2020 => some (lo32 (al 0).value)
  | 0x2024 => some (hi32 (al 0).value)
  | 0x2028 => some (lo32 (al 1).value)
  | 0x202C => some (hi32 (al 1).value)
  | 0x2030 => some (w32 (al 0).period)
  | 0x2034 => some (w32 (al 1).period)
  | 0x2038 => some (w32 (b2n (al 0).armed + 2 * b2n (al 1).armed + 0x100 * b2n (al 0).fired + 0x200 * b2n (al 1).fired))
  | 0x203C => some s.tbs.dbCount
  | _ => none

/-- The read of TBS_NOW_LO latches the high half (R78). -/
def tbsReadEff (off : Nat) (s : State) : State :=
  if off = 0x2000 then { s with tbs := { s.tbs with hiShadow := hi32 s.tbs.now } } else s

def execTbsNowLoRead (s : State) : Host.Outcome State Fault Refusal :=
  live s (regRead 0x2000 (tbsRead 0x2000) (tbsReadEff 0x2000))

def tbsWrite (off : Nat) (v : Word) (s : State) : Option State :=
  match off with
  | 0x2008 => some { s with tbs := { s.tbs with set := setLo s.tbs.set v } }
  | 0x200C => some { s with tbs := { s.tbs with set := setHi s.tbs.set v } }
  | 0x2010 => some (writeTbsCtrl v s)
  | 0x2020 => some (writeAlarmLo 0 v s)
  | 0x2024 => some (writeAlarmHi 0 v s)
  | 0x2028 => some (writeAlarmLo 1 v s)
  | 0x202C => some (writeAlarmHi 1 v s)
  | 0x2030 => some (setAlarm 0 (fun a => { a with period := v.toNat }) s)
  | 0x2034 => some (setAlarm 1 (fun a => { a with period := v.toNat }) s)
  | 0x2038 => some (writeAlarmCtrl v s)
  | _ => (tbsRead off s).map fun _ => s

end Sys2Proof.Machine
end

