-- ==== Sys2Proof/Machine/Events.lean ====
section
/-! DEFINITION. The event controller (09): pending sources, event records in queue mode, claim and done in claim
mode, latches, software sources, counters, and the EVC registers (R236). -/

namespace Sys2Proof.Machine


/-- Pending bits of several sources follow their conditions, in ascending number. -/
def updatePends (ns : List Nat) (s : State) : State := ns.foldl (fun s i => updatePend (Fin.ofNat 64 i) s) s

/-! ### Queue mode (R226 to R228) -/

/-- A source is due (R226). -/
def due (s : State) (n : Source) : Bool :=
  !s.evc.claimMode && s.evc.pend.getLsbD n && pendingFor s n && s.evc.armed.getLsbD n

/-- The lowest due source. -/
def firstDue (s : State) : Option Source := ((List.range 64).map (Fin.ofNat 64)).find? (due s)

/-- HIF_EVQ_STATUS.FULL: a record waits for room (R155, R156). -/
def evqFull (s : State) : Bool := s.hif.evq.size != 0 && s.hif.evq.room == 0 && (firstDue s).isSome

/-- A step that can make a source due or take the last room; FULL_COUNT counts each time FULL becomes 1. -/
def countEvqFull (f : State → State) (s : State) : State :=
  let s' := f s
  if evqFull s' && !evqFull s then
    { s' with hif := { s'.hif with evq := { s'.hif.evq with fullCount := satAdd 255 s'.hif.evq.fullCount 1 } } }
  else s'

/-- EVENT_SOURCE_PENDING: the source's pending bit follows its condition (R224). -/
def execEventSourcePending (n : Source) (s : State) : Host.Outcome State Fault Refusal :=
  live s (countEvqFull (updatePend n))

/-- HIF_DEFER[p] (R220). -/
def hifDefer (s : State) (p : Part) : Word := w32 (deferCount s p + 0x10000 * (pageOf s p).deferMark)

/-- BSC_STAGE and ISL_CAUSE as records and registers show them (R78, R113, R227). -/
def bscStage (s : State) : Word :=
  w32 (stageCode s.bsc.stage + 0x100 * s.bsc.percent + 0x10000 * b2n s.bsc.early + 0x20000 * b2n s.bsc.drain
    + 0x40000 * b2n s.bsc.copy)
def islCause (s : State) : Word := w32 (s.isl.causeIsland.val + 0x100 * s.isl.causeKind.toNat)

/-- PART of an event record (R227). -/
def eventPart (n : Source) : Nat :=
  if 8 ≤ n.val ∧ n.val < 16 then n.val - 8 else if 40 ≤ n.val ∧ n.val < 48 then n.val - 40 else 0xFF

/-- ARG of an event record: the value at the moment of writing (R227). -/
def eventArg (s : State) (n : Source) : Word :=
  if 8 ≤ n.val ∧ n.val < 16 then w32 (pageOf s (Fin.ofNat 8 (n.val - 8))).cq.tail
  else if 40 ≤ n.val ∧ n.val < 48 then hifDefer s (Fin.ofNat 8 (n.val - 40))
  else match n.val with
    | 6 => w32 s.hif.errq.tail
    | 7 => w32 s.hif.errLost
    | 2 => brgEff s
    | 5 => islCause s
    | 37 => bscStage s
    | _ => 0

/-- The 16 bytes of an event record (R227). -/
def eventBytes (s : State) (n : Source) : List Byte :=
  [BitVec.ofNat 8 n.val, BitVec.ofNat 8 (eventPart n), BitVec.ofNat 8 s.evc.count[n], 0] ++
  toLe 4 (eventArg s n).toNat ++ toLe 7 s.evc.time[n] ++ [phaseByte s.hif.evq.phase]

/-- Write the record of the lowest due source: its ARMED bit clears, and vector 0 is sent when the queue was
empty just before (R226, R228). -/
def writeEvent (s : State) : State :=
  match firstDue s with
  | none => s
  | some n =>
    let q := s.hif.evq
    let s' := send (.write (q.base + 16 * q.tail) (eventBytes s n)) { s with
      hif := { s.hif with evq := q.push }
      evc := { s.evc with armed := s.evc.armed &&& ~~~bit64 n } }
    if q.tail = q.head then raiseMsix 0 s' else s'

/-- EVENT_RECORD_WRITE: in queue mode, while the event queue is enabled and has room, under a SYSTEM-tagged burst
(R226). None in MUTE (R102). -/
def eventRecord (s : State) : State :=
  if muted s || (firstDue s).isNone || s.hif.evq.size == 0 || s.hif.evq.room == 0 then s
  else withDma none (countEvqFull writeEvent) s

def execEventRecordWrite (s : State) : Host.Outcome State Fault Refusal := live s eventRecord

/-! ### Claim mode (R229 to R231) -/

/-- The lowest pending source, by the pending bits. -/
def firstPending (s : State) : Option Source :=
  ((List.range 64).map (Fin.ofNat 64)).find? fun n => s.evc.pend.getLsbD n

/-- The value of EVC_CLAIM (R229). -/
def claimValue (s : State) : Word :=
  if !s.evc.claimMode then 0xFF
  else if s.evc.inServ.isSome then 0xFE
  else match firstPending s with
    | none => 0xFF
    | some n => w32 n.val

/-- The read of EVC_CLAIM puts the winner in service; it is then no longer pending (R224, R229). -/
def claimEff (s : State) : State :=
  if !s.evc.claimMode || s.evc.inServ.isSome then s
  else match firstPending s with
    | none => s
    | some n => { s with evc := { s.evc with inServ := some n, pend := s.evc.pend &&& ~~~bit64 n } }

/-- EVC_DONE (R230): the source in service leaves it; it is pending again only if it is active, and the host may
become presentable (R231). Any other DONE is refused by a rule. -/
def writeDone (v : Word) (s : State) : State :=
  let n : Source := Fin.ofNat 64 (bits v.toNat 5 0)
  if s.evc.claimMode && s.evc.inServ == some n then
    let s' := { s with evc := { s.evc with inServ := none } }
    let s' := if pendingFor s' n then
        assertWake (sendPme n { s' with evc := { s'.evc with pend := s'.evc.pend ||| bit64 n } }) else s'
    if presentable s' then raiseMsix 1 s' else s'
  else regRefused 0x6008 v 2 s

def execEvcDoneWrite (v : Word) (s : State) : Host.Outcome State Fault Refusal :=
  live s (regWrite 0x6008 (writeDone v))

/-! ### Latches, software sources, masks, arming (R222, R226, R236) -/

/-- A half of a 64-bit register as a mask. -/
def halfMask (half : Fin 2) (v : Word) : BitVec 64 := BitVec.ofNat 64 (v.toNat * 2 ^ (32 * half.val))
def halfOf (half : Fin 2) (v : BitVec 64) : Word := w32 (v.toNat / 2 ^ (32 * half.val))

/-- Writing 1 to a latch bit clears it (R222). -/
def writeLatch (half : Fin 2) (v : Word) (s : State) : State :=
  { s with evc := { s.evc with latch := s.evc.latch &&& ~~~(halfMask half v &&& latchedMask) } }

def execEvcLatchWrite (half : Fin 2) (v : Word) (s : State) : Host.Outcome State Fault Refusal :=
  live s (regWrite (0x6020 + 4 * half.val) (writeLatch half v))

/-- EVC_SOFT_SET: each 1 sets the latch of source 48 + i and counts an occurrence (R221). -/
def writeSoftSet (v : Word) (s : State) : State :=
  (List.range 16).foldl (fun s i => if v.getLsbD i then report (Fin.ofNat 64 (48 + i)) s else s) s

def execEvcSoftSetWrite (v : Word) (s : State) : Host.Outcome State Fault Refusal :=
  live s (regWrite 0x6028 (writeSoftSet v))

/-- EVC_ARMED: writing 1 rearms (R226). -/
def writeArmed (half : Fin 2) (v : Word) (s : State) : State :=
  { s with evc := { s.evc with armed := s.evc.armed ||| halfMask half v } }

/-- EVC_ARMED_WRITE: a source that is still pending is due again, and a record follows at once (R226): under the
grant of its burst. -/
def execEvcArmedWrite (half : Fin 2) (v : Word) (s : State) : Host.Outcome State Fault Refusal :=
  live s (regWrite (0x6038 + 4 * half.val) fun s => eventRecord (countEvqFull (writeArmed half v) s))

/-- EVC_MASK: a masked source is no longer pending; an unmasked one becomes pending again if it is active
(R223, R224). -/
def writeMask (half : Fin 2) (v : Word) (s : State) : State :=
  let other := halfMask (1 - half) (halfOf (1 - half) s.evc.mask)
  updatePends (List.range 64) { s with evc := { s.evc with mask := other ||| halfMask half v } }

/-- EVC_CTRL.IRQ_EN. -/
def writeEvcCtrl (v : Word) (s : State) : State := { s with evc := { s.evc with irqEn := v.getLsbD 1 } }

/-! ### The EVC registers (R236) -/

def evcRead (off : Nat) (s : State) : Option Word :=
  match off with
  | 0x6000 => some (w32 (b2n s.evc.claimMode + 2 * b2n s.evc.irqEn + 0x100 * b2n (irqLow s)))
  | 0x6004 => some (claimValue s)
  | 0x6008 => some 0
  | 0x600C => some (match s.evc.inServ with | none => 0xFF | some n => w32 n.val)
  | 0x6010 => some (halfOf 0 (levels s))
  | 0x6014 => some (halfOf 1 (levels s))
  | 0x6018 => some (halfOf 0 s.evc.pend)
  | 0x601C => some (halfOf 1 s.evc.pend)
  | 0x6020 => some (halfOf 0 s.evc.latch)
  | 0x6024 => some (halfOf 1 s.evc.latch)
  | 0x6028 => some (w32 (s.evc.latch.toNat / 2 ^ 48))
  | 0x6030 => some (halfOf 0 s.evc.mask)
  | 0x6034 => some (halfOf 1 s.evc.mask)
  | 0x6038 => some (halfOf 0 s.evc.armed)
  | 0x603C => some (halfOf 1 s.evc.armed)
  | 0x6040 => some (halfOf 0 s.evc.routeHost)
  | 0x6044 => some (halfOf 1 s.evc.routeHost)
  | 0x6048 => some (halfOf 0 s.evc.routeCpu)
  | 0x604C => some (halfOf 1 s.evc.routeCpu)
  | _ =>
    if 0x6100 ≤ off ∧ off < 0x6200 ∧ off % 4 = 0 then some (w32 s.evc.count[Fin.ofNat 64 ((off - 0x6100) / 4)])
    else none

/-- EVC_CLAIM claims, EVC_COUNT clears (R229, R233). -/
def evcReadEff (off : Nat) (s : State) : State :=
  if off = 0x6004 then claimEff s
  else if 0x6100 ≤ off ∧ off < 0x6200 then
    { s with evc := { s.evc with count := s.evc.count.set (Fin.ofNat 64 ((off - 0x6100) / 4)) 0 } }
  else s

def execEvcClaimRead (s : State) : Host.Outcome State Fault Refusal :=
  live s (regRead 0x6004 (evcRead 0x6004) (evcReadEff 0x6004))

def execEvcCountRead (n : Source) (s : State) : Host.Outcome State Fault Refusal :=
  live s (regRead (0x6100 + 4 * n.val) (evcRead (0x6100 + 4 * n.val)) (evcReadEff (0x6100 + 4 * n.val)))

def evcWrite (off : Nat) (v : Word) (s : State) : Option State :=
  match off with
  | 0x6000 => some (writeEvcCtrl v s)
  | 0x6008 => some (writeDone v s)
  | 0x6020 => some (writeLatch 0 v s)
  | 0x6024 => some (writeLatch 1 v s)
  | 0x6028 => some (writeSoftSet v s)
  | 0x6030 => some (countEvqFull (writeMask 0 v) s)
  | 0x6034 => some (countEvqFull (writeMask 1 v) s)
  | 0x6038 => some (countEvqFull (writeArmed 0 v) s)
  | 0x603C => some (countEvqFull (writeArmed 1 v) s)
  | _ => (evcRead off s).map fun _ => s

/-! ### Routes (R223, R225) and resets (R234) -/

def fixedHost : BitVec 64 := 0x000000000000FFFF
def fixedCpu : BitVec 64 := 0x00000000FFFF003B

/-- Vector 1 where a change other than a new pending source has made the host presentable (R231). -/
def notePresentable (f : State → State) (s : State) : State :=
  let t := f s
  if presentable t && !presentable s then raiseMsix 1 t else t

/-- EVENTS is applied (R225): mode and routes take their score values, the source in service leaves service, and
every ARMED bit is set; what the new routes make pending is so at once. -/
def applyEvents (c : Score) (s : State) : State :=
  let bitsAt := fun (b : Nat) => BitVec.ofNat 64 (maskOf 64 fun i => bitAt (c.routes.getD i 0) b)
  let host := (bitsAt 0 ||| fixedHost)
  let cpu := ((bitsAt 1 &&& 0x0000FFFFFFFFFFFF) ||| fixedCpu)
  updatePends (List.range 64) (notePresentable (fun s => { s with evc := { s.evc with
      claimMode := !c.queueMode, routeHost := host, routeCpu := cpu, inServ := none, armed := BitVec.allOnes 64 } }) s)

/-- PERST_N, hot reset, link down and FLR (R234): the source in service, counters and masks clear, every ARMED bit
is set, and what is still active becomes pending again at once. -/
def resetEvcHost (s : State) : State :=
  updatePends (List.range 64) { s with evc := { s.evc with
    inServ := none, count := Vector.replicate 64 0, mask := 0, armed := BitVec.allOnes 64, pend := 0 } }

/-- A partition reset does the same for sources 8 + p and 40 + p (R234). -/
def resetEvcPart (p : Part) (s : State) : State :=
  let a := bit64 (Fin.ofNat 64 (8 + p.val)) ||| bit64 (Fin.ofNat 64 (40 + p.val))
  updatePends [8 + p.val, 40 + p.val] (notePresentable (fun s => { s with evc := { s.evc with
    inServ := if s.evc.inServ = some (Fin.ofNat 64 (8 + p.val)) ∨ s.evc.inServ = some (Fin.ofNat 64 (40 + p.val))
      then none else s.evc.inServ
    count := (s.evc.count.set (Fin.ofNat 64 (8 + p.val)) 0).set (Fin.ofNat 64 (40 + p.val)) 0
    mask := s.evc.mask &&& ~~~a, armed := s.evc.armed ||| a, pend := s.evc.pend &&& ~~~a } }) s)

end Sys2Proof.Machine
end

