-- ==== Sys2Proof/Machine/Rings.lean ====
section
/-! DEFINITION. Rings and records (06, 08): doorbells, sizes, record writes, the USER fields (R141), the error
queue, and the HIF registers (R164, R220). Fetching stands in Admit.lean. -/

namespace Sys2Proof.Machine

def pageOff (p : Part) : Nat := 0x4000 + 0x200 * p.val

/-! ### Doorbells (R151, R161) -/

/-- An ignored doorbell sets DB_BAD and writes one record each time it changes from 0 to 1 (R161). -/
def badDoorbell (was : Bool) (off : Nat) (part : Nat) (v : Word) (s : State) : State :=
  if was then s else logErr { devErr 0x04 30 s with part := part, arg0 := off, arg1 := v.toNat } s

/-- HIF_SQ_TAIL (R151, R161). -/
def writeSqTail (p : Part) (v : Word) (s : State) : State :=
  let g := pageOf s p
  let i := bits v.toNat 15 0
  if g.sq.size ≤ i then
    badDoorbell g.sq.dbBad (pageOff p + 0x0C) p.val v (setPage p (fun g => { g with sq := { g.sq with dbBad := true } }) s)
  else setPage p (fun g => { g with sq := { g.sq with tail := i } }) s

/-- HIF_CQ_HEAD and its like: returning slots that hold no unconsumed record is ignored (R161). -/
def headOk (r : Ring) (i : Nat) : Bool :=
  i < r.size && (i + r.size - r.head) % r.size ≤ r.used

def writeCqHead (p : Part) (v : Word) (s : State) : State :=
  let g := pageOf s p
  let i := bits v.toNat 15 0
  if headOk g.cq i then setPage p (fun g => { g with cq := { g.cq with head := i } }) s
  else badDoorbell g.cq.dbBad (pageOff p + 0x2C) p.val v (setPage p (fun g => { g with cq := { g.cq with dbBad := true } }) s)

def execHifCqHeadWrite (p : Part) (v : Word) (s : State) : Host.Outcome State Fault Refusal :=
  live s (regWrite (pageOff p + 0x2C) (writeCqHead p v))

/-- HIF_EVQ_HEAD: vector 0 is sent when the write leaves tail and head different, in queue mode (R228). -/
def writeEvqHead (v : Word) (s : State) : State :=
  let q := s.hif.evq
  let i := bits v.toNat 15 0
  if headOk q i then
    let s' := { s with hif := { s.hif with evq := { q with head := i } } }
    if !s.evc.claimMode && i != q.tail then raiseMsix 0 s' else s'
  else badDoorbell q.dbBad 0x500C 0xFF v { s with hif := { s.hif with evq := { q with dbBad := true } } }

def execHifEvqHeadWrite (v : Word) (s : State) : Host.Outcome State Fault Refusal :=
  live s (regWrite 0x500C (writeEvqHead v))

def writeErrqHead (v : Word) (s : State) : State :=
  let q := s.hif.errq
  let i := bits v.toNat 15 0
  if headOk q i then { s with hif := { s.hif with errq := { q with head := i } } }
  else badDoorbell q.dbBad 0x502C 0xFF v { s with hif := { s.hif with errq := { q with dbBad := true } } }

/-! ### Sizes (R150, R159, R160) -/

/-- A size in range: 0, or a power of two from 16 to 65,536 (R159). -/
def sizeOk (n : Nat) : Bool := n == 0 || (List.range 13).any fun k => n == 2 ^ (k + 4)

/-- A size write to a ring. `canDisable` is the condition of writing 0. -/
def sizeWrite (r : Ring) (n : Nat) (canDisable : Bool) : Option Ring :=
  if n = 0 then (if canDisable then some { r with size := 0 } else none)
  else if r.size = 0 then some (r.enable n) else none

def writeSqSize (p : Part) (v : Word) (s : State) : State :=
  let n := bits v.toNat 16 0
  if !sizeOk n then regRefused (pageOff p + 0x08) v 1 s
  else match sizeWrite (pageOf s p).sq n true with
    | some r => setPage p (fun g => { g with asked := 0, sq := r }) s
    | none => regRefused (pageOff p + 0x08) v 2 s

def execHifSqSizeWrite (p : Part) (v : Word) (s : State) : Host.Outcome State Fault Refusal :=
  live s (regWrite (pageOff p + 0x08) (writeSqSize p v))

/-- A completion ring is disabled only while nothing is in flight and no record waits (R160). -/
def writeCqSize (p : Part) (v : Word) (s : State) : State :=
  let n := bits v.toNat 16 0
  if !sizeOk n then regRefused (pageOff p + 0x28) v 1 s
  else match sizeWrite (pageOf s p).cq n (inflight s p == 0 && (pageOf s p).cqWait.isEmpty) with
    | some r => setPage p (fun g => { g with cq := r }) s
    | none => regRefused (pageOff p + 0x28) v 2 s

def execHifCqSizeWrite (p : Part) (v : Word) (s : State) : Host.Outcome State Fault Refusal :=
  live s (regWrite (pageOff p + 0x28) (writeCqSize p v))

def writeEvqSize (v : Word) (s : State) : State :=
  let n := bits v.toNat 16 0
  if !sizeOk n then regRefused 0x5008 v 1 s
  else match sizeWrite s.hif.evq n true with
    | some r => { s with hif := { s.hif with evq := r } }
    | none => regRefused 0x5008 v 2 s

/-- Enabling the error queue sends the backlog, oldest first, before any new record; disabling it keeps the 16
most recent (R219). A record that finds no room makes FULL 1. -/
def writeErrqSize (v : Word) (s : State) : State :=
  let n := bits v.toNat 16 0
  if !sizeOk n then regRefused 0x5028 v 1 s
  else match sizeWrite s.hif.errq n true with
    | some r =>
      let full := n != 0 && r.room < s.hif.errWait.length
      let r := { r with fullCount := if full then satAdd 255 r.fullCount 1 else r.fullCount }
      let s := { s with hif := { s.hif with errq := r } }
      if n = 0 then trimBacklog s.hif.errWait.length s else s
    | none => regRefused 0x5028 v 2 s

def execHifErrqSizeWrite (v : Word) (s : State) : Host.Outcome State Fault Refusal :=
  live s (regWrite 0x5028 (writeErrqSize v))

/-- A base register is ignored and logged while its ring is enabled (R150). -/
def baseWrite (r : Ring) (hi : Bool) (v : Word) : Option Ring :=
  if r.size ≠ 0 then none
  else if hi then some { r with hi := v } else some { r with lo := v &&& 0xFFFFF000 }

/-! ### Records -/

/-- The 32 bytes of a completion record (R200). -/
def compBytes (r : CompRec) (phase : Bool) : List Byte :=
  [BitVec.ofNat 8 r.status, BitVec.ofNat 8 r.opcode] ++ toLe 2 r.tag ++ toLe 2 r.ctx ++
  [BitVec.ofNat 8 (r.admission + 4 * b2n r.early)] ++ toLe 2 r.detail ++ toLe 3 r.queuedUs ++ r.payload ++
  toLe 3 r.breathUs ++ [phaseByte phase]

/-- Write the first waiting record at the tail (R153), after the output that it reports (R168); source 8 + p occurs
(R154), and its command's wait for room ends (R155). -/
def writeComp (p : Part) (s : State) : State :=
  let s := sendOutput p s
  let g := pageOf s p
  match g.cqWait with
  | [] => s
  | r :: rest =>
    let s := setPage p (fun g => { g with cqWait := rest, cq := g.cq.push }) s
    let s := send (.write (g.cq.base + 32 * g.cq.tail) (compBytes r g.cq.phase)) s
    syncHolds (·.id == r.cmd) (occur (Fin.ofNat 64 (8 + p.val)) s)

/-- COMPLETION_RECORD_WRITE: with the ring enabled and room in it, under a burst, once the output can be moved
(R153, R155). -/
def compRecord (p : Part) (s : State) : State :=
  let g := pageOf s p
  if muted s || g.cqWait.isEmpty || g.cq.size == 0 || g.cq.room == 0 then s
  else match g.outWait.find? fun e => !outReady s e with
    | some e => askOutput e s
    | none => withDma none (writeComp p) s

def execCompletionRecordWrite (p : Part) (s : State) : Host.Outcome State Fault Refusal := live s (compRecord p)

/-- The 32 bytes of an error-queue record (R207). -/
def errBytes (r : ErrRec) (lost : Nat) (phase : Bool) : List Byte :=
  [BitVec.ofNat 8 r.kind, BitVec.ofNat 8 r.part] ++ toLe 2 r.tag ++ toLe 2 r.ctx ++
  [BitVec.ofNat 8 r.opcode, BitVec.ofNat 8 r.unit] ++ toLe 8 r.time ++ toLe 8 r.arg0 ++ toLe 4 r.arg1 ++
  toLe 2 r.arg2 ++ [BitVec.ofNat 8 lost, phaseByte phase]

def writeErr (s : State) : State :=
  match s.hif.errWait with
  | [] => s
  | r :: rest =>
    let q := s.hif.errq
    occur 6 (send (.write (q.base + 32 * q.tail) (errBytes r s.hif.errLostRun q.phase))
      { s with hif := { s.hif with errWait := rest, errLostRun := 0, errq := q.push } })

/-- ERROR_RECORD_WRITE: the oldest record is written while there is room (R218); raising, holding and losing stand
in `logErr`. -/
def errRecord (s : State) : State :=
  if muted s || s.hif.errWait.isEmpty || s.hif.errq.size == 0 || s.hif.errq.room == 0 then s
  else withDma none writeErr s

def execErrorRecordWrite (s : State) : Host.Outcome State Fault Refusal := live s errRecord

/-! ### FETCH_STOP and the USER fields -/

/-- HIF_SQ_STATUS: FETCH_STOP and DB_BAD are cleared by a 1 (R162). -/
def writeSqStatus (p : Part) (v : Word) (s : State) : State :=
  setPage p (fun g => { g with
    fetchStop := g.fetchStop && !v.getLsbD 0
    sq := { g.sq with dbBad := g.sq.dbBad && !v.getLsbD 1 } }) s

def execHifSqStatusWrite (p : Part) (v : Word) (s : State) : Host.Outcome State Fault Refusal :=
  live s (regWrite (pageOff p + 0x14) (writeSqStatus p v))

def writeCqStatus (p : Part) (v : Word) (s : State) : State :=
  setPage p (fun g => { g with cq := { g.cq with dbBad := g.cq.dbBad && !v.getLsbD 2 } }) s

def quotaLast (p : Part) (tier short : Nat) (s : State) : State :=
  setPage p (fun g => { g with lastTier := tier, lastShort := short }) s

/-- A USER write (R141): above the carve-out it is a reserved encoding; shrinking always takes effect; growing
only while no managed object of the partition occupies the units it would add, else it is refused and HIF_Q_LAST
reports the tier and the units occupied. -/
def writeUser (p : Part) (tier off n : Nat) (v : Word) (set : Page → Page) (s : State) : State :=
  let (a, c) := carve s p tier
  let u := userPart s p tier
  let clash := ((s.objs.filter fun o => o.part == p && o.tier == tier).flatMap (·.ext)).map fun e =>
    min (e.1 + e.2) (a + n) - max e.1 (a + u)
  if c < n then regRefused off v 1 s
  else if u < n ∧ clash.sum ≠ 0 then quotaLast p tier clash.sum (regRefused off v 2 s)
  else setPage p set s

def writeUserDram (p : Part) (v : Word) (s : State) : State :=
  let n := bits v.toNat 17 0
  writeUser p 1 (pageOff p + 0x88) n v (fun g => { g with userDram := n }) s
def writeUserStrips (p : Part) (v : Word) (s : State) : State :=
  let n := bits v.toNat 22 16
  writeUser p 2 (pageOff p + 0x90) n v (fun g => { g with userStrips := n }) s
def writeUserSec (p : Part) (v : Word) (s : State) : State :=
  let n := bits v.toNat 8 0
  writeUser p 3 (pageOff p + 0x98) n v (fun g => { g with userSec := n }) s

def execHifQDramUserWrite (p : Part) (v : Word) (s : State) : Host.Outcome State Fault Refusal :=
  live s (regWrite (pageOff p + 0x88) (writeUserDram p v))
def execHifQStripsWrite (p : Part) (v : Word) (s : State) : Host.Outcome State Fault Refusal :=
  live s (regWrite (pageOff p + 0x90) (writeUserStrips p v))
def execHifQSectionUseWrite (p : Part) (v : Word) (s : State) : Host.Outcome State Fault Refusal :=
  live s (regWrite (pageOff p + 0x98) (writeUserSec p v))

/-- HIF_DEFER.MARK: 257 to 511 are reserved encodings (R220). DEFER_HIGH may become active (R213, R221). -/
def writeDefer (p : Part) (v : Word) (s : State) : State :=
  let m := bits v.toNat 24 16
  if 256 < m then regRefused (pageOff p + 0xB4) v 1 s
  else
    let s' := setPage p (fun g => { g with deferMark := m }) s
    if deferHigh s' p && !deferHigh s p then occur (Fin.ofNat 64 (40 + p.val)) s' else s'

/-! ### The HIF registers (R164, R220) -/

/-- Fields of a partition page, by offset in the page; `none` is unmapped. While the partition is in reset the page
reads as reset (R131). -/
def pageRead (p : Part) (o : Nat) (s : State) : Option Word :=
  let g := pageOf s p
  let c := partCfg s p
  let q := fun (f : PartCfg → Nat) => (c.map f).getD 0
  let live := !g.resetting
  let r := fun (v : Nat) => some (w32 (if live then v else 0))
  match o with
  | 0x00 => r g.sq.lo.toNat
  | 0x04 => r g.sq.hi.toNat
  | 0x08 => r g.sq.size
  | 0x0C => r g.sq.tail
  | 0x10 => r g.sq.head
  | 0x14 => r (b2n g.fetchStop + 2 * b2n g.sq.dbBad + 0x10000 * inflight s p)
  | 0x20 => r g.cq.lo.toNat
  | 0x24 => r g.cq.hi.toNat
  | 0x28 => r g.cq.size
  | 0x2C => r g.cq.head
  | 0x30 => r g.cq.tail
  | 0x34 => some (w32 (if live then b2n g.cq.phase + 2 * b2n (cqFull g) + 4 * b2n g.cq.dbBad + 0x100 * g.cq.fullCount else 1))
  | 0x40 => some (w32 (b2n g.isOpen + 0x10 * q (·.cls) + 0x100 * b2n (p == 0)))
  | 0x44 => some 0
  | 0x80 => some (w32 (stackBase / 0x200000 + (carve s p 1).1 / 32))
  | 0x84 => some (w32 (carve s p 1).2)
  | 0x88 => r g.userDram
  | 0x8C => some (w32 (used s p 1))
  | 0x90 => some (w32 ((carve s p 2).1 + 0x100 * (carve s p 2).2 + 0x10000 * (if live then g.userStrips else 0) + 0x1000000 * used s p 2))
  | 0x94 => some (w32 ((carve s p 3).1 + 0x10000 * (carve s p 3).2))
  | 0x98 => some (w32 ((if live then g.userSec else 0) + 0x10000 * used s p 3))
  | 0x9C => some (w32 (q fun c => c.slots.toNat))
  | 0xA0 => some (w32 (q (·.voiceShare) + 0x100 * used s p 5))
  | 0xA4 => some (w32 (q (·.sessions) + 0x10000 * used s p 6))
  | 0xA8 => some (w32 (q (·.patience) + 0x10000 * q (·.hushWindow)))
  | 0xAC => some (w32 (q (·.partialInt)))
  | 0xB0 => r (g.lastTier + 0x100 * g.lastShort)
  | 0xB4 => r (deferCount s p + 0x10000 * g.deferMark)
  | _ => none

/-- FULL_COUNT of a completion ring clears at a read (R164). -/
def pageReadEff (p : Part) (o : Nat) (s : State) : State :=
  if o = 0x34 then setPage p (fun g => { g with cq := { g.cq with fullCount := 0 } }) s else s

def optWrite (off : Nat) (v : Word) (r : Option Ring) (f : Ring → State → State) (s : State) : State :=
  match r with
  | some r => f r s
  | none => regRefused off v 2 s

def queueStatus (r : Ring) (full : Bool) : Word :=
  w32 (b2n r.phase + 2 * b2n full + 4 * b2n r.dbBad + 0x100 * r.fullCount)

/-- Sessions in the device (R149). -/
def sessionsTotal (s : State) : Nat := s.ctxs.length

def resettingBits (s : State) : Nat := maskOf 8 fun i => (s.hif.pages[Fin.ofNat 8 i]).resetting

def hifRead (off : Nat) (s : State) : Option Word :=
  let e := s.hif.evq
  let q := s.hif.errq
  match off with
  | 0x5000 => some e.lo | 0x5004 => some e.hi | 0x5008 => some (w32 e.size) | 0x500C => some (w32 e.head)
  | 0x5010 => some (w32 e.tail) | 0x5014 => some (queueStatus e (evqFull s))
  | 0x5020 => some q.lo | 0x5024 => some q.hi | 0x5028 => some (w32 q.size) | 0x502C => some (w32 q.head)
  | 0x5030 => some (w32 q.tail)
  | 0x5034 => some (queueStatus q (q.size != 0 && q.room < s.hif.errWait.length))
  | 0x5040 => some (w32 (sessionsTotal s))
  | 0x5044 => some (w32 (resettingBits s))
  | 0x5048 => some (w32 (deferTotal s + 0x10000 * max s.hif.deferPeak (deferTotal s)))
  | 0x504C => some (w32 s.hif.errLost)
  | 0x5050 => some (lo32 s.hif.earlyId)
  | 0x5054 => some (hi32 s.hif.earlyId)
  | _ => none

/-- RC fields of the HIF global page (R164, R218, R220, R509). -/
def hifReadEff (off : Nat) (s : State) : State :=
  match off with
  | 0x5014 => { s with hif := { s.hif with evq := { s.hif.evq with fullCount := 0 } } }
  | 0x5034 => { s with hif := { s.hif with errq := { s.hif.errq with fullCount := 0 } } }
  | 0x5048 => { s with hif := { s.hif with deferPeak := deferTotal s } }
  | 0x504C => { s with hif := { s.hif with errLost := 0 } }
  | _ => s

def execHifErrqLostRead (s : State) : Host.Outcome State Fault Refusal :=
  live s (regRead 0x504C (hifRead 0x504C) (hifReadEff 0x504C))
def execHifDeferTotalRead (s : State) : Host.Outcome State Fault Refusal :=
  live s (regRead 0x5048 (hifRead 0x5048) (hifReadEff 0x5048))

def hifWrite (off : Nat) (v : Word) (s : State) : Option State :=
  let setE := fun (r : Ring) (s : State) => { s with hif := { s.hif with evq := r } }
  let setQ := fun (r : Ring) (s : State) => { s with hif := { s.hif with errq := r } }
  match off with
  | 0x5000 => some (optWrite off v (baseWrite s.hif.evq false v) setE s)
  | 0x5004 => some (optWrite off v (baseWrite s.hif.evq true v) setE s)
  | 0x5008 => some (writeEvqSize v s)
  | 0x500C => some (writeEvqHead v s)
  | 0x5014 => some (setE { s.hif.evq with dbBad := s.hif.evq.dbBad && !v.getLsbD 2 } s)
  | 0x5020 => some (optWrite off v (baseWrite s.hif.errq false v) setQ s)
  | 0x5024 => some (optWrite off v (baseWrite s.hif.errq true v) setQ s)
  | 0x5028 => some (writeErrqSize v s)
  | 0x502C => some (writeErrqHead v s)
  | 0x5034 => some (setQ { s.hif.errq with dbBad := s.hif.errq.dbBad && !v.getLsbD 2 } s)
  | _ => (hifRead off s).map fun _ => s

end Sys2Proof.Machine
end

