-- ==== Sys2Proof/Machine/Admit.lean ====
section
/-! DEFINITION. Admission (06, 08): quotas (R143), automatic eviction (R296), reservations, capacity codes (R206),
barriers, the deferral queue (R211), the start of commands, and the fetch of entries (R152). -/

namespace Sys2Proof.Machine

/-! ### Freeing contexts and models (R176, R188) -/

/-- Session state is destroyed (R145); the stages of a split context destroy theirs (R439). -/
def destroyCtx (p : Part) (key : Nat) (s : State) : State :=
  let split := (ctxOf s p key).bind fun x => x.model.bind (splitOf s)
  let s := dropCtx p key s
  match split with
  | some sp => if 1 < sp.stages ∧ sp.stage = 0 then toStages sp (fun d => ctrl d 0x0A p.val (wireCtx key) [] []) s else s
  | none => s

/-- The JOIN of this device's part (R437, R444): the handle and STATE of R178. -/
def joinMsg (sp : Split) (h : Handle) (p : Part) (st : Nat) (d : Nat) : Packet :=
  ctrl d 0x01 p.val 0 [BitVec.ofNat 8 h.val, BitVec.ofNat 8 st]
    (toLe 4 0x5053584F ++ [BitVec.ofNat 8 sp.stages, BitVec.ofNat 8 sp.stage, 0, 0] ++ toLe 2 sp.first ++
      toLe 2 sp.last ++ List.replicate 4 0 ++ sp.devices.map (BitVec.ofNat 8) ++ toLe 8 sp.id ++ List.replicate 24 0)

def modelStCode : ModelSt → Nat
  | .empty => 0 | .loading => 1 | .resident => 2 | .degraded => 3 | .swapping => 4 | .evicting => 5

/-- A part tells the other stages of its state. -/
def tellJoin (h : Handle) (s : State) : State :=
  let m := s.models[h]
  match m.hdr.split with
  | some sp =>
    if 1 < sp.stages then toStages sp (joinMsg sp h m.owner (modelStCode m.st)) s else s
  | none => s

/-- A JOIN of a stage device agrees with this device's part: partition, SPLIT_ID, STAGES, the device's place, and
layers that run on from the stage before to the stage after (R437). -/
def joinAgrees (s : State) (h : Handle) (r : JoinRep) : Bool :=
  let m := s.models[h]
  match m.hdr.split with
  | none => true
  | some sp =>
    let st := byteAt r.record 5
    let own := (sp.stage, sp.first, sp.last)
    let all := own :: (s.ens.joins.filter fun j => j.h == h && j.device != r.device).map fun j =>
      (byteAt j.record 5, le j.record 8 2, le j.record 10 2)
    r.part == m.owner && le r.record 32 8 == sp.id && byteAt r.record 4 == sp.stages && st < sp.stages &&
    sp.devices.getD st 0 == r.device && (st != 0 || le r.record 8 2 == 0) &&
    (st + 1 != sp.stages || le r.record 10 2 + 1 == m.hdr.layers) &&
    all.all fun a => (a.1 + 1 != st || a.2.2 + 1 == le r.record 8 2) && (a.1 != st + 1 || le r.record 10 2 + 1 == a.2.1)

/-- Device d is reachable (R432). -/
def reachable (s : State) (d : Nat) : Bool := s.ens.reach.getLsbD d

/-- A part is joined when every stage device is reachable and has reported its part RESIDENT or DEGRADED (R437). -/
def joinedNow (s : State) (h : Handle) : Bool :=
  let m := s.models[h]
  match m.hdr.split with
  | none => false
  | some sp =>
    1 < sp.stages && (m.st == .resident || m.st == .degraded) &&
    (otherStages s sp).all fun d => reachable s d && s.ens.joins.any fun r =>
      r.device == d && r.h == h && (r.state == 2 || r.state == 3) && joinAgrees s h r

def setJoined (h : Handle) (b : Bool) (s : State) : State :=
  let k := BitVec.ofNat 64 (2 ^ h.val)
  { s with ens := { s.ens with joined := if b then s.ens.joined ||| k else s.ens.joined &&& ~~~k } }

def tryJoin (h : Handle) (s : State) : State := setJoined h (joinedNow s h) s

/-- A JOIN that disagrees writes one record of kind 0x37 (R437, R445). -/
def judgeJoin (h : Handle) (r : JoinRep) (s : State) : State :=
  if joinAgrees s h r then s
  else logErr { devErr 0x37 29 s with arg0 := le r.record 32 8, arg1 := r.device, arg2 := h.val } s

/-- The 2 MiB units that a handle holds. -/
def heldUnits (s : State) (h : Handle) : Nat :=
  ceilDiv ((s.objs.filter fun o => o.kind == .model h none).map fun o => (o.ext.map (·.2)).sum).sum 32

def heldStrips (s : State) (h : Handle) : Nat :=
  ((s.objs.filter fun o => o.kind == .strips h none).map fun o => (o.ext.map (·.2)).sum).sum

/-- The draft binding of every context that names the handle is cleared, with its pages (R398). -/
def clearDrafts (h : Handle) (s : State) : State :=
  let hit := s.ctxs.filter fun x => (x.draft.map (·.1)) == some h
  hit.foldl (fun s x =>
    setCtx x.part x.num (fun y => { y with draft := none })
      (dropObjs (fun o => o.part == x.part && match o.kind with
        | .kv k pg => k == x.num && pg.draft
        | _ => false) s)) s

/-- The contexts bound to a handle. -/
def boundTo (s : State) (h : Handle) : List Ctx := s.ctxs.filter fun x => x.model == some (.handle h)

/-- A model is freed (R176): its units, strips and contexts go, and source 36 reports. -/
def freeModel (h : Handle) (s : State) : State :=
  let s := (boundTo s h).foldl (fun s x => destroyCtx x.part x.num s) s
  let s := tellJoin h (setModel h (fun m => { m with st := .evicting }) (clearDrafts h s))
  let s := dropObjs (fun o => o.kind == .model h none || o.kind == .strips h none) s
  let s := { s with
    strips := s.strips.map fun t => if t.owner = some (.handle h) then Strip.reset else t
    ens := { s.ens with
      joined := s.ens.joined &&& ~~~BitVec.ofNat 64 (2 ^ h.val)
      joins := s.ens.joins.filter (·.h != h)
      blocks := s.ens.blocks.filter (·.h != h) } }
  report 36 (setModel h (fun _ => Model.empty) s)

/-! ### What a command needs of each tier (R142, R143, R42) -/

/-- The draft model's pages, when the command drafts: all of them where the binding names another model (R398). -/
def draftPages (s : State) (c : Cmd) : List KvPage :=
  if c.specK = 0 then []
  else
    let h := s.models[c.draft].hdr
    let same := ((ctxOf s c.part c.key).bind (·.draft)).map (·.1) == some c.draft
    if same then missingPages s c.part c.key h true (boundOf s c) else kvPagesFor h true (boundOf s c)

/-- The pages that a work command reserves (R397). -/
def workPages (s : State) (c : Cmd) : List KvPage :=
  match hdrOf s c.ref with
  | some h => missingPages s c.part c.key h false (boundOf s c) ++ draftPages s c
  | none => []

/-- The row working space of a work command. -/
def rowNeed (s : State) (c : Cmd) : Nat :=
  if c.noPass then 0
  else ((hdrOf s c.ref).map (·.rowUnits)).getD 0 + if c.specK = 0 then 0 else s.models[c.draft].hdr.rowUnits

def newSession (s : State) (c : Cmd) : Bool := (ctxOf s c.part c.key).isNone

/-- The contexts that a HUSH acts on (R146, R415): LIVE, of a model that can be hushed, with no command in flight. -/
def hushTargets (s : State) (c : Cmd) : List Ctx :=
  s.ctxs.filter fun x => x.part == c.part && x.num < 65536 &&
    (if c.ctx = 0 then !(s.cmds.any fun d => d.part == c.part && d.id != c.id && d.ctx == x.num) else x.num == c.ctx)

/-- A LIVE context can be hushed: its layer entry is a multiple of 64 bytes and it is not split (R417, R439). -/
def hushable (s : State) (x : Ctx) : Bool :=
  x.st == .live && !splitCtx s x && ((x.model.bind (hdrOf s)).map layerBytes).getD 0 % 64 == 0

/-- The slot of a flash command belongs to the partition. -/
def ownsSlot (s : State) (p : Part) (n : Nat) : Bool := ((partCfg s p).map (·.slots.getLsbD n)).getD false

/-- What a model of this header needs: tiers 1, 2 and 4. -/
def loadNeeds (s : State) (p : Part) (h : ImgHdr) (slot : Option (Fin 32)) : List (Nat × Nat) :=
  [(1, 32 * unitsOf h), (2, h.minStrips), (4, b2n (((slot.map fun n => !ownsSlot s p n.val)).getD false))]

def breathNeed (s : State) (p : Part) : Nat × Nat := (7, b2n (s.brg.partMax[p] == 0))

/-- The needs of a command, in tier order; of loads and swaps see Models. -/
def needs (s : State) (c : Cmd) : List (Nat × Nat) :=
  if isWork c.op then
    (if c.early then [] else [(1, (workPages s c).length), (3, rowNeed s c)]) ++
      [(6, b2n (newSession s c)), breathNeed s c.part]
  else match c.op with
    | 0x28 => [(1, (((hushTargets s c).filter (hushable s)).map fun x => ceilDiv (hushImgLen s x) granule).sum),
        breathNeed s c.part]
    | 0x29 => [(1, ((ctxOf s c.part c.ctx).bind fun x => (x.model.bind (hdrOf s)).map fun h =>
        (kvPagesFor h false x.pos).length).getD 0), breathNeed s c.part]
    | 0x30 => if c.byte 16 = 3 then [] else [(1, ceilDiv (c.field 32 4) granule)]
    | 0x31 => if c.ctx = 0 then [] else [(6, b2n (newSession s c))]
    | 0x38 => [(5, if c.kMirror then 2 * c.kVoices else c.kVoices), breathNeed s c.part]
    | _ => []

/-- The first short tier and its shortfall (R143). -/
def shortTier (s : State) (p : Part) (ns : List (Nat × Nat)) : Option (Nat × Nat) :=
  (ns.find? fun n => room s p n.1 < n.2).map fun n => (n.1, n.2 - room s p n.1)

/-! ### Automatic eviction (R296, R297) -/

/-- A candidate for a command of partition p; `c` is the command, absent for a PRELOAD entry. -/
def evictable (s : State) (p : Part) (skip : Option Handle) (h : Handle) : Bool :=
  let m := s.models[h]
  m.owner == p && (m.st == .resident || m.st == .degraded) && !m.pinned && skip != some h && (boundTo s h).isEmpty &&
  !(s.cmds.any fun d => d.names h) && !s.ens.joined.getLsbD h.val && (jobOn s h).isNone && m.repairing.isNone

def candidates (s : State) (p : Part) (skip : Option Handle) : List Handle :=
  let l := ((List.range 64).map (Fin.ofNat 64)).filter (evictable s p skip)
  sortBy (fun a b => s.models[a].lastUse ≤ s.models[b].lastUse) l

/-- The shortest prefix that covers every short tier; none where no prefix does. -/
def evictPrefix (s : State) (p : Part) (ns : List (Nat × Nat)) (l : List Handle) : Option (List Handle) :=
  let short := fun (t : Nat) => ((ns.filter (·.1 == t)).map (·.2)).sum - room s p t
  ((List.range (l.length + 1)).map l.take).find? fun pre =>
    short 1 ≤ 32 * (pre.map (heldUnits s)).sum && short 2 ≤ (pre.map (heldStrips s)).sum

/-- Evict one model automatically: one record of kind 0x33 (R306). -/
def evictAuto (h : Handle) (s : State) : State :=
  let m := s.models[h]
  let u := heldUnits s h
  let s := freeModel h s
  logErr { devErr 0x33 21 s with part := m.owner.val, arg0 := m.hdr.modelId, arg1 := u, arg2 := h.val } s

def autoEvict (p : Part) (skip : Option Handle) (ns : List (Nat × Nat)) (s : State) : State :=
  let short := ns.any fun n => (n.1 == 1 || n.1 == 2) && room s p n.1 < n.2
  if !s.str.autoEvict.getLsbD p.val || !short then s
  else match evictPrefix s p ns (candidates s p skip) with
    | none => s
    | some l => l.foldl (fun s h => evictAuto h s) s

/-! ### Reservations (R142, R212, R397) -/

/-- The draft binding follows the command: another model discards the old pages and sets nd to 0 (R398). -/
def bindDraft (c : Cmd) (s : State) : State :=
  if c.specK = 0 then s
  else
    let same := ((ctxOf s c.part c.key).bind (·.draft)).map (·.1) == some c.draft
    if same then s
    else
      setCtx c.part c.key (fun x => { x with draft := some (c.draft, 0) })
        (dropObjs (fun o => o.part == c.part && match o.kind with
          | .kv k pg => k == c.key && pg.draft
          | _ => false) s)

/-- Reserve what the check found room for. -/
def reserve (c : Cmd) (s : State) : State :=
  if isWork c.op then
    let pages := workPages s c
    let n := rowNeed s c
    let fresh := newSession s c
    let s := if c.early then s else
      let s := reservePages c.part c.key pages (bindDraft c s)
      if n = 0 then s else placeObj c.part 3 (.row c.id) n s
    if fresh then addObj c.part 6 (.session c.key) [(0, 1)] s else s
  else match c.op with
    | 0x28 => ((hushTargets s c).filter (hushable s)).foldl (fun s x =>
        placeObj c.part 1 (.hush x.num) (ceilDiv (hushImgLen s x) granule) s) s
    | 0x29 => match (ctxOf s c.part c.ctx) with
      | some x => match x.model.bind (hdrOf s) with
        | some h => reservePages c.part c.ctx (kvPagesFor h false x.pos) s
        | none => s
      | none => s
    | 0x30 => if c.byte 16 = 3 then s
      else placeObj c.part 1 (.mask (Fin.ofNat 32 (c.byte 17)) (some c.id)) (ceilDiv (c.field 32 4) granule) s
    | 0x31 => if c.ctx ≠ 0 ∧ newSession s c then addObj c.part 6 (.session c.key) [(0, 1)] s else s
    | 0x38 => addObj c.part 5 (.voices c.id) [(0, if c.kMirror then 2 * c.kVoices else c.kVoices)] s
    | _ => s

/-! ### Capacity and barriers (R198, R206, R302) -/

def earlyCfg (s : State) : Option EarlyCfg := s.score.bind (·.early)

/-- Tokens that early contexts other than this command's hold or have reserved (R108). -/
def earlyHeld (s : State) (c : Cmd) : Nat :=
  ((s.ctxs.filter fun x => isEarlyCtx x && !(x.part == c.part && x.num == c.key)).map fun x =>
    (s.cmds.filter fun d => d.early && d.part == x.part && d.key == x.num).foldl (fun m d => max m (boundOf s d)) x.pos).sum

/-- Early service has no session or no KV room for the command: code 4 (R108, R109). -/
def earlyShort (s : State) (c : Cmd) : Bool :=
  match earlyCfg s, s.early with
  | some e, some m =>
    (newSession s c && e.sessions ≤ (s.ctxs.filter isEarlyCtx).length) ||
    (isWork c.op && 5 * 0x100000 < m.hdr.kvPerToken * (earlyHeld s c + boundOf s c))
  | _, _ => false

/-- A command reads or writes flash. -/
def Cmd.usesFlash (c : Cmd) : Bool :=
  ((c.op == 0x10 || c.op == 0x11) && c.byte 16 == 1) || c.op == 0x48 || c.op == 0x49

/-- A reader of the slot is at work (R195): a load, a swap, its reversion source, or early service. -/
def slotRead (s : State) (n : Fin 32) : Bool :=
  (s.jobs.any fun j => j.slot == some n || j.revSlot == some n) ||
  (s.bsc.early && ((earlyCfg s).map (·.slot)) == some n.val)

/-- Another load, swap or repair holds the staging units (R281, R295). -/
def stagingBusy (s : State) (id : Nat) : Bool :=
  (s.jobs.any fun j => j.staging && !j.swap && j.owner != .cmd id) || s.models.toList.any fun m => m.repairing.isSome

/-- Opcodes served before FULL from every partition, and from those of EARLY.PARTS (R109). -/
def alwaysServed (op : Nat) : Bool := [0x01, 0x02, 0x50, 0x14, 0x40].contains op
def earlyServed (op : Nat) : Bool := [0x20, 0x21, 0x22, 0x30, 0x31, 0x2A].contains op

/-- The command is served at this stage. -/
def servedNow (s : State) (c : Cmd) : Bool :=
  s.bsc.stage == .full || alwaysServed c.op ||
  (earlyServed c.op && s.bsc.early && ((earlyCfg s).map (·.parts.getLsbD c.part.val)).getD false)

/-- A command that creates session state. -/
def makesCtx (c : Cmd) : Bool := isWork c.op || (c.op == 0x31 && c.ctx != 0)

/-- The capacity code that a command meets now; 0 for none (R206). The codes that refuse at once stand first. -/
def capacity (s : State) (c : Cmd) : Nat :=
  let slot : Fin 32 := Fin.ofNat 32 (c.byte 17)
  if c.usesFlash && s.flc.fail then 9
  else if c.op = 0x48 ∧ 12582912 * (goodBlocks s slot).length < c.field 32 4 then 7
  else if c.early && makesCtx c && earlyShort s c then 4
  else if !servedNow s c then 3
  else if makesCtx c && newSession s c && 4096 ≤ sessionsTotal s then 1
  else match c.op with
    | 0x10 => if stagingBusy s c.id then 5 else 0
    | 0x38 =>
      let cls := ((partCfg s c.part).map (·.cls)).getD 3
      if (choose s c.kVoices c.kMirror).isSome || (victims s cls c.kVoices c.kMirror).isSome then 0 else 2
    | 0x48 | 0x49 => if slotRead s slot then 6 else 0
    | _ => 0

/-- Codes that refuse without deferral. -/
def atOnce (r : Nat) : Bool := r == 4 || r == 7 || r == 8 || r == 9

/-- A swap that writes, or an earlier refill, holds back the commands that name the handle (R198, R302); a second swap waits
behind the first (R175). -/
def heldBy (s : State) (c : Cmd) (h : Handle) : Bool :=
  let earlier := fun (j : Job) => match j.owner with
    | .cmd id => decide (id < c.id)
    | .preload _ => true
  let other := fun (j : Job) => j.h == h && j.owner != .cmd c.id
  if isWork c.op then
    s.models[h].barrier || s.jobs.any fun j => other j && earlier j && !j.swap && s.models[h].st != .loading
  else c.op == 0x11 && s.jobs.any fun j => other j && j.stage != .header && j.swap

/-- The handle behind whose barrier the command waits. -/
def barrierOf (s : State) (c : Cmd) : Option Handle :=
  if c.early then none
  else
    let own := if (isWork c.op || c.op == 0x11) && heldBy s c c.handle then some c.handle else none
    own.or (if c.specK ≠ 0 ∧ heldBy s c c.draft then some c.draft else none)

/-! ### The deferral queue (R211, R213) -/

/-- A change of the queue can make DEFER_HIGH active (R213). -/
def noteDefer (p : Part) (f : State → State) (s : State) : State :=
  let s' := f s
  let s' := { s' with hif := { s'.hif with deferPeak := max s'.hif.deferPeak (deferTotal s') } }
  if deferHigh s' p && !deferHigh s p then occur (Fin.ofNat 64 (40 + p.val)) s' else s'

/-- Patience of an entry in ns; 0 takes the partition's default (R157). -/
def patienceNs (s : State) (c : Cmd) : Nat :=
  let ms := c.field 8 2
  1000000 * if ms = 0 then ((partCfg s c.part).map (·.patience)).getD 0 else ms

/-- The other stages of the joined split model that a work command names. -/
def splitPeers (s : State) (c : Cmd) : Option Split :=
  if !isWork c.op then none else (splitOf s c.ref).filter fun sp => decide (1 < sp.stages)

/-- A deferred command that is not admitted after all releases what it reserved at other stages (R439). -/
def releasePeers (id : Nat) (s : State) : State :=
  match cmdOf s id with
  | none => s
  | some c => match splitPeers s c with
    | some sp => if c.isDeferred && c.reserved then
        toStages sp (fun d => ctrl d 0x05 c.part.val (wireCtx c.key) [] []) s else s
    | none => s

/-- A command ends REFUSED; a GENERATE carries its payload in every record (R183). -/
def refuse (id status detail : Nat) (s : State) : State :=
  let pay := match cmdOf s id with
    | some c => if c.op = 0x21 then failPayload s c status else noPayload
    | none => noPayload
  finish id status detail true pay (releasePeers id s)

/-- The newest entry of the largest class number among the queue and the newcomer. -/
def displaced (s : State) (c : Cmd) : Cmd :=
  (s.cmds.filter Cmd.isDeferred).foldl (fun v e =>
    if classOf s v.part < classOf s e.part ∨ (classOf s v.part = classOf s e.part ∧ v.id < e.id) then e else v) c

/-- The entry's deadline runs from its first deferral. -/
def enterDefer (c : Cmd) (r : Nat) (judged : Bool) (s : State) : State :=
  noteDefer c.part (setCmd c.id fun x => { x with
    phase := .deferred judged
    lastShort := r
    deadline := if x.admission = 1 then x.deadline else s.clk + patienceNs s c
    admission := 1 }) s

/-- defer(c). -/
def defer (c : Cmd) (r : Nat) (judged : Bool) (s : State) : State :=
  if deferTotal s < 256 then enterDefer c r judged s
  else
    let v := displaced s c
    let s := refuse v.id 0x21 8 s
    if v.id = c.id then s else enterDefer c r judged s

/-! ### Starting -/

/-- The session that a command creates and the model it binds (R145, R147, R394). -/
def enterCtx (c : Cmd) (s : State) : State :=
  if !makesCtx c then s
  else
    let fresh := newSession s c
    let s := if fresh then
        setCtx c.part c.key (fun x => { x with early := c.early })
          (newCtx c.part c.key (dropObjs (fun o => o.part == c.part && o.kind == .session c.key) s))
      else s
    let s := if fresh then setCmd c.id (fun x => { x with madeCtx := true }) s else s
    if isWork c.op then
      let binds := ((ctxOf s c.part c.key).map (·.model.isNone)).getD false
      let s := setCmd c.id (fun x => { x with boundCtx := binds }) s
      let d := if c.specK = 0 then none else some (c.draft, 0)
      let s := setCtx c.part c.key (fun x => { x with
        st := if x.st = .new then .live else x.st
        model := x.model.or (some c.ref)
        draft := x.draft.or d }) s
      let x := ctxOf s c.part c.key
      setCmd c.id (fun k => { k with work := { k.work with
        start := (x.map (·.pos)).getD 0
        scoreState := x.map (·.mstate) } }) s
    else s

/-- The units that a load or swap checks its shards in are free: the staging units, or for swaps the verify units
(R281, R300). -/
def verifyFree (s : State) : Bool := !s.jobs.any fun j => j.staging && j.swap

/-- A buffer of a running command no longer lies within its partition's reach: one record of kind 0x08, and the
command completes BAD_FIELD with DETAIL 0xFFFF (R127, R133, R204). -/
def accessFault (c : Cmd) (a : Nat) (s : State) : State :=
  failCmd c.id 0x31 0xFFFF (logErr { cmdErr 0x08 30 c s with arg0 := a } s)

/-- The read requests of a command's input, one after the other while the limits of the requester allow (R117). -/
def sendReads (id : Nat) : Nat → State → State
  | 0, s => s
  | k + 1, s =>
    match cmdOf s id with
    | none => s
    | some c =>
      let n := min (maxRead s) (c.inWant - c.inAsked)
      if n = 0 ∨ tagLimit s ≤ outstanding s then s
      else
        let h := hostAddr s c.part c.inAddr
        sendReads id k (send (.readReq (h + c.inAsked) n)
          (setCmd id (fun c => { c with inAsked := c.inAsked + n, inHost := h }) s))

/-- The reads that a command's input still wants are issued under a grant, translated by the window as it stands (R16, R119,
R128, R133). The grant serves the data too while it lasts. -/
def askInput (id : Nat) (s : State) : State :=
  match cmdOf s id with
  | none => s
  | some c =>
    let a := c.inAddr + c.inAsked
    if c.inWant ≤ c.inAsked then s
    else if !inHostWin s c.part a (c.inWant - c.inAsked) then accessFault c a s
    else if !hifRuns s then s
    else if !holdsGrant s (.dma (some id)) then request (.dma (some id)) .system s
    else sendReads id (c.inWant / 128 + 1) s

/-- A command waits for the next bytes of its input from host memory. -/
def want (id a len : Nat) (s : State) : State :=
  askInput id (setCmd id (fun c => { c with
    input := []
    inAddr := a
    inWant := len
    inAsked := 0
    attempt := 0 }) s)

/-- The operation of an admitted load or swap begins (R174, R299): a new handle is LOADING; a swap records the
reversion source and the handle is SWAPPING. The tables are read next. -/
def beginLoad (j : Job) (s : State) : State :=
  let m := s.models[j.h]
  let rev := match m.slot with
    | some n => if slotState s n = 2 ∧ s.nand.slots[n].id = m.hdr.modelId then some n else none
    | none => none
  let hold := if j.swap then verifyFree s else true
  let s := { s with jobs := s.jobs.map fun k => if k.owner = j.owner then { k with
      stage := .tables
      page := 0
      buf := []
      attempt := 0
      staging := hold
      revSlot := if j.swap then rev else none } else k }
  let s := if j.swap then setModel j.h (fun m => { m with st := .swapping, front := 0 }) s
    else if m.st = .empty then setModel j.h (fun m => { m with st := .loading, owner := j.part }) s
    else s
  match j.owner with
  | .cmd id =>
    let s := setCmd id (fun c => { c with phase := .running }) s
    let s := if hold then endWait id s else s
    if hold && j.slot.isNone then want id j.addr (tablesLen j.hdr) s else s
  | .preload _ => s

/-- A slot is WRITING or ERASING from the admission of the command on (R268, R273). -/
def claimSlot (c : Cmd) (s : State) : State :=
  let n : Fin 32 := Fin.ofNat 32 (c.byte 17)
  if c.op = 0x48 then setSlot n 4 0 0 s else if c.op = 0x49 then setSlot n 5 0 0 s else s

/-- start(c): the command is admitted. -/
def start (id : Nat) (s : State) : State :=
  match cmdOf s id with
  | none => s
  | some c =>
    let s := setCmd id (fun x => { x with phase := .ready }) (claimSlot c (enterCtx c s))
    match s.jobs.find? (·.owner == .cmd id) with
    | some j => beginLoad j s
    | none => s

/-- A work command or KERNEL of a partition that is marked (R51); what was deferred before the mark goes on. -/
def starvedNow (s : State) (c : Cmd) : Bool :=
  (isWork c.op || c.op == 0x38) && s.brg.starved.getLsbD c.part.val && c.admission != 1

/-- The end of admitCmd(c) once the quotas are reserved: STARVED, capacity and barrier. -/
def decide_ (id : Nat) (s : State) : State :=
  match cmdOf s id with
  | none => s
  | some c =>
    let r := capacity s c
    let b := barrierOf s c
    if starvedNow s c then refuse id 0x22 s.brg.ceilLow s
    else if atOnce r then refuse id 0x21 r s
    else if r = 0 ∧ b = none then start id s
    else if c.noWait then match b with
      | some h => refuse id 0x23 h.val s
      | none => refuse id 0x21 r s
    else defer c r true s

/-! ### RESERVE (R439) -/

def askStages (c : Cmd) (sp : Split) (s : State) : State :=
  let bound := boundOf s c
  let s := { s with ens := { s.ens with
    reserving := s.ens.reserving ++ [{ cmd := c.id, h := c.handle, asked := otherStages s sp, replies := [] }] } }
  toStages sp (fun d => ctrl d 0x03 c.part.val c.ctx (toLe 4 bound) []) s

/-! ### admitCmd(c) (R158, R211) -/

/-- The command names the handle, as its model or as its draft. -/
def Cmd.wants (c : Cmd) (h : Handle) : Bool := isWork c.op && (c.handle == h || (c.specK != 0 && c.draft == h))

/-- A command is not admitted yet (R148, R172, R110, R198, R266): it waits behind a HOLD FENCE, an earlier command of its
context, the end of an early context, an earlier MODEL_LOAD of its handle that is not yet checked, or the flash. -/
def blocked (s : State) (c : Cmd) : Bool :=
  let earlier := s.cmds.filter fun d => d.part == c.part && d.id < c.id
  (s.cmds.any fun d => decide (d.id < c.id) && d.op == 0x10 && d.phase == .waiting && c.wants d.handle) ||
  (earlier.any fun d => d.op == 0x02 && bitAt (d.byte 16) 0) ||
  ((isWork c.op || [0x28, 0x29, 0x31].contains c.op) && c.ctx != 0 && earlier.any fun d => d.ctx == c.ctx) ||
  (!c.early && s.bsc.stage == .full && c.ctx != 0 && ((ctxOf s c.part c.ctx).map isEarlyCtx).getD false) ||
  (c.usesFlash && flashPart s && !s.flc.ready && !s.flc.fail) ||
  ((c.op == 0x48 || c.op == 0x49) && s.flc.op.isSome)

/-- Step 5 and what follows it. -/
def admitQuota (id : Nat) (s : State) : State :=
  match cmdOf s id with
  | none => s
  | some c =>
    let s := autoEvict c.part (if namesModel c.op then some c.handle else none) (needs s c) s
    match shortTier s c.part (needs s c) with
    | some (t, n) => refuse id 0x20 (t + 8 * min 8191 n) (quotaLast c.part t n s)
    | none =>
      let s := setCmd id (fun x => { x with reserved := isWork c.op || [0x28, 0x29, 0x31].contains c.op }) (reserve c s)
      match splitPeers s c with
      | some sp => if otherStages s sp = [] then decide_ id s else askStages c sp s
      | none => decide_ id s

/-- A handle that a PRELOAD entry has still to fill. -/
def awaited (s : State) (h : Handle) : Bool :=
  s.bsc.stage != .full && ((s.score.map fun c => c.preload.drop s.bsc.preloadIdx).getD []).any (·.handle == h)

/-- A command that waits for FULL and names such a handle, whose steps 3 to 5 rest on the model to come (R109, the Edges of
04; DEDUCED, log entry 34). -/
def unjudged (s : State) (c : Cmd) : Bool :=
  !servedNow s c && ((namesModel c.op && awaited s c.handle) || (c.specK != 0 && awaited s c.draft))

/-- The deferral of a command whose checks wait for FULL. -/
def holdBack (id : Nat) (s : State) : State :=
  match cmdOf s id with
  | none => s
  | some c =>
    if starvedNow s c then refuse id 0x22 s.brg.ceilLow s
    else if c.usesFlash && s.flc.fail then refuse id 0x21 9 s
    else if c.noWait then refuse id 0x21 3 s
    else defer c 3 false s

/-- Steps 3 to 5 of a waiting command; a load or swap waits for its image header after step 4 (R173). A command of R109's
second row is admitted to early service, or to full service, at this instant (R110). -/
def admitCmd (id : Nat) (s : State) : State :=
  match cmdOf s id with
  | none => s
  | some c =>
    if c.phase ≠ .waiting ∨ blocked s c ∨ (s.ens.reserving.any fun r => r.cmd == id) then s
    else
      let early := s.bsc.stage != .full && earlyServed c.op && servedNow s c
      let c := { c with early := early }
      let s := setCmd id (fun x => { x with early := early }) s
      if unjudged s c then holdBack id s
      else match firstBad [handleCheck s c, contextCheck s c, bodyCheck s c] with
        | some (st, d) => refuse id st d s
        | none =>
          if c.op = 0x10 ∨ c.op = 0x11 then
            (if c.usesFlash && s.flc.fail then refuse id 0x21 9 s else s)
          else admitQuota id s

/-- Steps 1 and 2, which name no state. -/
def checkEntry (id : Nat) (s : State) : State :=
  match cmdOf s id with
  | none => s
  | some c =>
    if !opcodes.contains c.op then
      let s := logErr { cmdErr 0x01 24 c s with arg0 := le c.entry 0 8, arg1 := c.ringIdx } s
      refuse id 0x30 0 s
    else match reservedCheck c with
      | some (st, d) => refuse id st d s
      | none => admitCmd id s

/-! ### SUBMISSION_FETCH (R152, R155, R162) -/

/-- The engine fetches from the ring of a partition. -/
def fetchOk (s : State) (p : Part) : Bool :=
  let g := pageOf s p
  g.isOpen && !g.resetting && g.sq.size != 0 && g.cq.size != 0 && !g.fetchStop && inflight s p < 256 && !cqFull g &&
  g.sq.head != g.sq.tail && !muted s

def Work.none : Work :=
  { input := [], inputRead := false, start := 0, fed := 0, gen := [], reported := 0, row := Option.none, accepted := 0, drafts := [], draftLogits := [],
    draftOver := false, noDraft := false, hidden := [], scored := [], scoreState := Option.none }

/-- A command as its entry read completes (R202). -/
def newCmd (s : State) (p : Part) (entry : List Byte) : Cmd :=
  { id := s.nextCmd, part := p, entry := entry, ringIdx := (pageOf s p).sq.head, readAt := s.clk, phase := .waiting,
    admission := 0, early := false, deadline := 0, lastShort := 0, waitFrom := some s.clk, queuedNs := 0, breathNs := 0,
    input := [], inAddr := 0, inWant := 0, inAsked := 0, inHost := 0, attempt := 0, work := Work.none, count := 0, mark := 0, reserved := false, madeCtx := false, boundCtx := false,
    silent := false }

/-- The engine reads entries of a ring in its order, as many as one request takes: up to the end of the ring, the tail, and 256
commands in flight (R152, R117). -/
def askFetch (p : Part) (s : State) : State :=
  let g := pageOf s p
  let n := min (min (maxRead s / 64) (g.sq.size - g.sq.head)) (min g.sq.used (256 - inflight s p))
  if !fetchOk s p || g.asked != 0 || !hifRuns s then s
  else if !holdsGrant s (.dma none) then request (.dma none) .system s
  else if tagLimit s ≤ outstanding s then s
  else send (.readReq (g.sq.base + 64 * g.sq.head) (64 * n)) (setPage p (fun g => { g with asked := n }) s)

/-- An entry's read completes: the head passes it, and it is checked. -/
def fetched (p : Part) (entry : List Byte) (s : State) : State :=
  let c := newCmd s p entry
  let s := setPage p (fun g => { g with
    fetchTries := 0
    asked := g.asked - 1
    sq := { g.sq with head := (g.sq.head + 1) % g.sq.size } }) s
  let n := (s.cmds.filter fun d => d.part == p).length
  let c := { c with count := if c.op = 0x02 then n else 0 }
  checkEntry c.id { s with cmds := s.cmds ++ [c], nextCmd := s.nextCmd + 1 }

/-- SUBMISSION_FETCH: the next entry of a read that has been issued; without one, the read is asked for. -/
def submissionFetch (p : Part) (entry : List Byte) (s : State) : State :=
  if !fetchOk s p || entry.length != 64 then s
  else if (pageOf s p).asked = 0 then askFetch p s
  else withDma none (fun s => askFetch p (fetched p entry s)) s

def execSubmissionFetch (p : Part) (entry : List Byte) (s : State) : Host.Outcome State Fault Refusal :=
  live s (submissionFetch p entry)

/-! ### Deferred starts and patience (R211) -/

/-- An entry of the deferral queue could start now. -/
def couldStart (s : State) (c : Cmd) : Bool := match c.phase with
  | .deferred true => capacity s c == 0 && (barrierOf s c).isNone
  | .deferred false => servedNow s c && !blocked s c
  | _ => false

/-- DEFERRED_START: of the entries that could start, the first in the order of service does (R210, R211). One whose checks
waited for FULL goes through them now. -/
def deferredStart (id : Nat) (s : State) : State :=
  match firstBy (serviceKey s) (s.cmds.filter (couldStart s)) with
  | none => s
  | some c =>
    if c.id ≠ id then s
    else if c.phase = .deferred false then admitCmd id (setCmd id (fun x => { x with phase := .waiting }) s)
    else if c.op = 0x48 ∧ slotState s (Fin.ofNat 32 (c.byte 17)) ≠ 1 then refuse id 0x31 17 s
    else start id s

/-- The shortfall that a deferred entry met last. -/
def shortNow (s : State) (c : Cmd) : Nat := if capacity s c = 0 then c.lastShort else capacity s c

/-- PATIENCE_EXPIRY: the entry leaves the queue at its deadline with its last shortfall, or REFUSED_SWAP behind a barrier; one
that could start has left the queue already (DEFERRED_START). -/
def patienceExpiry (id : Nat) (s : State) : State :=
  match cmdOf s id with
  | none => s
  | some c =>
    if !c.isDeferred || s.clk < c.deadline || couldStart s c then s
    else match barrierOf s c with
      | some h => refuse id 0x23 h.val s
      | none => refuse id 0x21 (shortNow s c) s

def execPatienceExpiry (id : Nat) (s : State) : Host.Outcome State Fault Refusal := live s (patienceExpiry id)

end Sys2Proof.Machine
end

