-- ==== Sys2Proof/Machine/Aznil.lean ====
section
/-! DEFINITION. The Aznil instruction word (15, 16): the formats, the maps of major and minor cells, every reserved
field (R347 to R350, R369, R370), and what the scalar instructions read and write. -/

namespace Sys2Proof.Machine

/-! ### Fields (R347) -/

def majorOf (w : Nat) : Nat := bits w 31 26
def fD (w : Nat) : Fin 16 := Fin.ofNat 16 (bits w 21 18)
def fA (w : Nat) : Fin 16 := Fin.ofNat 16 (bits w 17 14)
def fB (w : Nat) : Fin 16 := Fin.ofNat 16 (bits w 13 10)
def fC (w : Nat) : Fin 16 := Fin.ofNat 16 (bits w 9 6)
def minorOf (w : Nat) : Nat := bits w 9 4
def imm14 (w : Nat) : Nat := bits w 13 0

/-- The minors of the ALU map, and the unary ones among them (R351). -/
def aluMinors : List Nat :=
  [0x00, 0x01, 0x02, 0x03, 0x04, 0x05, 0x08, 0x09, 0x0A, 0x10, 0x11, 0x12, 0x14, 0x15, 0x16, 0x17, 0x18, 0x19, 0x1A,
   0x1B, 0x20, 0x21, 0x22, 0x23]
def aluUnary : List Nat := [0x05, 0x20, 0x21, 0x22, 0x23]

/-- The minors of TEW (R383), and the unary ones. -/
def tewMinors : List Nat :=
  [0x00, 0x01, 0x02, 0x03, 0x04, 0x08, 0x09, 0x0A, 0x0B, 0x10, 0x11, 0x12, 0x13, 0x14]
def tewUnary : List Nat := [0x10, 0x11, 0x12, 0x13, 0x14]

/-- A pair names s[r] and s[r + 1], so r is 1 to 14 (R370). -/
def pairOk (r : Nat) : Bool := 1 ≤ r && r ≤ 14

/-- With W = 1, rs1 names a pair (R361). -/
def wOk (w : Nat) (wBit : Nat) : Bool := !bitAt w wBit || pairOk (bits w 17 14)

/-- The cells whose reserved fields hold, as major and minor; the minor is 0 where the major alone names the
instruction (R349). -/
def cellOf (w : Nat) : Option (Nat × Nat) :=
  let m := majorOf w
  let n := minorOf w
  let z := fun (hi lo : Nat) => bits w hi lo == 0
  let one := fun (b : Bool) => if b then some (m, 0) else none
  match m with
  | 0x01 => if aluMinors.contains n && z 3 0 && (!aluUnary.contains n || z 13 10) then some (m, n) else none
  | 0x02 => one (z 19 18 && z 5 0 && bits w 9 6 ≤ 5)
  | 0x03 => one (z 11 0)
  | 0x04 | 0x05 | 0x06 | 0x07 | 0x0B | 0x0C | 0x0D => one true
  | 0x08 | 0x09 | 0x0A => one (z 13 5)
  | 0x0E =>
    let fields := match n with
      | 0x00 | 0x01 => z 21 10
      | 0x02 => z 13 10
      | 0x03 => z 17 14 && bits w 13 10 ≤ 4
      | 0x04 => z 21 18 && z 13 10
      | _ => false
    if fields && z 3 0 then some (m, n) else none
  | 0x10 | 0x11 | 0x12 | 0x13 | 0x14 | 0x18 | 0x19 | 0x1A => one (wOk w 13)
  | 0x20 => one (z 13 0)
  | 0x21 => one (z 17 16)
  | 0x22 | 0x23 => one (z 8 0 && wOk w 9)
  | 0x24 => one (z 19 18 && z 9 0)
  | 0x25 => one (z 9 0 && pairOk (bits w 13 10))
  | 0x26 => one (z 19 18 && z 5 0 && pairOk (bits w 13 10) && pairOk (bits w 9 6))
  | 0x27 => if tewMinors.contains n && z 3 0 && (!tewUnary.contains n || z 13 10) then some (m, n) else none
  | 0x28 => if n ≤ 2 && z 13 10 && z 3 0 then some (m, n) else none
  | 0x29 => one (z 9 0)
  | 0x2A => one (z 5 0 && pairOk (bits w 13 10) && (z 9 6 || pairOk (bits w 9 6)))
  | 0x2B => one (z 8 0 && pairOk (bits w 21 18) && wOk w 9)
  | 0x2C => one (z 15 0)
  | 0x30 | 0x31 => one (z 1 0 && pairOk (bits w 17 14))
  | 0x34 => one (z 21 0)
  | 0x35 => one (z 17 17)
  | 0x36 => one (z 21 16)
  | 0x37 => one (z 21 1)
  | _ => none

/-- A defined word: its guard field and its cell are legal (R348, R349). -/
def insnOf (w : Nat) : Option (Nat × Nat) := if bitAt w 25 || bits w 24 22 == 0 then cellOf w else none

/-- Issue the instruction of a cell. -/
def insn (n : Voice) (major minor : Nat) (k : Nat → State → Ran) (s : State) : State :=
  issueInsn n (fun w => (insnOf w).isSome) (fun w => insnOf w == some (major, minor)) k s

/-- Issue the TRED or BRTH of one name: BRTH's OP is bit 0. -/
def insnOp (n : Voice) (major : Nat) (op : Bool) (k : Nat → State → Ran) (s : State) : State :=
  issueInsn n (fun w => (insnOf w).isSome) (fun w => insnOf w == some (major, 0) && bitAt w 0 == op) k s

/-! ### Registers (R329) -/

/-- s[r]; s0 reads as 0. -/
def sReg (s : State) (n : Voice) (r : Fin 16) : Word := if r = 0 then 0 else (voiceOf s n).s[r]

/-- Write s[r]; a write to s0 is ignored. -/
def setReg (n : Voice) (r : Fin 16) (x : Word) (s : State) : State :=
  if r = 0 then s else setVoice n (fun v => { v with s := v.s.set r x }) s

def setP (n : Voice) (i : Nat) (b : Bool) (s : State) : State :=
  setVoice n (fun v => { v with p := (v.p &&& ~~~BitVec.ofNat 4 (2 ^ i)) ||| BitVec.ofNat 4 (b2n b * 2 ^ i) }) s

def setV (n : Voice) (b : Bool) (s : State) : State := setVoice n (fun v => { v with v := v.v || b }) s
def setZ (n : Voice) (b : Bool) (s : State) : State := setVoice n (fun v => { v with z := v.z || b }) s
def setSat (n : Voice) (b : Bool) (s : State) : State := setVoice n (fun v => { v with sat := v.sat || b }) s

/-! ### Addresses (R361, R370) -/

def succ16 (r : Fin 16) : Fin 16 := Fin.ofNat 16 (r.val + 1)

/-- The base address: s[r], or the 40 bits of its pair. -/
def baseOf (s : State) (n : Voice) (r : Fin 16) (wide : Bool) : Nat :=
  (sReg s n r).toNat + if wide then 2 ^ 32 * bits (sReg s n (succ16 r)).toNat 7 0 else 0

/-- An address formed mod 2^40 with its low bits cleared. -/
def addr40 (x : Int) (align : Nat) : Nat := (x % 2 ^ 40).toNat / align * align

/-- A step that is done, with what follows its end; a wait goes on. -/
def Ran.andThen (f : State → State) : Ran → Ran
  | .next s => .next (f s)
  | .jump s pc => .jump (f s) pc
  | .halt h alone s => .halt h alone (f s)
  | .wait s => .wait s

/-- An access waits for the lease of each section that it reaches and for the section's clock, and runs (R34, R44, R341).
The error response of a section in FAULT (R64) halts the voice ACCESS (DEDUCED, log entry 23). -/
def withSections (n : Voice) (as : List Nat) (k : State → Ran) (s : State) : Ran :=
  let ms := sectionsOf as
  match as.find? fun a => faultySection s [a] with
  | some a => .halt (haltAccess a) false s
  | none =>
    if sectionsReady s ms then (k s).andThen (releaseSections ms) else .wait (askSections (voiceTag s n) ms s)

/-- The rows of a pass that used a damaged block: those whose KV pages hold it, every row where none does (R250). -/
def usersOf (s : State) (p : Pass) (bads : List (Nat × Nat)) : List PassRow :=
  let holds := fun (r : PassRow) => bads.any fun b => inRows s { p with rows := [r] } b.1
  if p.rows.any holds then p.rows.filter holds else p.rows

/-- An uncorrectable read of a voice of a pass: at the commit point the commands whose rows used the blocks complete
MEMORY_UNCORRECTABLE, with the channel. -/
def failUsers (n : Voice) (bads : List (Nat × Nat)) (s : State) : State :=
  match (voiceOf s n).run with
  | .pass m => match passOf s m with
    | some p =>
      let c := (placeOf s (firstLost bads).1).chan.val
      let lost := (usersOf s p bads).map fun r => (r.cmd, 0x42, c)
      setPass m (fun p => { p with rowFail := p.rowFail ++ lost }) s
    | none => s
  | _ => s

/-- What an uncorrectable read does to the voice (R250, R342, R365, R457): a section or window word halts it
SECTION_UE; stacked blocks halt it ACCESS, with R250's report. -/
def haltUe (n : Voice) (bads : List (Nat × Nat)) (ea : Nat) (elem : Option Nat) (s : State) : Ran :=
  let a := (firstLost bads).1
  if a < stackBase then .halt { haltSection a with elem := elem } false s
  else
    .halt { haltAccess ea with elem := elem } true
      (failUsers n bads (reportUes bads 1 (voicePart s n) (voiceCmd s n) s))

/-- The record of kind 0x08 about a voice's access outside the limits names the address (R127, R507; DEDUCED). -/
def noteOutside (n : Voice) (ea : Nat) (s : State) : State :=
  logErr { about (voiceCmd s n) (devErr 0x08 (n.val + 1) s) with part := voicePart s n, arg0 := ea } s

/-- An access outside the limits (R127, R365) halts the voice. -/
def haltOutside (n : Voice) (ea : Nat) (elem : Option Nat) (s : State) : Ran :=
  .halt { haltAccess ea with elem := elem } false (noteOutside n ea s)

/-- Read bytes for a voice within its reach, then go on with them. -/
def loadBytes (n : Voice) (ea len : Nat) (ecc : Ecc) (k : List Byte → State → Ran) (s : State) : Ran :=
  if !reaches s n false ea len then haltOutside n ea none s
  else withSections n [ea, ea + len - 1] (stripGate n [ea, ea + len - 1] fun s =>
    match readMem ea len ecc (voiceParts s n) s with
    | (.ok bs, s) => k bs s
    | (.bad bads, s) => haltUe n bads ea none s) s

/-- Store bytes that lie within reach, and go on. A merge into an uncorrectable section word halts the voice; into
stacked blocks it is reported and not applied (R248, R342). -/
def putBytes (n : Voice) (ea : Nat) (bs : List Byte) (elem : Option Nat) (k : State → Ran) (s : State) : Ran :=
  let bads := badMerges s ea bs.length
  let a := (firstLost bads).1
  if !bads.isEmpty && a < stackBase then .halt { haltSection a with elem := elem } false s
  else k (reportUes bads 5 (voicePart s n) (voiceCmd s n) (storeMem ea bs s))

/-- Store bytes for a voice within its reach. -/
def storeBytes (n : Voice) (ea : Nat) (bs : List Byte) (k : State → Ran) (s : State) : Ran :=
  if !reaches s n true ea bs.length then haltOutside n ea none s
  else withSections n [ea, ea + bs.length - 1] (putBytes n ea bs none k) s

end Sys2Proof.Machine
end

