-- ==== Sys2Proof/Machine/Nand.lean ====
section
/-! DEFINITION. What reads the flash and what its channels serve (11): the shard and the page that each load, swap, repair and the
early model read next (R270, R280, R295, R300, R304), the classes of operations on a channel (R265), the channel leases (R264), and
the blocks of the array with their read-retry and disturb records (R269, R271). -/

namespace Sys2Proof.Machine

/-! ### Blocks and codewords (R269, R271) -/

/-- The slot whose image a block holds. -/
def slotOfBlock (s : State) (b : Nat) : Option (Fin 32) :=
  ((List.range 32).map (Fin.ofNat 32)).find? fun n => (goodBlocks s n).contains b

/-- A block of a WRITTEN slot is marked for refresh, once. -/
def markBlock (b reason : Nat) (s : State) : State :=
  match slotOfBlock s b with
  | some n => if slotState s n = 2 then setBlock b (fun x => if x.mark = 0 then { x with mark := reason } else x) s else s
  | none => s

/-- An uncorrectable codeword: UNCORR and one record of kind 0x29. -/
def cwLost (b page : Nat) (part : Nat) (who : Option Cmd) (s : State) : State :=
  let slot := if b < 16 then 0xFFFF else ((slotOfBlock s b).map (·.val)).getD 0xFFFF
  logErr { about who (devErr 0x29 27 s) with part := part, arg0 := 768 * b + page, arg1 := b, arg2 := slot }
    { s with flc := { s.flc with uncorr := satAdd 65535 s.flc.uncorr 1 } }

def isFlagged (s : State) (b page i : Nat) : Bool := (blockOfNand s b).flagged.contains (4 * page + i)

/-- The retries that a codeword took after the first offset failed: offsets 1 to 8 in order, until it decoded (R269). -/
def triesOf (first : Nat) (r : CwRead) : Nat := match r.offset with
  | some k => if k.val = first then 0 else k.val
  | none => 8

/-- Codewords of a page that fail: flagged ones (R272), and those that no offset decoded. -/
def lostOf (s : State) (b page : Nat) (cws : List CwRead) : List Nat :=
  (List.range cws.length).filter fun i => isFlagged s b page i || ((cws[i]?).bind (·.offset)).isNone

/-- One codeword of a page whose read began at offset `first`. -/
def readCw (b page i first part : Nat) (who : Option Cmd) (r : CwRead) (s : State) : State :=
  if isFlagged s b page i then cwLost b page part who s
  else match r.offset with
    | none => cwLost b page part who s
    | some k =>
      let s := if k.val = first then s else { s with flc := { s.flc with recovered := satAdd 65535 s.flc.recovered 1 } }
      let s := if 4 ≤ k.val then markBlock b 2 s else s
      if 48 < r.corrected then markBlock b 3 s else s

/-- Page reads of a block count against its disturb limit. -/
def countReads (b n : Nat) (s : State) : State :=
  let s := setBlock b (fun x => { x with reads := x.reads + n }) s
  if 1024 * s.flc.limit < (blockOfNand s b).reads then markBlock b 1 s else s

/-- A page is read from offset `first` on, with its retries: the offset that served last becomes the block's first (R269). -/
def readCws (b page first part : Nat) (who : Option Cmd) (cws : List CwRead) (s : State) : State :=
  let lost := lostOf s b page cws
  let tries := cws.zipIdx.map fun r => if lost.contains r.2 then 8 else triesOf first r.1
  let served := (cws.zipIdx.filterMap fun r => if lost.contains r.2 then none
    else if triesOf first r.1 = 0 then none else some (triesOf first r.1)).max?
  let s := countReads b (1 + tries.foldl max 0) s
  let s := cws.zipIdx.foldl (fun s r => readCw b page r.2 first part who r.1 s) s
  match served with
  | some k => setBlock b (fun x => { x with offset := k }) s
  | none => s

/-! ### What is read next -/

def jobFor (s : State) (o : JobFor) : Option Job := s.jobs.find? (·.owner == o)
def setJob (o : JobFor) (f : Job → Job) (s : State) : State :=
  { s with jobs := s.jobs.map fun j => if j.owner = o then f j else j }

/-- The shards in the order of the write phase (R300): layers ascending, LAYER 0xFFFF last. -/
def writeOrder (ss : List Shard) : List Nat :=
  let ix := List.range ss.length
  let key := fun i => ((ss[i]?).map (·.layer)).getD 0xFFFF
  sortBy (fun a b => key a ≤ key b) ix

/-- Resident ranges that the write phase has written. -/
def writtenRanges (j : Job) : List (Nat × Nat) :=
  ((writeOrder j.shards).take j.written).filterMap fun i =>
    (j.shards[i]?).map fun x => (shardPlace j.tensors j.shards i, x.length)

def touched (rs : List (Nat × Nat)) (a n : Nat) : Bool := rs.any fun r => a < r.1 + r.2 && r.1 < a + n

/-- The old shards that a revert restores (R304), the last layer first, so that the front falls. -/
def oldShards (s : State) (j : Job) : List Nat :=
  let m := s.models[j.h]
  (writeOrder m.shards).reverse.filter fun i => match m.shards[i]? with
    | some x => touched (writtenRanges j) (shardPlace m.tensors m.shards i) x.length
    | none => false

/-- The shard that a load or swap reads now, with its index in its table (R280, R300, R304). -/
def jobShard (s : State) (j : Job) : Option (Nat × Shard) :=
  let new := fun (i : Nat) => (j.shards[i]?).map fun x => (i, x)
  match j.stage with
  | .shards => new j.shard
  | .verify => if j.got.isNone then new j.shard else none
  | .write => if s.models[j.h].barrier && j.got.isNone then (writeOrder j.shards)[j.shard]?.bind new else none
  | .revert => (oldShards s j)[j.shard]?.bind fun i => (s.models[j.h].shards[i]?).map fun x => (i, x)
  | _ => none

/-- The image bytes that a load or swap reads now. -/
def wanted (s : State) (j : Job) : Option (Nat × Nat) :=
  match j.stage with
  | .header => if j.hdr.imageLen = 0 then some (0, 256) else none
  | .tables => if j.staging then some (0, tablesLen j.hdr) else none
  | _ => (jobShard s j).map fun x => (x.2.offset, x.2.length)

/-- The slot that a load or swap reads now; a revert reads the reversion source. -/
def jobSlot (j : Job) : Option (Fin 32) := if j.stage = .revert then j.revSlot else j.slot

/-- The flash page that a job reads next, as block and page. -/
def jobPlace (s : State) (j : Job) : Option (Nat × Nat) :=
  match jobSlot j, wanted s j with
  | some n, some _ => pagePlace s n j.page
  | _, _ => none

/-- The model's slot still holds it (R295). -/
def repairable (s : State) (h : Handle) : Bool :=
  let m := s.models[h]
  match m.slot with
  | some n => slotState s n == 2 && s.nand.slots[n].id == m.hdr.modelId
  | none => false

/-- The repair that holds the staging units, which no load then holds (R295). -/
def repairNow (s : State) : Option Handle :=
  if s.jobs.any fun j => j.staging && !j.swap then none
  else ((List.range 64).map (Fin.ofNat 64)).find? fun (h : Handle) => s.models[h].repairing.isSome

def repairShard (s : State) (h : Handle) : Option Shard :=
  let m := s.models[h]
  m.repairing.bind fun r => if r.got.isNone && repairable s h then m.shards[r.shard]? else none

def repairPlace (s : State) (h : Handle) : Option (Nat × Nat) :=
  match s.models[h].slot, repairShard s h, s.models[h].repairing with
  | some n, some _, some r => pagePlace s n r.page
  | _, _, _ => none

/-- The slot of early service. -/
def earlySlot (s : State) : Fin 32 := Fin.ofNat 32 (((earlyCfg s).map (·.slot)).getD 0)

/-- The image pages of `n` bytes at an offset. -/
def pagesAt (off n : Nat) : List Nat :=
  if n = 0 then [] else (List.range ((off + n - 1) / 16384 - off / 16384 + 1)).map fun i => off / 16384 + i

/-- The image pages of the early model that the next bursts of its window need. -/
def earlyPages (s : State) : List Nat :=
  if !s.bsc.early then []
  else ((window s .early).flatMap fun i =>
    let t := s.strips[i]
    if t.st != .filling then [] else match loadOf s .early i with
      | some l => pagesAt (l.addr + t.fetched) (min 4096 (l.len - t.fetched))
      | none => []).dedup

/-! ### What a channel serves (R265) -/

/-- Who reads a page. -/
inductive FlashReader where
  | early (page : Nat)
  | job (o : JobFor)
  | repair (h : Handle)
  deriving DecidableEq, Repr

/-- The page reads that are wanted, early service first, then loads, swaps and reversion in the order in which they came, then
repair, with the block and page. -/
def flashReads (s : State) : List (FlashReader × Nat × Nat) :=
  ((earlyPages s).filter fun k => !(s.flc.early.any (·.1 == k))).filterMap
    (fun k => (pagePlace s (earlySlot s) k).map fun q => (FlashReader.early k, q)) ++
  s.jobs.filterMap (fun j => (jobPlace s j).map fun q => (FlashReader.job j.owner, q)) ++
  (match repairNow s with
    | some h => ((repairPlace s h).map fun q => (FlashReader.repair h, q)).toList
    | none => [])

/-- The read that a channel serves next. -/
def nextRead (s : State) (ch : Nat) : Option (FlashReader × Nat × Nat) := (flashReads s).find? fun r => r.2.1 % 2 == ch

/-- The die of a block on its channel (R263). -/
def dieOf (s : State) (b : Nat) : Nat := b / 2 % diesOf s

/-- No read that is wanted suspends a program or erase on the die of this block. -/
def dieFree (s : State) (b : Nat) : Bool :=
  (flashReads s).all fun r => r.2.1 % 2 != b % 2 || dieOf s r.2.1 != dieOf s b

/-- The block that a write or erase programs or erases next. -/
def opBlock (s : State) : Option Nat :=
  s.flc.op.bind fun o =>
    if o.erase || o.clearing then o.blocks.head?
    else if o.checking || o.buf.isEmpty then none else (pagePlace s o.slot o.page).map (·.1)

/-- The marked blocks of WRITTEN slots (R271, R272). -/
def markedBlocks (s : State) : List Nat :=
  sortBy (· ≤ ·) (((s.nand.blocks.filter (·.mark != 0)).map (·.num)).filter fun b =>
    ((slotOfBlock s b).map (slotState s)) == some 2)

/-- No operation of the classes above refresh is wanted on a channel. -/
def refreshTurn (s : State) (ch : Nat) : Bool :=
  (nextRead s ch).isNone && !((opBlock s).any fun b => b % 2 == ch)

/-- No operation of a class above patrol is wanted. -/
def patrolTurn (s : State) : Bool :=
  refreshTurn s 0 && refreshTurn s 1 && (markedBlocks s == [] || s.nand.pool == [])

/-! ### Channel leases (R38, R264, R510) -/

def holdsFlash (s : State) (t : Tag) (ch : Nat) : Bool :=
  s.brg.io.grants.any fun g => g.unit == .flash (Fin.ofNat 2 ch) && g.tag == t

/-- A flash operation under the leases of its channels, which carry the tag of the work that it serves and end with it; without
them it requests them and waits. -/
def withFlash (chs : List Nat) (t : Tag) (k : State → State) (s : State) : State :=
  if chs.all (holdsFlash s t) then k (chs.foldl (fun s c => endGrant (.flash (Fin.ofNat 2 c)) s) s)
  else chs.foldl (fun s c => if holdsFlash s t c then s
    else request (.flash (Fin.ofNat 2 c)) t (endGrant (.flash (Fin.ofNat 2 c)) s)) s

/-- The tag and the PART of the work that a page read serves (R264, R507). -/
def readerTag (s : State) : FlashReader → Tag
  | .early _ => modelTag s .early
  | .job o => ((jobFor s o).map fun j => Tag.part j.part).getD .system
  | .repair h => .part s.models[h].owner

def readerPart (s : State) : FlashReader → Nat
  | .early _ => 0xFF
  | .job o => ((jobFor s o).map fun j => j.part.val).getD 0xFF
  | .repair h => s.models[h].owner.val

/-- The command of a job. -/
def jobCmd (s : State) (j : Job) : Option Cmd :=
  match j.owner with
  | .cmd id => cmdOf s id
  | .preload _ => none

def readerCmd (s : State) : FlashReader → Option Cmd
  | .job o => (jobFor s o).bind (jobCmd s)
  | _ => none

/-- The offset that a page read begins with: n in re-read n of a shard (R270), else the block's (R269). -/
def firstOffset (s : State) (b : Nat) (r : FlashReader) : Nat :=
  let n := match r with
    | .early _ => 0
    | .job o => ((jobFor s o).map (·.attempt)).getD 0
    | .repair h => (s.models[h].repairing.map (·.attempt)).getD 0
  if n = 0 then (blockOfNand s b).offset else n

end Sys2Proof.Machine
end

