-- ==== Sys2Proof/Machine/Models.lean ====
section
/-! DEFINITION. Loads (R174, R280 to R283), PRELOAD and the entry to FULL (R100, R106, R110), repair (R295), swaps
(R298 to R304, R307), eviction, and the STR registers (R309). -/

namespace Sys2Proof.Machine

/-! ### FULL and PRELOAD (R100, R106, R110) -/

/-- The fuses of COMMIT and REVOKE are blown (R100). -/
def commitFuses (s : State) : State :=
  match s.score with
  | none => s
  | some c =>
    if !c.commit then s
    else
      let r := max s.fuses.rollback c.version
      let k := s.fuses.revoked ||| c.revoke
      { s with fuses := { s.fuses with rollback := r, revoked := k }, bsc := { s.bsc with rollback := r, revoked := k } }

/-- FULL begins (R110): fuses, the time, DRAIN while early service runs, and the end of early contexts. -/
def fullEntry (s : State) : State :=
  let s := enterStage .full 100 (commitFuses s)
  let s := { s with bsc := { s.bsc with tFull := w32 (s.clk / 1000), drain := s.bsc.early } }
  settleEarly s

def preloadList (s : State) : List PreloadCfg := (s.score.map (·.preload)).getD []

/-- Image bytes of the entries from `i` on; entries whose slot holds no image count none. -/
def slotLen (s : State) (n : Nat) : Nat := (s.nand.slots[Fin.ofNat 32 n]).len

/-- PERCENT and the position of PRELOAD (R83). DESIGN CHOICE (log entry 30): where the entries have no bytes PERCENT reads 100,
and the bytes of a failed entry count as loaded. -/
def preloadPos (s : State) : State :=
  if s.bsc.stage != .preload then s
  else
    let es := preloadList s
    let total := (es.map fun e => slotLen s e.slot).sum
    let before := ((es.take s.bsc.preloadIdx).map fun e => slotLen s e.slot).sum
    let j := jobFor s (.preload s.bsc.preloadIdx)
    let done := before + (j.map (·.done)).getD 0
    let layer := (j.bind fun j => j.shards[j.shard]?).map fun x => if x.layer = 0xFFFF then 0 else x.layer
    { s with bsc := { s.bsc with
        percent := max s.bsc.percent (if total = 0 then 100 else min 100 (done * 100 / total))
        unit := s.bsc.preloadIdx
        layer := layer.getD 0
        offset := (j.map (·.done)).getD 0 } }

/-- A failed entry writes one record and leaves its handle empty (R106). -/
def preloadFailed (i status : Nat) (s : State) : State :=
  match (preloadList s)[i]? with
  | none => s
  | some e => logErr { devErr 0x14 24 s with part := e.part.val, arg0 := e.modelId, arg1 := status, arg2 := i } s

def newJob (o : JobFor) (h : Handle) (p : Part) (swap : Bool) (slot : Option (Fin 32)) (addr len modelId : Nat)
    (pin degraded : Bool) : Job :=
  { owner := o, h := h, part := p, swap := swap, stage := .header, slot := slot, addr := addr, len := len,
    modelId := modelId, pin := pin, degraded := degraded, hdr := ImgHdr.none, tensors := [], shards := [], units := [],
    strips := 0, shard := 0, page := 0, attempt := 0, buf := [], got := none, done := 0, bad := [],
    staging := false, revSlot := none, failedAt := none, frontAt := 0, written := 0, orphan := false }

/-- Start the entries from preloadIdx on, once the flash is READY; FULL follows the last. `k` bounds the
entries. -/
def preloadGo : Nat → State → State
  | 0, s => s
  | k + 1, s =>
    if s.bsc.stage != .preload || !s.jobs.all (fun j => match j.owner with | .preload _ => false | .cmd _ => true) then s
    else
      let i := s.bsc.preloadIdx
      match (preloadList s)[i]? with
      | none => fullEntry s
      | some e =>
        let next := fun (s : State) => preloadGo k { s with bsc := { s.bsc with preloadIdx := i + 1 } }
        let n : Fin 32 := Fin.ofNat 32 e.slot
        if s.flc.fail then next (preloadFailed i 0x21 s)
        else if !s.flc.ready || paused s then preloadPos s
        else if slotState s n != 2 || s.models[e.handle].st != .empty then next (preloadFailed i 0x33 s)
        else preloadPos { s with jobs := s.jobs ++
          [newJob (.preload i) e.handle e.part false (some n) 0 (slotLen s e.slot) e.modelId e.pin e.degraded] }

def preloadAll (s : State) : State := preloadGo ((preloadList s).length + 1) s

/-- TRAIN ends and PRELOAD begins (R104). -/
def startPreload (s : State) : State :=
  let s := enterStage .preload 0 s
  preloadAll { s with bsc := { s.bsc with preloadIdx := 0 } }

/-! ### The end of a job -/

/-- The payload of R175: the model in the handle. -/
def modelPayload (s : State) (h : Handle) : List Byte :=
  let m := s.models[h]
  if m.st == .empty || m.st == .loading then noPayload
  else payloadOf [(0, 8, m.hdr.modelId), (8, 2, m.hdr.layers), (10, 2, m.badLayers.min?.getD 0xFFFF), (12, 2, heldUnits s h)]

/-- The verify units pass to the next swap in admission order (R300), which begins. -/
def nextVerify (s : State) : State :=
  if !verifyFree s then s
  else match s.jobs.find? fun j => j.swap && j.stage == .tables && !j.staging with
    | none => s
    | some j =>
      let s := setJob j.owner (fun j => { j with staging := true }) s
      match j.owner with
      | .cmd id =>
        let s := endWait id s
        if j.slot.isNone then want id j.addr (tablesLen j.hdr) s else s
      | .preload _ => s

/-- A job goes with the reservations it held; a handle that it was filling or swapping is as it was before. -/
def dropJob (o : JobFor) (s : State) : State :=
  match jobFor s o with
  | none => s
  | some j =>
    let s := { s with jobs := s.jobs.filter (·.owner != o) }
    let s := dropObjs (fun b => match b.kind with
      | .model _ l => l == some o
      | .strips _ l => l == some o
      | _ => false) s
    let swaps := s.jobs.any fun k => k.h == j.h && k.swap && k.stage != .header
    let back := fun (m : Model) =>
      if m.st = .loading then Model.empty
      else if m.st = .swapping ∧ j.swap ∧ j.stage ≠ .header ∧ !swaps then
        { m with st := if m.badLayers = [] then .resident else .degraded, front := 0x7FF, barrier := false }
      else if m.st = .evicting ∧ m.units = [] then Model.empty else m
    nextVerify (setModel j.h back s)

/-- A job fails: its command completes, or its PRELOAD entry fails and the next starts. -/
def jobFail (o : JobFor) (status detail : Nat) (refused : Bool) (s : State) : State :=
  let h := ((jobFor s o).map (·.h)).getD 0
  let s := dropJob o s
  match o with
  | .cmd id => finish id status detail refused (if refused then noPayload else modelPayload s h) s
  | .preload i =>
    let s := preloadFailed i status s
    preloadAll { s with bsc := { s.bsc with preloadIdx := i + 1 } }

/-! ### The header (R173, R280 steps 2 to 4, R298) -/

/-- Why a header is turned away. -/
def headerBad (s : State) (j : Job) (b : List Byte) : Except Nat ImgHdr :=
  match parseHeader b with
  | none => .error 6
  | some h =>
    if h.imageLen ≠ j.len then .error 6
    else if j.modelId ≠ 0 ∧ h.modelId ≠ j.modelId then .error 4
    else if 15 * 2 ^ 30 < h.residentLen then .error 6
    else if !j.swap then .ok h
    else
      let m := s.models[j.h].hdr
      let top := (boundTo s j.h).foldl (fun a x => max a x.pos) 0
      if h.layers = m.layers ∧ h.hidden = m.hidden ∧ h.vocab = m.vocab ∧ h.kvPerToken = m.kvPerToken ∧ h.eos = m.eos ∧
          top ≤ h.contextMax ∧ h.rowUnits ≤ m.rowUnits ∧ h.minStrips ≤ heldStrips s j.h then .ok h
      else .error 6

def jobNeeds (s : State) (j : Job) (h : ImgHdr) : List (Nat × Nat) :=
  let l := if j.swap then
      [(1, 32 * (unitsOf h - heldUnits s j.h)), (4, b2n (((j.slot.map fun n => !ownsSlot s j.part n.val)).getD false))]
    else loadNeeds s j.part h j.slot
  l ++ [breathNeed s j.part]

/-- The extra units of a swap, or the space and window of a load, are reserved. -/
def reserveJob (j : Job) (h : ImgHdr) (s : State) : State :=
  let u := if j.swap then unitsOf h - heldUnits s j.h else unitsOf h
  let ext := placeModel s j.part u
  let s := if u = 0 then s else addObj j.part 1 (.model j.h (some j.owner)) ext s
  let s := if j.swap then s else placeObj j.part 2 (.strips j.h (some j.owner)) h.minStrips s
  setJob j.owner (fun k => { k with hdr := h, units := ext, strips := h.minStrips }) s

/-- The header is accepted: quotas, then capacity and start (R280). -/
def headerStep (j : Job) (b : List Byte) (s : State) : State :=
  match headerBad s j b with
  | .error r => jobFail j.owner 0x33 (j.h.val + 0x100 * r) true s
  | .ok h =>
    let ns := jobNeeds s j h
    let s := autoEvict j.part (some j.h) ns s
    match shortTier s j.part ns with
    | some (t, n) => jobFail j.owner 0x20 (t + 8 * min 8191 n) true (quotaLast j.part t n s)
    | none =>
      let s := reserveJob j h s
      match j.owner with
      | .cmd id =>
        let s := decide_ id s
        if (cmdOf s id).isNone then dropJob j.owner s else s
      | .preload _ => match jobFor s j.owner with
        | some k => beginLoad k s
        | none => s

/-! ### Shards of a load (R270, R280 step 7, R281 to R283) -/

/-- The kind 0x2C record of a failed shard, with UNIT 27 where it was read from a slot (R284, R507). -/
def shardFailed (j : Job) (id i layer : Nat) (s : State) : State :=
  logErr { about (jobCmd s j) (devErr 0x2C (if (jobSlot j).isSome then 27 else 30) s) with
    part := j.part.val, arg0 := id, arg1 := i, arg2 := layer } s

/-- The bytes of a shard arrive at their place in resident space; those of a failed one are zero (R283). -/
def placeShard (units : List (Nat × Nat)) (ts : List Tensor) (ss : List Shard) (i : Nat) (b : List Byte) (s : State) : State :=
  putShard units (shardPlace ts ss i) b s

def zeros (n : Nat) : List Byte := List.replicate n 0

/-- The layer plan begins in this shard (R436). -/
def isPlan (ts : List Tensor) (i : Nat) : Bool := ts.any fun t => t.kind == 7 && t.first == i

def ensDevice (s : State) : Option Nat := (ensCfg s).map (·.device)

/-- The strips of an object as they are numbered. -/
def stripsOf (s : State) (k : ObjKind) : List Nat :=
  (s.objs.filter (·.kind == k)).flatMap fun o => o.ext.map (·.1)

/-- The new model replaces what the handle held (R174), and the load completes DONE. -/
def acceptLoad (j : Job) (s : State) : State :=
  let new := stripsOf s (.strips j.h (some j.owner))
  let s := clearDrafts j.h s
  let s := dropObjs (fun o => o.kind == .model j.h none || o.kind == .strips j.h none) s
  let s := { s with
    objs := s.objs.map fun o =>
      if o.kind = .model j.h (some j.owner) then { o with kind := .model j.h none }
      else if o.kind = .strips j.h (some j.owner) then { o with kind := .strips j.h none } else o
    strips := Vector.ofFn fun (i : Fin 64) =>
      if new.contains i.val then { Strip.reset with owner := some (.handle j.h) }
      else if s.strips[i].owner = some (.handle j.h) then Strip.reset else s.strips[i]
    jobs := s.jobs.filter (·.owner != j.owner) }
  let s := setModel j.h (fun m =>
    { st := if m.st = .evicting then .evicting else if j.bad = [] then .resident else .degraded
      owner := j.part
      pinned := m.pinned || j.pin
      hdr := j.hdr
      tensors := j.tensors
      shards := j.shards
      units := j.units
      slot := j.slot
      badLayers := j.bad
      front := 0x7FF
      lastUse := s.tbs.now
      repairing := none
      plan := []
      streamed := 0
      barrier := false }) s
  let s := tryJoin j.h (tellJoin j.h ((s.ens.joins.filter (·.h == j.h)).foldl (fun s r => judgeJoin j.h r s) s))
  match j.owner with
  | .cmd id => finish id 0x00 0 false (modelPayload s j.h) s
  | .preload i => preloadAll { markIdle s with bsc := { s.bsc with preloadIdx := i + 1 } }

/-- The read of the shard that a job reads now begins; `attempt` counts its re-reads. -/
def fetchShard (o : JobFor) (attempt : Nat) (s : State) : State :=
  match jobFor s o with
  | none => s
  | some j => match jobShard s j with
    | none => s
    | some (_, x) =>
      let s := setJob o (fun j => { j with page := x.offset / 16384, buf := [], attempt := attempt }) s
      match o with
      | .cmd id => if (jobSlot j).isNone then want id (j.addr + x.offset) x.length s else s
      | .preload _ => preloadPos s

/-- The next shard is read, or the load is accepted. -/
def nextShard (o : JobFor) (i : Nat) (s : State) : State :=
  let s := setJob o (fun j => { j with shard := i }) s
  match jobFor s o with
  | none => s
  | some j => if i < j.shards.length then fetchShard o 0 s else acceptLoad j s

/-- How the read of a shard ended (R270, R280 step 7); none where the shard is read again. -/
def judgeShard (host : Bool) (x : Shard) (attempt : Nat) : ShardRead → Option ShardRead
  | .good b =>
    if shardOk x host b then some (.good b) else if attempt < (if host then 3 else 8) then none else some .damaged
  | r => some r

/-- A failed shard ends the job (R282). -/
def endsJob (j : Job) (x : Shard) (r : ShardRead) : Bool := r == .transferFailed || !j.degraded || x.layer == 0xFFFF

/-- The split record of a good layer plan (R436); the record known already for another shard. -/
def splitIn (s : State) (j : Job) (i : Nat) (b : List Byte) : Option Split :=
  if isPlan j.tensors i then parseSplit (ensDevice s) j.hdr j.tensors b else j.hdr.split

/-- A shard of a load has been read (R280 to R283, R436). -/
def loadShard (j : Job) (i : Nat) (x : Shard) (r : ShardRead) (s : State) : State :=
  let o := j.owner
  match r with
  | .good b =>
    let sp := splitIn s j i b
    if isPlan j.tensors i && sp.isNone then jobFail o 0x33 (j.h.val + 0x600) false s
    else nextShard o (i + 1) (setJob o (fun j => { j with hdr := { j.hdr with split := sp }, done := x.offset + x.length })
      (placeShard j.units j.tensors j.shards i b s))
  | _ =>
    let s := shardFailed j j.hdr.modelId i x.layer s
    if endsJob j x r then jobFail o 0x41 (corruptDetail s x.layer) false s
    else nextShard o (i + 1) (setJob o (fun j => { j with bad := (j.bad ++ [x.layer]).dedup, done := x.offset + x.length })
      (placeShard j.units j.tensors j.shards i (zeros x.length) s))

/-- A shard of the new image ends the verify phase (R301): the last one, a failed one that degrades nothing, and a layer plan
that is not that of a single device (R437). -/
def endsVerify (s : State) (j : Job) (i : Nat) (x : Shard) (r : ShardRead) : Bool :=
  i + 1 == j.shards.length || match r with
    | .good b => isPlan j.tensors i && !((splitIn s j i b).any fun v => v.stages == 1)
    | _ => endsJob j x r

/-- What a verified shard leaves in its job. -/
def verified (j : Job) (i : Nat) (x : Shard) (r : ShardRead) (s : State) : State :=
  match r with
  | .good b => setJob j.owner (fun k => { k with
      hdr := { k.hdr with split := splitIn s j i b }, done := x.offset + x.length }) s
  | _ => setJob j.owner (fun k => { k with bad := (k.bad ++ [x.layer]).dedup, done := x.offset + x.length })
      (shardFailed j j.hdr.modelId i x.layer s)

/-- A shard of the verify phase has been read; SWAP_VERIFY_END judges the one that ends it. -/
def verifyShard (j : Job) (i : Nat) (x : Shard) (r : ShardRead) (s : State) : State :=
  if endsVerify s j i x r then setJob j.owner (fun k => { k with got := some r }) s
  else fetchShard j.owner 0 (setJob j.owner (fun k => { k with shard := i + 1 }) (verified j i x r s))

/-- The layer that a failed shard makes bad (R295, R304). -/
def badLayerOf (layer : Nat) : Nat := if layer = 0xFFFF then 0 else layer

/-- An old shard comes back from the reversion source, or fails and makes its layer of the old model bad (R304). -/
def revertShard (j : Job) (i : Nat) (x : Shard) (r : ShardRead) (s : State) : State :=
  let m := s.models[j.h]
  let (b, s) := match r with
    | .good b => (b, s)
    | _ => (zeros x.length, setJob j.owner (fun k => { k with bad := (k.bad ++ [badLayerOf x.layer]).dedup })
        (shardFailed j m.hdr.modelId i x.layer s))
  let s := setModel j.h (fun m => { m with front := min m.front x.layer }) (placeShard m.units m.tensors m.shards i b s)
  fetchShard j.owner 0 (setJob j.owner (fun k => { k with shard := k.shard + 1, done := k.done + x.length }) s)

/-- The read of the job's shard has ended. -/
def shardRead (j : Job) (r : ShardRead) (s : State) : State :=
  match jobShard s j with
  | none => s
  | some (i, x) => match judgeShard (jobSlot j).isNone x j.attempt r with
    | none => fetchShard j.owner (j.attempt + 1) s
    | some r => match j.stage with
      | .shards => loadShard j i x r s
      | .verify => verifyShard j i x r s
      | .write => setJob j.owner (fun k => { k with got := some r }) s
      | .revert => revertShard j i x r s
      | _ => s

/-- The tables and the signature (R280 steps 5 and 6). -/
def tablesStep (j : Job) (b : List Byte) (s : State) : State :=
  if !tablesOk j.hdr b || !imageSigOk s.fuses j.hdr b then jobFail j.owner 0x33 (j.h.val + 0x600) false s
  else fetchShard j.owner 0 (setJob j.owner (fun j => { j with
    tensors := tensorsOf j.hdr b
    shards := shardsOf j.hdr b
    shard := 0
    done := tablesLen j.hdr
    stage := if j.swap then .verify else .shards }) s)

/-- What a job was reading has been read. -/
def itemEnd (o : JobFor) (r : ShardRead) (s : State) : State :=
  match jobFor s o with
  | none => s
  | some j => match j.stage, r with
    | .header, .good b => headerStep j b s
    | .tables, .good b => tablesStep j b s
    | .header, _ | .tables, _ => jobFail o 0x41 (corruptDetail s 0xFFFF) false s
    | _, _ => shardRead j r s

/-- A page of what is read arrives, with its uncorrectable codewords of 4,096 bytes: the end of the read, or the bytes so far. -/
def pageItem (off len page : Nat) (buf bytes : List Byte) (lost : List Nat) : Except ShardRead (List Byte) :=
  let base := 16384 * page
  let buf := buf ++ bytes
  if lost.any fun i => base + 4096 * i < off + len && off < base + 4096 * (i + 1) then .error .damaged
  else if base + 16384 < off + len then .ok buf
  else .error (.good (slice buf (off % 16384) len))

/-- A flash page of a job. -/
def jobPage (j : Job) (bytes : List Byte) (lost : List Nat) (s : State) : State :=
  match wanted s j with
  | none => s
  | some (off, len) => match pageItem off len j.page j.buf bytes lost with
    | .ok buf => preloadPos (setJob j.owner (fun j => { j with page := j.page + 1, buf := buf }) s)
    | .error r => itemEnd j.owner r s

/-! ### MODEL_LOAD and MODEL_SWAP begin (R173, R280 step 1) -/

/-- The image of a waiting command: its slot is judged, and its header is read. -/
def openImage (id : Nat) (s : State) : State :=
  let s := if (jobFor s (.cmd id)).isSome then s else admitCmd id s
  match cmdOf s id with
  | none => s
  | some c =>
    if c.phase ≠ .waiting ∨ blocked s c ∨ (jobFor s (.cmd id)).isSome ∨ paused s then s
    else
      let deg := bitAt (c.byte 18) 1
      let pin := c.op == 0x10 && bitAt (c.byte 18) 0
      if c.byte 16 = 1 then
        let n : Fin 32 := Fin.ofNat 32 (c.byte 17)
        let st := slotState s n
        if st ≠ 2 then refuse id 0x33 (c.model + 0x100 * if st = 4 ∨ st = 5 then 5 else 6) s
        else { s with jobs := s.jobs ++
          [newJob (.cmd id) c.handle c.part (c.op == 0x11) (some n) 0 s.nand.slots[n].len (c.field 40 8) pin deg] }
      else if c.field 32 4 < 256 then refuse id 0x33 (c.model + 0x600) s
      else want id (c.field 24 8) 256 { s with jobs := s.jobs ++
        [newJob (.cmd id) c.handle c.part (c.op == 0x11) none (c.field 24 8) (c.field 32 4) (c.field 40 8) pin deg] }

/-! ### Swap (R300 to R304, R307) -/

/-- The swap whose phase has come to an end that is to be judged. -/
def swapAt (s : State) (st : JobStage) : Option (Job × ShardRead) :=
  s.jobs.findSome? fun j => if j.swap && j.stage == st then j.got.map fun r => (j, r) else none

/-- SWAP_VERIFY_END: the last shard of the new image has been verified, or a failure ends the swap as a failed load ends
(R301). -/
def swapVerifyEnd (s : State) : State :=
  match swapAt s .verify with
  | none => s
  | some (j, r) => match j.shards[j.shard]? with
    | none => s
    | some x =>
      let plan : Bool := match r with
        | .good b => isPlan j.tensors j.shard && !((splitIn s j j.shard b).any fun v => v.stages == 1)
        | _ => false
      if plan then jobFail j.owner 0x33 (j.h.val + 0x600) false s
      else
        let s := verified j j.shard x r s
        if !(match r with | .good _ => true | _ => false) && endsJob j x r then
          jobFail j.owner 0x41 (corruptDetail s x.layer) false s
        else setJob j.owner (fun k => { k with stage := .write, shard := 0, done := 0, got := none }) s

/-- The waits of the commands that name the handle begin or end (R295, R302). -/
def syncHandle (h : Handle) (s : State) : State := syncHolds (ofHandle h) s

/-- SWAP_WRITE_START: no pass runs on the handle, the barrier goes up (R302), and the first shard is read again. -/
def swapWriteStart (s : State) : State :=
  match s.jobs.find? fun j => j.swap && j.stage == .write with
  | none => s
  | some j =>
    if (passOf s (.handle j.h)).isSome || s.models[j.h].barrier then s
    else fetchShard j.owner 0 (syncHandle j.h (setModel j.h (fun m => { m with barrier := true }) s))

/-- The extents of the new model: the old units, then the extra ones. -/
def swapUnits (s : State) (j : Job) : List (Nat × Nat) := s.models[j.h].units ++ j.units

/-- The first `n` granules of extents. -/
def takeGranules : Nat → List (Nat × Nat) → List (Nat × Nat)
  | _, [] => []
  | n, (a, k) :: rest => if n = 0 then [] else if n ≤ k then [(a, n)] else (a, k) :: takeGranules (n - k) rest

/-- The record of a swap that ended other than DONE (R306). -/
def swapRecord (j : Job) (front why : Nat) (s : State) : State :=
  logErr { about (jobCmd s j) (devErr 0x32 21 s) with
    part := s.models[j.h].owner.val, arg0 := j.hdr.modelId, arg1 := front, arg2 := why } s

/-- The window is emptied when the bytes of its model have changed. -/
def emptyWindow (h : Handle) (s : State) : State :=
  setModel h (fun m => { m with plan := [], streamed := 0 }) { s with
    strips := s.strips.map fun t => if t.owner = some (.handle h) then { Strip.reset with owner := t.owner } else t }

/-- The command of a swap completes, unless a reset took it. -/
def swapFinish (j : Job) (status detail : Nat) (s : State) : State :=
  match j.owner with
  | .cmd id => nextVerify (finish id status detail false (modelPayload s j.h) s)
  | .preload _ => nextVerify s

/-- The barrier lifts, and the held commands go on (R302). -/
def liftBarrier (h : Handle) (s : State) : State := syncHandle h (setModel h (fun m => { m with barrier := false, front := 0x7FF }) s)

/-- All shards are written: the new model stands in the handle. -/
def swapDone (j : Job) (s : State) : State :=
  let units := takeGranules (32 * unitsOf j.hdr) (swapUnits s j)
  let s := { s with jobs := s.jobs.filter (·.owner != j.owner) }
  let s := dropObjs (fun o => o.kind == .model j.h none || o.kind == .model j.h (some j.owner)) s
  let s := addObj s.models[j.h].owner 1 (.model j.h none) units s
  let s := emptyWindow j.h (setModel j.h (fun m => { m with
    st := if j.bad = [] then .resident else .degraded
    hdr := j.hdr
    tensors := j.tensors
    shards := j.shards
    units := units
    slot := j.slot
    badLayers := j.bad }) s)
  let s := liftBarrier j.h s
  match j.failedAt with
  | some _ => swapFinish j 0x40 (j.bad.min?.getD 0) (swapRecord j j.frontAt 2 s)
  | none => swapFinish j 0x00 0 s

/-- The number of leading layers whose shards all stand among the first `n` of the write order (R303). -/
def frontOf (j : Job) (n : Nat) : Nat :=
  let left := (writeOrder j.shards).drop n
  let pending := left.filterMap fun i => (j.shards[i]?).map (·.layer)
  min j.hdr.layers (pending.min?.getD j.hdr.layers)

/-- A shard of the write phase is written, or zeroed when it failed without a source to revert to (R304); the next one is read. -/
def swapPut (j : Job) (i : Nat) (b : List Byte) (s : State) : State :=
  let s := placeShard (swapUnits s j) j.tensors j.shards i b s
  let n := j.shard + 1
  let f := frontOf j n
  let old := s.models[j.h].front
  let s := setModel j.h (fun m => { m with front := f }) s
  let s := (List.range (f - old)).foldl (fun s _ => report 35 s) s
  let s := setJob j.owner (fun k => { k with shard := n, written := n, got := none, done := k.done + b.length }) s
  if n < j.shards.length then fetchShard j.owner 0 s
  else match jobFor s j.owner with
    | some k => swapDone k s
    | none => s

/-- The writing stops, and the old shards that it overlapped are read from the reversion source (R304, R307). -/
def startRevert (owner : JobFor) (s : State) : State :=
  fetchShard owner 0 (setJob owner (fun k => { k with stage := .revert, shard := 0, got := none, bad := [], done := 0 }) s)

/-- SWAP_SHARD_WRITTEN: the next shard of the write phase was read and checked, and is written, or it has failed (R304). -/
def swapShard (s : State) : State :=
  match swapAt s .write with
  | none => s
  | some (j, r) => match (writeOrder j.shards)[j.shard]? with
    | none => s
    | some i => match r, j.shards[i]? with
      | _, none => s
      | .good b, some _ => swapPut j i b s
      | _, some x =>
        let front := s.models[j.h].front
        let fail := fun (s : State) => setJob j.owner (fun k => { k with
          failedAt := k.failedAt.or (some x.layer)
          frontAt := if k.failedAt.isNone then front else k.frontAt }) s
        let zero := fun (s : State) => swapPut ((jobFor s j.owner).getD j) i (zeros x.length)
          (setJob j.owner (fun k => { k with bad := (k.bad ++ [badLayerOf x.layer]).dedup }) s)
        let s := shardFailed j j.hdr.modelId i x.layer s
        if j.degraded && x.layer != 0xFFFF then zero s
        else if j.revSlot.isSome then startRevert j.owner (fail s)
        else zero (fail s)

/-- SWAP_REVERT_END: every old shard that the write phase overlapped has come back, or has failed (R304, R307). -/
def swapRevertEnd (s : State) : State :=
  match s.jobs.find? fun j => j.swap && j.stage == .revert with
  | none => s
  | some j =>
    if j.shard < (oldShards s j).length then s
    else
      let layers := (s.models[j.h].badLayers ++ j.bad).dedup
      let s := { s with jobs := s.jobs.filter (·.owner != j.owner) }
      let s := dropObjs (fun o => o.kind == .model j.h (some j.owner)) s
      let s := liftBarrier j.h (emptyWindow j.h (setModel j.h (fun m => { m with
        st := if layers = [] then .resident else .degraded
        badLayers := layers }) s))
      let s := swapRecord j j.frontAt (if j.orphan then 3 else if j.bad = [] then 1 else 2) s
      let first := j.failedAt.getD 0
      if j.bad = [] then swapFinish j 0x04 (if first = 0xFFFF then 0xFF else first) s
      else swapFinish j 0x40 (layers.min?.getD 0) s

def execSwapRevertEnd (s : State) : Host.Outcome State Fault Refusal := live s swapRevertEnd

/-- The write phase of the swap has begun (R300, R302). -/
def hasWritten (s : State) (j : Job) : Bool := j.swap && ((j.stage == .write && s.models[j.h].barrier) || j.stage == .revert)

/-- A reset, or the end of its command, strikes a swap in its write phase (R307): it reverts, or without a source layer 0
becomes bad. -/
def swapReset (j : Job) (s : State) : State :=
  let front := s.models[j.h].front
  let s := setJob j.owner (fun k => { k with orphan := true }) s
  if j.stage = .revert then s
  else if j.revSlot.isSome then startRevert j.owner (setJob j.owner (fun k => { k with frontAt := front }) s)
  else
    let s := { s with jobs := s.jobs.filter (·.owner != j.owner) }
    let s := dropObjs (fun o => o.kind == .model j.h (some j.owner)) s
    let s := emptyWindow j.h (setModel j.h (fun m => { m with
      st := .degraded
      badLayers := (m.badLayers ++ [0]).dedup }) s)
    nextVerify (swapRecord j front 3 (liftBarrier j.h s))

/-- A load or swap whose command an access fault has ended goes too; a swap that writes ends as a reset ends it. -/
def dropOrphans (s : State) : State :=
  let gone := s.jobs.filter fun j => match j.owner with
    | .cmd id => !j.orphan && (cmdOf s id).isNone
    | .preload _ => false
  gone.foldl (fun s j => if hasWritten s j then swapReset j s else dropJob j.owner s) s

def execSwapVerifyEnd (s : State) : Host.Outcome State Fault Refusal := live s swapVerifyEnd
def execSwapWriteStart (s : State) : Host.Outcome State Fault Refusal := live s fun s => dropOrphans (swapWriteStart s)
def execSwapShardWritten (s : State) : Host.Outcome State Fault Refusal := live s fun s => dropOrphans (swapShard s)

def execModelLoad (id : Nat) (s : State) : Host.Outcome State Fault Refusal :=
  live s fun s => if ((cmdOf s id).map (·.op)) = some 0x10 then dropOrphans (openImage id s) else s
def execModelSwap (id : Nat) (s : State) : Host.Outcome State Fault Refusal :=
  live s fun s => if ((cmdOf s id).map (·.op)) = some 0x11 then dropOrphans (openImage id s) else s

/-! ### Repair (R294, R295) -/

/-- A resident byte as the slot holds it, or as it stands where no shard covers it. -/
def slotByte (s : State) (m : Model) (n : Fin 32) (o : Nat) : Byte :=
  let hit := (List.range m.shards.length).find? fun i => match m.shards[i]? with
    | some x => shardPlace m.tensors m.shards i ≤ o && o < shardPlace m.tensors m.shards i + x.length
    | none => false
  match hit with
  | some i => (slotBytes s n (((m.shards[i]?).map (·.offset)).getD 0 + (o - shardPlace m.tensors m.shards i)) 1).headD 0
  | none => memByte s.mem (residentAddr m.units o)

/-- The 32-byte blocks of a shard are rewritten, neighbours included (R295 step 2). -/
def rewriteBlocks (h : Handle) (n : Fin 32) (i : Nat) (b : List Byte) (s : State) : State :=
  let m := s.models[h]
  let a := shardPlace m.tensors m.shards i
  let lo := a / 32 * 32
  let hi := ceilDiv (a + b.length) 32 * 32
  let before := (List.range (a - lo)).map fun k => slotByte s m n (lo + k)
  let after := (List.range (hi - (a + b.length))).map fun k => slotByte s m n (a + b.length + k)
  putShard m.units lo (before ++ b ++ after) s

/-- A repair ends (R295): one record of kind 0x31; a layer that could not be repaired is bad. Passes resume. -/
def repairDone (h : Handle) (i : Nat) (ok : Bool) (s : State) : State :=
  let m := s.models[h]
  let layer := badLayerOf (((m.shards[i]?).map (·.layer)).getD 0xFFFF)
  let s := setModel h (fun m => { m with
    repairing := none
    st := if ok ∨ m.st ≠ .resident then m.st else .degraded
    badLayers := if ok then m.badLayers else (m.badLayers ++ [layer]).dedup }) s
  let s := { s with str := { s.str with
    repaired := if ok then satAdd 65535 s.str.repaired 1 else s.str.repaired
    badRepairs := if ok then s.str.badRepairs else satAdd 65535 s.str.badRepairs 1 } }
  let s := logErr { devErr 0x31 21 s with
    part := m.owner.val, arg0 := m.hdr.modelId, arg1 := i, arg2 := b2n !ok } s
  let s := syncHandle h (markIdle s)
  if ok then s else tellJoin h s

/-- The shard that holds a resident address of a model. -/
def shardAt (m : Model) (a : Nat) : Option Nat :=
  (List.range m.shards.length).find? fun i => match m.shards[i]? with
    | some x =>
      let o := shardPlace m.tensors m.shards i
      (List.range (x.length / granule + 2)).any fun k =>
        let at_ := if k = 0 then o else (o / granule + k) * granule
        at_ < o + x.length && residentAddr m.units at_ ≤ a &&
          a < residentAddr m.units at_ + min (granule - at_ % granule) (o + x.length - at_)
    | none => false

/-- The read of a shard for its repair begins, again for the re-reads of R270. -/
def readRepair (h : Handle) (i attempt : Nat) (s : State) : State :=
  let at_ := (((s.models[h].shards[i]?).map (·.offset)).getD 0) / 16384
  setModel h (fun m => { m with repairing := some { shard := i, page := at_, attempt := attempt, buf := [], got := none } }) s

/-- Repair starts; a model that is not repairable takes the bad layer at once (R295). -/
def startRepair (h : Handle) (i : Nat) (s : State) : State :=
  if s.models[h].repairing.isSome then s
  else if repairable s h then syncHandle h (readRepair h i 0 s)
  else repairDone h i false s

/-- A flash page of a repair. -/
def repairPage (h : Handle) (bytes : List Byte) (lost : List Nat) (s : State) : State :=
  match s.models[h].repairing, repairShard s h with
  | some r, some x =>
    let put := fun (r : Repair) (s : State) => setModel h (fun m => { m with repairing := some r }) s
    (match pageItem x.offset x.length r.page r.buf bytes lost with
    | .ok buf => put { r with page := r.page + 1, buf := buf } s
    | .error g => match judgeShard false x r.attempt g with
      | none => readRepair h r.shard (r.attempt + 1) s
      | some g => put { r with got := some g } s)
  | _, _ => s

/-- REPAIR_END: the shard has been read and checked in the staging units, which no load holds, or it cannot be repaired. -/
def repairEnd (s : State) : State :=
  match repairNow s with
  | none => s
  | some h =>
    let m := s.models[h]
    match m.repairing with
    | none => s
    | some r => match r.got, m.slot with
      | some (.good b), some n =>
        if repairable s h then repairDone h r.shard true (rewriteBlocks h n r.shard b s) else repairDone h r.shard false s
      | some _, _ =>
        let layer := ((m.shards[r.shard]?).map (·.layer)).getD 0xFFFF
        repairDone h r.shard false (logErr { devErr 0x2C 27 s with
          part := m.owner.val, arg0 := m.hdr.modelId, arg1 := r.shard, arg2 := layer } s)
      | none, _ => if repairable s h then s else repairDone h r.shard false s

def execRepairEnd (s : State) : Host.Outcome State Fault Refusal := live s repairEnd

/-! ### The STR registers (R305, R309) -/

def percentOf (j : Job) (len : Nat) : Nat := if len = 0 then 0 else min 100 (j.done * 100 / len)

/-- The byte offset within the image that a job reads (R305). -/
def jobOffset (s : State) (j : Job) : Nat := match j.stage with
  | .write | .revert => ((jobShard s j).map fun x => x.2.offset).getD j.done
  | _ => j.done

/-- The image that the phase of a job reads: the old one in a revert. -/
def jobLen (s : State) (j : Job) : Nat := if j.stage = .revert then s.models[j.h].hdr.imageLen else j.hdr.imageLen

def swapPhase (j : Job) : Nat := match j.stage with
  | .write => 2 | .revert => 3 | .header => 0 | _ => 1

def countStrips (s : State) (t : StripSt) : Nat := (s.strips.toList.filter (·.st == t)).length

/-- MARK of STR_HANDLE: the swap front, or the first bad layer. -/
def markOf (m : Model) : Nat :=
  if m.st = .swapping then m.front else if m.st = .degraded then m.badLayers.min?.getD 0x7FF else 0x7FF

def handleWord (s : State) (h : Handle) : Nat :=
  let m := s.models[h]
  let sw := s.jobs.find? fun j => j.h == h && j.swap && j.stage != .header
  let rep := match sw with
    | some j => j.revSlot.isSome
    | none => m.st != .empty && repairable s h
  modelStCode m.st + 0x10 * m.owner.val + 0x80 * b2n m.pinned + 0x100 * ((m.slot.map (·.val)).getD 0)
    + 0x2000 * b2n m.slot.isSome + 0x4000 * b2n rep + 0x10000 * markOf m

def strRead (off : Nat) (s : State) : Option Word :=
  let j := s.jobs.find? fun j => j.swap && j.staging
  match off with
  | 0xB000 => some (w32 s.str.runaheadMax)
  | 0xB004 => some (w32 s.str.autoEvict.toNat)
  | 0xB008 => some (w32 (countStrips s .filling + 0x100 * countStrips s .ready + 0x10000 * countStrips s .inUse
      + 0x1000000 * b2n (s.models.toList.any fun m => m.repairing.isSome)))
  | 0xB00C =>
    let waits := s.jobs.any fun j => j.swap && j.stage == .tables && !j.staging
    some (w32 (match j with
      | some j => j.h.val + 0x40 * swapPhase j + 0x100 * percentOf j (jobLen s j) + 0x10000 * (s.models[j.h].front % 0x800)
          + 0x8000000 * b2n waits
      | none => 0x8000000 * b2n waits))
  | 0xB010 => some (w32 (((j.map (jobOffset s)).getD 0) / 16384))
  | 0xB014 => some (w32 s.str.fills)
  | 0xB018 => some (w32 s.str.stall)
  | 0xB01C => some (w32 (s.str.repaired + 0x10000 * s.str.badRepairs))
  | _ =>
    if off % 4 ≠ 0 then none
    else if 0xB100 ≤ off ∧ off < 0xB200 then some (w32 (handleWord s (Fin.ofNat 64 ((off - 0xB100) / 4))))
    else if 0xB200 ≤ off ∧ off < 0xB300 then some (w32 ((s.models[Fin.ofNat 64 ((off - 0xB200) / 4)]).lastUse / 2 ^ 20))
    else none

def strReadEff (off : Nat) (s : State) : State :=
  match off with
  | 0xB014 => { s with str := { s.str with fills := 0 } }
  | 0xB018 => { s with str := { s.str with stall := 0 } }
  | 0xB01C => { s with str := { s.str with repaired := 0, badRepairs := 0 } }
  | _ => s

def strWrite (off : Nat) (v : Word) (s : State) : Option State :=
  match off with
  | 0xB000 =>
    let n := bits v.toNat 4 0
    if n = 0 ∨ 16 < n then some (regRefused off v 1 s) else some { s with str := { s.str with runaheadMax := n } }
  | 0xB004 => some { s with str := { s.str with autoEvict := BitVec.ofNat 8 v.toNat } }
  | _ => (strRead off s).map fun _ => s

end Sys2Proof.Machine
end

