-- ==== Sys2Proof/Machine/Flash.lean ====
section
/-! DEFINITION. The flash controller (11): start-up (R266), page reads and retry (R269 to R271), refresh (R272), writes
and erases (R268, R273, R274), and the FLC registers (R286). -/

namespace Sys2Proof.Machine

/-! ### Early service fails to start (R107) -/

def earlyFailed (id status : Nat) (s : State) : State :=
  if (earlyCfg s).isNone || s.bsc.earlyFail || s.bsc.early then s
  else logErr { devErr 0x15 24 s with arg0 := id, arg1 := status } { s with bsc := { s.bsc with earlyFail := true } }

/-! ### FLASH_INIT_COMPLETE (R266) -/

def badCopies (copies : List Bool) : List Nat := (List.range 4).filter fun i => !(copies.getD i false)

/-- Fresh metadata after all four copies are lost: no marks, and the blocks of the pool are erased. -/
def freshMeta (factoryBad : List Nat) (s : State) : State :=
  let inPool := fun (n : Nat) => 16 ≤ n && n < 80 && !factoryBad.contains n
  let old := s.nand.blocks.map fun b =>
    if inPool b.num then { b with retired := false, pe := b.pe + 1, reads := 0, mark := 0, offset := 0, flagged := [] }
    else { b with retired := factoryBad.contains b.num, mark := 0 }
  let new := (factoryBad.filter fun n => !(old.any (·.num == n))).map fun n =>
    { num := n, retired := true, pe := 0, reads := 0, mark := 0, offset := 0, flagged := [] : NandBlock }
  let pool := ((List.range 64).map (· + 16)).filter inPool
  { s with nand := { s.nand with
      slots := Vector.ofFn fun (n : Fin 32) =>
        if (slotCfg s n).isSome then { st := 3, len := 0, id := 0 } else { st := 0, len := 0, id := 0 }
      remap := []
      blocks := old ++ new
      pages := s.nand.pages.filter fun q => !pool.contains (q.1 / 768)
      pool := pool } }

/-- A slot found in WRITING or ERASING at start reads PARTIAL (R268). -/
def settleSlots (s : State) : State :=
  { s with nand := { s.nand with slots := s.nand.slots.map fun x =>
      if x.st = 4 ∨ x.st = 5 then { st := 3, len := 0, id := 0 } else x } }

/-- Commands that wait for READY complete with capacity code 9. -/
def refuseFlash (s : State) : State :=
  ((s.cmds.filter fun c => c.usesFlash && !c.admitted).map (·.id)).foldl (fun s id => refuse id 0x21 9 s) s

def flashInit (failed : Option (Fin 2)) (copies : List Bool) (factoryBad : List Nat) (s : State) : State :=
  if !flashPart s || !islRuns s 27 || s.flc.ready || s.flc.fail || muted s || stageCode s.bsc.stage ≤ 3 then s
  else match failed with
    | some ch =>
      let s := logErr { devErr 0x2E 27 s with arg1 := 3, arg2 := ch.val } { s with flc := { s.flc with fail := true } }
      preloadAll (earlyFailed 0 0x21 (refuseFlash s))
    | none =>
      let bad := badCopies copies
      let s := if bad.length = 4 then
          freshMeta factoryBad (logErr { devErr 0x2B 27 s with arg1 := 0xFF }
            { s with flc := { s.flc with metaLost := true } })
        else settleSlots (bad.foldl (fun s i => logErr { devErr 0x2B 27 s with arg1 := i } s) s)
      preloadAll { s with flc := { s.flc with ready := true } }

def execFlashInitComplete (failed : Option (Fin 2)) (copies : List Bool) (factoryBad : List Nat) (s : State) :
    Host.Outcome State Fault Refusal := live s (flashInit failed copies factoryBad)

/-! ### FLASH_PAGE_READ -/

/-- A read-retry offset that the sequence of R269 can end with. -/
def cwOk (first : Nat) (r : CwRead) : Bool := match r.offset with
  | some k => k.val == first || k.val != 0
  | none => true

/-- A page has been read: its codewords are counted, and its bytes go to who wants them. -/
def readPage (who : FlashReader) (b p : Nat) (cws : List CwRead) (s : State) : State :=
  let lost := lostOf s b p cws
  let s := readCws b p (firstOffset s b who) (readerPart s who) (readerCmd s who) cws s
  match who with
  | .early k => { s with flc := { s.flc with early := s.flc.early ++ [(k, lost)] } }
  | .job o => match jobFor s o with
    | some j => dropOrphans (jobPage j (nandPage s b p) lost s)
    | none => s
  | .repair h => repairPage h (nandPage s b p) lost s

/-- A page read of 4 codewords, the one that its channel serves next (R265), under the channel's lease. -/
def flashPageRead (b p : Nat) (cws : List CwRead) (s : State) : State :=
  if !s.flc.ready || !islRuns s 27 || cws.length != 4 || muted s then s
  else match nextRead s (b % 2) with
    | none => s
    | some (who, b', p') =>
      if b' ≠ b ∨ p' ≠ p ∨ !(cws.all (cwOk (firstOffset s b who))) then s
      else withFlash [b % 2] (readerTag s who) (readPage who b p cws) s

def execFlashPageRead (b p : Nat) (cws : List CwRead) (s : State) : Host.Outcome State Fault Refusal :=
  live s (flashPageRead b p cws)

/-! ### FLASH_PATROL and BLOCK_REFRESH_COMPLETE (R271, R272) -/

/-- The pages that a patrol reads: every image page of every WRITTEN slot, as block and page. -/
def patrolPages (s : State) : List (Nat × Nat) :=
  ((List.range 32).map (Fin.ofNat 32)).flatMap fun n =>
    if slotState s n ≠ 2 then [] else (List.range (s.nand.slots[n].len / 16384)).filterMap (pagePlace s n)

/-- One page of a patrol, read as any other. -/
def patrolPage (q : Nat × Nat) (cws : List CwRead) (s : State) : State :=
  readCws q.1 q.2 (blockOfNand s q.1).offset 0xFF none cws s

/-- FLASH_PATROL: four codewords of each page in the order of patrolPages, when a period of PATROL hours has passed and no
operation of a higher class is wanted, under SYSTEM-tagged leases of both channels. -/
def flashPatrol (reads : List CwRead) (s : State) : State :=
  let qs := patrolPages s
  if !s.flc.ready || s.flc.patrol == 0 || !islRuns s 27 || muted s || !patrolTurn s || reads.length != 4 * qs.length ||
      s.clk < s.flc.patrolAt + 3600000000000 * s.flc.patrol then s
  else withFlash [0, 1] .system (fun s =>
    qs.zipIdx.foldl (fun s q => patrolPage q.1 ((reads.drop (4 * q.2)).take 4) s)
      { s with flc := { s.flc with patrolAt := s.clk } }) s

def execFlashPatrol (reads : List CwRead) (s : State) : Host.Outcome State Fault Refusal := live s (flashPatrol reads)

/-- A block is retired: one record of kind 0x28; `why` 1 program, 2 erase (R284). -/
def retire (b why part : Nat) (who : Option Cmd) (s : State) : State :=
  let pe := (blockOfNand s b).pe
  logErr { about who (devErr 0x28 27 s) with part := part, arg0 := b, arg1 := pe, arg2 := why }
    (setBlock b (fun x => { x with retired := true, mark := 0 }) s)

/-- A block is erased. -/
def eraseBlock (b : Nat) (s : State) : State :=
  let s := setBlock b (fun x => { x with pe := x.pe + 1, reads := 0, mark := 0, offset := 0, flagged := [] }) s
  { s with nand := { s.nand with pages := s.nand.pages.filter fun q => q.1 / 768 != b } }

/-- The pool has lost a block; one record when none is left (R284). -/
def leavePool (s : State) : State :=
  let s := { s with nand := { s.nand with pool := s.nand.pool.tail } }
  if s.nand.pool.isEmpty then logErr { devErr 0x2D 27 s with arg1 := (markedBlocks s).length } s else s

/-- X is copied to Y, which takes its place; X is erased and joins the pool. -/
def moveBlock (x y : Nat) (lost : List (Nat × Nat)) (s : State) : State :=
  let bx := blockOfNand s x
  let s := (lost.filter fun (l : Nat × Nat) => !bx.flagged.contains (4 * l.1 + l.2)).foldl (fun s (l : Nat × Nat) => cwLost x l.1 0xFF none s) s
  let flags := (bx.flagged ++ lost.map fun (l : Nat × Nat) => 4 * l.1 + l.2).dedup
  let copies := (s.nand.pages.filter fun q => q.1 / 768 == x).map fun q => (768 * y + q.1 % 768, q.2)
  let orig := ((s.nand.remap.find? (·.2 == x)).map (·.1)).getD x
  let s := { s with nand := { s.nand with
    pages := (s.nand.pages.filter fun q => q.1 / 768 != y) ++ copies
    remap := (orig, y) :: s.nand.remap.filter (·.1 != orig)
    pool := s.nand.pool.tail ++ [x] } }
  let s := eraseBlock x (setBlock y (fun b => { b with reads := 0, mark := 0, offset := 0, flagged := flags }) s)
  logErr { devErr 0x2A 27 s with arg0 := y, arg1 := x, arg2 := bx.mark }
    { s with flc := { s.flc with refreshes := satAdd 65535 s.flc.refreshes 1 } }

def blockRefresh (lost : List (Nat × Nat)) (failed : Bool) (s : State) : State :=
  if !s.flc.ready || !islRuns s 27 || muted s then s
  else match markedBlocks s, s.nand.pool with
    | x :: _, y :: _ =>
      if !refreshTurn s (x % 2) || !refreshTurn s (y % 2) then s
      else withFlash [x % 2, y % 2] .system
        (fun s => if failed then leavePool (retire y 1 0xFF none s) else moveBlock x y lost s) s
    | _, _ => s

def execBlockRefreshComplete (lost : List (Nat × Nat)) (failed : Bool) (s : State) :
    Host.Outcome State Fault Refusal := live s (blockRefresh lost failed)

/-! ### Writes and erases (R195, R268, R273, R274) -/

def setOp (f : FlashOp → FlashOp) (s : State) : State := { s with flc := { s.flc with op := s.flc.op.map f } }

/-- The operation ends: FLC_LAST, source 34 and its record (R195, R274). -/
def endOp (o : FlashOp) (status detail id : Nat) (s : State) : State :=
  let s := { s with flc := { s.flc with
    op := none
    lastStatus := status
    lastSlot := o.slot
    lastValid := true
    lastRetired := o.retired
    lastId := id } }
  let pay := payloadOf [(0, 8, id), (8, 4, o.done), (12, 2, o.retired)]
  report 34 (finish o.cmd status detail false pay s)

/-- The image still fits the good blocks of its slot. -/
def fits (s : State) (o : FlashOp) : Bool := o.hdr.imageLen ≤ 12582912 * (goodBlocks s o.slot).length

/-- A write ends with its slot erased. -/
def failWrite (o : FlashOp) (status detail : Nat) (s : State) : State := endOp o status detail 0 (setSlot o.slot 1 0 0 s)

/-- A write whose command an access fault has ended, with nothing programmed, ends with that status (R127, R130). -/
def endIfGone (s : State) : State :=
  match s.flc.op with
  | some o => if (cmdOf s o.cmd).isNone then failWrite o 0x31 0xFFFF s else s
  | none => s

/-- Item i of a write: the bytes up to the first shard, or from shard i − 1 up to the next shard or the end. -/
def itemRange (o : FlashOp) (i : Nat) : Nat × Nat :=
  let at_ := fun (k : Nat) => ((o.shards[k]?).map (·.offset)).getD o.hdr.imageLen
  if i = 0 then (0, at_ 0) else (at_ (i - 1), at_ i - at_ (i - 1))

def wantItem (s0 : State) (o : FlashOp) (i : Nat) : State :=
  let base := ((cmdOf s0 o.cmd).map fun c => c.field 24 8).getD 0
  let (a, n) := itemRange o i
  want o.cmd (base + a) n s0

/-- The program pass begins with the header and the tables. -/
def startProgram (o : FlashOp) (s : State) : State :=
  endIfGone (wantItem (setOp (fun o => { o with checking := false, clearing := false, shard := 0, page := 0, buf := [], done := 0 }) s)
    o 0)

/-- The blocks still to erase are done with: an erase is complete, a failed write ends, or the program pass starts again where the
image still fits (R273, R274). -/
def erased (s : State) : State :=
  match s.flc.op with
  | none => s
  | some o =>
    if !o.blocks.isEmpty then s
    else if o.erase then endOp o 0x00 0 0 (setSlot o.slot 1 0 0 s)
    else match o.fail with
      | some (st, d) => failWrite o st d s
      | none => if fits s o then startProgram o s else failWrite o 0x41 (corruptDetail s 0xFFFF) s

/-- The slot is erased before the write starts again or ends. -/
def clearSlot (fail : Option (Nat × Nat)) (s : State) : State :=
  erased (setOp (fun o => { o with clearing := true, checking := false, fail := fail, blocks := goodBlocks s o.slot }) s)

/-- A write whose command an access fault has ended (R127, R130): in the check pass the slot is ERASED at once, in the program
pass it is erased. -/
def dropWrite (s : State) : State :=
  match s.flc.op with
  | some o =>
    if (cmdOf s o.cmd).isSome || o.erase || o.clearing then s
    else if o.checking then failWrite o 0x31 0xFFFF s
    else clearSlot (some (0x31, 0xFFFF)) s
  | none => s

/-- FLASH_BLOCK_ERASED: the next block is erased, or retired when it fails. -/
def blockErased (failed : Bool) (s : State) : State :=
  match s.flc.op with
  | none => s
  | some o => match o.blocks with
    | [] => s
    | b :: rest =>
      if !(o.erase || o.clearing) || !islRuns s 27 || !dieFree s b then s
      else withFlash [b % 2] (.part 0) (fun s =>
        let s := if failed then retire b 2 0 (cmdOf s o.cmd) s else eraseBlock b s
        erased (setOp (fun o => { o with
          blocks := rest
          done := if o.erase && !failed then o.done + 1 else o.done
          retired := o.retired + b2n failed }) s)) s

def execFlashBlockErased (failed : Bool) (s : State) : Host.Outcome State Fault Refusal := live s (blockErased failed)

/-- The check pass fails: nothing has been programmed, and the slot is erased as before. -/
def checkFails (o : FlashOp) (layer : Nat) (s : State) : State := failWrite o 0x41 (corruptDetail s layer) s

/-- The layer plan among the items of a write holds a split record that is in order (R280 step 5, R436). -/
def planItemOk (s : State) (o : FlashOp) (b : List Byte) : Bool :=
  let ts := tensorsOf o.hdr o.tables
  !isPlan ts (o.shard - 1) || (parseSplit (ensDevice s) o.hdr ts b).isSome

/-- A host item of the write arrived, or its transfer failed (R273 steps 2 to 4). -/
def writeItem (good : Option (List Byte)) (s : State) : State :=
  match s.flc.op with
  | none => s
  | some o =>
    let c := cmdOf s o.cmd
    let base := (c.map fun c => c.field 24 8).getD 0
    let lost := some (0x41, corruptDetail s 0xFFFF)
    match good with
    | none => if o.checking then checkFails o 0xFFFF s else clearSlot lost s
    | some b =>
      if o.hdr.imageLen = 0 then
        match parseHeader b with
        | none => checkFails o 0xFFFF s
        | some h =>
          if h.imageLen ≠ (c.map fun c => c.field 32 4).getD 0 ∨ 15 * 2 ^ 30 < h.residentLen then checkFails o 0xFFFF s
          else want o.cmd base (tablesLen h) (setOp (fun o => { o with hdr := h }) s)
      else if o.tables = [] then
        if !tablesOk o.hdr b || !imageSigOk s.fuses o.hdr b then checkFails o 0xFFFF s
        else
          let s := setOp (fun o => { o with tables := b, shards := shardsOf o.hdr b, shard := 1, restarts := 0 }) s
          match s.flc.op with
          | some o => wantItem s o 1
          | none => s
      else if o.checking then
        match o.shards[o.shard - 1]? with
        | none => s
        | some x =>
          let b := b.take x.length
          if shardOk x true b then
            if !planItemOk s o b then checkFails o 0xFFFF s
            else
              let s := setOp (fun o => { o with shard := o.shard + 1, restarts := 0, buf := [] }) s
              if o.shard < o.shards.length then wantItem s o (o.shard + 1) else s
          else if o.restarts < 3 then wantItem (setOp (fun o => { o with restarts := o.restarts + 1 }) s) o o.shard
          else checkFails o x.layer s
      else
        let ok := o.shard == 0 || match o.shards[o.shard - 1]? with
          | some x => shardOk x true (b.take x.length)
          | none => false
        if ok then setOp (fun o => { o with buf := b }) s else clearSlot lost s

/-- FLASH_WRITE_CHECK_PASS_END: every shard has passed, and the program pass begins. -/
def checkPassEnd (s : State) : State :=
  match s.flc.op with
  | none => s
  | some o =>
    if o.erase || !o.checking || o.tables == [] || o.shard ≤ o.shards.length then s
    else startProgram o (setOp (fun o => { o with restarts := 0 }) s)

def execFlashWriteCheckPassEnd (s : State) : Host.Outcome State Fault Refusal := live s checkPassEnd

/-- A page is programmed; the block's reads count anew (R271). -/
def programPage (b p : Nat) (bytes : List Byte) (s : State) : State :=
  let s := setBlock b (fun x => { x with reads := 0 }) s
  { s with nand := { s.nand with
      pages := (768 * b + p, bytes) :: s.nand.pages.filter (·.1 != 768 * b + p) } }

/-- Blocks of a slot that the first `n` image pages stand in. -/
def blocksUsed (s : State) (o : FlashOp) (n : Nat) : Nat := min (goodBlocks s o.slot).length n

/-- FLASH_PAGE_PROGRAMMED: the next image page is in place, or its block is retired and the pass starts again, at most
4 times (R273). -/
def pageProgrammed (failed : Bool) (s : State) : State :=
  match s.flc.op with
  | none => s
  | some o =>
    if o.erase || o.checking || o.clearing || o.buf.isEmpty || !islRuns s 27 then s
    else match pagePlace s o.slot o.page with
      | none => s
      | some (b, p) =>
        if !dieFree s b then s
        else withFlash [b % 2] (.part 0) (fun s =>
          if failed then
            let s := setOp (fun o => { o with retired := o.retired + 1, restarts := o.restarts + 1, buf := [] }) (retire b 1 0 (cmdOf s o.cmd) s)
            clearSlot (if 4 < o.restarts + 1 ∨ !fits s o then some (0x41, corruptDetail s 0xFFFF) else none) s
          else
            let s := programPage b p (o.buf.take 16384) s
            let left := o.buf.drop 16384
            let s := setOp (fun o => { o with page := o.page + 1, buf := left, done := blocksUsed s o (o.page + 1) }) s
            if !left.isEmpty then s
            else if o.shard < o.shards.length then
              dropWrite (wantItem (setOp (fun o => { o with shard := o.shard + 1 }) s) o (o.shard + 1))
            else match s.flc.op with
              | some o => endOp o 0x00 0 o.hdr.modelId (setSlot o.slot 2 o.hdr.imageLen o.hdr.modelId s)
              | none => s) s

def execFlashPageProgrammed (failed : Bool) (s : State) : Host.Outcome State Fault Refusal := live s (pageProgrammed failed)

def newOp (c : Cmd) (erase : Bool) (slot : Fin 32) (blocks : List Nat) : FlashOp :=
  { cmd := c.id, erase := erase, slot := slot, checking := !erase, clearing := false, hdr := ImgHdr.none, shards := [],
    tables := [], shard := 0, page := 0, buf := [], restarts := 0, retired := 0, blocks := blocks, done := 0, fail := none }

/-- A flash command starts once it is admitted (R195). -/
def beginFlash (op id : Nat) (s : State) : State :=
  let s := admitCmd id s
  match cmdOf s id with
  | none => s
  | some c =>
    let n : Fin 32 := Fin.ofNat 32 (c.byte 17)
    if c.op ≠ op ∨ c.phase ≠ .ready ∨ s.flc.op.isSome then s
    else
      let s := endWait id (setCmd id (fun c => { c with phase := .running }) s)
      if op = 0x49 then erased { s with flc := { s.flc with op := some (newOp c true n (goodBlocks s n)) } }
      else endIfGone (want id (c.field 24 8) 256 { s with flc := { s.flc with op := some (newOp c false n []) } })

def execFlashWriteImage (id : Nat) (s : State) : Host.Outcome State Fault Refusal := live s (beginFlash 0x48 id)
def execFlashEraseSlot (id : Nat) (s : State) : Host.Outcome State Fault Refusal := live s (beginFlash 0x49 id)

/-! ### The FLC registers (R286) -/

/-- Pages or blocks done × 100 ÷ total. -/
def opPercent (o : FlashOp) : Nat :=
  if o.erase then
    let n := o.done + o.blocks.length
    if n = 0 then 0 else o.done * 100 / n
  else if o.hdr.imageLen = 0 then 0 else min 100 (o.page * 100 / (o.hdr.imageLen / 16384))

/-- FLC_SLOT.READING: a load, swap, reversion or early service reads the slot. -/
def slotWord (s : State) (n : Fin 32) : Nat :=
  slotState s n + 0x10 * b2n (slotRead s n) + 0x100 * (goodBlocks s n).length

def flcRead (off : Nat) (s : State) : Option Word :=
  let f := s.flc
  match off with
  | 0xA000 => some (w32 (diesOf s + 0x10000 * blockCount s))
  | 0xA004 => some (w32 (b2n f.ready + 2 * b2n f.metaLost + 4 * b2n (s.nand.pool.length < 8) + 8 * b2n f.fail +
      match f.op with
      | some o => (if o.erase then 0x20 else 0x10) + 0x100 * o.slot.val + 0x10000 * opPercent o
      | none => 0))
  | 0xA008 => some (w32 (f.lastStatus + 0x100 * f.lastSlot.val + 0x8000 * b2n f.lastValid + 0x10000 * f.lastRetired))
  | 0xA00C => some (lo32 f.lastId)
  | 0xA010 => some (hi32 f.lastId)
  | 0xA014 => some (w32 (f.recovered + 0x10000 * f.uncorr))
  | 0xA018 => some (w32 (f.limit + 0x10000 * f.patrol))
  | 0xA01C => some (w32 (f.refreshes + 0x10000 * s.nand.pool.length))
  | 0xA020 => some (w32 (s.nand.blocks.foldl (fun m b => max m b.pe) 0))
  | _ =>
    if off % 4 ≠ 0 then none
    else if 0xA100 ≤ off ∧ off < 0xA180 then some (w32 (slotWord s (Fin.ofNat 32 ((off - 0xA100) / 4))))
    else if 0xA200 ≤ off ∧ off < 0xA300 then
      let n : Fin 32 := Fin.ofNat 32 ((off - 0xA200) / 8)
      let id := if slotState s n = 2 then s.nand.slots[n].id else 0
      some (if off % 8 = 0 then lo32 id else hi32 id)
    else none

def flcReadEff (off : Nat) (s : State) : State :=
  match off with
  | 0xA014 => { s with flc := { s.flc with recovered := 0, uncorr := 0 } }
  | 0xA01C => { s with flc := { s.flc with refreshes := 0 } }
  | _ => s

/-- A LIMIT of 0 is a reserved encoding (R285). -/
def flcWrite (off : Nat) (v : Word) (s : State) : Option State :=
  match off with
  | 0xA018 =>
    let l := bits v.toNat 15 0
    if l = 0 then some (regRefused off v 1 s)
    else some { s with flc := { s.flc with limit := l, patrol := bits v.toNat 23 16 } }
  | _ => (flcRead off s).map fun _ => s

end Sys2Proof.Machine
end

