-- ==== Sys2Proof/Machine/Hush.lean ====
section
/-! DEFINITION. Hush and wake (17): the image format (R417, R418), HUSH, WAKE, the automatic wake of a work command
and automatic hush (R186, R187, R415, R416, R419). -/

namespace Sys2Proof.Machine

/-! ### KV entries in stacked memory (R395) -/

/-- The extents of one KV page, and of the hush image, of a session. -/
def kvExt (s : State) (p : Part) (key : Nat) (pg : KvPage) : List (Nat × Nat) :=
  ((s.objs.find? fun o => o.part == p && o.kind == .kv key pg).map (·.ext)).getD []
def hushExt (s : State) (p : Part) (key : Nat) : List (Nat × Nat) :=
  ((s.objs.find? fun o => o.part == p && o.kind == .hush key).map (·.ext)).getD []

/-- The pieces of a layer's entry at a position: page, byte in the page, length. -/
def kvPieces (lb x : Nat) : List (Nat × Nat × Nat) :=
  if lb ≤ 65536 then
    let n := pagePow lb 16
    [(x / n, x % n * lb, lb)]
  else
    let k := ceilDiv lb 65536
    (List.range k).map fun i => (x * k + i, 0, min 65536 (lb - 65536 * i))

def targetPage (l j : Nat) : KvPage := { draft := false, layer := some l, idx := j }

def readKv (s : State) (p : Part) (key l lb x : Nat) : List Byte :=
  (kvPieces lb x).flatMap fun t => match kvExt s p key (targetPage l t.1) with
    | e :: _ => memRead s.mem (granuleAddr e.1 + t.2.1) t.2.2
    | [] => zeros t.2.2

/-- Store an entry, piece by piece. -/
def writePieces (p : Part) (key l : Nat) : List (Nat × Nat × Nat) → List Byte → State → State
  | [], _, s => s
  | t :: rest, bs, s =>
    let s := match kvExt s p key (targetPage l t.1) with
      | e :: _ => storeMem (granuleAddr e.1 + t.2.1) (bs.take t.2.2) s
      | [] => s
    writePieces p key l rest (bs.drop t.2.2) s

def writeKv (p : Part) (key l lb x : Nat) (bs : List Byte) (s : State) : State :=
  writePieces p key l (kvPieces lb x) bs s

/-- The uncorrectable blocks in the target's KV pages of a session. -/
def kvDamage (s : State) (p : Part) (key : Nat) : List (Nat × Nat) :=
  s.bad.filter fun b => s.objs.any fun o => (match o.kind with
    | .kv k pg => o.part == p && k == key && !pg.draft
    | _ => false) && inExtents o.ext b.1

/-! ### Quantised entries (R418) -/

/-- The value of a BF16 element in a group; an infinite one counts as the largest finite value (R326). -/
def hushElem (c : Nat) : Fl := (finOf bf16 (bf16.decode c)).1

def Fl.abs : Fl → Fl
  | .fin _ m e => .fin false m e
  | .inf _ => .inf false
  | .nan => .nan

/-- m of a group. -/
def groupMax (xs : List Nat) : Fl :=
  xs.foldl (fun m c => let v := (hushElem c).abs; if v.isNan then m else if m.lt v then v else m) .zero

/-- m ÷ 7 rounded up to BF16; 0 when m is 0. -/
def groupScale (xs : List Nat) : Nat :=
  let m := groupMax xs
  let c := (bf16.round (m.div (.fin false 7 0))).1
  if ((bf16.decode c).mul (.fin false 7 0)).lt m then c + 1 else c

/-- The INT4 codes of a group of BF16 elements. -/
def groupCodes (xs : List Nat) : List Nat :=
  let s := groupScale xs
  let r := f32v (f32 ((Fl.fin false 1 0).div (bf16.decode s)))
  xs.map fun c => if s = 0 then 0 else unsigned 4 (quantise (hushElem c) r 7).1

/-- Two codes to a byte, the even element in the low bits. -/
def nibblePairs : List Nat → List Byte
  | a :: b :: rest => BitVec.ofNat 8 (a + 16 * b) :: nibblePairs rest
  | [a] => [BitVec.ofNat 8 a]
  | [] => []

/-- The groups of 32 elements of an entry of `lb` bytes. -/
def entryGroups (lb : Nat) (bs : List Byte) : List (List Nat) :=
  (List.range (lb / 64)).map fun g => (List.range 32).map fun i => le bs (64 * g + 2 * i) 2

def quantEntry (lb : Nat) (bs : List Byte) : List Byte :=
  let gs := entryGroups lb bs
  gs.flatMap (fun g => toLe 2 (groupScale g)) ++ nibblePairs (gs.flatMap groupCodes)

/-- x' = q × s converted to BF16. -/
def restoreElem (s q : Nat) : Nat :=
  (bf16.round ((Fl.fin (8 ≤ q) (signed 4 q).natAbs 0).mul (bf16.decode s))).1

/-- The entry of `lb` bytes that a quantised entry restores to. -/
def restoreEntry (lb : Nat) (b : List Byte) : List Byte :=
  (List.range (lb / 2)).flatMap fun i =>
    let byte := byteAt b (lb / 32 + i / 2)
    toLe 2 (restoreElem (le b (2 * (i / 32)) 2) (if i % 2 = 0 then byte % 16 else byte / 16))

/-! ### The image (R417) -/

def isExact (n x : Nat) : Bool := x < 16 || n ≤ x + 256
def exactPos (n : Nat) : List Nat := (List.range n).filter (isExact n)
def quantPos (n : Nat) : List Nat := (List.range n).filter fun x => !isExact n x

def pad64 (bs : List Byte) : List Byte := bs ++ zeros ((64 - bs.length % 64) % 64)

def hushHead (p : Part) (x : Ctx) (h : ImgHdr) (len crc : Nat) : List Byte :=
  toLe 4 0x5548584F ++ toLe 2 1 ++ zeros 2 ++ toLe 4 len ++ toLe 1 p.val ++ zeros 1 ++ toLe 2 x.num ++
  toLe 8 h.modelId ++ toLe 4 x.pos ++ toLe 2 h.layers ++ zeros 2 ++ toLe 4 (layerBytes h) ++ toLe 2 16 ++ toLe 2 256 ++
  zeros 20 ++ toLe 4 crc

/-- The image of a LIVE context. -/
def hushImage (s : State) (x : Ctx) (h : ImgHdr) : List Byte :=
  let lb := layerBytes h
  let n := x.pos - 1
  let log := pad64 (x.log.flatMap (toLe 4))
  let layer := fun (l : Nat) =>
    (exactPos n).flatMap (readKv s x.part x.num l lb) ++
    (quantPos n).flatMap fun i => quantEntry lb (readKv s x.part x.num l lb i)
  let body := log ++ (List.range h.layers).flatMap layer
  let len := hushLen lb h.layers x.pos
  let whole := fun (crc : Nat) => pad64 (hushHead x.part x h len crc ++ body)
  whole (crc32c (whole 0))

/-- The check of an image (R419); `len` is IN_LEN, for one from the host. -/
def hushOk (x : Ctx) (h : ImgHdr) (len : Option Nat) (b : List Byte) : Bool :=
  le b 0 4 == 0x5548584F && le b 4 2 == 1 && le b 8 4 == len.getD (le b 8 4) && b.length == le b 8 4 &&
  le b 60 4 == crc32c (patch b 60 (zeros 4)) && byteAt b 12 == x.part.val && le b 14 2 == x.num && le b 24 4 == x.pos &&
  le b 28 2 == h.layers && le b 32 4 == layerBytes h

/-- The token log of an image. -/
def imageLog (x : Ctx) (b : List Byte) : List Nat := (List.range x.pos).map fun i => le b (64 + 4 * i) 4

/-- The entries of an image and its token log return to the reserved pages. -/
def restoreImage (x : Ctx) (h : ImgHdr) (b : List Byte) (s : State) : State :=
  let lb := layerBytes h
  let n := x.pos - 1
  let ex := exactPos n
  let qs := quantPos n
  let q := 9 * lb / 32
  let base := 64 + (4 * x.pos + 63) / 64 * 64
  (List.range h.layers).foldl (fun s l =>
    let o := base + l * (ex.length * lb + qs.length * q)
    let s := (List.range ex.length).foldl (fun s i => writeKv x.part x.num l lb (ex.getD i 0) (slice b (o + i * lb) lb) s) s
    (List.range qs.length).foldl (fun s i =>
      writeKv x.part x.num l lb (qs.getD i 0) (restoreEntry lb (slice b (o + ex.length * lb + i * q) q)) s) s) s

/-! ### HUSH (R186, R415) -/

/-- One LIVE context becomes HUSHED at its commit point: the image stands in the space reserved for it, and every KV
page is freed. -/
def hushOne (x : Ctx) (h : ImgHdr) (s : State) : State :=
  let img := hushImage s x h
  let s := putShard (hushExt s x.part x.num) 0 img s
  setCtx x.part x.num (fun y => { y with st := .hushed, image := some img.length, draft := none })
    (dropObjs (isKv x.part x.num) s)

/-- The live contexts that a HUSH still takes at its commit point. -/
def hushNow (s : State) (c : Cmd) : List Ctx := (hushTargets s c).filter (hushable s)

/-- The voices read the committed entries; damage is reported (R250). -/
def reportKv (c : Option Cmd) (p : Part) (key : Nat) (s : State) : State := reportUes (kvDamage s p key) 1 p.val c s

/-- TO_HOST: the image is written to OUT_ADDR, its stacked-memory copy is freed, and the context is OUT. -/
def hushOut (c : Cmd) (s : State) : State :=
  match ctxOf s c.part c.ctx with
  | none => s
  | some x =>
    let bs := residentBytes s (hushExt s c.part c.ctx) 0 (x.image.getD 0)
    let s := outWrite c.id c.part (c.field 24 8) bs s
    setCtx c.part c.ctx (fun y => { y with st := .out, image := none })
      (dropObjs (fun o => o.part == c.part && o.kind == .hush c.ctx) s)

/-- The end of a HUSH. A context whose entries are damaged stays as it was and is not counted (DESIGN CHOICE). Bytes 4 to 7 of the payload of a HUSH of context 0 are free (log entry 17). -/
def hushCommit (c : Cmd) (s : State) : State :=
  let all := hushNow s c
  let live := all.filter fun x => (kvDamage s x.part x.num).isEmpty
  let s := all.foldl (fun s x => reportKv (some c) x.part x.num s) s
  let pages := (live.map fun x => (s.objs.filter (isKv x.part x.num)).length).sum
  let done := (hushTargets s c).filter fun x => x.st == .hushed || x.st == .out
  let s := live.foldl (fun s x => match x.model.bind (hdrOf s) with
    | some h => hushOne x h s
    | none => s) s
  let bytes := ((live ++ done).map fun x => ((ctxOf s x.part x.num).bind (·.image)).getD 0).sum
  let (pos, s) := if c.ctx = 0 then (Config.freeNat s.freeCtr, { s with freeCtr := s.freeCtr + 1 })
    else (positionOf s c, s)
  let s := if bitAt (c.byte 16) 0 ∧ live ≠ [] then hushOut c s else s
  finish c.id 0x00 0 false (payloadOf [(0, 4, bytes), (4, 4, pos % 2 ^ 32), (8, 4, pages),
    (12, 2, live.length + done.length)]) s

/-- An admitted command starts its work: its queued time ends. -/
def runCmd (id : Nat) (s : State) : State := endWait id (setCmd id (fun c => { c with phase := .running }) s)

/-- HUSH: admitted, its device work begins; at CRIT none does (R503). -/
def hushRow (id : Nat) (s : State) : State :=
  if ((cmdOf s id).map (·.op)) ≠ some 0x28 then s
  else
    let s := admitCmd id s
    match cmdOf s id with
    | none => s
    | some c => if c.phase ≠ .ready ∨ paused s then s else runCmd id s

def execHush (id : Nat) (s : State) : Host.Outcome State Fault Refusal := live s (hushRow id)

/-! ### WAKE (R187, R419) -/

/-- The damaged blocks of a hush image in stacked memory. -/
def imageDamage (s : State) (p : Part) (key : Nat) : List (Nat × Nat) :=
  s.bad.filter fun b => inExtents (hushExt s p key) b.1

/-- The image of a context to wake: the host's bytes, or the stacked copy unless it is damaged. -/
def wakeImage (s : State) (c : Cmd) (x : Ctx) : Option (List Byte) :=
  if c.op = 0x29 ∧ bitAt (c.byte 16) 0 then some c.input
  else
    if !(imageDamage s x.part x.num).isEmpty then none
    else some (residentBytes s (hushExt s x.part x.num) 0 (x.image.getD 0))

/-- The context becomes LIVE with the image restored; `none` when the image fails its check. -/
def wakeCtx (c : Cmd) (s : State) : Option State :=
  match ctxOf s c.part c.key with
  | none => none
  | some x => match x.model.bind (hdrOf s), wakeImage s c x with
    | some h, some b =>
      let len := if c.op = 0x29 ∧ bitAt (c.byte 16) 0 then some (c.field 32 4) else none
      if !hushOk x h len b then none
      else
        let s := restoreImage x h b s
        let s := dropObjs (fun o => o.part == c.part && o.kind == .hush c.key) s
        some (setCtx c.part c.key (fun y => { y with st := .live, image := none, log := imageLog x b }) s)
    | _, _ => none

/-- An image that cannot be restored: damage of its stacked copy is reported (R250), and the command completes
DATA_CORRUPT. -/
def wakeFailed (c : Cmd) (s : State) : State :=
  let bads := if c.op = 0x29 ∧ bitAt (c.byte 16) 0 then [] else imageDamage s c.part c.key
  failCmd c.id 0x41 (corruptDetail s 0xFFFF) (reportUes bads 1 c.part.val (some c) s)

def wakeCommit (c : Cmd) (s : State) : State :=
  match wakeCtx c s with
  | none => wakeFailed c s
  | some s =>
    let pages := (s.objs.filter (isKv c.part c.key)).length
    finish c.id 0x00 0 false (payloadOf [(0, 4, positionOf s c), (4, 4, pages)]) s

/-- WAKE: admitted, it reads an image of the host and its device work begins. -/
def wakeRow (id : Nat) (s : State) : State :=
  if ((cmdOf s id).map (·.op)) ≠ some 0x29 then s
  else
    let s := admitCmd id s
    match cmdOf s id with
    | none => s
    | some c =>
      if c.phase ≠ .ready ∨ paused s then s
      else
        let s := runCmd id s
        if bitAt (c.byte 16) 0 then want id (c.field 24 8) (c.field 32 4) s else s

def execWake (id : Nat) (s : State) : Host.Outcome State Fault Refusal := live s (wakeRow id)

/-- A command whose HUSHED context must wake first. -/
def needsWake (s : State) (c : Cmd) : Bool :=
  isWork c.op && ((ctxOf s c.part c.key).map (·.st == .hushed)).getD false

/-- HUSH_WAKE_DEVICE_WORK_END: the commit point of a HUSH, of a WAKE, or of the wake that a work command makes first
(R394). -/
def hushWorkEnd (id : Nat) (s : State) : State :=
  match cmdOf s id with
  | none => s
  | some c =>
    if c.op = 0x28 ∧ c.phase = .running then hushCommit c s
    else if c.op = 0x29 ∧ c.phase = .running then (if c.input.length = c.inWant then wakeCommit c s else s)
    else if c.phase = .ready ∧ needsWake s c ∧ !paused s then
      (match wakeCtx c s with
        | none => wakeFailed c s
        | some s => s)
    else s

def execHushWakeDeviceWorkEnd (id : Nat) (s : State) : Host.Outcome State Fault Refusal := live s (hushWorkEnd id)

/-! ### Automatic hush (R416) -/

def hushWindowNs (s : State) (p : Part) : Nat := 1000000000 * ((partCfg s p).map (·.hushWindow)).getD 0

/-- AUTO_HUSH of a context: its window has passed without a command. An image that does not fit is skipped until
another window has passed. -/
def autoHush (p : Part) (key : Nat) (s : State) : State :=
  match ctxOf s p key with
  | none => s
  | some x =>
    let w := hushWindowNs s p
    let busy := s.cmds.any fun c => c.part == p && c.key == key
    if w = 0 ∨ busy ∨ 65536 ≤ key ∨ s.clk < x.idleSince + w ∨ !hushable s x ∨ isEarlyCtx x ∨ paused s ∨ muted s then s
    else
      let need := ceilDiv (hushImgLen s x) granule
      let later := setCtx p key (fun y => { y with idleSince := s.clk }) s
      if room s p 1 < need then later
      else if !(kvDamage s p key).isEmpty then reportKv none p key later
      else match x.model.bind (hdrOf s) with
        | none => s
        | some h =>
          let s := markIdle (hushOne x h (placeObj p 1 (.hush key) need s))
          { s with apt := { s.apt with auto := satAdd 65535 s.apt.auto 1 } }

def execAutoHush (p : Part) (key : Nat) (s : State) : Host.Outcome State Fault Refusal := live s (autoHush p key)

end Sys2Proof.Machine
end

