-- ==== Sys2Proof/Machine/Work.lean ====
section
/-! DEFINITION. Work commands (07, 17): their start and input (R170, R180 to R185, R411), the rounds of a GENERATE
(R401 to R405), what each row of a pass yields, and the records (R183). -/

namespace Sys2Proof.Machine

/-! ### The command and its context -/

def sessOf (s : State) (c : Cmd) : Option Ctx := ctxOf s c.part c.key
def hdrFor (s : State) (c : Cmd) : ImgHdr := (hdrOf s c.ref).getD ImgHdr.none
def setWork (id : Nat) (f : Work → Work) (s : State) : State := setCmd id (fun c => { c with work := f c.work }) s

/-- 1 when the last committed token has still to be fed: every context but an empty one (R398, R402). -/
def Cmd.pendingOne (c : Cmd) : Nat := if c.work.start = 0 then 0 else 1

/-- Positions that the command feeds before its rounds: the input, after the pending token. -/
def Cmd.feeds (c : Cmd) : Nat :=
  if c.isGen then (if c.tokensIn = 0 then 0 else c.tokensIn + c.pendingOne)
  else if c.op = 0x23 then c.tokensIn + c.pendingOne
  else max 1 (c.tokensIn + c.pendingOne - 1)

def maskOfCmd (s : State) (c : Cmd) : Option Mask := (sessOf s c).bind fun x => boundMask s c.part x.mask
def stateOfCmd (s : State) (c : Cmd) : Nat := ((sessOf s c).map (·.mstate)).getD 0

/-- The allowed set at an automaton state. -/
def allowedAt (s : State) (c : Cmd) (st : Nat) : List (Nat × Nat) :=
  let h := hdrFor s c
  allowedSet (maskOfCmd s c) st h.vocab h.eos

def tokensAt (s : State) (c : Cmd) (st : Nat) : List Nat := allowedTokens (allowedAt s c st) (hdrFor s c).vocab

def Cmd.sampling (c : Cmd) : Sampling :=
  { greedy := c.byte 44 == 0, temp := c.field 48 2, topK := c.field 52 4, topP := c.field 50 2, seed := c.field 56 8,
    ctx := c.ctx }

/-- Greedy acceptance: MODE 0, or GREEDY_ACCEPT (R403). -/
def Cmd.greedyAccept (c : Cmd) : Bool := c.byte 44 == 0 || c.flag 3

/-! ### Committing -/

/-- A token crosses the horizon: the position and the token log. -/
def commitTok (c : Cmd) (t : Nat) (s : State) : State :=
  setCtx c.part c.key (fun x => { x with pos := x.pos + 1, log := x.log ++ [t] }) s

/-- Input tokens up to the n-th cross the horizon. -/
def commitInput (c : Cmd) (n : Nat) (s : State) : State :=
  let done := positionOf s c - c.work.start
  ((c.work.input.take n).drop done).foldl (fun s t => commitTok c t s) s

/-- Output of a command, which its buffer must still hold (R127, R133, R168). -/
def output (id a : Nat) (bs : List Byte) (s : State) : State :=
  match cmdOf s id with
  | none => s
  | some c => if bs.isEmpty then s else if bufferOk s c.part a bs.length then outWrite id c.part a bs s else accessFault c a s

/-! ### The end of a GENERATE (R183, R411) -/

/-- A GENERATE ends with END and its payload; the counters and APT_DEAD follow (R421). -/
def endGen (id status detail ending : Nat) (s : State) : State :=
  match cmdOf s id with
  | none => s
  | some c => finish id status detail false (genPayload s c ending) s

def deadEnd (c : Cmd) (s : State) : State :=
  let st := stateOfCmd s c
  let s := bumpApt 5 1 { s with apt := { s.apt with
    deadState := st, deadPart := c.part, deadValid := true, deadCtx := c.ctx } }
  endGen c.id 0x24 st 5 s

/-- The check of R411, at the start of a GENERATE and after each commit point: it ends, or goes on. -/
def checkMask (id : Nat) (s : State) : State :=
  match cmdOf s id with
  | none => s
  | some c =>
    let a := allowedAt s c (stateOfCmd s c)
    if a = [] then deadEnd c s
    else if onlyEos a (hdrFor s c).eos then endGen id 0x00 0 3 (bumpApt 6 1 s)
    else s

/-- The DONE_PARTIAL interval; 0 for none (R181, R183). -/
def partialOf (s : State) (c : Cmd) : Nat :=
  let n := if c.field 42 2 = 0 then ((partCfg s c.part).map (·.partialInt)).getD 0 else c.field 42 2
  if n = 0xFFFF then 0 else n

/-- After a commit point of a GENERATE that has not ended: a DONE_PARTIAL record when the count passes a multiple of
PARTIAL. The command waits while its record finds no room (R155). -/
def partialRec (id was : Nat) (s : State) : State :=
  match cmdOf s id with
  | none => s
  | some c =>
    let iv := partialOf s c
    let n := c.work.gen.length
    if iv = 0 ∨ n / iv = was / iv then s
    else
      let r := recordOf s c 0x01 0 false (genPayload s c 0)
      syncHolds (·.id == id) (setWork id (fun w => { w with reported := n }) (queueRec c.part r s))

/-! ### Selecting and committing a token (R401 to R405, R412) -/

/-- The log-probability that an entry reports, in binary32 (R182). -/
def entryLog (s : State) (c : Cmd) (z : List Word) (a : List Nat) (t : Nat) : Nat :=
  let f := if c.sampling.greedy then c.sampling.plain else c.sampling
  lnProb s.freeCtr (distribution f z a) t

/-- Entry k of the output (R182). -/
def entryBytes (c : Cmd) (eos t lp : Nat) : List Byte :=
  toLe 4 (t + if t = eos then 2 ^ 24 else 0) ++ if c.logprob then toLe 2 (toBf16 lp) ++ zeros 2 else []

/-- One selected token is committed and its entry written; the command ends where R405 says. -/
def commitGen (id t : Nat) (z : List Word) (s : State) : State :=
  match cmdOf s id with
  | none => s
  | some c =>
    let h := hdrFor s c
    let st := stateOfCmd s c
    let a := tokensAt s c st
    let lp := if c.logprob then entryLog s c z a t else 0
    let s := if c.logprob then { s with freeCtr := s.freeCtr + 1 } else s
    let k := c.work.gen.length
    let s := commitTok c t s
    let s := setCtx c.part c.key (fun x => { x with mstate := (advance (maskOfCmd s c) h.eos st t).getD st }) s
    let s := setWork id (fun w => { w with gen := w.gen ++ [(t, w32 lp)] }) s
    let s := output id (c.outAddr + k * c.entrySize) (entryBytes c h.eos t lp) s
    if (cmdOf s id).isNone then s
    else if t = h.eos ∧ c.stopEos then endGen id 0x00 0 2 s
    else if k + 1 = c.maxTokens then endGen id 0x00 0 1 s
    else checkMask id s

/-- Select with the target stream and commit. -/
def selectCommit (id : Nat) (z : List Word) (s : State) : State :=
  match cmdOf s id with
  | none => s
  | some c =>
    let a := tokensAt s c (stateOfCmd s c)
    match selectTok c.sampling z a (positionOf s c) 0 with
    | some t => commitGen id t z (countSelect z a s)
    | none => s

/-! ### Rounds -/

/-- k' of R401 for the round at hand; 0 once the command has stopped drafting. -/
def roundLen (c : Cmd) : Nat :=
  if c.specK = 0 ∨ c.work.noDraft then 0 else min c.specK (c.maxTokens - c.work.gen.length - 1)

/-- The drafts of the round are ready. -/
def draftsReady (c : Cmd) : Bool := c.work.draftOver || c.work.drafts.length == roundLen c

/-- The automaton state after some tokens. -/
def stateAfter (s : State) (c : Cmd) (ts : List Nat) : Nat :=
  ts.foldl (fun st t => (advance (maskOfCmd s c) (hdrFor s c).eos st t).getD st) (stateOfCmd s c)

/-- A draft pass has fed the pending token or the last draft: it proposes the next (R401). -/
def propose (id : Nat) (z : List Word) (s : State) : State :=
  match cmdOf s id with
  | none => s
  | some c =>
    let ds := c.work.drafts
    let st := stateAfter s c ds
    let a := tokensAt s c st
    match selectTok c.sampling z a (positionOf s c + ds.length) (if c.greedyAccept then 0 else 1) with
    | none => s
    | some t =>
      let nxt := allowedAt s c (stateAfter s c (ds ++ [t]))
      let eos := (hdrFor s c).eos
      let stop := (t == eos && c.stopEos) || nxt == [] || onlyEos nxt eos
      let s := bumpApt 1 1 (countSelect z a s)
      setWork id (fun w => { w with
        drafts := w.drafts ++ [t]
        draftLogits := w.draftLogits ++ [z]
        draftOver := w.draftOver || stop }) s

/-- A draft token is committed as accepted. -/
def commitDraft (id t : Nat) (z : List Word) (s : State) : State :=
  commitGen id t z (bumpApt 2 1 (setWork id (fun w => { w with accepted := w.accepted + 1 }) s))

/-- Greedy acceptance (R403): the logits of the positions left, and the drafts left. -/
def greedyRound (id : Nat) : List (List Word) → List Nat → State → State
  | [], _, s => s
  | z :: zs, ds, s =>
    match cmdOf s id with
    | none => s
    | some c =>
      let a := tokensAt s c (stateOfCmd s c)
      match selectTok c.sampling z a (positionOf s c) 0 with
      | none => s
      | some t =>
        let s := countSelect z a s
        match ds with
        | d :: rest => if d = t then greedyRound id zs rest (commitDraft id t z s) else commitGen id t z s
        | [] => commitGen id t z s

/-- Sampling acceptance (R404): the target's logits, the drafts and the draft's logits left. -/
def samplingRound (id : Nat) : List (List Word) → List Nat → List (List Word) → State → State
  | [], _, _, s => s
  | z :: zs, ds, qs, s =>
    match cmdOf s id with
    | none => s
    | some c =>
      let f := c.sampling
      let a := tokensAt s c (stateOfCmd s c)
      let p := distribution f z a
      let pos := positionOf s c
      let s := countSelect z a s
      match ds, qs with
      | d :: ds, q :: qs =>
        let q := distribution f q a
        if accepts (uniform f.seed f.ctx pos 2) p q d then samplingRound id zs ds qs (commitDraft id d z s)
        else
          let r := residual p q
          let zero := r.all fun e => !(Fl.zero.lt e.2)
          match drawFrom f (if zero then p.ps else r) pos 3 with
          | some t => commitGen id t z s
          | none => s
      | _, _ => match drawFrom f p.ps pos 0 with
        | some t => commitGen id t z s
        | none => s

/-- A round ends: its drafts go, and the draft's KV count falls back to the last fed position that committed. -/
def closeRound (id : Nat) (s : State) : State :=
  match cmdOf s id with
  | none => s
  | some c =>
    let p := positionOf s c
    let s := setCtx c.part c.key (fun x => { x with draft := x.draft.map fun d => (d.1, min d.2 (p - 1)) }) s
    setWork id (fun w => { w with drafts := [], draftLogits := [], draftOver := false }) s

/-- A decode or verify row has its logits: one commit point, then the record that it may owe. -/
def settleRound (c : Cmd) (zs : List (List Word)) (s : State) : State :=
  let was := c.work.gen.length
  let ds := c.work.drafts
  let s := if ds = [] then selectCommit c.id (zs.headD []) s
    else if c.greedyAccept then greedyRound c.id zs ds s
    else samplingRound c.id zs ds c.work.draftLogits s
  partialRec c.id was (closeRound c.id s)

/-- Drafting stops for the rest of the command, and the draft binding is cleared (Edges of 17). -/
def stopDrafting (id : Nat) (s : State) : State :=
  match cmdOf s id with
  | none => s
  | some c =>
    let s := setWork id (fun w => { w with drafts := [], draftLogits := [], draftOver := false, noDraft := true }) s
    setCtx c.part c.key (fun x => { x with draft := none })
      (dropObjs (fun o => o.part == c.part && match o.kind with
        | .kv k pg => k == c.key && pg.draft
        | _ => false) s)

/-! ### SCORE_TOKENS (R184) -/

/-- The entry of a scored token, from the logits that predict it; `none` for position 0. -/
def scoreEntry (s : State) (c : Cmd) (st : Option Nat) (z : Option (List Word)) (t : Nat) : Nat × Nat × Nat × Nat :=
  let plain : Sampling := { greedy := false, temp := 0x3F80, topK := 0, topP := 0x3F80, seed := 0, ctx := 0 }
  let a := match st with
    | some q => tokensAt s c q
    | none => []
  let okTok := a.contains t
  match z with
  | none => (0, if okTok then 0 else 0xFF80, 0, 2 + b2n !okTok)
  | some z =>
    let v := f32v (logitOf z t)
    let above := fun (u : Nat) => v.lt (f32v (logitOf z u)) || (!(f32v (logitOf z u)).lt v && u < t)
    if okTok then
      let lp := lnProb s.freeCtr (distribution plain z a) t
      (lp, toBf16 lp, min 255 (a.filter above).length, 0)
    else
      let rest := (List.range (hdrFor s c).vocab).filter fun u => !a.contains u && above u
      (0xFF800000, 0xFF80, min 255 (a.length + rest.length), 1)

/-- Score the next token; the copy of the automaton state walks along. -/
def scoreTok (id : Nat) (z : Option (List Word)) (s : State) : State :=
  match cmdOf s id with
  | none => s
  | some c =>
    match c.work.input[c.work.scored.length]? with
    | none => s
    | some t =>
      let e := scoreEntry s c c.work.scoreState z t
      let nxt := c.work.scoreState.bind fun q => advance (maskOfCmd s c) (hdrFor s c).eos q t
      let s := { s with freeCtr := s.freeCtr + 1 }
      setWork id (fun w => { w with scored := w.scored ++ [e], scoreState := nxt }) s

def scoreBytes (w : Work) : List Byte := w.scored.flatMap fun e => toLe 2 e.2.1 ++ toLe 1 e.2.2.1 ++ toLe 1 e.2.2.2

/-- The sum of the log-probabilities of the tokens with a prediction, rounded once; that of a disallowed token is minus
infinity. -/
def scoreSum (w : Work) : Nat :=
  f32 (Fl.sum ((w.scored.filter fun e => e.2.2.2 / 2 % 2 = 0).map fun e => f32v e.1))

/-- The input is committed when COMMIT is set. -/
def commitAll (c : Cmd) (s : State) : State := if c.commits then commitInput c c.work.input.length s else s

def endScore (id : Nat) (s : State) : State :=
  match cmdOf s id with
  | none => s
  | some c =>
    let s := output id c.outAddr (scoreBytes c.work) (commitAll c s)
    finish id 0x00 0 false (payloadOf [(0, 4, c.work.scored.length), (4, 4, positionOf s c),
      (8, 4, if c.work.scored = [] then 0 else scoreSum c.work)]) s

/-! ### EMBED (R185) -/

/-- The pooled vector: the last token's, or the mean over the IN tokens, each element summed exactly. -/
def pooled (c : Cmd) (h : Nat) : List Fl :=
  let vs := c.work.hidden.drop c.pendingOne
  let elem := fun (v : List Word) (j : Nat) => f32v (v.getD j 0).toNat
  (List.range h).map fun j =>
    if c.byte 40 = 0 then elem (vs.getLast?.getD []) j
    else (Fl.sum (vs.map fun v => elem v j)).div (ofInt vs.length 0 false)

/-- An element in the format of the command, rounded once. -/
def embedBytes (c : Cmd) (x : Fl) : List Byte := if c.byte 41 = 1 then toLe 4 (f32 x) else toLe 2 (bf16.round x).1

def endEmbed (id : Nat) (s : State) : State :=
  match cmdOf s id with
  | none => s
  | some c =>
    let h := (hdrFor s c).hidden
    let bs := if c.inCount = 0 then [] else (pooled c h).flatMap (embedBytes c)
    let s := output id c.outAddr bs (commitAll c s)
    finish id 0x00 0 false (payloadOf [(0, 4, h), (4, 4, positionOf s c), (8, 4, bs.length)]) s

/-- A PREFILL is done (R180). -/
def endPrefill (id : Nat) (s : State) : State :=
  match cmdOf s id with
  | none => s
  | some c => finish id 0x00 0 false (payloadOf [(0, 4, positionOf s c - c.work.start), (4, 4, positionOf s c)]) s

/-! ### The start of a work command -/

/-- A token entry of the host that breaks R170. -/
def tokenBad (vocab t : Nat) : Bool := 2 ^ 18 ≤ t || vocab ≤ t

/-- The input has been read (R170): the command goes on, or completes BAD_FIELD with DETAIL 0x8000 plus the entry. -/
def takeInput (id : Nat) (b : List Byte) (s : State) : State :=
  match cmdOf s id with
  | none => s
  | some c =>
    let ts := (List.range c.tokensIn).map fun i => le b (4 * i) 4
    match ts.findIdx? (tokenBad (hdrFor s c).vocab) with
    | some i =>
      let s := if c.boundCtx then
          setCtx c.part c.key (fun x => { x with st := .new, model := none, draft := none }) s
        else s
      let pay := if c.isGen then failPayload s c 0x31 else noPayload
      let s := finish id 0x31 (min 0xFFFE (0x8000 + i)) true pay s
      if c.madeCtx && c.ctx != 0 then dropCtx c.part c.key s else s
    | none => setWork id (fun w => { w with input := ts, inputRead := true }) s

/-- Uncorrectable units in a buffer of the user part (R250, R342): a work command completes MEMORY_UNCORRECTABLE for stacked
memory; every other command, and all for section and window memory, complete DATA_CORRUPT. -/
def bufferLost (c : Cmd) (bads : List (Nat × Nat)) (s : State) : State :=
  let a := (firstLost bads).1
  if a < stackBase then failCmd c.id 0x41 (corruptDetail s 0xFFFF) s
  else
    let s := reportUes bads 2 c.part.val (some c) s
    if isWork c.op then failCmd c.id 0x42 (placeOf s a).chan.val s else failCmd c.id 0x41 (corruptDetail s 0xFFFF) s

/-- Read an input buffer: host memory by DMA, the user part under a burst. -/
def readBuf (id a n : Nat) (k : List Byte → State → State) (s : State) : State :=
  match cmdOf s id with
  | none => s
  | some c =>
    if hostWinBase ≤ a then want id a n s
    else if !inUser s c.part a n then accessFault c a s
    else if faultySection s [a] then failCmd id 0x50 0x100 s
    else withDevice id a (fun s => match readMem a n [] [c.part] s with
      | (.ok bs, s) => k bs s
      | (.bad bads, s) => bufferLost c bads s) s

/-- A work command that runs no pass completes at once. -/
def endAtOnce (c : Cmd) (s : State) : State :=
  match c.op with
  | 0x21 => endGen c.id 0x00 0 1 s
  | 0x22 => endScore c.id s
  | 0x23 => endEmbed c.id s
  | _ => endPrefill c.id s

/-- The row of a work command: it is admitted; a HUSHED context is woken first (R394); the check of R411 stands before
everything else that a GENERATE does; then the input is read. -/
def beginWork (op id : Nat) (s : State) : State :=
  if ((cmdOf s id).map (·.op)) ≠ some op then s
  else
    let s := admitCmd id s
    match cmdOf s id with
    | none => s
    | some c =>
      if c.phase ≠ .ready ∨ needsWake s c ∨ c.work.inputRead ∨ c.inWant ≠ 0 then s
      else if c.noPass then endAtOnce c s
      else
        let s := if c.isGen then checkMask id s else s
        if (cmdOf s id).isNone then s
        else if c.tokensIn = 0 then setWork id (fun w => { w with inputRead := true }) s
        else readBuf id c.inAddr' (4 * c.tokensIn) (takeInput id) s

def execPrefill (id : Nat) (s : State) : Host.Outcome State Fault Refusal := live s (beginWork 0x20 id)
def execGenerate (id : Nat) (s : State) : Host.Outcome State Fault Refusal := live s (beginWork 0x21 id)
def execScoreTokens (id : Nat) (s : State) : Host.Outcome State Fault Refusal := live s (beginWork 0x22 id)
def execEmbed (id : Nat) (s : State) : Host.Outcome State Fault Refusal := live s (beginWork 0x23 id)

/-! ### What a row of a pass yields -/

/-- The draft's KV count nd of a command. -/
def draftCount (s : State) (c : Cmd) : Nat := (((sessOf s c).bind (·.draft)).map (·.2)).getD 0

/-- A draft row of n positions ends with the pending token or the last draft, so it proposes; a catch-up row does not (R398,
R401). -/
def draftProposes (s : State) (c : Cmd) (n : Nat) : Bool :=
  decide (positionOf s c + c.work.drafts.length ≤ draftCount s c + n)

/-- Logits that a row's result must bring. -/
def wantLogits (s : State) (c : Cmd) (k : RowKind) : Nat :=
  match k with
  | .decode => 1
  | .verify => c.work.drafts.length + 1
  | .draft n => b2n (draftProposes s c n)
  | .prefill n => if c.op = 0x22 then n else if c.isGen && c.feeds ≤ c.work.fed + n then 1 else 0

/-- The result of a row is complete. -/
def resultOk (s : State) (c : Cmd) (k : RowKind) (r : RowResult) : Bool :=
  let v := (hdrFor s c).vocab
  wantLogits s c k ≤ r.logits.length && (r.logits.all fun z => z.length == v) &&
  (c.op != 0x23 || (match k with | .prefill n => r.hidden.length == n | _ => true) &&
    r.hidden.all fun x => x.length == (hdrFor s c).hidden)

/-- A prefill row has fed n more positions. -/
def settlePrefill (c : Cmd) (n : Nat) (r : RowResult) (s : State) : State :=
  let id := c.id
  let fed := c.work.fed + n
  let k := c.work.input.length
  let upTo := min k (fed + 1 - c.pendingOne)
  let last := decide (c.feeds ≤ fed)
  let s := setWork id (fun w => { w with fed := fed }) s
  match c.op with
  | 0x20 => (fun s => if last then endPrefill id s else s) (commitInput c upTo s)
  | 0x21 =>
    let s := commitInput c upTo s
    if last then partialRec id 0 (selectCommit id (r.logits.headD []) s) else s
  | 0x22 =>
    let s := if c.work.scored = [] ∧ c.pendingOne = 0 then scoreTok id none s else s
    let s := (r.logits.take n).foldl (fun s z => scoreTok id (some z) s) s
    if last then endScore id s else s
  | _ =>
    let s := setWork id (fun w => { w with hidden := w.hidden ++ r.hidden }) s
    if last then endEmbed id s else s

/-- A draft row has fed n positions; once nd stands at the pending token or the last draft, it proposes. -/
def settleDraft (c : Cmd) (n : Nat) (r : RowResult) (s : State) : State :=
  let t := setCtx c.part c.key (fun x => { x with draft := x.draft.map fun d => (d.1, draftCount s c + n) }) s
  if draftProposes s c n then propose c.id (r.logits.headD []) t else t

/-- One row of a pass that ended well. -/
def settleRow (row : PassRow) (r : RowResult) (s : State) : State :=
  match cmdOf s row.cmd with
  | none => s
  | some c => match row.kind with
    | .prefill n => settlePrefill c n r s
    | .draft n => settleDraft c n r s
    | _ => settleRound c r.logits s

end Sys2Proof.Machine
end

