-- ==== Sys2Proof/Machine/Ending.lean ====
section
/-! DEFINITION. Commands that end others (07, 08): ABORT (R194, R215, R217), CONTEXT_DESTROY (R148, R188) and
MODEL_EVICT (R176). -/

namespace Sys2Proof.Machine

/-- What a command asked of other stages is released (R439). -/
def dropReserving (id : Nat) (s : State) : State :=
  match s.ens.reserving.find? (·.cmd == id), cmdOf s id with
  | some r, some c =>
    let s := { s with ens := { s.ens with reserving := s.ens.reserving.filter (·.cmd != id) } }
    r.asked.foldl (fun s d => originate (ctrl d 0x05 c.part.val c.ctx [] []) s) s
  | _, _ => s

/-- A pass of a split model whose rows have all gone is abandoned (R440). -/
def dropEmptyPasses (s : State) : State :=
  let gone := s.passes.filter fun p => p.rows != [] && (p.rows.all fun r => (cmdOf s r.cmd).isNone) &&
    ((splitOf s p.model).map fun sp => decide (1 < sp.stages ∧ sp.stage = 0)).getD false
  gone.foldl (fun s p => tellStages p 0 0 (endPass p [] s)) s

/-- ABORT takes effect on one command, whose DETAIL names the reason (R204, R215): its load, its set, its reservations
and its rows end with it. -/
def abortCmd (id reason : Nat) (s : State) : State :=
  match cmdOf s id with
  | none => s
  | some c =>
    let s := releasePeers id (dropReserving id s)
    let s := if c.op = 0x10 ∨ c.op = 0x11 then
        let s := dropJob (.cmd id) s
        finish id 0x02 reason (!c.admitted) (if c.admitted then modelPayload s c.handle else noPayload) s
      else match setOf s id with
        | some k => endSet k 0x02 reason 0xFF false [] s
        | none => failCmd id 0x02 reason s
    dropEmptyPasses s

/-- A command can still be aborted (R171). -/
def abortable (s : State) (d : Cmd) : Bool :=
  !d.silent && !([0x01, 0x12, 0x13, 0x14, 0x2A, 0x40, 0x48, 0x49, 0x4A, 0x50] : List Nat).contains d.op &&
  !(s.jobs.any fun j => j.owner == .cmd d.id && hasWritten s j)

/-- A command that checks nothing more than its entry: it is admitted and acts at once. Its queued time ends when its operation
begins, or with its record (R202). -/
def atAdmission (op id : Nat) (f : Cmd → State → State) (s : State) : State :=
  if ((cmdOf s id).map (·.op)) ≠ some op then s
  else
    let s := admitCmd id s
    match cmdOf s id with
    | none => s
    | some c => if c.phase ≠ .ready then s else f c s

/-- The commands that an ABORT selects (R146, R194). -/
def abortTargets (s : State) (c : Cmd) : List Cmd :=
  s.cmds.filter fun d => d.part == c.part && decide (d.id < c.id) && (c.ctx == 0 || d.ctx == c.ctx) &&
    (c.byte 16 == 0 || d.tag == c.field 18 2) && abortable s d

def abortRow (c : Cmd) (s : State) : State :=
  let ts := abortTargets s c
  let s := ts.foldl (fun s d => abortCmd d.id 1 s) s
  finish c.id (if ts = [] then 0x03 else 0x00) 0 false (payloadOf [(0, 2, ts.length)]) s

def execAbort (id : Nat) (s : State) : Host.Outcome State Fault Refusal := live s (atAdmission 0x40 id abortRow)

/-- The contexts that a CONTEXT_DESTROY frees, and the commands that it aborts first. -/
def destroyed (s : State) (c : Cmd) : List Ctx :=
  s.ctxs.filter fun x => x.part == c.part && decide (x.num < 65536) && (c.ctx == 0 || x.num == c.ctx)
def destroyAborts (s : State) (c : Cmd) : List Cmd :=
  s.cmds.filter fun d => d.part == c.part && decide (d.id < c.id) && d.ctx != 0 && (c.ctx == 0 || d.ctx == c.ctx) &&
    abortable s d

def destroyRow (c : Cmd) (s : State) : State :=
  let ts := destroyAborts s c
  let s := ts.foldl (fun s d => abortCmd d.id 2 s) s
  let xs := destroyed s c
  let pages := (xs.map fun x => (s.objs.filter (isKv x.part x.num)).length).sum
  let s := xs.foldl (fun s x => destroyCtx x.part x.num s) s
  finish c.id 0x00 0 false (payloadOf [(0, 4, pages), (4, 2, ts.length), (6, 2, xs.length)]) s

def execContextDestroy (id : Nat) (s : State) : Host.Outcome State Fault Refusal :=
  live s (atAdmission 0x2A id destroyRow)

/-! ### MODEL_EVICT (R176) -/

/-- The commands that name the handle, fetched before the admission of the eviction. -/
def users (s : State) (c : Cmd) : List Cmd :=
  s.cmds.filter fun d => d.id != c.id && decide (d.id < c.mark) && d.names c.handle

/-- The commands on a context of a handle, which its destruction aborts (R148, R176). -/
def ctxUsers (s : State) (h : Handle) : List Cmd :=
  s.cmds.filter fun d => d.ctx != 0 && (boundTo s h).any (fun x => x.part == d.part && x.num == d.ctx) && abortable s d

/-- The eviction completes once no other command names the handle. -/
def evictRow (c : Cmd) (s : State) : State :=
  let h := c.handle
  let s := endWait c.id s
  if s.jobs.any fun j => j.h == h && j.swap && j.stage != .header then
    finish c.id 0x23 h.val true noPayload s
  else
    let first := s.models[h].st != .evicting
    let s := if first then setCmd c.id (fun d => { d with mark := s.nextCmd }) (setModel h (fun m => { m with st := .evicting }) s)
      else s
    let c := if first then { c with mark := s.nextCmd } else c
    let ts := if first ∧ bitAt (c.byte 16) 0 then (users s c).filter (abortable s) else []
    let s := ts.foldl (fun s d => abortCmd d.id 3 s) s
    let s := setCmd c.id (fun d => { d with count := d.count + ts.length }) s
    if users s c ≠ [] ∨ (passOf s (.handle h)).isSome ∨ s.models[h].repairing.isSome then
      setCmd c.id (fun d => { d with phase := .ready }) s
    else
      let s := (ctxUsers s h).foldl (fun s d => abortCmd d.id 2 s) s
      let u := heldUnits s h
      let n := (boundTo s h).length
      let k := ((cmdOf s c.id).map (·.count)).getD 0
      finish c.id 0x00 0 false (payloadOf [(0, 4, u), (4, 2, n), (6, 2, k)]) (freeModel h s)

def execModelEvict (id : Nat) (s : State) : Host.Outcome State Fault Refusal := live s (atAdmission 0x12 id evictRow)

end Sys2Proof.Machine
end

