-- ==== Sys2Proof/Machine/Commands.lean ====
section
/-! DEFINITION. NOP, FENCE, MODEL_PIN, MODEL_QUERY, MASK_LOAD, MASK_BIND and KERNEL (07), and DEFERRED_START (08). -/

namespace Sys2Proof.Machine

def execNop (id : Nat) (s : State) : Host.Outcome State Fault Refusal :=
  live s (atAdmission 0x01 id fun c s => finish c.id 0x00 0 false noPayload s)

/-- FENCE (R172): every command of the partition that was fetched before it has completed. -/
def fenceRow (id : Nat) (s : State) : State :=
  match cmdOf s id with
  | none => s
  | some c =>
    if c.op ≠ 0x02 ∨ s.cmds.any fun d => d.part == c.part && decide (d.id < id) then s
    else atAdmission 0x02 id (fun c s => finish c.id 0x00 0 false (payloadOf [(0, 4, c.count)]) s) s

def execFence (id : Nat) (s : State) : Host.Outcome State Fault Refusal := live s (fenceRow id)

def execModelPin (id : Nat) (s : State) : Host.Outcome State Fault Refusal :=
  live s (atAdmission 0x13 id fun c s =>
    let was := s.models[c.handle].pinned
    finish c.id 0x00 0 false (payloadOf [(0, 1, b2n was)])
      (setModel c.handle (fun m => { m with pinned := c.byte 16 == 1 }) s))

/-- The payload of MODEL_QUERY (R178). The header of a handle that loads is that of its load. -/
def queryPayload (s : State) (h : Handle) : List Byte :=
  let m := s.models[h]
  let hdr := if m.st = .loading then ((jobOn s h).map (·.hdr)).getD m.hdr else m.hdr
  let drafts := s.cmds.any fun d => d.phase == .running && d.specK != 0 && d.draft == h
  let mark := if m.st = .swapping then m.front else if m.st = .degraded then m.badLayers.min?.getD 0xFFFF else 0xFFFF
  payloadOf [(0, 8, hdr.modelId), (8, 1, modelStCode m.st), (9, 1, m.owner.val), (10, 1, b2n m.pinned + 2 * b2n drafts),
    (12, 2, hdr.layers), (14, 2, mark)]

def execModelQuery (id : Nat) (s : State) : Host.Outcome State Fault Refusal :=
  live s (atAdmission 0x14 id fun c s => finish c.id 0x00 0 false (queryPayload s c.handle) s)

/-! ### Masks (R189, R190) -/

def setMask (p : Part) (m : Fin 32) (k : Option Mask) (s : State) : State :=
  { s with masks := s.masks.set p (s.masks[p].set m k) }

/-- The units charged for the mask in a handle. -/
def maskUnits (s : State) (p : Part) (m : Fin 32) : Nat :=
  ((s.objs.filter fun o => o.part == p && o.kind == .mask m none).map fun o => (o.ext.map (·.2)).sum).sum

def dropMask (p : Part) (m : Fin 32) : State → State := dropObjs fun o => o.part == p && o.kind == .mask m none

/-- The bytes of a MASK_LOAD are checked, and the new mask takes the handle. -/
def takeMask (id : Nat) (b : List Byte) (s : State) : State :=
  match cmdOf s id with
  | none => s
  | some c =>
    let m : Fin 32 := Fin.ofNat 32 (c.byte 17)
    let v := c.field 36 4
    match if c.byte 16 = 1 then parseAutomaton b v else parseList b v with
    | none => finish id 0x41 (corruptDetail s 0xFFFF) false noPayload s
    | some k =>
      let s := dropMask c.part m s
      let s := { s with objs := s.objs.map fun o =>
        if o.part = c.part ∧ o.kind = .mask m (some id) then { o with kind := .mask m none } else o }
      finish id 0x00 0 false (payloadOf [(0, 4, maskSize k), (4, 4, maskUnits s c.part m)]) (setMask c.part m (some k) s)

def maskLoadRow (c : Cmd) (s : State) : State :=
  let m : Fin 32 := Fin.ofNat 32 (c.byte 17)
  if c.byte 16 = 3 then
    let u := maskUnits s c.part m
    finish c.id 0x00 0 false (payloadOf [(4, 4, u)]) (setMask c.part m none (dropMask c.part m s))
  else
    let a := c.field 24 8
    readBuf c.id a (c.field 32 4) (fun b s => takeMask c.id b (runCmd c.id s)) (if hostWinBase ≤ a then runCmd c.id s else s)

def execMaskLoad (id : Nat) (s : State) : Host.Outcome State Fault Refusal := live s (atAdmission 0x30 id maskLoadRow)

/-- The state that a binding starts in: STATE, or the start state for 0. -/
def bindState (s : State) (c : Cmd) : Nat :=
  match s.masks[c.part][(Fin.ofNat 32 (c.byte 17) : Fin 32)] with
  | some (.automaton _ _ start _ _) => if c.field 20 4 = 0 then start else c.field 20 4
  | _ => 0

def maskBindRow (c : Cmd) (s : State) : State :=
  let new : Option (Fin 32) := if c.byte 16 = 1 then some (Fin.ofNat 32 (c.byte 17)) else none
  let st := if c.byte 16 = 1 then bindState s c else 0
  let was := if c.ctx = 0 then s.defMask[c.part].map (·.1) else (ctxOf s c.part c.ctx).bind (·.mask)
  let s := if c.ctx = 0 then { s with defMask := s.defMask.set c.part (new.map fun m => (m, st)) }
    else setCtx c.part c.ctx (fun x => { x with mask := new, mstate := st }) s
  finish c.id 0x00 0 false (payloadOf [(0, 1, (was.map (·.val)).getD 0xFF)]) s

def execMaskBind (id : Nat) (s : State) : Host.Outcome State Fault Refusal := live s (atAdmission 0x31 id maskBindRow)

/-! ### KERNEL (R191, R192, R337) -/

/-- Sets are stopped for a KERNEL that no free voices serve. -/
def callVictims (c : Cmd) (s : State) : State :=
  if (choose s c.kVoices c.kMirror).isSome || s.sets.any (·.stopping) then s
  else match victims s (((partCfg s c.part).map (·.cls)).getD 3) c.kVoices c.kMirror with
    | some ks => ks.foldl (fun s k => stopSet k s) s
    | none => s

/-- The code of a KERNEL is read (R170, R191). -/
def readCode (c : Cmd) (s : State) : State :=
  if c.input.length = c.kLen ∨ c.inWant ≠ 0 then s
  else readBuf c.id c.kCode c.kLen (fun b s => setCmd c.id (fun c => { c with input := b }) s) s

/-- KERNEL: admitted, its code is read, and the voices that it needs are called back; at CRIT it does not start. -/
def kernelRow (id : Nat) (s : State) : State :=
  if ((cmdOf s id).map (·.op)) ≠ some 0x38 then s
  else
    let s := admitCmd id s
    match cmdOf s id with
    | none => s
    | some c =>
      if paused s ∨ (setOf s id).isSome then s
      else if c.phase ≠ .running ∧ c.phase ≠ .ready then s
      else readCode c (callVictims c (setCmd id (fun c => { c with phase := .running }) s))

def execKernel (id : Nat) (s : State) : Host.Outcome State Fault Refusal := live s (kernelRow id)

/-! ### DEFERRED_START (R211) -/

def execDeferredStart (id : Nat) (s : State) : Host.Outcome State Fault Refusal :=
  live s fun s => dropOrphans (deferredStart id s)

end Sys2Proof.Machine
end

