-- ==== Sys2Proof/Machine/Dram.lean ====
section
/-! DEFINITION. The stacked-memory controllers (10): requests of a channel and their order, open rows and check words,
refresh, tracking, scrub, counters, and the DMC registers (R261). The bytes of State.mem are what R240 makes visible
at acceptance; the queue of a channel holds what is still to be issued (log entry 15). -/

namespace Sys2Proof.Machine

/-! ### Rows (R245, R247) -/

/-- The controller's rate code and its data rate in MT/s (R261). -/
def dramRate (s : State) : Nat := (s.score.map fun c => c.dram.rate).getD 0
def rateMts : Nat → Nat
  | 1 => 3200 | 2 => 4266 | 3 => 5500 | 4 => 6400 | 5 => 7500 | 6 => 8533 | _ => 0

/-! ### Acceptance (R240 to R244) -/

def isWrite (q : Queued) : Bool := q.req.data.isSome

def overlap (a b : DmcReq) : Bool := a.addr < b.addr + b.len && b.addr < a.addr + a.len

def covers (a b : DmcReq) : Bool := a.addr ≤ b.addr && b.addr + b.len ≤ a.addr + a.len

/-- A channel request lies in one aligned 64-byte piece of this channel (R240). -/
def reqOk (s : State) (c : Chan) (r : DmcReq) : Bool :=
  1 ≤ r.len && r.len ≤ 64 && r.addr / 64 == (r.addr + r.len - 1) / 64 && stackBase ≤ r.addr &&
  r.addr + r.len ≤ stackBase + 0x200000 * usableUnits s && (placeOf s r.addr).chan == c &&
  (match r.data with | some d => d.length == r.len | none => true)

/-- The controller takesReq requests: it is out of self-refresh and its channel has trained (R104, R258). -/
def takesReq (s : State) (c : Chan) : Bool :=
  !s.dmc[ctlOf c].sr && !s.dmc[ctlOf c].exiting && (chanOf s c).joined && s.bsc.joined == BitVec.allOnes 16 &&
  islRuns s (Fin.ofNat 32 (25 + c.val / 8))

/-- The tag of a request (R242, R510): SYSTEM for scrub and BAR2, the batch of the pass whose rows it serves, else its
partition. -/
def reqTag (s : State) (r : DmcReq) : Tag :=
  match r.source with
  | .bar2 | .scrub => .system
  | _ => match s.passes.find? fun p => p.rows.any fun x => r.cmds.contains x.cmd with
    | some p => passTag s p
    | none => (r.part.map Tag.part).getD .system

/-- The island that makes a request; of two at one instant the lower goes first (R240). -/
def sourceIsland (c : Chan) : DmcSource → Nat
  | .streamer => 21 | .voice v => v.val + 1 | .hostDma => 30 | .bar2 => 28 | .scrub => 25 + c.val / 8

def bankOf (s : State) (q : Queued) : Fin 16 := (placeOf s q.req.addr).bank

/-- A read waits on a write under the hazard rules (R243, R244). -/
def hazardWaits (s : State) (h : Channel) : Bool :=
  h.queue.any (·.partialWait) || (!h.fwd && (List.range h.queue.length).any fun k => match h.queue[k]? with
    | some q => !isWrite q && (h.queue.take k).any fun w => isWrite w && bankOf s w == bankOf s q
    | none => false)

/-- A write batch starts (R241). -/
def batchStarts (s : State) (h : Channel) : Bool :=
  let w := (h.queue.filter isWrite).length
  w != 0 && (24 ≤ w || hazardWaits s h || w == h.queue.length)

/-- A request joins the queue, and the channel's lease is requested. -/
def queueDram (c : Chan) (q : Queued) (s : State) : State :=
  let s := setChan c (fun h => { h with queue := h.queue ++ [q] }) s
  request (.dram c) (reqTag s q.req) (setChan c (fun h => { h with batch := h.batch || batchStarts s h }) s)

/-- DMC_REQUEST_ACCEPT: a write becomes visible at once; a read takes its value at once (R240). In FORWARD mode a
read that the youngest overlapping write covers is answered from it, and a read that overlaps otherwise waits
(R244). -/
def accept (c : Chan) (r : DmcReq) (s : State) : State :=
  let h := chanOf s c
  let reads := (h.queue.filter fun q => !isWrite q).length
  let writes := (h.queue.filter isWrite).length
  let first := h.queue.all fun q => decide (q.since < s.clk) || decide (sourceIsland c q.req.source ≤ sourceIsland c r.source)
  if !takesReq s c || !reqOk s c r || !first then s
  else match r.data with
    | some d =>
      if 32 ≤ writes ∨ h.dead then s
      else
        let q : Queued := { req := r, since := s.clk, value := [], lost := badMerges s r.addr r.len, partialWait := false }
        queueDram c q (storeRaw r.addr d s)
    | none =>
      if 48 ≤ reads then s
      else
        let hits := h.queue.filter fun q => isWrite q && overlap q.req r
        let value := memRead s.mem r.addr r.len
        if h.fwd && !h.dead && (match hits.getLast? with | some w => covers w.req r | none => false) then
          send (.dram r (some value)) (bump c 4 1 s)
        else
          let wait := h.fwd && !hits.isEmpty
          let lost := s.bad.filter fun b => (blocksOf r.addr r.len).contains b.1
          let s := if wait then bump c 5 1 s else s
          queueDram c { req := r, since := s.clk, value := value, lost := lost, partialWait := wait } s

def execDmcRequestAccept (c : Chan) (r : DmcReq) (s : State) : Host.Outcome State Fault Refusal :=
  live s (accept c r)

/-! ### Issue (R241, R243, R247 to R250) -/

/-- The order of R240, R243 and R244 lets the k-th request of a queue go: in ROWMATCH a bank with a queued write goes in
acceptance order; overlapping requests do so always; and in FORWARD the writes that a read waits on go before others of their
bank. -/
def inOrder (s : State) (h : Channel) (qs : List Queued) (k : Nat) (q : Queued) : Bool :=
  let before := qs.take k
  let b := bankOf s q
  let clash := fun (x : Queued) => overlap x.req q.req && (isWrite x || isWrite q)
  let moved := fun (x : Queued) => isWrite x && qs.any fun y => y.partialWait && overlap x.req y.req
  before.all (fun x => !clash x) &&
  if h.fwd then moved q || qs.all fun x => !moved x || bankOf s x != b || (qs.drop (k + 1)).contains x && clash x
  else !(qs.any fun w => isWrite w && bankOf s w == b) || before.all fun x => bankOf s x != b

/-- A request of the queue hits the open row of its bank. -/
def hitsRow (s : State) (c : Chan) (q : Queued) : Bool :=
  let p := placeOf s q.req.addr
  isOpenAt s c p.bank p.row

/-- A request of a queue may be issued (R240, R241, R243, R244): writes in batches, and a read in a batch only where no write can
go; one that hits an open row before others, unless the others have waited for 4 µs. -/
def mayIssue (s : State) (c : Chan) (qs : List Queued) (k : Nat) (q : Queued) : Bool :=
  let h := chanOf s c
  let free := (qs.zipIdx.filter fun x => inOrder s h qs x.2 x.1).map (·.1)
  let turn := fun (x : Queued) => if isWrite x then h.batch else !h.batch || !(free.any isWrite)
  inOrder s h qs k q && turn q &&
  (hitsRow s c q || q.since + 4000 ≤ s.clk || !(free.any fun x => turn x && hitsRow s c x))

/-- Uncorrectable blocks that scrub found: counted, and one record of kind 0x20 each (R257). -/
def scrubLost (c : Chan) (lost : List (Nat × Nat)) (s : State) : State :=
  lost.foldl (fun s e => logErr { devErr 0x20 (25 + c.val / 8) s with arg0 := e.1, arg2 := c.val }
    (setChan c (fun h => { h with ue := satAdd 65535 h.ue 1 }) s)) s

/-- Every command whose row used the block ends MEMORY_UNCORRECTABLE (R250): a row of a pass at the pass's commit
point, another command at once; a streamer read ends the whole pass. -/
def endUsers (r : DmcReq) (c : Chan) (s : State) : State :=
  match r.source with
  | .bar2 | .scrub => s
  | .streamer =>
    let hit := fun (p : Pass) => p.rows.any fun x => r.cmds.contains x.cmd
    { s with passes := s.passes.map fun p =>
        if hit p && p.failure.isNone then { p with failure := some (0x42, c.val) } else p }
  | _ =>
    let s := { s with passes := s.passes.map fun p =>
      { p with rowFail := p.rowFail ++ (p.rows.filter fun x => r.cmds.contains x.cmd).map fun x => (x.cmd, 0x42, c.val) } }
    let inPass := fun id => s.passes.any fun p => p.rows.any fun x => x.cmd == id
    r.cmds.foldl (fun s id => if inPass id then s else failCmd id 0x42 c.val s) s

/-- What the ECC of an issued request finds in its blocks, of a write in those that it merges (R248, R249): the uncorrectable
ones. A block that a queued write covers whole does not stay so. -/
def eccJudge (q : Queued) (ecc : Ecc) (s : State) : List (Nat × Nat) × State :=
  let r := q.req
  let us := (blocksOf r.addr r.len).filter fun u => !isWrite q || u < r.addr || r.addr + r.len < u + 32
  let parts := match r.part with | some p => [p] | none => []
  let tag := if reqTag s r == Tag.system then [] else parts
  let (new, t) := readBlocks tag (us.filter fun u => !(q.lost.any (·.1 == u))) ecc s
  let redone := fun (u : Nat) => (chanOf s (placeOf s u).chan).queue.any fun w => isWrite w && w.req.addr ≤ u &&
    u + 32 ≤ w.req.addr + w.req.len
  (q.lost ++ new, { t with bad := t.bad.filter fun b => s.bad.contains b || !redone b.1 })

/-- The reports of R250, or of scrub (R257), and the answer to a read (R240). -/
def answer (c : Chan) (q : Queued) (lost : List (Nat × Nat)) (s : State) : State :=
  let r := q.req
  let part := match r.part with | some p => p.val | none => 0xFF
  let who := if r.part.isSome then r.cmds.head?.bind (cmdOf s) else none
  let s := if lost.isEmpty then s
    else if r.source == DmcSource.scrub then scrubLost c lost s
    else endUsers r c (reportUes lost (if isWrite q then 5 else sourceCode r.source) part who s)
  if isWrite q then s else send (.dram r (if lost.isEmpty then some q.value else none)) s

/-- The lease of a channel ends with its last request (R242). -/
def endLease (c : Chan) (s : State) : State :=
  if (chanOf s c).queue.isEmpty then dropUnits (· == .dram c) s else s

/-- Issue the k-th request of the queue. -/
def issueAt (c : Chan) (k : Nat) (q : Queued) (ecc : Ecc) (s : State) : State :=
  let out := fun (h : Channel) =>
    let qs := h.queue.eraseIdx k
    { h with queue := qs.map fun x => { x with
        partialWait := x.partialWait && qs.any fun y => isWrite y && overlap y.req x.req } }
  let s := moveBursts (isWrite q) (blocksOf q.req.addr q.req.len) (setChan c out s)
  let merges := ((blocksOf q.req.addr q.req.len).filter fun u => u < q.req.addr || q.req.addr + q.req.len < u + 32).length
  let s := if isWrite q then bump c 6 merges s else s
  let (lost, s) := eccJudge q ecc s
  let s := answer c q lost s
  let ends := fun (h : Channel) =>
    let w := (h.queue.filter isWrite).length
    w == 0 || (isWrite q && w ≤ 8 && w != h.queue.length)
  endLease c (setChan c (fun h => { h with batch := (h.batch && !ends h) || batchStarts s h }) s)

/-- The index in the queue of the i-th queued read or write. -/
def nthOf (w : Bool) (i : Nat) (qs : List Queued) : Option Nat :=
  ((List.range qs.length).filter fun k => match qs[k]? with
    | some q => isWrite q == w
    | none => false)[i]?

/-- DMC_REQUEST_ISSUE: under the channel's lease, and not while it retrains or is in self-refresh (R241, R242,
R255, R258). -/
def issue (c : Chan) (w : Bool) (i : Nat) (ecc : Ecc) (s : State) : State :=
  let h := chanOf s c
  match nthOf w i h.queue with
  | none => s
  | some k => match h.queue[k]? with
    | none => s
    | some q =>
      if h.retraining || !takesReq s c || !mayIssue s c h.queue k q then s
      else withLease (.dram c) (reqTag s q.req) (issueAt c k q ecc) s

def execDmcRequestIssue (c : Chan) (w : Bool) (i : Nat) (ecc : Ecc) (s : State) : Host.Outcome State Fault Refusal :=
  live s (issue c w i ecc)

/-- ROW_IDLE_CLOSE: the idle timer of a row with no request queued to it ends (R245). -/
def execRowIdleClose (c : Chan) (b : Fin 16) (s : State) : Host.Outcome State Fault Refusal :=
  live s fun s =>
    let wanted := fun (o : OpenRow) => (chanOf s c).queue.any fun q =>
      bankOf s q == b && (placeOf s q.req.addr).row == o.row
    match (chanOf s c).openRows[b] with
    | none => s
    | some o => if wanted o then s else closeRow c b s

/-! ### Refresh (R251 to R253) -/

/-- What falls due in one slot of a channel, in eighths of the refresh that a slot can issue. -/
def dueOf : Nat → Nat
  | 0 => 4 | 1 => 2 | 2 => 1 | _ => 8

/-- Eighths of an all-bank refresh that one slot issues: one all-bank refresh, or two per-bank ones (R251). -/
def slotWorth (perBank : Bool) : Nat := if perBank then 2 else 8

/-- Refresh cycle time in ns (R237). -/
def refreshNs (s : State) (perBank : Bool) : Nat :=
  if perBank then (if bigPart s then 120 else 90) else if bigPart s then 210 else 180

/-- Issue a slot's refresh: the rows of the refreshed banks close, and REF_WAIT counts the cycles of it while a
request to those banks is queued (R245, R247, R261). -/
def refreshNow (c : Chan) (perBank : Bool) (s : State) : State :=
  let h := chanOf s c
  let hit := fun (b : Fin 16) => !perBank || b.val % 8 == h.pairNext || b.val % 8 == (h.pairNext + 1) % 8
  let waits := h.queue.any fun q => hit (bankOf s q)
  let cycles := refreshNs s perBank * (if perBank then 2 else 1) * rateMts (dramRate s) / 16000
  let s := if waits then bump c 7 cycles s else s
  let s := (((List.range 16).map (Fin.ofNat 16)).filter hit).foldl (fun s b => closeRow c b s) s
  setChan c (fun h => { h with
    pairNext := if perBank then (h.pairNext + 2) % 8 else h.pairNext }) s

/-- One channel in its slot: a due refresh is postponed while a read is queued and fewer than POSTPONE are owed, and
owed ones are repaid when nothing is due (R253). -/
def slotChannel (d : Fin 2) (perBank : Bool) (i : Fin 8) (s : State) : State :=
  let c : Chan := Fin.ofNat 16 (8 * d.val + i.val)
  let h := chanOf s c
  let acc := h.acc + dueOf h.rate
  let dueNow := 8 ≤ acc
  let s := setChan c (fun h => { h with acc := if dueNow then acc - 8 else acc }) s
  let w := slotWorth perBank
  let mayWait := h.queue.any (fun q => !isWrite q) && h.owed + w ≤ 8 * s.dmc[d].postpone && h.rate != 3 && !h.halfNext
  let s :=
    if dueNow then
      if mayWait then setChan c (fun h => { h with owed := h.owed + w }) s else refreshNow c perBank s
    else if h.owed != 0 then
      refreshNow c perBank (setChan c (fun h => { h with owed := h.owed - w }) s)
    else s
  setChan c (fun h => if h.halfNext && h.owed == 0 then { h with rate := 3, halfNext := false } else h) s

/-- The local channels that refresh in a slot (R251). -/
def slotChannels (perBank : Bool) (slot : Nat) : List (Fin 8) :=
  if perBank then (List.range 4).map fun i => Fin.ofNat 8 (i + if slot % 2 = 0 then 0 else 4)
  else [Fin.ofNat 8 (slot % 8)]

/-- REFRESH_SLOT of a controller: a new MODE takes effect at the start of a round. -/
def refreshSlot (d : Fin 2) (s : State) : State :=
  if s.dmc[d].sr || !islRuns s (Fin.ofNat 32 (25 + d.val)) || !refreshOn s then s
  else
    let s := setDmc d (fun x => if x.slot = 0 then { x with modeNow := x.mode } else x) s
    let pb := s.dmc[d].modeNow
    let s := (slotChannels pb s.dmc[d].slot).foldl (fun s i => slotChannel d pb i s) s
    setDmc d (fun x => { x with slot := (x.slot + 1) % 16 }) s

def execRefreshSlot (d : Fin 2) (s : State) : Host.Outcome State Fault Refusal := live s (refreshSlot d)

/-- What MR4 of one channel asks for (R252, R253): × 0.5 waits until nothing is owed; a hotter request sets HOT,
with a record when it becomes 1. -/
def mr4One (d : Fin 2) (i : Fin 8) (v : Mr4) (s : State) : State :=
  let c : Chan := Fin.ofNat 16 (8 * d.val + i.val)
  let half := fun (s : State) => setChan c (fun h =>
    if h.rate = 3 then h else if h.owed = 0 then { h with rate := 3, halfNext := false }
    else { h with rate := 0, halfNext := true }) s
  let set := fun (r : Nat) => setChan c (fun h => { h with rate := r, halfNext := false }) s
  match v with
  | .x1 => set 0
  | .x2 => set 1
  | .x4 => set 2
  | .half => half s
  | .hotter value =>
    let was := (chanOf s c).hot
    let s := half (setChan c (fun h => { h with hot := true }) s)
    if was then s else logErr { devErr 0x21 (25 + d.val) s with arg1 := value, arg2 := c.val } s

def execMr4Poll (d : Fin 2) (vs : List Mr4) (s : State) : Host.Outcome State Fault Refusal :=
  live s fun s =>
    if s.dmc[d].sr || !islRuns s (Fin.ofNat 32 (25 + d.val)) then s
    else (List.range 8).foldl (fun s i => match vs[i]? with
      | some v => mr4One d (Fin.ofNat 8 i) v s
      | none => s) s

/-! ### Tracking, scrub and self-refresh (R255 to R258) -/

/-- RETRAIN_COMPLETE: the channel resumes, source 33 occurs and RETRAINS counts; a third failure in succession fails
the channel (R255, R256). -/
def retrainComplete (c : Chan) (ok : Bool) (s : State) : State :=
  let h := chanOf s c
  if !h.retraining then s
  else if ok then
    report 33 (setDmc (ctlOf c) (fun d => { d with retrains := satAdd 65535 d.retrains 1 })
      (setChan c (fun h => { h with retraining := false, tries := 0 }) s))
  else if h.tries + 1 < 3 then setChan c (fun h => { h with tries := h.tries + 1 }) s
  else
    let s := setChan c (fun h => { h with retraining := false, tries := 0, dead := true }) s
    logErr { devErr 0x22 (25 + c.val / 8) s with arg1 := 3, arg2 := c.val } s

def execRetrainComplete (c : Chan) (ok : Bool) (s : State) : Host.Outcome State Fault Refusal :=
  live s (retrainComplete c ok)

/-- The next position of scrub: burst, row, bank, local channel; a complete pass counts, and source 32 occurs
(R257). -/
def scrubNext (d : Fin 2) (s : State) : State :=
  let x := s.dmc[d]
  if x.posBurst + 1 < 64 then setDmc d (fun x => { x with posBurst := x.posBurst + 1 }) s
  else if x.posRow + 1 < dataRows s then setDmc d (fun x => { x with posBurst := 0, posRow := x.posRow + 1 }) s
  else if x.posBank + 1 < 16 then setDmc d (fun x => { x with posBurst := 0, posRow := 0, posBank := x.posBank + 1 }) s
  else if x.posChannel + 1 < 8 then
    setDmc d (fun x => { x with posBurst := 0, posRow := 0, posBank := 0, posChannel := x.posChannel + 1 }) s
  else
    report 32 (setDmc d (fun x => { x with
      posBurst := 0
      posRow := 0
      posBank := 0
      posChannel := 0
      passes := x.passes + 1 }) s)

/-- The request of the next data block of scrub. -/
def scrubReq (s : State) (d : Fin 2) (c : Chan) : Queued :=
  let x := s.dmc[d]
  { req := { source := .scrub, cmds := [], part := none, addr := addrOf s c x.posBank x.posRow x.posBurst, len := 32, data := none },
    since := s.clk, value := [], lost := [], partialWait := false }

/-- SCRUB_READ: the next data block, when a request of it would have its turn behind those queued, under a SYSTEM-tagged lease
(R242, R257). -/
def scrubRead (d : Fin 2) (ecc : Ecc) (s : State) : State :=
  let c : Chan := Fin.ofNat 16 (8 * d.val + s.dmc[d].posChannel)
  let q := scrubReq s d c
  let qs := (chanOf s c).queue
  if !takesReq s c || (chanOf s c).retraining || 48 ≤ (qs.filter fun x => !isWrite x).length ||
      !mayIssue s c (qs ++ [q]) qs.length q then s
  else withLease (.dram c) .system (fun s =>
    let (lost, s) := eccJudge q ecc (moveBursts false [q.req.addr] s)
    endLease c (scrubNext d (scrubLost c lost s))) s

def execScrubRead (d : Fin 2) (ecc : Ecc) (s : State) : Host.Outcome State Fault Refusal := live s (scrubRead d ecc)

/-- The queued writes of a channel are issued, in order. -/
def drainWrites (c : Chan) : Nat → State → State
  | 0, s => s
  | k + 1, s =>
    let qs := (chanOf s c).queue
    match qs.findIdx? isWrite with
    | none => s
    | some i => match qs[i]? with
      | some q => drainWrites c k (issueAt c i q [] s)
      | none => s

def allChans : List Chan := (List.range 16).map (Fin.ofNat 16)

/-- Entry to self-refresh (R258), `down` with the PHY powered down: queued writes are issued, check registers are written back,
every row closes, each channel is refreshed once, and leases end. Queued reads wait for the exit. -/
def enterSelfRefresh (down : Bool) (s : State) : State :=
  let s := allChans.foldl (fun s c => refreshNow c false (closeAll c (drainWrites c 32 s))) s
  let s := { s with dmc := s.dmc.map fun d => { d with sr := true, down := down, exiting := false } }
  dropUnits (fun u => match u with | .dram _ => true | _ => false) s

/-- The start of exit: SR is 0, and requests wait until the exit completes (R258). -/
def startSelfRefreshExit (s : State) : State :=
  { s with dmc := s.dmc.map fun d => if d.sr then { d with sr := false, exiting := true } else d }

/-- A channel retrains: it stops issuing and writes back its check registers (R255). -/
def startRetrain (c : Chan) (s : State) : State := setChan c (fun h => { h with retraining := true }) (closeAll c s)

/-- A drift in mUI above 0.25 UI retrains the channel (R255). -/
def trackDrift (c : Chan) (drift : Nat) (s : State) : State :=
  let h := chanOf s c
  if drift ≤ 250 || !h.joined || h.dead then s else startRetrain c s

/-- SELF_REFRESH_EXIT_COMPLETE: one refresh of each channel; after a PHY power-down the check of R255, whose drift is a free
value (log entry 3); then requests are accepted, and those still queued want their leases again. -/
def exitDone (d : Fin 2) (s : State) : State :=
  if !s.dmc[d].exiting then s
  else
    let cs := allChans.filter fun c => ctlOf c == d
    let s := cs.foldl (fun s c => refreshNow c false s) s
    let s := if s.dmc[d].down then
        cs.foldl (fun s c => trackDrift c (Config.freeNat (s.freeCtr + c.val)) s) { s with freeCtr := s.freeCtr + 16 }
      else s
    let s := setDmc d (fun x => { x with exiting := false, down := false }) s
    cs.foldl (fun s c => match (chanOf s c).queue with
      | q :: _ => request (.dram c) (reqTag s q.req) s
      | [] => s) s

def execSelfRefreshExitComplete (d : Fin 2) (s : State) : Host.Outcome State Fault Refusal := live s (exitDone d)

/-- DQS_TRACK: the drift that a channel's oscillator shows (R255). -/
def execDqsTrack (c : Chan) (drift : Nat) (s : State) : Host.Outcome State Fault Refusal :=
  live s fun s => if s.dmc[ctlOf c].sr then s else trackDrift c drift s

/-- HAZARD_APPLY: the staged mode applies once the write queue is empty (R260). -/
def execHazardApply (c : Chan) (s : State) : Host.Outcome State Fault Refusal :=
  live s fun s =>
    let b := s.dmc[ctlOf c].staged.getLsbD (localOf c).val
    setChan c (fun h => if h.queue.any isWrite then h else { h with fwd := b }) s

/-! ### The DMC registers (R261) -/

def cntSnap (d : Fin 2) (s : State) : State :=
  setDmc d (fun x => { x with chans := x.chans.map fun h => { h with snap := h.live } }) s
def cntClear (d : Fin 2) (s : State) : State :=
  setDmc d (fun x => { x with chans := x.chans.map fun h => { h with live := Vector.replicate 8 0 } }) s

/-- DMC_CNT_CTRL: CLEAR after any SNAP of the same write. -/
def cntCtrl (d : Fin 2) (v : Word) (s : State) : State :=
  let s := if v.getLsbD 0 then cntSnap d s else s
  if v.getLsbD 1 then cntClear d s else s

def dmcBase (d : Fin 2) : Nat := 0x8000 + 0x1000 * d.val

def execDmcCntSnap (d : Fin 2) (s : State) : Host.Outcome State Fault Refusal :=
  live s (regWrite (dmcBase d + 0x100) (whenRuns (dmcBase d + 0x100) 1 (cntCtrl d 1)))
def execDmcCntClear (d : Fin 2) (s : State) : Host.Outcome State Fault Refusal :=
  live s (regWrite (dmcBase d + 0x100) (whenRuns (dmcBase d + 0x100) 2 (cntCtrl d 2)))

/-- A channel trains (R104): every earlier channel of its controller has joined. DESIGN CHOICE (log entry 28): after a channel's
third failure the later channels of its controller never begin, and the other controller goes on (R105). -/
def isTraining (s : State) (c : Chan) : Bool :=
  let h := chanOf s c
  s.bsc.stage == .train && !h.joined && !h.failed && islRuns s (Fin.ofNat 32 (25 + c.val / 8)) &&
  ((List.range 8).map fun i => (Fin.ofNat 16 (c.val / 8 * 8 + i) : Chan)).all fun d =>
    c.val ≤ d.val || (chanOf s d).joined

/-- The step that a look at a training channel finds in progress (R254): no row tells when a step ends, so it is a free
value from the step last seen to 8 (log entry 29). BSC_POS_UNIT shows that of its channel. -/
def trainSeen (s : State) : State :=
  match ((List.range 16).map (Fin.ofNat 16)).filter (isTraining s) with
  | [] => s
  | c :: cs =>
    let s := { s with freeCtr := s.freeCtr + 16 }
    let seen := fun (c : Chan) => setChan c fun h => { h with
      step := h.step + Config.freeNat (s.freeCtr + c.val) % (9 - h.step) }
    let s := (c :: cs).foldl (fun s c => seen c s) s
    { s with bsc := { s.bsc with layer := (chanOf s c).step } }

/-- A word whose bit i is `f i`, for i below 8, from bit `lo`. -/
def bits8 (lo : Nat) (f : Fin 8 → Bool) : Nat := maskOf 8 (fun i => f (Fin.ofNat 8 i)) * 2 ^ lo

def dmcRead (d : Fin 2) (off : Nat) (s : State) : Option Word :=
  let s := trainSeen s
  let x := s.dmc[d]
  let o := off - dmcBase d
  let ch := fun (b : Nat) => x.chans[Fin.ofNat 8 ((o - b) / 4)]
  if o % 4 ≠ 0 then none
  else match o with
    | 0x000 => some (w32 (dramRate s + 0x10 * orderOf s d.val + 0x100 * b2n (bigPart s)))
    | 0x004 => some (w32 (x.staged.toNat + bits8 8 fun i => x.chans[i].fwd))
    | 0x008 => some (w32 x.idle)
    | 0x00C => some (w32 (b2n x.mode + 0x100 * x.postpone))
    | 0x010 => some (w32 ((List.range 8).map fun i => x.chans[Fin.ofNat 8 i].rate * 4 ^ i).sum)
    | 0x014 => some (w32 ((List.range 8).map fun i => x.chans[Fin.ofNat 8 i].owed / 8 * 16 ^ i).sum)
    | 0x018 => some (w32 (b2n x.sr + (bits8 8 fun i => x.chans[i].hot) + (bits8 16 fun i => x.chans[i].dead)))
    | 0x01C => some (w32 (x.period + 0x10000 * x.retrains))
    | 0x020 => some (lo32 x.errAddr)
    | 0x024 => some (hi32 x.errAddr)
    | 0x028 => some (w32 (x.errChannel + 0x100 * x.errSource + 0x1000 * x.errKind + 0x80000000 * b2n x.errValid))
    | 0x02C => some (w32 x.hours)
    | 0x030 => some (w32 (x.posChannel + 0x10 * x.posBank + 0x100 * x.posRow + 0x800000 * x.posBurst))
    | 0x034 => some x.passes
    | 0x100 => some 0
    | _ =>
      if 0x040 ≤ o ∧ o < 0x060 then
        let h := ch 0x040
        some (w32 (h.step + 0x10 * h.attempt + 0x100 * b2n h.joined + 0x200 * b2n h.failed + 0x10000 * h.ms))
      else if 0x080 ≤ o ∧ o < 0x0A0 then some (w32 ((ch 0x080).ce + 0x10000 * (ch 0x080).link))
      else if 0x0A0 ≤ o ∧ o < 0x0C0 then some (w32 (ch 0x0A0).ue)
      else if 0x200 ≤ o ∧ o < 0x300 then
        some (w32 (x.chans[Fin.ofNat 8 ((o - 0x200) / 0x20)]).snap[Fin.ofNat 8 ((o - 0x200) % 0x20 / 4)])
      else none

/-- RC fields: RETRAINS, CE with LINK, UE. -/
def dmcReadEff (d : Fin 2) (off : Nat) (s : State) : State :=
  let s := trainSeen s
  let o := off - dmcBase d
  let at_ := fun (b : Nat) (f : Channel → Channel) =>
    setChan (Fin.ofNat 16 (8 * d.val + (o - b) / 4)) f s
  if o = 0x01C then setDmc d (fun x => { x with retrains := 0 }) s
  else if 0x080 ≤ o ∧ o < 0x0A0 then at_ 0x080 fun h => { h with ce := 0, link := 0 }
  else if 0x0A0 ≤ o ∧ o < 0x0C0 then at_ 0x0A0 fun h => { h with ue := 0 }
  else s

/-- Writes; a value outside a field's stated range is a reserved encoding. -/
def dmcWrite (d : Fin 2) (off : Nat) (v : Word) (s : State) : Option State :=
  let o := off - dmcBase d
  let n := v.toNat
  let bad := regRefused off v 1 s
  match o with
  | 0x004 => some (setDmc d (fun x => { x with staged := BitVec.ofNat 8 n }) s)
  | 0x008 => some (setDmc d (fun x => { x with idle := bits n 15 0 }) s)
  | 0x00C =>
    if 8 < bits n 11 8 then some bad
    else some (setDmc d (fun x => { x with mode := bitAt n 0, postpone := bits n 11 8 }) s)
  | 0x018 =>
    let f := fun (x : Dmc) => Vector.ofFn fun (i : Fin 8) =>
      { x.chans[i] with hot := x.chans[i].hot && !bitAt n (8 + i.val) }
    some (setDmc d (fun x => { x with chans := f x }) s)
  | 0x01C => if bits n 7 0 = 0 then some bad else some (setDmc d (fun x => { x with period := bits n 7 0 }) s)
  | 0x028 => some (setDmc d (fun x => { x with errValid := x.errValid && !bitAt n 31 }) s)
  | 0x02C =>
    if bits n 7 0 = 0 ∨ 168 < bits n 7 0 then some bad
    else some (setDmc d (fun x => { x with hours := bits n 7 0 }) s)
  | 0x100 => some (whenRuns off v (cntCtrl d v) s)
  | _ => (dmcRead d off s).map fun _ => s

/-! ### Section scrub (R342, R343) -/

/-- SECTION_SCRUB: the scrub port reads the word at an offset of its section, under the section's grant, which ends with it
(R341); an uncorrectable one loads VCE_SEC_UE and VCE_SEC_UE_ADDR. -/
def sectionScrub (m : Fin 4) (offset : Nat) (ecc : Ecc) (s : State) : State :=
  let a := 0x800000 * m.val + offset / 8 * 8
  if !islRuns s (Fin.ofNat 32 (17 + m.val)) || 0x600000 ≤ offset then s
  else withBurst (.secMem m) .system (fun s =>
    let (res, s) := readNear a 8 ecc [] s
    match res with
    | .ok _ => s
    | .bad _ => setSection m (fun x => { x with ue := x.ue + 1, ueAddr := offset / 8 * 8 }) s) s

def execSectionScrub (m : Fin 4) (offset : Nat) (ecc : Ecc) (s : State) : Host.Outcome State Fault Refusal :=
  live s (sectionScrub m offset ecc)

end Sys2Proof.Machine
end

