-- ==== Sys2Proof/Machine/Tile.lean ====
section
/-! DEFINITION. The tile, gather and synchronisation instructions of Aznil (16). -/

namespace Sys2Proof.Machine

/-! ### Tile registers (R333 to R336) -/

def fmtBits : Nat → Nat
  | 1 => 4 | 2 => 8 | 3 => 8 | 4 => 8 | 5 => 16 | 6 => 32 | 7 => 32 | _ => 0
def fmtCols : Nat → Nat
  | 1 => 8 | 2 => 4 | 3 => 4 | 4 => 4 | 5 => 2 | 6 => 1 | 7 => 1 | _ => 1

/-- The floating-point format of a code. -/
def fmtOf : Nat → Fmt
  | 3 => e4m3 | 4 => e5m2 | 5 => bf16 | _ => binary32

/-- The row length R in bytes. -/
def rowLen (t : Tile) : Nat := t.cols * fmtBits t.fmt / 8

def tileOf (s : State) (n : Voice) (t : Fin 16) : Tile := (voiceOf s n).tiles[t]

/-- Write a tile register: a latch that holds it is emptied (R340). -/
def setTile (n : Voice) (t : Fin 16) (x : Tile) (s : State) : State :=
  setVoice n (fun v => { v with
    tiles := v.tiles.set t x
    latchA := if v.latchA = some t then none else v.latchA
    latchB := if v.latchB = some t then none else v.latchB }) s

/-- The bytes of a tile, R per row. -/
def tileBytes (t : Tile) : List Byte :=
  let n := t.rows * rowLen t
  (t.data ++ List.replicate (n - t.data.length) 0).take n

def tileRow (t : Tile) (i : Nat) : List Byte := slice (tileBytes t) (i * rowLen t) (rowLen t)

/-- The code of element (i, j). -/
def tileCode (t : Tile) (i j : Nat) : Nat :=
  let k := i * t.cols + j
  match t.fmt with
  | 1 => byteAt t.data (k / 2) / (if k % 2 = 0 then 1 else 16) % 16
  | 5 => le (t.data ++ [0, 0]) (2 * k) 2
  | 6 | 7 => le (t.data ++ [0, 0, 0, 0]) (4 * k) 4
  | _ => byteAt t.data k

/-- Bytes of row-major element codes. -/
def packNibbles : List Nat → List Byte
  | a :: b :: r => BitVec.ofNat 8 (a % 16 + 16 * (b % 16)) :: packNibbles r
  | [a] => [BitVec.ofNat 8 (a % 16)]
  | [] => []

def packCodes (fmt : Nat) (cs : List Nat) : List Byte :=
  if fmt = 1 then packNibbles cs else cs.flatMap fun c => toLe (fmtBits fmt / 8) c

/-- A tile with every element given by a function. -/
def tileFill (t : Tile) (f : Nat → Nat → Nat) : Tile :=
  { t with data := packCodes t.fmt ((List.range (t.rows * t.cols)).map fun k => f (k / t.cols) (k % t.cols)) }

/-- The integer value of an INT4 or INT8 element; the escape code counts as 0 (R377). -/
def isEscape (fmt c : Nat) : Bool := (fmt == 1 && c == 8) || (fmt == 2 && c == 0x80)
def intVal (fmt c : Nat) : Int := if isEscape fmt c then 0 else signed (fmtBits fmt) c

/-- The value of an element of any format. -/
def elemVal (fmt c : Nat) : Fl :=
  if fmt = 1 ∨ fmt = 2 then ofInt (intVal fmt c) 0 false
  else if fmt = 7 then ofInt (signed 32 c) 0 false
  else (fmtOf fmt).decode c

/-- Convert a value into a tile format: the code, and whether S is set (R326, R384). -/
def toFmt (fmt : Nat) (x : Fl) : Nat × Bool :=
  if fmt = 7 then match x with
    | .nan => (0, true)
    | .inf neg => (if neg then 0x80000000 else 0x7FFFFFFF, true)
    | x =>
      let q := x.toInt
      if q < -(2 ^ 31 : Int) then (0x80000000, true) else if (2 ^ 31 - 1 : Int) < q then (0x7FFFFFFF, true)
      else (unsigned 32 q, false)
  else (fmtOf fmt).round x

/-- Fill a tile with values, each with its S flag. -/
def fillVals (n : Voice) (d : Fin 16) (f : Nat → Nat → Nat × Bool) (s : State) : State :=
  let t := tileOf s n d
  let ks := (List.range (t.rows * t.cols)).map fun k => f (k / t.cols) (k % t.cols)
  setSat n (ks.any (·.2)) (setTile n d { t with data := packCodes t.fmt (ks.map (·.1)) } s)

/-- Go on only when each named tile is LIVE (R336). -/
def needLive (n : Voice) (ts : List (Fin 16)) (k : State → Ran) (s : State) : Ran :=
  match ts.find? fun t => !(tileOf s n t).live with
  | some t => .halt (haltEmpty t.val) false s
  | none => k s

/-- Go on only when no check of the list fails; each is a condition with its SHAPE halt (R393). -/
def needShape (cs : List (Bool × Nat × Nat)) (k : State → Ran) (s : State) : Ran :=
  match cs.find? fun c => !c.1 with
  | some (_, t, d) => .halt (haltShape t d) false s
  | none => k s

/-- A SHAPE halt for a count names no register, so TILE is open (log entry 3). -/
def haltCount (s : State) : Ran :=
  .halt (haltShape (Config.freeNat s.freeCtr % 32) 7) false { s with freeCtr := s.freeCtr + 1 }

/-! ### Accumulators -/

def accOf (s : State) (n : Voice) (a : Fin 4) : Accum := (voiceOf s n).accs[a]
def setAcc (n : Voice) (a : Fin 4) (x : Accum) (s : State) : State :=
  setVoice n (fun v => { v with accs := v.accs.set a x }) s
def accAt (x : Accum) (i j : Nat) : Word := x.data.getD (32 * i + j) 0
def fAcc (w hi lo : Nat) : Fin 4 := Fin.ofNat 4 (bits w hi lo)

/-- Replace the elements with i < m and j < k. -/
def accFill (x : Accum) (kind : AccKind) (m k : Nat) (f : Nat → Nat → Word) : Accum :=
  let len := max x.data.length (if m = 0 ∨ k = 0 then 0 else 32 * (m - 1) + k)
  { kind := kind
    data := (List.range len).map fun e => if e / 32 < m ∧ e % 32 < k then f (e / 32) (e % 32) else x.data.getD e 0 }

/-! ### TCFG and TREL (R334, R335, R371, R372) -/

/-- The first rule of R334 that a descriptor breaks; 0 when it passes. -/
def tcfgRule (rows cols fmt : Nat) : Nat :=
  if rows < 1 ∨ 64 < rows then 1
  else if cols < 1 ∨ 256 < cols then 2
  else if fmt < 1 ∨ 7 < fmt then 3
  else if 16384 < rows * cols * fmtBits fmt then 4
  else if cols % fmtCols fmt ≠ 0 then 5
  else 0

def execTcfg (n : Voice) (s : State) : Host.Outcome State Fault Refusal :=
  live s (insn n 0x20 0 fun w s =>
    let d := (sReg s n (fA w)).toNat
    let rows := bits d 6 0
    let cols := bits d 16 8
    let fmt := bits d 23 20
    let rule := tcfgRule rows cols fmt
    if rule ≠ 0 then .halt (haltTcfg (fD w).val rule) false s
    else .next (setTile n (fD w) { live := true, rows := rows, cols := cols, fmt := fmt, data := [] } s))

def execTrel (n : Voice) (s : State) : Host.Outcome State Fault Refusal :=
  live s (insn n 0x21 0 fun w s =>
    let s := (List.range 16).foldl (fun s t => if bitAt w t then setTile n (Fin.ofNat 16 t) Tile.empty s else s) s
    .next ((List.range 4).foldl (fun s a => if bitAt w (18 + a) then setAcc n (Fin.ofNat 4 a) Accum.empty s else s) s))

/-! ### Loads, stores and moves (R373 to R375) -/

/-- The row addresses of TLD and TST. -/
def rowAddrs (s : State) (n : Voice) (w : Nat) (t : Tile) : List Nat :=
  let base := baseOf s n (fA w) (bitAt w 9)
  let stride := (sReg s n (fB w)).toNat
  (List.range t.rows).map fun (i : Nat) => addr40 ((base + i * stride : Nat) : Int) 4

/-- The blocks or words that an access touches. -/
def eccUnits (a n : Nat) : Nat := (if stackBase ≤ a then blocksOf a n else wordsOf a n).length

/-- Read rows in order; the ECC operand lists what they find, row after row. -/
def readRows (n : Voice) (len : Nat) : List Nat → Ecc → List Byte → State → (List Byte → State → Ran) → Ran
  | [], _, acc, s, k => k acc s
  | a :: as, ecc, acc, s, k =>
    match readMem a len ecc (voiceParts s n) s with
    | (.ok bs, s) => readRows n len as (ecc.drop (eccUnits a len)) (acc ++ bs) s k
    | (.bad bads, s) => haltUe n bads a none s

/-- The first and the last byte of each row. -/
def rowEnds (as : List Nat) (len : Nat) : List Nat := as.flatMap fun a => [a, a + len - 1]

/-- Every row lies within reach, or the halt names the lowest failing row. -/
def needRows (n : Voice) (store : Bool) (as : List Nat) (len : Nat) (k : State → Ran) (s : State) : Ran :=
  match as.find? fun a => !reaches s n store a len with
  | some a => haltOutside n a none s
  | none => withSections n (rowEnds as len) (if store then k else stripGate n (rowEnds as len) k) s

def execTld (n : Voice) (ecc : Ecc) (s : State) : Host.Outcome State Fault Refusal :=
  live s (insn n 0x22 0 fun w s => needLive n [fD w] (fun s =>
    let t := tileOf s n (fD w)
    let as := rowAddrs s n w t
    needRows n false as (rowLen t) (fun s =>
      readRows n (rowLen t) as ecc [] s fun bs s => .next (setTile n (fD w) { t with data := bs } s)) s) s)

/-- Store rows in order, so a later row wins. -/
def writeRows (n : Voice) : List (Nat × List Byte) → (State → Ran) → State → Ran
  | [], k, s => k s
  | (a, bs) :: rest, k, s => putBytes n a bs none (writeRows n rest k) s

def execTst (n : Voice) (s : State) : Host.Outcome State Fault Refusal :=
  live s (insn n 0x23 0 fun w s => needLive n [fD w] (fun s =>
    let t := tileOf s n (fD w)
    let as := rowAddrs s n w t
    needRows n true as (rowLen t) (fun s =>
      writeRows n ((List.range t.rows).map fun i => (as.getD i 0, tileRow t i)) .next s) s) s)

/-- SCLD: n BF16 values into the scale registers (R374). -/
def setSc (n : Voice) (i : Nat) (x : BitVec 16) (s : State) : State :=
  setVoice n (fun v => { v with
    sc := (v.sc ++ List.replicate (i + 1 - v.sc.length) 0).set i x }) s

def scAt (v : VoiceSt) (i : Nat) : Nat := (v.sc.getD (i % 256) 0).toNat

def execScld (n : Voice) (ecc : Ecc) (s : State) : Host.Outcome State Fault Refusal :=
  live s (insn n 0x2B 0 fun w s =>
    let cnt := (sReg s n (fB w)).toNat
    let a := baseOf s n (fA w) (bitAt w 9) / 2 * 2
    let b := (sReg s n (fD w)).toNat
    if 256 < cnt then haltCount s
    else if cnt = 0 then .next s
    else loadBytes n a (2 * cnt) ecc (fun bs s =>
      .next ((List.range cnt).foldl (fun s k => setSc n ((b + k) % 256) (BitVec.ofNat 16 (le bs (2 * k) 2)) s) s)) s)

/-- TRDA: an accumulator into a tile (R375). -/
def execTrda (n : Voice) (s : State) : Host.Outcome State Fault Refusal :=
  live s (insn n 0x2C 0 fun w s => needLive n [fD w] (fun s =>
    let t := tileOf s n (fD w)
    let ai := fAcc w 17 16
    let a := accOf s n ai
    let fmtOk := t.fmt == 5 || t.fmt == 6 || (t.fmt == 7 && a.kind != .fp32)
    needShape [(a.kind != .empty, 16 + ai.val, 5), (fmtOk, (fD w).val, 1), (t.rows ≤ 32 && t.cols ≤ 32, (fD w).val, 2)]
      (fun s =>
        let val := fun i j => match a.kind with
          | .int32 => ofInt (accAt a i j).toInt 0 false
          | _ => f32v (accAt a i j).toNat
        .next (fillVals n (fD w) (fun i j => toFmt t.fmt (val i j)) s)) s) s)

/-! ### Matrix multiply (R376, R377) -/

/-- The pairings of TMMA: none, integer, floating. -/
def pairing (a b : Nat) : Option Bool :=
  if a = 2 ∧ (b = 1 ∨ b = 2) then some false
  else if (a = 3 ∨ a = 4) ∧ (b = 3 ∨ b = 4) then some true
  else if a = 5 ∧ b = 5 then some true
  else none

/-- Σ over k of Tx(i, k) × Tw(j, k), exactly. -/
def dotInt (x w : Tile) (i j : Nat) : Int :=
  ((List.range x.cols).map fun k => intVal x.fmt (tileCode x i k) * intVal w.fmt (tileCode w j k)).sum

def dotFl (start : Fl) (x w : Tile) (i j : Nat) : Fl :=
  (List.range x.cols).foldl (fun acc k =>
    acc.add ((elemVal x.fmt (tileCode x i k)).mul (elemVal w.fmt (tileCode w j k)))) start

/-- One element of an integer accumulation, clamped, with its S flag. -/
def clamp32 (x : Int) : Word × Bool :=
  if x < -(2 ^ 31 : Int) then (0x80000000, true) else if (2 ^ 31 - 1 : Int) < x then (0x7FFFFFFF, true)
  else (BitVec.ofInt 32 x, false)

/-- The element that TMMA writes. -/
def mmaElem (fp : Bool) (a : Accum) (x w : Tile) (i j : Nat) : Word × Bool :=
  if fp then
    let r := binary32.round (dotFl (if a.kind = .empty then .zero else f32v (accAt a i j).toNat) x w i j)
    (w32 r.1, r.2)
  else clamp32 ((if a.kind = .empty then 0 else (accAt a i j).toInt) + dotInt x w i j)

/-- The array grant, held by renewed leases; the clocks of a wait for it are counted (R332, R390). -/
def withArray (n : Voice) (k : State → Ran) (s : State) : Ran :=
  if holdsGrant s (.voice n .array) then
    k (countVoice n (endArrayWait s) s)
  else
    .wait (request (.voice n .array) (voiceTag s n)
      (countVoice n (fun v => { v with arrayFrom := v.arrayFrom.or (some s.clk) }) s))

/-- The operand latches of the array ports (R340). -/
def useLatches (n : Voice) (x w : Fin 16) (s : State) : State :=
  countVoice n (fun v => { v with
    tmma := satAdd 0xFFFFFFFF v.tmma 1
    reuseA := if v.latchA = some x then satAdd 0xFFFFFFFF v.reuseA 1 else v.reuseA
    reuseB := if v.latchB = some w then satAdd 0xFFFFFFFF v.reuseB 1 else v.reuseB
    latchA := some x
    latchB := some w }) s

def tmmaGo (n : Voice) (w : Nat) (s : State) : Ran :=
  let xi := fA w
  let wi := fB w
  let ai := fAcc w 21 20
  needLive n [xi, wi] (fun s =>
    let x := tileOf s n xi
    let y := tileOf s n wi
    let a := accOf s n ai
    let pr := pairing x.fmt y.fmt
    let first := if x.fmt = 2 ∨ x.fmt = 3 ∨ x.fmt = 4 ∨ x.fmt = 5 then wi.val else xi.val
    let fp := pr.getD false
    let kindOk := a.kind == .empty || a.kind == (if fp then .fp32 else .int32)
    needShape [(pr.isSome, first, 1), (x.cols == y.cols, wi.val, 2), (x.rows ≤ 32, xi.val, 3), (y.rows ≤ 32, wi.val, 3),
        (kindOk, 16 + ai.val, 4)]
      (withArray n fun s =>
        let cell := fun i j => mmaElem fp a x y i j
        let sat := (List.range x.rows).any fun i => (List.range y.rows).any fun j => (cell i j).2
        let s := setAcc n ai (accFill a (if fp then .fp32 else .int32) x.rows y.rows fun i j => (cell i j).1) s
        .next (setSat n sat (useLatches n xi wi s))) s) s

/-- What the comparator of the voice's pair reports for this clock (R451, R453). -/
def compare (n : Voice) (r : CmpReport) (s : State) : Option State :=
  if !pairOn s n || r.code == 1 then none else some (plainClock (pairOf n) r s)

def execTmma (n : Voice) (r : CmpReport) (s : State) : Host.Outcome State Fault Refusal :=
  live s (insn n 0x24 0 fun w s => match compare n r s with
    | some s => .wait s
    | none => tmmaGo n w s)

/-! ### Scales and outliers (R378 to R381) -/

/-- A weight selector, read from its pair. -/
structure WSel where
  base : Nat
  stride : Nat
  tile : Fin 16
  src : Bool
  none : Bool
  row0 : Nat
  col0 : Nat
  n : Nat
  deriving DecidableEq, Repr

def wSel (s : State) (n : Voice) (r : Fin 16) : WSel :=
  let a := (sReg s n r).toNat
  let b := (sReg s n (succ16 r)).toNat
  { base := bits a 7 0, stride := bits a 15 8, tile := Fin.ofNat 16 (bits a 19 16), src := bitAt a 20,
    none := bitAt a 21, row0 := bits b 5 0, col0 := bits b 14 8, n := bits b 21 16 }

/-- sw(j), the weight scale. -/
def wScale (s : State) (n : Voice) (q : WSel) (j : Nat) : Fl :=
  if q.none then .fin false 1 0
  else if q.src then bf16.decode (tileCode (tileOf s n q.tile) (q.base + j) q.stride)
  else bf16.decode (scAt (voiceOf s n) (q.base + j * q.stride))

/-- The scale tile is LIVE BF16 and holds the elements for j below m (SHAPE 6). -/
def wScaleOk (s : State) (n : Voice) (q : WSel) (m : Nat) : Bool :=
  q.none || !q.src || m == 0 ||
  (let t := tileOf s n q.tile
   t.live && t.fmt == 5 && q.base + m ≤ t.rows && q.stride < t.cols)

/-- sx(i), for an activation selector. -/
def xScale (s : State) (n : Voice) (sel : Word) (i : Nat) : Fl :=
  let a := sel.toNat
  if bitAt a 8 then .fin false 1 0 else bf16.decode (scAt (voiceOf s n) (bits a 7 0 + i))

def roundWord (x : Fl) : Word × Bool := ((w32 (binary32.round x).1), (binary32.round x).2)

/-- TSACC: fold a scaled INT32 accumulator into an FP32 one (R379). -/
def execTsacc (n : Voice) (s : State) : Host.Outcome State Fault Refusal :=
  live s (insn n 0x25 0 fun w s =>
    let d := fAcc w 21 20
    let src := fAcc w 19 18
    let a := accOf s n d
    let b := accOf s n src
    let q := wSel s n (fB w)
    let m := bits (sReg s n (fA w)).toNat 21 16
    needShape [(d != src, 16 + d.val, 9), (b.kind != .empty, 16 + src.val, 5), (b.kind == .int32, 16 + src.val, 4),
        (a.kind != .int32, 16 + d.val, 4)] (fun s =>
      if 32 < m ∨ 32 < q.n then haltCount s
      else needShape [(wScaleOk s n q q.n || m == 0, q.tile.val, 6)] (fun s =>
        let cell := fun i j =>
          let old := if a.kind = .empty then Fl.zero else f32v (accAt a i j).toNat
          let prod := ((ofInt (accAt b i j).toInt 0 false).mul (xScale s n (sReg s n (fA w)) i)).mul (wScale s n q j)
          roundWord (old.add prod)
        let sat := (List.range m).any fun i => (List.range q.n).any fun j => (cell i j).2
        let s := setAcc n d (accFill a .fp32 m q.n fun i j => (cell i j).1) s
        .next (setSat n sat (setAcc n src Accum.empty s))) s) s)

/-- Apply one outlier to the rows of an accumulator (R380). -/
def outlier (x : Tile) (sx : Nat → Fl) (j k : Nat) (v : Fl) (acc : Accum × Bool) : Accum × Bool :=
  let cell := fun i =>
    let t := (elemVal x.fmt (tileCode x i k)).mul (if x.fmt = 5 then .fin false 1 0 else sx i)
    roundWord ((f32v (accAt acc.1 i j).toNat).add (t.mul v))
  let len := max acc.1.data.length (32 * (min x.rows 32 - 1) + j + 1)
  let data := (List.range len).map fun e =>
    if e % 32 = j ∧ e / 32 < min x.rows 32 then (cell (e / 32)).1 else acc.1.data.getD e 0
  ({ kind := .fp32, data := data }, acc.2 || (List.range (min x.rows 32)).any fun i => (cell i).2)

/-- TOUT: add the outliers of a packet. R380 uses sx(i) and names no activation selector for it: Config's (log
entry 3). -/
def execTout (n : Voice) (ecc : Ecc) (s : State) : Host.Outcome State Fault Refusal :=
  live s (insn n 0x26 0 fun w s =>
    let d := fAcc w 21 20
    let q := wSel s n (fC w)
    needLive n [fA w] (fun s =>
      let x := tileOf s n (fA w)
      let a := accOf s n d
      needShape [(x.fmt == 2 || x.fmt == 5, (fA w).val, 1), (a.kind != .int32, 16 + d.val, 4)] (fun s =>
        let pa := baseOf s n (fB w) true / 4096 * 4096
        loadBytes n pa 4096 ecc (fun bs s =>
          let cols := le bs 4 2
          let cnt := byteAt bs 1
          let side := le bs 18 2
          let sx := xScale s n (Config.toutSel (fC w) (voiceOf s n).s.toList)
          let start : Accum × Bool := ({ kind := .fp32, data := if a.kind = .empty then [] else a.data }, false)
          let r := (List.range cnt).foldl (fun acc e =>
            let idx := le bs (side + 4 * e) 2
            let v := bf16.decode (le bs (side + 4 * e + 2) 2)
            let j : Int := (idx / cols : Nat) - (q.row0 : Int)
            let k : Int := (idx % cols : Nat) - (q.col0 : Int)
            if 0 ≤ j ∧ j < min q.n 32 ∧ 0 ≤ k ∧ k < x.cols then outlier x sx j.toNat k.toNat v acc else acc) start
          .next (setSat n r.2 (setAcc n d r.1 s))) s) s) s)

/-- The side-list value of a packet's element, if it has one. -/
def sideValue (bs : List Byte) (row col : Nat) : Option Fl :=
  let cols := le bs 4 2
  let side := le bs 18 2
  ((List.range (byteAt bs 1)).find? fun e => le bs (side + 4 * e) 2 == row * cols + col && col < cols).map fun e =>
    bf16.decode (le bs (side + 4 * e + 2) 2)

/-- TDQ: dequantise one scale group (R381). -/
def tdqGo (n : Voice) (w : Nat) (packet : Option (List Byte)) (s : State) : Ran :=
  let t := tileOf s n (fA w)
  let d := tileOf s n (fD w)
  let q := wSel s n (fB w)
  needShape [(wScaleOk s n q t.rows, q.tile.val, 6)] (fun s =>
    let cell := fun i j =>
      let c := tileCode t i j
      let (y, esc) : Fl × Bool :=
        if isEscape t.fmt c then
          match packet.bind fun bs => sideValue bs (q.row0 + i) (q.col0 + j) with
          | some v => (v, false)
          | none => (Fl.zero, true)
        else
          let r := binary32.round ((elemVal t.fmt c).mul (wScale s n q i))
          (f32v r.1, r.2)
      let r := toFmt d.fmt y
      (r.1, r.2 || esc)
    .next (fillVals n (fD w) cell s)) s

def execTdq (n : Voice) (ecc : Ecc) (s : State) : Host.Outcome State Fault Refusal :=
  live s (insn n 0x2A 0 fun w s => needLive n [fD w, fA w] (fun s =>
    let t := tileOf s n (fA w)
    let d := tileOf s n (fD w)
    needShape [(d.fmt == 5 || d.fmt == 6, (fD w).val, 1), (1 ≤ t.fmt && t.fmt ≤ 4, (fA w).val, 1),
        (d.rows == t.rows && d.cols == t.cols, (fA w).val, 2)] (fun s =>
      if fC w = 0 then tdqGo n w none s
      else loadBytes n (baseOf s n (fC w) true / 4096 * 4096) 4096 ecc (fun bs s => tdqGo n w (some bs) s) s) s) s)

/-- TQ: quantise rows (R382, R327). -/
def execTq (n : Voice) (s : State) : Host.Outcome State Fault Refusal :=
  live s (insn n 0x29 0 fun w s => needLive n [fD w, fA w, fB w] (fun s =>
    let d := tileOf s n (fD w)
    let t := tileOf s n (fA w)
    let r := tileOf s n (fB w)
    needShape [(d.fmt == 1 || d.fmt == 2, (fD w).val, 1), (t.fmt == 5 || t.fmt == 6, (fA w).val, 1),
        (r.fmt == 6, (fB w).val, 1), (d.rows == t.rows && d.cols == t.cols, (fA w).val, 2),
        (t.rows ≤ r.rows, (fB w).val, 2)] (fun s =>
      let lim := if d.fmt = 1 then 7 else 127
      let cell := fun i j =>
        let x := quantise (elemVal t.fmt (tileCode t i j)) (f32v (tileCode r i 0)) lim
        (unsigned (fmtBits d.fmt) x.1, x.2)
      .next (fillVals n (fD w) cell s)) s) s)

/-! ### Elementwise operations (R383, R384) -/

/-- An operand of TEW: an infinity is taken as the largest finite value of its sign, and S is set. -/
def operand (t : Tile) (i j : Nat) : Fl × Bool := finOf (fmtOf t.fmt) (elemVal t.fmt (tileCode t i j))

def isFloat (f : Nat) : Bool := f == 5 || f == 6
def sameShape (a b : Tile) : Bool := a.rows == b.rows && a.cols == b.cols

/-- Which element of Tb a binary minor reads, and its shape rule. -/
inductive Broadcast where
  | same | row | col
  deriving DecidableEq, Repr

/-- A binary TEW minor. -/
def tewBinary (n : Voice) (minor : Nat) (m : Broadcast) (f : Fl → Fl → Fl) (s : State) : State :=
  insn n 0x27 minor (fun w s => needLive n [fD w, fA w, fB w] (fun s =>
    let d := tileOf s n (fD w)
    let a := tileOf s n (fA w)
    let b := tileOf s n (fB w)
    let bOk := match m with
      | .same => sameShape a b
      | .row => a.rows ≤ b.rows
      | .col => a.cols ≤ b.cols
    needShape [(isFloat d.fmt, (fD w).val, 1), (isFloat a.fmt, (fA w).val, 1), (isFloat b.fmt, (fB w).val, 1),
        (sameShape d a, (fA w).val, 2), (bOk, (fB w).val, 2)] (fun s =>
      let cell := fun i j =>
        let x := operand a i j
        let y := match m with
          | .same => operand b i j
          | .row => operand b i 0
          | .col => operand b 0 j
        let r := (fmtOf d.fmt).round (f x.1 y.1)
        (r.1, r.2 || x.2 || y.2)
      .next (fillVals n (fD w) cell s)) s) s) s

/-- A unary TEW minor; `formats` are those it accepts, `f` gives the code in Td's format and S. -/
def tewUnaryOp (n : Voice) (minor : Nat) (formats : Nat → Bool) (f : Nat → Fl → Nat × Bool) (s : State) : State :=
  insn n 0x27 minor (fun w s => needLive n [fD w, fA w] (fun s =>
    let d := tileOf s n (fD w)
    let a := tileOf s n (fA w)
    needShape [(formats d.fmt, (fD w).val, 1), (formats a.fmt, (fA w).val, 1), (sameShape d a, (fA w).val, 2)] (fun s =>
      let cell := fun i j =>
        let x := operand a i j
        let r := f d.fmt x.1
        (r.1, r.2 || x.2)
      .next (fillVals n (fD w) cell s)) s) s) s

/-- The larger and the smaller; a NaN gives NaN. -/
def maxFl (a b : Fl) : Fl := if a.isNan || b.isNan then .nan else if a.lt b then b else a
def minFl (a b : Fl) : Fl := if a.isNan || b.isNan then .nan else if b.lt a then b else a

/-- An approximated minor on a finite binary32 value: `g` on its code, then Td's format. -/
def approxTo (g : Nat → Nat × Bool) (fmt : Nat) (x : Fl) : Nat × Bool :=
  if x.isNan then ((fmtOf fmt).nan, false)
  else
    let r := g (f32 x)
    let q := (fmtOf fmt).round (f32v r.1)
    (q.1, q.2 || r.2)

/-- The largest finite value with a sign, in a format. -/
def topOf (fmt : Nat) (neg : Bool) : Nat := (fmtOf fmt).maxCode + b2n neg * 2 ^ ((fmtOf fmt).width - 1)

def rsqrtTo (fmt : Nat) (x : Fl) : Nat × Bool :=
  match x with
  | .fin a 0 _ => (topOf fmt a, true)
  | .fin true _ _ => ((fmtOf fmt).nan, false)
  | x => approxTo rsqrtApprox fmt x
def recipTo (fmt : Nat) (x : Fl) : Nat × Bool :=
  match x with
  | .fin a 0 _ => (topOf fmt a, true)
  | x => approxTo recipApprox fmt x

def cvtFormats (f : Nat) : Bool := 3 ≤ f && f ≤ 7

def execTewAdd (n : Voice) (s : State) : Host.Outcome State Fault Refusal :=
  live s (tewBinary n 0x00 .same Fl.add)
def execTewSub (n : Voice) (s : State) : Host.Outcome State Fault Refusal :=
  live s (tewBinary n 0x01 .same Fl.sub)
def execTewMul (n : Voice) (s : State) : Host.Outcome State Fault Refusal :=
  live s (tewBinary n 0x02 .same Fl.mul)
def execTewMax (n : Voice) (s : State) : Host.Outcome State Fault Refusal :=
  live s (tewBinary n 0x03 .same maxFl)
def execTewMin (n : Voice) (s : State) : Host.Outcome State Fault Refusal :=
  live s (tewBinary n 0x04 .same minFl)
def execTewAddr (n : Voice) (s : State) : Host.Outcome State Fault Refusal :=
  live s (tewBinary n 0x08 .row Fl.add)
def execTewMulr (n : Voice) (s : State) : Host.Outcome State Fault Refusal :=
  live s (tewBinary n 0x09 .row Fl.mul)
def execTewAddc (n : Voice) (s : State) : Host.Outcome State Fault Refusal :=
  live s (tewBinary n 0x0A .col Fl.add)
def execTewMulc (n : Voice) (s : State) : Host.Outcome State Fault Refusal :=
  live s (tewBinary n 0x0B .col Fl.mul)
def execTewCvt (n : Voice) (s : State) : Host.Outcome State Fault Refusal :=
  live s (tewUnaryOp n 0x10 cvtFormats toFmt)
def execTewExp (n : Voice) (s : State) : Host.Outcome State Fault Refusal :=
  live s (tewUnaryOp n 0x11 isFloat (approxTo expApprox))
def execTewRsqrt (n : Voice) (s : State) : Host.Outcome State Fault Refusal :=
  live s (tewUnaryOp n 0x12 isFloat rsqrtTo)
def execTewRecip (n : Voice) (s : State) : Host.Outcome State Fault Refusal :=
  live s (tewUnaryOp n 0x13 isFloat recipTo)
def execTewSilu (n : Voice) (s : State) : Host.Outcome State Fault Refusal :=
  live s (tewUnaryOp n 0x14 isFloat (approxTo siluApprox))

/-! ### Reductions (R385) -/

/-- A TRED minor: the exact value of a row, rounded once into Td(i, 0). -/
def reduce (n : Voice) (minor : Nat) (f : List Fl → Fl) (s : State) : State :=
  insn n 0x28 minor (fun w s => needLive n [fD w, fA w] (fun s =>
    let d := tileOf s n (fD w)
    let a := tileOf s n (fA w)
    needShape [(isFloat d.fmt, (fD w).val, 1), (isFloat a.fmt, (fA w).val, 1), (a.rows ≤ d.rows, (fD w).val, 2)] (fun s =>
      let cell := fun i j =>
        if j = 0 ∧ i < a.rows then
          (fmtOf d.fmt).round (f ((List.range a.cols).map fun j => elemVal a.fmt (tileCode a i j)))
        else (tileCode d i j, false)
      .next (fillVals n (fD w) cell s)) s) s) s

/-- The largest of a row; NaN when any is NaN. -/
def rowMax : List Fl → Fl
  | [] => .zero
  | a :: l => l.foldl maxFl a

def execRsum (n : Voice) (s : State) : Host.Outcome State Fault Refusal := live s (reduce n 0x00 Fl.sum)
def execRsumsq (n : Voice) (s : State) : Host.Outcome State Fault Refusal :=
  live s (reduce n 0x01 fun l => Fl.sum (l.map fun x => x.mul x))
def execRmax (n : Voice) (s : State) : Host.Outcome State Fault Refusal := live s (reduce n 0x02 rowMax)

/-! ### Gather and scatter (R386, R387) -/

/-- The address of element e. -/
def gatherAddr (base : Nat) (idx : Tile) (e : Nat) : Nat :=
  addr40 ((base : Int) + signed 32 (tileCode idx (e / idx.cols) (e % idx.cols))) 4

/-- Replace one row of a tile. -/
def setRow (t : Tile) (i : Nat) (bs : List Byte) : Tile := { t with data := patch (tileBytes t) (i * rowLen t) bs }

/-- Elements e to 15 of a gather; the ECC operand lists what the elements' reads find, element after element. -/
def gatherFrom (n : Voice) (td : Fin 16) (base mask : Nat) (idx : Tile) : Ecc → List Nat → State → Ran
  | _, [], s => .next s
  | ecc, e :: es, s =>
    if !bitAt mask e then gatherFrom n td base mask idx ecc es s
    else
      let t := tileOf s n td
      let a := gatherAddr base idx e
      if !reaches s n false a (rowLen t) then haltOutside n a (some e) s
      else match readMem a (rowLen t) ecc (voiceParts s n) s with
        | (.ok bs, s) =>
          gatherFrom n td base mask idx (ecc.drop (eccUnits a (rowLen t))) es (setTile n td (setRow t e bs) s)
        | (.bad bads, s) => haltUe n bads a (some e) s

/-- The common checks and operands of GATHER and SCATTER. -/
def gatherSetup (n : Voice) (w : Nat) (load : Bool) (k : Nat → Nat → Tile → List Nat → State → Ran) (s : State) : Ran :=
  needLive n [fD w, fB w] (fun s =>
    let t := tileOf s n (fD w)
    let idx := tileOf s n (fB w)
    needShape [(16 ≤ t.rows, (fD w).val, 8), (idx.fmt == 7 && 16 ≤ idx.rows * idx.cols, (fB w).val, 8),
        (fD w != fB w, (fB w).val, 9)] (fun s =>
      let mask := (sReg s n (fC w)).toNat % 65536
      let st := (sReg s n (Fin.ofNat 16 (bits w 5 2))).toNat
      let base := baseOf s n (fA w) true
      let es := (List.range 16).filter fun e => st ≤ e
      let as := (es.filter (bitAt mask ·)).map (gatherAddr base idx)
      let go := k base mask idx es
      withSections n (rowEnds as (rowLen t)) (if load then
        stripGate n (rowEnds (as.filter fun a => reaches s n false a (rowLen t)) (rowLen t)) go else go) s) s) s

def execGather (n : Voice) (ecc : Ecc) (s : State) : Host.Outcome State Fault Refusal :=
  live s (insn n 0x30 0 fun w s =>
    gatherSetup n w true (fun base mask idx es s => gatherFrom n (fD w) base mask idx ecc es s) s)

/-- Elements e to 15 of a scatter. -/
def scatterFrom (n : Voice) (t : Tile) (base mask : Nat) (idx : Tile) : List Nat → State → Ran
  | [], s => .next s
  | e :: es, s =>
    if !bitAt mask e then scatterFrom n t base mask idx es s
    else
      let a := gatherAddr base idx e
      if !reaches s n true a (rowLen t) then haltOutside n a (some e) s
      else putBytes n a (tileRow t e) (some e) (scatterFrom n t base mask idx es) s

def execScatter (n : Voice) (s : State) : Host.Outcome State Fault Refusal :=
  live s (insn n 0x31 0 fun w s =>
    gatherSetup n w false (fun base mask idx es s => scatterFrom n (tileOf s n (fD w)) base mask idx es s) s)

/-! ### Synchronisation (R388 to R390) -/

def execBar (n : Voice) (s : State) : Host.Outcome State Fault Refusal :=
  live s (insn n 0x34 0 fun _ s =>
    .wait (releaseBar n (signalDone n (follow n (setVoice n (fun v => { v with wait := .bar }) (toIdle n s))))))

/-- The latches of the software sources. -/
def softLatches (s : State) : Nat := s.evc.latch.toNat / 2 ^ 48

/-- A lower-numbered voice with CLR waits on one of the latches (R389). -/
def outranked (s : State) (n : Voice) : Bool :=
  (List.range 16).any fun i =>
    i < n.val && (let v := voiceOf s (Fin.ofNat 16 i)
      v.wait == .event && (match v.code[v.pc]? with
        | some w => bitAt w.toNat 16 && (softLatches s &&& bits w.toNat 15 0) != 0
        | none => false))

def execWaitev (n : Voice) (s : State) : Host.Outcome State Fault Refusal :=
  live s (insn n 0x35 0 fun w s =>
    let m := bits w 15 0
    let l := softLatches s &&& m
    let done := fun (s : State) => Ran.next (setReg n (fD w) (w32 l) (setVoice n (fun v => { v with wait := .none }) s))
    if m = 0 then done s
    else if l = 0 || outranked s n then .wait (toIdle n (setVoice n (fun v => { v with wait := .event }) s))
    else done (if bitAt w 16 then
        { s with evc := { s.evc with latch := s.evc.latch &&& ~~~BitVec.ofNat 64 (l * 2 ^ 48) } } else s))

def execSetev (n : Voice) (s : State) : Host.Outcome State Fault Refusal :=
  live s (insn n 0x36 0 fun w s =>
    .next ((List.range 16).foldl (fun s i => if bitAt w i then report (Fin.ofNat 64 (48 + i)) s else s) s))

def execBrthHold (n : Voice) (s : State) : Host.Outcome State Fault Refusal :=
  live s (insnOp n 0x37 false fun _ s => withArray n .next s)

def execBrthRelease (n : Voice) (s : State) : Host.Outcome State Fault Refusal :=
  live s (insnOp n 0x37 true fun _ s => .next (dropUnits (fun u => u == .voice n .array) s))

end Sys2Proof.Machine
end

