-- ==== Sys2Proof/Machine/Prism.lean ====
section
/-! DEFINITION. The streamer and the prism (12, 13): tile packets (R279, R325), strips (R289), failed weight reads
(R294), prism blocks (R311 to R316), and the PRZ registers (R328). -/

namespace Sys2Proof.Machine

/-! ### Packet checks (R325) -/

/-- The element code at tile index n of a packet. -/
def packetCode (b : List Byte) (fmt n : Nat) : Nat :=
  if fmt = 1 then (if n % 2 = 0 then byteAt b (32 + n / 2) % 16 else byteAt b (32 + n / 2) / 16) else byteAt b (32 + n)

def elemBits (fmt : Nat) : Nat := if fmt = 1 then 4 else 8

/-- The first failed check of a packet of tensor `t` at packet index `seq`; 0 when it passes. -/
def packetCause (t : Tensor) (seq : Nat) (b : List Byte) : Nat :=
  let fmt := byteAt b 0
  let outs := byteAt b 1
  let rows := le b 2 2
  let cols := le b 4 2
  let scale := byteAt b 6 % 4
  let tr := le b 8 4
  let tc := le b 12 4
  let pay := le b 16 2
  let side := le b 18 2
  let base := le b 20 2
  let g := t.group
  let n := rows * cols
  let entries := (List.range outs).map fun i => (le b (side + 4 * i) 2)
  let escaped := if fmt ≤ 2 then (List.range n).filter fun i => isEscape fmt (packetCode b fmt i) else []
  let scaleOk := match scale with
    | 0 => g == 0
    | 1 => g != 0 && base + rows * ceilDiv cols g ≤ 256
    | 2 => g != 0
    | _ => false
  if le b 28 4 ≠ crc32c (patch b 28 [0, 0, 0, 0]) then 1
  else if fmt ≠ t.format ∨ fmt = 0 ∨ 4 < fmt then 2
  else if !(1 ≤ rows && rows ≤ 64 && 1 ≤ cols && cols ≤ 128 && tr + rows ≤ t.rows && tc + cols ≤ t.cols &&
      (fmt != 1 || n % 2 == 0)) then 3
  else if !(pay == n * elemBits fmt / 8 && side == (32 + pay + 3) / 4 * 4 && side + 4 * outs ≤ 4096) then 4
  else if !(scaleOk && (scale == 0 || (tc % g == 0 && (cols % g == 0 || tc + cols == t.cols)))) then 5
  else if le b 24 4 ≠ seq then 6
  else if byteAt b 6 / 4 ≠ 0 ∨ byteAt b 7 ≠ 0 ∨ le b 22 2 ≠ 0 ∨ !allZero b (32 + pay) (side - 32 - pay) ∨
      !allZero b (side + 4 * outs) (4096 - side - 4 * outs) then 7
  else if !ascending entries || (3 ≤ fmt && outs != 0) || entries != escaped then 8
  else 0

/-! ### Prism blocks (R312 to R315) -/

/-- LEN[i]. -/
def blockLen (b : List Byte) (i : Nat) : Nat := bits (le b 24 8) (4 * i + 3) (4 * i)

def symbols : List Nat := List.range 16
def usedSyms (b : List Byte) : List Nat := symbols.filter fun i => blockLen b i != 0

/-- The first code of length l + 1. -/
def firstCode (b : List Byte) : Nat → Nat
  | 0 => 0
  | l + 1 => 2 * (firstCode b l + (symbols.filter fun i => blockLen b i == l + 1).length)

def codeword (b : List Byte) (i : Nat) : Nat :=
  firstCode b (blockLen b i - 1) + ((symbols.take i).filter fun j => blockLen b j == blockLen b i).length

/-- The code is complete over at least two symbols. -/
def codeOk (b : List Byte) : Bool :=
  (symbols.all fun i => blockLen b i ≤ 12) && 2 ≤ (usedSyms b).length &&
  ((usedSyms b).map fun i => 2 ^ (12 - blockLen b i)).sum == 4096

def subLen (b : List Byte) (j : Nat) : Nat := le b (32 + 2 * j) 2
def subOff (b : List Byte) (j : Nat) : Nat := 64 + ((List.range j).map (subLen b)).sum

/-- Elements of a sub-stream. -/
def subCount (count j : Nat) : Nat := (count + 15 - j) / 16

/-- The header check; 0 when it passes. -/
def headCause (last : Bool) (b : List Byte) : Nat :=
  let count := le b 2 2
  let own := (usedSyms b).filter (· < 15)
  let syms := own.map fun i => byteAt b (8 + i)
  let total := subOff b 16
  let len := le b 4 2
  if byteAt b 0 ≠ 0x9B then 1
  else if byteAt b 1 ≠ 0 ∨ le b 6 2 ≠ 0 ∨ byteAt b 23 ≠ 0 then 2
  else if count = 0 ∨ 4096 < count ∨ (!last ∧ count ≠ 4096) then 3
  else if !codeOk b then 4
  else if !decide syms.Nodup then 5
  else if len ≠ (total + 15) / 16 * 16 ∨ 14400 < len ∨ !allZero b total (len - total) then 6
  else 0

/-- Bits of bytes, bit 7 first. -/
def bitsMsb (bs : List Byte) : List Bool := bs.flatMap fun x => (bitsOf 8 x.toNat).reverse

/-- The number of the first `n` bits, most significant first; none when fewer remain. -/
def takeNum (n : Nat) (l : List Bool) : Option Nat :=
  if l.length < n then none else some (ofBits (l.take n).reverse)

/-- The symbol whose codeword comes next. -/
def nextSym (b : List Byte) (l : List Bool) : Option Nat :=
  (usedSyms b).find? fun i => takeNum (blockLen b i) l == some (codeword b i)

/-- One element: its BF16, the bits left, and whether it was escaped. -/
def elemOf (b : List Byte) (l : List Bool) : Except Nat (Nat × List Bool × Bool) :=
  match nextSym b l with
  | none => .error 7
  | some i =>
    let l := l.drop (blockLen b i)
    let esc := i == 15
    match if esc then takeNum 8 l else some (byteAt b (8 + i)) with
    | none => .error 7
    | some x =>
      let l := if esc then l.drop 8 else l
      if l.length < 8 then .error 7
      else if esc && ((usedSyms b).any fun k => k < 15 && byteAt b (8 + k) == x) then .error 8
      else match takeNum 1 l, takeNum 7 (l.drop 1) with
        | some g, some m => .ok (g * 32768 + x * 128 + m, l.drop 8, esc)
        | _, _ => .error 7

/-- The elements of a sub-stream, the escapes among them, and the bits left. -/
def subElems (b : List Byte) : Nat → List Bool → Except Nat (List Nat × Nat × List Bool)
  | 0, l => .ok ([], 0, l)
  | k + 1, l => match elemOf b l with
    | .error e => .error e
    | .ok (v, l, esc) => match subElems b k l with
      | .error e => .error e
      | .ok (vs, n, l) => .ok (v :: vs, n + b2n esc, l)

/-- One decoder's sub-stream. -/
def decodeSub (b : List Byte) (j : Nat) : Except Nat (List Nat × Nat) :=
  match subElems b (subCount (le b 2 2) j) (bitsMsb (slice b (subOff b j) (subLen b j))) with
  | .error e => .error e
  | .ok (vs, n, left) =>
    if 8 ≤ left.length then .error 9 else if left.any id then .error 10 else .ok (vs, n)

/-- Sub-streams from j on; the cause of damage and its sub-stream. -/
def decodeSubs (b : List Byte) : Nat → Nat → Except (Nat × Nat) (List (List Nat × Nat))
  | 0, _ => .ok []
  | k + 1, j => match decodeSub b j with
    | .error e => .error (e, j)
    | .ok r => match decodeSubs b k (j + 1) with
      | .error e => .error e
      | .ok rs => .ok (r :: rs)

/-- A block decoded: its BF16 elements in order and the number of escapes, or the damage and its sub-stream. -/
def decodeBlock (last : Bool) (b : List Byte) : Except (Nat × Nat) (List Nat × Nat) :=
  let h := headCause last b
  if h ≠ 0 then .error (h, 0)
  else match decodeSubs b 16 0 with
    | .error e => .error e
    | .ok rs =>
      .ok ((List.range (le b 2 2)).map fun e => ((rs.getD (e % 16) ([], 0)).1).getD (e / 16) 0, (rs.map (·.2)).sum)

/-! ### Failed weight reads (R294) -/

/-- Where weight bytes lie: the shard of the model. For the early model `addr` is the image byte. -/
def weightShard (s : State) (m : ModelRef) (addr : Nat) : Option Nat :=
  match m with
  | .handle h => shardAt s.models[h] addr
  | .early => s.early.bind fun e => (List.range e.shards.length).find? fun i => match e.shards[i]? with
      | some x => x.offset ≤ addr && addr < x.offset + x.length
      | none => false

/-- The pass that a strip's load was started for is the running one. -/
def ofPass (s : State) (m : ModelRef) (i : Fin 64) : Bool :=
  (passOf s m).isSome && ((modelOf s m).map fun x => decide (s.strips[i].load ≤ x.streamed + x.plan.length)).getD false

/-- A weight read has failed: the record, the failure of the pass, and repair; a load of a pass yet to come is read on once the
shard has been repaired. -/
def weightFailed (m : ModelRef) (i : Fin 64) (addr : Nat) (status : Nat) (s : State) : State :=
  match modelOf s m with
  | none => s
  | some x =>
    let n := (weightShard s m addr).getD 0
    let layer := ((x.shards[n]?).map (·.layer)).getD 0xFFFF
    let part := match m with
      | .handle _ => x.owner.val
      | .early => 0xFF
    let s := logErr { devErr 0x30 21 s with part := part, arg0 := x.hdr.modelId, arg1 := n, arg2 := layer } s
    let own := ofPass s m i
    let d := if status = 0x42 then (placeOf s addr).chan.val else corruptDetail s layer
    let s := if own then setPass m (fun p => { p with failure := p.failure.or (some (status, d)) }) s
      else setStrip i (fun t => { t with retry := false }) s
    match m with
    | .handle h => startRepair h n s
    | .early => s

/-! ### STREAMER_BURST_COMPLETE (R289, R292, R294) -/

def stripBase (i : Fin 64) : Nat := 0x2000000 + 0x40000 * i.val

/-- The strip load is complete: READY, and the stall of the voices that reached it ends. -/
def stripReady (i : Fin 64) (s : State) : State :=
  let s := setStrip i (fun t => { t with st := .ready }) (endStall i s)
  { s with str := { s.str with fills := satAdd 0xFFFFFFFF s.str.fills 1 } }

/-- Bytes land in a strip. -/
def stripPut (i : Fin 64) (bs : List Byte) (last : Bool) (s : State) : State :=
  let at_ := s.strips[i].filled
  let s := storeMem (stripBase i + at_) bs s
  let s := setStrip i (fun t => { t with filled := at_ + bs.length, retry := false }) s
  if last then stripReady i s else s

/-- The tensor of a weight address, and the byte of the tensor as stored that lies there. -/
def weightByte (s : State) (m : ModelRef) (addr : Nat) : Option (Tensor × Nat) :=
  (modelOf s m).bind fun x => (weightShard s m addr).bind fun i => (x.shards[i]?).bind fun sh =>
    (x.tensors[sh.tensor]?).map fun t =>
      let before := (((x.shards.drop t.first).take (i - t.first)).map (·.length)).sum
      let start := match m with
        | .early => sh.offset
        | .handle _ => residentAddr x.units (shardPlace x.tensors x.shards i)
      (t, before + (addr - start))

/-- The tensor and the packet index of a weight address. -/
def weightTensor (s : State) (m : ModelRef) (addr : Nat) : Option (Tensor × Nat) :=
  (weightByte s m addr).map fun e => (e.1, e.2 / 4096)

/-- Codewords of the early model's image that failed among the pages read for a burst. -/
def earlyLost (s : State) (addr len : Nat) : List (Nat × Nat) :=
  (s.flc.early.flatMap fun e => e.2.map fun i => (16384 * e.1 + 4096 * i, 0)).filter fun l =>
    l.1 < addr + len && addr < l.1 + 4096

/-- The streamer's read: stacked memory, or the early model's image, whose pages FLASH_PAGE_READ has brought. -/
def weightRead (m : ModelRef) (addr len : Nat) (ecc : Ecc) (s : State) : ReadRes × State :=
  match m with
  | .handle _ => readStack addr len ecc (((passOf s m).map fun p => p.rows.map (·.part)).getD []) s
  | .early =>
    let lost := earlyLost s addr len
    (if lost.isEmpty then .ok (slotBytes s (earlySlot s) addr len) else .bad lost, s)

/-- The pages of the early model that are still needed stay; a burst that is read again reads its pages again. -/
def dropPages (i : Fin 64) (m : ModelRef) (addr len : Nat) (s : State) : State :=
  if m != .early then s
  else
    let need := earlyPages s
    let again := if s.strips[i].retry then pagesAt addr len else []
    { s with flc := { s.flc with early := s.flc.early.filter fun e => need.contains e.1 && !again.contains e.1 } }

def isCoded (s : State) (m : ModelRef) (addr : Nat) : Bool :=
  ((weightTensor s m addr).map fun t => t.1.format == 6).getD false
def isQuant (s : State) (m : ModelRef) (addr : Nat) : Bool :=
  ((weightTensor s m addr).map fun t => decide (t.1.format ≤ 4)).getD false

/-- A burst of a strip that is FILLING, under its grant: the bytes land in the strip, those of a coded tensor go on to the
prism. -/
def burst (i : Fin 64) (m : ModelRef) (addr len : Nat) (ecc : Ecc) (last : Bool) (s : State) : State :=
  let moved := setStrip i fun t => { t with fetched := t.fetched + len }
  match weightRead m addr len ecc s with
  | (.bad bads, s) =>
    if m == .early then weightFailed m i addr 0x41 s
    else weightFailed m i (firstLost bads).1 0x42 (reportUes bads 0 0xFF none s)
  | (.ok b, s) => match weightTensor s m addr with
    | none => stripPut i b last (moved s)
    | some (t, seq) =>
      if t.format = 6 then moved s
      else if 4 < t.format then stripPut i b last (moved s)
      else
        let cause := packetCause t seq b
        if cause = 0 then stripPut i b last (moved s)
        else
          let s := { s with prz := { s.prz with pktFail := satAdd 65535 s.prz.pktFail 1, pktCause := cause } }
          if s.strips[i].retry then weightFailed m i addr 0x41 s
          else setStrip i (fun t => { t with retry := true }) s

/-- The window has a strip load whose bytes are not all read. -/
def isDue (s : State) (m : ModelRef) : Bool :=
  (window s m).any fun i => s.strips[i].st == .filling &&
    ((loadOf s m i).map fun l => decide (s.strips[i].fetched < l.len)).getD false

/-- The class and guarantee keys of the pass that reads a window: the lowest among its rows (R292). -/
def windowKey (s : State) (m : ModelRef) : List Nat :=
  match passOf s m with
  | none => [4, 0]
  | some p => (p.rows.filterMap fun r => (cmdOf s r.cmd).map fun c => (serviceKey s c).take 2).foldl
      (fun a b => if keyLt b a then b else a) [3, 1]

/-- No other window with a strip load due comes before this one in the order of service (R292). -/
def windowFirst (s : State) (m : ModelRef) : Bool :=
  s.passes.all fun p => p.model == m || !isDue s p.model || !keyLt (windowKey s p.model) (windowKey s m)

/-- The weight read of a strip can go on: no read of its pass has failed, and no repair of the model runs (R294, R295). -/
def mayStream (s : State) (m : ModelRef) (i : Fin 64) : Bool :=
  !(ofPass s m i && ((passOf s m).any fun p => p.failure.isSome)) &&
  ((modelOf s m).any fun x => x.repairing.isNone && !x.barrier)

/-- BLOCK_LEN of the prism block at an address. -/
def blockLenAt (s : State) (addr : Nat) : Nat := max 64 (le (memRead s.mem addr 6) 4 2)

/-- The blocks, whole or in part, of the first `left` bytes at an address; at most `fuel`. -/
def blocksIn (s : State) : Nat → Nat → Nat → Nat
  | 0, _, _ => 0
  | fuel + 1, addr, left => if left = 0 then 0
    else 1 + blocksIn s fuel (addr + blockLenAt s addr) (left - blockLenAt s addr)

/-- The blocks of a coded strip load that wait in the prism's input buffer once `more` bytes have come. -/
def inBuffer (s : State) (i : Fin 64) (more : Nat) : Nat :=
  match s.strips[i].owner.bind fun m => loadOf s m i with
  | none => 0
  | some l =>
    let t := s.strips[i]
    if t.st == .filling && (s.strips[i].owner.any fun m => isCoded s m l.addr) then
      blocksIn s 9 (l.addr + t.taken) (t.fetched + more - t.taken)
    else 0

/-- The input buffer holds up to 8 blocks (R318). -/
def bufferedBlocks (s : State) : Nat := ((List.range 64).map fun i => inBuffer s (Fin.ofNat 64 i) 0).sum

/-- A burst of a coded load finds room: it starts no block, or the buffer has room for those it starts (R318). -/
def bufferRoom (s : State) (i : Fin 64) (len : Nat) : Bool :=
  let more := inBuffer s i len - inBuffer s i 0
  more == 0 || decide (bufferedBlocks s + more ≤ 8)

/-- The burst is the next of its strip load, of at most 4 KiB, and for a quantised tensor one whole packet; `last` tells that it
is the load's last. The pages of the early model that it needs have been read. -/
def burstOk (s : State) (m : ModelRef) (i : Fin 64) (l : StripLoad) (addr len : Nat) (last : Bool) : Bool :=
  let t := s.strips[i]
  t.st == .filling && len != 0 && len ≤ 4096 && (!isQuant s m addr || len == 4096) && addr == l.addr + t.fetched &&
  t.fetched + len ≤ l.len && last == (t.fetched + len == l.len) && (if isCoded s m addr then bufferRoom s i len else decide (t.filled + len ≤ 0x40000)) &&
  (m != .early || (pagesAt addr len).all fun k => s.flc.early.any (·.1 == k)) && mayStream s m i

/-- A burst moves under a grant of its own (R292). -/
def burstComplete (i : Fin 64) (addr len : Nat) (ecc : Ecc) (last : Bool) (s : State) : State :=
  match s.strips[i].owner with
  | none => s
  | some m => match loadOf s m i with
    | none => s
    | some l =>
      if !burstOk s m i l addr len last || !windowFirst s m || !islRuns s 21 || muted s then s
      else withTagged .streamer (modelTag s m) (fun s => dropPages i m addr len (burst i m addr len ecc last s)) s

def execStreamerBurstComplete (i : Fin 64) (addr len : Nat) (ecc : Ecc) (last : Bool) (s : State) :
    Host.Outcome State Fault Refusal := live s (burstComplete i addr len ecc last)

/-! ### PRISM_BLOCK_DECODED (R311, R315, R316, R455) -/

/-- Vibrato's flip of the first byte of a sub-stream (R473): the block that it strikes, and with REPEAT the re-read. -/
def injectPrism (addr : Nat) (b : List Byte) (s : State) : List Byte × State :=
  let v := s.vib
  let o := subOff b v.unit
  let flip := patch b o [BitVec.ofNat 8 ((slice b o 1).headD 0).toNat ^^^ BitVec.ofNat 8 (2 ^ v.bit)]
  if opportunity 4 (fun _ => true) s then
    let s := applyInjection 22 s
    (flip, { s with vib := { s.vib with again := if v.rep then some addr else none } })
  else if v.target = 4 ∧ v.again = some addr then (flip, { s with vib := { s.vib with again := none } })
  else (b, s)

def bumpPrz (j : Fin 4) (n : Nat) (s : State) : State :=
  { s with prz := { s.prz with live := s.prz.live.set j ((s.prz.live[j] + n) % 2 ^ 64) } }

/-- A damaged decode (R316): the registers; the first is read again, the second has failed. -/
def damaged (i : Fin 64) (m : ModelRef) (addr cause sub : Nat) (s : State) : State :=
  let s := { s with prz := { s.prz with
    damage := satAdd 65535 s.prz.damage 1
    damageCause := cause
    damageSub := if 7 ≤ cause then sub else 0
    damageAddr := addr } }
  if s.strips[i].retry then weightFailed m i addr 0x41 s
  else setStrip i (fun t => { t with retry := true, fetched := t.taken }) s

def prismBlock (i : Fin 64) (m : ModelRef) (addr : Nat) (lastT lastS diff : Bool) (s : State) : State :=
  let (b, s) := injectPrism addr (memRead s.mem addr 14400) s
  match decodeBlock lastT b with
  | .error (cause, sub) => damaged i m addr cause sub s
  | .ok (es, esc) =>
    let s := bumpPrz 0 1 (bumpPrz 1 (le b 4 2) (bumpPrz 2 es.length (bumpPrz 3 esc s)))
    if diff && ((passOf s m).map (·.mirrored)).getD false then unitMismatch m 22 s
    else stripPut i (es.flatMap (toLe 2)) lastS (setStrip i (fun t => { t with taken := t.taken + le b 4 2 }) s)

/-- The block is the tensor's last. -/
def tensorEnds (s : State) (m : ModelRef) (addr : Nat) : Bool :=
  ((modelOf s m).bind fun x => (weightByte s m addr).map fun e =>
    decide ((((ownShards e.1 x.shards).map (·.length)).sum) ≤ e.2 + blockLenAt s addr)).getD false

/-- The block is the next of its strip load, which holds at most 32, and its bytes have been read; `lastT` tells that the tensor
ends with it, `lastS` that the strip load does. -/
def blockOk (s : State) (m : ModelRef) (i : Fin 64) (l : StripLoad) (addr : Nat) (lastT lastS : Bool) : Bool :=
  let t := s.strips[i]
  let stop := t.taken + blockLenAt s addr
  t.st == .filling && addr == l.addr + t.taken && t.taken < t.fetched && isCoded s m addr &&
  (stop ≤ t.fetched || t.fetched == l.len) && t.filled + 8192 ≤ 0x40000 &&
  lastT == tensorEnds s m addr && lastS == decide (l.len ≤ stop) && mayStream s m i

/-- A block decodes under its own grant; one of a mirrored pass twice, each decode under a grant of its own (R318, R455). -/
def withDecoders (twice : Bool) (t : Tag) (k : State → State) (s : State) : State :=
  let has := fun (c : Consumer) => (ledger s .core).grants.any fun g => g.unit == c && g.tag == t
  if !twice || has .prismTwin then
    withTagged .prism t (fun s => if twice then withTagged .prismTwin t k s else k s) s
  else request .prismTwin t (if has .prism then s else request .prism t s)

/-- A block is decoded under its own grant (R318). -/
def blockDecoded (i : Fin 64) (addr : Nat) (lastT lastS diff : Bool) (s : State) : State :=
  match s.strips[i].owner with
  | none => s
  | some m =>
    match loadOf s m i with
    | none => s
    | some l =>
      if !blockOk s m i l addr lastT lastS || !islRuns s 22 || muted s || m == .early then s
      else withDecoders (((passOf s m).map (·.mirrored)).getD false) (modelTag s m) (prismBlock i m addr lastT lastS diff) s

def execPrismBlockDecoded (i : Fin 64) (addr : Nat) (lastT lastS diff : Bool) (s : State) :
    Host.Outcome State Fault Refusal := live s (blockDecoded i addr lastT lastS diff)

/-! ### The PRZ registers (R328) -/

def przRead (off : Nat) (s : State) : Option Word :=
  let busy := (s.brg.core.grants.filter fun g => g.unit == .prism || g.unit == .prismTwin).length
  let wait := s.brg.core.reqs.any fun r => r.unit == .prism || r.unit == .prismTwin
  match off with
  | 0xC000 => some (w32 (min 4 busy + 0x100 * min 8 (bufferedBlocks s) + 0x10000 * b2n wait))
  | 0xC004 => some 0
  | 0xC008 => some (w32 (s.prz.damage + 0x10000 * s.prz.damageCause + 0x1000000 * s.prz.damageSub))
  | 0xC00C => some (lo32 s.prz.damageAddr)
  | 0xC010 => some (hi32 s.prz.damageAddr)
  | 0xC014 => some (w32 (s.prz.pktFail + 0x10000 * s.prz.pktCause))
  | _ =>
    if 0xC100 ≤ off ∧ off < 0xC120 ∧ off % 4 = 0 then
      let v := s.prz.snap[Fin.ofNat 4 ((off - 0xC100) / 8)]
      some (if off % 8 = 0 then lo32 v else hi32 v)
    else none

def przReadEff (off : Nat) (s : State) : State :=
  match off with
  | 0xC008 => { s with prz := { s.prz with damage := 0 } }
  | 0xC014 => { s with prz := { s.prz with pktFail := 0 } }
  | _ => s

/-- PRZ_CNT_CTRL: CLEAR after any SNAP of the same write. -/
def writePrzCtrl (v : Word) (s : State) : State :=
  let s := if v.getLsbD 0 then { s with prz := { s.prz with snap := s.prz.live } } else s
  if v.getLsbD 1 then { s with prz := { s.prz with live := Vector.replicate 4 0 } } else s

def przWrite (off : Nat) (v : Word) (s : State) : Option State :=
  match off with
  | 0xC004 => some (whenRuns off v (writePrzCtrl v) s)
  | _ => (przRead off s).map fun _ => s

end Sys2Proof.Machine
end

