-- ==== Sys2Proof/Machine/Passes.lean ====
section
/-! DEFINITION. Chorus batches (01, 17): the rows of a pass and their positions (R21, R22, R399), PASS_START,
PASS_END and its commit point (R214), the passes of a split model (R438 to R441), and EARLY_SERVICE limits (R108). -/

namespace Sys2Proof.Machine

/-! ### Who has a row (R21 to R23) -/

/-- The command may take part in a pass: admitted, awake, its input read, its records written (R155), no transfer of it held
(R119), and behind no barrier (R302). -/
def canRow (s : State) (c : Cmd) : Bool :=
  isWork c.op && c.admitted && c.work.inputRead && !needsWake s c && !recordWaits s c && !dmaHeld s c && !behindBarrier s c

def rowCap (m : ModelRef) : Nat := if m == .early then 8 else 64

/-- The rows taken in the batch of a model: by commands, and by the rows of a running pass, which a command that has left
frees at the pass boundary (R22, R27). -/
def heldRows (s : State) (cs : List Cmd) (m : ModelRef) : List Nat :=
  ((cs.filter fun c => asTarget c m || asDraft c m).filterMap (·.work.row)) ++
    ((passOf s m).map fun p => p.rows.map (·.pos)).getD []

/-- The lowest row that is free for the command in the batches of both its models (R23). -/
def freeRow (s : State) (held : List Cmd) (c : Cmd) : Option Nat :=
  let taken := heldRows s held c.ref ++
    if c.specK = 0 ∨ c.work.noDraft then [] else heldRows s held (.handle c.draft)
  (List.range (rowCap c.ref)).find? fun i => !taken.contains i

/-- Waiting commands take free rows in the order of service, the same in the batches of both their models. -/
def takeRows (s : State) : List Cmd → List Cmd → List Cmd
  | [], held => held
  | c :: rest, held => match freeRow s held c with
    | some i => takeRows s rest (held ++ [{ c with work := { c.work with row := some i } }])
    | none => takeRows s rest held

/-- The commands with rows at this boundary: those that run, then those that enter. -/
def batch (s : State) (m : ModelRef) : List Cmd :=
  let order := fun (a b : Cmd) => !keyLt (serviceKey s b) (serviceKey s a)
  let runs := s.cmds.filter fun c => isWork c.op && c.phase == .running
  let waits := sortBy order (s.cmds.filter fun c => isWork c.op && c.phase == .ready && canRow s c &&
    (asTarget c m || asDraft c m))
  sortBy order ((takeRows s waits runs).filter fun c => canRow s c && (asTarget c m || asDraft c m))

/-! ### Positions (R398, R399) -/

/-- What the command would feed to a pass of the model now: a draft row carries its catch-up positions, then one position. -/
def rowOf (s : State) (m : ModelRef) (c : Cmd) : Option RowKind :=
  let left := c.feeds - c.work.fed
  if asTarget c m then
    if left ≠ 0 then some (.prefill left)
    else if !c.isGen then none
    else if roundLen c = 0 then some .decode
    else if draftsReady c then some .verify else none
  else if left = 0 ∧ roundLen c ≠ 0 ∧ !draftsReady c then
    some (.draft (max 1 (positionOf s c + c.work.drafts.length - 1 - draftCount s c)))
  else none

def rankOf : RowKind → Nat
  | .decode | .verify => 0
  | .draft _ => 1
  | .prefill _ => 2

/-- Shorten a row to the positions that the budget leaves; none when nothing is left. -/
def cutRow (c : Cmd) (k : RowKind) (left : Nat) : Option (RowKind × Nat) :=
  let cut := fun (n : Nat) (f : Nat → RowKind) => if min n left = 0 then none else some (f (min n left), min n left)
  match k with
  | .decode => if left = 0 then none else some (.decode, 1)
  | .verify =>
    let n := c.work.drafts.length + 1
    if left < n then none else some (.verify, n)
  | .draft n => cut n .draft
  | .prefill n => cut n .prefill

/-- Give positions out of the budget of 4,096, in order. -/
def giveRows : List (Cmd × RowKind) → Nat → List PassRow
  | [], _ => []
  | (c, k) :: rest, left => match cutRow c k left with
    | some (k, n) => { cmd := c.id, part := c.part, key := c.key, pos := c.work.row.getD 0, kind := k } :: giveRows rest (left - n)
    | none => giveRows rest left

/-- The rows of the next pass of a model: decode and verify rows first, then draft rows, then prefill rows. -/
def nextRows (s : State) (m : ModelRef) : List PassRow :=
  let l := (batch s m).filterMap fun c => (rowOf s m c).map fun k => (c, k)
  let at_ := fun (r : Nat) => l.filter fun e => rankOf e.2 == r
  giveRows (at_ 0 ++ at_ 1 ++ at_ 2) 4096

/-! ### Voices and islands (R28, R192, R447, R448) -/

def mirroredModel (s : State) (m : ModelRef) : Bool := match m with
  | .handle h => s.mir.model.getLsbD h.val
  | .early => false

/-- The voices that a pass is given: every one that is free; V12 to V15 for the early model. -/
def passVoices (s : State) (m : ModelRef) : List Voice :=
  if m == .early then (allVoices.filter fun n => decide (12 ≤ n.val)).filter fun n =>
    (voiceOf s n).run == .free && (islOf s (voiceIsland n)).st != .fault && !pairOut (pairAt s (pairOf n))
  else if mirroredModel s m then
    (allPairs.filter (pairFree s)).flatMap fun k => [(Fin.ofNat 16 (2 * k.val) : Voice), Fin.ofNat 16 (2 * k.val + 1)]
  else allVoices.filter (soloFree s)

/-- The model has a coded tensor, which the prism decodes. -/
def codedModel (s : State) (m : ModelRef) : Bool :=
  ((modelOf s m).map fun x => x.tensors.any (·.format == 6)).getD false

/-- The islands that a pass needs. -/
def passIslands (s : State) (m : ModelRef) (vs : List Voice) : List Nat :=
  vs.map (fun v => v.val + 1) ++ vs.map (fun v => 17 + v.val / 4) ++ [21, 23, 24] ++
  (if m == .early then [27] else [25, 26]) ++ (if codedModel s m then [22] else []) ++
  if mirroredModel s m then [31] else []

/-- The words of the KIND 6 tensors, the code that the voices of a pass run, as far as a voice's instruction memory holds
them (R17). -/
def passCode (s : State) (m : ModelRef) : List Word :=
  match modelOf s m with
  | none => []
  | some x =>
    let bytes := (x.tensors.filter (·.kind == 6)).flatMap fun t =>
      let ss := ownShards t x.shards
      match m with
      | .handle _ => residentBytes s x.units t.off ((ss.map (·.length)).sum)
      | .early => ss.flatMap fun sh =>
          slotBytes s (Fin.ofNat 32 (((earlyCfg s).map (·.slot)).getD 0)) sh.offset sh.length
    (List.range (min 16384 (bytes.length / 4))).map fun i => w32 (le bytes (4 * i) 4)

/-- LOCK_REQ holds the stages of split passes (R443). -/
def lockOk (s : State) : Bool := !s.ens.lockReq || s.tbs.lock == .leader || s.tbs.lock == .locked

def stagesOf (s : State) (m : ModelRef) : Option Split := (splitOf s m).filter fun sp => decide (1 < sp.stages)

/-- The model can run a pass now. -/
def modelReady (s : State) (m : ModelRef) : Bool :=
  (match modelOf s m with
    | none => false
    | some x => x.st != .loading && !x.barrier && x.repairing.isNone) &&
  (passOf s m).isNone && !muted s && !paused s &&
  (match m with | .early => s.bsc.early | .handle _ => s.bsc.stage == .full)

/-! ### PASS_START -/

/-- The lowest bad layer that a command's pass would run (R283). -/
def badFor (m : Model) (c : Cmd) : Option Nat :=
  m.badLayers.min?.filter fun b => !(c.op == 0x23 && c.field 42 2 != 0 && decide (c.field 42 2 < b))

/-- Commands that would run a bad layer complete MODEL_DEGRADED; those that draft on it stop drafting. -/
def degradeRows (m : ModelRef) (s : State) : State :=
  match modelOf s m with
  | none => s
  | some x => (batch s m).foldl (fun s c =>
      match badFor x c with
      | none => s
      | some b => if asTarget c m then failCmd c.id 0x40 b s else stopDrafting c.id s) s

/-- A pass begins with its rows on its voices, and the window fills ahead. A pair whose formation probe fails is not used. -/
def launch (m : ModelRef) (pacing : Pacing) (plan : List StripLoad) (probes : List FormProbe) (rows : List PassRow) (num : Nat)
    (s : State) : State :=
  let vs := passVoices s m
  let mir := mirroredModel s m
  if vs = [] ∨ !((passIslands s m vs).all fun i => islRuns s (Fin.ofNat 32 i)) then s
  else
    let s := joinPairs mir probes (if mir then vs.filter (·.val % 2 == 0) else vs) s
    let vs := vs.filter fun v => !pairOut (pairAt s (pairOf v))
    if vs = [] then s else
    let s := rows.foldl (fun s r => setWork r.cmd (fun w => { w with row := some r.pos }) (runCmd r.cmd s)) s
    let code := passCode s m
    let pc := Config.freeNat s.freeCtr % max 1 code.length
    let s := vs.foldl (fun s v => setVoice v (fun x => startVoice x (.pass m) code pc []) s)
      { s with freeCtr := s.freeCtr + 1 }
    let s := setRef m (fun x => { x with plan := plan }) s
    fillAhead m 16 { s with passes := s.passes ++ [{
      model := m
      rows := rows
      voices := vs
      mirrored := mir
      pacing := pacing
      waitNs := 0
      since := s.clk
      failure := none
      rowFail := []
      halted := []
      runahead := s.str.runaheadMax
      num := num
      stagesDone := []
      stageWait := 0 }] }

/-- The packets of an activation block (R426): DATA of up to 256 bytes, with PASS and OFFSET. -/
def dataPackets (dst h part num : Nat) (bytes : List Byte) : List Packet :=
  (List.range (ceilDiv bytes.length 256)).map fun i =>
    { type := 1, dst := dst, src := 0, ttl := 16, seq := 0,
      arg := [BitVec.ofNat 8 h, BitVec.ofNat 8 part] ++ toLe 2 num ++ toLe 4 (256 * i),
      payload := pad16 (slice bytes (256 * i) 256) }

/-- Activations are open values (log entry 3). -/
def freeBytes (n : Nat) (s : State) : List Byte := (List.range n).map fun i => BitVec.ofNat 8 (Config.freeNat (s.freeCtr + i))

/-- The stage after this one, the entry device after the last. -/
def nextStage (sp : Split) : Nat := if sp.stage + 1 = sp.stages then sp.devices.getD 0 0 else sp.devices.getD (sp.stage + 1) 0

def sendBlock (sp : Split) (h : Handle) (part num : Nat) (bytes : List Byte) (s : State) : State :=
  (dataPackets (nextStage sp) h.val part num bytes).foldl (fun s p => originate p s) s

/-- Positions of a row. -/
def positionsIn (s : State) (r : PassRow) : Nat := match r.kind with
  | .prefill n | .draft n => n
  | .decode => 1
  | .verify => ((cmdOf s r.cmd).map fun c => c.work.drafts.length + 1).getD 1

/-- The entry device's stage of a split pass: its activation block goes to the next stage. -/
def launchSplit (sp : Split) (h : Handle) (pacing : Pacing) (plan : List StripLoad) (probes : List FormProbe)
    (rows : List PassRow) (s : State) : State :=
  let num := (s.ens.passNum + 1) % 65536
  let n := (rows.map (positionsIn s)).sum * s.models[h].hdr.hidden * 2
  let s' := launch (.handle h) pacing plan probes rows num s
  if s'.passes.length = s.passes.length then s'
  else
    let bytes := freeBytes n s'
    sendBlock sp h s.models[h].owner.val num bytes { s' with
      freeCtr := s'.freeCtr + n
      ens := { s'.ens with passNum := num } }

/-- Another stage's part of a split pass begins when its activation block has come. -/
def launchStage (h : Handle) (pacing : Pacing) (plan : List StripLoad) (probes : List FormProbe) (s : State) : State :=
  match s.ens.blocks.find? (·.h == h) with
  | none => s
  | some b => launch (.handle h) pacing plan probes [] b.num s

/-- The layer plan is that of the model: the first pass makes it known (log entry 16). Each of its strip loads has bytes, at most
256 KiB unless they are coded, and a run-ahead and readers. -/
def planOk (x : Model) (plan : List StripLoad) : Bool :=
  (x.plan == [] || x.plan == plan) && plan.all fun l => l.len != 0 && l.ahead != 0 && l.readers != 0

/-- PASS_START of a model. -/
def passStart (m : ModelRef) (pacing : Pacing) (plan : List StripLoad) (probes : List FormProbe) (s : State) : State :=
  if !modelReady s m || !((modelOf s m).any fun x => planOk x plan) then s
  else
    match stagesOf s m, m with
    | some sp, .handle h =>
      if !lockOk s then (nextRows s m).foldl (fun s r => startWait r.cmd s) s
      else if sp.stage ≠ 0 then
        (match s.models[h].badLayers.min? with
          | some b => match s.ens.blocks.find? (·.h == h) with
            | some k =>
              originate (ctrl (sp.devices.getD 0 0) 0x09 s.models[h].owner.val 0
                  ([BitVec.ofNat 8 0x40, BitVec.ofNat 8 (min 0xFE b)] ++ toLe 2 k.num) [])
                { s with ens := { s.ens with blocks := s.ens.blocks.filter (·.h != h) } }
            | none => s
          | none => launchStage h pacing plan probes s)
      else
        let s := degradeRows m s
        let rows := nextRows s m
        if rows = [] ∨ !s.ens.joined.getLsbD h.val then s else launchSplit sp h pacing plan probes rows s
    | _, _ =>
      let s := degradeRows m s
      let rows := nextRows s m
      if rows = [] then s else launch m pacing plan probes rows 0 s

def execPassStart (m : ModelRef) (pacing : Pacing) (plan : List StripLoad) (probes : List FormProbe) (s : State) :
    Host.Outcome State Fault Refusal := live s (standingChange (passStart m pacing plan probes))

/-! ### PASS_END -/

/-- The parallel lanes of the pacing unit (R45). -/
def lanes (p : Pass) : Nat := match p.pacing with
  | .dram => 16 | .flash => 2 | .hostLink => 1 | .voices => max 1 p.voices.length

/-- Each command adds the breath-wait time of the pass. -/
def addBreath (p : Pass) (s : State) : State :=
  let w := p.waitNs / lanes p + p.stageWait
  ((p.rows.map (·.cmd)).dedup).foldl (fun s id => setCmd id (fun c => { c with breathNs := c.breathNs + w }) s) s

/-- A row that failed: a draft row stops its command's drafting, any other ends its command. -/
def failRow (r : PassRow) (status detail : Nat) (s : State) : State :=
  match r.kind with
  | .draft _ => if 0x40 ≤ status ∧ status ≤ 0x42 then stopDrafting r.cmd s else failCmd r.cmd status detail s
  | _ => failCmd r.cmd status detail s

/-- The result that a row brought. -/
def resultOf (rs : List RowResult) (r : PassRow) : Option RowResult := rs.find? (·.cmd == r.cmd)

/-- Every live row has its result. -/
def resultsOk (s : State) (p : Pass) (rs : List RowResult) : Bool :=
  p.rows.all fun r => match cmdOf s r.cmd, resultOf rs r with
    | none, _ => true
    | some c, some x => resultOk s c r.kind x
    | some _, none => false

/-- The pass selects or scores some token. -/
def selects (s : State) (p : Pass) : Bool :=
  p.rows.any fun r => ((cmdOf s r.cmd).map fun c => decide (wantLogits s c r.kind ≠ 0)).getD false

/-- COMMIT of the new position to the other stages, and DESTROY of a transient session that has gone (R439). -/
def tellCommit (sp : Split) (r : PassRow) (key was : Nat) (s : State) : State :=
  let now := ((ctxOf s r.part key).map (·.pos)).getD was
  let s := if now = was then s
    else toStages sp (fun d => ctrl d 0x06 r.part.val (wireCtx key) (toLe 4 now) []) s
  if 4294967296 ≤ key ∧ (ctxOf s r.part key).isNone then
    toStages sp (fun d => ctrl d 0x0A r.part.val (wireCtx key) [] []) s
  else s

/-- One row at the commit point. -/
def endRow (p : Pass) (rs : List RowResult) (r : PassRow) (s : State) : State :=
  match cmdOf s r.cmd with
  | none => s
  | some c =>
    let was := positionOf s c
    let s := match p.rowFail.find? (·.1 == r.cmd), resultOf rs r with
      | some (_, st, d), _ => failRow r st d s
      | none, some x => settleRow r x s
      | none, none => s
    match stagesOf s p.model with
    | some sp => tellCommit sp r c.key was s
    | none => s

/-- The commit point of a pass whose rows have their results. -/
def commitPass (p : Pass) (rs : List RowResult) (s : State) : State :=
  let s := if selects s p then bumpApt 7 1 s else s
  let s := addBreath p (endPass p [] s)
  let s := match p.model with
    | .handle h => setModel h (fun m => { m with lastUse := s.tbs.now }) s
    | .early => s
  p.rows.foldl (fun s r => endRow p rs r s) s

/-- A failed pass: every command with a row completes with the failure. -/
def failPass (p : Pass) (status detail : Nat) (s : State) : State :=
  let s := tellStages p status detail (addBreath p (endPass p [] s))
  p.rows.foldl (fun s r => failRow r status detail s) s

/-- Another stage's part of a split pass has ended: the block goes on, then STAGE_DONE (R438). -/
def endStage (p : Pass) (sp : Split) (h : Handle) (s : State) : State :=
  let part := s.models[h].owner.val
  let n := ((s.ens.blocks.find? (·.h == h)).map fun b => (b.data.map fun d => d.2.length).sum).getD 0
  let bytes := freeBytes n s
  let s := endPass p [] { s with
    freeCtr := s.freeCtr + n
    ens := { s.ens with blocks := s.ens.blocks.filter (·.h != h) } }
  let s := sendBlock sp h part p.num bytes s
  let w := p.waitNs / lanes p
  originate (ctrl (sp.devices.getD 0 0) 0x08 part 0 (toLe 4 w) (toLe 2 p.num))
    (setModel h (fun m => { m with lastUse := s.tbs.now }) s)

/-- A voice of the pass, or the section of one, had its last window out of range: whether its clock had failed before the pass
ended is not yet judged, and the commit waits for that (R65, the Edges of 03; log entry 31). -/
def undecided (s : State) (p : Pass) : Bool :=
  p.voices.any fun v => (islOf s (voiceIsland v)).bad || (islOf s (Fin.ofNat 32 (17 + v.val / 4))).bad

/-- PASS_END of a model, with what its voices computed. -/
def passEnd (m : ModelRef) (rs : List RowResult) (s : State) : State :=
  match passOf s m with
  | none => s
  | some p =>
    let tag := passTag s p
    match p.failure with
    | some (st, d) => failPass p st d s
    | none =>
      if undecided s p then s
      else match stagesOf s m, m with
      | some sp, .handle h =>
        if sp.stage ≠ 0 then endStage p sp h s
        else if !((otherStages s sp).all fun d => p.stagesDone.contains d) || !resultsOk s p rs then s
        else withLease .aperture tag (commitPass p rs) s
      | _, _ =>
        if !resultsOk s p rs then s
        else if selects s p then
          withLease .aperture tag (fun s =>
            if p.mirrored && rs.any (·.diff) then unitMismatch m 23 s else commitPass p rs s) s
        else commitPass p rs s

def execPassEnd (m : ModelRef) (rs : List RowResult) (s : State) : Host.Outcome State Fault Refusal :=
  live s (passEnd m rs)

end Sys2Proof.Machine
end

