-- ==== Sys2Proof/Machine/Ensemble.lean ====
section
/-! DEFINITION. The ensemble link (18): port states (R422 to R424), reachability and peer loss (R432, R442), receiving,
acknowledging and replaying (R426 to R429), routing (R430), downbeats (R434, R435) and the ENS registers (R446). What
CTRL packets and DATA do to models and passes stands in Stages. -/

namespace Sys2Proof.Machine

/-! ### Reachability (R432) -/

/-- The bitmap as the 32 bytes of a REACH payload. -/
def reachBytes (b : BitVec 256) : List Byte := toLe 32 b.toNat

/-- REACH goes to the neighbour on every port that carries packets. -/
def sendReach (s : State) : State :=
  (List.range 4).foldl (fun s i =>
    let n : Port := Fin.ofNat 4 i
    if portActive s n then
      enqueue n none { ctrl (portOf s n).neighbour 0x02 0 0 [] (reachBytes s.ens.reach) with src := deviceNo s } s
    else s) s

/-- The lowest stage device of a split model that is unreachable. -/
def lostStage (s : State) (sp : Split) : Option Nat := ((otherStages s sp).filter fun d => !reachable s d).min?

/-- Work commands that name the handle as target. -/
def workOn (s : State) (h : Handle) : List Cmd :=
  s.cmds.filter fun c => isWork c.op && !c.early && c.model == h.val && !c.silent

/-- The part is no longer joined. On the entry device the pass that runs and the commands that name the model complete
with the status, and the contexts bound to it are destroyed, each counted (R442). -/
def unjoin (h : Handle) (status detail : Nat) (s : State) : State :=
  let s := setJoined h false s
  if ((s.models[h].hdr.split).map (·.stage)) ≠ some 0 then s
  else
    let s := match passOf s (.handle h) with
      | some p => abandonPass p status detail [] s
      | none => s
    let s := (workOn s h).foldl (fun s c =>
      finish c.id status detail false (failPayload s c status) (dropReserving c.id s)) s
    (boundTo s h).foldl (fun s x =>
      let s := destroyCtx x.part x.num s
      { s with ens := { s.ens with destroyed := satAdd 65535 s.ens.destroyed 1 } }) s

/-- One device is lost: an occurrence of source 4, ENS_LOST and one record. Its JOIN reports no longer hold. -/
def loseDevice (d : Nat) (s : State) : State :=
  let s := report 4 { s with ens := { s.ens with
    lostDevice := d
    lostCount := satAdd 65535 s.ens.lostCount 1
    joins := s.ens.joins.filter (·.device != d) } }
  logErr { devErr 0x35 29 s with arg1 := d, arg2 := 1 } s

/-- A device is found; it hears of this device's parts that it shares. -/
def findDevice (d : Nat) (s : State) : State :=
  let s := logErr { devErr 0x35 29 s with arg1 := d, arg2 := 2 } s
  (List.range 64).foldl (fun s i =>
    let h : Handle := Fin.ofNat 64 i
    match s.models[h].hdr.split with
    | some sp =>
      if 1 < sp.stages ∧ (otherStages s sp).contains d then
        originate (joinMsg sp h s.models[h].owner (modelStCode s.models[h].st) d) s
      else s
    | none => s) s

/-- Split models whose stage device is unreachable are unjoined at once (R442). -/
def settleJoins (s : State) : State :=
  (List.range 64).foldl (fun s i =>
    let h : Handle := Fin.ofNat 64 i
    match s.models[h].hdr.split with
    | none => s
    | some sp =>
      match lostStage s sp with
      | some d => if s.ens.joined.getLsbD i then unjoin h 0x60 d s else s
      | none => tryJoin h s) s

/-- The reachable set becomes `new`: losses, finds, REACH to the neighbours, and what follows for split models. -/
def setReach (new : BitVec 256) (s : State) : State :=
  let old := s.ens.reach
  if new = old then s
  else
    let ds := (List.range 256).filter fun d => old.getLsbD d != new.getLsbD d
    let s := { s with ens := { s.ens with reach := new } }
    let s := ds.foldl (fun s d => if new.getLsbD d then findDevice d s else loseDevice d s) s
    settleJoins (sendReach s)

/-- The devices routed through a port. -/
def routedOn (s : State) (n : Port) (d : Nat) : Bool := d != deviceNo s && routeOf s d == n.val

/-- Replace the part of the set that is routed through a port. -/
def reachVia (n : Port) (f : Nat → Bool) (s : State) : State :=
  setReach (BitVec.ofNat 256 (maskOf 256 fun d => if routedOn s n d then f d else s.ens.reach.getLsbD d)) s

/-! ### Port states (R422 to R424, R429) -/

/-- A port enters a state with an instant from which its bound runs. -/
def enterPort (n : Port) (st : PortSt) (s : State) : State := setPort n (fun q => { q with st := st, since := s.clk }) s

/-- What a link loses when it goes: sequence numbers, credits, replay copies and queued packets. The fields that the
registers show stay. -/
def clearLink (n : Port) (s : State) : State :=
  let z : Vector Nat 2 := Vector.replicate 2 0
  dropUnits (fun u => u == .port n) (setPort n (fun q => { q with
    txSeq := 0
    unacked := []
    queue := []
    sent := z
    granted := z
    rxSeq := 0
    rxNew := 0
    skipping := false
    freed := z }) s)

/-- A record of kind 0x34 (R445). -/
def portRecord (n : Port) (s : State) : State :=
  logErr { devErr 0x34 29 s with arg1 := (portOf s n).cause, arg2 := n.val } s

/-- A port leaves for `st`. A change out of ACTIVE writes one record, and what was routed through it is lost. -/
def leavePort (n : Port) (st : PortSt) (cause : Option Nat) (s : State) : State :=
  let was := (portOf s n).st
  let s := setPort n (fun q => { q with cause := cause.getD q.cause, penalty := false }) (enterPort n st (clearLink n s))
  if was = .active then reachVia n (fun _ => false) (portRecord n s) else s

def portDown (n : Port) (cause : Nat) (s : State) : State := leavePort n .down (some cause) s

/-- A port that fails a state of training writes one record and waits 100 ms (R424). -/
def trainFail (n : Port) (cause : Nat) (s : State) : State :=
  portRecord n (setPort n (fun q => { q with cause := cause, penalty := true }) (enterPort n .down s))

/-- The port may leave DISABLED (R422). -/
def portEnabled (s : State) (n : Port) : Bool :=
  ((ensCfg s).map (·.ports.getLsbD n)).getD false && !s.ens.hold.getLsbD n && 4 ≤ stageCode s.bsc.stage && !muted s &&
  islRuns s 29

/-- HOLD keeps a port DISABLED; an enabled port that is DISABLED starts training (R422, R446). Both act when island 29
runs. -/
def settlePorts (s : State) : State :=
  if !islRuns s 29 then s
  else (List.range 4).foldl (fun s i =>
    let n : Port := Fin.ofNat 4 i
    let st := (portOf s n).st
    if s.ens.hold.getLsbD n then (if st = .disabled then s else leavePort n .disabled none s)
    else if st = .disabled ∧ portEnabled s n then enterPort n .detect s else s) s

/-- A row of a port in state `st` of island 29 running. -/
def inPort (n : Port) (st : PortSt) (f : State → State) (s : State) : State :=
  if (portOf s n).st = st ∧ islRuns s 29 then f s else s

/-- PORT_DETECT: a peer answers on lane 0, or detection is repeated. -/
def execPortDetect (n : Port) (answered : Bool) (s : State) : Host.Outcome State Fault Refusal :=
  live s (inPort n .detect (fun s => if answered then enterPort n .equalize s else s))

/-- The bound of a training state, in ns, has passed (R422). -/
def pastBound (s : State) (n : Port) (ns : Nat) : Bool := decide ((portOf s n).since + ns < s.clk)

/-- PORT_EQUALIZE_END: on to ALIGN; past its 8 ms the port fails with cause 6. -/
def execPortEqualizeEnd (n : Port) (ok : Bool) (s : State) : Host.Outcome State Fault Refusal :=
  live s (inPort n .equalize (fun s =>
    if pastBound s n 8000000 then trainFail n 6 s else if ok then enterPort n .align s else s))

/-- ROLE as IDENT and ENS_CFG code it: 0 standalone, 1 leader, 2 follower. -/
def roleCode (s : State) : Nat := match ensCfg s with
  | none => 0
  | some c => if c.leader then 1 else 2

/-- The next IDENT of an exchange; TURN is the time that this side took, an open value (log entry 3). -/
def sendIdent (n : Port) (s : State) : State :=
  let p : Packet :=
    { type := 6, dst := 0xFF, src := deviceNo s, ttl := 0, seq := 0
      arg := [BitVec.ofNat 8 (deviceNo s), BitVec.ofNat 8 n.val, BitVec.ofNat 8 (roleCode s), BitVec.ofNat 8 (hopsOf s)] ++
        toLe 4 (Config.freeNat s.freeCtr)
      payload := [] }
  sendLocal n p (setPort n (fun q => { q with idents := q.idents + 1 }) { s with freeCtr := s.freeCtr + 1 })

/-- The lanes that a port uses when these have aligned (R423). -/
def lanesUsed (a : BitVec 4) : BitVec 4 :=
  if a = 0xF then 0xF else if a &&& 3 = 3 then 3 else if a.getLsbD 0 then 1 else 0

/-- PORT_ALIGN_END: all four lanes, lanes 0 and 1, or lane 0; without lane 0 the port fails with cause 5, past its 1 ms with
cause 6. -/
def portAlignEnd (n : Port) (lanes : BitVec 4) (s : State) : State :=
  let u := lanesUsed lanes
  if u = 0 then trainFail n 5 s
  else if pastBound s n 1000000 then trainFail n 6 s
  else sendIdent n (setPort n (fun q => { q with lanes := u, idents := 0, answered := 0 }) (enterPort n .ident s))

def execPortAlignEnd (n : Port) (lanes : BitVec 4) (s : State) : Host.Outcome State Fault Refusal :=
  live s (inPort n .align (portAlignEnd n lanes))

/-- A CRC-good packet of the type arrives with nothing in its reserved bytes. -/
def identOk (p : Packet) : Bool := p.type == 6 && p.payload.isEmpty && p.arg.length == 8

/-- IDENT (R424): what the peer says of itself; causes 3 and 4. Each side sends 16, each answering the peer's last. -/
def identIn (n : Port) (p : Packet) (s : State) : State :=
  if !identOk p then s
  else
    let s := setPort n (fun q => { q with
      neighbour := byteAt p.arg 0
      nrole := byteAt p.arg 2
      nhops := byteAt p.arg 3 % 32
      answered := min 16 (q.answered + 1)
      lastRx := s.clk }) s
    if byteAt p.arg 0 = deviceNo s then trainFail n 3 s
    else if byteAt p.arg 2 = 1 ∧ isLeader s then trainFail n 4 s
    else if (portOf s n).idents < 16 then sendIdent n s else s

def execIdent (n : Port) (p : Packet) (s : State) : Host.Outcome State Fault Refusal :=
  live s (inPort n .ident (identIn n p))

/-- The port carries packets from now on; its neighbour is reachable over it. -/
def portUp (n : Port) (delay : Nat) (s : State) : State :=
  let s := setPort n (fun q => { q with
    delay := delay % 65536
    lastRx := s.clk
    lastTx := s.clk
    lastAck := s.clk }) (enterPort n .active (clearLink n s))
  reachVia n (fun d => d == (portOf s n).neighbour) s

/-- PORT_IDENT_END: the mean delay of the 16 exchanges in 1/16 ns; past its 1 ms the port fails with cause 6. -/
def portIdentEnd (n : Port) (delay : Option Nat) (s : State) : State :=
  if pastBound s n 1000000 then trainFail n 6 s
  else match delay with
  | none => s
  | some d => if (portOf s n).idents = 16 ∧ (portOf s n).answered = 16 then portUp n d s else s

def execPortIdentEnd (n : Port) (delay : Option Nat) (s : State) : Host.Outcome State Fault Refusal :=
  live s (standingChange (inPort n .ident (portIdentEnd n delay)))

/-- PORT_DOWN_EXPIRY: to DETECT after 10 ms, after 100 ms for a port that failed training (R422, R424). -/
def execPortDownExpiry (n : Port) (s : State) : Host.Outcome State Fault Refusal :=
  live s (inPort n .down (fun s =>
    let q := portOf s n
    if q.since + (if q.penalty then 100000000 else 10000000) ≤ s.clk then enterPort n .detect s else s))

/-- RETRAIN of one port (R424). -/
def retrain (n : Port) (s : State) : State :=
  match (portOf s n).st with
  | .disabled => s
  | .down => setPort n (fun q => { q with since := s.clk, penalty := false }) s
  | .active => portDown n 7 s
  | _ => leavePort n .down none s

/-- RETRAIN of the ports whose bits are set. -/
def retrainPorts (v : Word) (s : State) : State :=
  (List.range 4).foldl (fun s i => if v.getLsbD (8 + i) then retrain (Fin.ofNat 4 i) s else s) s

/-- ENS_CTRL: LOCK_REQ and DBOUT_EN act at once, HOLD and RETRAIN on the ports when island 29 runs (R424, R435, R443, R446). -/
def writeEnsCtrl (v : Word) (s : State) : State :=
  let s := { s with ens := { s.ens with
    lockReq := v.getLsbD 0
    dbOutEn := v.getLsbD 1
    hold := BitVec.ofNat 4 (bits v.toNat 15 12) } }
  settlePorts (if bits v.toNat 11 8 = 0 then s else whenRuns 0xE004 v (retrainPorts v) s)

def execEnsRetrain (v : Word) (s : State) : Host.Outcome State Fault Refusal :=
  live s (regWrite 0xE004 (writeEnsCtrl v))

/-- A clock fault in island 29 is the loss of every peer on every port (R65, R433). -/
def losePeers (s : State) : State :=
  (List.range 4).foldl (fun s i =>
    let n : Port := Fin.ofNat 4 i
    if (portOf s n).st = .disabled then s else portDown n 1 s) s

/-! ### Acknowledge and replay (R427, R428) -/

/-- The last good SEQ received. -/
def lastSeq (q : PortState) : Nat := (q.rxSeq + 4095) % 4096

/-- An ACK with the cumulative SEQ and the credit totals. -/
def sendAck (n : Port) (nak : Bool) (s : State) : State :=
  let q := portOf s n
  let p : Packet :=
    { type := 5, dst := 0xFF, src := deviceNo s, ttl := 0, seq := 0
      arg := toLe 2 (lastSeq q) ++ [BitVec.ofNat 8 q.freed[(0 : Fin 2)], BitVec.ofNat 8 q.freed[(1 : Fin 2)],
        BitVec.ofNat 8 (b2n nak), 0, 0, 0]
      payload := [] }
  sendLocal n p (setPort n (fun q => { q with rxNew := 0, lastAck := s.clk }) s)

/-- ACK_TIMER: packets received, or credits freed, since the last ACK are acknowledged. -/
def execAckTimer (n : Port) (s : State) : Host.Outcome State Fault Refusal :=
  live s (inPort n .active (fun s => if (portOf s n).rxNew = 0 then s else sendAck n false s))

/-- Every unacknowledged packet is due again. -/
def replayAll (n : Port) (s : State) : State :=
  drainPort n (setPort n (fun q => { q with unacked := q.unacked.map fun e => { e with due := true } }) s)

/-- The same packet has been replayed 8 times: DOWN with cause 2. -/
def replayLimit (n : Port) (s : State) : State :=
  if (portOf s n).unacked.any fun e => 8 ≤ e.replays then portDown n 2 s else s

/-- The packets up to an acknowledged SEQ leave the replay buffer. -/
def ackedBy (seq : Nat) (l : List SentPkt) : List SentPkt :=
  if l.any fun e => e.pkt.seq == seq then (l.dropWhile fun e => e.pkt.seq != seq).tail else l

def ackOk (p : Packet) : Bool :=
  p.type == 5 && p.payload.isEmpty && p.arg.length == 8 && le p.arg 0 2 < 4096 && byteAt p.arg 4 < 2 && allZero p.arg 5 3

/-- ACK: what it acknowledges, the credits it returns, and on a NAK the replay of the rest. -/
def ackIn (n : Port) (p : Packet) (s : State) : State :=
  if !ackOk p then s
  else
    let s := setPort n (fun q => { q with
      unacked := ackedBy (le p.arg 0 2) q.unacked
      granted := (q.granted.set 0 (byteAt p.arg 2)).set 1 (byteAt p.arg 3)
      lastRx := s.clk }) s
    if byteAt p.arg 4 = 1 then replayLimit n (replayAll n s) else drainPort n s

def execAck (n : Port) (p : Packet) (s : State) : Host.Outcome State Fault Refusal :=
  live s (inPort n .active (ackIn n p))

/-- REPLAY_TIMEOUT: the oldest unacknowledged packet is 4 µs old. -/
def execReplayTimeout (n : Port) (s : State) : Host.Outcome State Fault Refusal :=
  live s (inPort n .active (fun s =>
    match (portOf s n).unacked.head? with
    | some e => if e.at_ + 4000 ≤ s.clk then replayLimit n (replayAll n s) else s
    | none => s))

/-- KEEPALIVE_IDLE_TIMER: nothing sent for 5 µs (R427). -/
def execKeepaliveIdleTimer (n : Port) (s : State) : Host.Outcome State Fault Refusal :=
  live s (inPort n .active (fun s =>
    if (portOf s n).lastTx + 5000 ≤ s.clk then
      sendLocal n { type := 4, dst := 0xFF, src := deviceNo s, ttl := 0, seq := 0, arg := List.replicate 8 0, payload := [] } s
    else s))

def execKeepalive (n : Port) (p : Packet) (s : State) : Host.Outcome State Fault Refusal :=
  live s (inPort n .active (fun s => if p.type = 4 then setPort n (fun q => { q with lastRx := s.clk }) s else s))

/-- LINK_SILENCE: no CRC-good packet for 50 µs (R429). -/
def execLinkSilence (n : Port) (s : State) : Host.Outcome State Fault Refusal :=
  live s (inPort n .active (fun s => if (portOf s n).lastRx + 50000 ≤ s.clk then portDown n 1 s else s))

/-- A link error: a NAK, then routed packets are discarded until the expected SEQ arrives (R428). A bad CRC is counted,
and leaves the silence running. -/
def linkErr (n : Port) (crc : Bool) (s : State) : State :=
  sendAck n true (setPort n (fun q => { q with
    skipping := true
    crc := if crc then satAdd 65535 q.crc 1 else q.crc
    lastRx := if crc then q.lastRx else s.clk }) s)

/-- A routed packet beyond the expected SEQ is a gap; one before it is a replay of a packet that has been received, which
is acknowledged again. -/
def seqError (n : Port) (seq : Nat) (s : State) : State :=
  let q := portOf s n
  let s' := setPort n (fun q => { q with lastRx := s.clk }) s
  if 2048 ≤ (seq + 4096 - q.rxSeq) % 4096 then setPort n (fun q => { q with rxNew := max 1 q.rxNew }) s'
  else if q.skipping then s' else linkErr n false s

/-- LINK_ERROR. -/
def linkError (n : Port) (e : LinkErr) (s : State) : State :=
  match e with
  | .crc => linkErr n true s
  | .unlisted => linkErr n false s
  | .gap p => if p.seq % 4096 = (portOf s n).rxSeq then s else seqError n (p.seq % 4096) s

def execLinkError (n : Port) (e : LinkErr) (s : State) : Host.Outcome State Fault Refusal :=
  live s (inPort n .active (linkError n e))

/-! ### Receiving and routing (R425, R426, R430) -/

/-- LEN is at most 256 and a multiple of 16, SEQ has 12 bits, and the header has its 8 ARG bytes. -/
def routedForm (p : Packet) : Bool :=
  p.payload.length ≤ 256 && p.payload.length % 16 == 0 && p.seq < 4096 && p.arg.length == 8 && p.ttl < 256 && p.dst < 256 &&
  p.src < 256

def headBytes (p : Packet) : List Byte :=
  [BitVec.ofNat 8 p.type, BitVec.ofNat 8 p.dst, BitVec.ofNat 8 p.src, BitVec.ofNat 8 p.ttl] ++ toLe 2 p.seq ++
  toLe 2 p.payload.length

/-- A discard counts in ENS_DROP and writes one record (R430). -/
def dropPacket (n : Port) (p : Packet) (reason : Nat) (s : State) : State :=
  let s := { s with ens := { s.ens with dropCount := satAdd 65535 s.ens.dropCount 1, dropReason := reason } }
  logErr { devErr 0x36 29 s with arg0 := le (headBytes p) 0 8, arg1 := reason, arg2 := n.val } s

/-- Why a packet for another device is not forwarded; none where it is. -/
def routeFail (s : State) (p : Packet) : Option Nat :=
  let r := routeOf s p.dst
  if p.ttl ≤ 1 then some 1
  else if r = 0xFF then some 2
  else if 4 ≤ r ∨ !portActive s (Fin.ofNat 4 r) then some 3 else none

/-- A packet for another device goes on, its buffer held until it is sent, or is discarded. -/
def forward (n : Port) (p : Packet) (s : State) : State :=
  match routeFail s p with
  | some why => dropPacket n p why (freeBuf n (vcOf p) s)
  | none => enqueue (Fin.ofNat 4 (routeOf s p.dst)) (some n) { p with ttl := p.ttl - 1 } s

/-- A routed packet arrives. One out of order or malformed is a link error; one for this device is consumed by `k`. -/
def receive (n : Port) (p : Packet) (k : State → State) (s : State) : State :=
  if !portActive s n then s
  else if !routedForm p then linkErr n false s
  else if p.seq ≠ (portOf s n).rxSeq then seqError n p.seq s
  else
    let s := setPort n (fun q => { q with
      rxSeq := (q.rxSeq + 1) % 4096
      rxNew := q.rxNew + 1
      skipping := false
      lastRx := s.clk }) s
    let s := if p.dst = deviceNo s then k (freeBuf n (vcOf p) s) else forward n p s
    if 16 ≤ (portOf s n).rxNew then sendAck n false s else s

/-- CTRL messages that R444 lists. -/
def listedMsg (m : Nat) : Bool := 1 ≤ m && m ≤ 10

/-- A CTRL packet with the MSG of its row, or with an unlisted one, which is discarded (R430). -/
def receiveCtrl (n : Port) (p : Packet) (msg : Nat) (k : State → State) (s : State) : State :=
  let m := byteAt p.arg 0
  if p.type ≠ 2 ∨ (m ≠ msg ∧ listedMsg m) then s
  else receive n p (fun s => if m = msg then k s else dropPacket n p 4 s) s

/-- REACH (R432): the neighbour and what it reports, of the devices routed through this port. -/
def reachIn (n : Port) (p : Packet) (s : State) : State :=
  let b := leNat (slice p.payload 0 32)
  reachVia n (fun d => d == (portOf s n).neighbour || bitAt b d) s

def execReach (n : Port) (p : Packet) (s : State) : Host.Outcome State Fault Refusal :=
  live s (receiveCtrl n p 0x02 (reachIn n p))

/-! ### Downbeats (R73, R76, R434, R435, R511) -/

/-- The upstream port of a follower: the lowest ACTIVE port whose neighbour has one hop less. -/
def upstream (s : State) : Option Port :=
  match ensCfg s with
  | none => none
  | some c => if c.leader then none
    else ((List.range 4).map (Fin.ofNat 4)).find? fun n => portActive s n && (portOf s n).nhops + 1 == c.hops

def downbeatPkt (s : State) (t d leader hops : Nat) (loaded : Bool) : Packet :=
  { type := 3, dst := 0xFF, src := deviceNo s, ttl := 0, seq := 0, arg := toLe 8 t
    payload := toLe 8 d ++ [BitVec.ofNat 8 leader, BitVec.ofNat 8 hops, BitVec.ofNat 8 (b2n loaded), 0, 0, 0, 0, 0] }

/-- A downbeat on every ACTIVE port whose neighbour has that hop count. -/
def sendDownbeat (hops : Nat) (p : Packet) (s : State) : State :=
  (List.range 4).foldl (fun s i =>
    let n : Port := Fin.ofNat 4 i
    if portActive s n ∧ (portOf s n).nhops = hops then sendLocal n p s else s) s

/-- DOWNBEAT_CROSSING: after counting past a multiple, the pulse, and in LEADER the count and the packets (R434, R511). -/
def crossing (s : State) : State :=
  if !s.tbs.crossed then s
  else
    let s := pulseOut { s with tbs := { s.tbs with crossed := false } }
    if s.tbs.lock ≠ .leader then s
    else
      let p := downbeatPkt s (s.tbs.now / downbeatNs * downbeatNs) 0 (deviceNo s) 0 (s.tbs.loadedLeft != 0)
      sendDownbeat 1 p { s with tbs := { s.tbs with dbCount := s.tbs.dbCount + 1, loadedLeft := s.tbs.loadedLeft - 1 } }

def execDownbeatCrossing (s : State) : Host.Outcome State Fault Refusal := live s crossing

/-- DOWNBEAT_IN_CAPTURE: TBS_NOW at the edge (R435). -/
def execDownbeatInCapture (s : State) : Host.Outcome State Fault Refusal :=
  live s fun s => { s with ens := { s.ens with dbin := s.tbs.now } }

def downbeatOk (p : Packet) : Bool :=
  p.type == 3 && p.arg.length == 8 && p.payload.length == 16 && byteAt p.payload 10 < 2 && allZero p.payload 11 5

/-- To the nearest ns of a number of 1/16 ns. -/
def nearest16 (x : Int) : Int := (x + 8) / 16

def clampInt (b x : Int) : Int := max (-b) (min b x)

/-- The frequency estimate after a downbeat with error e, in ppb: the trim in force less the drift since the last one,
`k` periods ago (1 ns in a period is 15625/16 ppb). -/
def freqEstimate (s : State) (e : Int) : Int :=
  clampInt 100000 (s.tbs.trim - (e - s.tbs.resid) * 15625 / (16 * (s.tbs.miss + 1 : Nat)))

/-- The trim that follows a downbeat (R73): the estimate, and at most 100 ppm beyond it that removes the error within one
period, so that the lock of R74 is reached. What remains open, within ±2 ppm, is a free value (DESIGN CHOICE, log entries
3 and 27). -/
def newTrim (s : State) (stepped : Bool) (e : Int) : Int :=
  let est := if stepped then clampInt 100000 s.tbs.trim else freqEstimate s e
  let rest := if stepped then 0 else e
  est + clampInt 100000 (clampInt 2000 (Config.trim s.freeCtr) - rest * 15625 / 16)

/-- TBS_NOW steps to the leader's time; it never decreases (R70). -/
def stepTo (t : Nat) (s : State) : State := { s with tbs := { s.tbs with now := max s.tbs.now (t % 2 ^ 64) } }

/-- A follower accepts a downbeat (R73, R76, R434). -/
def acceptDownbeat (n : Port) (h : Nat) (p : Packet) (residence : Nat) (s : State) : State :=
  let d := leNat (slice p.payload 0 8)
  let dly := (portOf s n).delay
  let loaded := bitAt (byteAt p.payload 10) 0
  let at16 := 16 * leNat p.arg + d + dly
  let e := nearest16 (16 * (s.tbs.now : Int) - at16)
  let t := (nearest16 at16).toNat
  let s := { s with ens := { s.ens with leader := byteAt p.payload 8 } }
  let first := s.tbs.lock == .seek
  let jump := !first && loaded && decide (40 * h < e.natAbs) && decide (s.tbs.now < t)
  let (lk, run) := if first || jump then (LockSt.align, 0) else lockAfter s.tbs.lock s.tbs.goodRun h e
  let trim := newTrim s (first || jump) e
  let s := if first || jump then stepTo t s else s
  let s := { s with
    freeCtr := s.freeCtr + 1
    tbs := { s.tbs with
      lock := lk
      goodRun := run
      miss := 0
      phase := e
      resid := if first || jump then 0 else e
      trim := trim
      dbCount := s.tbs.dbCount + 1 } }
  sendDownbeat (h + 1) (downbeatPkt s (leNat p.arg) (d + dly + residence) (byteAt p.payload 8) h loaded) s

/-- DOWNBEAT: discarded on any port but the upstream one. -/
def downbeatIn (n : Port) (p : Packet) (residence : Nat) (s : State) : State :=
  let s := setPort n (fun q => { q with lastRx := s.clk }) s
  let follows := s.tbs.lock == .seek || s.tbs.lock == .align || s.tbs.lock == .locked || s.tbs.lock == .holdover
  if !downbeatOk p || !follows || upstream s != some n then s else acceptDownbeat n (hopsOf s) p residence s

def execDownbeat (n : Port) (p : Packet) (residence : Nat) (s : State) : Host.Outcome State Fault Refusal :=
  live s (inPort n .active (downbeatIn n p residence))

end Sys2Proof.Machine
end

