-- ==== Sys2Proof/Machine/Stages.lean ====
section
/-! DEFINITION. Split models (18 R436 to R444): activation blocks, and what each CTRL message does on the entry device
and on the other stages; the ENS registers (R446). -/

namespace Sys2Proof.Machine

/-- Every field of a CTRL packet about partitions is in range. -/
def pktPart (p : Packet) : Part := Fin.ofNat 8 (byteAt p.arg 1)
def pktCtx (p : Packet) : Nat := le p.arg 2 2

/-- The key of a stage's session for an entry device and a context of it (R439). -/
def stageKey (src ctx : Nat) : Nat := 131072 * (src + 1) + ctx

/-- The part that this device holds as a later stage of a model whose entry device is `src`, of a partition. -/
def partFrom (s : State) (src : Nat) (p : Part) : Option Handle :=
  ((List.range 64).map (Fin.ofNat 64)).find? fun h =>
    s.models[h].owner == p && match s.models[h].hdr.split with
      | some sp => decide (1 < sp.stages) && sp.stage != 0 && sp.devices.getD 0 0 == src
      | none => false

/-- This device's split handle of a partition, as a DATA or JOIN packet names it. -/
def splitHandle (s : State) (h : Nat) (p : Part) : Option Split :=
  if 64 ≤ h then none
  else
    let m := s.models[Fin.ofNat 64 h]
    if m.owner = p then m.hdr.split.filter fun sp => decide (1 < sp.stages) else none

/-- DATA: a piece of the activation block of a pass; a new PASS number begins a new block (R438). -/
def dataIn (p : Packet) (s : State) : State :=
  let part := pktPart p
  match splitHandle s (byteAt p.arg 0) part with
  | none => s
  | some _ =>
    let h : Handle := Fin.ofNat 64 (byteAt p.arg 0)
    let num := pktCtx p
    let old := match s.ens.blocks.find? fun b => b.h == h && b.num == num with
      | some b => b.data.filter (·.1 != le p.arg 4 4)
      | none => []
    let b : ActBlock := { h := h, part := part, num := num, from_ := p.src, data := old ++ [(le p.arg 4 4, p.payload)] }
    { s with ens := { s.ens with blocks := (s.ens.blocks.filter (·.h != h)) ++ [b] } }

def execData (n : Port) (p : Packet) (s : State) : Host.Outcome State Fault Refusal :=
  live s fun s => if p.type = 1 then receive n p (dataIn p) s else s

/-! ### JOIN (R437) -/

/-- JOIN: the report replaces an earlier one of the device for the handle. RESIDENT and DEGRADED may join; the eviction of
a stage's part ends the entry device's commands with BAD_MODEL 3 (Edges of 18). -/
def joinIn (p : Packet) (s : State) : State :=
  if 64 ≤ byteAt p.arg 4 then s
  else
    let h : Handle := Fin.ofNat 64 (byteAt p.arg 4)
    let st := byteAt p.arg 5
    let r : JoinRep := { device := p.src, h := h, part := pktPart p, state := st, record := slice p.payload 0 64 }
    let s := { s with ens := { s.ens with
      joins := (s.ens.joins.filter fun j => !(j.device == p.src && j.h == h)) ++ [r] } }
    if st = 2 ∨ st = 3 then tryJoin h (judgeJoin h r s)
    else if !s.ens.joined.getLsbD h.val then s
    else if st = 5 ∨ st = 0 then unjoin h 0x33 (h.val + 0x300) s
    else setJoined h false s

def execJoin (n : Port) (p : Packet) (s : State) : Host.Outcome State Fault Refusal :=
  live s (receiveCtrl n p 0x01 (joinIn p))

/-! ### RESERVE, RESERVE_REPLY, RELEASE (R439) -/

/-- The pages of this stage's layers below a bound that its session does not hold. -/
def stagePages (s : State) (h : Handle) (p : Part) (key n : Nat) : List KvPage :=
  (missingPages s p key s.models[h].hdr false n).filter (·.layer.isSome)

/-- RESERVE at a stage: its partition's quotas for its layers and one session; the reply carries tier and shortfall. -/
def reserveIn (p : Packet) (s : State) : State :=
  let part := pktPart p
  match partFrom s p.src part with
  | none => s
  | some h =>
    let key := stageKey p.src (pktCtx p)
    let fresh := (ctxOf s part key).isNone
    let pages := stagePages s h part key (le p.arg 4 4)
    let reply := fun (t n : Nat) => ctrl p.src 0x04 part.val (pktCtx p) (BitVec.ofNat 8 t :: toLe 3 (min 0xFFFFFF n)) []
    match shortTier s part [(1, pages.length), (6, b2n fresh)] with
    | some (t, n) => originate (reply t n) (quotaLast part t n s)
    | none =>
      let s := if fresh then
          setCtx part key (fun x => { x with st := .live, model := some (.handle h), mask := none, mstate := 0 })
            (newCtx part key s)
        else s
      originate (reply 0 0) (reservePages part key pages s)

def execReserve (n : Port) (p : Packet) (s : State) : Host.Outcome State Fault Refusal :=
  live s (receiveCtrl n p 0x03 (reserveIn p))

/-- RELEASE to every stage of what a command reserved there. -/
def releaseStages (c : Cmd) (asked : List Nat) (s : State) : State :=
  asked.foldl (fun s d => originate (ctrl d 0x05 c.part.val c.ctx [] []) s) s

/-- Every stage has replied: the command goes on to admission, or completes REFUSED_QUOTA with the tier and shortfall of
the first refusing stage in stage order. What a command that is not admitted after all reserved is released. -/
def settleReserve (r : Reserving) (s : State) : State :=
  match cmdOf s r.cmd with
  | none => s
  | some c =>
    let s := { s with ens := { s.ens with reserving := s.ens.reserving.filter (·.cmd != r.cmd) } }
    match (r.asked.filterMap fun d => r.replies.find? (·.1 == d)).find? fun e => e.2.1 != 0 with
    | some (_, t, n) => refuse c.id 0x20 (t + 8 * min 8191 n) (releaseStages c r.asked s)
    | none =>
      let s := decide_ c.id s
      if (cmdOf s c.id).isNone then releaseStages c r.asked s else s

/-- RESERVE_REPLY at the entry device. -/
def replyIn (p : Packet) (s : State) : State :=
  let mine := fun (r : Reserving) =>
    r.asked.contains p.src && !(r.replies.any (·.1 == p.src)) &&
    ((cmdOf s r.cmd).map fun c => decide (c.part = pktPart p ∧ c.ctx = pktCtx p)).getD false
  match s.ens.reserving.find? mine with
  | none => s
  | some r =>
    let r' := { r with replies := r.replies ++ [(p.src, byteAt p.arg 4, le p.arg 5 3)] }
    let s := { s with ens := { s.ens with
      reserving := s.ens.reserving.map fun e => if e.cmd = r.cmd then r' else e } }
    if r'.asked.all fun d => r'.replies.any (·.1 == d) then settleReserve r' s else s

def execReserveReply (n : Port) (p : Packet) (s : State) : Host.Outcome State Fault Refusal :=
  live s (receiveCtrl n p 0x04 (replyIn p))

/-- RELEASE at a stage: the session keeps its pages below P; one with nothing committed goes. -/
def releaseIn (p : Packet) (s : State) : State :=
  let part := pktPart p
  let key := stageKey p.src (pktCtx p)
  match ctxOf s part key with
  | none => s
  | some x => if x.pos = 0 then dropCtx part key s else trimPages part key s

def execRelease (n : Port) (p : Packet) (s : State) : Host.Outcome State Fault Refusal :=
  live s (receiveCtrl n p 0x05 (releaseIn p))

/-! ### COMMIT, ROLLBACK, STAGE_DONE, FAULT, DESTROY (R438 to R442) -/

/-- COMMIT at a stage: the new P of the session. -/
def commitIn (p : Packet) (s : State) : State :=
  setCtx (pktPart p) (stageKey p.src (pktCtx p)) (fun x => { x with pos := le p.arg 4 4 }) s

def execCommit (n : Port) (p : Packet) (s : State) : Host.Outcome State Fault Refusal :=
  live s (receiveCtrl n p 0x06 (commitIn p))

/-- The pass of a split handle of a partition by its PASS number, where `entry` says which side this device is. -/
def splitPass (s : State) (part : Part) (num : Nat) (entry : Bool) (peer : Nat) : Option Pass :=
  s.passes.find? fun q => q.num == num && match q.model with
    | .early => false
    | .handle h => (splitHandle s h.val part).any fun sp =>
        if entry then sp.stage == 0 && (otherStages s sp).contains peer
        else sp.stage != 0 && sp.devices.getD 0 0 == peer

/-- ROLLBACK at a stage: the activations of the pass are discarded and nothing further is sent for it (R440). -/
def rollbackIn (p : Packet) (s : State) : State :=
  let num := le p.arg 4 2
  let mine := fun (b : ActBlock) => b.part == pktPart p && b.num == num &&
    ((splitHandle s b.h.val b.part).any fun sp => sp.devices.getD 0 0 == p.src)
  let s' := { s with ens := { s.ens with blocks := s.ens.blocks.filter fun b => !mine b } }
  match splitPass s (pktPart p) num false p.src with
  | some q => endPass q [] s'
  | none => s'

def execRollback (n : Port) (p : Packet) (s : State) : Host.Outcome State Fault Refusal :=
  live s (receiveCtrl n p 0x07 (rollbackIn p))

/-- STAGE_DONE at the entry device: the stage has ended its part, and its breath-wait time counts (R438). -/
def stageDoneIn (p : Packet) (s : State) : State :=
  match splitPass s (pktPart p) (le p.payload 0 2) true p.src with
  | none => s
  | some q =>
    if q.stagesDone.contains p.src then s
    else { s with passes := s.passes.map fun e => if e.model = q.model then { e with
        stagesDone := e.stagesDone ++ [p.src], stageWait := e.stageWait + le p.arg 4 4 } else e }

def execStageDone (n : Port) (p : Packet) (s : State) : Host.Outcome State Fault Refusal :=
  live s (receiveCtrl n p 0x08 (stageDoneIn p))

/-- DETAIL of a stage's fault (R441). The message carries no channel, voice or pair, so those are open values (log entry
17). -/
def stageDetail (src status layer free : Nat) : Nat := match status with
  | 0x41 => src + 0x100 * layer
  | 0x40 => layer
  | 0x51 => free % 8
  | _ => free % 16

/-- FAULT at the entry device: the commands of the pass's rows complete, and the pass is abandoned (R440, R441). -/
def faultIn (p : Packet) (s : State) : State :=
  let st := byteAt p.arg 4
  if !([0x40, 0x41, 0x42, 0x50, 0x51] : List Nat).contains st then s
  else match splitPass s (pktPart p) (le p.arg 6 2) true p.src with
    | none => s
    | some q =>
      let d := stageDetail p.src st (byteAt p.arg 5) (Config.freeNat s.freeCtr)
      abandonPass q st d [] { s with freeCtr := s.freeCtr + 1 }

def execFault (n : Port) (p : Packet) (s : State) : Host.Outcome State Fault Refusal :=
  live s (receiveCtrl n p 0x09 (faultIn p))

/-- DESTROY at a stage: its session for the context goes. -/
def execDestroy (n : Port) (p : Packet) (s : State) : Host.Outcome State Fault Refusal :=
  live s (receiveCtrl n p 0x0A (fun s => dropCtx (pktPart p) (stageKey p.src (pktCtx p)) s))

/-! ### The ENS registers (R446) -/

/-- A split pass is held by LOCK_REQ (R443). -/
def splitWait (s : State) : Bool :=
  !lockOk s && (List.range 64).any fun i =>
    let h : Handle := Fin.ofNat 64 i
    match stagesOf s (.handle h) with
    | none => false
    | some sp => modelReady s (.handle h) && (if sp.stage = 0 then s.ens.joined.getLsbD i && nextRows s (.handle h) != []
        else s.ens.blocks.any (·.h == h))

def portStCode : PortSt → Nat
  | .disabled => 0 | .detect => 1 | .equalize => 2 | .align => 3 | .ident => 4 | .active => 5 | .down => 6

def ensRead (off : Nat) (s : State) : Option Word :=
  let c := ensCfg s
  let port := fun (b : Nat) => portOf s (Fin.ofNat 4 ((off - b) / 4))
  let inr := fun (a k : Nat) => a ≤ off && off < a + 4 * k && off % 4 == 0
  if off = 0xE000 then
    some (w32 (deviceNo s + 0x100 * roleCode s + 0x10000 * hopsOf s + 0x1000000 * ((c.map (·.ports.toNat)).getD 0)))
  else if off = 0xE004 then some (w32 (b2n s.ens.lockReq + 2 * b2n s.ens.dbOutEn + 0x1000 * s.ens.hold.toNat))
  else if off = 0xE008 then
    some (w32 (b2n (s.tbs.lock == .leader || s.tbs.lock == .locked) + 0x10 * b2n (splitWait s) + 0x100 * s.ens.leader +
      0x10000 * ((upstream s).map (·.val)).getD 0xF))
  else if inr 0xE010 4 then
    let q := port 0xE010
    some (w32 (portStCode q.st + 0x10 * q.cause + 0x100 * q.lanes.toNat + 0x10000 * q.neighbour + 0x1000000 * q.nhops))
  else if inr 0xE020 4 then some (w32 (port 0xE020).delay)
  else if inr 0xE030 4 then some (w32 ((port 0xE030).crc + 0x10000 * (port 0xE030).replays))
  else if inr 0xE040 8 then some (w32 (s.ens.reach.toNat / 2 ^ (8 * (off - 0xE040))))
  else if off = 0xE060 then some (w32 (s.ens.lostDevice + 0x10000 * s.ens.lostCount))
  else if off = 0xE06C then some (w32 (s.ens.dropCount + 0x10000 * s.ens.dropReason))
  else if off = 0xE070 then some (lo32 s.ens.dbin)
  else if off = 0xE074 then some s.ens.dbinHi
  else if off = 0xE078 then some (w32 s.ens.destroyed)
  else if inr 0xE100 64 then
    some (w32 ((c.map fun c => leNat ((slice (c.route.map (BitVec.ofNat 8)) (off - 0xE100) 4))).getD 0))
  else if inr 0xE200 64 then
    let i := (off - 0xE200) / 4
    let h : Handle := Fin.ofNat 64 i
    some (w32 (match s.models[h].hdr.split with
      | some sp => if 1 < sp.stages then 1 + 2 * b2n (s.ens.joined.getLsbD i) + 0x100 * sp.stage + 0x10000 * sp.stages else 0
      | none => 0))
  else none

/-- ENS_DBIN_LO latches the high half; the RC fields clear. -/
def ensReadEff (off : Nat) (s : State) : State :=
  let set := fun (f : Ens → Ens) => { s with ens := f s.ens }
  if off = 0xE070 then set fun e => { e with dbinHi := hi32 e.dbin }
  else if 0xE030 ≤ off ∧ off < 0xE040 then
    setPort (Fin.ofNat 4 ((off - 0xE030) / 4)) (fun q => { q with crc := 0, replays := 0 }) s
  else if off = 0xE060 then set fun e => { e with lostCount := 0 }
  else if off = 0xE06C then set fun e => { e with dropCount := 0 }
  else if off = 0xE078 then set fun e => { e with destroyed := 0 }
  else s

def execEnsDbinLoRead (s : State) : Host.Outcome State Fault Refusal :=
  live s (regRead 0xE070 (ensRead 0xE070) (ensReadEff 0xE070))

def ensWrite (off : Nat) (v : Word) (s : State) : Option State :=
  if off = 0xE004 then some (writeEnsCtrl v s) else (ensRead off s).map fun _ => s

end Sys2Proof.Machine
end

