-- ==== Sys2Proof/Machine/Clocks.lean ====
section
/-! DEFINITION. The clock islands (03): targets (R54), gating, collapse and wake (R61, R62), the clock monitors (R63,
R508), clock faults and re-qualification (R64 to R67), and the ISL registers (R78). -/

namespace Sys2Proof.Machine

/-! ### Targets (R54) -/

/-- The target clock of an island in MHz, as a fraction, at the clocks in force. -/
def targetOf (s : State) (i : Island) : Nat × Nat :=
  let v := voiceMhz s.pwr.clockPt
  if i = 0 then (3072, 10)
  else if i = 23 then (if s.pwr.clockPt = 3 then (368, 1) else (900 * v, 1100))
  else if i.val ≤ 22 ∨ i = 31 then (v, 1)
  else match i.val with
    | 24 => (400, 1)
    | 27 => (300, 1)
    | 25 | 26 => (rateMts (dramRate s), 16)
    | _ => (500, 1)

def targetMhz (s : State) (i : Island) : Nat := (targetOf s i).1 / (targetOf s i).2

/-- The targets follow a change of the clocks. -/
def setTargets (s : State) : State :=
  (List.range 32).foldl (fun s i =>
    let n : Island := Fin.ofNat 32 i
    setIsl n (fun x => { x with target := targetMhz s n }) s) s

/-! ### What a collapse loses (R60, R343) -/

/-- The bytes of a range are lost: they read as bytes that nothing has written (log entry 7). -/
def loseMem (a n : Nat) (s : State) : State :=
  { s with
    mem := s.mem.filter fun c => !(a ≤ c.1 && c.1 < a + n)
    bad := s.bad.filter fun b => !(a ≤ b.1 && b.1 < a + n) }

def loseVoice (n : Voice) (s : State) : State :=
  setVoice n (fun v => { v with
    tiles := Vector.replicate 16 Tile.empty
    accs := Vector.replicate 4 Accum.empty
    sc := []
    code := []
    latchA := none
    latchB := none }) s

/-- Memories, tiles and pipeline state go with the power; registers stay. -/
def loseContents (i : Island) (s : State) : State :=
  if 1 ≤ i.val ∧ i.val ≤ 16 then loseVoice (Fin.ofNat 16 (i.val - 1)) s
  else if 17 ≤ i.val ∧ i.val ≤ 20 then loseMem (0x800000 * (i.val - 17)) 0x600000 s
  else if i = 21 then loseMem 0x2000000 0x1000000 s
  else s

/-- An island stops, and what its units held of breath ends. -/
def stopIsland (i : Island) (st : IslSt) (s : State) : State :=
  let s := dropUnits (fun u => unitIsland u == i.val) (setIsl i (fun x => { x with st := st, bad := false, fresh := false, ramped := false }) s)
  if st = .gated then s else loseContents i s

/-- An island's clock starts: the window in progress is its first. -/
def startIsland (i : Island) (s : State) : State :=
  setIsl i (fun x => { x with st := .run, bad := false, fresh := true, target := targetMhz s i }) s

/-! ### Gating and collapse (R61) -/

/-- Some pass or KERNEL set is running. -/
def computing (s : State) : Bool := !s.passes.isEmpty || s.sets.any (·.saved.isEmpty)

/-- No work needs the island now. -/
def islandIdle (s : State) (i : Island) : Bool :=
  if 1 ≤ i.val ∧ i.val ≤ 16 then
    let r := (voiceOf s (Fin.ofNat 16 (i.val - 1))).run
    r == .free || r == .held
  else if i.val ≤ 20 then !computing s
  else match i.val with
    | 21 => s.passes.isEmpty && s.jobs.isEmpty && s.models.toList.all (·.repairing.isNone)
    | 22 | 23 => s.passes.isEmpty
    | 25 => s.dmc[(0 : Fin 2)].sr
    | 26 => s.dmc[(1 : Fin 2)].sr
    | 27 => s.flc.op.isNone && s.jobs.all (fun j => j.slot.isNone && j.revSlot.isNone) &&
        s.models.toList.all (·.repairing.isNone) && !s.bsc.early
    | 29 => s.ens.ports.toList.all (·.st == .disabled)
    | 31 => s.passes.all (!·.mirrored) && s.sets.all (!·.mirror) && !vibRuns s
    | _ => false

/-- A section unit holds state that is still needed: an object of a partition, or its user part. -/
def sectionLive (s : State) (m : Nat) : Bool :=
  (s.objs.any fun o => o.tier == 3 && o.ext.any fun e => (List.range e.2).any fun k => (e.1 + k) % 4 == m) ||
  (List.range 8).any fun i =>
    let p : Part := Fin.ofNat 8 i
    (List.range (userPart s p 3)).any fun k => ((carve s p 3).1 + k) % 4 == m

/-- None of the island's memories holds state that is still needed (R61, R345). -/
def contentsIdle (s : State) (i : Island) : Bool :=
  if 1 ≤ i.val ∧ i.val ≤ 16 then (voiceOf s (Fin.ofNat 16 (i.val - 1))).run == .free
  else if 17 ≤ i.val ∧ i.val ≤ 20 then !sectionLive s (i.val - 17)
  else if i = 21 then s.strips.toList.all (fun t => t.st == .free || t.owner.isNone) &&
    (List.range 8).all fun p => userPart s (Fin.ofNat 8 p) 2 == 0
  else true

/-- ISLAND_GATE: the cantors stop the clock of an island that no work needs, and with `collapse` its power too. -/
def islandGate (i : Island) (collapse : Bool) (s : State) : State :=
  let st := (islOf s i).st
  if i = 0 ∨ i = 24 ∨ i = 28 ∨ i = 30 ∨ muted s ∨ !islandIdle s i then s
  else if collapse then
    if (st = .run ∨ st = .gated) ∧ !s.isl.keep.getLsbD i.val ∧ contentsIdle s i then stopIsland i .collapsed s else s
  else if st = .run then stopIsland i .gated s else s

def execIslandGate (i : Island) (c : Bool) (s : State) : Host.Outcome State Fault Refusal := live s (islandGate i c)

/-! ### Wake (R37, R62, R343) -/

/-- A controller whose island wakes begins to leave self-refresh (R258). -/
def leaveSr (d : Fin 2) (s : State) : State :=
  setDmc d (fun x => if x.sr then { x with sr := false, exiting := true } else x) s

/-- Work needs a gated island: DOZE ends, and the stacked memory becomes active again (R499, R500). -/
def endDoze (s : State) : State :=
  if s.pwr.st = .doze then leaveSr 0 (leaveSr 1 { s with pwr := { s.pwr with st := .on, idleSince := s.clk } }) else s

/-- The islands that are started before service (R79, R103). Voices, sections and the units of a pass wake with the work
that needs them. -/
def startList (s : State) : List Nat :=
  [24, 25, 26, 28, 30] ++ (if flashPart s then [27] else []) ++
  (if ((ensCfg s).map (·.ports != 0)).getD false then [29] else [])

/-- PERCENT and UNIT of the stage ISLANDS (R83), after an island reached RUN. -/
def islandsPos (i : Island) (s : State) : State :=
  if s.bsc.stage ≠ .islands ∨ !(startList s).contains i.val then s
  else
    let up := ((startList s).filter fun k => islRuns s (Fin.ofNat 32 k)).length
    { s with bsc := { s.bsc with percent := max s.bsc.percent (up * 100 / (startList s).length), unit := i.val } }

/-- What a unit does with a value written while its island did not run (R60). -/
def actOn (off : Nat) (v : Word) (s : State) : State :=
  match off with
  | 0x8100 => cntCtrl 0 v s
  | 0x9100 => cntCtrl 1 v s
  | 0xC004 => writePrzCtrl v s
  | 0xD004 => writeAptCtrl v s
  | 0xE004 => retrainPorts v s
  | 0xF00C => writeRequal v s
  | 0x10000 => writeVibUnlock v s
  | 0x10004 => writeVibCtrl v s
  | _ => s

/-- The writes that waited for the island, in order. -/
def runActs (i : Island) (s : State) : State :=
  let mine := fun (a : Nat × Word) => regIsland a.1 == i.val
  (s.isl.acts.filter mine).foldl (fun s a => actOn a.1 a.2 s)
    { s with isl := { s.isl with acts := s.isl.acts.filter fun a => !mine a } }

/-- The island is clocked: a section that was collapsed writes every word as zero; ports act on HOLD (R446). -/
def wakeIsland (i : Island) (s : State) : State :=
  let lost := (islOf s i).st == .collapsed
  let s := startIsland i s
  let s := if lost ∧ 17 ≤ i.val ∧ i.val ≤ 20 then loseContents i s else s
  let s := if i = 25 then leaveSr 0 s else if i = 26 then leaveSr 1 s else s
  let s := runActs i (islandsPos i s)
  if i = 29 then settlePorts s else endDoze s

/-- What the unit of an island holds its grant as (R34); island 0, 24, 28 and 31 have none. -/
def unitOf (i : Island) : Option Consumer :=
  if 1 ≤ i.val ∧ i.val ≤ 16 then some (.voice (Fin.ofNat 16 (i.val - 1)) .idle)
  else if 17 ≤ i.val ∧ i.val ≤ 20 then some (.secMem (Fin.ofNat 4 (i.val - 17)))
  else match i.val with
    | 21 => some .streamer
    | 22 => some .prism
    | 23 => some .aperture
    | 25 => some (.dram 0)
    | 26 => some (.dram 8)
    | 27 => some (.flash 0)
    | 29 => some (.port 0)
    | 30 => some (.dma none)
    | _ => none

def unitGranted (s : State) (i : Island) : Bool :=
  (s.brg.core.grants ++ s.brg.io.grants).any fun g => unitIsland g.unit == i.val

/-- From GATED an island runs under its unit's grant (R62): one that the work which needs it has obtained, else one that is
requested. -/
def wakeGated (i : Island) (s : State) : State :=
  match unitOf i with
  | some u => if unitGranted s i then wakeIsland i s else request u .system s
  | none => wakeIsland i s

/-- The power-up of a re-qualification is done: the island's clock starts (R66). -/
def rampUp (i : Island) (s : State) : State := setIsl i (fun x => { x with ramped := true, fresh := true, bad := false }) s

/-- ISLAND_WAKE_COMPLETE: under the idle breath for a voice island, from COLLAPSED or in a re-qualification under a 1-breath
SYSTEM grant for any other (R62, R66). -/
def islandWake (i : Island) (s : State) : State :=
  let x := islOf s i
  let requal := x.st = .fault ∧ x.requal.isSome ∧ !x.ramped
  if (x.st ≠ .gated ∧ x.st ≠ .collapsed ∧ ¬ requal) ∨ stageCode s.bsc.stage < 3 ∨ muted s ∨
      (s.pwr.st = .rest ∧ s.pwr.waking.isNone) ∨ s.isl.refLost then s
  else
    let k := if requal then rampUp i else wakeIsland i
    if 1 ≤ i.val ∧ i.val ≤ 16 then
      let v : Voice := Fin.ofNat 16 (i.val - 1)
      withLease (.voice v .idle) (voiceTag s v) k s
    else if x.st = .gated then wakeGated i s
    else withBurst (.ramp i) .system k s

def execIslandWakeComplete (i : Island) (s : State) : Host.Outcome State Fault Refusal := live s (standingChange (islandWake i))

/-! ### Clock faults (R64, R65, R69) -/

/-- What service loses with the island (R65). -/
def faultEffect (i : Island) (s : State) : State :=
  let lead := fun (v : Voice) => if pairOn s v then (Fin.ofNat 16 (v.val / 2 * 2) : Voice) else v
  if i = 0 then s
  else if i.val ≤ 16 then
    let v : Voice := Fin.ofNat 16 (i.val - 1)
    failService (lead v) 0x50 (faultDetail v false) [] s
  else if i.val ≤ 20 then
    (List.range 4).foldl (fun s k =>
      let v : Voice := Fin.ofNat 16 (4 * (i.val - 17) + k)
      failService (lead v) 0x50 (faultDetail v true) [] s) s
  else if i = 29 then losePeers s
  else if i = 31 then stopPairs s
  else if muted s then s else enterMute 2 i s

/-- One island faults: its state, ISL_FAULT, ISL_CAUSE, source 5, one record, and the effect on service. -/
def faultOne (i : Island) (kind : Nat) (s : State) : State :=
  let s := setIsl i (fun x => { x with requal := none }) (stopIsland i .fault s)
  let s := occur 5 { s with isl := { s.isl with
    fault := s.isl.fault ||| BitVec.ofNat 32 (2 ^ i.val)
    causeIsland := i
    causeKind := BitVec.ofNat 2 kind } }
  faultEffect i (logErr { devErr 0x11 i.val s with arg2 := kind } s)

/-- The other voice island of a formed pair. -/
def pairedIsland (s : State) (i : Island) : Option Island :=
  if 1 ≤ i.val ∧ i.val ≤ 16 ∧ s.isl.pair.getLsbD ((i.val - 1) / 2) then
    some (Fin.ofNat 32 (if i.val % 2 = 1 then i.val + 1 else i.val - 1))
  else none

/-- CLOCK_FAULT: a fault in either island of a formed pair faults both (R69). DESIGN CHOICE (log entry 24): the other island
of the pair is faulted first, so the records end with the island that was struck. -/
def clockFault (i : Island) (kind : Nat) (s : State) : State :=
  match pairedIsland s i with
  | some j => faultOne i kind (faultOne j kind s)
  | none => faultOne i kind s

/-! ### The monitors (R63, R66) -/

/-- KIND of a window: 0 in range, 1 stopped, 2 low, 3 high. Expected is the target × 2.5 µs. -/
def judge (t : Nat × Nat) (count : Nat) : Nat :=
  if count = 0 then 1
  else if 8 * t.2 * count < 15 * t.1 then 2
  else if 103 * 5 * t.1 < 200 * t.2 * count then 3 else 0

/-- Re-qualification: one more good window, or the end of it. DESIGN CHOICE (log entry 25): it ends in COLLAPSED (R66) also
where ISL_NOCOLLAPSE names the island (R61). -/
def requalWindow (i : Island) (left kind : Nat) (s : State) : State :=
  if kind ≠ 0 then clockFault i kind s
  else if 1 < left then setIsl i (fun x => { x with requal := some (left - 1) }) s
  else
    let s := stopIsland i .collapsed (setIsl i (fun x => { x with requal := none }) s)
    { s with isl := { s.isl with fault := s.isl.fault &&& ~~~BitVec.ofNat 32 (2 ^ i.val) } }

/-- One island at the end of a window; `skip` where the window is discarded. DESIGN CHOICE (log entry 26): ISL_FREQ.MEAS
keeps its value through a first window and while the clock stands, and takes that of a discarded window. -/
def windowOf (i : Island) (count : Nat) (skip : Bool) (s : State) : State :=
  let x := islOf s i
  if x.st != .run && !(x.requal.isSome && x.ramped) then s
  else if x.fresh then setIsl i (fun x => { x with fresh := false, bad := false }) s
  else
    let s := setIsl i (fun x => { x with meas := count * 2 / 5, target := targetMhz s i }) s
    let kind := judge (targetOf s i) count
    if skip || i == 0 then setIsl i (fun x => { x with bad := false }) s
    else match x.requal with
      | some left => requalWindow i left kind s
      | none =>
        if kind = 1 ∨ (kind ≠ 0 ∧ x.bad) then clockFault i kind s
        else setIsl i (fun x => { x with bad := kind != 0 }) s

/-- CLOCK_MONITOR_WINDOW: the counts of the 32 islands. A new spread takes effect at the boundary (R68). -/
def monitorWindow (counts : List Nat) (s : State) : State :=
  if s.isl.refLost || counts.length != 32 then s
  else
    let skip := s.isl.discard
    let s := (List.range 32).foldl (fun s i => windowOf (Fin.ofNat 32 i) (counts.getD i 0) skip s) s
    { s with isl := { s.isl with discard := false, spreadActive := s.isl.spread } }

def execClockMonitorWindow (counts : List Nat) (s : State) : Host.Outcome State Fault Refusal :=
  live s (monitorWindow counts)

/-! ### Loss of REFCLK38 (R67, R508) -/

/-- Everything but island 0 stops in FAULT; source 5 stays active; TBS_NOW goes on from the backup oscillator. -/
def refLoss (kind : Nat) (s : State) : State :=
  if s.isl.refLost then s
  else
    let s := (List.range 31).foldl (fun s i =>
      let n : Island := Fin.ofNat 32 (i + 1)
      setIsl n (fun x => { x with requal := none }) (stopIsland n .fault s)) s
    occur 5 { s with
      isl := { s.isl with
        fault := s.isl.fault ||| 1
        causeIsland := 0
        causeKind := BitVec.ofNat 2 kind
        refLost := true }
      tbs := { s.tbs with lock := .free }
      link := { s.link with up := false }
      hif := { s.hif with errWait := [] } }

def execRefclk38Loss (s : State) : Host.Outcome State Fault Refusal := live s (refLoss 1)

/-- AON_CLOCK_CHECK_WINDOW: island 0 against the backup oscillator; a fault acts as the loss of REFCLK38. -/
def aonCheck (count : Nat) (s : State) : State :=
  if s.isl.refLost then s
  else
    let kind := if count = 0 then 1 else if 100 * count < 60 * 768 then 2 else if 140 * 768 < 100 * count then 3 else 0
    if kind = 1 ∨ (kind ≠ 0 ∧ s.isl.aonBad) then refLoss kind s
    else { s with isl := { s.isl with aonBad := kind != 0 } }

def execAonClockCheckWindow (count : Nat) (s : State) : Host.Outcome State Fault Refusal := live s (aonCheck count)

/-! ### ISL_FAULT (R66) -/

/-- Islands that re-qualify: voices, sections, 29 and 31. -/
def requalifies (i : Nat) : Bool := (1 ≤ i && i ≤ 20) || i == 29 || i == 31

/-- A 1 at one bit of ISL_FAULT. A re-qualification powers the island up, and its clock starts under the grant of R62. -/
def faultBit (i : Nat) (s : State) : State :=
  let n : Island := Fin.ofNat 32 i
  if i = 0 then s
  else if requalifies i then
    let x := islOf s n
    if x.st = .fault ∧ x.requal.isNone ∧ !muted s ∧ !s.isl.refLost then
      setIsl n (fun x => { x with requal := some 4, ramped := false, bad := false }) s
    else s
  else { s with isl := { s.isl with fault := s.isl.fault &&& ~~~BitVec.ofNat 32 (2 ^ i) } }

def writeIslFault (v : Word) (s : State) : State :=
  (List.range 32).foldl (fun s i => if v.getLsbD i then faultBit i s else s) s

def execIslFaultWrite (v : Word) (s : State) : Host.Outcome State Fault Refusal :=
  live s (regWrite 0x2108 (writeIslFault v))

/-! ### The ISL registers (R78) -/

def islStCode : IslSt → Nat
  | .run => 0 | .gated => 1 | .collapsed => 2 | .fault => 3

/-- ISL_STATE0 or ISL_STATE1. -/
def islStates (s : State) (k : Nat) : Nat :=
  ((List.range 16).map fun i => islStCode (islOf s (Fin.ofNat 32 (16 * k + i))).st * 4 ^ i).sum

/-- A change of spread discards the window in progress (R63). -/
def writeSpread (v : Word) (s : State) : State :=
  let m := BitVec.ofNat 2 (bits v.toNat 1 0)
  { s with isl := { s.isl with spread := m, discard := s.isl.discard || m != s.isl.spread } }

def islRead (off : Nat) (s : State) : Option Word :=
  match off with
  | 0x2100 => some (w32 (islStates s 0))
  | 0x2104 => some (w32 (islStates s 1))
  | 0x2108 => some s.isl.fault
  | 0x210C => some (w32 s.isl.spread.toNat)
  | 0x2110 => some s.isl.keep
  | 0x2114 => some (w32 s.isl.pair.toNat)
  | 0x2118 => some (islCause s)
  | _ =>
    if 0x2200 ≤ off ∧ off < 0x2280 ∧ off % 4 = 0 then
      let x := islOf s (Fin.ofNat 32 ((off - 0x2200) / 4))
      some (w32 (x.meas % 65536 + 0x10000 * x.target))
    else none

def islWrite (off : Nat) (v : Word) (s : State) : Option State :=
  match off with
  | 0x2108 => some (writeIslFault v s)
  | 0x210C => some (writeSpread v s)
  | 0x2110 => some { s with isl := { s.isl with keep := v } }
  | _ => (islRead off s).map fun _ => s

end Sys2Proof.Machine
end

