-- ==== Sys2Proof/Machine/Power.lean ====
section
/-! DEFINITION. Operating points over AVSBus (21 R487 to R489), the thermal limits (R503), DOZE and REST (R499 to R502,
R505) and GPIO (R494). The GLB registers stand in Regs. -/

namespace Sys2Proof.Machine

/-! ### Operating points (R35, R488, R489) -/

/-- VDD_CORE of a point in mV (R35). -/
def pointMv : Nat → Nat
  | 0 => 750 | 1 => 680 | 2 => 620 | _ => 550

/-- The point that is wanted: REQ, or D while TRIP forces it. -/
def wantPoint (s : State) : Nat := if s.pwr.thermal then 3 else s.pwr.req

def setPwr (f : Pwr → Pwr) (s : State) : State := { s with pwr := f s.pwr }

/-- The island clocks move to a point; the window in progress is discarded (R63). -/
def moveClocks (pt : Nat) (s : State) : State :=
  let s := setTargets (setPwr (fun p => { p with clockPt := pt }) s)
  { s with isl := { s.isl with discard := true } }

/-- The first steps of a change: for a higher voltage the governor charges the new costs first, for a lower one the
clocks come down first; then the voltage is written. -/
def startChange (pt : Nat) (s : State) : State :=
  let s := if s.pwr.mv < pointMv pt then
      shedArrays s.brg.core.grants.length (setPwr (fun p => { p with chargePt := min pt p.chargePt }) s)
    else moveClocks pt s
  send (.avs (pointMv pt)) (setPwr (fun p => { p with avsPhase := .writing pt }) s)

/-- A change starts when none runs and the point wanted is not wholly in force. -/
def seekPoint (s : State) : State :=
  let t := wantPoint s
  if s.pwr.avsPhase ≠ .idle ∨ (s.pwr.active = t ∧ s.pwr.clockPt = t ∧ s.pwr.chargePt = t) then s else startChange t s

/-- AVS_TRANSACTION_END: after a good completion the settling wait runs; a failure ends the change, with the clocks at the
lower of the two points and the costs of the higher charged. -/
def avsEnd (ok : Bool) (s : State) : State :=
  match s.pwr.avsPhase with
  | .writing t =>
    if ok then setPwr (fun p => { p with avsPhase := .settling t s.clk, mv := pointMv t }) s
    else
      let s := setPwr (fun p => { p with avsPhase := .idle, avsErr := true }) s
      if wantPoint s = t then s else seekPoint s
  | _ => s

def execAvsTransactionEnd (ok : Bool) (s : State) : Host.Outcome State Fault Refusal := live s (standingChange (avsEnd ok))

/-- AVS_SETTLE_EXPIRY: the clocks are raised or the new costs charged, and the point is in force. -/
def settleExpiry (s : State) : State :=
  match s.pwr.avsPhase with
  | .settling t since =>
    if s.clk < since + 1000 * s.pwr.settle then s
    else
      let s := if s.pwr.clockPt = t then s else moveClocks t s
      seekPoint (setPwr (fun p => { p with avsPhase := .idle, chargePt := t, active := t }) s)
  | _ => s

def execAvsSettleExpiry (s : State) : Host.Outcome State Fault Refusal := live s (standingChange settleExpiry)

/-- GLB_OPPOINT: REQ starts a change; a 1 to AVS_ERR clears it and retries the point. -/
def writeOppoint (v : Word) (s : State) : State :=
  seekPoint (setPwr (fun p => { p with req := bits v.toNat 1 0, avsErr := p.avsErr && !v.getLsbD 9 }) s)

def execGlbOppointWrite (v : Word) (s : State) : Host.Outcome State Fault Refusal :=
  live s (standingChange (regWrite 0x50 (writeOppoint v)))

/-! ### Thermal limits (R503) -/

/-- The hottest sensor and its number, the lowest among equals. -/
def hottest (ts : List Int) : Int × Nat :=
  (ts.zipIdx).foldl (fun m t => if m.1 < t.1 then t else m) (ts.headD 0, 0)

/-- A threshold holds from its value until the temperature falls below it by the hysteresis. -/
def threshold_ (was : Bool) (at_ hyst t : Int) : Bool := decide (at_ ≤ t) || (was && decide (at_ - hyst ≤ t))

/-- THERMAL_SAMPLE of the eight sensors. Each upward crossing of TRIP or CRIT is an occurrence of source 3; TRIP forces
point D. -/
def thermalSample (ts : List Int) (s : State) : State :=
  if ts.length ≠ 8 then s
  else
    let (t, i) := hottest ts
    let g := gradeMax s
    let trip := threshold_ s.pwr.trip g 10 t
    let crit := threshold_ s.pwr.crit (g + 10) 5 t
    let (last, wasCrit) := (s.pwr.temp, s.pwr.crit)
    let up := fun (at_ : Int) => decide (last < at_ ∧ at_ ≤ t)
    let s := setPwr (fun p => { p with
      temp := t
      sensor := i
      peak := max p.peak t
      warn := threshold_ p.warn p.warnAt 3 t
      trip := trip
      crit := crit
      thermal := trip }) s
    let s := if up g then report 3 s else s
    let s := if up (g + 10) then report 3 s else s
    let s := seekPoint s
    let s := if wasCrit == crit then s else syncHolds (fun _ => true) s
    if wasCrit && !crit then preloadAll s else s

def execThermalSample (ts : List Int) (s : State) : Host.Outcome State Fault Refusal := live s (standingChange (thermalSample ts))

/-! ### DOZE (R500) -/

/-- A pass, KERNEL, load, swap, repair, hush or flash operation runs. -/
def deviceBusy (s : State) : Bool :=
  !s.passes.isEmpty || !s.sets.isEmpty || !s.jobs.isEmpty || s.models.toList.any (·.repairing.isSome) || s.flc.op.isSome ||
  s.cmds.any fun c => c.phase == .running && (c.op == 0x28 || c.op == 0x29 || c.op == 0x38)

/-- Islands that run on in DOZE: 29 while any port is out of DISABLED, 25 and 26 while the BAR2 window is enabled. -/
def dozeKeeps (s : State) (i : Nat) : Bool :=
  i == 0 || i == 24 || i == 28 || i == 30 || (i == 29 && s.ens.ports.toList.any (·.st != .disabled)) ||
  ((i == 25 || i == 26) && s.glb.winEn)

/-- DOZE_ENTRY: after DOZE_US without work every other island is gated and the DRAM enters self-refresh. -/
def dozeEntry (s : State) : State :=
  let stage := s.bsc.stage == .full || (s.bsc.stage == .train && s.bsc.trainFail)
  if s.pwr.st ≠ .on ∨ !stage ∨ s.pwr.dozeUs = 0 ∨ deviceBusy s ∨ s.isl.refLost ∨
      s.clk < s.pwr.idleSince + 1000 * s.pwr.dozeUs then s
  else
    let s := if s.glb.winEn then s else enterSelfRefresh false s
    let s := (List.range 32).foldl (fun s i =>
      let n : Island := Fin.ofNat 32 i
      if !dozeKeeps s i && islRuns s n then stopIsland n .gated s else s) s
    setPwr (fun p => { p with st := .doze }) s

def execDozeEntry (s : State) : Host.Outcome State Fault Refusal := live s (standingChange dozeEntry)

/-! ### REST (R501, R502) -/

def restOk (s : State) : Bool :=
  s.bsc.stage == .full && !s.bsc.drain && s.cmds.isEmpty && s.flc.op.isNone &&
  s.jobs.isEmpty && s.models.toList.all (·.repairing.isNone) && !s.glb.winEn &&
  s.ens.ports.toList.all (·.st == .disabled) && (s.link.l1ss1.getLsbD 2 || s.link.d3)

/-- Every hold ends (R345). -/
def endHolds (s : State) : State :=
  { s with voices := s.voices.map fun v => { v with hold := false, run := if v.run = .held then .free else v.run } }

/-- The steps of R501, and the end of holds and of a vibrato run; the link enters L1.2 where it is enabled. -/
def enterRest (s : State) : State :=
  let s := endRun 4 (endHolds s)
  let s := if s.link.ltrEn then send (.ltr none) { s with link := { s.link with ltrSent := none } } else s
  let s := enterSelfRefresh true s
  let s := (List.range 31).foldl (fun s i =>
    let n : Island := Fin.ofNat 32 (i + 1)
    if (islOf s n).st = .fault then s else stopIsland n .collapsed s) s
  let s := if s.link.l1ss1.getLsbD 2 then { s with link := { s.link with l1 := s.link.up } } else s
  setPwr (fun p => { p with st := .rest, waking := none }) (dropUnits (fun _ => true) s)

/-- A wake event: the device leaves REST for this source; WAKE_N is asserted while the link is in L2. -/
def wakeRest (src : Nat) (s : State) : State :=
  if s.pwr.st = .rest ∧ s.pwr.waking.isNone then assertWake (setPwr (fun p => { p with waking := some src }) { s with link := { s.link with l1 := s.link.d3 } }) else s

/-- GLB_PWR_CTRL: REQ 3 is a reserved encoding; a REST request that is not accepted is ignored and logged. -/
def writePwrCtrl (v : Word) (s : State) : State :=
  let set := setPwr fun p => { p with dozeUs := bits v.toNat 31 16 }
  match bits v.toNat 1 0 with
  | 0 => set s
  | 1 => if s.pwr.st = .rest then set s else if restOk s then enterRest (set s) else regRefused 0x40 v 2 s
  | 2 => wakeRest 0xFE (set s)
  | _ => regRefused 0x40 v 1 s

def execRestRequest (v : Word) (s : State) : Host.Outcome State Fault Refusal := live s (standingChange (regWrite 0x40 (writePwrCtrl v)))
def execRestWakeRequest (v : Word) (s : State) : Host.Outcome State Fault Refusal := live s (standingChange (regWrite 0x40 (writePwrCtrl v)))

/-- HIF_SQ_TAIL_WRITE: the doorbell (R151, R161); in REST any write to it is a wake event. -/
def writeTail (p : Part) (v : Word) (s : State) : State := wakeRest 0xFE (askFetch p (writeSqTail p v s))

def execHifSqTailWrite (p : Part) (v : Word) (s : State) : Host.Outcome State Fault Refusal :=
  live s (standingChange (regWrite (pageOff p + 0x0C) (writeTail p v)))

/-- REST_WAKE by a source whose GLB_WAKE bit is set, by a GPIO, or by a host write. -/
def restWake (w : WakeEvent) (s : State) : State :=
  match w with
  | .source n => if s.pwr.wake.getLsbD n && sourceActive s n then wakeRest n.val s else s
  | .gpio n => if s.pwr.gpioWake.getLsbD n then wakeRest 0xFD s else s
  | .hostWrite => wakeRest 0xFE s

def execRestWake (w : WakeEvent) (s : State) : Host.Outcome State Fault Refusal := live s (standingChange (restWake w))

/-- REST_EXIT_COMPLETE: islands 24, 25, 26, 28 and 30 run and the stacked memory is out of self-refresh. -/
def restExit (s : State) : State :=
  match s.pwr.waking with
  | none => s
  | some src =>
    let up := islRuns s 24 && islRuns s 25 && islRuns s 26 && islRuns s 28 && islRuns s 30 &&
      s.dmc.toList.all fun d => !d.sr && !d.exiting
    if s.pwr.st ≠ .rest ∨ !up then s
    else setPwr (fun p => { p with st := .on, waking := none, woke := true, wakeSrc := src, idleSince := s.clk }) s

def execRestExitComplete (s : State) : Host.Outcome State Fault Refusal := live s (standingChange restExit)

/-! ### GPIO (R494, R502) -/

/-- GPIO_CHANGE: the filtered level of a ball that the device does not drive. -/
def gpioChange (n : Fin 8) (level : Bool) (s : State) : State :=
  let b := BitVec.ofNat 8 (2 ^ n.val)
  if s.pwr.gpioOe.getLsbD n || s.pwr.gpioIn.getLsbD n == level then s
  else
    let s := setPwr (fun p => { p with gpioIn := p.gpioIn ^^^ b }) s
    if s.pwr.gpioWake.getLsbD n then wakeRest 0xFD s else s

def execGpioChange (n : Fin 8) (level : Bool) (s : State) : Host.Outcome State Fault Refusal := live s (standingChange (gpioChange n level))

end Sys2Proof.Machine
end

