-- ==== Sys2Proof/Machine/Score.lean ====
section
/-! DEFINITION. The score (04): the header (R87), the directory (R88), the sections (R90 to R98), the signature (R89)
and the checks of R99 in their order. -/

namespace Sys2Proof.Machine

/-! ### Header and directory -/

def scoreLen (b : List Byte) : Nat := le b 8 4

/-- The rules of R87 that are judged at the header read. -/
def headerOk (b : List Byte) : Bool :=
  let n := scoreLen b
  let d := byteAt b 23
  le b 0 4 == 0x4353584F && le b 4 2 == 1 && le b 6 2 == 128 && 4096 ≤ n && n ≤ 8388608 && n % 16 == 0 &&
  5 ≤ le b 12 2 && le b 12 2 ≤ 11 && allZero b 14 2 && le b 16 4 ≤ 64 && (d == 0 || (24 ≤ d && d ≤ 98)) &&
  le b 24 4 % 16 < 4 && le b 24 4 < 256 && allZero b 28 4 && allZero b 40 88

/-- An entry of the directory. -/
structure SecEntry where
  type : Nat
  off : Nat
  len : Nat
  crc : Nat
  deriving DecidableEq, Repr

def secEntries (b : List Byte) : List SecEntry :=
  (List.range (le b 12 2)).map fun i =>
    let e := slice b (128 + 16 * i) 16
    { type := le e 0 2, off := le e 4 4, len := le e 8 4, crc := le e 12 4 }

def secOf (b : List Byte) (t : Nat) : Option (List Byte) :=
  ((secEntries b).find? (·.type == t)).map fun e => slice b e.off e.len

/-- The fixed length of a section type; 0 for one that varies. -/
def fixedLen (t : Nat) : Nat := match t with
  | 2 => 16 | 4 => 32 | 6 => 272 | 7 => 72 | 9 => 16 | 10 => 16 | _ => 0

def secEntryOk (b : List Byte) (e : SecEntry) : Bool :=
  1 ≤ e.type && e.type ≤ 10 && e.off % 16 == 0 && 128 + 16 * le b 12 2 ≤ e.off && e.off + e.len + 160 ≤ scoreLen b &&
  (fixedLen e.type == 0 || e.len == fixedLen e.type) && (e.type != 1 || (16 ≤ e.len && e.len ≤ 4194304))

/-- Step 2. -/
def directoryOk (b : List Byte) : Bool :=
  let es := secEntries b
  let ord := sortBy (fun a c => a.off ≤ c.off) es
  es.all (secEntryOk b) && decide ((es.map (·.type)).Nodup) &&
  ((ord.zip ord.tail).all fun p => p.1.off + p.1.len ≤ p.2.off) &&
  ([1, 2, 3, 4, 7] : List Nat).all fun t => es.any (·.type == t)

/-- Step 3. -/
def sectionCrcsOk (b : List Byte) : Bool := (secEntries b).all fun e => crc32c (slice b e.off e.len) == e.crc

/-- Step 4: 0, 5 for a bad signature, 6 for a revoked slot, in the order of R89. -/
def sigReason (f : Fuses) (whole : List Byte) : Nat :=
  let blk := whole.drop (whole.length - 160)
  let slot := byteAt blk 0
  if 4 ≤ slot ∨ !allZero blk 1 31 ∨ sha256 (slice blk 32 64) ≠ f.keyHash.getD slot [] then 5
  else if f.revoked.getLsbD slot then 6
  else if ecdsaVerify (beNat (slice blk 32 32)) (beNat (slice blk 64 32)) (beNat (slice blk 96 32))
      (beNat (slice blk 128 32)) (sha256 (whole.take (whole.length - 64))) then 0 else 5

/-! ### Sections (R90 to R98) -/

def parseBreath (x : List Byte) : Option BreathCfg :=
  let c : BreathCfg :=
    { ceil := le x 0 2, ceilLow := le x 2 2, slope := byteAt x 4, ioCeil := byteAt x 5, ioCeilLow := byteAt x 6,
      ioSlope := byteAt x 7, margin := byteAt x 8, oppoint := byteAt x 9 }
  let inr := fun (v lo hi : Nat) => lo ≤ v && v ≤ hi
  if inr c.ceil 8 400 && inr c.ceilLow 8 400 && c.slope ≤ 64 && inr c.ioCeil 8 64 && inr c.ioCeilLow 8 64 &&
      c.ioSlope ≤ 16 && inr c.margin 1 32 && c.oppoint ≤ 3 && allZero x 10 6 then some c else none

def parsePart (e : List Byte) : PartCfg :=
  { cls := byteAt e 1, dramUnits := le e 4 4, strips := le e 8 2, sectionUnits := le e 10 2,
    slots := BitVec.ofNat 32 (le e 12 4), voiceShare := byteAt e 16, breathMin := le e 18 2, breathMax := le e 20 2,
    patience := le e 22 2, hushWindow := le e 24 2, partialInt := le e 26 2, sessions := le e 28 2 }

def partEntryOk (e : List Byte) : Bool :=
  let c := parsePart e
  byteAt e 0 < 8 && c.cls ≤ 3 && allZero e 2 2 && c.strips ≤ 64 && c.sectionUnits ≤ 384 && c.voiceShare ≤ 16 &&
  allZero e 17 1 && c.breathMin ≤ 400 && c.breathMax ≤ 400 && c.breathMin ≤ c.breathMax && 1 ≤ c.patience &&
  c.sessions ≤ 4096 && allZero e 30 34

def partEntries (x : List Byte) : List (List Byte) := (List.range (byteAt x 0)).map fun i => slice x (8 + 64 * i) 64

def parseParts (x : List Byte) : Option (Vector (Option PartCfg) 8) :=
  let es := partEntries x
  let n := byteAt x 0
  if 1 ≤ n && n ≤ 8 && allZero x 1 7 && x.length == 8 + 64 * n && es.all partEntryOk &&
      decide ((es.map (byteAt · 0)).Nodup) && (es.any fun e => byteAt e 0 == 0) then
    some (Vector.ofFn fun (p : Fin 8) => (es.find? fun e => byteAt e 0 == p.val).map parsePart)
  else none

def rateCode (r : Nat) : Nat := match r with
  | 3200 => 1 | 4266 => 2 | 5500 => 3 | 6400 => 4 | 7500 => 5 | 8533 => 6 | _ => 0

def parseDram (x : List Byte) : Option DramCfg :=
  let c : DramCfg :=
    { rate := rateCode (le x 0 2), order0 := byteAt x 2, order1 := byteAt x 3, hazard := BitVec.ofNat 16 (le x 4 2),
      idle := le x 6 2, postpone := byteAt x 8, scrubH := le x 10 2 }
  if c.rate != 0 && c.order0 ≤ 3 && c.order1 ≤ 3 && c.postpone ≤ 8 && allZero x 9 1 && 1 ≤ c.scrubH &&
      c.scrubH ≤ 168 && allZero x 12 20 then some c else none

/-- DIES and the slots of FLASH; `dies` is D of R263 on a flash part, which DIES must equal and which gives the blocks. -/
def parseFlash (dies : Option Nat) (x : List Byte) : Option (Nat × List SlotCfg) :=
  let n := byteAt x 1
  let es := (List.range n).map fun i => slice x (16 + 16 * i) 16
  let cs := es.map fun e => { slot := byteAt e 0, first := le e 4 4, count := le e 8 4 : SlotCfg }
  let ord := sortBy (fun a b => a.first ≤ b.first) (cs.filter (·.count != 0))
  let inside := fun (c : SlotCfg) => match dies with
    | none => true
    | some d => 80 ≤ c.first && c.first < 5440 * d && c.first + c.count ≤ 5440 * d
  if 1 ≤ byteAt x 0 && byteAt x 0 ≤ 8 && dies.all (· == byteAt x 0) && 1 ≤ n && n ≤ 32 && allZero x 2 14 && x.length == 16 + 16 * n &&
      (es.all fun e => byteAt e 0 < 32 && allZero e 1 3 && allZero e 12 4) && decide ((cs.map (·.slot)).Nodup) &&
      cs.all inside && (ord.zip ord.tail).all fun p => p.1.first + p.1.count ≤ p.2.first then
    some (byteAt x 0, cs)
  else none

def parseEns (x : List Byte) : Option EnsCfg :=
  let role := byteAt x 1
  let hops := byteAt x 2
  let route := (List.range 256).map fun d => byteAt x (16 + d)
  let dev := byteAt x 0
  if ((role == 1 && hops == 0) || (role == 2 && 1 ≤ hops && hops ≤ 16)) && byteAt x 3 < 16 && allZero x 4 12 &&
      (route.all fun r => r < 4 || r == 0xFE || r == 0xFF) && route.getD dev 0 == 0xFE &&
      ((List.range 256).all fun d => d == dev || route.getD d 0 != 0xFE) then
    some { device := dev, leader := role == 1, hops := hops, ports := BitVec.ofNat 4 (byteAt x 3), route := route }
  else none

/-- Queue mode, and the routes. -/
def parseEvents (x : List Byte) : Option (Bool × List Nat) :=
  let rs := (List.range 64).map fun i => byteAt x (8 + i)
  if byteAt x 0 ≤ 1 && allZero x 1 7 && rs.all (· < 4) then some (byteAt x 0 == 0, rs) else none

def parsePreload (x : List Byte) : Option (List PreloadCfg) :=
  let n := byteAt x 0
  let es := (List.range n).map fun i => slice x (8 + 16 * i) 16
  if n ≤ 64 && allZero x 1 7 && x.length == 8 + 16 * n && decide ((es.map (byteAt · 2)).Nodup) &&
      es.all fun e => byteAt e 0 < 32 && byteAt e 1 < 8 && byteAt e 2 < 64 && byteAt e 3 < 4 && allZero e 12 4 then
    some (es.map fun e =>
      { slot := byteAt e 0, part := Fin.ofNat 8 (byteAt e 1), handle := Fin.ofNat 64 (byteAt e 2),
        pin := bitAt (byteAt e 3) 0, degraded := bitAt (byteAt e 3) 1, modelId := le e 4 8 })
  else none

def parseEarly (x : List Byte) : Option EarlyCfg :=
  if byteAt x 0 < 32 && 1 ≤ byteAt x 2 && byteAt x 2 ≤ 8 && allZero x 3 5 then
    some { slot := byteAt x 0, parts := BitVec.ofNat 8 (byteAt x 1), sessions := byteAt x 2, modelId := le x 8 8 }
  else none

/-- SPREAD and NOCOLLAPSE. -/
def parseIslands (x : List Byte) : Option (BitVec 2 × Word) :=
  if byteAt x 0 ≤ 3 && allZero x 1 3 && allZero x 8 8 then some (BitVec.ofNat 2 (byteAt x 0), w32 (le x 4 4)) else none

/-- An optional section: its default when absent. -/
def optional {α : Type} (b : List Byte) (t : Nat) (dflt : α) (f : List Byte → Option α) : Option α :=
  match secOf b t with
  | none => some dflt
  | some x => f x

/-- Step 7: every field in range, every reserved field 0. -/
def parseScore (dies : Option Nat) (b : List Byte) : Option Score :=
  let fw := (secOf b 1).getD []
  let reserved := (List.range (le b 12 2)).all fun i => allZero b (128 + 16 * i + 2) 2
  if !reserved || !allZero fw 4 12 then none
  else
    (parseBreath ((secOf b 2).getD [])).bind fun breath =>
    (parseParts ((secOf b 3).getD [])).bind fun parts =>
    (parseDram ((secOf b 4).getD [])).bind fun dram =>
    (optional b 5 (0, []) (parseFlash dies)).bind fun flash =>
    (optional b 6 none fun x => (parseEns x).map some).bind fun ens =>
    (parseEvents ((secOf b 7).getD [])).bind fun ev =>
    (optional b 8 [] parsePreload).bind fun preload =>
    (optional b 9 none fun x => (parseEarly x).map some).bind fun early =>
    (optional b 10 (0, 0) parseIslands).map fun isl =>
      { version := le b 16 4
        build := BitVec.ofNat 64 (le b 32 8)
        fw := w32 (le fw 0 4)
        debugUnlock := bitAt (le b 24 4) 0
        commit := bitAt (le b 24 4) 1
        revoke := BitVec.ofNat 4 (bits (le b 24 4) 7 4)
        keySlot := byteAt b (b.length - 160)
        breath := breath
        parts := parts
        dram := dram
        dies := flash.1
        slots := flash.2
        ens := ens
        queueMode := ev.1
        routes := ev.2
        preload := preload
        early := early
        spread := isl.1
        noCollapse := isl.2 }

/-! ### Step 8 -/

def sumParts (c : Score) (f : PartCfg → Nat) : Nat := (c.parts.toList.map fun p => (p.map f).getD 0).sum

/-- The slot masks of two partitions share no slot, and every slot they name is defined. -/
def slotsOk (c : Score) : Bool :=
  (List.range 32).all fun n =>
    let k := (c.parts.toList.filter fun p => ((p.map (·.slots.getLsbD n)).getD false)).length
    k == 0 || (k == 1 && c.slots.any (·.slot == n))

def acrossOk (s : State) (b : List Byte) (c : Score) : Bool :=
  let has := fun (t : Nat) => (secOf b t).isSome
  sumParts c (·.dramUnits) + 32 ≤ usableUnits s && sumParts c (·.strips) ≤ 64 && sumParts c (·.sectionUnits) ≤ 384 &&
  slotsOk c && sumParts c (·.voiceShare) ≤ 16 && 6 + sumParts c (·.breathMin) ≤ c.breath.ceil &&
  (if flashPart s then has 5 else !has 5 && !has 9) &&
  (c.preload.all fun e => match c.parts[e.part] with
    | some p => p.slots.getLsbD e.slot
    | none => false) &&
  (match c.early with
    | some e => c.slots.any (·.slot == e.slot)
    | none => true) &&
  !c.revoke.getLsbD c.keySlot

/-- Steps 2 to 8 of R99: the reason code of the first failure, or the score. -/
def judgeScore (s : State) (b : List Byte) : Except Nat Score :=
  if !directoryOk b then .error 3
  else if !sectionCrcsOk b then .error 4
  else
    let sig := sigReason s.fuses b
    if sig ≠ 0 then .error sig
    else if le b 16 4 < s.bsc.rollback then .error 7
    else if le b 20 2 ≠ 0x0340 ∨ 0x11 < byteAt b 22 then .error 8
    else match parseScore (if flashPart s then some (diesOf s) else none) b with
      | none => .error 9
      | some c => if acrossOk s b c then .ok c else .error 10

end Sys2Proof.Machine
end

