-- ==== Sys2Proof/Machine/Boot.lean ====
section
/-! DEFINITION. Start-up (04): PORST_N, OTP, the copies of the score, ISLANDS, TRAIN, early service, SCORE_UPDATE and the
BSC registers (R113). -/

namespace Sys2Proof.Machine

def setBsc (f : Bsc → Bsc) (s : State) : State := { s with bsc := f s.bsc }

/-! ### PORST_N (R79, R84, R129, R486) -/

/-- Everything is at its reset value but what no reset changes (fuses, the NAND array) and what stands outside (the levels
of input pins, the JTAG port, what has been sent, the commands that wait). -/
def powerOn (bootSel : BitVec 2) (s : State) : State :=
  { State.reset with
    pending := s.pending
    freeCtr := s.freeCtr
    fuses := s.fuses
    nand := s.nand
    out := s.out
    jtag := s.jtag
    link := { Link.reset with perst := s.link.perst }
    bsc := { Bsc.reset with bootSel := bootSel }
    pwr := { Pwr.reset with gpioIn := s.pwr.gpioIn, warnAt := (gradeMax s - 10).toNat } }

/-- PORST_N low discards the state, and the device does nothing until the release. -/
def execPorstNAssert (s : State) : Host.Outcome State Fault Refusal := .next { powerOn 0 s with porst := true }

/-- The release samples BOOT_SEL and starts the stage OTP; JTAG no longer drives the balls. -/
def release (bootSel : BitVec 2) (s : State) : State :=
  { powerOn bootSel s with jtag := { s.jtag with driving := false } }

def execPorstNRelease (bootSel : BitVec 2) (s : State) : Host.Outcome State Fault Refusal :=
  .next (if s.porst then release bootSel s else s)

/-! ### Copies (R84, R85, R99) -/

/-- The copies that BOOT_SEL allows, in order; true is B. -/
def copiesOf (bootSel : BitVec 2) : List Bool :=
  if bootSel = 1 then [true, false] else if bootSel = 2 then [false] else [false, true]

/-- The next copy is read, or MUTE is entered with cause 1. -/
def nextCopy (s : State) : State :=
  match s.bsc.tries with
  | [] => enterMute 1 0 s
  | b :: rest =>
    enterStage .scoreRead 0 (setBsc (fun x => { x with
      copy := b
      tries := rest
      spi := .used
      header := []
      image := [] }) s)

/-- A copy fails: its reason code, and the next copy. -/
def copyFails (reason : Nat) (s : State) : State :=
  nextCopy (setBsc (fun x => if x.copy then { x with bReason := reason } else { x with aReason := reason }) s)

/-- OTP_LOAD_COMPLETE. -/
def otpLoaded (s : State) : State :=
  if s.bsc.stage ≠ .otp then s
  else
    let s := startIsland 28 { s with glb := { s.glb with loaded := true, serial := s.fuses.serial } }
    nextCopy (setBsc (fun x => { x with
      rollback := s.fuses.rollback
      revoked := s.fuses.revoked
      tries := copiesOf x.bootSel }) s)

def execOtpLoadComplete (s : State) : Host.Outcome State Fault Refusal := live s otpLoaded

/-- First byte of a copy in the NOR (R84). -/
def copyBase (b : Bool) : Nat := if b then 0x800000 else 0

/-- SCORE_HEADER_READ: SFDP and the 128-byte header, judged at once. -/
def scoreHeader (f : Sfdp) (h : List Byte) (s : State) : State :=
  if s.bsc.stage ≠ .scoreRead ∨ s.bsc.header ≠ [] ∨ h.length ≠ 128 then s
  else if !f.present then copyFails 1 s
  else if !headerOk h then copyFails 2 s
  else if f.density < copyBase s.bsc.copy + scoreLen h then copyFails 1 s
  else setBsc (fun x => { x with header := h, percent := 12800 / scoreLen h, offset := 128 }) s

def execScoreHeaderRead (f : Sfdp) (h : List Byte) (s : State) : Host.Outcome State Fault Refusal := live s (scoreHeader f h)

/-- SCORE_COPY_READ_END: the whole copy, of which the header in hand is the beginning. -/
def copyRead (c : List Byte) (s : State) : State :=
  if s.bsc.stage ≠ .scoreRead ∨ s.bsc.header = [] ∨ c.length ≠ scoreLen s.bsc.header ∨ c.take 128 ≠ s.bsc.header then s
  else enterStage .scoreVerify 0 (setBsc (fun x => { x with image := c }) s)

def execScoreCopyReadEnd (c : List Byte) (s : State) : Host.Outcome State Fault Refusal := live s (copyRead c)

/-! ### ISLANDS (R103) -/

def applyBreath (c : Score) (s : State) : State :=
  { s with brg := { s.brg with
      ceil := c.breath.ceil
      ceilLow := c.breath.ceilLow
      slope := c.breath.slope
      ioCeil := c.breath.ioCeil
      ioCeilLow := c.breath.ioCeilLow
      ioSlope := c.breath.ioSlope
      margin := c.breath.margin
      partMin := c.parts.map fun p => (p.map (·.breathMin)).getD 0
      partMax := c.parts.map fun p => (p.map (·.breathMax)).getD 0 } }

def applyIslands (c : Score) (s : State) : State :=
  { s with isl := { s.isl with spread := c.spread, keep := c.noCollapse, discard := s.isl.discard || c.spread != 0 } }

/-- TBS_STATUS from ENSEMBLE: role and hops; the device's own bit of ENS_REACH. -/
def applyEnsemble (c : Score) (s : State) : State :=
  match c.ens with
  | none => s
  | some e =>
    { s with
      tbs := { s.tbs with lock := if e.leader then .leader else .seek, hops := e.hops }
      ens := { s.ens with reach := BitVec.ofNat 256 (2 ^ e.device) } }

/-- The DRAM section: what a controller holds of it. -/
def applyDram (c : Score) (s : State) : State :=
  let hz := fun (d : Fin 2) => BitVec.ofNat 8 (c.dram.hazard.toNat / 2 ^ (8 * d.val))
  { s with dmc := Vector.ofFn fun (d : Fin 2) =>
      let x := s.dmc[d]
      { x with
        staged := hz d
        chans := Vector.ofFn fun (i : Fin 8) => { x.chans[i] with fwd := (hz d).getLsbD i.val }
        idle := c.dram.idle
        postpone := c.dram.postpone
        hours := c.dram.scrubH } }

/-- The accepted score takes effect: steps 1 and 2 of R103, after which the islands are woken. -/
def applyScore (c : Score) (s : State) : State :=
  let s := setBsc (fun x => { x with
    version := c.version
    build := c.build
    fw := c.fw
    spi := .idle
    debugOk := c.debugUnlock
    image := [] }) { s with score := some c }
  let s := islandsPos 28 (enterStage .islands 0 s)
  let s := markStarved (applyBreath c s)
  let s := seekPoint (setPwr (fun p => { p with req := c.breath.oppoint }) s)
  applyDram c (applyEvents c (applyEnsemble c (applyIslands c s)))

/-- SCORE_VERIFY_END (R99). -/
def scoreVerified (s : State) : State :=
  if s.bsc.stage ≠ .scoreVerify then s
  else match judgeScore s s.bsc.image with
    | .error r => copyFails r s
    | .ok c => applyScore c s

def execScoreVerifyEnd (s : State) : Host.Outcome State Fault Refusal := live s (standingChange scoreVerified)

/-! ### TRAIN (R104, R105, R254) -/

/-- PERCENT and the position of TRAIN (R83): the lowest channel still training, and the step last seen of it. -/
def trainPos (s : State) : State :=
  let cs := (List.range 16).map (Fin.ofNat 16)
  let left := cs.find? (isTraining s)
  let n := (cs.filter fun (c : Chan) => (chanOf s c).joined).length
  setBsc (fun x => { x with
    percent := n * 100 / 16
    unit := (left.map (·.val)).getD 0
    layer := (left.map fun c => (chanOf s c).step).getD 0 }) s

/-- An attempt of a channel begins at step 1, under the channel's I/O grant. -/
def beginAttempt (c : Chan) (n : Nat) (s : State) : State :=
  let s := setChan c (fun h => { h with step := 1, attempt := n }) s
  if holdsGrant s (.dram c) then s else request (.dram c) .system s

/-- ISLANDS_EXIT: the islands run. The pages of the score's partitions open, links start, and TRAIN begins. -/
def islandsExit (s : State) : State :=
  if s.bsc.stage ≠ .islands ∨ !((startList s).all fun i => islRuns s (Fin.ofNat 32 i)) then s
  else
    let s := { s with hif := { s.hif with
      pages := Vector.ofFn fun (p : Part) => { s.hif.pages[p] with isOpen := (partCfg s p).isSome } } }
    let s := settlePorts (enterStage .train 0 s)
    trainPos (beginAttempt 8 1 (beginAttempt 0 1 s))

def execIslandsExit (s : State) : Host.Outcome State Fault Refusal := live s (standingChange islandsExit)

/-- CHANNEL_JOIN: source 33 occurs (R221); the next channel of its controller begins; PRELOAD after the sixteenth. -/
def joinChannel (c : Chan) (s : State) : State :=
  let s := report 33 (setChan c (fun h => { h with step := 8, joined := true }) (endGrant (.dram c) s))
  let s := setBsc (fun x => { x with joined := x.joined ||| BitVec.ofNat 16 (2 ^ c.val) }) s
  if s.bsc.joined = BitVec.allOnes 16 then startPreload s
  else trainPos (if c.val % 8 = 7 then s else beginAttempt (Fin.ofNat 16 (c.val + 1)) 1 s)

/-- A step of an attempt failed: the next attempt, or after the third the channel's failure. -/
def attemptFails (c : Chan) (step : Nat) (s : State) : State :=
  let n := (chanOf s c).attempt
  if n < 3 then trainPos (beginAttempt c (n + 1) s)
  else
    let s := setChan c (fun h => { h with step := step, failed := true }) (endGrant (.dram c) s)
    trainPos (logErr { devErr 0x12 (25 + c.val / 8) s with arg1 := n, arg2 := c.val }
      (setBsc (fun x => { x with trainFail := true }) s))

/-- CHANNEL_TRAIN_ATTEMPT_END: an attempt of channel c ends after `ms`; `failedStep` counts from 0. -/
def attemptEnd (c : Chan) (failedStep : Option (Fin 8)) (ms : Nat) (s : State) : State :=
  if !isTraining s c then s
  else withLease (.dram c) .system (fun s =>
    let s := setChan c (fun h => { h with ms := min 65535 ms }) s
    match failedStep with
    | none => joinChannel c s
    | some k => attemptFails c (k.val + 1) s) s

def execChannelTrainAttemptEnd (c : Chan) (failedStep : Option (Fin 8)) (ms : Nat) (s : State) :
    Host.Outcome State Fault Refusal := live s (standingChange (attemptEnd c failedStep ms))

/-! ### Early service (R107, R280, R437) -/

/-- The image pages that early service reads as it starts: the header and the tables, and the shards of the layer plan and of the
voices' code (log entry 16). -/
def startPages (s : State) (e : EarlyCfg) : List (Nat × Nat) :=
  let n : Fin 32 := Fin.ofNat 32 e.slot
  let places := fun (ks : List Nat) => ks.filterMap (pagePlace s n)
  if slotState s n ≠ 2 then [] else match parseHeader (slotBytes s n 0 256) with
  | none => places [0]
  | some h =>
    let b := slotBytes s n 0 (tablesLen h)
    let ts := tensorsOf h b
    let code := (ts.filter fun t => 6 ≤ t.kind).flatMap fun t => ownShards t (shardsOf h b)
    places ((pagesAt 0 (tablesLen h) ++ code.flatMap fun x => pagesAt x.offset x.length).dedup)

/-- A codeword of `len` image bytes of a slot is flagged (R272). -/
def slotDamaged (s : State) (n : Fin 32) (off len : Nat) : Bool :=
  (List.range (ceilDiv (off % 4096 + len) 4096)).any fun i =>
    let k := off / 4096 + i
    match pagePlace s n (k / 4) with
    | some (b, p) => isFlagged s b p (k % 4)
    | none => false

/-- INT4 weights only: KINDs 1 to 3 have FORMAT 1. -/
def int4Only (ts : List Tensor) : Bool := ts.all fun t => !(1 ≤ t.kind && t.kind ≤ 3) || t.format == 1

/-- The early model of a slot, or the identifier found and the status of what it breaks. -/
def earlyImage (s : State) (e : EarlyCfg) : Except (Nat × Nat) Model :=
  let n : Fin 32 := Fin.ofNat 32 e.slot
  if slotState s n ≠ 2 then .error (0, 0x33)
  else if slotDamaged s n 0 256 then .error (0, 0x41)
  else match parseHeader (slotBytes s n 0 256) with
    | none => .error (0, 0x33)
    | some h =>
      if h.imageLen ≠ slotLen s e.slot ∨ (e.modelId ≠ 0 ∧ h.modelId ≠ e.modelId) ∨ 15 * 2 ^ 30 < h.residentLen then
        .error (h.modelId, 0x33)
      else if slotDamaged s n 0 (tablesLen h) then .error (h.modelId, 0x41)
      else
        let b := slotBytes s n 0 (tablesLen h)
        let ts := tensorsOf h b
        let ss := shardsOf h b
        let plan := (ts.find? (·.kind == 7)).bind fun t => ss[t.first]?
        let sp := plan.bind fun x => parseSplit (ensDevice s) h ts (slotBytes s n x.offset x.length)
        let code := (ts.filter fun t => 6 ≤ t.kind).flatMap fun t => ownShards t ss
        if code.any fun x => slotDamaged s n x.offset x.length then .error (h.modelId, 0x41)
        else match sp with
        | none => .error (h.modelId, 0x33)
        | some sp =>
          if !tablesOk h b || !imageSigOk s.fuses h b || !int4Only ts || 1500000000 < h.imageLen || 1 < sp.stages then
            .error (h.modelId, 0x33)
          else .ok
            { st := .resident, owner := 0, pinned := false, hdr := { h with split := some sp }, tensors := ts,
              shards := ss, units := [], slot := some n, badLayers := [], front := 0x7FF, lastUse := 0,
              repairing := none, barrier := false, plan := [],
              streamed := 0 }

/-- The pages are read, under the class of early service: each counts as a read of its block, and a flagged codeword as
uncorrectable (R269, R271). -/
def readStart (s : State) (e : EarlyCfg) : State :=
  (startPages s e).foldl (fun s q =>
    ((List.range 4).filter (isFlagged s q.1 q.2)).foldl (fun s _ => cwLost q.1 q.2 0xFF none s) (countReads q.1 1 s)) s

/-- EARLY_SERVICE_START: with the flash READY, after ISLANDS and before FULL. -/
def earlyStart (s : State) : State :=
  match earlyCfg s with
  | none => s
  | some e =>
    if (s.bsc.stage ≠ .train ∧ s.bsc.stage ≠ .preload) ∨ !s.flc.ready ∨ s.bsc.early ∨ s.bsc.earlyFail then s
    else withFlash (((startPages s e).map (·.1 % 2)).dedup) .system (fun s0 => match earlyImage s0 e, readStart s0 e with
      | .error (id, st), s => earlyFailed id st s
      | .ok m, s => stageChange { s with
          early := some m
          hif := { s.hif with earlyId := m.hdr.modelId }
          bsc := { s.bsc with early := true, tEarly := w32 (s.clk / 1000) }
          strips := Vector.ofFn fun (i : Fin 64) =>
            if 48 ≤ i.val then { Strip.reset with owner := some .early } else s.strips[i] }) s

def execEarlyServiceStart (s : State) : Host.Outcome State Fault Refusal := live s earlyStart

/-! ### SCORE_UPDATE (R111, R196) -/

/-- A copy is erased over its length rounded up to the NOR's erase unit, and programmed (R111). -/
def writeNor (copyB : Bool) (b : List Byte) (s : State) : State :=
  send (.norWrite copyB b) (send (.norErase copyB (ceilDiv b.length (Config.norUnit + 1) * (Config.norUnit + 1))) s)

/-- The bytes that SCORE_UPDATE names have arrived: TOTAL_LEN, the header, and steps 2 to 8 of R99; then copy B is
written. -/
def takeScore (id : Nat) (b : List Byte) (s : State) : State :=
  match cmdOf s id with
  | none => s
  | some c =>
    let bad := fun (st d : Nat) =>
      finish c.id st d (st == 0x31) noPayload (setBsc (fun x => { x with updStep := 0, updPercent := 0 }) s)
    if b.length ≠ scoreLen b then bad 0x31 32
    else if !headerOk (b.take 128) then bad 0x31 24
    else match judgeScore s b with
      | .error r => if r = 5 ∨ r = 6 then bad 0x41 (corruptDetail s 0xFFFF) else bad 0x31 24
      | .ok _ => writeNor true b (setBsc (fun x => { x with updStep := 2, updPercent := 0, spi := .used }) s)

/-- SCORE_UPDATE starts; a second one waits until the first completes, which counts as queued time. -/
def scoreUpdateRow (c : Cmd) (s : State) : State :=
  if s.cmds.any fun d => d.op == 0x4A && d.phase == .running then s
  else
    let s := setBsc (fun x => { x with updStep := 1, updPercent := 0 }) (runCmd c.id s)
    want c.id (c.field 24 8) (c.field 32 4) s

def execScoreUpdate (id : Nat) (s : State) : Host.Outcome State Fault Refusal := live s (atAdmission 0x4A id scoreUpdateRow)

/-- The DONE payload: the new VERSION and BUILD_ID. -/
def updatePayload (b : List Byte) : List Byte := payloadOf [(0, 4, le b 16 4), (4, 8, le b 32 8)]

/-- SCORE_UPDATE_COPY_WRITTEN: the copy as read back, against the image. After B comes A, and after A the end. -/
def copyWritten (back : List Byte) (s : State) : State :=
  match s.cmds.find? fun c => c.op == 0x4A && c.phase == .running with
  | none => s
  | some c =>
    if s.bsc.updStep ≠ 2 ∧ s.bsc.updStep ≠ 3 then s
    else
      let b := c.input
      if sha256 back ≠ sha256 b then
        failCmd c.id 0x41 (corruptDetail s 0xFFFF) (setBsc (fun x => { x with updPercent := 100, spi := .idle }) s)
      else if s.bsc.updStep = 2 then
        writeNor false b (setBsc (fun x => { x with updStep := 3, updPercent := 0 }) s)
      else finish c.id 0x00 0 false (updatePayload b) (setBsc (fun x => { x with updStep := 0, updPercent := 100, spi := .idle }) s)

def execScoreUpdateCopyWritten (back : List Byte) (s : State) : Host.Outcome State Fault Refusal := live s (copyWritten back)

/-! ### The BSC registers (R113) -/

/-- How far the stage has come at the instant of a look at it, where no row tells (R83): the bytes of the copy read so far,
the verified signature, and the training step are free values that never fall (log entry 29). -/
def bscSeen (s : State) : State :=
  let f := Config.freeNat s.freeCtr
  match s.bsc.stage with
  | .scoreRead =>
    if s.bsc.header = [] then s
    else
      let n := scoreLen s.bsc.header
      let off := s.bsc.offset + f % (n + 1 - s.bsc.offset)
      setBsc (fun x => { x with offset := off, percent := off * 100 / n }) { s with freeCtr := s.freeCtr + 1 }
  | .scoreVerify =>
    setBsc (fun x => { x with percent := max x.percent (f % 2 * 50) }) { s with freeCtr := s.freeCtr + 1 }
  | .train => trainSeen s
  | _ => s

def bscRead (off : Nat) (s : State) : Option Word :=
  let s := bscSeen s
  let b := s.bsc
  match off with
  | 0x3000 => some (bscStage s)
  | 0x3004 => some (w32 (b.unit % 256 + 0x100 * (b.layer % 65536)))
  | 0x3008 => some (w32 b.offset)
  | 0x300C => some (w32 b.joined.toNat)
  | 0x3010 => some b.tEarly
  | 0x3014 => some b.tFull
  | 0x3018 =>
    some (w32 (b.bootSel.toNat + 4 * b2n (b.bootSel == 3) + 8 * b2n b.trainFail + 0x10 * b2n b.earlyFail))
  | 0x301C => some (w32 (b.aReason + 0x10 * b.bReason + 0x100 * b.muteCause + 0x10000 * b.muteIsland.val))
  | 0x3020 => some (w32 b.version)
  | 0x3024 => some b.fw
  | 0x3028 => some (lo32 b.build.toNat)
  | 0x302C => some (hi32 b.build.toNat)
  | 0x3030 => some (w32 (b.rollback + 0x100 * b.revoked.toNat + 0x1000 * b2n b.debugOk))
  | 0x3034 => some (w32 b.earlyDropped)
  | 0x3038 => some (w32 (b.updStep + 0x100 * b.updPercent))
  | _ => none

/-- What a look at a register fixes. -/
def bscReadEff (s : State) : State := bscSeen s

/-- Every BSC register is read-only. -/
def bscWrite (off : Nat) (s : State) : Option State := (bscRead off s).map fun _ => s

end Sys2Proof.Machine
end

