-- ==== Sys2Proof/Machine/HostLink.lean ====
section
/-! DEFINITION. The host link (05): configuration space (R114 to R118, R512, R513), resets (R129 to R131, R163), DMA reads
(R132), BAR2 (R123 to R125), the host windows (R133) and the base of BAR2 (R134). -/

namespace Sys2Proof.Machine

def setLink (f : Link → Link) (s : State) : State := { s with link := f s.link }

/-! ### Configuration space -/

/-- GLB_ID (R12). -/
def glbId (s : State) : Word :=
  w32 (0x34011000 + 0x400 * s.fuses.dram.toNat + 0x100 * s.fuses.flash.toNat + 0x80 * b2n s.fuses.grade)

/-- Correctable, non-fatal or fatal: the message of an uncorrectable error, by its severity bit. -/
def aerClass (k : Link) (bit : Word) : Nat := if k.aerSeverity &&& bit ≠ 0 then 2 else 1

/-- A register of configuration space (R115, R116), by the layout of PCI Express (log entry 6); `none` where a
capability holds a register whose value the spec does not give. -/
def cfgRead (s : State) (off : Nat) : Option Nat :=
  let k := s.link
  let aspm := k.linkCtl.toNat
  match off / 4 * 4 with
  | 0x00 => some 0x03401F7D
  | 0x04 => some (0x100000 + 2 * b2n k.mse + 4 * b2n k.bme + k.command.toNat)
  | 0x08 => some 0x12000011
  | 0x0C => some k.cacheLine
  | 0x10 => some (k.bar0 % 2 ^ 32 + 4)
  | 0x14 => some (k.bar0 / 2 ^ 32)
  | 0x18 => some (k.bar2 % 2 ^ 32 + 0xC)
  | 0x1C => some (k.bar2 / 2 ^ 32)
  | 0x2C => some ((glbId s).toNat % 65536 * 65536 + 0x1F7D)
  | 0x34 => some 0x40
  | 0x3C => some k.intLine
  | 0x40 => some 0xC0035001
  | 0x44 => some (3 * b2n k.d3 + 8 + 0x100 * b2n k.pmeEn + 0x8000 * b2n k.pmeStatus)
  | 0x50 => some (0x00017011 + 0x40000000 * b2n k.msixMask + 0x80000000 * b2n k.msixEn)
  | 0x54 => some 0x30000
  | 0x58 => some 0x31000
  | 0x70 => some 0x00020010
  | 0x74 => some (1 + 0x8000 + 0x10000000)
  | 0x78 => some (k.devCtl.toNat + 0x20 * k.mps + 0x1000 * k.mrrs + 0x10000 * k.devStatus.toNat)
  | 0x7C => some (4 + 0x40 + 0x800 + 0x10000 + 0x400000)
  | 0x80 => some (aspm + 0x10000 * k.speed + 0x100000 * k.width + 0x10000000)
  | 0x94 => some (3 + 0x10 + 0x800 + 0x10000 + 0x20000)
  | 0x98 => some (k.cto + 0x10 * b2n k.ctoDis + 0x400 * b2n k.ltrEn + 0x1000 * b2n k.tag10)
  | 0x9C => some 0x1E
  | 0xA0 => some (k.linkCtl2.toNat + 0x1E0000 * b2n (decide (3 ≤ k.speed)))
  | 0x100 => some 0x14820001
  | 0x104 => some k.aerStatus.toNat
  | 0x108 => some k.aerMask.toNat
  | 0x10C => some k.aerSeverity.toNat
  | 0x110 => some k.aerCor.toNat
  | 0x114 => some k.aerCorMask.toNat
  | 0x118 => some (k.aerFirst + 0x20 + 0x40 * b2n k.ecrcGen + 0x80 + 0x100 * b2n k.ecrcChk)
  | 0x11C => some (k.aerHeader % 2 ^ 32)
  | 0x120 => some (k.aerHeader / 2 ^ 32 % 2 ^ 32)
  | 0x124 => some (k.aerHeader / 2 ^ 64 % 2 ^ 32)
  | 0x128 => some (k.aerHeader / 2 ^ 96)
  | 0x148 => some 0x15810003
  | 0x14C => some (s.glb.serial.toNat % 2 ^ 32)
  | 0x150 => some (s.glb.serial.toNat / 2 ^ 32)
  | 0x158 => some 0x17810019
  | 0x164 => some (k.eq % 2 ^ 32)
  | 0x168 => some (k.eq / 2 ^ 32)
  | 0x178 => some 0x18010018
  | 0x17C => some k.ltrMax.toNat
  | 0x180 => some 0x1901001E
  | 0x184 => some (0x1F + 0x100 * 10 + 0x10000 + 0x80000 * 4)
  | 0x188 => some k.l1ss1.toNat
  | 0x18C => some k.l1ss2.toNat
  | 0x190 => some 0x1C010026
  | 0x1C0 => some 0x00010027
  | o =>
    let cap := fun (lo hi : Nat) => decide (lo < o ∧ o < hi)
    if cap 0x70 0x9C || cap 0x158 0x178 || cap 0x190 0x1C0 || cap 0x1C0 0x1D4 then none
    else some 0

/-- A base address register keeps the bits above its size. -/
def barLo (old size v : Nat) : Nat := old / 2 ^ 32 * 2 ^ 32 + v % 2 ^ 32 / size * size

/-- PMCSR: D1 and D2 are not supported. A function in D3hot takes its link to L1 (log entry 6). -/
def pmWrite (n w1c : Nat) (k : Link) : Link :=
  let k := { k with pmeEn := bitAt n 8, pmeStatus := k.pmeStatus && !bitAt w1c 15 }
  match n % 4 with
  | 0 => { k with d3 := false, l1 := false }
  | 3 => { k with d3 := true, l1 := true }
  | _ => k

/-- Device Control 2; setting LTR Mechanism Enable sends a message (R118). -/
def dev2Write (n : Nat) (k : Link) : Link :=
  let on := bitAt n 10
  { k with
    cto := n % 16
    ctoDis := bitAt n 4
    ltrEn := on
    ltrSent := if on then k.ltrSent.filter (fun _ => k.ltrEn) else none
    tag10 := bitAt n 12 }

/-- A write of one register (R114 to R118, R512, R513): `n` is the register with the enabled bytes written, `w` the written
ones alone, for the bits that a 1 clears. -/
def cfgSet (off n w : Nat) (k : Link) : Link :=
  let clr := fun (x : Word) => x &&& ~~~w32 w
  match off with
  | 0x04 => { k with mse := bitAt n 1, bme := bitAt n 2, command := w32 n &&& 0x540 }
  | 0x0C => { k with cacheLine := n % 256 }
  | 0x10 => { k with bar0 := barLo k.bar0 0x100000 n }
  | 0x14 => { k with bar0 := setHi k.bar0 (w32 n) }
  | 0x18 => { k with bar2 := barLo k.bar2 0x10000000 n }
  | 0x1C => { k with bar2 := setHi k.bar2 (w32 n) }
  | 0x3C => { k with intLine := n % 256 }
  | 0x44 => pmWrite n w k
  | 0x50 => { k with msixMask := bitAt n 30, msixEn := bitAt n 31 }
  | 0x78 => { k with
      devCtl := BitVec.ofNat 4 n
      mps := bits n 7 5
      mrrs := bits n 14 12
      devStatus := k.devStatus &&& ~~~BitVec.ofNat 4 (w / 0x10000) }
  | 0x80 => { k with linkCtl := w32 n &&& 0xCA }
  | 0x98 => dev2Write n k
  | 0xA0 => { k with linkCtl2 := w32 n &&& 0xFFFF }
  | 0x104 => { k with aerStatus := clr k.aerStatus }
  | 0x108 => { k with aerMask := w32 n }
  | 0x10C => { k with aerSeverity := w32 n }
  | 0x110 => { k with aerCor := clr k.aerCor }
  | 0x114 => { k with aerCorMask := w32 n }
  | 0x118 => { k with ecrcGen := bitAt n 6, ecrcChk := bitAt n 8 }
  | 0x17C => { k with ltrMax := w32 n }
  | 0x188 => { k with l1ss1 := w32 n &&& 0xE3FFFF0F }
  | 0x18C => { k with l1ss2 := w32 n &&& 0xFB }
  | _ => k

/-- The bytes of a DW that the byte enables name. -/
def beMask (be : BitVec 4) : Nat :=
  ((List.range 4).map fun i => if be.getLsbD i then 255 * 256 ^ i else 0).sum

/-- A configuration write: the enabled bytes take the new value. -/
def cfgWrite (off : Nat) (v : Word) (be : BitVec 4) (s : State) : State :=
  let o := off / 4 * 4
  let m := beMask be
  let old := (cfgRead s o).getD 0
  let w := v.toNat &&& m
  syncHolds (fun _ => true) (setLink (cfgSet o ((old &&& (0xFFFFFFFF - m)) ||| w) w) s)

/-- CONFIG_REQUEST: Configuration Request Retry Status before the exit of OTP and during an FLR (R81, R130). -/
def configRequest (r : CfgReq) (s : State) : State :=
  if !s.link.up then s
  else if s.bsc.stage = .otp ∨ s.link.flrBusy then send (.config none) s
  else if !linkAnswers s then s
  else match r with
    | .read off => match cfgRead s off with
      | some v => send (.config (some v)) s
      | none => send (.config (some (Config.freeNat s.freeCtr % 2 ^ 32))) { s with freeCtr := s.freeCtr + 1 }
    | .write off v be => send (.config (some 0)) (cfgWrite off v be s)

def execConfigRequest (r : CfgReq) (s : State) : Host.Outcome State Fault Refusal := live s (configRequest r)

/-- LINK_UP: the link reaches L0 at a speed (1 to 4) and width; WAKE_N is released (R513). What equalisation found is an open
value (log entry 3). -/
def linkUp (speed width : Nat) (s : State) : State :=
  if speed < 1 ∨ 4 < speed ∨ !([1, 2, 4] : List Nat).contains width ∨ s.isl.refLost then s
  else setLink (fun k => { k with
    up := true
    eq := Config.freeNat s.freeCtr % 2 ^ 64
    perst := false
    speed := speed
    width := width
    l1 := false
    l2 := false
    wakeN := true }) { s with freeCtr := s.freeCtr + 1 }

def execLinkUp (speed width : Nat) (s : State) : Host.Outcome State Fault Refusal := live s (linkUp speed width)

/-! ### LTR and held MSI-X messages -/

/-- The latency that the device asks for, in ns (R118). Entries between head and tail of a disabled ring count as unfetched
(DESIGN CHOICE, log entry 38). -/
def ltrNeed (s : State) : Nat :=
  if !s.cmds.isEmpty || s.hif.pages.toList.any (fun g => g.sq.head != g.sq.tail) then 20000 else 1000000

/-- LTR_MESSAGE: the present value, when it is not the one sent last. -/
def ltrMessage (s : State) : State :=
  if !s.link.ltrEn || !s.link.up || s.pwr.st == .rest || s.link.ltrSent == some (ltrNeed s) then s
  else send (.ltr (some (ltrNeed s))) (setLink (fun k => { k with ltrSent := some (ltrNeed s) }) s)

def execLtrMessage (s : State) : Host.Outcome State Fault Refusal := live s ltrMessage

/-- MSIX_HELD_SEND: a held message is sent once nothing holds it (R512). -/
def msixHeldSend (v : Fin 2) (s : State) : State :=
  if !s.link.pba.getLsbD v || msixHeld s v || muted s then s
  else send (msixMsg s v) (setLink (fun k => { k with pba := k.pba &&& ~~~BitVec.ofNat 2 (2 ^ v.val) }) s)

def execMsixHeldSend (v : Fin 2) (s : State) : Host.Outcome State Fault Refusal := live s (msixHeldSend v)

/-! ### Resets (R129 to R131, R234, R307) -/

/-- A swap that a reset strikes after its first layer was written. -/
def struckSwap (s : State) (id : Nat) : Option Job :=
  s.jobs.find? fun j => j.owner == .cmd id && hasWritten s j

/-- A model whose eviction a reset ended is RESIDENT again. -/
def undoEvict (c : Cmd) (s : State) : State :=
  if c.op ≠ 0x12 ∨ s.models[c.handle].st ≠ .evicting then s
  else setModel c.handle (fun m => { m with st := if m.badLayers = [] then .resident else .degraded }) s

/-- A reset aborts a command without a record; an admitted flash or score command runs to its silent end (R130). -/
def resetCmd (id : Nat) (s : State) : State :=
  match cmdOf s id with
  | none => s
  | some c =>
    if c.silent then s
    else
      let s := setCmd id (fun c => { c with silent := true }) s
      if ([0x48, 0x49, 0x4A] : List Nat).contains c.op && c.admitted then s
      else match struckSwap s id with
        | some j => finish id 0x02 0 false noPayload (swapReset j s)
        | none => abortCmd id 0 (undoEvict c s)

/-- Bursts for commands that have gone end with them. -/
def dropDma (s : State) : State :=
  dropUnits (fun u => match u with
    | .dma (some i) => (cmdOf s i).isNone
    | _ => false) s

def resetCmds (own : Cmd → Bool) (s : State) : State :=
  dropDma (((s.cmds.filter own).map (·.id)).foldl (fun s id => resetCmd id s) s)

/-- A HIF page at its reset values; whether the partition exists and whether its reset runs stay. -/
def resetPage (p : Part) (s : State) : State :=
  setPage p (fun g => { Page.reset with isOpen := g.isOpen, resetting := g.resetting }) s

/-- The HIF registers. Records of the error queue move to its backlog (R219). -/
def resetHif (s : State) : State :=
  let s := (List.range 8).foldl (fun s i => resetPage (Fin.ofNat 8 i) s) s
  trimBacklog s.hif.errWait.length { s with hif := { s.hif with
    evq := Ring.reset
    errq := Ring.reset
    deferPeak := 0 } }

/-- GLB_WIN_*, GLB_HWIN_*, GLB_UNMAPPED and GLB_UNMAPPED_ADDR. -/
def resetGlb (s : State) : State :=
  { s with glb := { s.glb with
      unmLogged := 0
      unmOffset := 0
      unmPart := 0
      unmWrite := false
      winEn := false
      winOutside := false
      winLo := 0
      winHi := 0
      winBase := 0
      hwin := Vector.replicate 8 HostWin.reset } }

/-- Configuration space but its sticky bits, MSI-X and PBA; what the link itself trained stays, and BAR2 writes that have been
received (R129, R133). The spec names AER status and the header log; PME_En, PME_Status and the AER masks, severities and
first-error pointer are sticky too, as PCI Express has them (PRESUMED, log entry 36), and the ECRC enables are not. -/
def resetConfig (s : State) : State :=
  setLink (fun k => { Link.reset with
    perst := k.perst
    up := k.up
    l2 := k.l2
    speed := k.speed
    width := k.width
    eq := k.eq
    held := k.held.filter isHeldWrite
    pmeEn := k.pmeEn
    pmeStatus := k.pmeStatus
    aerStatus := k.aerStatus
    aerMask := k.aerMask
    aerSeverity := k.aerSeverity
    aerCor := k.aerCor
    aerCorMask := k.aerCorMask
    aerFirst := k.aerFirst
    aerHeader := k.aerHeader
    wakeN := k.wakeN }) s

/-- What every reset of the host link clears. -/
def resetHost (s : State) : State :=
  resetEvcHost (resetConfig (resetGlb (resetHif (resetCmds (fun _ => true) s))))

/-- HOST_LINK_RESET: PERST_N, hot reset or link down. The link is down until LINK_UP. A link that goes down in D3hot is in
L2 (log entry 6), where a source that is pending asserts WAKE_N (R513). -/
def hostLinkReset (kind : LinkReset) (s : State) : State :=
  let l2 := kind == .linkDown && (s.link.l2 || s.link.d3)
  let s := resetHost s
  let s := setLink (fun k => { k with
    perst := k.perst || kind == .perst
    up := false
    l2 := l2
    speed := 0
    width := 0
    eq := 0
    flrBusy := false
    wakeN := k.wakeN && !(l2 && s.evc.pend != 0) }) s
  { s with glb := { s.glb with perst := true } }

def execHostLinkReset (kind : LinkReset) (s : State) : Host.Outcome State Fault Refusal := live s (hostLinkReset kind)

/-- FLR: Initiate Function Level Reset is written. -/
def flr (s : State) : State :=
  if !linkAnswers s then s
  else
    let s := setLink (fun k => { k with flrBusy := true }) (resetHost s)
    { s with glb := { s.glb with flr := true } }

def execFlr (s : State) : Host.Outcome State Fault Refusal := live s flr

def execFlrComplete (s : State) : Host.Outcome State Fault Refusal :=
  live s (setLink fun k => { k with flrBusy := false })

/-- The masks of a partition and its default binding go. -/
def dropMasks (p : Part) (s : State) : State :=
  dropObjs (fun o => o.part == p && match o.kind with | .mask _ _ => true | _ => false)
    { s with masks := s.masks.set p (Vector.replicate 32 none), defMask := s.defMask.set p none }

/-- A partition reset starts: its commands, contexts and masks end, and its page reads as reset until it completes. -/
def partReset (p : Part) (s : State) : State :=
  let s := resetCmds (·.part == p) s
  let s := (s.ctxs.filter fun x => x.part == p && decide (x.num < 65536)).foldl (fun s x => destroyCtx x.part x.num s) s
  resetEvcPart p (setPage p (fun g => { g with resetting := true }) (resetPage p (dropMasks p s)))

/-- HIF_PART_RESET (R163). -/
def writePartReset (p : Part) (v : Word) (s : State) : State :=
  let off := pageOff p + 0x44
  if (pageOf s p).resetting || bits v.toNat 15 0 != 0x5A5A then regRefused off v 2 s else partReset p s

/-- A write to HIF_PART_RESET: judged while a reset of the partition runs too. -/
def partResetWrite (p : Part) (v : Word) (s : State) : State :=
  let off := pageOff p + 0x44
  barAccess (fun s =>
    if !answers s (.page p) then s else if !pageOpen s p then unmapped off true s else writePartReset p v s) s

def execHifPartResetWrite (p : Part) (v : Word) (s : State) : Host.Outcome State Fault Refusal := live s (partResetWrite p v)

def execPartResetComplete (p : Part) (s : State) : Host.Outcome State Fault Refusal :=
  live s (setPage p fun g => { g with resetting := false })

/-! ### DMA reads (R117, R132, R162) -/

/-- What a command was doing ends when an access fault has ended the command (R127): its load or swap, its flash write, or the
read of its score. -/
def settleGone (s : State) : State :=
  let s := dropOrphans (dropWrite s)
  if s.bsc.updStep = 1 ∧ !(s.cmds.any fun c => c.op == 0x4A && c.phase == .running) then
    setBsc (fun x => { x with updStep := 0, updPercent := 0 }) s
  else s

/-- The bytes of a read are all here: what they are for goes on. -/
def inputDone (c : Cmd) (b : List Byte) (s : State) : State :=
  if (jobFor s (.cmd c.id)).isSome then itemEnd (.cmd c.id) (.good b) s
  else if c.op = 0x48 then writeItem (some b) s
  else if isWork c.op then takeInput c.id b s
  else if c.op = 0x30 then takeMask c.id b s
  else if c.op = 0x4A then takeScore c.id b s
  else s

/-- DMA_READ_COMPLETION: the next bytes of a command's read, under a burst of the host-interface engine. -/
def dmaRead (id : Nat) (data : List Byte) (s : State) : State :=
  match cmdOf s id with
  | none => s
  | some c =>
    if data.isEmpty ∨ c.inAsked < c.input.length + data.length then s
    else withDma (some id) (fun s =>
      let b := c.input ++ data
      let s := setCmd id (fun c => { c with input := b, attempt := 0 }) s
      settleGone (if b.length = c.inWant then inputDone c b s else askInput id s)) s

def execDmaReadCompletion (id : Nat) (data : List Byte) (s : State) : Host.Outcome State Fault Refusal :=
  live s (dmaRead id data)

def dmaCause : DmaFail → Nat
  | .poisoned => 1 | .ecrc => 2 | .timeout => 3

/-- The AER status bit of a failed attempt, by the layout of PCI Express (log entry 6). -/
def aerBit : DmaFail → Word
  | .poisoned => 0x1000 | .ecrc => 0x80000 | .timeout => 0x4000

/-- A failed attempt is reported through AER (R132): its status bit; where it is not masked and no earlier error is logged, the
first-error pointer and the header log, whose contents are an open value (log entry 3); and the message of its severity,
where the Device Control register or SERR# Enable has it sent. -/
def noteAer (w : DmaFail) (s : State) : State :=
  let k := s.link
  let b := aerBit w
  let sev := aerClass k b
  let seen := k.aerMask &&& b = 0
  let first := seen ∧ k.aerStatus &&& ~~~k.aerMask = 0
  let s := setLink (fun k => { k with
    aerStatus := k.aerStatus ||| b
    devStatus := k.devStatus ||| (if sev = 2 then 4 else 2)
    aerFirst := if first then Nat.log2 b.toNat else k.aerFirst
    aerHeader := if first then Config.freeNat s.freeCtr % 2 ^ 128 else k.aerHeader }) { s with freeCtr := s.freeCtr + 1 }
  if seen ∧ (k.devCtl.getLsbD sev ∨ k.command.getLsbD 8) then send (.aer sev) s else s

/-- The device can find the failure: ECRC is checked where its check is enabled, and no timeout runs while it is disabled
(R114, R117). -/
def canFail (s : State) : DmaFail → Bool
  | .poisoned => true
  | .ecrc => s.link.ecrcChk
  | .timeout => !s.link.ctoDis

/-- The transfer has failed: the command ends as its data's loss says. -/
def inputLost (c : Cmd) (s : State) : State :=
  if (jobFor s (.cmd c.id)).isSome then itemEnd (.cmd c.id) .transferFailed s
  else if c.op = 0x48 then writeItem none s
  else
    let s := if c.op = 0x4A then setBsc (fun x => { x with updStep := 0, updPercent := 0 }) s else s
    failCmd c.id 0x41 (corruptDetail s 0xFFFF) s

/-- A failed attempt of a command's read. -/
def readFailed (id : Nat) (w : DmaFail) (s : State) : State :=
  match cmdOf s id with
  | none => s
  | some c =>
    if c.inAsked ≤ c.input.length ∨ !canFail s w then s
    else
      let n := c.attempt + 1
      let a := c.inHost + c.input.length
      let s := logErr { cmdErr 0x06 30 c s with arg0 := a, arg1 := n, arg2 := dmaCause w } (noteAer w s)
      settleGone (if n < 4 then askInput id (setCmd id (fun c => { c with attempt := n, inAsked := c.input.length }) s)
        else inputLost c s)

/-- A failed attempt of an entry's fetch; after the fourth the ring stops fetching (R162). -/
def fetchFailed (p : Part) (w : DmaFail) (s : State) : State :=
  let g := pageOf s p
  let a := g.sq.base + 64 * g.sq.head
  if g.asked = 0 ∨ !canFail s w then s
  else
    let n := g.fetchTries + 1
    let s := setPage p (fun g => { g with asked := 0 }) s
    let r := { devErr 0x06 30 s with part := p.val, arg0 := a, arg1 := n, arg2 := dmaCause w }
    let s := logErr r (noteAer w s)
    if n < 4 then askFetch p (setPage p (fun g => { g with fetchTries := n }) s)
    else logErr { devErr 0x05 30 s with part := p.val, arg0 := a }
      (setPage p (fun g => { g with fetchTries := 0, fetchStop := true }) s)

def dmaFailure (t : DmaTarget) (w : DmaFail) (s : State) : State :=
  match t with
  | .command id => readFailed id w s
  | .fetch p => fetchFailed p w s

def execDmaReadFailure (t : DmaTarget) (w : DmaFail) (s : State) : Host.Outcome State Fault Refusal :=
  live s (dmaFailure t w)

/-! ### BAR2 (R123 to R125) -/

/-- A BAR2 access reaches memory: the window is enabled, all channels have joined, and the address is P0's. In MUTE, where the
spec does not say, an access counts as outside (DESIGN CHOICE, log entry 37). -/
def bar2Inside (s : State) (a n : Nat) : Bool :=
  let (g, k) := carve s 0 1
  s.glb.winEn && s.bsc.joined == BitVec.allOnes 16 && !muted s && granuleAddr g ≤ a && a + n ≤ granuleAddr (g + k)

/-- OUTSIDE is set; one record when it was 0. -/
def bar2Outside (a : Nat) (s : State) : State :=
  let t := { s with glb := { s.glb with winOutside := true } }
  if s.glb.winOutside then t else logErr { devErr 0x07 28 s with part := 0, arg0 := a } t

/-- The controllers take requests. -/
def bar2Ready (s : State) : Bool := s.dmc.toList.all (fun d => !d.sr && !d.exiting) && islRuns s 25 && islRuns s 26

/-- A BAR2 write: a merge of a lost block is not applied, and is reported (R124, R248). -/
def bar2Put (a : Nat) (b : List Byte) (s : State) : State :=
  reportUes (badMerges s a b.length) 5 0xFF none (storeMem a b s)

/-- One BAR2 access that was received is carried out; a read that meets a lost block is poisoned (R124). -/
def bar2Do : HostReq → State → State
  | .read o a n, s =>
    match readStack a n [] [] s with
    | (.ok b, s) => send (.bar2 o (some b)) s
    | (.bad l, s) => send (.bar2 o none) (reportUes l 3 0xFF none s)
  | .write a b, s => bar2Put a b s
  | .reply m, s => send m s

/-- BAR2 accesses in the order received, each under a SYSTEM-tagged burst, with the completions that stand behind them (R124,
R125). -/
def serveBar2 : Nat → State → State
  | 0, s => s
  | k + 1, s => match s.link.held with
    | [] => s
    | x :: rest =>
      let t := setLink (fun l => { l with held := rest }) s
      match x with
      | .reply m => serveBar2 k (send m t)
      | _ =>
        if !bar2Ready s then s
        else if holdsGrant s (.dma none) then serveBar2 k (bar2Do x (endGrant (.dma none) t))
        else request (.dma none) .system s

def takeBar2 (x : HostReq) (s : State) : State :=
  let s := setLink (fun l => { l with held := l.held ++ [x] }) s
  serveBar2 s.link.held.length s

/-- BAR2_READ at an offset; the base is that of its receipt (R133). -/
def bar2Read (o n : Nat) (s : State) : State :=
  let a := s.glb.winBase + o
  if n = 0 ∨ 0x10000000 < o + n then s
  else if !bar2Inside s a n then reply (.bar2 o (some (zeros n))) (bar2Outside a s)
  else takeBar2 (.read o a n) s

def execBar2Read (o n : Nat) (s : State) : Host.Outcome State Fault Refusal := live s (barAccess (bar2Read o n))

/-- BAR2_WRITE at an offset. -/
def bar2Write (o : Nat) (b : List Byte) (s : State) : State :=
  let a := s.glb.winBase + o
  if b.isEmpty ∨ 0x10000000 < o + b.length then s
  else if !bar2Inside s a b.length then bar2Outside a s
  else takeBar2 (.write a b) s

def execBar2Write (o : Nat) (b : List Byte) (s : State) : Host.Outcome State Fault Refusal :=
  live s (barAccess (bar2Write o b))

/-! ### Windows (R128, R133, R134) -/

def setHwin (p : Part) (f : HostWin → HostWin) (s : State) : State :=
  { s with glb := { s.glb with hwin := s.glb.hwin.set p (f s.glb.hwin[p]) } }

def hwinOff (p : Part) : Nat := 0x100 + 16 * p.val

/-- GLB_HWIN_LEN commits the staged base and the length; above 524,288 MiB is a reserved encoding. -/
def writeHwinLen (p : Part) (v : Word) (s : State) : State :=
  let n := bits v.toNat 19 0
  if 524288 < n then regRefused (hwinOff p + 8) v 1 s
  else setHwin p (fun w => { w with base := setHi w.loW.toNat w.hiW, len := n }) s

def execGlbHwinLenWrite (p : Part) (v : Word) (s : State) : Host.Outcome State Fault Refusal :=
  live s (regWrite (hwinOff p + 8) (writeHwinLen p v))

/-- GLB_WIN_BASE_HI commits both halves. -/
def writeWinHi (v : Word) (s : State) : State :=
  let h := bits v.toNat 7 0
  { s with glb := { s.glb with winHi := h, winBase := h * 2 ^ 32 + s.glb.winLo.toNat } }

def execGlbWinBaseHiWrite (v : Word) (s : State) : Host.Outcome State Fault Refusal :=
  live s (regWrite 0x28 (writeWinHi v))

end Sys2Proof.Machine
end

