-- ==== Sys2Proof/Machine/Regs.lean ====
section
/-! DEFINITION. The GLB registers (R12, R134, 21), the MSI-X table, the dispatch of BAR0 to the blocks (R120 to R122,
R368), and JTAG (R498). -/

namespace Sys2Proof.Machine

/-! ### GLB -/

def setGlb (f : Glb → Glb) (s : State) : State := { s with glb := f s.glb }

/-- GLB_PWR_STATUS.STATE (R499). -/
def pwrCode (s : State) : Nat := match s.pwr.st with
  | .rest => 0
  | .doze => 1
  | .on => if s.pwr.active = 0 then 3 else 2

/-- GLB_THERM. -/
def thermWord (s : State) : Word :=
  let p := s.pwr
  w32 (unsigned 8 p.temp + 0x100 * p.sensor + 0x10000 * b2n p.warn + 0x20000 * b2n p.trip + 0x40000 * b2n p.crit +
    0x1000000 * unsigned 8 (max p.peak p.temp))

/-- The levels at the GPIO balls: a driven ball is at its driven value. -/
def gpioLevels (s : State) : BitVec 8 := (s.pwr.gpioOe &&& s.pwr.gpioOut) ||| (~~~s.pwr.gpioOe &&& s.pwr.gpioIn)

def glbRead (off : Nat) (s : State) : Option Word :=
  let k := s.link
  let g := s.glb
  let p := s.pwr
  match off with
  | 0x000 => some (glbId s)
  | 0x004 => some (w32 (k.speed + 0x10 * k.width + 0x100 * b2n k.up + 0x200 * b2n k.l1 + 0x400 * b2n k.d3))
  | 0x008 => some (w32 (b2n g.porst + 2 * b2n g.perst + 4 * b2n g.flr))
  | 0x00C => some (w32 g.unmLogged.toNat)
  | 0x010 => some (w32 (g.unmOffset + 0x1000000 * g.unmPart.val + 0x80000000 * b2n g.unmWrite))
  | 0x020 => some (w32 (b2n g.winEn + 2 * b2n g.winOutside))
  | 0x024 => some g.winLo
  | 0x028 => some (w32 g.winHi)
  | 0x030 => some (lo32 g.serial.toNat)
  | 0x034 => some (hi32 g.serial.toNat)
  | 0x040 => some (w32 (0x10000 * p.dozeUs))
  | 0x044 => some (w32 (pwrCode s + 0x10 * b2n p.woke + 0x100 * p.wakeSrc))
  | 0x048 => some (lo32 p.wake.toNat)
  | 0x04C => some (hi32 p.wake.toNat)
  | 0x050 => some (w32 (p.req + 0x10 * p.active + 0x100 * b2n p.thermal + 0x200 * b2n p.avsErr))
  | 0x054 => some (w32 (p.settle + 0x10000 * p.mv))
  | 0x058 => some (thermWord s)
  | 0x05C => some (w32 p.warnAt)
  | 0x060 => some (w32 p.pad.toNat)
  | 0x064 => some (w32 (p.gpioOut.toNat + 0x100 * p.gpioOe.toNat + 0x10000 * (gpioLevels s).toNat))
  | 0x068 => some (w32 (p.gpioWake.toNat + 0x100 * p.gpioFilter.toNat + 0x10000 * p.gpioNoPull.toNat))
  | _ =>
    if 0x100 ≤ off ∧ off < 0x180 ∧ off % 16 < 12 ∧ off % 4 = 0 then
      let w := g.hwin[(Fin.ofNat 8 ((off - 0x100) / 16) : Fin 8)]
      some (if off % 16 = 0 then w.loW else if off % 16 = 4 then w.hiW else w32 w.len)
    else none

/-- GLB_THERM.PEAK restarts from the latest sample (R509). -/
def glbReadEff (off : Nat) (s : State) : State :=
  if off = 0x058 then setPwr (fun p => { p with peak := p.temp }) s else s

def execGlbThermRead (s : State) : Host.Outcome State Fault Refusal := live s (regRead 0x058 (glbRead 0x058) (glbReadEff 0x058))

/-- GLB_WIN_CTRL. Enabling the window in DOZE takes the stacked memory out of self-refresh (R500). -/
def writeWinCtrl (v : Word) (s : State) : State :=
  let en := v.getLsbD 0
  let s := setGlb (fun g => { g with winEn := en, winOutside := g.winOutside && !v.getLsbD 1 }) s
  if !en || s.pwr.st != .doze then s
  else
    let up := fun (i : Island) (s : State) => if (islOf s i).st = .gated then startIsland i s else s
    leaveSr 0 (leaveSr 1 (up 25 (up 26 s)))

/-- GLB_PAD: a drive of 3 is reserved. -/
def padOk (n : Nat) : Bool := bits n 1 0 != 3 && bits n 5 4 != 3 && bits n 9 8 != 3

def glbWrite (off : Nat) (v : Word) (s : State) : Option State :=
  let n := v.toNat
  let bad := regRefused off v 1 s
  let b8 := fun (hi lo : Nat) => BitVec.ofNat 8 (bits n hi lo)
  match off with
  | 0x008 => some (setGlb (fun g => { g with
      porst := g.porst && !v.getLsbD 0
      perst := g.perst && !v.getLsbD 1
      flr := g.flr && !v.getLsbD 2 }) s)
  | 0x00C => some (setGlb (fun g => { g with unmLogged := g.unmLogged &&& ~~~b8 7 0 }) s)
  | 0x020 => some (writeWinCtrl v s)
  | 0x024 => some (setGlb (fun g => { g with winLo := v &&& 0xFFE00000 }) s)
  | 0x028 => some (writeWinHi v s)
  | 0x040 => some (writePwrCtrl v s)
  | 0x044 => some (setPwr (fun p => { p with woke := p.woke && !v.getLsbD 4 }) s)
  | 0x048 => some (setPwr (fun p => { p with wake := BitVec.ofNat 64 (setLo p.wake.toNat v) }) s)
  | 0x04C => some (setPwr (fun p => { p with wake := BitVec.ofNat 64 (setHi p.wake.toNat v) }) s)
  | 0x050 => some (writeOppoint v s)
  | 0x054 =>
    let k := bits n 5 0
    some (if k = 0 ∨ 50 < k then bad else setPwr (fun p => { p with settle := k }) s)
  | 0x05C =>
    let k := bits n 7 0
    some (if k < 40 ∨ gradeMax s < (k : Int) then bad else setPwr (fun p => { p with warnAt := k }) s)
  | 0x060 => some (if padOk n then setPwr (fun p => { p with pad := BitVec.ofNat 11 (n &&& 0x777) }) s else bad)
  | 0x064 => some (setPwr (fun p => { p with gpioOut := b8 7 0, gpioOe := b8 15 8 }) s)
  | 0x068 =>
    some (if bits n 9 8 = 3 then bad
      else setPwr (fun p => { p with
        gpioWake := b8 7 0
        gpioFilter := BitVec.ofNat 2 (bits n 9 8)
        gpioNoPull := b8 23 16 }) s)
  | _ =>
    if 0x100 ≤ off ∧ off < 0x180 ∧ off % 4 = 0 then
      let p : Part := Fin.ofNat 8 ((off - 0x100) / 16)
      if off % 16 = 0 then some (setHwin p (fun w => { w with loW := v &&& 0xFFF00000 }) s)
      else if off % 16 = 4 then some (setHwin p (fun w => { w with hiW := v }) s)
      else if off % 16 = 8 then some (writeHwinLen p v s) else none
    else (glbRead off s).map fun _ => s

/-! ### The MSI-X table and its pending bits (R512) -/

def msixRead (off : Nat) (s : State) : Option Word :=
  let e := s.link.msix[(Fin.ofNat 2 ((off - 0x30000) / 16) : Fin 2)]
  if off % 4 ≠ 0 then none
  else some (match off % 16 with
    | 0 => e.lo
    | 4 => e.hi
    | 8 => e.data
    | _ => w32 (b2n e.masked))

def msixWrite (off : Nat) (v : Word) (s : State) : Option State :=
  let k : Fin 2 := Fin.ofNat 2 ((off - 0x30000) / 16)
  let set := fun (f : MsixEntry → MsixEntry) => setLink (fun l => { l with msix := l.msix.set k (f l.msix[k]) }) s
  if off % 4 ≠ 0 then none
  else some (match off % 16 with
    | 0 => set fun e => { e with lo := v &&& 0xFFFFFFFC }
    | 4 => set fun e => { e with hi := v }
    | 8 => set fun e => { e with data := v }
    | _ => set fun e => { e with masked := v.getLsbD 0 })

def pbaRead (off : Nat) (s : State) : Option Word :=
  if off = 0x31000 then some (w32 s.link.pba.toNat) else if off = 0x31004 then some 0 else none

/-! ### BAR0 as a whole (R120, R121) -/

/-- A register's value; `none` is unmapped. -/
def readReg (off : Nat) (s : State) : Option Word :=
  if off % 4 ≠ 0 then none
  else match blockOf off with
    | none => none
    | some .glb => glbRead off s
    | some .brg => brgRead off s
    | some .tbs => (tbsRead off s).orElse fun _ => islRead off s
    | some .bsc => bscRead off s
    | some (.page p) => pageRead p (off - pageOff p) s
    | some .hif => hifRead off s
    | some .evc => evcRead off s
    | some (.dmc d) => dmcRead d off s
    | some .flc => flcRead off s
    | some .str => strRead off s
    | some .prz => przRead off s
    | some .apt => aptRead off s
    | some .ens => ensRead off s
    | some .mir => mirRead off s
    | some .vib => vibRead off s
    | some (.vce n) => vceRead n off s
    | some .msix => msixRead off s
    | some .pba => pbaRead off s

/-- What a read clears or does. -/
def readEff (off : Nat) (s : State) : State :=
  match blockOf off with
  | some .glb => glbReadEff off s
  | some .brg => brgReadEff off s
  | some .tbs => tbsReadEff off s
  | some .bsc => bscReadEff s
  | some (.page p) => pageReadEff p (off - pageOff p) s
  | some .hif => hifReadEff off s
  | some .evc => evcReadEff off s
  | some (.dmc d) => dmcReadEff d off s
  | some .flc => flcReadEff off s
  | some .str => strReadEff off s
  | some .prz => przReadEff off s
  | some .apt => aptReadEff off s
  | some .ens => ensReadEff off s
  | some .mir => mirReadEff off s
  | some (.vce n) => vceReadEff n off s
  | _ => s

/-- A write to a partition page, by offset in the page. -/
def pageWrite (p : Part) (o : Nat) (v : Word) (s : State) : Option State :=
  let g := pageOf s p
  let off := pageOff p + o
  let setS := fun (r : Ring) => setPage p fun g => { g with sq := r }
  let setC := fun (r : Ring) => setPage p fun g => { g with cq := r }
  match o with
  | 0x00 => some (optWrite off v (baseWrite g.sq false v) setS s)
  | 0x04 => some (optWrite off v (baseWrite g.sq true v) setS s)
  | 0x08 => some (writeSqSize p v s)
  | 0x0C => some (writeTail p v s)
  | 0x14 => some (writeSqStatus p v s)
  | 0x20 => some (optWrite off v (baseWrite g.cq false v) setC s)
  | 0x24 => some (optWrite off v (baseWrite g.cq true v) setC s)
  | 0x28 => some (writeCqSize p v s)
  | 0x2C => some (writeCqHead p v s)
  | 0x34 => some (writeCqStatus p v s)
  | 0x44 => some (writePartReset p v s)
  | 0x88 => some (writeUserDram p v s)
  | 0x90 => some (writeUserStrips p v s)
  | 0x98 => some (writeUserSec p v s)
  | 0xB4 => some (writeDefer p v s)
  | _ => (pageRead p o s).map fun _ => s

/-- A register takes a write; `none` is unmapped. -/
def writeReg (off : Nat) (v : Word) (s : State) : Option State :=
  if off % 4 ≠ 0 then none
  else match blockOf off with
    | none => none
    | some .glb => glbWrite off v s
    | some .brg => brgWrite off v s
    | some .tbs => (tbsWrite off v s).orElse fun _ => islWrite off v s
    | some .bsc => bscWrite off s
    | some (.page p) => pageWrite p (off - pageOff p) v s
    | some .hif => hifWrite off v s
    | some .evc => evcWrite off v s
    | some (.dmc d) => dmcWrite d off v s
    | some .flc => flcWrite off v s
    | some .str => strWrite off v s
    | some .prz => przWrite off v s
    | some .apt => aptWrite off v s
    | some .ens => ensWrite off v s
    | some .mir => mirWrite off v s
    | some .vib => vibWrite off v s
    | some (.vce n) => vceWrite n off v s
    | some .msix => msixWrite off v s
    | some .pba => (pbaRead off s).map fun _ => s

/-- The register of a partition page that starts its reset, and the partition. -/
def partResetAt (off : Nat) : Option Part :=
  match blockOf off with
  | some (.page p) => if off = pageOff p + 0x44 then some p else none
  | _ => none

/-- A write of one DW; with a byte enable clear it is an unmapped access (R121). -/
def writeDw (off : Nat) (v : Word) (be : BitVec 4) (s : State) : State :=
  if be ≠ 0xF then regWrite off (unmapped off true) s
  else match partResetAt off with
    | some p => partResetWrite p v s
    | none => regWrite off (fun s => (writeReg off v s).getD (unmapped off true s)) s

/-- REGISTER_WRITE: a request of several DW is applied DW by DW in ascending address order (R121). -/
def registerWrite : Nat → List (Word × BitVec 4) → State → State
  | _, [], s => s
  | off, d :: ds, s => registerWrite (off + 4) ds (writeDw off d.1 d.2 s)

def execRegisterWrite (off : Nat) (ds : List (Word × BitVec 4)) (s : State) : Host.Outcome State Fault Refusal :=
  live s (standingChange (registerWrite off ds))

/-- RC_REGISTER_READ: the registers of `n` DW are read in ascending address order. -/
def registerRead : Nat → Nat → State → State
  | _, 0, s => s
  | off, n + 1, s => registerRead (off + 4) n (regRead off (readReg off) (readEff off) s)

def execRcRegisterRead (off n : Nat) (s : State) : Host.Outcome State Fault Refusal := live s (registerRead off n)

/-- UNMAPPED_BAR0_ACCESS: an access to an offset that no register has. -/
def unmappedAccess (off : Nat) (write : Bool) (s : State) : State :=
  if write then regWrite off (fun s => if (readReg off s).isSome then s else unmapped off true s) s
  else
    let known := (readReg off s).isSome && match blockOf off with
      | some (.page p) => pageOpen s p
      | _ => true
    if known then s else regRead off (readReg off) id s

def execUnmappedBar0Access (off : Nat) (write : Bool) (s : State) : Host.Outcome State Fault Refusal :=
  live s (unmappedAccess off write)

/-! ### BREATH_GRANT (R40) and what grants let go on -/

/-- Reads that only waited for a grant are issued: of commands' input, and of submission entries (R16, R152). -/
def grantedReads (s : State) : State :=
  let s := settleGone ((s.cmds.map (·.id)).foldl (fun s id => if holdsGrant s (.dma (some id)) then askInput id s else s) s)
  (List.range 8).foldl (fun s i => if holdsGrant s (.dma none) then askFetch (Fin.ofNat 8 i) s else s) s

/-- The governor grants, and what only waited for a grant of a port, of BAR2, of input or of output goes on. -/
def grantRow (l : Ledger) (reqs : List BreathReq) (s : State) : State :=
  let s := drainPorts (breathGrant l reqs s)
  let s := grantedReads (if holdsGrant s (.dma none) then serveBar2 s.link.held.length s else s)
  grantedOutput ((List.range 4).foldl (fun s i => replayLimit (Fin.ofNat 4 i) s) s)

def execBreathGrant (l : Ledger) (reqs : List BreathReq) (s : State) : Host.Outcome State Fault Refusal :=
  live s (grantRow l reqs)

/-! ### PROGRESS_QUERY (R197) -/

/-- State code of a command: a GENERATE or other row waits, runs, or has a record that waits for room. -/
def cmdState (s : State) (d : Cmd) : Nat :=
  if d.isDeferred then 1
  else if recordWaits s d then 4
  else if d.phase = .running ∧ (d.op ≠ 0x38 ∨ (setOf s d.id).isSome) then 3 else 2

/-- The progress of a handle's load or swap. -/
def handleProgress (s : State) (h : Handle) : List Byte :=
  let m := s.models[h]
  match jobOn s h with
  | none => payloadOf [(0, 1, modelStCode m.st), (2, 2, if m.st = .swapping then m.front else 0)]
  | some j =>
    let layer := if j.swap then m.front else ((j.shards[j.shard]?).map fun x => badLayerOf x.layer).getD 0
    payloadOf [(0, 1, modelStCode m.st), (1, 1, percentOf j (jobLen s j)), (2, 2, layer), (4, 4, jobOffset s j)]

/-- The flash operation, else the score update. -/
def flashProgress (s : State) : List Byte :=
  match s.flc.op with
  | some o => payloadOf [(0, 1, if o.erase then 2 else 1), (1, 1, opPercent o), (2, 1, o.slot.val),
      (4, 4, if o.erase then 0xC00000 * o.done else 16384 * o.page)]
  | none =>
    if s.bsc.updStep = 0 ∨ !(s.cmds.any fun c => c.op == 0x4A && c.phase == .running) then noPayload
    else payloadOf [(0, 1, 3), (1, 1, s.bsc.updPercent)]

def progress (s : State) (c : Cmd) : List Byte :=
  match c.byte 16 with
  | 1 => payloadOf [(0, 4, (bscStage s).toNat), (4, 1, s.bsc.unit), (5, 2, s.bsc.layer), (8, 4, s.bsc.offset),
      (12, 4, s.bsc.joined.toNat)]
  | 2 => match s.cmds.find? fun d => d.part == c.part && d.id != c.id && d.tag == c.field 18 2 with
    | none => noPayload
    | some d =>
      let n := if isWork d.op ∧ d.admitted then positionOf s d - d.work.start else 0
      payloadOf [(0, 1, cmdState s d), (4, 4, n), (8, 4, queuedNow s d / 1000), (12, 4, d.breathNs / 1000)]
  | 3 => handleProgress s (Fin.ofNat 64 (c.byte 17))
  | _ => flashProgress s

def execProgressQuery (id : Nat) (s : State) : Host.Outcome State Fault Refusal :=
  live s (atAdmission 0x50 id fun c s =>
    let s := if c.byte 16 = 1 then bscReadEff s else s
    finish c.id 0x00 0 false (progress s c) s)

/-! ### JTAG (R498): these rows act while PORST_N is low too -/

/-- An instruction is in the instruction register; `driving`: the balls are driven from the boundary register. -/
def jtagAs (ir : BitVec 8) (driving : Bool) (s : State) : State :=
  { s with jtag := { s.jtag with ir := ir, driving := driving } }

/-- The bypass register captures 0. -/
def jtagBypass (ir : BitVec 8) (s : State) : State := send (.tdo [false]) (jtagAs ir false s)

/-- The boundary register captures the levels at the balls, an open value (log entry 10). -/
def captureBalls (s : State) : State :=
  send (.tdo (bitsOf s.jtag.boundary.length (Config.freeNat s.freeCtr))) { s with freeCtr := s.freeCtr + 1 }

def execIdcode (s : State) : Host.Outcome State Fault Refusal :=
  .next (send (.tdo (bitsOf 32 0x103405A3)) (jtagAs 0x01 false s))

def execSamplePreload (b : List Bool) (s : State) : Host.Outcome State Fault Refusal :=
  let s := captureBalls (jtagAs 0x02 false { s with jtag := { s.jtag with boundary := b } })
  .next s

def execExtest (s : State) : Host.Outcome State Fault Refusal :=
  .next (if s.porst then captureBalls (jtagAs 0x03 true s) else jtagBypass 0x03 s)

def execClamp (s : State) : Host.Outcome State Fault Refusal :=
  .next (if s.porst then send (.tdo [false]) (jtagAs 0x04 true s) else jtagBypass 0x04 s)

def execHighz (s : State) : Host.Outcome State Fault Refusal := .next (jtagBypass 0x05 s)

def execBypass (s : State) : Host.Outcome State Fault Refusal := .next (jtagBypass 0xFF s)

/-- The debug instructions are unlocked (R101). -/
def debugOn (s : State) : Bool := !s.porst && s.bsc.debugOk

/-- A register access from JTAG: the block answers as for the host, and the charge of an unmapped one is P0's. -/
def dbgWrite (off : Nat) (v : Word) (s : State) : State :=
  match blockOf off with
  | none => unmappedFor 0 off true s
  | some b =>
    if !answers s b then s
    else match b with
      | .page p =>
        if !pageOpen s p then unmappedFor 0 off true s
        else if (pageOf s p).resetting && partResetAt off == none then s
        else (writeReg off v s).getD (unmappedFor 0 off true s)
      | _ => (writeReg off v s).getD (unmappedFor 0 off true s)

/-- The data of a read and its effect; the low half of what Capture-DR then holds is open (log entry 10). -/
def dbgRead (off : Nat) (s : State) : State :=
  let take := fun (v : Word) (s : State) =>
    { s with
      freeCtr := s.freeCtr + 1
      jtag := { s.jtag with dr := v ++ w32 (Config.freeNat s.freeCtr) } }
  match blockOf off with
  | none => take 0 (unmappedFor 0 off false s)
  | some b =>
    if !answers s b then take 0 s
    else if (match b with | .page p => !pageOpen s p | _ => false) then take 0 (unmappedFor 0 off false s)
    else match readReg off s with
      | none => take 0 (unmappedFor 0 off false s)
      | some v => take v (readEff off s)

/-- DBG_REG: what was captured leaves, and Update-DR makes the access. -/
def dbgReg (dr : BitVec 64) (s : State) : State :=
  let n := dr.toNat
  let s := send (.tdo (bitsOf 64 s.jtag.dr.toNat)) (jtagAs 0x20 false s)
  if bits n 31 21 ≠ 0 then s
  else if bitAt n 20 then dbgWrite (bits n 19 0) (hi32 n) s else dbgRead (bits n 19 0) s

def execDbgReg (dr : BitVec 64) (s : State) : Host.Outcome State Fault Refusal :=
  .next (if debugOn s then standingChange (dbgReg dr) s else jtagBypass 0x20 s)

def execDbgStat (s : State) : Host.Outcome State Fault Refusal :=
  .next (if debugOn s then
    let s := bscReadEff s
    send (.tdo (bitsOf 32 (bscStage s).toNat)) (jtagAs 0x21 false s)
  else jtagBypass 0x21 s)

end Sys2Proof.Machine
end

