-- ==== Sys2Proof/Machine/Scalar.lean ====
section
/-! DEFINITION. The scalar, predicate, branch, system and memory instructions of Aznil (15). -/

namespace Sys2Proof.Machine

/-! ### ALU (R351 to R353) -/

/-- An ALU operation: the result of a and b, and whether V and Z are set. -/
structure Alu where
  value : Word
  v : Bool
  z : Bool
  deriving DecidableEq, Repr

def plain (x : Word) : Alu := { value := x, v := false, z := false }

/-- The most negative word. -/
def minWord : Word := 0x80000000

def aluNeg (a : Word) : Alu := if a = minWord then { value := minWord, v := true, z := false } else plain (-a)
def aluAbs (a : Word) : Alu :=
  if a = minWord then { value := minWord, v := true, z := false } else plain (if a.toInt < 0 then -a else a)

def aluDivu (a b : Word) : Alu :=
  if b = 0 then { value := 0xFFFFFFFF, v := false, z := true } else plain (w32 (a.toNat / b.toNat))
def aluRemu (a b : Word) : Alu :=
  if b = 0 then { value := a, v := false, z := true } else plain (w32 (a.toNat % b.toNat))
def aluDivs (a b : Word) : Alu :=
  if b = 0 then { value := if 0 ≤ a.toInt then 0xFFFFFFFF else 1, v := false, z := true }
  else if a = minWord ∧ b = 0xFFFFFFFF then { value := minWord, v := true, z := false }
  else plain (BitVec.ofInt 32 (a.toInt.tdiv b.toInt))
def aluRems (a b : Word) : Alu :=
  if b = 0 then { value := a, v := false, z := true }
  else if a = minWord ∧ b = 0xFFFFFFFF then plain 0
  else plain (BitVec.ofInt 32 (a.toInt - b.toInt * a.toInt.tdiv b.toInt))

/-- Shifts by the whole unsigned amount (R353). -/
def aluSll (a b : Word) : Word := if b.toNat < 32 then a <<< b.toNat else 0
def aluSrl (a b : Word) : Word := if b.toNat < 32 then a >>> b.toNat else 0
def aluSra (a b : Word) : Word :=
  if b.toNat < 32 then a.sshiftRight b.toNat else if a.toInt < 0 then 0xFFFFFFFF else 0

/-- Leading zero bits, and one bits. -/
def clzWord (a : Word) : Word := w32 (if a = 0 then 32 else 31 - Nat.log2 a.toNat)
def popWord (a : Word) : Word := w32 ((bitsOf 32 a.toNat).filter (·)).length

/-- An instruction of the ALU map. -/
def alu (n : Voice) (minor : Nat) (f : Word → Word → Alu) (s : State) : State :=
  insn n 0x01 minor (fun w s =>
    let r := f (sReg s n (fA w)) (sReg s n (fB w))
    .next (setZ n r.z (setV n r.v (setReg n (fD w) r.value s)))) s

def execAdd (n : Voice) (s : State) : Host.Outcome State Fault Refusal :=
  live s (alu n 0x00 (fun a b => plain (a + b)))
def execSub (n : Voice) (s : State) : Host.Outcome State Fault Refusal :=
  live s (alu n 0x01 (fun a b => plain (a - b)))
def execAnd (n : Voice) (s : State) : Host.Outcome State Fault Refusal :=
  live s (alu n 0x02 (fun a b => plain (a &&& b)))
def execOr (n : Voice) (s : State) : Host.Outcome State Fault Refusal :=
  live s (alu n 0x03 (fun a b => plain (a ||| b)))
def execXor (n : Voice) (s : State) : Host.Outcome State Fault Refusal :=
  live s (alu n 0x04 (fun a b => plain (a ^^^ b)))
def execNot (n : Voice) (s : State) : Host.Outcome State Fault Refusal :=
  live s (alu n 0x05 (fun a _ => plain (~~~a)))
def execSll (n : Voice) (s : State) : Host.Outcome State Fault Refusal :=
  live s (alu n 0x08 (fun a b => plain (aluSll a b)))
def execSrl (n : Voice) (s : State) : Host.Outcome State Fault Refusal :=
  live s (alu n 0x09 (fun a b => plain (aluSrl a b)))
def execSra (n : Voice) (s : State) : Host.Outcome State Fault Refusal :=
  live s (alu n 0x0A (fun a b => plain (aluSra a b)))
def execMul (n : Voice) (s : State) : Host.Outcome State Fault Refusal :=
  live s (alu n 0x10 (fun a b => plain (a * b)))
def execMulhu (n : Voice) (s : State) : Host.Outcome State Fault Refusal :=
  live s (alu n 0x11 (fun a b => plain (w32 (a.toNat * b.toNat / 2 ^ 32))))
def execMulhs (n : Voice) (s : State) : Host.Outcome State Fault Refusal :=
  live s (alu n 0x12 (fun a b => plain (BitVec.ofInt 32 (a.toInt * b.toInt / 2 ^ 32))))
def execDivu (n : Voice) (s : State) : Host.Outcome State Fault Refusal :=
  live s (alu n 0x14 aluDivu)
def execDivs (n : Voice) (s : State) : Host.Outcome State Fault Refusal :=
  live s (alu n 0x15 aluDivs)
def execRemu (n : Voice) (s : State) : Host.Outcome State Fault Refusal :=
  live s (alu n 0x16 aluRemu)
def execRems (n : Voice) (s : State) : Host.Outcome State Fault Refusal :=
  live s (alu n 0x17 aluRems)
def execMins (n : Voice) (s : State) : Host.Outcome State Fault Refusal :=
  live s (alu n 0x18 (fun a b => plain (if b.toInt < a.toInt then b else a)))
def execMaxs (n : Voice) (s : State) : Host.Outcome State Fault Refusal :=
  live s (alu n 0x19 (fun a b => plain (if a.toInt < b.toInt then b else a)))
def execMinu (n : Voice) (s : State) : Host.Outcome State Fault Refusal :=
  live s (alu n 0x1A (fun a b => plain (if b.toNat < a.toNat then b else a)))
def execMaxu (n : Voice) (s : State) : Host.Outcome State Fault Refusal :=
  live s (alu n 0x1B (fun a b => plain (if a.toNat < b.toNat then b else a)))
def execNeg (n : Voice) (s : State) : Host.Outcome State Fault Refusal :=
  live s (alu n 0x20 (fun a _ => aluNeg a))
def execAbs (n : Voice) (s : State) : Host.Outcome State Fault Refusal :=
  live s (alu n 0x21 (fun a _ => aluAbs a))
def execClz (n : Voice) (s : State) : Host.Outcome State Fault Refusal :=
  live s (alu n 0x22 (fun a _ => plain (clzWord a)))
def execPopc (n : Voice) (s : State) : Host.Outcome State Fault Refusal :=
  live s (alu n 0x23 (fun a _ => plain (popWord a)))

/-! ### Immediates (R355) -/

/-- An immediate instruction: the result of s[rs1] and the word. -/
def immediate (n : Voice) (major : Nat) (f : Word → Nat → Word) (s : State) : State :=
  insn n major 0 (fun w s => .next (setReg n (fD w) (f (sReg s n (fA w)) w) s)) s

def execAddi (n : Voice) (s : State) : Host.Outcome State Fault Refusal :=
  live s (immediate n 0x04 (fun a w => a + BitVec.ofInt 32 (signed 14 (imm14 w))))
def execAndi (n : Voice) (s : State) : Host.Outcome State Fault Refusal :=
  live s (immediate n 0x05 (fun a w => a &&& w32 (imm14 w)))
def execOri (n : Voice) (s : State) : Host.Outcome State Fault Refusal :=
  live s (immediate n 0x06 (fun a w => a ||| w32 (imm14 w)))
def execXori (n : Voice) (s : State) : Host.Outcome State Fault Refusal :=
  live s (immediate n 0x07 (fun a w => a ^^^ w32 (imm14 w)))
def execSlli (n : Voice) (s : State) : Host.Outcome State Fault Refusal :=
  live s (immediate n 0x08 (fun a w => a <<< bits w 4 0))
def execSrli (n : Voice) (s : State) : Host.Outcome State Fault Refusal :=
  live s (immediate n 0x09 (fun a w => a >>> bits w 4 0))
def execSrai (n : Voice) (s : State) : Host.Outcome State Fault Refusal :=
  live s (immediate n 0x0A (fun a w => a.sshiftRight (bits w 4 0)))
def execLui (n : Voice) (s : State) : Host.Outcome State Fault Refusal :=
  live s (immediate n 0x0B (fun _ w => w32 (bits w 17 0 * 2 ^ 14)))

/-! ### Predicates (R356, R357) -/

/-- The condition of CMP. -/
def condHolds (cond : Nat) (a b : Word) : Bool :=
  match cond with
  | 0 => a == b
  | 1 => a != b
  | 2 => a.toInt < b.toInt
  | 3 => b.toInt ≤ a.toInt
  | 4 => a.toNat < b.toNat
  | _ => b.toNat ≤ a.toNat

def cmpInsn (n : Voice) (s : State) : State :=
  insn n 0x02 0 (fun w s =>
    .next (setP n (bits w 21 20) (condHolds (bits w 9 6) (sReg s n (fA w)) (sReg s n (fB w))) s)) s

def execCmp (n : Voice) (s : State) : Host.Outcome State Fault Refusal := live s (cmpInsn n)

/-- PLOG: bit 2 × p[pa] + p[pb] of the truth table. -/
def plogInsn (n : Voice) (s : State) : State :=
  insn n 0x03 0 (fun w s =>
    let p := (voiceOf s n).p
    let i := 2 * b2n (p.getLsbD (bits w 19 18)) + b2n (p.getLsbD (bits w 17 16))
    .next (setP n (bits w 21 20) (bitAt (bits w 15 12) i) s)) s

def execPlog (n : Voice) (s : State) : Host.Outcome State Fault Refusal := live s (plogInsn n)

/-! ### Branches and system instructions (R358 to R360, R367) -/

/-- A target, mod 2^24. -/
def target (pc : Nat) (off : Int) : Nat := (((pc : Int) + off) % 2 ^ 24).toNat

def execBr (n : Voice) (s : State) : Host.Outcome State Fault Refusal :=
  live s (insn n 0x0C 0 fun w s => .jump s (target (voiceOf s n).pc (signed 22 (bits w 21 0))))

def execJal (n : Voice) (s : State) : Host.Outcome State Fault Refusal :=
  live s (insn n 0x0D 0 fun w s =>
    let pc := (voiceOf s n).pc
    .jump (setReg n (fD w) (w32 (pc + 1)) s) (target pc (signed 18 (bits w 17 0))))

def execSysNop (n : Voice) (s : State) : Host.Outcome State Fault Refusal := live s (insn n 0x0E 0x00 fun _ s => .next s)

/-- STOP ends the voice's run; a barrier counts it as arrived (R388), and the KERNEL completes DONE with its last
voice (R193). -/
def stopVoice (n : Voice) (s : State) : State :=
  let s := toIdle n (follow n (setVoice n (fun v => { v with stopped := true }) s))
  let s := releaseBar n (signalDone n s)
  match (voiceOf s n).run with
  | .set c _ => match setOf s c with
    | some k => if k.voices.all fun v => (voiceOf s v).stopped then endSet k 0 0 0xFF false [] s else s
    | none => s
  | _ => s

def execStop (n : Voice) (s : State) : Host.Outcome State Fault Refusal :=
  live s (insn n 0x0E 0x01 fun _ s => .wait (stopVoice n s))

def execJalr (n : Voice) (s : State) : Host.Outcome State Fault Refusal :=
  live s (insn n 0x0E 0x02 fun w s =>
    .jump (setReg n (fD w) (w32 ((voiceOf s n).pc + 1)) s) (bits (sReg s n (fA w)).toNat 23 0))

/-- RDSR's values (R360). In a pair the leading voice is the even one, so its number is read. -/
def special (s : State) (n : Voice) (sel : Nat) : Word :=
  let v := voiceOf s n
  match sel with
  | 0 => w32 v.p.toNat
  | 1 => w32 (4 * b2n v.v + 2 * b2n v.z + b2n v.sat)
  | 2 => w32 n.val
  | 3 => lo32 s.tbs.now
  | _ => hi32 s.tbs.now

def execRdsr (n : Voice) (s : State) : Host.Outcome State Fault Refusal :=
  live s (insn n 0x0E 0x03 fun w s => .next (setReg n (fD w) (special s n (bits w 13 10)) s))

def execWrpr (n : Voice) (s : State) : Host.Outcome State Fault Refusal :=
  live s (insn n 0x0E 0x04 fun w s =>
    let x := sReg s n (fA w)
    .next (setVoice n (fun v => { v with p := BitVec.ofNat 4 x.toNat }) s))

/-! ### Loads and stores (R361 to R366) -/

/-- The effective address of a load or store of z bytes. -/
def effAddr (s : State) (n : Voice) (w z : Nat) : Nat :=
  addr40 ((baseOf s n (fA w) (bitAt w 13) : Int) + signed 13 (bits w 12 0) * z) z

def loadInsn (n : Voice) (major z : Nat) (ext : Nat → Word) (ecc : Ecc) (s : State) : State :=
  insn n major 0 (fun w s =>
    loadBytes n (effAddr s n w z) z ecc (fun bs s => .next (setReg n (fD w) (ext (leNat bs)) s)) s) s

def storeInsn (n : Voice) (major z : Nat) (s : State) : State :=
  insn n major 0 (fun w s =>
    storeBytes n (effAddr s n w z) (toLe z (sReg s n (fD w)).toNat) .next s) s

def execLdb (n : Voice) (ecc : Ecc) (s : State) : Host.Outcome State Fault Refusal :=
  live s (loadInsn n 0x10 1 (fun x => BitVec.ofInt 32 (signed 8 x)) ecc)
def execLdbu (n : Voice) (ecc : Ecc) (s : State) : Host.Outcome State Fault Refusal :=
  live s (loadInsn n 0x11 1 w32 ecc)
def execLdh (n : Voice) (ecc : Ecc) (s : State) : Host.Outcome State Fault Refusal :=
  live s (loadInsn n 0x12 2 (fun x => BitVec.ofInt 32 (signed 16 x)) ecc)
def execLdhu (n : Voice) (ecc : Ecc) (s : State) : Host.Outcome State Fault Refusal :=
  live s (loadInsn n 0x13 2 w32 ecc)
def execLdw (n : Voice) (ecc : Ecc) (s : State) : Host.Outcome State Fault Refusal :=
  live s (loadInsn n 0x14 4 w32 ecc)
def execStb (n : Voice) (s : State) : Host.Outcome State Fault Refusal :=
  live s (storeInsn n 0x18 1)
def execSth (n : Voice) (s : State) : Host.Outcome State Fault Refusal :=
  live s (storeInsn n 0x19 2)
def execStw (n : Voice) (s : State) : Host.Outcome State Fault Refusal :=
  live s (storeInsn n 0x1A 4)

end Sys2Proof.Machine
end

