-- ==== Sys2Proof/Machine/Dispatch.lean ====
section
/-! DEFINITION. The dispatch: one arm per constructor of Instr, one direct call of its meaning. -/

namespace Sys2Proof.Machine

def exec (i : Instr) (s : State) : Host.Outcome State Fault Refusal :=
  match i with
  -- start-up and the score (04)
  | .porstNAssert => Sys2Proof.Machine.execPorstNAssert s
  | .porstNRelease bootSel => Sys2Proof.Machine.execPorstNRelease bootSel s
  | .otpLoadComplete => Sys2Proof.Machine.execOtpLoadComplete s
  | .scoreHeaderRead sfdp header => Sys2Proof.Machine.execScoreHeaderRead sfdp header s
  | .scoreCopyReadEnd copy => Sys2Proof.Machine.execScoreCopyReadEnd copy s
  | .scoreVerifyEnd => Sys2Proof.Machine.execScoreVerifyEnd s
  | .islandsExit => Sys2Proof.Machine.execIslandsExit s
  | .channelTrainAttemptEnd c failedStep ms => Sys2Proof.Machine.execChannelTrainAttemptEnd c failedStep ms s
  | .earlyServiceStart => Sys2Proof.Machine.execEarlyServiceStart s
  | .scoreUpdateCopyWritten readBack => Sys2Proof.Machine.execScoreUpdateCopyWritten readBack s
  -- breath (02)
  | .breathGrant led reqs => Sys2Proof.Machine.execBreathGrant led reqs s
  | .leaseExpiry id => Sys2Proof.Machine.execLeaseExpiry id s
  | .breathLimAssert => Sys2Proof.Machine.execBreathLimAssert s
  | .breathLimRelease => Sys2Proof.Machine.execBreathLimRelease s
  | .overCurrentSample core io => Sys2Proof.Machine.execOverCurrentSample core io s
  | .brgStatusWrite v => Sys2Proof.Machine.execBrgStatusWrite v s
  | .brgCeilWrite v => Sys2Proof.Machine.execBrgCeilWrite v s
  | .brgCeilLowWrite v => Sys2Proof.Machine.execBrgCeilLowWrite v s
  | .brgPeakRead => Sys2Proof.Machine.execBrgPeakRead s
  -- clocks and islands (03)
  | .clockMonitorWindow counts => Sys2Proof.Machine.execClockMonitorWindow counts s
  | .aonClockCheckWindow count => Sys2Proof.Machine.execAonClockCheckWindow count s
  | .refclk38Loss => Sys2Proof.Machine.execRefclk38Loss s
  | .islFaultWrite v => Sys2Proof.Machine.execIslFaultWrite v s
  | .islandGate n collapse => Sys2Proof.Machine.execIslandGate n collapse s
  | .islandWakeComplete n => Sys2Proof.Machine.execIslandWakeComplete n s
  -- time base (03)
  | .tbsTick => Sys2Proof.Machine.execTbsTick s
  | .downbeatCrossing => Sys2Proof.Machine.execDownbeatCrossing s
  | .downbeatOutPulseEnd => Sys2Proof.Machine.execDownbeatOutPulseEnd s
  | .downbeatInCapture => Sys2Proof.Machine.execDownbeatInCapture s
  | .alarmFire a => Sys2Proof.Machine.execAlarmFire a s
  | .tbsNowLoRead => Sys2Proof.Machine.execTbsNowLoRead s
  | .tbsLoad v => Sys2Proof.Machine.execTbsLoad v s
  | .tbsAlarmHiWrite a v => Sys2Proof.Machine.execTbsAlarmHiWrite a v s
  | .downbeatMissed => Sys2Proof.Machine.execDownbeatMissed s
  -- host link (05)
  | .configRequest req => Sys2Proof.Machine.execConfigRequest req s
  | .hostLinkReset kind => Sys2Proof.Machine.execHostLinkReset kind s
  | .flr => Sys2Proof.Machine.execFlr s
  | .flrComplete => Sys2Proof.Machine.execFlrComplete s
  | .hifPartResetWrite p v => Sys2Proof.Machine.execHifPartResetWrite p v s
  | .partResetComplete p => Sys2Proof.Machine.execPartResetComplete p s
  | .unmappedBar0Access offset write => Sys2Proof.Machine.execUnmappedBar0Access offset write s
  | .bar2Read offset len => Sys2Proof.Machine.execBar2Read offset len s
  | .bar2Write offset data => Sys2Proof.Machine.execBar2Write offset data s
  | .glbHwinLenWrite p v => Sys2Proof.Machine.execGlbHwinLenWrite p v s
  | .glbWinBaseHiWrite v => Sys2Proof.Machine.execGlbWinBaseHiWrite v s
  | .dmaReadCompletion id data => Sys2Proof.Machine.execDmaReadCompletion id data s
  | .dmaReadFailure target why => Sys2Proof.Machine.execDmaReadFailure target why s
  | .ltrMessage => Sys2Proof.Machine.execLtrMessage s
  | .msixHeldSend vector => Sys2Proof.Machine.execMsixHeldSend vector s
  -- rings, quotas and queues (06, 08)
  | .hifSqTailWrite p v => Sys2Proof.Machine.execHifSqTailWrite p v s
  | .submissionFetch p entry => Sys2Proof.Machine.execSubmissionFetch p entry s
  | .hifCqHeadWrite p v => Sys2Proof.Machine.execHifCqHeadWrite p v s
  | .hifSqSizeWrite p v => Sys2Proof.Machine.execHifSqSizeWrite p v s
  | .hifCqSizeWrite p v => Sys2Proof.Machine.execHifCqSizeWrite p v s
  | .hifSqStatusWrite p v => Sys2Proof.Machine.execHifSqStatusWrite p v s
  | .completionRecordWrite p => Sys2Proof.Machine.execCompletionRecordWrite p s
  | .hifQDramUserWrite p v => Sys2Proof.Machine.execHifQDramUserWrite p v s
  | .hifQStripsWrite p v => Sys2Proof.Machine.execHifQStripsWrite p v s
  | .hifQSectionUseWrite p v => Sys2Proof.Machine.execHifQSectionUseWrite p v s
  | .hifEvqHeadWrite v => Sys2Proof.Machine.execHifEvqHeadWrite v s
  | .hifErrqSizeWrite v => Sys2Proof.Machine.execHifErrqSizeWrite v s
  | .hifErrqLostRead => Sys2Proof.Machine.execHifErrqLostRead s
  | .hifDeferTotalRead => Sys2Proof.Machine.execHifDeferTotalRead s
  | .errorRecordWrite => Sys2Proof.Machine.execErrorRecordWrite s
  -- host commands (07); the operand names the fetched command that is carried out
  | .nop id => Sys2Proof.Machine.execNop id s
  | .fence id => Sys2Proof.Machine.execFence id s
  | .modelLoad id => Sys2Proof.Machine.execModelLoad id s
  | .modelSwap id => Sys2Proof.Machine.execModelSwap id s
  | .modelEvict id => Sys2Proof.Machine.execModelEvict id s
  | .modelPin id => Sys2Proof.Machine.execModelPin id s
  | .modelQuery id => Sys2Proof.Machine.execModelQuery id s
  | .prefill id => Sys2Proof.Machine.execPrefill id s
  | .generate id => Sys2Proof.Machine.execGenerate id s
  | .scoreTokens id => Sys2Proof.Machine.execScoreTokens id s
  | .embed id => Sys2Proof.Machine.execEmbed id s
  | .hush id => Sys2Proof.Machine.execHush id s
  | .wake id => Sys2Proof.Machine.execWake id s
  | .contextDestroy id => Sys2Proof.Machine.execContextDestroy id s
  | .maskLoad id => Sys2Proof.Machine.execMaskLoad id s
  | .maskBind id => Sys2Proof.Machine.execMaskBind id s
  | .kernel id => Sys2Proof.Machine.execKernel id s
  | .abort id => Sys2Proof.Machine.execAbort id s
  | .flashWriteImage id => Sys2Proof.Machine.execFlashWriteImage id s
  | .flashEraseSlot id => Sys2Proof.Machine.execFlashEraseSlot id s
  | .scoreUpdate id => Sys2Proof.Machine.execScoreUpdate id s
  | .progressQuery id => Sys2Proof.Machine.execProgressQuery id s
  | .deferredStart id => Sys2Proof.Machine.execDeferredStart id s
  | .patienceExpiry id => Sys2Proof.Machine.execPatienceExpiry id s
  -- passes (01, 17)
  | .passStart m pacing plan probes => Sys2Proof.Machine.execPassStart m pacing plan probes s
  | .passEnd m results => Sys2Proof.Machine.execPassEnd m results s
  | .autoHush p ctx => Sys2Proof.Machine.execAutoHush p ctx s
  -- streaming, repair and swap (12, 13)
  | .streamerBurstComplete strip addr len ecc last => Sys2Proof.Machine.execStreamerBurstComplete strip addr len ecc last s
  | .repairEnd => Sys2Proof.Machine.execRepairEnd s
  | .prismBlockDecoded strip addr lastOfTensor lastOfStrip checkerDiff => Sys2Proof.Machine.execPrismBlockDecoded strip addr lastOfTensor lastOfStrip checkerDiff s
  | .swapVerifyEnd => Sys2Proof.Machine.execSwapVerifyEnd s
  | .swapWriteStart => Sys2Proof.Machine.execSwapWriteStart s
  | .swapShardWritten => Sys2Proof.Machine.execSwapShardWritten s
  | .swapRevertEnd => Sys2Proof.Machine.execSwapRevertEnd s
  -- flash (11)
  | .flashInitComplete failed copies factoryBad => Sys2Proof.Machine.execFlashInitComplete failed copies factoryBad s
  | .flashPageRead block page codewords => Sys2Proof.Machine.execFlashPageRead block page codewords s
  | .flashPageProgrammed failed => Sys2Proof.Machine.execFlashPageProgrammed failed s
  | .flashBlockErased failed => Sys2Proof.Machine.execFlashBlockErased failed s
  | .flashWriteCheckPassEnd => Sys2Proof.Machine.execFlashWriteCheckPassEnd s
  | .flashPatrol reads => Sys2Proof.Machine.execFlashPatrol reads s
  | .blockRefreshComplete uncorrectable programFailed => Sys2Proof.Machine.execBlockRefreshComplete uncorrectable programFailed s
  -- stacked memory (10)
  | .dmcRequestAccept c req => Sys2Proof.Machine.execDmcRequestAccept c req s
  | .dmcRequestIssue c isWrite index ecc => Sys2Proof.Machine.execDmcRequestIssue c isWrite index ecc s
  | .rowIdleClose c bank => Sys2Proof.Machine.execRowIdleClose c bank s
  | .refreshSlot d => Sys2Proof.Machine.execRefreshSlot d s
  | .mr4Poll d values => Sys2Proof.Machine.execMr4Poll d values s
  | .dqsTrack c driftMilliUi => Sys2Proof.Machine.execDqsTrack c driftMilliUi s
  | .retrainComplete c ok => Sys2Proof.Machine.execRetrainComplete c ok s
  | .scrubRead d ecc => Sys2Proof.Machine.execScrubRead d ecc s
  | .selfRefreshExitComplete d => Sys2Proof.Machine.execSelfRefreshExitComplete d s
  | .hazardApply c => Sys2Proof.Machine.execHazardApply c s
  | .dmcCntSnap d => Sys2Proof.Machine.execDmcCntSnap d s
  | .dmcCntClear d => Sys2Proof.Machine.execDmcCntClear d s
  | .sectionScrub m offset ecc => Sys2Proof.Machine.execSectionScrub m offset ecc s
  -- event controller (09)
  | .eventSourcePending n => Sys2Proof.Machine.execEventSourcePending n s
  | .eventRecordWrite => Sys2Proof.Machine.execEventRecordWrite s
  | .evcClaimRead => Sys2Proof.Machine.execEvcClaimRead s
  | .evcDoneWrite v => Sys2Proof.Machine.execEvcDoneWrite v s
  | .evcArmedWrite half v => Sys2Proof.Machine.execEvcArmedWrite half v s
  | .evcSoftSetWrite v => Sys2Proof.Machine.execEvcSoftSetWrite v s
  | .evcLatchWrite half v => Sys2Proof.Machine.execEvcLatchWrite half v s
  | .evcCountRead n => Sys2Proof.Machine.execEvcCountRead n s
  -- KERNEL sets (14)
  | .preemptSaveComplete id => Sys2Proof.Machine.execPreemptSaveComplete id s
  | .kernelRestore id => Sys2Proof.Machine.execKernelRestore id s
  | .kernelSetStart id probes => Sys2Proof.Machine.execKernelSetStart id probes s
  | .kernelTimeout id => Sys2Proof.Machine.execKernelTimeout id s
  | .vceCtrlWrite n v => Sys2Proof.Machine.execVceCtrlWrite n v s
  -- Aznil, scalar and memory (15); voice n issues the word at its PC, which is this instruction
  | .add n => Sys2Proof.Machine.execAdd n s
  | .sub n => Sys2Proof.Machine.execSub n s
  | .and n => Sys2Proof.Machine.execAnd n s
  | .or n => Sys2Proof.Machine.execOr n s
  | .xor n => Sys2Proof.Machine.execXor n s
  | .not n => Sys2Proof.Machine.execNot n s
  | .sll n => Sys2Proof.Machine.execSll n s
  | .srl n => Sys2Proof.Machine.execSrl n s
  | .sra n => Sys2Proof.Machine.execSra n s
  | .mul n => Sys2Proof.Machine.execMul n s
  | .mulhu n => Sys2Proof.Machine.execMulhu n s
  | .mulhs n => Sys2Proof.Machine.execMulhs n s
  | .divu n => Sys2Proof.Machine.execDivu n s
  | .divs n => Sys2Proof.Machine.execDivs n s
  | .remu n => Sys2Proof.Machine.execRemu n s
  | .rems n => Sys2Proof.Machine.execRems n s
  | .mins n => Sys2Proof.Machine.execMins n s
  | .maxs n => Sys2Proof.Machine.execMaxs n s
  | .minu n => Sys2Proof.Machine.execMinu n s
  | .maxu n => Sys2Proof.Machine.execMaxu n s
  | .neg n => Sys2Proof.Machine.execNeg n s
  | .abs n => Sys2Proof.Machine.execAbs n s
  | .clz n => Sys2Proof.Machine.execClz n s
  | .popc n => Sys2Proof.Machine.execPopc n s
  | .cmp n => Sys2Proof.Machine.execCmp n s
  | .plog n => Sys2Proof.Machine.execPlog n s
  | .addi n => Sys2Proof.Machine.execAddi n s
  | .andi n => Sys2Proof.Machine.execAndi n s
  | .ori n => Sys2Proof.Machine.execOri n s
  | .xori n => Sys2Proof.Machine.execXori n s
  | .slli n => Sys2Proof.Machine.execSlli n s
  | .srli n => Sys2Proof.Machine.execSrli n s
  | .srai n => Sys2Proof.Machine.execSrai n s
  | .lui n => Sys2Proof.Machine.execLui n s
  | .br n => Sys2Proof.Machine.execBr n s
  | .jal n => Sys2Proof.Machine.execJal n s
  | .sysNop n => Sys2Proof.Machine.execSysNop n s
  | .stop n => Sys2Proof.Machine.execStop n s
  | .jalr n => Sys2Proof.Machine.execJalr n s
  | .rdsr n => Sys2Proof.Machine.execRdsr n s
  | .wrpr n => Sys2Proof.Machine.execWrpr n s
  | .ldb n ecc => Sys2Proof.Machine.execLdb n ecc s
  | .ldbu n ecc => Sys2Proof.Machine.execLdbu n ecc s
  | .ldh n ecc => Sys2Proof.Machine.execLdh n ecc s
  | .ldhu n ecc => Sys2Proof.Machine.execLdhu n ecc s
  | .ldw n ecc => Sys2Proof.Machine.execLdw n ecc s
  | .stb n => Sys2Proof.Machine.execStb n s
  | .sth n => Sys2Proof.Machine.execSth n s
  | .stw n => Sys2Proof.Machine.execStw n s
  -- Aznil, tile, gather and synchronisation (16)
  | .tcfg n => Sys2Proof.Machine.execTcfg n s
  | .trel n => Sys2Proof.Machine.execTrel n s
  | .tld n ecc => Sys2Proof.Machine.execTld n ecc s
  | .tst n => Sys2Proof.Machine.execTst n s
  | .tmma n cmp => Sys2Proof.Machine.execTmma n cmp s
  | .tsacc n => Sys2Proof.Machine.execTsacc n s
  | .tout n ecc => Sys2Proof.Machine.execTout n ecc s
  | .tewAdd n => Sys2Proof.Machine.execTewAdd n s
  | .tewSub n => Sys2Proof.Machine.execTewSub n s
  | .tewMul n => Sys2Proof.Machine.execTewMul n s
  | .tewMax n => Sys2Proof.Machine.execTewMax n s
  | .tewMin n => Sys2Proof.Machine.execTewMin n s
  | .tewAddr n => Sys2Proof.Machine.execTewAddr n s
  | .tewMulr n => Sys2Proof.Machine.execTewMulr n s
  | .tewAddc n => Sys2Proof.Machine.execTewAddc n s
  | .tewMulc n => Sys2Proof.Machine.execTewMulc n s
  | .tewCvt n => Sys2Proof.Machine.execTewCvt n s
  | .tewExp n => Sys2Proof.Machine.execTewExp n s
  | .tewRsqrt n => Sys2Proof.Machine.execTewRsqrt n s
  | .tewRecip n => Sys2Proof.Machine.execTewRecip n s
  | .tewSilu n => Sys2Proof.Machine.execTewSilu n s
  | .rsum n => Sys2Proof.Machine.execRsum n s
  | .rsumsq n => Sys2Proof.Machine.execRsumsq n s
  | .rmax n => Sys2Proof.Machine.execRmax n s
  | .tq n => Sys2Proof.Machine.execTq n s
  | .tdq n ecc => Sys2Proof.Machine.execTdq n ecc s
  | .scld n ecc => Sys2Proof.Machine.execScld n ecc s
  | .trda n => Sys2Proof.Machine.execTrda n s
  | .gather n ecc => Sys2Proof.Machine.execGather n ecc s
  | .scatter n => Sys2Proof.Machine.execScatter n s
  | .bar n => Sys2Proof.Machine.execBar n s
  | .waitev n => Sys2Proof.Machine.execWaitev n s
  | .setev n => Sys2Proof.Machine.execSetev n s
  | .brthHold n => Sys2Proof.Machine.execBrthHold n s
  | .brthRelease n => Sys2Proof.Machine.execBrthRelease n s
  -- mirror mode (19)
  | .mirrorProbe k pattern rep => Sys2Proof.Machine.execMirrorProbe k pattern rep s
  | .mirRequalWrite v => Sys2Proof.Machine.execMirRequalWrite v s
  | .mirrorSelftestEnd k passed => Sys2Proof.Machine.execMirrorSelftestEnd k passed s
  | .cantorMismatch => Sys2Proof.Machine.execCantorMismatch s
  | .aonCopyOutvoted group copy => Sys2Proof.Machine.execAonCopyOutvoted group copy s
  -- ensemble link (18)
  | .portDetect n answered => Sys2Proof.Machine.execPortDetect n answered s
  | .portEqualizeEnd n ok => Sys2Proof.Machine.execPortEqualizeEnd n ok s
  | .portAlignEnd n lanes => Sys2Proof.Machine.execPortAlignEnd n lanes s
  | .portIdentEnd n delay => Sys2Proof.Machine.execPortIdentEnd n delay s
  | .portDownExpiry n => Sys2Proof.Machine.execPortDownExpiry n s
  | .ensRetrain v => Sys2Proof.Machine.execEnsRetrain v s
  | .data n pkt => Sys2Proof.Machine.execData n pkt s
  | .join n pkt => Sys2Proof.Machine.execJoin n pkt s
  | .reach n pkt => Sys2Proof.Machine.execReach n pkt s
  | .reserve n pkt => Sys2Proof.Machine.execReserve n pkt s
  | .reserveReply n pkt => Sys2Proof.Machine.execReserveReply n pkt s
  | .release n pkt => Sys2Proof.Machine.execRelease n pkt s
  | .commit n pkt => Sys2Proof.Machine.execCommit n pkt s
  | .rollback n pkt => Sys2Proof.Machine.execRollback n pkt s
  | .stageDone n pkt => Sys2Proof.Machine.execStageDone n pkt s
  | .fault n pkt => Sys2Proof.Machine.execFault n pkt s
  | .destroy n pkt => Sys2Proof.Machine.execDestroy n pkt s
  | .downbeat n pkt residence => Sys2Proof.Machine.execDownbeat n pkt residence s
  | .keepalive n pkt => Sys2Proof.Machine.execKeepalive n pkt s
  | .ack n pkt => Sys2Proof.Machine.execAck n pkt s
  | .ident n pkt => Sys2Proof.Machine.execIdent n pkt s
  | .keepaliveIdleTimer n => Sys2Proof.Machine.execKeepaliveIdleTimer n s
  | .ackTimer n => Sys2Proof.Machine.execAckTimer n s
  | .replayTimeout n => Sys2Proof.Machine.execReplayTimeout n s
  | .linkSilence n => Sys2Proof.Machine.execLinkSilence n s
  | .ensDbinLoRead => Sys2Proof.Machine.execEnsDbinLoRead s
  -- vibrato (20)
  | .vibUnlockWrite v => Sys2Proof.Machine.execVibUnlockWrite v s
  | .vibGo => Sys2Proof.Machine.execVibGo s
  | .vibStop => Sys2Proof.Machine.execVibStop s
  | .vibLock => Sys2Proof.Machine.execVibLock s
  | .vibDurationExpiry => Sys2Proof.Machine.execVibDurationExpiry s
  -- power, AVSBus, thermal, GPIO (21)
  | .glbOppointWrite v => Sys2Proof.Machine.execGlbOppointWrite v s
  | .avsTransactionEnd ok => Sys2Proof.Machine.execAvsTransactionEnd ok s
  | .avsSettleExpiry => Sys2Proof.Machine.execAvsSettleExpiry s
  | .thermalSample temps => Sys2Proof.Machine.execThermalSample temps s
  | .glbThermRead => Sys2Proof.Machine.execGlbThermRead s
  | .dozeEntry => Sys2Proof.Machine.execDozeEntry s
  | .restRequest v => Sys2Proof.Machine.execRestRequest v s
  | .restWakeRequest v => Sys2Proof.Machine.execRestWakeRequest v s
  | .restWake w => Sys2Proof.Machine.execRestWake w s
  | .restExitComplete => Sys2Proof.Machine.execRestExitComplete s
  | .gpioChange n level => Sys2Proof.Machine.execGpioChange n level s
  -- JTAG (21 R498)
  | .idcode => Sys2Proof.Machine.execIdcode s
  | .samplePreload boundary => Sys2Proof.Machine.execSamplePreload boundary s
  | .extest => Sys2Proof.Machine.execExtest s
  | .clamp => Sys2Proof.Machine.execClamp s
  | .highz => Sys2Proof.Machine.execHighz s
  | .dbgReg dr => Sys2Proof.Machine.execDbgReg dr s
  | .dbgStat => Sys2Proof.Machine.execDbgStat s
  | .bypass => Sys2Proof.Machine.execBypass s
  -- the remaining rows of the table
  | .registerWrite offset dws => Sys2Proof.Machine.execRegisterWrite offset dws s
  | .linkUp speed width => Sys2Proof.Machine.execLinkUp speed width s
  | .linkError n err => Sys2Proof.Machine.execLinkError n err s
  | .rcRegisterRead offset dws => Sys2Proof.Machine.execRcRegisterRead offset dws s
  | .hushWakeDeviceWorkEnd id => Sys2Proof.Machine.execHushWakeDeviceWorkEnd id s

end Sys2Proof.Machine
end

