-- ==== Sys2Proof/WellFormed.lean ====
section
/-! DEFINITION. Well-formed commands: the rules that the types of `Instr` do not hold. An ill-formed command is one that
nothing outside the block can send: a submission entry of another length than R156's, a report for other than the 32
islands of R15, an access beyond a BAR, a BAR0 request of other than 1 to 16 DW (R121). -/

namespace Sys2Proof

/-- The header and payload of a packet: R425's fields, and a payload of at most 256 bytes in 16-byte units (R426). -/
def Packet.wf (p : Packet) : Bool :=
  p.type < 256 && p.dst < 256 && p.src < 256 && p.ttl < 256 && p.seq < 4096 && p.arg.length == 8 &&
  p.payload.length ≤ 256 && p.payload.length % 16 == 0

/-- The operands of a command are within the ranges that the spec gives them. Commands not named here are well formed
by their types. -/
def Instr.wf : Instr → Bool
  | .scoreHeaderRead _ h => h.length == 128
  | .scoreCopyReadEnd c => c.length ≤ 8388608
  | .clockMonitorWindow cs => cs.length == 32
  | .linkUp speed width => 1 ≤ speed && speed ≤ 4 && (width == 1 || width == 2 || width == 4)
  | .unmappedBar0Access off _ => off < 0x100000
  | .bar2Read off len => 1 ≤ len && off + len ≤ 0x10000000
  | .bar2Write off d => 1 ≤ d.length && off + d.length ≤ 0x10000000
  | .dmaReadCompletion _ d => d.length != 0
  | .submissionFetch _ e => e.length == 64
  | .flashInitComplete _ copies _ => copies.length == 4
  | .flashPageRead _ page cws => page < 768 && cws.length == 4
  | .dmcRequestAccept _ r => 1 ≤ r.len && r.len ≤ 64 && r.addr / 64 == (r.addr + r.len - 1) / 64
  | .mr4Poll _ vs => vs.length == 8
  | .sectionScrub _ off _ => off < 0x600000
  | .data _ p | .join _ p | .reach _ p | .reserve _ p | .reserveReply _ p | .release _ p | .commit _ p | .rollback _ p
  | .stageDone _ p | .fault _ p | .destroy _ p | .keepalive _ p | .ack _ p | .ident _ p => p.wf
  | .downbeat _ p _ => p.wf
  | .linkError _ (.gap p) => p.wf
  | .thermalSample ts => ts.length == 8 && ts.all fun t => -128 ≤ t && t ≤ 127
  | .registerWrite off ds => 1 ≤ ds.length && ds.length ≤ 16 && off % 4 == 0 && off + 4 * ds.length ≤ 0x100000
  | .rcRegisterRead off n => 1 ≤ n && n ≤ 16 && off % 4 == 0 && off + 4 * n ≤ 0x100000
  | _ => true

end Sys2Proof
end

