-- ==== Sys2Proof/Safety.lean ====
section
/-! DEFINITION. What the claims are stated in: the invariant that every step keeps, when a register answers, when an
instruction of a voice issues, and the frames that those give. -/

namespace Sys2Proof.Machine

/-! ### The invariant -/

/-- The fuses of `g` are those of `f`, but that the rollback floor may have risen and keys may have been revoked
(R100). -/
structure FusesGrow (f g : Fuses) : Prop where
  dram : g.dram = f.dram
  flash : g.flash = f.flash
  grade : g.grade = f.grade
  serial : g.serial = f.serial
  keyHash : g.keyHash = f.keyHash
  rollback : f.rollback ≤ g.rollback
  revoked : f.revoked ||| g.revoked = g.revoked

/-- Every occurrence counter is at most 255 (R227). -/
def CountsFit (v : Vector Nat 64) : Prop := ∀ i, (h : i < 64) → v[i] ≤ 255

/-- Memory is in its canonical form (R126, log entry 7), and no occurrence counter has passed 255 (R227). -/
structure Inv (s : State) : Prop where
  mem : Memory.wf s.mem = true
  counts : CountsFit s.evc.count

/-! ### Registers (R82, R120 to R122) -/

/-- A BAR0 access to this offset is served: PORST_N is high, the link answers, Memory Space Enable is set, the block of
the offset answers at the present stage, and its page, if it has one, is open and not in reset. -/
def served (s : State) (off : Nat) : Bool :=
  !s.porst && linkAnswers s && s.link.mse && (match blockOf off with
    | none => false
    | some b => answers s b && (match b with
      | .page p => pageOpen s p && !(pageOf s p).resetting
      | _ => true))

/-! ### Voices (R330, R332, R348) -/

/-- Voice n issues the word w: it can issue, it is not waiting for an event, it holds its scalar grant, w is the word at
its PC, the guard of w holds, and no injected comparator fault strikes its pair here. -/
def issues (s : State) (n : Voice) (w : Word) : Bool :=
  !s.porst && canIssue s n && (voiceOf s n).wait != .event && holdsGrant s (.voice n .scalar) &&
  (voiceOf s n).code[(voiceOf s n).pc]? == some w && guardOk (voiceOf s n) w.toNat &&
  (strikePair n s).isNone

/-- PC moves to the next word, and the trailing voice of a formed pair follows (R330, R449). -/
def pcNext (n : Voice) (s : State) : State := follow n (setVoice n (fun v => { v with pc := v.pc + 1 }) s)

/-- The voice of an Aznil row, and the words that are this instruction. -/
def aznilOf : Instr → Option (Voice × (Nat → Bool))
  | .add n => some (n, fun w => insnOf w == some (0x1, 0x0))
  | .sub n => some (n, fun w => insnOf w == some (0x1, 0x1))
  | .and n => some (n, fun w => insnOf w == some (0x1, 0x2))
  | .or n => some (n, fun w => insnOf w == some (0x1, 0x3))
  | .xor n => some (n, fun w => insnOf w == some (0x1, 0x4))
  | .not n => some (n, fun w => insnOf w == some (0x1, 0x5))
  | .sll n => some (n, fun w => insnOf w == some (0x1, 0x8))
  | .srl n => some (n, fun w => insnOf w == some (0x1, 0x9))
  | .sra n => some (n, fun w => insnOf w == some (0x1, 0xa))
  | .mul n => some (n, fun w => insnOf w == some (0x1, 0x10))
  | .mulhu n => some (n, fun w => insnOf w == some (0x1, 0x11))
  | .mulhs n => some (n, fun w => insnOf w == some (0x1, 0x12))
  | .divu n => some (n, fun w => insnOf w == some (0x1, 0x14))
  | .divs n => some (n, fun w => insnOf w == some (0x1, 0x15))
  | .remu n => some (n, fun w => insnOf w == some (0x1, 0x16))
  | .rems n => some (n, fun w => insnOf w == some (0x1, 0x17))
  | .mins n => some (n, fun w => insnOf w == some (0x1, 0x18))
  | .maxs n => some (n, fun w => insnOf w == some (0x1, 0x19))
  | .minu n => some (n, fun w => insnOf w == some (0x1, 0x1a))
  | .maxu n => some (n, fun w => insnOf w == some (0x1, 0x1b))
  | .neg n => some (n, fun w => insnOf w == some (0x1, 0x20))
  | .abs n => some (n, fun w => insnOf w == some (0x1, 0x21))
  | .clz n => some (n, fun w => insnOf w == some (0x1, 0x22))
  | .popc n => some (n, fun w => insnOf w == some (0x1, 0x23))
  | .cmp n => some (n, fun w => insnOf w == some (0x2, 0x0))
  | .plog n => some (n, fun w => insnOf w == some (0x3, 0x0))
  | .addi n => some (n, fun w => insnOf w == some (0x4, 0x0))
  | .andi n => some (n, fun w => insnOf w == some (0x5, 0x0))
  | .ori n => some (n, fun w => insnOf w == some (0x6, 0x0))
  | .xori n => some (n, fun w => insnOf w == some (0x7, 0x0))
  | .slli n => some (n, fun w => insnOf w == some (0x8, 0x0))
  | .srli n => some (n, fun w => insnOf w == some (0x9, 0x0))
  | .srai n => some (n, fun w => insnOf w == some (0xa, 0x0))
  | .lui n => some (n, fun w => insnOf w == some (0xb, 0x0))
  | .br n => some (n, fun w => insnOf w == some (0xc, 0x0))
  | .jal n => some (n, fun w => insnOf w == some (0xd, 0x0))
  | .sysNop n => some (n, fun w => insnOf w == some (0xe, 0x0))
  | .stop n => some (n, fun w => insnOf w == some (0xe, 0x1))
  | .jalr n => some (n, fun w => insnOf w == some (0xe, 0x2))
  | .rdsr n => some (n, fun w => insnOf w == some (0xe, 0x3))
  | .wrpr n => some (n, fun w => insnOf w == some (0xe, 0x4))
  | .ldb n _ => some (n, fun w => insnOf w == some (0x10, 0x0))
  | .ldbu n _ => some (n, fun w => insnOf w == some (0x11, 0x0))
  | .ldh n _ => some (n, fun w => insnOf w == some (0x12, 0x0))
  | .ldhu n _ => some (n, fun w => insnOf w == some (0x13, 0x0))
  | .ldw n _ => some (n, fun w => insnOf w == some (0x14, 0x0))
  | .stb n => some (n, fun w => insnOf w == some (0x18, 0x0))
  | .sth n => some (n, fun w => insnOf w == some (0x19, 0x0))
  | .stw n => some (n, fun w => insnOf w == some (0x1a, 0x0))
  | .tcfg n => some (n, fun w => insnOf w == some (0x20, 0x0))
  | .trel n => some (n, fun w => insnOf w == some (0x21, 0x0))
  | .tld n _ => some (n, fun w => insnOf w == some (0x22, 0x0))
  | .tst n => some (n, fun w => insnOf w == some (0x23, 0x0))
  | .tmma n _ => some (n, fun w => insnOf w == some (0x24, 0x0))
  | .tsacc n => some (n, fun w => insnOf w == some (0x25, 0x0))
  | .tout n _ => some (n, fun w => insnOf w == some (0x26, 0x0))
  | .tewAdd n => some (n, fun w => insnOf w == some (0x27, 0x0))
  | .tewSub n => some (n, fun w => insnOf w == some (0x27, 0x1))
  | .tewMul n => some (n, fun w => insnOf w == some (0x27, 0x2))
  | .tewMax n => some (n, fun w => insnOf w == some (0x27, 0x3))
  | .tewMin n => some (n, fun w => insnOf w == some (0x27, 0x4))
  | .tewAddr n => some (n, fun w => insnOf w == some (0x27, 0x8))
  | .tewMulr n => some (n, fun w => insnOf w == some (0x27, 0x9))
  | .tewAddc n => some (n, fun w => insnOf w == some (0x27, 0xa))
  | .tewMulc n => some (n, fun w => insnOf w == some (0x27, 0xb))
  | .tewCvt n => some (n, fun w => insnOf w == some (0x27, 0x10))
  | .tewExp n => some (n, fun w => insnOf w == some (0x27, 0x11))
  | .tewRsqrt n => some (n, fun w => insnOf w == some (0x27, 0x12))
  | .tewRecip n => some (n, fun w => insnOf w == some (0x27, 0x13))
  | .tewSilu n => some (n, fun w => insnOf w == some (0x27, 0x14))
  | .rsum n => some (n, fun w => insnOf w == some (0x28, 0x0))
  | .rsumsq n => some (n, fun w => insnOf w == some (0x28, 0x1))
  | .rmax n => some (n, fun w => insnOf w == some (0x28, 0x2))
  | .tq n => some (n, fun w => insnOf w == some (0x29, 0x0))
  | .tdq n _ => some (n, fun w => insnOf w == some (0x2a, 0x0))
  | .scld n _ => some (n, fun w => insnOf w == some (0x2b, 0x0))
  | .trda n => some (n, fun w => insnOf w == some (0x2c, 0x0))
  | .gather n _ => some (n, fun w => insnOf w == some (0x30, 0x0))
  | .scatter n => some (n, fun w => insnOf w == some (0x31, 0x0))
  | .bar n => some (n, fun w => insnOf w == some (0x34, 0x0))
  | .waitev n => some (n, fun w => insnOf w == some (0x35, 0x0))
  | .setev n => some (n, fun w => insnOf w == some (0x36, 0x0))
  | .brthHold n => some (n, fun w => insnOf w == some (0x37, 0) && !bitAt w 0)
  | .brthRelease n => some (n, fun w => insnOf w == some (0x37, 0) && bitAt w 0)
  | _ => none

end Sys2Proof.Machine
end

