-- ==== Sys2Proof/Certificates/Slice0/Obligations.lean ====
section
/-! DEFINITION. The statements for the provers, from the numbered rules of the spec. -/

open Sys2Proof Sys2Proof.Machine

/-- A step carries out the command at the front (spec/95: one row is one step). That the block idles on an empty queue is
the model's choice, log entry 2. -/
def Obligations.StepTakesTheFrontCommand : Prop :=
  (∀ (c : Instr) (rest : List Instr) (s : State),
    step { s with pending := c :: rest } = exec c { s with pending := rest }) ∧
  ∀ s : State, s.pending = [] → step s = .next s

/-- The values that the register tables give for reset (R33, R78, R79, R225, R488, and the tables of 02 to 21). -/
def Obligations.ResetValues : Prop :=
  let s := State.reset
  (s.brg.ceil = 40 ∧ s.brg.slope = 8 ∧ s.brg.ioCeil = 16 ∧ s.brg.ioSlope = 4 ∧ s.brg.margin = 8) ∧
  (∀ i : Island, (islOf s i).st = if i = 0 then .run else .collapsed) ∧
  (s.bsc.stage = .otp ∧ s.bsc.percent = 0) ∧
  (s.evc.claimMode = true ∧ s.evc.routeHost = 0xFFFF ∧ s.evc.routeCpu = 0xFFFF003B ∧ s.evc.armed = BitVec.allOnes 64) ∧
  (∀ n : Source, s.evc.count[n] = 0) ∧ (∀ n : Voice, (voiceOf s n).run = .free) ∧
  (∀ n : Port, s.ens.ports[n].st = .disabled) ∧
  (∀ p : Part, (pageOf s p).sq.size = 0 ∧ (pageOf s p).cq.size = 0 ∧ pageOpen s p = false) ∧
  s.pwr.active = 3 ∧ s.brg.core.grants = [] ∧ s.brg.io.grants = [] ∧ s.cmds = [] ∧ s.ctxs = [] ∧ s.objs = [] ∧
  s.passes = [] ∧ s.sets = [] ∧ s.jobs = []

/-- The reset state meets what every step keeps. -/
def Obligations.ResetMeetsTheInvariant : Prop := Inv State.reset

/-- The canonical form of memory (R126) and the saturation of the occurrence counters (R227) survive every command. -/
def Obligations.EveryStepKeepsTheInvariant : Prop :=
  ∀ s t : State, Inv s → step s = .next t → Inv t

/-- No command stops the block, touches the queue, lowers the rollback floor or restores a revoked key (R100). -/
def Obligations.EveryCommandCompletesAndKeepsTheFuses : Prop :=
  ∀ (c : Instr) (s : State), ∃ t, exec c s = .next t ∧ t.pending = s.pending ∧ FusesGrow s.fuses t.fuses

/-- The commands that act while PORST_N is low: the pin itself and the test port (R486, R498). -/
def Sys2Proof.Spec.actsInReset : Instr → Bool
  | .porstNAssert | .porstNRelease _ | .idcode | .samplePreload _ | .extest | .clamp | .highz | .dbgReg _ | .dbgStat
  | .bypass => true
  | _ => false

/-- PORST_N low holds the block (R486). -/
def Obligations.PowerOnResetHoldsTheBlock : Prop :=
  ∀ (c : Instr) (s : State), s.porst = true → Spec.actsInReset c = false → exec c s = .next s

/-- The commands that are accesses to BAR0 registers. -/
def Sys2Proof.Spec.isRegisterAccess : Instr → Bool
  | .brgStatusWrite _ | .brgCeilWrite _ | .brgCeilLowWrite _ | .brgPeakRead | .islFaultWrite _ | .tbsNowLoRead | .tbsLoad _
  | .tbsAlarmHiWrite _ _ | .hifPartResetWrite _ _ | .glbHwinLenWrite _ _ | .glbWinBaseHiWrite _ | .hifSqTailWrite _ _
  | .hifCqHeadWrite _ _ | .hifSqSizeWrite _ _ | .hifCqSizeWrite _ _ | .hifSqStatusWrite _ _ | .hifQDramUserWrite _ _
  | .hifQStripsWrite _ _ | .hifQSectionUseWrite _ _ | .hifEvqHeadWrite _ | .hifErrqSizeWrite _ | .hifErrqLostRead
  | .hifDeferTotalRead | .evcClaimRead | .evcDoneWrite _ | .evcArmedWrite _ _ | .evcSoftSetWrite _ | .evcLatchWrite _ _
  | .evcCountRead _ | .vceCtrlWrite _ _ | .mirRequalWrite _ | .ensRetrain _ | .ensDbinLoRead | .vibUnlockWrite _ | .vibGo
  | .vibStop | .glbOppointWrite _ | .glbThermRead | .restRequest _ | .dmcCntSnap _
  | .dmcCntClear _ | .registerWrite _ _ | .rcRegisterRead _ _ | .unmappedBar0Access _ _ => true
  | _ => false

/-- Nothing answers before OTP, without island 28 or a link, or during an FLR (R81, R82, R130). -/
def Obligations.RegistersAreSilentWithoutALink : Prop :=
  ∀ (c : Instr) (s : State), linkAnswers s = false → Spec.isRegisterAccess c = true → exec c s = .next s

/-! ### Voices: scalar instructions (15) -/

/-- A row of the ALU map (R351): its MINOR, its command, the result of a and b, and whether V and Z are set. -/
structure Sys2Proof.Spec.AluRow where
  minor : Nat
  instr : Voice → Instr
  value : Word → Word → Word
  setsV : Word → Word → Bool := fun _ _ => false
  setsZ : Word → Word → Bool := fun _ _ => false

/-- R351 with the edges of R352 and the shifts of R353; `>>>` and `<<<` by 32 or more give 0, and a sign-filled shift
gives copies of the sign. -/
def Sys2Proof.Spec.aluTable : List Spec.AluRow :=
  [{ minor := 0x00, instr := .add, value := fun a b => a + b },
   { minor := 0x01, instr := .sub, value := fun a b => a - b },
   { minor := 0x02, instr := .and, value := fun a b => a &&& b },
   { minor := 0x03, instr := .or, value := fun a b => a ||| b },
   { minor := 0x04, instr := .xor, value := fun a b => a ^^^ b },
   { minor := 0x05, instr := .not, value := fun a _ => ~~~a },
   { minor := 0x08, instr := .sll, value := fun a b => a <<< b.toNat },
   { minor := 0x09, instr := .srl, value := fun a b => a >>> b.toNat },
   { minor := 0x0A, instr := .sra, value := fun a b => a.sshiftRight b.toNat },
   { minor := 0x10, instr := .mul, value := fun a b => a * b },
   { minor := 0x11, instr := .mulhu, value := fun a b => ((a.setWidth 64 * b.setWidth 64) >>> 32).setWidth 32 },
   { minor := 0x12, instr := .mulhs, value := fun a b => ((a.signExtend 64 * b.signExtend 64) >>> 32).setWidth 32 },
   { minor := 0x14, instr := .divu, value := fun a b => if b = 0 then 0xFFFFFFFF else a / b, setsZ := fun _ b => b == 0 },
   { minor := 0x15, instr := .divs
     value := fun a b => if b = 0 then (if a.slt 0 then 1 else 0xFFFFFFFF) else a.sdiv b
     setsV := fun a b => a == 0x80000000 && b == 0xFFFFFFFF, setsZ := fun _ b => b == 0 },
   { minor := 0x16, instr := .remu, value := fun a b => if b = 0 then a else a % b, setsZ := fun _ b => b == 0 },
   { minor := 0x17, instr := .rems, value := fun a b => if b = 0 then a else a.srem b, setsZ := fun _ b => b == 0 },
   { minor := 0x18, instr := .mins, value := fun a b => if a.sle b then a else b },
   { minor := 0x19, instr := .maxs, value := fun a b => if a.sle b then b else a },
   { minor := 0x1A, instr := .minu, value := fun a b => if a.ule b then a else b },
   { minor := 0x1B, instr := .maxu, value := fun a b => if a.ule b then b else a },
   { minor := 0x20, instr := .neg, value := fun a _ => -a, setsV := fun a _ => a == 0x80000000 },
   { minor := 0x21, instr := .abs, value := fun a _ => if a.slt 0 then -a else a, setsV := fun a _ => a == 0x80000000 },
   { minor := 0x22, instr := .clz, value := fun a _ => a.clz },
   { minor := 0x23, instr := .popc, value := fun a _ => a.cpop }]

/-- The ALU map: result, flags, PC, and nothing else (R351 to R354). -/
def Obligations.AluResults : Prop :=
  ∀ r ∈ Spec.aluTable, ∀ (n : Voice) (w : Word) (s : State),
    issues s n w = true → insnOf w.toNat = some (0x01, r.minor) →
    let a := sReg s n (fA w.toNat)
    let b := sReg s n (fB w.toNat)
    exec (r.instr n) s =
      .next (pcNext n (setZ n (r.setsZ a b) (setV n (r.setsV a b) (setReg n (fD w.toNat) (r.value a b) s))))

/-- A row of R355: its MAJOR, its command, and the result of s[rs1] and the word. -/
structure Sys2Proof.Spec.ImmRow where
  major : Nat
  instr : Voice → Instr
  value : Word → Word → Word

/-- The immediate instructions of R355. -/
def Sys2Proof.Spec.immTable : List Spec.ImmRow :=
  [{ major := 0x04, instr := .addi, value := fun a w => a + (w.extractLsb' 0 14).signExtend 32 },
   { major := 0x05, instr := .andi, value := fun a w => a &&& (w.extractLsb' 0 14).setWidth 32 },
   { major := 0x06, instr := .ori, value := fun a w => a ||| (w.extractLsb' 0 14).setWidth 32 },
   { major := 0x07, instr := .xori, value := fun a w => a ^^^ (w.extractLsb' 0 14).setWidth 32 },
   { major := 0x08, instr := .slli, value := fun a w => a <<< w.extractLsb' 0 5 },
   { major := 0x09, instr := .srli, value := fun a w => a >>> w.extractLsb' 0 5 },
   { major := 0x0A, instr := .srai, value := fun a w => a.sshiftRight' (w.extractLsb' 0 5) },
   { major := 0x0B, instr := .lui, value := fun _ w => w.extractLsb' 0 18 ++ 0#14 }]

/-- The immediates (R355). -/
def Obligations.ImmediateResults : Prop :=
  (∀ r ∈ Spec.immTable, ∀ (n : Voice) (w : Word) (s : State),
    issues s n w = true → insnOf w.toNat = some (r.major, 0) →
    exec (r.instr n) s = .next (pcNext n (setReg n (fD w.toNat) (r.value (sReg s n (fA w.toNat)) w) s))) ∧
  (∀ w : Word, (w.extractLsb' 26 6 = 0x08#6 ∨ w.extractLsb' 26 6 = 0x09#6 ∨ w.extractLsb' 26 6 = 0x0A#6) →
    w.extractLsb' 5 9 ≠ 0#9 → insnOf w.toNat = none)

/-- The condition of CMP (R356). -/
def Sys2Proof.Spec.cmpHolds (cond : BitVec 4) (a b : Word) : Bool :=
  match cond.toNat with
  | 0 => a == b
  | 1 => a != b
  | 2 => a.slt b
  | 3 => b.sle a
  | 4 => a.ult b
  | _ => b.ule a

/-- CMP, PLOG and WRPR (R356, R357, R359). -/
def Obligations.PredicateResults : Prop :=
  ∀ (n : Voice) (w : Word) (s : State), issues s n w = true →
    let old := (voiceOf s n).p
    let put := fun (p : BitVec 4) => pcNext n (setVoice n (fun v => { v with p := p }) s)
    let pd := w.extractLsb' 20 2
    (insnOf w.toNat = some (0x02, 0) → ∃ p, exec (.cmp n) s = .next (put p) ∧ (w.extractLsb' 6 4).toNat ≤ 5 ∧
      ∀ i < 4, p.getLsbD i = if i = pd.toNat
        then Spec.cmpHolds (w.extractLsb' 6 4) (sReg s n (fA w.toNat)) (sReg s n (fB w.toNat)) else old.getLsbD i) ∧
    (insnOf w.toNat = some (0x03, 0) → ∃ p, exec (.plog n) s = .next (put p) ∧
      ∀ i < 4, p.getLsbD i = if i = pd.toNat
        then (w.extractLsb' 12 4).getLsbD (2 * (old.getLsbD (w.extractLsb' 18 2).toNat).toNat +
          (old.getLsbD (w.extractLsb' 16 2).toNat).toNat)
        else old.getLsbD i) ∧
    (insnOf w.toNat = some (0x0E, 0x04) → exec (.wrpr n) s = .next (put ((sReg s n (fA w.toNat)).setWidth 4)))

/-- The scalar registers (R329), NOP and RDSR (R359, R360). -/
def Obligations.ScalarRegistersNopAndRdsr : Prop :=
  (∀ (s : State) (n m : Voice) (r q : Fin 16) (x : Word),
    sReg s n 0 = 0 ∧
    sReg (setReg n r x s) m q = if m = n ∧ q = r ∧ r ≠ 0 then x else sReg s m q) ∧
  ∀ (n : Voice) (w : Word) (s : State), issues s n w = true →
    (insnOf w.toNat = some (0x0E, 0x00) → exec (.sysNop n) s = .next (pcNext n s)) ∧
    (insnOf w.toNat = some (0x0E, 0x03) → ∃ x, exec (.rdsr n) s = .next (pcNext n (setReg n (fD w.toNat) x s)) ∧
      (w.extractLsb' 10 4).toNat ≤ 4 ∧
      (w.extractLsb' 10 4 = 0 → x = ((voiceOf s n).p).setWidth 32) ∧
      (w.extractLsb' 10 4 = 1 → ∀ i, x.getLsbD i =
        ((i == 2 && (voiceOf s n).v) || (i == 1 && (voiceOf s n).z) || (i == 0 && (voiceOf s n).sat))) ∧
      (w.extractLsb' 10 4 = 2 → x.toNat = n.val) ∧
      (w.extractLsb' 10 4 = 3 → x = BitVec.ofNat 32 s.tbs.now) ∧
      (w.extractLsb' 10 4 = 4 → x = BitVec.ofNat 32 (s.tbs.now / 2 ^ 32)))

/-- Branches (R358, R359): the next state, or the halt that the fetch of the target causes. -/
def Obligations.BranchTargets : Prop :=
  ∀ (n : Voice) (w : Word) (s : State), issues s n w = true →
    let pc := (voiceOf s n).pc
    let goes := fun (c : Instr) (t : Nat) (u : State) =>
      let s' := follow n (setVoice n (fun v => { v with pc := t }) u)
      exec c s = .next (if t < (voiceOf s n).code.length then s' else haltVoice n haltRange false s')
    let linked := setReg n (fD w.toNat) (BitVec.ofNat 32 (pc + 1)) s
    (insnOf w.toNat = some (0x0C, 0) → goes (.br n) (((pc : Int) + (w.extractLsb' 0 22).toInt) % 2 ^ 24).toNat s) ∧
    (insnOf w.toNat = some (0x0D, 0) → goes (.jal n) (((pc : Int) + (w.extractLsb' 0 18).toInt) % 2 ^ 24).toNat linked) ∧
    (insnOf w.toNat = some (0x0E, 0x02) → goes (.jalr n) ((sReg s n (fA w.toNat)).extractLsb' 0 24).toNat linked)

/-- The guard (R348). -/
def Obligations.GuardsGateEveryInstruction : Prop :=
  (∀ (v : VoiceSt) (w : Word), guardOk v w.toNat =
    (!w.getLsbD 25 || Bool.xor (v.p.getLsbD (w.extractLsb' 22 2).toNat) (w.getLsbD 24))) ∧
  (∀ w : Word, w.getLsbD 25 = false → w.extractLsb' 22 3 ≠ 0#3 → insnOf w.toNat = none) ∧
  (∀ (c : Instr) (n : Voice) (is_ : Nat → Bool) (w : Word) (s : State), aznilOf c = some (n, is_) →
    s.porst = false → canIssue s n = true → (voiceOf s n).wait ≠ .event → holdsGrant s (.voice n .scalar) = true →
    strikePair n s = none → (voiceOf s n).code[(voiceOf s n).pc]? = some w → is_ w.toNat = true → guardOk (voiceOf s n) w.toNat = false →
    exec c s = .next (pcNext n s))

/-- The halts of the fetch and of the decode (R330, R344, R349). -/
def Obligations.UndefinedWordsHalt : Prop :=
  ∀ (c : Instr) (n : Voice) (is_ : Nat → Bool) (s : State), aznilOf c = some (n, is_) →
    s.porst = false → canIssue s n = true → holdsGrant s (.voice n .scalar) = true → strikePair n s = none →
    ((voiceOf s n).code[(voiceOf s n).pc]? = none → exec c s = .next (haltVoice n haltRange false s)) ∧
    (∀ w, (voiceOf s n).code[(voiceOf s n).pc]? = some w →
      (insnOf w.toNat = none → exec c s = .next (haltVoice n haltIllegal false s)) ∧
      ((insnOf w.toNat).isSome = true → is_ w.toNat = false → exec c s = .next s))

/-- The record of a halt (R344), on a voice whose set or pass has just gone; STOP in a KERNEL set (R193, R367). -/
def Obligations.HaltsAndStops : Prop :=
  (∀ (n : Voice) (h : Halt) (w : Word) (s : State), (voiceOf s n).run = .free →
    (voiceOf s n).code[(voiceOf s n).pc]? = some w →
    let old := voiceOf s n
    let t := haltVoice n h false s
    let v := voiceOf t n
    (v.cause = h.cause ∧ v.tile = h.tile ∧ v.detail = h.detail ∧ v.element = h.elem.getD 0 ∧ v.elValid = h.elem.isSome) ∧
    (v.valid = true ∧ v.overrun = (old.overrun || old.valid) ∧ v.haltPc = old.pc ∧ v.haltWord = w) ∧
    v.haltAddr = h.addr.getD old.haltAddr ∧
    t.evc.latch.getLsbD (16 + n.val) = true ∧
    t.evc.count[16 + n.val]'(by omega) = min 255 (s.evc.count[16 + n.val]'(by omega) + 1)) ∧
  (∀ (n : Voice) (w : Word) (s : State) (c i : Nat) (k : KSet), issues s n w = true →
    insnOf w.toNat = some (0x0E, 0x01) → (voiceOf s n).run = .set c i → setOf s c = some k → n ∈ k.voices →
    (∀ v ∈ k.voices, (voiceOf s v).wait ≠ .bar) → pairOn s n = false →
    let t := toIdle n (setVoice n (fun v => { v with stopped := true }) s)
    ((∃ v ∈ k.voices, v ≠ n ∧ (voiceOf s v).stopped = false) → exec (.stop n) s = .next t) ∧
    ((∀ v ∈ k.voices, v = n ∨ (voiceOf s v).stopped = true) →
      exec (.stop n) s = .next (follow n (endSet k 0 0 0xFF false [] t))))

/-! ### Voices: memory (15, 16) -/

/-- None of these bytes lies on a failed channel (R256). -/
def Sys2Proof.Spec.alive (s : State) (a n : Nat) : Bool := (blocksOf a n).all fun u => !deadAt s u

/-- A read of these bytes finds nothing wrong: no unit of them is uncorrectable, no vibrato run injects, and no stacked
block lies on a channel that has failed (R249, R250, R256, R342, R473). -/
def Sys2Proof.Spec.readsClean (s : State) (a n : Nat) : Bool :=
  (badIn s a n).isNone && s.vib.runFrom.isNone && Spec.alive s a n

/-- The sections of these addresses are leased, and their clocks run (R34, R341). -/
def Sys2Proof.Spec.leased (s : State) (as : List Nat) : Bool := sectionsReady s (sectionsOf as)

/-- A read of stacked memory opens rows and counts on its channels (R245, R247, R261); any other changes nothing. -/
def Sys2Proof.Spec.touched (s : State) (a n : Nat) : State := if stackBase ≤ a then moveAll false a n s else s

/-- The voice runs a KERNEL set. -/
def Sys2Proof.Spec.inSet (s : State) (n : Voice) : Bool := match (voiceOf s n).run with
  | .set _ _ => true
  | _ => false

/-- The window strips of the voice's pass at these addresses are READY or IN_USE (R289); a voice of a set needs none. -/
def Sys2Proof.Spec.stripsReady (s : State) (n : Voice) (as : List Nat) : Prop :=
  ∀ m : ModelRef, (voiceOf s n).run = .pass m → ∀ a ∈ as, ∀ i : Fin 64, stripOf a = some i →
    s.strips[i].owner = some m → s.strips[i].st = .ready ∨ s.strips[i].st = .inUse

/-- The state is `u`, but that a read of a pass takes its window strips (R289, R290); for a voice of a set it is `u`. -/
def Sys2Proof.Spec.upToStrips (s : State) (n : Voice) (t u : State) : Prop :=
  t = { u with strips := t.strips } ∧ (Spec.inSet s n = true → t = u)

/-- The effective address of R361 for an access of z bytes: base s[rs1], or 40 bits of its pair when W = 1, plus
sext(imm13) × z, mod 2^40, its low bits cleared. -/
def Sys2Proof.Spec.ea (s : State) (n : Voice) (w : Word) (z : Nat) : Nat :=
  let lo := (sReg s n (fA w.toNat)).toNat
  let hi := if w.getLsbD 13 then ((sReg s n (fA w.toNat + 1)).extractLsb' 0 8).toNat else 0
  ((((hi * 2 ^ 32 + lo : Nat) : Int) + (w.extractLsb' 0 13).toInt * z) % 2 ^ 40).toNat / z * z

/-- A load of R363: MAJOR, command, size, and the value from the little-endian number read. -/
structure Sys2Proof.Spec.LoadRow where
  major : Nat
  instr : Voice → Ecc → Instr
  size : Nat
  value : Nat → Word

def Sys2Proof.Spec.loadTable : List Spec.LoadRow :=
  [{ major := 0x10, instr := .ldb, size := 1, value := fun x => (BitVec.ofNat 8 x).signExtend 32 },
   { major := 0x11, instr := .ldbu, size := 1, value := fun x => (BitVec.ofNat 8 x).setWidth 32 },
   { major := 0x12, instr := .ldh, size := 2, value := fun x => (BitVec.ofNat 16 x).signExtend 32 },
   { major := 0x13, instr := .ldhu, size := 2, value := fun x => (BitVec.ofNat 16 x).setWidth 32 },
   { major := 0x14, instr := .ldw, size := 4, value := fun x => BitVec.ofNat 32 x }]

/-- A store of R363: MAJOR, command, size. -/
structure Sys2Proof.Spec.StoreRow where
  major : Nat
  instr : Voice → Instr
  size : Nat

def Sys2Proof.Spec.storeTable : List Spec.StoreRow :=
  [{ major := 0x18, instr := .stb, size := 1 }, { major := 0x19, instr := .sth, size := 2 },
   { major := 0x1A, instr := .stw, size := 4 }]

/-- Loads (R361 to R365). -/
def Obligations.LoadResults : Prop :=
  ∀ r ∈ Spec.loadTable, ∀ (n : Voice) (w : Word) (s : State), issues s n w = true →
    insnOf w.toNat = some (r.major, 0) →
    let a := Spec.ea s n w r.size
    let as := [a, a + r.size - 1]
    (∀ ecc, reaches s n false a r.size = false →
      exec (r.instr n ecc) s = .next (haltVoice n (haltAccess a) false (noteOutside n a s))) ∧
    (reaches s n false a r.size = true → Spec.leased s as = true → Spec.stripsReady s n as →
      Spec.readsClean s a r.size = true →
      ∃ t, exec (r.instr n []) s = .next t ∧ Spec.upToStrips s n t
        (pcNext n (releaseSections (sectionsOf as)
          (setReg n (fD w.toNat) (r.value (leNat (memRead s.mem a r.size))) (Spec.touched s a r.size)))))

/-- Stores (R361, R363, R365): the frame over all of memory, and the stored bytes. -/
def Obligations.StoreResults : Prop :=
  ∀ r ∈ Spec.storeTable, ∀ (n : Voice) (w : Word) (s : State), issues s n w = true → Memory.wf s.mem = true →
    insnOf w.toNat = some (r.major, 0) →
    let a := Spec.ea s n w r.size
    let as := [a, a + r.size - 1]
    (reaches s n true a r.size = false →
      ∃ t, exec (r.instr n) s = .next t ∧ t = haltVoice n (haltAccess a) false (noteOutside n a s) ∧ t.mem = s.mem) ∧
    (reaches s n true a r.size = true → Spec.leased s as = true → (badIn s a r.size).isNone = true →
      Spec.alive s a r.size = true →
      ∃ t, exec (r.instr n) s = .next t ∧
        t = pcNext n (releaseSections (sectionsOf as) { s with mem := t.mem, dmc := t.dmc }) ∧
        (a < stackBase → t.dmc = s.dmc) ∧
        (∀ i < r.size, memByte t.mem (a + i) = (sReg s n (fD w.toNat)).extractLsb' (8 * i) 8) ∧
        (∀ x, x < a ∨ a + r.size ≤ x → memByte t.mem x = memByte s.mem x))

/-! ### Voices: tiles (14, 16) -/

/-- A change of one voice only, and of its tile registers, accumulators, scale registers, latches and counters only; the
trailing voice of a formed pair counts too (R346, R449). -/
def Sys2Proof.Spec.onlyTiles (n : Voice) (s u : State) : Prop :=
  u = { s with voices := u.voices } ∧
  (∀ m, m ≠ n → (pairOn s n = true → m ≠ trailer n) → voiceOf u m = voiceOf s m) ∧
  (pairOn s n = true → voiceOf u (trailer n) = { voiceOf s (trailer n) with
    tmma := (voiceOf u (trailer n)).tmma
    reuseA := (voiceOf u (trailer n)).reuseA
    reuseB := (voiceOf u (trailer n)).reuseB
    arrayFrom := (voiceOf u (trailer n)).arrayFrom
    arrayWait := (voiceOf u (trailer n)).arrayWait }) ∧
  voiceOf u n = { voiceOf s n with
    tiles := (voiceOf u n).tiles
    accs := (voiceOf u n).accs
    sc := (voiceOf u n).sc
    sat := (voiceOf u n).sat
    latchA := (voiceOf u n).latchA
    latchB := (voiceOf u n).latchB
    tmma := (voiceOf u n).tmma
    reuseA := (voiceOf u n).reuseA
    reuseB := (voiceOf u n).reuseB
    arrayFrom := (voiceOf u n).arrayFrom
    arrayWait := (voiceOf u n).arrayWait }

/-- The rules of R334, in its order: rows, columns, format, size, column multiple; 0 when all hold. -/
def Sys2Proof.Spec.descriptorRule (rows cols fmt : Nat) : Nat :=
  if ¬ (1 ≤ rows ∧ rows ≤ 64) then 1
  else if ¬ (1 ≤ cols ∧ cols ≤ 256) then 2
  else if ¬ (1 ≤ fmt ∧ fmt ≤ 7) then 3
  else if 16384 < rows * cols * fmtBits fmt then 4
  else if cols % fmtCols fmt ≠ 0 then 5
  else 0

/-- TCFG and TREL (R334, R335, R371, R372). -/
def Obligations.TileConfiguration : Prop :=
  ∀ (n : Voice) (w : Word) (s : State), issues s n w = true →
    (insnOf w.toNat = some (0x20, 0) →
      let d := sReg s n (fA w.toNat)
      let rows := (d.extractLsb' 0 7).toNat
      let cols := (d.extractLsb' 8 9).toNat
      let fmt := (d.extractLsb' 20 4).toNat
      let rule := Spec.descriptorRule rows cols fmt
      exec (.tcfg n) s = .next (if rule = 0
        then pcNext n (setTile n (fD w.toNat) { live := true, rows := rows, cols := cols, fmt := fmt, data := [] } s)
        else haltVoice n (haltTcfg (fD w.toNat).val rule) false s)) ∧
    (insnOf w.toNat = some (0x21, 0) → ∃ u, exec (.trel n) s = .next (pcNext n u) ∧ Spec.onlyTiles n s u ∧
      (∀ t : Fin 16, tileOf u n t = if w.getLsbD t.val then Tile.empty else tileOf s n t) ∧
      (∀ a : Fin 4, accOf u n a = if w.getLsbD (18 + a.val) then Accum.empty else accOf s n a) ∧
      (voiceOf u n).latchA = (voiceOf s n).latchA.filter (fun t => !w.getLsbD t.val) ∧
      (voiceOf u n).latchB = (voiceOf s n).latchB.filter (fun t => !w.getLsbD t.val))

/-- The row addresses of TLD and TST (R373). -/
def Sys2Proof.Spec.rows (s : State) (n : Voice) (w : Word) (t : Tile) : List Nat :=
  let lo := (sReg s n (fA w.toNat)).toNat
  let hi := if w.getLsbD 9 then ((sReg s n (fA w.toNat + 1)).extractLsb' 0 8).toNat else 0
  (List.range t.rows).map fun i => (hi * 2 ^ 32 + lo + i * (sReg s n (fB w.toNat)).toNat) % 2 ^ 40 / 4 * 4

/-- TLD and TST (R373). -/
def Obligations.TileLoadsAndStores : Prop :=
  ∀ (n : Voice) (w : Word) (s : State), issues s n w = true →
    let d := fD w.toNat
    let t := tileOf s n d
    let as := Spec.rows s n w t
    let ends := as.flatMap fun a => [a, a + rowLen t - 1]
    let out := fun (store : Bool) => as.find? fun a => !reaches s n store a (rowLen t)
    (insnOf w.toNat = some (0x22, 0) → ∀ ecc,
      (t.live = false → exec (.tld n ecc) s = .next (haltVoice n (haltEmpty d.val) false s)) ∧
      (t.live = true → ∀ a, out false = some a →
        exec (.tld n ecc) s = .next (haltVoice n (haltAccess a) false (noteOutside n a s))) ∧
      (t.live = true → out false = none → Spec.leased s ends = true → Spec.stripsReady s n ends →
        (∀ a ∈ as, Spec.readsClean s a (rowLen t) = true) → ecc = [] →
        ∃ u, exec (.tld n ecc) s = .next u ∧ Spec.upToStrips s n u
          (pcNext n (releaseSections (sectionsOf ends)
            (setTile n d { t with data := as.flatMap fun a => memRead s.mem a (rowLen t) }
              (as.foldl (fun s a => Spec.touched s a (rowLen t)) s)))))) ∧
    (insnOf w.toNat = some (0x23, 0) →
      (t.live = false → exec (.tst n) s = .next (haltVoice n (haltEmpty d.val) false s)) ∧
      (t.live = true → ∀ a, out true = some a →
        exec (.tst n) s = .next (haltVoice n (haltAccess a) false (noteOutside n a s))) ∧
      (t.live = true → out true = none → Spec.leased s ends = true → s.bad = [] →
        (∀ a ∈ as, Spec.alive s a (rowLen t) = true) →
        ∃ u, exec (.tst n) s = .next (pcNext n u) ∧
          u = releaseSections (sectionsOf ends) { s with
            mem := as.zipIdx.foldl (fun m a => memWrite m a.1 (tileRow t a.2)) s.mem
            dmc := u.dmc }))

/-- GATHER and SCATTER (R386, R387). -/
def Obligations.GatherAndScatter : Prop :=
  ∀ (n : Voice) (w : Word) (s : State), issues s n w = true →
    let d := fD w.toNat
    let t := tileOf s n d
    let ix := tileOf s n (fB w.toNat)
    let es := (List.range 16).filter fun e =>
      (sReg s n (Fin.ofNat 16 (w.extractLsb' 2 4).toNat)).toNat ≤ e && (sReg s n (fC w.toNat)).getLsbD e
    let base : Nat := ((sReg s n (fA w.toNat + 1)).extractLsb' 0 8).toNat * 2 ^ 32 + (sReg s n (fA w.toNat)).toNat
    let at_ := fun (e : Nat) => (((base : Int) + (BitVec.ofNat 32 (tileCode ix (e / ix.cols) (e % ix.cols))).toInt) % 2 ^ 40).toNat / 4 * 4
    let ends := (es.map at_).flatMap fun a => [a, a + rowLen t - 1]
    t.live = true → ix.live = true → 16 ≤ t.rows → ix.fmt = 7 → 16 ≤ ix.rows * ix.cols → d ≠ fB w.toNat →
    Spec.leased s ends = true → s.bad = [] → s.vib.runFrom = none →
    (insnOf w.toNat = some (0x30, 0) →
      (∀ e ∈ es, reaches s n false (at_ e) (rowLen t) = true ∧ Spec.alive s (at_ e) (rowLen t) = true) →
      Spec.stripsReady s n ends →
      ∃ u, exec (.gather n []) s = .next u ∧ Spec.upToStrips s n u
        (pcNext n (releaseSections (sectionsOf ends) (es.foldl (fun s e =>
          setTile n d (setRow (tileOf s n d) e (memRead s.mem (at_ e) (rowLen t)))
            (Spec.touched s (at_ e) (rowLen t))) s)))) ∧
    (insnOf w.toNat = some (0x31, 0) →
      ((∀ e ∈ es, reaches s n true (at_ e) (rowLen t) = true ∧ Spec.alive s (at_ e) (rowLen t) = true) →
        ∃ u, exec (.scatter n) s = .next (pcNext n u) ∧
          u = releaseSections (sectionsOf ends) { s with
            mem := es.foldl (fun m e => memWrite m (at_ e) (tileRow t e)) s.mem
            dmc := u.dmc }) ∧
      (∀ e, es.head? = some e → reaches s n true (at_ e) (rowLen t) = false →
        exec (.scatter n) s = .next (haltVoice n { haltAccess (at_ e) with elem := some e } false
          (releaseSections (sectionsOf ends) (noteOutside n (at_ e) s)))))

/-! ### Voices: tile arithmetic (16) -/

/-- A binary row of TEW (R383): MINOR, command, the element of Tb that goes with (i, j), whether Tb's shape fits Ta's, and
the exact operation. -/
structure Sys2Proof.Spec.TewRow where
  minor : Nat
  instr : Voice → Instr
  elem : Nat → Nat → Nat × Nat
  fits : Tile → Tile → Bool
  op : Fl → Fl → Fl

def Sys2Proof.Spec.tewTable : List Spec.TewRow :=
  let same := fun (a b : Tile) => a.rows == b.rows && a.cols == b.cols
  let row := fun (a b : Tile) => decide (a.rows ≤ b.rows)
  let col := fun (a b : Tile) => decide (a.cols ≤ b.cols)
  [{ minor := 0x00, instr := .tewAdd, elem := fun i j => (i, j), fits := same, op := Fl.add },
   { minor := 0x01, instr := .tewSub, elem := fun i j => (i, j), fits := same, op := fun x y => x.add y.neg },
   { minor := 0x02, instr := .tewMul, elem := fun i j => (i, j), fits := same, op := Fl.mul },
   { minor := 0x03, instr := .tewMax, elem := fun i j => (i, j), fits := same, op := maxFl },
   { minor := 0x04, instr := .tewMin, elem := fun i j => (i, j), fits := same, op := minFl },
   { minor := 0x08, instr := .tewAddr, elem := fun i _ => (i, 0), fits := row, op := Fl.add },
   { minor := 0x09, instr := .tewMulr, elem := fun i _ => (i, 0), fits := row, op := Fl.mul },
   { minor := 0x0A, instr := .tewAddc, elem := fun _ j => (0, j), fits := col, op := Fl.add },
   { minor := 0x0B, instr := .tewMulc, elem := fun _ j => (0, j), fits := col, op := Fl.mul }]

/-- The operand of TEW at (i, j): an infinity is taken as the largest finite value of its sign, with S (R384). -/
def Sys2Proof.Spec.operand (t : Tile) (i j : Nat) : Fl × Bool :=
  match elemVal t.fmt (tileCode t i j) with
  | .inf neg => (match (fmtOf t.fmt).decode (fmtOf t.fmt).maxCode with
    | .fin _ m e => .fin neg m e
    | x => x, true)
  | x => (x, false)

/-- BF16 or binary32. -/
def Sys2Proof.Spec.isFloat (t : Tile) : Bool := t.fmt = 5 || t.fmt = 6

/-- Binary TEW (R383, R384). -/
def Obligations.ElementwiseBinary : Prop :=
  ∀ r ∈ Spec.tewTable, ∀ (n : Voice) (w : Word) (s : State), issues s n w = true →
    insnOf w.toNat = some (0x27, r.minor) →
    let d := tileOf s n (fD w.toNat)
    let a := tileOf s n (fA w.toNat)
    let b := tileOf s n (fB w.toNat)
    d.live = true → a.live = true → b.live = true →
    Spec.isFloat d = true → Spec.isFloat a = true → Spec.isFloat b = true →
    d.rows = a.rows → d.cols = a.cols → r.fits a b = true →
    let cell := fun i j =>
      let x := Spec.operand a i j
      let y := Spec.operand b (r.elem i j).1 (r.elem i j).2
      let q := (fmtOf d.fmt).round (r.op x.1 y.1)
      (q.1, q.2 || x.2 || y.2)
    exec (r.instr n) s = .next (pcNext n (fillVals n (fD w.toNat) cell s))

/-- A unary row of TEW: MINOR, command, the formats that it takes, and code and S of a finite operand in a format. -/
structure Sys2Proof.Spec.TewUnaryRow where
  minor : Nat
  instr : Voice → Instr
  formats : Nat → Bool
  value : Nat → Fl → Nat × Bool

def Sys2Proof.Spec.tewUnaryTable : List Spec.TewUnaryRow :=
  let float := fun f => f == 5 || f == 6
  [{ minor := 0x10, instr := .tewCvt, formats := fun f => 3 ≤ f && f ≤ 7, value := toFmt },
   { minor := 0x11, instr := .tewExp, formats := float, value := approxTo expApprox },
   { minor := 0x12, instr := .tewRsqrt, formats := float, value := fun f x => match x with
      | .fin neg 0 _ => (topOf f neg, true)
      | .fin true _ _ => ((fmtOf f).nan, false)
      | x => approxTo rsqrtApprox f x },
   { minor := 0x13, instr := .tewRecip, formats := float, value := fun f x => match x with
      | .fin neg 0 _ => (topOf f neg, true)
      | x => approxTo recipApprox f x },
   { minor := 0x14, instr := .tewSilu, formats := float, value := approxTo siluApprox }]

/-- Unary TEW (R383, R384); the last units of an approximation are free (log entry 3). -/
def Obligations.ElementwiseUnary : Prop :=
  ∀ r ∈ Spec.tewUnaryTable, ∀ (n : Voice) (w : Word) (s : State), issues s n w = true →
    insnOf w.toNat = some (0x27, r.minor) →
    let d := tileOf s n (fD w.toNat)
    let a := tileOf s n (fA w.toNat)
    d.live = true → a.live = true → r.formats d.fmt = true → r.formats a.fmt = true → d.rows = a.rows → d.cols = a.cols →
    let cell := fun i j =>
      let x := Spec.operand a i j
      let q := r.value d.fmt x.1
      (q.1, q.2 || x.2)
    exec (r.instr n) s = .next (pcNext n (fillVals n (fD w.toNat) cell s))

/-- TRED (R385). -/
def Obligations.Reductions : Prop :=
  ∀ r ∈ [(0x00, Instr.rsum, fun l => Fl.sum l), (0x01, Instr.rsumsq, fun l => Fl.sum (l.map fun x => x.mul x)),
      (0x02, Instr.rmax, rowMax)],
    ∀ (n : Voice) (w : Word) (s : State), issues s n w = true → insnOf w.toNat = some (0x28, r.1) →
    let d := tileOf s n (fD w.toNat)
    let a := tileOf s n (fA w.toNat)
    d.live = true → a.live = true → Spec.isFloat d = true → Spec.isFloat a = true → a.rows ≤ d.rows →
    let cell := fun i j => if j = 0 ∧ i < a.rows
      then (fmtOf d.fmt).round (r.2.2 ((List.range a.cols).map fun k => elemVal a.fmt (tileCode a i k)))
      else (tileCode d i j, false)
    exec (r.2.1 n) s = .next (pcNext n (fillVals n (fD w.toNat) cell s))

/-- The element layout of tiles (R333, R335), in which TEW, TRED, TRDA, TQ and TDQ write. -/
def Obligations.TileElementsReadBack : Prop :=
  ∀ (n : Voice) (d : Fin 16) (f : Nat → Nat → Nat × Bool) (s : State),
    let t := tileOf s n d
    Spec.descriptorRule t.rows t.cols t.fmt = 0 → (∀ i j, (f i j).1 < 2 ^ fmtBits t.fmt) →
    let u := fillVals n d f s
    (∀ i < t.rows, ∀ j < t.cols, tileCode (tileOf u n d) i j = (f i j).1) ∧
    (tileOf u n d = { t with data := (tileOf u n d).data }) ∧
    (∀ e, e ≠ d → tileOf u n e = tileOf s n e) ∧ (voiceOf u n).accs = (voiceOf s n).accs ∧
    (voiceOf u n).s = (voiceOf s n).s ∧
    ((voiceOf u n).sat = true ↔ (voiceOf s n).sat = true ∨ ∃ i < t.rows, ∃ j < t.cols, (f i j).2 = true)

/-- TMMA (R376, R377). -/
def Obligations.MatrixMultiply : Prop :=
  ∀ (n : Voice) (w : Word) (s : State) (cmp : CmpReport) (fp : Bool), issues s n w = true →
    insnOf w.toNat = some (0x24, 0) →
    let x := tileOf s n (fA w.toNat)
    let y := tileOf s n (fB w.toNat)
    let ai := Fin.ofNat 4 (w.extractLsb' 20 2).toNat
    let a := accOf s n ai
    compare n cmp s = none → x.live = true → y.live = true → pairing x.fmt y.fmt = some fp → x.cols = y.cols →
    x.rows ≤ 32 → y.rows ≤ 32 → (a.kind = .empty ∨ a.kind = if fp then .fp32 else .int32) →
    holdsGrant s (.voice n .array) = true →
    let cell := fun i j => if fp
      then let q := binary32.round (dotFl (if a.kind = .empty then .zero else f32v (accAt a i j).toNat) x y i j)
        (w32 q.1, q.2)
      else clamp32 ((if a.kind = .empty then 0 else (accAt a i j).toInt) + dotInt x y i j)
    ∃ u, exec (.tmma n cmp) s = .next (pcNext n u) ∧ Spec.onlyTiles n s u ∧
      (voiceOf u n).tiles = (voiceOf s n).tiles ∧ (voiceOf u n).sc = (voiceOf s n).sc ∧
      (accOf u n ai).kind = (if fp then .fp32 else .int32) ∧
      (∀ i < x.rows, ∀ j < y.rows, accAt (accOf u n ai) i j = (cell i j).1) ∧
      (∀ i j, j < 32 → ¬ (i < x.rows ∧ j < y.rows) → accAt (accOf u n ai) i j = accAt a i j) ∧
      (∀ b, b ≠ ai → accOf u n b = accOf s n b) ∧
      ((voiceOf u n).sat = true ↔ (voiceOf s n).sat = true ∨ ∃ i < x.rows, ∃ j < y.rows, (cell i j).2 = true) ∧
      (voiceOf u n).latchA = some (fA w.toNat) ∧ (voiceOf u n).latchB = some (fB w.toNat)

/-- SCLD, TSACC, TOUT and TRDA (R374, R375, R378 to R380). -/
def Obligations.ScalesAndOutliers : Prop :=
  ∀ (n : Voice) (w : Word) (s : State), issues s n w = true →
    (insnOf w.toNat = some (0x2B, 0) →
      let cnt := (sReg s n (fB w.toNat)).toNat
      let a := baseOf s n (fA w.toNat) (w.getLsbD 9) / 2 * 2
      let as := [a, a + 2 * cnt - 1]
      (∀ ecc, cnt = 0 → exec (.scld n ecc) s = .next (pcNext n s)) ∧
      (1 ≤ cnt → cnt ≤ 256 → reaches s n false a (2 * cnt) = true →
        Spec.leased s as = true → Spec.stripsReady s n as → Spec.readsClean s a (2 * cnt) = true →
        ∃ t u, exec (.scld n []) s = .next t ∧ Spec.upToStrips s n t (pcNext n u) ∧
          Spec.onlyTiles n (releaseSections (sectionsOf as) (Spec.touched s a (2 * cnt))) u ∧
          (voiceOf u n).tiles = (voiceOf s n).tiles ∧ (voiceOf u n).accs = (voiceOf s n).accs ∧
          ∀ i < 256, scAt (voiceOf u n) i =
            let k := (i + 256 - (sReg s n (fD w.toNat)).toNat % 256) % 256
            if k < cnt then le (memRead s.mem a (2 * cnt)) (2 * k) 2 else scAt (voiceOf s n) i)) ∧
    (insnOf w.toNat = some (0x25, 0) →
      let d := Fin.ofNat 4 (w.extractLsb' 20 2).toNat
      let src := Fin.ofNat 4 (w.extractLsb' 18 2).toNat
      let q := wSel s n (fB w.toNat)
      let m := ((sReg s n (fA w.toNat)).extractLsb' 16 6).toNat
      d ≠ src → (accOf s n src).kind = .int32 → (accOf s n d).kind ≠ .int32 → m ≤ 32 → q.n ≤ 32 →
      (wScaleOk s n q q.n = true ∨ m = 0) →
      ∃ u, exec (.tsacc n) s = .next (pcNext n u) ∧ Spec.onlyTiles n s u ∧ (voiceOf u n).tiles = (voiceOf s n).tiles ∧
        accOf u n src = Accum.empty ∧ (accOf u n d).kind = .fp32 ∧
        (∀ i < m, ∀ j < q.n, accAt (accOf u n d) i j = (roundWord
          ((if (accOf s n d).kind = .empty then Fl.zero else f32v (accAt (accOf s n d) i j).toNat).add
            (((ofInt (accAt (accOf s n src) i j).toInt 0 false).mul (xScale s n (sReg s n (fA w.toNat)) i)).mul
              (wScale s n q j)))).1) ∧
        (∀ i j, j < 32 → ¬ (i < m ∧ j < q.n) → accAt (accOf u n d) i j = accAt (accOf s n d) i j)) ∧
    (insnOf w.toNat = some (0x26, 0) →
      let d := Fin.ofNat 4 (w.extractLsb' 20 2).toNat
      let x := tileOf s n (fA w.toNat)
      let pa := baseOf s n (fB w.toNat) true / 4096 * 4096
      x.live = true → (x.fmt = 2 ∨ x.fmt = 5) → (accOf s n d).kind ≠ .int32 → reaches s n false pa 4096 = true →
      Spec.leased s [pa, pa + 4095] = true → Spec.stripsReady s n [pa, pa + 4095] → Spec.readsClean s pa 4096 = true →
      let bs := memRead s.mem pa 4096
      let q := wSel s n (fC w.toNat)
      let sx := xScale s n (Config.toutSel (fC w.toNat) (voiceOf s n).s.toList)
      let r := (List.range (byteAt bs 1)).foldl (fun acc e =>
        let k := le bs (le bs 18 2 + 4 * e) 2
        let j : Int := (k / le bs 4 2 : Nat) - (q.row0 : Int)
        let c : Int := (k % le bs 4 2 : Nat) - (q.col0 : Int)
        if 0 ≤ j ∧ j < min q.n 32 ∧ 0 ≤ c ∧ c < x.cols
        then outlier x sx j.toNat c.toNat (bf16.decode (le bs (le bs 18 2 + 4 * e + 2) 2)) acc else acc)
        ({ kind := .fp32, data := if (accOf s n d).kind = .empty then [] else (accOf s n d).data }, false)
      ∃ t, exec (.tout n []) s = .next t ∧ Spec.upToStrips s n t (pcNext n
        (releaseSections (sectionsOf [pa, pa + 4095]) (setSat n r.2 (setAcc n d r.1 (Spec.touched s pa 4096)))))) ∧
    (insnOf w.toNat = some (0x2C, 0) →
      let t := tileOf s n (fD w.toNat)
      let a := accOf s n (Fin.ofNat 4 (w.extractLsb' 16 2).toNat)
      t.live = true → a.kind ≠ .empty → (t.fmt = 5 ∨ t.fmt = 6 ∨ (t.fmt = 7 ∧ a.kind = .int32)) → t.rows ≤ 32 → t.cols ≤ 32 →
      exec (.trda n) s = .next (pcNext n (fillVals n (fD w.toNat) (fun i j => toFmt t.fmt (if a.kind = .int32
        then ofInt (accAt a i j).toInt 0 false else f32v (accAt a i j).toNat)) s)))

/-- TQ and TDQ (R327, R381, R382). -/
def Obligations.Quantisation : Prop :=
  ∀ (n : Voice) (w : Word) (s : State), issues s n w = true →
    let d := tileOf s n (fD w.toNat)
    let a := tileOf s n (fA w.toNat)
    d.live = true → a.live = true → d.rows = a.rows → d.cols = a.cols →
    (insnOf w.toNat = some (0x29, 0) →
      let r := tileOf s n (fB w.toNat)
      r.live = true → (d.fmt = 1 ∨ d.fmt = 2) → Spec.isFloat a = true → r.fmt = 6 → a.rows ≤ r.rows →
      exec (.tq n) s = .next (pcNext n (fillVals n (fD w.toNat) (fun i j =>
        let x := quantise (elemVal a.fmt (tileCode a i j)) (f32v (tileCode r i 0)) (if d.fmt = 1 then 7 else 127)
        (unsigned (fmtBits d.fmt) x.1, x.2)) s))) ∧
    (insnOf w.toNat = some (0x2A, 0) →
      let q := wSel s n (fB w.toNat)
      let fill := fun (side : Nat → Nat → Option Fl) (s : State) => fillVals n (fD w.toNat) (fun i j =>
        let c := tileCode a i j
        if isEscape a.fmt c then
          match side (q.row0 + i) (q.col0 + j) with
          | some v => toFmt d.fmt v
          | none => ((toFmt d.fmt .zero).1, true)
        else
          let y := binary32.round ((elemVal a.fmt c).mul (wScale s n q i))
          let x := toFmt d.fmt (f32v y.1)
          (x.1, x.2 || y.2)) s
      let pa := baseOf s n (fC w.toNat) true / 4096 * 4096
      let as := [pa, pa + 4095]
      Spec.isFloat d = true → 1 ≤ a.fmt → a.fmt ≤ 4 → wScaleOk s n q a.rows = true →
      (∀ ecc, fC w.toNat = 0 → exec (.tdq n ecc) s = .next (pcNext n (fill (fun _ _ => none) s))) ∧
      (fC w.toNat ≠ 0 → reaches s n false pa 4096 = true → Spec.leased s as = true → Spec.stripsReady s n as →
        Spec.readsClean s pa 4096 = true →
        ∃ t, exec (.tdq n []) s = .next t ∧ Spec.upToStrips s n t (pcNext n (releaseSections (sectionsOf as)
          (fill (sideValue (memRead s.mem pa 4096)) (Spec.touched s pa 4096))))))

/-- BAR, WAITEV, SETEV and BRTH (R388 to R390). -/
def Obligations.VoiceSynchronisation : Prop :=
  ∀ (n : Voice) (w : Word) (s : State), issues s n w = true →
    let mask := (w.extractLsb' 0 16).toNat
    let l := (s.evc.latch.extractLsb' 48 16).toNat &&& mask
    (∀ c i k, insnOf w.toNat = some (0x34, 0) → (voiceOf s n).run = .set c i → setOf s c = some k → pairOn s n = false →
      (∃ v ∈ k.voices, v ≠ n ∧ (voiceOf s v).wait ≠ .bar ∧ (voiceOf s v).stopped = false) →
      exec (.bar n) s = .next (setVoice n (fun v => { v with wait := .bar }) (toIdle n s))) ∧
    (∀ c i k, insnOf w.toNat = some (0x34, 0) → (voiceOf s n).run = .set c i → setOf s c = some k → n ∈ k.voices →
      pairOn s n = false → (∀ v ∈ k.voices, pairOn s v = false) →
      (∀ v ∈ k.voices, v = n ∨ (voiceOf s v).wait = .bar ∨ (voiceOf s v).stopped = true) →
      ∃ t, exec (.bar n) s = .next t ∧ t = { toIdle n s with voices := t.voices } ∧
        ∀ v, voiceOf t v = if v ∈ k.voices ∧ (v = n ∨ (voiceOf s v).wait = .bar)
          then { voiceOf s v with wait := .none, pc := (voiceOf s v).pc + 1 } else voiceOf s v) ∧
    (insnOf w.toNat = some (0x35, 0) →
      (mask = 0 → exec (.waitev n) s = .next (pcNext n (setReg n (fD w.toNat) 0 s))) ∧
      (l ≠ 0 → outranked s n = false → ∃ u, exec (.waitev n) s = .next (pcNext n (setReg n (fD w.toNat) (BitVec.ofNat 32 l) u)) ∧
        u = { s with evc := { s.evc with latch := u.evc.latch } } ∧
        (∀ i < 64, u.evc.latch.getLsbD i = (s.evc.latch.getLsbD i &&
          !(w.getLsbD 16 && decide (48 ≤ i) && w.getLsbD (i - 48))))) ∧
      (mask ≠ 0 → l = 0 → pairOn s n = false →
        exec (.waitev n) s = .next (toIdle n (setVoice n (fun v => { v with wait := .event }) s)))) ∧
    (insnOf w.toNat = some (0x36, 0) → ∃ u, exec (.setev n) s = .next (pcNext n u) ∧
      u = { s with evc := { s.evc with latch := u.evc.latch, count := u.evc.count, time := u.evc.time } } ∧
      (∀ i < 64, u.evc.latch.getLsbD i = (s.evc.latch.getLsbD i || (decide (48 ≤ i) && w.getLsbD (i - 48)))) ∧
      (∀ i : Source, u.evc.count[i] =
        if 48 ≤ i.val ∧ w.getLsbD (i.val - 48) = true then min 255 (s.evc.count[i] + 1) else s.evc.count[i])) ∧
    (insnOf w.toNat = some (0x37, 0) → w.getLsbD 0 = false → holdsGrant s (.voice n .array) = true →
      ∃ u, exec (.brthHold n) s = .next (pcNext n u) ∧ Spec.onlyTiles n s u ∧
        (voiceOf u n).tiles = (voiceOf s n).tiles ∧ (voiceOf u n).accs = (voiceOf s n).accs ∧
        (voiceOf u n).arrayFrom = none) ∧
    (insnOf w.toNat = some (0x37, 0) → w.getLsbD 0 = true →
      ∃ u, exec (.brthRelease n) s = .next (pcNext n u) ∧ u = { s with brg := u.brg } ∧
        holdsGrant u (.voice n .array) = false ∧ u.brg.core.reqs = s.brg.core.reqs.filter (·.unit != .voice n .array))

/-! ### Start-up (04, 21) -/

/-- PORST_N (R79, R486): the state that it leaves, and what it keeps. -/
def Obligations.PowerOnReset : Prop :=
  ∀ (s : State) (b : BitVec 2),
    (∃ t, exec .porstNAssert s = .next t ∧ t.porst = true ∧
      t = { State.reset with
        pending := s.pending, freeCtr := s.freeCtr, fuses := s.fuses, nand := s.nand, out := s.out, jtag := s.jtag
        porst := true, link := { Link.reset with perst := s.link.perst }
        pwr := { Pwr.reset with gpioIn := s.pwr.gpioIn, warnAt := if s.fuses.grade then 95 else 85 } }) ∧
    (s.porst = true → ∃ t, exec (.porstNRelease b) s = .next t ∧ t.porst = false ∧ t.bsc.stage = .otp ∧
      t.bsc.bootSel = b ∧ t.jtag = { s.jtag with driving := false } ∧ t.mem = [] ∧ t.fuses = s.fuses ∧ t.nand = s.nand ∧
      t.link.perst = s.link.perst ∧ t.pwr.gpioIn = s.pwr.gpioIn ∧ t.cmds = [] ∧ t.score = none ∧ t.brg = Brg.reset) ∧
    (s.porst = false → exec (.porstNRelease b) s = .next s)

/-- OTP, SCORE_READ and SCORE_VERIFY (R79, R84, R85, R99, R102, R103). -/
def Obligations.TheScoreIsReadAndJudged : Prop :=
  ∀ s : State, s.porst = false →
    (s.bsc.stage = .otp → ∃ t, exec .otpLoadComplete s = .next t ∧ t.glb.loaded = true ∧ t.glb.serial = s.fuses.serial ∧
      t.bsc.rollback = s.fuses.rollback ∧ t.bsc.revoked = s.fuses.revoked ∧ islRuns t 28 = true ∧
      t.bsc.stage = .scoreRead ∧ t.bsc.copy = decide (s.bsc.bootSel = 1) ∧
      t.bsc.tries = (if s.bsc.bootSel = 1 then [false] else if s.bsc.bootSel = 2 then [] else [true])) ∧
    (∀ f h, s.bsc.stage = .scoreRead → s.bsc.header = [] → h.length = 128 →
      (f.present = false → exec (.scoreHeaderRead f h) s = .next (copyFails 1 s)) ∧
      (f.present = true → headerOk h = false → exec (.scoreHeaderRead f h) s = .next (copyFails 2 s)) ∧
      (f.present = true → headerOk h = true → copyBase s.bsc.copy + scoreLen h ≤ f.density →
        ∃ t, exec (.scoreHeaderRead f h) s = .next t ∧ t = { s with bsc := { s.bsc with
          header := h, percent := t.bsc.percent, offset := 128 } })) ∧
    (∀ c, s.bsc.stage = .scoreRead → s.bsc.header ≠ [] → c.length = scoreLen s.bsc.header → c.take 128 = s.bsc.header →
      ∃ t, exec (.scoreCopyReadEnd c) s = .next t ∧ t.bsc.stage = .scoreVerify ∧ t.bsc.image = c ∧ t.bsc.percent = 0) ∧
    (s.bsc.stage = .scoreVerify →
      (∀ r, judgeScore s s.bsc.image = .error r → exec .scoreVerifyEnd s = .next (standingChange (copyFails r) s)) ∧
      (∀ c, judgeScore s s.bsc.image = .ok c → ∃ t, exec .scoreVerifyEnd s = .next t ∧ t.score = some c ∧
        t.bsc.stage = .islands ∧ t.bsc.version = c.version ∧ t.brg.ceil = c.breath.ceil ∧ t.brg.ceilLow = c.breath.ceilLow ∧
        t.brg.slope = c.breath.slope ∧ t.brg.ioCeil = c.breath.ioCeil ∧ t.brg.margin = c.breath.margin ∧
        t.evc.claimMode = !c.queueMode)) ∧
    (∀ r b rest, s.bsc.tries = b :: rest →
      (copyFails r s).bsc.stage = .scoreRead ∧ (copyFails r s).bsc.copy = b ∧ (copyFails r s).bsc.tries = rest ∧
      (if s.bsc.copy then (copyFails r s).bsc.bReason else (copyFails r s).bsc.aReason) = r) ∧
    (∀ r, s.bsc.tries = [] → (copyFails r s).bsc.stage = .mute ∧ (copyFails r s).bsc.muteCause = 1 ∧
      (copyFails r s).brg.core.grants = [] ∧ (copyFails r s).brg.io.grants = [])

/-- An error record finds room in the queue (R207, R218, R219). -/
def Sys2Proof.Spec.canLog (s : State) : Bool :=
  !muted s && !s.isl.refLost && s.hif.errq.size != 0 && decide (s.hif.errWait.length ≤ s.hif.errq.room)

/-- ISLANDS_EXIT, CHANNEL_TRAIN_ATTEMPT_END and EARLY_SERVICE_START (R103 to R107, R254). -/
def Obligations.TrainingAndEarlyService : Prop :=
  ∀ s : State, s.porst = false →
    (s.bsc.stage = .islands → ((startList s).all fun i => islRuns s (Fin.ofNat 32 i)) = true →
      ∃ t, exec .islandsExit s = .next t ∧ t.bsc.stage = .train ∧
        (∀ p : Part, pageOpen t p = (partCfg s p).isSome) ∧
        (∀ c : Chan, c = 0 ∨ c = 8 → (chanOf t c).step = 1 ∧ (chanOf t c).attempt = 1)) ∧
    (∀ (c : Chan) (ms : Nat), isTraining s c = true → holdsGrant s (.dram c) = true →
      (s.bsc.joined ||| BitVec.ofNat 16 (2 ^ c.val) ≠ BitVec.allOnes 16 →
        ∃ t, exec (.channelTrainAttemptEnd c none ms) s = .next t ∧ (chanOf t c).joined = true ∧ (chanOf t c).step = 8 ∧
          t.bsc.joined = s.bsc.joined ||| BitVec.ofNat 16 (2 ^ c.val) ∧ t.bsc.stage = .train ∧
          t.evc.latch.getLsbD 33 = true) ∧
      (s.bsc.joined ||| BitVec.ofNat 16 (2 ^ c.val) = BitVec.allOnes 16 →
        ∃ t, exec (.channelTrainAttemptEnd c none ms) s = .next t ∧ (t.bsc.stage = .preload ∨ t.bsc.stage = .full)) ∧
      (∀ k : Fin 8, (chanOf s c).attempt < 3 →
        ∃ t, exec (.channelTrainAttemptEnd c (some k) ms) s = .next t ∧ (chanOf t c).step = 1 ∧
          (chanOf t c).attempt = (chanOf s c).attempt + 1 ∧ t.bsc.joined = s.bsc.joined) ∧
      (∀ k : Fin 8, 3 ≤ (chanOf s c).attempt →
        ∃ t, exec (.channelTrainAttemptEnd c (some k) ms) s = .next t ∧ (chanOf t c).failed = true ∧
          (chanOf t c).step = k.val + 1 ∧ t.bsc.trainFail = true ∧ holdsGrant t (.dram c) =
            ((s.brg.io.grants.eraseP (·.unit == .dram c)).any (·.unit == .dram c)) ∧
          (Spec.canLog s = true → ∃ r, t.hif.errWait = s.hif.errWait ++ [r] ∧ r.kind = 0x12 ∧
            r.arg1 = (chanOf s c).attempt ∧ r.arg2 = c.val))) ∧
    (∀ e, earlyCfg s = some e → (s.bsc.stage = .train ∨ s.bsc.stage = .preload) → s.flc.ready = true →
      s.bsc.early = false → s.bsc.earlyFail = false →
      (((startPages s e).map (·.1 % 2)).dedup.all (holdsFlash s .system)) = true →
      (∀ m, earlyImage s e = .ok m → ∃ t, exec .earlyServiceStart s = .next t ∧ t.bsc.early = true ∧ t.early = some m ∧
        t.hif.earlyId = m.hdr.modelId ∧
        (∀ i : Fin 64, 48 ≤ i.val → t.strips[i].owner = some .early ∧ t.strips[i].st = .free) ∧
        (∀ i : Fin 64, i.val < 48 → t.strips[i] = s.strips[i]) ∧ t.evc.latch.getLsbD 37 = true) ∧
      (∀ x, earlyImage s e = .error x → ∃ t, exec .earlyServiceStart s = .next t ∧ t.bsc.earlyFail = true ∧
        t.bsc.early = false ∧ t.early = s.early ∧ t.strips = s.strips))

/-! ### The breath governor (02) -/

/-- The rule the governor exists for (R30, R40): no grant takes the total beyond the effective ceiling. -/
def Obligations.GrantsStayUnderTheCeiling : Prop :=
  ∀ (l : Ledger) (reqs : List BreathReq) (s : State), s.porst = false →
    exec (.breathGrant l reqs) s = .next (grantRow l reqs s) ∧
    total (breathGrant l reqs s) l ≤ max (total s l) (effCeil s l) ∧
    ∀ l', l' ≠ l → (ledger (breathGrant l reqs s) l').grants = (ledger s l').grants

/-- BREATH_GRANT of one request, and LEASE_EXPIRY (R37, R38, R40, R510). -/
def Obligations.GrantsAndLeases : Prop :=
  ∀ s : State, s.porst = false →
    (∀ (l : Ledger) (r : BreathReq), ledgerOf r.unit = l → tagOk s r = true → (ledger s l).reqs = [] →
      streamerFull s r.unit = false → muted s = false → s.pwr.st ≠ .rest → s.isl.refLost = false → s.vib.runFrom = none →
      let w : Waiting := { unit := r.unit, tag := r.tag, since := s.clk }
      (l = .core → overMax s (withGrant l w s) = false) → total (withGrant l w s) l ≤ ledgerLimit (noteLedger l s) l →
      exec (.breathGrant l [r]) s = .next (grantRow l [r] s) ∧ (ledger (breathGrant l [r] s) l).reqs = [] ∧
      (ledger (breathGrant l [r] s) l).grants =
        (if oneGrant r.unit then (ledger s l).grants.filter (·.unit != r.unit) else (ledger s l).grants) ++
          [{ id := s.brg.nextId, unit := r.unit, tag := r.tag, since := s.clk }]) ∧
    (∀ (id : Nat), (s.brg.core.grants.find? fun g => g.id == id && decide (g.since + 1000 ≤ s.clk) && isIdleBreath g) = none →
      ∃ t, exec (.leaseExpiry id) s = .next t ∧ t.isl = s.isl ∧
        ∀ l, (ledger t l).grants = (ledger s l).grants.filter fun g => !(g.id == id && decide (g.since + 1000 ≤ s.clk))) ∧
    (∀ (id : Nat) (g : Grant) (v : Voice),
      (s.brg.core.grants.find? fun g => g.id == id && decide (g.since + 1000 ≤ s.clk) && isIdleBreath g) = some g →
      g.unit = .voice v .idle →
      let w : Waiting := { unit := .voice v .idle, tag := voiceTag s v, since := s.clk }
      let fits := overMax s (withGrant .core w s) = false ∧
        total (withGrant .core w s) .core ≤ ledgerLimit (noteLedger .core s) .core
      ∃ t, exec (.leaseExpiry id) s = .next t ∧
        (fits → t.isl = s.isl ∧ t.brg.core.grants = s.brg.core.grants.filter (·.unit != .voice v .idle) ++
          [{ id := s.brg.nextId, unit := .voice v .idle, tag := voiceTag s v, since := s.clk }]) ∧
        (¬ fits → holdsGrant t (.voice v .idle) = false ∧ (islOf t (voiceIsland v)).st ≠ .run ∧
          t.brg.core.reqs.any (·.unit == .voice v .idle) = true))

/-- The pin, over-current and the BRG registers (R30, R43, R46 to R52). -/
def Obligations.CeilingsAndOverCurrent : Prop :=
  ∀ s : State, s.porst = false →
    (s.brg.lim = false → ∃ t, exec .breathLimAssert s = .next t ∧ t.brg.lim = true ∧
      effCeil t .core = min s.brg.ceilLow s.brg.ceil ∧ effCeil t .io = min s.brg.ioCeilLow s.brg.ioCeil ∧
      t.evc.count[2] = min 255 (s.evc.count[2] + 1)) ∧
    (∃ t, exec .breathLimRelease s = .next t ∧ t = { s with brg := { s.brg with lim := false, starved := 0 } } ∧
      effCeil t .core = s.brg.ceil ∧ effCeil t .io = s.brg.ioCeil) ∧
    (∀ core io : Nat, ∃ t, exec (.overCurrentSample core io) s = .next t ∧
      t.brg.core.meas = core ∧ t.brg.io.meas = io ∧ t.brg.core.grants = s.brg.core.grants ∧
      (s.brg.core.oc = false → effCeil s .core + s.brg.margin < core → s.brg.core.ocRun = 3 →
        t.brg.core.oc = true ∧ slopeOf t .core = 0) ∧
      (core ≤ effCeil s .core + s.brg.margin → t.brg.core.ocRun = 0 ∧ t.brg.core.oc = s.brg.core.oc)) ∧
    (∀ v : Word, served s 0x1010 = true → ∃ t, exec (.brgStatusWrite v) s = .next t ∧
      t = { s with brg := { s.brg with core := t.brg.core, io := t.brg.io } } ∧
      t.brg.core.oc = (s.brg.core.oc && !v.getLsbD 1) ∧ t.brg.io.oc = (s.brg.io.oc && !v.getLsbD 2) ∧
      t.brg.core.grants = s.brg.core.grants ∧ t.brg.io.grants = s.brg.io.grants) ∧
    (∀ v : Word, served s 0x1000 = true →
      let c := (v.extractLsb' 0 9).toNat
      (8 ≤ c → c ≤ 400 → 6 + minSum s ≤ c →
        exec (.brgCeilWrite v) s = .next { s with brg := { s.brg with ceil := c } }) ∧
      (¬ (8 ≤ c ∧ c ≤ 400) → exec (.brgCeilWrite v) s = .next (regRefused 0x1000 v 1 s)) ∧
      (8 ≤ c → c ≤ 400 → c < 6 + minSum s → exec (.brgCeilWrite v) s = .next (regRefused 0x1000 v 2 s))) ∧
    (∀ v : Word, served s 0x1004 = true →
      let c := (v.extractLsb' 0 9).toNat
      (8 ≤ c → c ≤ 400 → ∃ t, exec (.brgCeilLowWrite v) s = .next t ∧
        t = { s with brg := { s.brg with ceilLow := c, starved := t.brg.starved } } ∧
        (s.brg.lim = false → t.brg.starved = s.brg.starved)) ∧
      (¬ (8 ≤ c ∧ c ≤ 400) → exec (.brgCeilLowWrite v) s = .next (regRefused 0x1004 v 1 s))) ∧
    (served s 0x1024 = true → ∃ u, exec .brgPeakRead s = .next (reply (.bar0 0x1024 (BitVec.ofNat 32
        (max s.brg.core.peak (total s .core) % 512 + 0x10000 * (max s.brg.io.peak (total s .io) % 128)))) u) ∧
      u.brg.core.peak = total s .core ∧ u.brg.io.peak = total s .io ∧
      u = { s with brg := { s.brg with core := u.brg.core, io := u.brg.io } })

/-! ### Clocks and the time base (03) -/

/-- The monitors (R61, R63 to R68). -/
def Obligations.ClockMonitoring : Prop :=
  ∀ s : State, s.porst = false →
    (∀ counts : List Nat, counts.length = 32 → s.isl.refLost = false →
      (∀ i : Island, (islOf s i).requal = none ∧ (islRuns s i = true → judge (targetOf s i) (counts.getD i.val 0) = 0)) →
      ∃ t, exec (.clockMonitorWindow counts) s = .next t ∧ t = { s with isl := t.isl } ∧ t.isl.fault = s.isl.fault ∧
        t.isl.spreadActive = s.isl.spread ∧ t.isl.discard = false ∧
        ∀ i : Island, (islOf t i).st = (islOf s i).st ∧ (islOf t i).bad = (if islRuns s i then false else (islOf s i).bad) ∧
          (islRuns s i = true → (islOf s i).fresh = false → (islOf t i).meas = counts.getD i.val 0 * 2 / 5)) ∧
    (∀ (i : Island) (count : Nat), i ≠ 0 → (islOf s i).st = .run → (islOf s i).fresh = false → (islOf s i).requal = none →
      let s' := setIsl i (fun x => { x with meas := count * 2 / 5, target := targetMhz s i }) s
      (count = 0 → windowOf i count false s = clockFault i 1 s') ∧
      (judge (targetOf s i) count ≥ 2 → (islOf s i).bad = false →
        windowOf i count false s = setIsl i (fun x => { x with bad := true }) s') ∧
      (judge (targetOf s i) count ≥ 2 → (islOf s i).bad = true →
        windowOf i count false s = clockFault i (judge (targetOf s i) count) s')) ∧
    (∀ count : Nat, s.isl.refLost = false → 60 * 768 ≤ 100 * count → 100 * count ≤ 140 * 768 →
      exec (.aonClockCheckWindow count) s = .next { s with isl := { s.isl with aonBad := false } }) ∧
    (s.isl.refLost = false → ∀ c, c = .refclk38Loss ∨ c = .aonClockCheckWindow 0 → ∃ t, exec c s = .next t ∧
      (∀ i : Island, i ≠ 0 → (islOf t i).st = .fault) ∧ (islOf t 0).st = (islOf s 0).st ∧ t.isl.fault = s.isl.fault ||| 1 ∧
      t.isl.refLost = true ∧ t.link.up = false ∧ t.tbs.lock = .free ∧ t.hif.errWait = [] ∧
      t.evc.count[5] = min 255 (s.evc.count[5] + 1)) ∧
    (∀ i : Island, served s 0x2108 = true → requalifies i.val = true → (islOf s i).st = .fault → (islOf s i).requal = none →
      muted s = false → s.isl.refLost = false → exec (.islFaultWrite (BitVec.ofNat 32 (2 ^ i.val))) s =
        .next (setIsl i (fun x => { x with requal := some 4, ramped := false, bad := false }) s)) ∧
    (∀ (i : Island) (k : Nat), 1 < k →
      requalWindow i k 0 s = setIsl i (fun x => { x with requal := some (k - 1) }) s ∧
      (islOf (requalWindow i 1 0 s) i).st = .collapsed ∧ (requalWindow i 1 0 s).isl.fault.getLsbD i.val = false)

/-- ISLAND_GATE and ISLAND_WAKE_COMPLETE (R37, R61, R62). -/
def Obligations.GatingAndWaking : Prop :=
  ∀ (s : State) (i : Island), s.porst = false → muted s = false →
    (∀ b, i = 0 ∨ i = 24 ∨ i = 28 ∨ i = 30 ∨ islandIdle s i = false → exec (.islandGate i b) s = .next s) ∧
    (i ≠ 0 → i ≠ 24 → i ≠ 28 → i ≠ 30 → islandIdle s i = true → (islOf s i).st = .run →
      (∃ t, exec (.islandGate i false) s = .next t ∧ (islOf t i).st = .gated ∧ (∀ j, j ≠ i → islOf t j = islOf s j) ∧
        t = { s with isl := t.isl, brg := t.brg } ∧
        (∀ g ∈ t.brg.core.grants ++ t.brg.io.grants, unitIsland g.unit ≠ i.val)) ∧
      (s.isl.keep.getLsbD i.val = false → contentsIdle s i = true →
        ∃ t, exec (.islandGate i true) s = .next t ∧ (islOf t i).st = .collapsed ∧ (∀ j, j ≠ i → islOf t j = islOf s j) ∧
          (∀ g ∈ t.brg.core.grants ++ t.brg.io.grants, unitIsland g.unit ≠ i.val) ∧
          (∀ a, ¬ (17 ≤ i.val ∧ i.val ≤ 20 ∧ 0x800000 * (i.val - 17) ≤ a ∧ a < 0x800000 * (i.val - 17) + 0x600000) →
            ¬ (i.val = 21 ∧ 0x2000000 ≤ a ∧ a < 0x3000000) → memByte t.mem a = memByte s.mem a))) ∧
    (s.bsc.stage = .full → s.pwr.st = .on → s.isl.refLost = false → i ≠ 29 →
      (s.isl.acts.filter fun a => regIsland a.1 == i.val) = [] →
      let voice := 1 ≤ i.val ∧ i.val ≤ 16
      let idle := holdsGrant s (.voice (Fin.ofNat 16 (i.val - 1)) .idle) = true
      let mayRun := (voice ∧ ((islOf s i).st = .gated ∨ (islOf s i).st = .collapsed) ∧ idle) ∨
        (¬ voice ∧ (islOf s i).st = .gated ∧ (unitOf i = none ∨ unitGranted s i = true)) ∨
        (¬ voice ∧ (islOf s i).st = .collapsed ∧ holdsGrant s (.ramp i) = true)
      (mayRun → ∃ t, exec (.islandWakeComplete i) s = .next t ∧ islRuns t i = true ∧ ∀ j, j ≠ i → islOf t j = islOf s j) ∧
      (∀ u, ¬ voice → (islOf s i).st = .gated → unitOf i = some u → unitGranted s i = false →
        exec (.islandWakeComplete i) s = .next (request u .system s)) ∧
      ((islOf s i).st = .fault → (islOf s i).requal.isSome = true → (islOf s i).ramped = false →
        ((voice ∧ idle) ∨ (¬ voice ∧ holdsGrant s (.ramp i) = true)) →
        ∃ t, exec (.islandWakeComplete i) s = .next t ∧
          islOf t i = { islOf s i with ramped := true, fresh := true, bad := false } ∧ ∀ j, j ≠ i → islOf t j = islOf s j))

/-- TBS_NOW never decreases (R70). -/
def Obligations.TimeNeverRunsBack : Prop :=
  ∀ (c : Instr) (s : State), c ≠ .porstNAssert → (∀ b, c ≠ .porstNRelease b) →
    (c = .tbsTick → -200000 ≤ s.tbs.trim ∧ s.tbs.trim ≤ 200000 ∧ 0 ≤ s.tbs.acc ∧ s.tbs.acc < 1000000000 ∧
      s.tbs.now + 28 < 2 ^ 64) →
    ∃ t, exec c s = .next t ∧ s.tbs.now ≤ t.tbs.now

/-- TBS_TICK and the downbeat's events (R67, R70, R73, R434, R435). -/
def Obligations.TheTimeBaseCounts : Prop :=
  ∀ s : State, s.porst = false →
    (s.tbs.trim = 0 → s.tbs.acc = 0 → s.tbs.now + 28 < 2 ^ 64 →
      let d := if s.isl.refLost then 25 else if s.tbs.cycle = 23 then 27 else 26
      ∃ t, exec .tbsTick s = .next t ∧ t.tbs.now = s.tbs.now + d ∧ t.clk = s.clk + d ∧
        (s.isl.refLost = false → t.tbs.cycle = if s.tbs.cycle = 23 then 0 else s.tbs.cycle + 1) ∧
        (t.tbs.crossed = true ↔ s.tbs.crossed = true ∨ s.tbs.now / 1024000 < (s.tbs.now + d) / 1024000)) ∧
    (s.tbs.crossed = false → exec .downbeatCrossing s = .next s) ∧
    (s.tbs.crossed = true → ∃ t, exec .downbeatCrossing s = .next t ∧ t.tbs.crossed = false ∧
      t.dbOut = (s.dbOut || s.ens.dbOutEn) ∧ t.tbs.now = s.tbs.now ∧
      (s.tbs.lock = .leader → t.tbs.dbCount = s.tbs.dbCount + 1 ∧ t.tbs.loadedLeft = s.tbs.loadedLeft - 1) ∧
      (s.tbs.lock ≠ .leader → t.tbs.dbCount = s.tbs.dbCount)) ∧
    exec .downbeatOutPulseEnd s = .next { s with dbOut := false } ∧
    exec .downbeatInCapture s = .next { s with ens := { s.ens with dbin := s.tbs.now } } ∧
    (s.tbs.lock = .align ∨ s.tbs.lock = .locked → exec .downbeatMissed s = .next { s with tbs := { s.tbs with
      miss := min 255 (s.tbs.miss + 1), goodRun := 0
      lock := if 4 ≤ min 255 (s.tbs.miss + 1) then .holdover else s.tbs.lock } }) ∧
    (s.tbs.lock = .holdover → exec .downbeatMissed s =
      .next { s with tbs := { s.tbs with miss := min 255 (s.tbs.miss + 1), goodRun := 0 } }) ∧
    (s.tbs.lock = .standalone ∨ s.tbs.lock = .leader ∨ s.tbs.lock = .seek ∨ s.tbs.lock = .free →
      exec .downbeatMissed s = .next s)

/-- TBS_LOAD, TBS_NOW_LO, the alarms (R72, R75 to R78). -/
def Obligations.AlarmsAndLoads : Prop :=
  ∀ s : State, s.porst = false →
    (∀ v : Word, served s 0x2010 = true → v.getLsbD 0 = true →
      ((s.tbs.lock = .standalone ∨ s.tbs.lock = .leader) → s.tbs.now ≤ s.tbs.set →
        exec (.tbsLoad v) s = .next { s with tbs := { s.tbs with
          now := s.tbs.set, loadedLeft := if s.tbs.lock = .leader then 8 else s.tbs.loadedLeft } }) ∧
      (¬ ((s.tbs.lock = .standalone ∨ s.tbs.lock = .leader) ∧ s.tbs.now ≤ s.tbs.set) →
        ∃ t, exec (.tbsLoad v) s = .next t ∧ t = regRefused 0x2010 v 2 s ∧ t.tbs = s.tbs)) ∧
    (served s 0x2000 = true → exec .tbsNowLoRead s = .next (reply (.bar0 0x2000 (BitVec.ofNat 32 s.tbs.now))
      { s with tbs := { s.tbs with hiShadow := BitVec.ofNat 32 (s.tbs.now / 2 ^ 32) } })) ∧
    (∀ (a : Fin 2) (v : Word), served s (0x2024 + 8 * a.val) = true → ∃ t, exec (.tbsAlarmHiWrite a v) s = .next t ∧
      t = { s with tbs := { s.tbs with alarms := t.tbs.alarms } } ∧
      t.tbs.alarms[a] = { s.tbs.alarms[a] with value := s.tbs.alarms[a].stagedLo.toNat + 2 ^ 32 * v.toNat, fresh := true } ∧
      ∀ b, b ≠ a → t.tbs.alarms[b] = s.tbs.alarms[b]) ∧
    (∀ (a : Fin 2) (v : Word), served s (0x2020 + 8 * a.val) = true →
      ∃ t, exec (.registerWrite (0x2020 + 8 * a.val) [(v, 0xF)]) s = .next t ∧
        t = { s with tbs := { s.tbs with alarms := t.tbs.alarms } } ∧
        t.tbs.alarms[a] = { s.tbs.alarms[a] with stagedLo := v }) ∧
    (∀ a : Fin 2, let al := s.tbs.alarms[a]
      (al.armed = false ∨ al.fresh = true ∨ s.tbs.now < al.value → exec (.alarmFire a) s = .next s) ∧
      (al.armed = true → al.fresh = false → al.value ≤ s.tbs.now → ∃ t, exec (.alarmFire a) s = .next t ∧ t.tbs.alarms[a].fired = true ∧
        t.tbs.now = s.tbs.now ∧ t.evc.count[38] = min 255 (s.evc.count[38] + 1) ∧
        (al.period = 0 → t.tbs.alarms[a].armed = false ∧ t.tbs.alarms[a].value = al.value) ∧
        (0 < al.period → s.tbs.now + al.period < 2 ^ 64 → t.tbs.alarms[a].armed = true ∧
          s.tbs.now < t.tbs.alarms[a].value ∧ t.tbs.alarms[a].value ≤ s.tbs.now + al.period ∧
          (t.tbs.alarms[a].value - al.value) % al.period = 0)))

/-! ### The host link (05) -/

/-- CONFIG_REQUEST, LINK_UP, LTR_MESSAGE, MSIX_HELD_SEND (R81, R116 to R118, R512, R513). -/
def Obligations.ConfigurationSpaceAndMessages : Prop :=
  ∀ s : State, s.porst = false →
    (∀ r, s.link.up = false → exec (.configRequest r) s = .next s) ∧
    (∀ r, s.link.up = true → s.bsc.stage = .otp ∨ s.link.flrBusy = true →
      exec (.configRequest r) s = .next (send (.config none) s)) ∧
    (linkAnswers s = true →
      (∀ off, ∃ t v, exec (.configRequest (.read off)) s = .next t ∧ t.out = .config (some v) :: s.out ∧
        t = { s with out := t.out, freeCtr := t.freeCtr } ∧ (off = 0 → v = 0x03401F7D)) ∧
      (∀ off v be, exec (.configRequest (.write off v be)) s = .next (send (.config (some 0)) (cfgWrite off v be s)) ∧
        cfgWrite off v be s = syncHolds (fun _ => true) { s with link := (cfgWrite off v be s).link }) ∧
      (∀ v : Word, let set := fun (off : Nat) => (cfgWrite off v 0xF s).link
        set 0 = s.link ∧
        set 4 = { s.link with mse := v.getLsbD 1, bme := v.getLsbD 2, command := v &&& 0x540 } ∧
        set 0x50 = { s.link with msixMask := v.getLsbD 30, msixEn := v.getLsbD 31 } ∧
        set 0x104 = { s.link with aerStatus := s.link.aerStatus &&& ~~~v } ∧
        (set 0x44).pmeEn = v.getLsbD 8 ∧ (set 0x44).pmeStatus = (s.link.pmeStatus && !v.getLsbD 15) ∧
        ((set 0x44).d3 = if v.toNat % 4 = 0 then false else if v.toNat % 4 = 3 then true else s.link.d3))) ∧
    (∀ speed width : Nat,
      ((1 ≤ speed ∧ speed ≤ 4) ∧ (width = 1 ∨ width = 2 ∨ width = 4) ∧ s.isl.refLost = false →
        ∃ t, exec (.linkUp speed width) s = .next t ∧
          t = { s with link := { s.link with
            up := true, perst := false, speed := speed, width := width, l1 := false, l2 := false, wakeN := true
            eq := t.link.eq }, freeCtr := t.freeCtr }) ∧
      (¬ ((1 ≤ speed ∧ speed ≤ 4) ∧ (width = 1 ∨ width = 2 ∨ width = 4) ∧ s.isl.refLost = false) →
        exec (.linkUp speed width) s = .next s)) ∧
    (let need := if s.cmds = [] ∧ ∀ p : Part, (pageOf s p).sq.head = (pageOf s p).sq.tail then 1000000 else 20000;
      (s.link.ltrEn = true → s.link.up = true → s.pwr.st ≠ .rest → s.link.ltrSent ≠ some need →
        exec .ltrMessage s =
          .next { s with link := { s.link with ltrSent := some need }, out := .ltr (some need) :: s.out }) ∧
      (s.link.ltrEn = false ∨ s.link.up = false ∨ s.pwr.st = .rest ∨ s.link.ltrSent = some need →
        exec .ltrMessage s = .next s)) ∧
    (∀ v : Fin 2,
      (s.link.pba.getLsbD v = true → msixHeld s v = false → muted s = false →
        ∃ t, exec (.msixHeldSend v) s = .next t ∧ t.out = msixMsg s v :: s.out ∧ t.link.pba.getLsbD v = false ∧
          t = { s with out := t.out, link := { s.link with pba := t.link.pba } } ∧
          ∀ u : Fin 2, u ≠ v → t.link.pba.getLsbD u = s.link.pba.getLsbD u) ∧
      (s.link.pba.getLsbD v = false ∨ msixHeld s v = true ∨ muted s = true →
        exec (.msixHeldSend v) s = .next s))

/-- What every reset of the host link leaves (R129, R134, R164, R234): configuration space and the registers of GLB, HIF
and EVC at their reset values. -/
def Sys2Proof.Spec.hostIsReset (t : State) : Prop :=
  t.link.mse = false ∧ t.link.bme = false ∧ t.link.d3 = false ∧ t.link.msixEn = false ∧ t.link.ltrEn = false ∧
  t.link.bar0 = 0 ∧ t.link.bar2 = 0 ∧ t.glb.winEn = false ∧ t.glb.winBase = 0 ∧ t.glb.unmLogged = 0 ∧
  (∀ p : Part, t.glb.hwin[p] = HostWin.reset) ∧
  (∀ p : Part, (pageOf t p).sq = Ring.reset ∧ (pageOf t p).cq = Ring.reset ∧ (pageOf t p).cqWait = [] ∧
    (pageOf t p).fetchStop = false ∧ (pageOf t p).deferMark = 0) ∧
  t.hif.evq = Ring.reset ∧ t.hif.errq = Ring.reset ∧ t.evc.inServ = none ∧ t.evc.mask = 0 ∧
  t.evc.armed = BitVec.allOnes 64

/-- HOST_LINK_RESET, FLR, FLR_COMPLETE, HIF_PART_RESET_WRITE, PART_RESET_COMPLETE (R129 to R131, R163, R234). -/
def Obligations.ResetsOfTheHostLink : Prop :=
  ∀ s : State, s.porst = false →
    (∀ k : LinkReset, ∃ t, exec (.hostLinkReset k) s = .next t ∧ Spec.hostIsReset t ∧ t.link.up = false ∧
      t.link.flrBusy = false ∧ t.glb.perst = true ∧ (k = .perst → t.link.perst = true)) ∧
    (linkAnswers s = true → ∃ t, exec .flr s = .next t ∧ Spec.hostIsReset t ∧ t.link.flrBusy = true ∧ t.glb.flr = true) ∧
    (linkAnswers s = false → exec .flr s = .next s) ∧
    exec .flrComplete s = .next { s with link := { s.link with flrBusy := false } } ∧
    (∀ (p : Part) (v : Word), linkAnswers s = true → s.link.mse = true → answers s (.page p) = true →
      pageOpen s p = true →
      ((pageOf s p).resetting = true ∨ v.extractLsb' 0 16 ≠ 0x5A5A →
        exec (.hifPartResetWrite p v) s = .next (regRefused (0x4000 + 0x200 * p.val + 0x44) v 2 s)) ∧
      ((pageOf s p).resetting = false → v.extractLsb' 0 16 = 0x5A5A →
        ∃ t, exec (.hifPartResetWrite p v) s = .next t ∧ (pageOf t p).resetting = true ∧
          (pageOf t p).sq = Ring.reset ∧ (pageOf t p).cq = Ring.reset ∧ (pageOf t p).cqWait = [] ∧
          (pageOf t p).userDram = 0 ∧ t.defMask[p] = none ∧ (∀ i : Fin 32, t.masks[p][i] = none) ∧
          (∀ n : Source, n.val = 8 + p.val ∨ n.val = 40 + p.val →
            t.evc.armed.getLsbD n = true ∧ t.evc.mask.getLsbD n = false ∧ t.evc.count[n] = 0 ∧
            t.evc.inServ ≠ some n))) ∧
    (∀ p : Part, ∃ t, exec (.partResetComplete p) s = .next t ∧
      pageOf t p = { pageOf s p with resetting := false } ∧ (∀ q, q ≠ p → pageOf t q = pageOf s q) ∧
      t = { s with hif := { s.hif with pages := t.hif.pages } })

/-- BAR2, host windows, DMA reads (R123 to R125, R128, R132 to R134). -/
def Obligations.DmaWindowsAndBar2 : Prop :=
  ∀ s : State, s.porst = false →
    (linkAnswers s = true → s.link.mse = true → ∀ (o : Nat) (b : List Byte), b ≠ [] → o + b.length ≤ 0x10000000 →
      let a := s.glb.winBase + o
      (bar2Inside s a b.length = true → bar2Ready s = true → s.link.held = [] →
        (badIn s a b.length).isNone = true → s.vib.runFrom = none → (∀ c, (chanOf s c).dead = false) →
        (holdsGrant s (.dma none) = true →
          exec (.bar2Read o b.length) s = .next (send (.bar2 o (some (memRead s.mem a b.length)))
            (moveAll false a b.length (endGrant (.dma none) s))) ∧
          (Memory.wf s.mem = true → ∃ t, exec (.bar2Write o b) s = .next t ∧
            t = { endGrant (.dma none) s with mem := t.mem, dmc := t.dmc } ∧
            (∀ i, (h : i < b.length) → memByte t.mem (a + i) = b[i]) ∧
            (∀ x, x < a ∨ a + b.length ≤ x → memByte t.mem x = memByte s.mem x))) ∧
        (holdsGrant s (.dma none) = false →
          exec (.bar2Read o b.length) s = .next (request (.dma none) .system
            { s with link := { s.link with held := [.read o a b.length] } }) ∧
          exec (.bar2Write o b) s = .next (request (.dma none) .system
            { s with link := { s.link with held := [.write a b] } }))) ∧
      (bar2Inside s a b.length = false →
        exec (.bar2Read o b.length) s =
          .next (reply (.bar2 o (some (List.replicate b.length 0))) (bar2Outside a s)) ∧
        ∃ t, exec (.bar2Write o b) s = .next t ∧ t.glb = { s.glb with winOutside := true } ∧ t.mem = s.mem ∧
          (s.glb.winOutside = true → t = s))) ∧
    (∀ (p : Part) (v : Word), served s (0x108 + 16 * p.val) = true →
      let n := (v.extractLsb' 0 20).toNat
      let w := s.glb.hwin[p]
      (n ≤ 524288 → ∃ t, exec (.glbHwinLenWrite p v) s = .next t ∧
        t.glb.hwin[p] = { w with base := w.loW.toNat + 2 ^ 32 * w.hiW.toNat, len := n } ∧
        (∀ q, q ≠ p → t.glb.hwin[q] = s.glb.hwin[q]) ∧ t = { s with glb := { s.glb with hwin := t.glb.hwin } }) ∧
      (524288 < n → exec (.glbHwinLenWrite p v) s = .next (regRefused (0x108 + 16 * p.val) v 1 s))) ∧
    (∀ v : Word, served s 0x28 = true → let h := (v.extractLsb' 0 8).toNat
      exec (.glbWinBaseHiWrite v) s =
        .next { s with glb := { s.glb with winHi := h, winBase := h * 2 ^ 32 + s.glb.winLo.toNat } }) ∧
    (∀ (id : Nat) (c : Cmd) (d : List Byte), cmdOf s id = some c → d ≠ [] → hifRuns s = true →
      holdsGrant s (.dma (some id)) = true → c.input.length + d.length ≤ c.inAsked →
      c.input.length + d.length ≠ c.inWant → exec (.dmaReadCompletion id d) s = .next (settleGone (askInput id
        (setCmd id (fun x => { x with input := c.input ++ d, attempt := 0 }) (endGrant (.dma (some id)) s))))) ∧
    (∀ (id : Nat) (c : Cmd), cmdOf s id = some c → c.inAsked < c.inWant → hifRuns s = true →
      inHostWin s c.part (c.inAddr + c.inAsked) (c.inWant - c.inAsked) = true →
      (holdsGrant s (.dma (some id)) = false → askInput id s = request (.dma (some id)) .system s) ∧
      (holdsGrant s (.dma (some id)) = true → c.inWant - c.inAsked ≤ maxRead s → outstanding s < tagLimit s →
        (askInput id s).out = .readReq (hostAddr s c.part c.inAddr + c.inAsked) (c.inWant - c.inAsked) :: s.out)) ∧
    (∀ (id : Nat) (c : Cmd) (w : DmaFail), cmdOf s id = some c → c.input.length < c.inAsked → canFail s w = true →
      ∃ r : ErrRec, r.kind = 0x06 ∧ r.arg0 = c.inHost + c.input.length ∧ r.arg1 = c.attempt + 1 ∧ r.tag = c.tag ∧
        r.arg2 = (match w with | .poisoned => 1 | .ecrc => 2 | .timeout => 3) ∧
        (c.attempt < 3 → exec (.dmaReadFailure (.command id) w) s = .next (settleGone (askInput id (setCmd id
          (fun x => { x with attempt := c.attempt + 1, inAsked := c.input.length }) (logErr r (noteAer w s)))))) ∧
        (3 ≤ c.attempt → exec (.dmaReadFailure (.command id) w) s =
          .next (settleGone (inputLost c (logErr r (noteAer w s)))))) ∧
    (∀ (p : Part) (w : DmaFail), (pageOf s p).asked ≠ 0 → canFail s w = true →
      ∃ r : ErrRec, r.kind = 0x06 ∧ r.arg0 = (pageOf s p).sq.base + 64 * (pageOf s p).sq.head ∧
        r.arg1 = (pageOf s p).fetchTries + 1 ∧
        (let u := logErr r (noteAer w (setPage p (fun g => { g with asked := 0 }) s))
        ((pageOf s p).fetchTries < 3 → exec (.dmaReadFailure (.fetch p) w) s =
          .next (askFetch p (setPage p (fun g => { g with fetchTries := (pageOf s p).fetchTries + 1 }) u))) ∧
        (3 ≤ (pageOf s p).fetchTries → ∃ r' : ErrRec, r'.kind = 0x05 ∧ exec (.dmaReadFailure (.fetch p) w) s =
          .next (logErr r' (setPage p (fun g => { g with fetchTries := 0, fetchStop := true }) u)))))

/-- REGISTER_WRITE, RC_REGISTER_READ, UNMAPPED_BAR0_ACCESS (R120 to R122). -/
def Obligations.AnyRegister : Prop :=
  ∀ (s : State) (off : Nat), served s off = true →
    (∀ v : Word, partResetAt off = none → exec (.registerWrite off [(v, 0xF)]) s =
      .next (standingChange (fun s => match writeReg off v s with | some t => t | none => unmapped off true s) s)) ∧
    (∀ (v : Word) (be : BitVec 4), be ≠ 0xF → exec (.registerWrite off [(v, be)]) s = .next (unmapped off true s)) ∧
    (∀ d ds, registerWrite off (d :: ds) s = registerWrite (off + 4) ds (registerWrite off [d] s)) ∧
    (∀ n, registerRead off (n + 1) s = registerRead (off + 4) n (registerRead off 1 s)) ∧
    (∀ v, readReg off s = some v → exec (.rcRegisterRead off 1) s = .next (reply (.bar0 off v) (readEff off s)) ∧
      exec (.unmappedBar0Access off true) s = .next s ∧ exec (.unmappedBar0Access off false) s = .next s) ∧
    (readReg off s = none →
      exec (.rcRegisterRead off 1) s = .next (reply (.bar0 off 0) (unmapped off false s)) ∧
      exec (.unmappedBar0Access off true) s = .next (unmapped off true s) ∧
      exec (.unmappedBar0Access off false) s = .next (reply (.bar0 off 0) (unmapped off false s))) ∧
    (∀ w, (unmapped off w s).glb = { s.glb with
        unmOffset := off % 2 ^ 20
        unmPart := if 0x4000 ≤ off ∧ off < 0x5000 then Fin.ofNat 8 ((off - 0x4000) / 0x200) else 0
        unmWrite := w
        unmLogged := (unmapped off w s).glb.unmLogged } ∧
      (unmapped off w s).glb.unmLogged.getLsbD (unmapped off w s).glb.unmPart.val = true) ∧
    (∀ v : Word, off = 0x00C → exec (.registerWrite off [(v, 0xF)]) s =
      .next { s with glb := { s.glb with unmLogged := s.glb.unmLogged &&& ~~~v.extractLsb' 0 8 } }) ∧
    (∀ v : Word, off = 0x024 → exec (.registerWrite off [(v, 0xF)]) s =
      .next { s with glb := { s.glb with winLo := v &&& 0xFFE00000 } }) ∧
    (∀ v : Word, off = 0x008 → exec (.registerWrite off [(v, 0xF)]) s = .next { s with glb := { s.glb with
      porst := s.glb.porst && !v.getLsbD 0, perst := s.glb.perst && !v.getLsbD 1, flr := s.glb.flr && !v.getLsbD 2 } })

/-! ### Rings, records and events (06, 08, 09) -/

/-- Only the page of partition p has changed, and perhaps nothing. -/
def Sys2Proof.Spec.onlyPage (p : Part) (s t : State) : Prop :=
  t = { s with hif := { s.hif with pages := t.hif.pages } } ∧ ∀ q, q ≠ p → pageOf t q = pageOf s q

/-- Doorbells, sizes, HIF_SQ_STATUS and USER fields (R141, R150, R151, R159 to R162). -/
def Obligations.RingsAndDoorbells : Prop :=
  ∀ (s : State) (p : Part) (v : Word),
    let i := (v.extractLsb' 0 16).toNat
    let n := (v.extractLsb' 0 17).toNat
    let g := pageOf s p
    let legal := n = 0 ∨ ∃ k, 4 ≤ k ∧ k ≤ 16 ∧ n = 2 ^ k
    (served s (0x400C + 0x200 * p.val) = true → s.pwr.st ≠ .rest →
      (i < g.sq.size → ∃ t, exec (.hifSqTailWrite p v) s = .next (askFetch p t) ∧ Spec.onlyPage p s t ∧
        pageOf t p = { g with sq := { g.sq with tail := i } }) ∧
      (g.sq.size ≤ i → ∃ t, exec (.hifSqTailWrite p v) s = .next (askFetch p t) ∧
        pageOf t p = { g with sq := { g.sq with dbBad := true } } ∧ (g.sq.dbBad = true → Spec.onlyPage p s t))) ∧
    (served s (0x402C + 0x200 * p.val) = true →
      (headOk g.cq i = true → ∃ t, exec (.hifCqHeadWrite p v) s = .next t ∧ Spec.onlyPage p s t ∧
        pageOf t p = { g with cq := { g.cq with head := i } }) ∧
      (headOk g.cq i = false → ∃ t, exec (.hifCqHeadWrite p v) s = .next t ∧
        pageOf t p = { g with cq := { g.cq with dbBad := true } })) ∧
    (served s 0x500C = true →
      (headOk s.hif.evq i = true → s.evc.claimMode = true ∨ i = s.hif.evq.tail →
        exec (.hifEvqHeadWrite v) s = .next { s with hif := { s.hif with evq := { s.hif.evq with head := i } } }) ∧
      (headOk s.hif.evq i = true → s.evc.claimMode = false → i ≠ s.hif.evq.tail →
        exec (.hifEvqHeadWrite v) s =
          .next (raiseMsix 0 { s with hif := { s.hif with evq := { s.hif.evq with head := i } } })) ∧
      (headOk s.hif.evq i = false → ∃ t, exec (.hifEvqHeadWrite v) s = .next t ∧
        t.hif.evq = { s.hif.evq with dbBad := true })) ∧
    (served s (0x4008 + 0x200 * p.val) = true →
      (legal → n = 0 → ∃ t, exec (.hifSqSizeWrite p v) s = .next t ∧ Spec.onlyPage p s t ∧
        pageOf t p = { g with asked := 0, sq := { g.sq with size := 0 } }) ∧
      (legal → 0 < n → g.sq.size = 0 → ∃ t, exec (.hifSqSizeWrite p v) s = .next t ∧ Spec.onlyPage p s t ∧
        pageOf t p = { g with asked := 0, sq := { g.sq with
          size := n, head := 0, tail := 0, phase := true, base := g.sq.lo.toNat % 2 ^ 32 + 2 ^ 32 * g.sq.hi.toNat } }) ∧
      (legal → 0 < n → 0 < g.sq.size →
        exec (.hifSqSizeWrite p v) s = .next (regRefused (0x4008 + 0x200 * p.val) v 2 s)) ∧
      (¬ legal → exec (.hifSqSizeWrite p v) s = .next (regRefused (0x4008 + 0x200 * p.val) v 1 s))) ∧
    (served s (0x4028 + 0x200 * p.val) = true →
      (n = 0 → inflight s p = 0 → g.cqWait = [] → ∃ t, exec (.hifCqSizeWrite p v) s = .next t ∧
        Spec.onlyPage p s t ∧ pageOf t p = { g with cq := { g.cq with size := 0 } }) ∧
      (n = 0 → inflight s p ≠ 0 ∨ g.cqWait ≠ [] →
        exec (.hifCqSizeWrite p v) s = .next (regRefused (0x4028 + 0x200 * p.val) v 2 s)) ∧
      (legal → 0 < n → g.cq.size = 0 → ∃ t, exec (.hifCqSizeWrite p v) s = .next t ∧ Spec.onlyPage p s t ∧
        (pageOf t p).cq.size = n ∧ (pageOf t p).cq.head = 0 ∧ (pageOf t p).cq.tail = 0 ∧ (pageOf t p).cq.phase = true) ∧
      (¬ legal → exec (.hifCqSizeWrite p v) s = .next (regRefused (0x4028 + 0x200 * p.val) v 1 s))) ∧
    (served s 0x5028 = true →
      (legal → 0 < n → s.hif.errq.size = 0 → s.hif.errWait.length < n →
        exec (.hifErrqSizeWrite v) s = .next { s with hif := { s.hif with errq := s.hif.errq.enable n } }) ∧
      (legal → 0 < n → 0 < s.hif.errq.size → exec (.hifErrqSizeWrite v) s = .next (regRefused 0x5028 v 2 s)) ∧
      (¬ legal → exec (.hifErrqSizeWrite v) s = .next (regRefused 0x5028 v 1 s))) ∧
    (served s (0x4014 + 0x200 * p.val) = true → ∃ t, exec (.hifSqStatusWrite p v) s = .next t ∧
      Spec.onlyPage p s t ∧ pageOf t p = { g with
        fetchStop := g.fetchStop && !v.getLsbD 0, sq := { g.sq with dbBad := g.sq.dbBad && !v.getLsbD 1 } }) ∧
    (let d := (v.extractLsb' 0 18).toNat;
     served s (0x4088 + 0x200 * p.val) = true →
      ((carve s p 1).2 < d → exec (.hifQDramUserWrite p v) s = .next (regRefused (0x4088 + 0x200 * p.val) v 1 s)) ∧
      (d ≤ (carve s p 1).2 → d ≤ g.userDram → ∃ t, exec (.hifQDramUserWrite p v) s = .next t ∧ Spec.onlyPage p s t ∧
        pageOf t p = { g with userDram := d })) ∧
    (let d := (v.extractLsb' 16 7).toNat;
     served s (0x4090 + 0x200 * p.val) = true →
      ((carve s p 2).2 < d → exec (.hifQStripsWrite p v) s = .next (regRefused (0x4090 + 0x200 * p.val) v 1 s)) ∧
      (d ≤ (carve s p 2).2 → d ≤ g.userStrips → ∃ t, exec (.hifQStripsWrite p v) s = .next t ∧ Spec.onlyPage p s t ∧
        pageOf t p = { g with userStrips := d })) ∧
    (let d := (v.extractLsb' 0 9).toNat;
     served s (0x4098 + 0x200 * p.val) = true →
      ((carve s p 3).2 < d → exec (.hifQSectionUseWrite p v) s = .next (regRefused (0x4098 + 0x200 * p.val) v 1 s)) ∧
      (d ≤ (carve s p 3).2 → d ≤ g.userSec → ∃ t, exec (.hifQSectionUseWrite p v) s = .next t ∧ Spec.onlyPage p s t ∧
        pageOf t p = { g with userSec := d }))

/-- An entry of these first bytes, with tag and zeros beyond. -/
def Sys2Proof.Spec.entryOf (op flags tag : Nat) : List Byte :=
  [BitVec.ofNat 8 op, BitVec.ofNat 8 flags] ++ toLe 2 tag ++ List.replicate 60 0

/-- SUBMISSION_FETCH, records, and the two reads that clear (R152 to R154, R200, R207, R218, R220). -/
def Obligations.RecordsAndFetch : Prop :=
  ∀ s : State, s.porst = false →
    (∀ p : Part, fetchOk s p = true → (pageOf s p).asked = 0 → hifRuns s = true →
      let g := pageOf s p
      let n := min (min (maxRead s / 64) (g.sq.size - g.sq.head)) (min g.sq.used (256 - inflight s p))
      (holdsGrant s (.dma none) = false → askFetch p s = request (.dma none) .system s) ∧
      (holdsGrant s (.dma none) = true → outstanding s < tagLimit s → ∃ t, askFetch p s = t ∧
        t.out = .readReq (g.sq.base + 64 * g.sq.head) (64 * n) :: s.out ∧ pageOf t p = { g with asked := n })) ∧
    (∀ (p : Part) (tag : Nat), tag < 65536 → fetchOk s p = true → (pageOf s p).asked ≠ 0 → s.cmds = [] → s.jobs = [] →
      s.ens.reserving = [] → hifRuns s = true → holdsGrant s (.dma none) = true →
      (∃ t c, exec (.submissionFetch p (Spec.entryOf 0x01 0 tag)) s = .next t ∧ t.cmds = [c] ∧ c.id = s.nextCmd ∧
        c.part = p ∧ c.tag = tag ∧ c.phase = .ready ∧ t.nextCmd = s.nextCmd + 1 ∧
        (pageOf t p).sq = { (pageOf s p).sq with head := ((pageOf s p).sq.head + 1) % (pageOf s p).sq.size } ∧
        (pageOf t p).cqWait = (pageOf s p).cqWait) ∧
      (s.bsc.early = false → ∃ t r, exec (.submissionFetch p (Spec.entryOf 0x00 0 tag)) s = .next t ∧ t.cmds = [] ∧
        (pageOf t p).cqWait = (pageOf s p).cqWait ++ [r] ∧ r.status = 0x30 ∧ r.tag = tag ∧ r.opcode = 0 ∧
        (pageOf t p).sq.head = ((pageOf s p).sq.head + 1) % (pageOf s p).sq.size ∧ t.nextCmd = s.nextCmd + 1)) ∧
    (∀ (p : Part) (e : List Byte), fetchOk s p = false → exec (.submissionFetch p e) s = .next s) ∧
    (∀ (p : Part) (e : List Byte), e.length = 64 → (pageOf s p).asked = 0 →
      exec (.submissionFetch p e) s = .next (askFetch p s)) ∧
    (∀ p : Part, let g := pageOf s p
      (∀ r rest, g.cqWait = r :: rest → g.outWait = [] → muted s = false → g.cq.size ≠ 0 → g.cq.room ≠ 0 →
        hifRuns s = true → holdsGrant s (.dma none) = true →
        ∃ t, exec (.completionRecordWrite p) s = .next t ∧
          t.out = .write (g.cq.base + 32 * g.cq.tail) (compBytes r g.cq.phase) :: s.out ∧
          (compBytes r g.cq.phase).take 6 = [BitVec.ofNat 8 r.status, BitVec.ofNat 8 r.opcode] ++ toLe 2 r.tag ++ toLe 2 r.ctx ∧
          pageOf t p = { g with cqWait := rest, cq := { g.cq with
            tail := if g.cq.tail + 1 = g.cq.size then 0 else g.cq.tail + 1
            phase := if g.cq.tail + 1 = g.cq.size then !g.cq.phase else g.cq.phase } } ∧
          (∀ n : Source, t.evc.count[n] =
            if n.val = 8 + p.val then min 255 (s.evc.count[n] + 1) else s.evc.count[n]) ∧ t.mem = s.mem) ∧
      (g.cqWait = [] ∨ g.cq.size = 0 ∨ g.cq.room = 0 → exec (.completionRecordWrite p) s = .next s)) ∧
    (let q := s.hif.errq;
      (∀ r rest, s.hif.errWait = r :: rest → muted s = false → q.size ≠ 0 → q.room ≠ 0 → hifRuns s = true →
        holdsGrant s (.dma none) = true →
        ∃ t, exec .errorRecordWrite s = .next t ∧
          t.out = .write (q.base + 32 * q.tail) (errBytes r s.hif.errLostRun q.phase) :: s.out ∧
          t.hif = { s.hif with errWait := rest, errLostRun := 0, errq := { q with
            tail := if q.tail + 1 = q.size then 0 else q.tail + 1
            phase := if q.tail + 1 = q.size then !q.phase else q.phase } } ∧
          t.evc.count[6] = min 255 (s.evc.count[6] + 1)) ∧
      (s.hif.errWait = [] ∨ q.size = 0 ∨ q.room = 0 → exec .errorRecordWrite s = .next s)) ∧
    (served s 0x504C = true → exec .hifErrqLostRead s =
      .next (reply (.bar0 0x504C (BitVec.ofNat 32 s.hif.errLost)) { s with hif := { s.hif with errLost := 0 } })) ∧
    (served s 0x5048 = true → ∃ w, exec .hifDeferTotalRead s =
      .next (reply (.bar0 0x5048 w) { s with hif := { s.hif with deferPeak := deferTotal s } }))

/-- The event controller (R222 to R233). -/
def Obligations.TheEventController : Prop :=
  ∀ s : State, s.porst = false →
    (∀ n : Source, ∃ t, exec (.eventSourcePending n) s = .next t ∧ t.evc.pend.getLsbD n = pendingFor s n ∧
      (∀ m : Source, m ≠ n → t.evc.pend.getLsbD m = s.evc.pend.getLsbD m) ∧
      t.evc = { s.evc with pend := t.evc.pend } ∧ t.mem = s.mem ∧ t.cmds = s.cmds) ∧
    (let q := s.hif.evq;
      (∀ n : Source, due s n = true → (∀ m : Source, m < n → due s m = false) → muted s = false → q.size ≠ 0 → q.room ≠ 0 →
        hifRuns s = true → holdsGrant s (.dma none) = true →
        ∃ t, exec .eventRecordWrite s = .next t ∧ .write (q.base + 16 * q.tail) (eventBytes s n) ∈ t.out ∧
          t.hif.evq.tail = (if q.tail + 1 = q.size then 0 else q.tail + 1) ∧
          t.hif.evq.phase = (if q.tail + 1 = q.size then !q.phase else q.phase) ∧
          (∀ m : Source, t.evc.armed.getLsbD m = (s.evc.armed.getLsbD m && decide (m ≠ n))) ∧
          t.evc.pend = s.evc.pend) ∧
      (muted s = true ∨ (∀ n : Source, due s n = false) ∨ q.size = 0 ∨ q.room = 0 →
        exec .eventRecordWrite s = .next s)) ∧
    (served s 0x6004 = true →
      (∀ n : Source, s.evc.claimMode = true → s.evc.inServ = none → s.evc.pend.getLsbD n = true →
        (∀ m : Source, m < n → s.evc.pend.getLsbD m = false) →
        ∃ t, exec .evcClaimRead s = .next (reply (.bar0 0x6004 (BitVec.ofNat 32 n.val)) t) ∧
          t = { s with evc := { s.evc with inServ := some n, pend := t.evc.pend } } ∧
          ∀ m : Source, t.evc.pend.getLsbD m = (s.evc.pend.getLsbD m && decide (m ≠ n))) ∧
      (s.evc.claimMode = false ∨ (s.evc.inServ = none ∧ s.evc.pend = 0) →
        exec .evcClaimRead s = .next (reply (.bar0 0x6004 0xFF) s)) ∧
      (s.evc.claimMode = true → s.evc.inServ ≠ none →
        exec .evcClaimRead s = .next (reply (.bar0 0x6004 0xFE) s))) ∧
    (∀ v : Word, served s 0x6008 = true → let n : Source := Fin.ofNat 64 (v.extractLsb' 0 6).toNat
      (s.evc.claimMode = true → s.evc.inServ = some n → ∃ t, exec (.evcDoneWrite v) s = .next t ∧
        t.evc = { s.evc with inServ := none, pend := t.evc.pend } ∧
        (∀ m : Source, m ≠ n → t.evc.pend.getLsbD m = s.evc.pend.getLsbD m) ∧
        (pendingFor { s with evc := { s.evc with inServ := none } } n = true → t.evc.pend.getLsbD n = true)) ∧
      (s.evc.claimMode = false ∨ s.evc.inServ ≠ some n →
        exec (.evcDoneWrite v) s = .next (regRefused 0x6008 v 2 s))) ∧
    (∀ (half : Fin 2) (v : Word), served s (0x6020 + 4 * half.val) = true →
      ∃ t, exec (.evcLatchWrite half v) s = .next t ∧ t = { s with evc := { s.evc with latch := t.evc.latch } } ∧
        ∀ n : Source, t.evc.latch.getLsbD n = (s.evc.latch.getLsbD n &&
          !(decide (n.val / 32 = half.val) && v.getLsbD (n.val % 32) && latchedMask.getLsbD n))) ∧
    (∀ v : Word, served s 0x6028 = true → ∃ t, exec (.evcSoftSetWrite v) s = .next t ∧
      ∀ n : Source, let hit := 48 ≤ n.val && v.getLsbD (n.val - 48)
        t.evc.latch.getLsbD n = (s.evc.latch.getLsbD n || hit) ∧
        t.evc.count[n] = if hit then min 255 (s.evc.count[n] + 1) else s.evc.count[n]) ∧
    (∀ (half : Fin 2) (v : Word), served s (0x6038 + 4 * half.val) = true → s.evc.claimMode = true →
      ∃ t, exec (.evcArmedWrite half v) s = .next t ∧ t = { s with evc := { s.evc with armed := t.evc.armed } } ∧
        ∀ n : Source, t.evc.armed.getLsbD n =
          (s.evc.armed.getLsbD n || (decide (n.val / 32 = half.val) && v.getLsbD (n.val % 32)))) ∧
    (∀ n : Source, served s (0x6100 + 4 * n.val) = true → ∃ t, exec (.evcCountRead n) s =
        .next (reply (.bar0 (0x6100 + 4 * n.val) (BitVec.ofNat 32 s.evc.count[n])) t) ∧
      t = { s with evc := { s.evc with count := t.evc.count } } ∧
      ∀ m : Source, t.evc.count[m] = if m = n then 0 else s.evc.count[m])

/-! ### Host commands (07, 08) -/

/-- A command that completes leaves the table; its one record joins its partition's queue with this status, DETAIL and
payload, and with its opcode, tag and context (R200, R214). -/
def Sys2Proof.Spec.done (s t : State) (c : Cmd) (status detail : Nat) (payload : List Byte) : Prop :=
  t.cmds = s.cmds.filter (·.id != c.id) ∧ ∃ r, (pageOf t c.part).cqWait = (pageOf s c.part).cqWait ++ [r] ∧
    r.status = status ∧ r.opcode = c.op ∧ r.tag = c.tag ∧ r.ctx = c.ctx ∧ r.detail = detail ∧ r.payload = payload ∧
    r.cmd = c.id

/-- The command stands in the table, admitted and not yet at work, with no early service and no MUTE. -/
def Sys2Proof.Spec.isReady (s : State) (id : Nat) (c : Cmd) (op : Nat) : Prop :=
  s.porst = false ∧ cmdOf s id = some c ∧ c.op = op ∧ c.phase = .ready ∧ c.silent = false ∧ muted s = false ∧
  s.bsc.early = false

/-- Commands that act at once, and the deferral queue (R171 to R178, R194, R197, R211). -/
def Obligations.DeviceCommands : Prop :=
  ∀ (s : State) (id : Nat) (c : Cmd),
    (Spec.isReady s id c 0x01 → ∃ t, exec (.nop id) s = .next t ∧ Spec.done s t c 0 0 (List.replicate 16 0)) ∧
    (Spec.isReady s id c 0x02 →
      ((∀ d ∈ s.cmds, d.part = c.part → id ≤ d.id) → ∃ t, exec (.fence id) s = .next t ∧
        Spec.done s t c 0 0 (toLe 4 c.count ++ List.replicate 12 0)) ∧
      (∀ d ∈ s.cmds, d.part = c.part → d.id < id → exec (.fence id) s = .next s)) ∧
    (Spec.isReady s id c 0x13 → ∃ t, exec (.modelPin id) s = .next t ∧
      t.models[c.handle] = { s.models[c.handle] with pinned := c.byte 16 == 1 } ∧
      (∀ h, h ≠ c.handle → t.models[h] = s.models[h]) ∧
      Spec.done s t c 0 0 ((if s.models[c.handle].pinned then 1 else 0) :: List.replicate 15 0)) ∧
    (Spec.isReady s id c 0x14 → ∃ t p, exec (.modelQuery id) s = .next t ∧ Spec.done s t c 0 0 p ∧ p.length = 16 ∧
      byteAt p 8 = modelStCode s.models[c.handle].st ∧ byteAt p 9 = s.models[c.handle].owner.val ∧
      (s.models[c.handle].st ≠ .loading → le p 0 8 = s.models[c.handle].hdr.modelId % 2 ^ 64) ∧ t.models = s.models) ∧
    (Spec.isReady s id c 0x12 → s.models[c.handle].st ≠ .evicting → users s { c with mark := s.nextCmd } = [] →
      ctxUsers s c.handle = [] → passOf s (.handle c.handle) = none → s.models[c.handle].repairing = none → s.jobs = [] →
      ∃ t p, exec (.modelEvict id) s = .next t ∧ Spec.done s t c 0 0 p ∧ t.models[c.handle] = Model.empty ∧
        (∀ h, h ≠ c.handle → t.models[h] = s.models[h]) ∧ (∀ x ∈ t.ctxs, x.model ≠ some (.handle c.handle)) ∧
        (∀ o ∈ t.objs, o.kind ≠ .model c.handle none ∧ o.kind ≠ .strips c.handle none) ∧ t.evc.latch.getLsbD 36 = true) ∧
    (Spec.isReady s id c 0x40 → abortTargets s c = [] → ∃ t, exec (.abort id) s = .next t ∧
      Spec.done s t c 0x03 0 (List.replicate 16 0)) ∧
    (∀ d, Spec.isReady s id c 0x40 → abortTargets s c = [d] → cmdOf s d.id = some d → d.op ≠ 0x10 → d.op ≠ 0x11 →
      s.sets = [] → s.passes = [] → s.ens.reserving = [] →
      ∃ t, exec (.abort id) s = .next t ∧ t.cmds = s.cmds.filter (fun x => x.id != d.id && x.id != id) ∧
        ∃ r q, (pageOf t c.part).cqWait = (pageOf s c.part).cqWait ++ [r, q] ∧ r.status = 0x02 ∧ r.detail = 1 ∧
          r.tag = d.tag ∧ q.status = 0x00 ∧ q.tag = c.tag ∧ q.payload = 1 :: List.replicate 15 0) ∧
    (Spec.isReady s id c 0x50 → c.byte 16 = 1 → ∃ t p, exec (.progressQuery id) s = .next t ∧ Spec.done s t c 0 0 p ∧
      le p 0 4 = (bscStage (bscReadEff s)).toNat ∧ le p 12 4 = s.bsc.joined.toNat) ∧
    (s.porst = false → s.jobs = [] → firstBy (serviceKey s) (s.cmds.filter (couldStart s)) = some c → c.id = id →
      cmdOf s id = some c → c.phase = .deferred true → c.op = 0x38 →
      exec (.deferredStart id) s = .next (setCmd id (fun x => { x with phase := .ready }) s)) ∧
    (s.porst = false → s.jobs = [] → firstBy (serviceKey s) (s.cmds.filter (couldStart s)) = none →
      exec (.deferredStart id) s = .next s) ∧
    (s.porst = false → cmdOf s id = some c → c.silent = false → muted s = false → s.bsc.early = false →
      c.isDeferred = true →
      (s.clk < c.deadline → exec (.patienceExpiry id) s = .next s) ∧
      (c.deadline ≤ s.clk → barrierOf s c = none → couldStart s c = false → ∃ t, exec (.patienceExpiry id) s = .next t ∧
        Spec.done s t c 0x21 (shortNow s c % 65536)
          (if c.op = 0x21 then failPayload s c 0x21 else List.replicate 16 0)))

/-- Sessions, masks, KERNEL, HUSH and WAKE (R186 to R191, R415, R419). -/
def Obligations.ContextsMasksAndKernels : Prop :=
  ∀ (s : State) (id : Nat) (c : Cmd),
    let m : Fin 32 := Fin.ofNat 32 (c.byte 17)
    (Spec.isReady s id c 0x2A → destroyAborts s c = [] → ∃ t p, exec (.contextDestroy id) s = .next t ∧
      Spec.done s t c 0 0 p ∧
      ∀ x, x ∈ t.ctxs ↔ x ∈ s.ctxs ∧ ¬ (x.part = c.part ∧ x.num < 65536 ∧ (c.ctx = 0 ∨ x.num = c.ctx))) ∧
    (Spec.isReady s id c 0x30 → c.byte 16 = 3 → ∃ t p, exec (.maskLoad id) s = .next t ∧ Spec.done s t c 0 0 p ∧
      t.masks[c.part][m] = none ∧ (∀ q k, q ≠ c.part ∨ k ≠ m → t.masks[q][k] = s.masks[q][k])) ∧
    (Spec.isReady s id c 0x30 → c.byte 16 ≠ 3 → 0x8000000000 ≤ c.field 24 8 →
      exec (.maskLoad id) s = .next (want id (c.field 24 8) (c.field 32 4)
        (setCmd id (fun x => { x with phase := .running, queuedNs := queuedNow s x, waitFrom := none }) s))) ∧
    (∀ (b : List Byte) (k : Mask), s.porst = false → cmdOf s id = some c → c.op = 0x30 → c.silent = false →
      muted s = false → s.bsc.early = false → s.jobs = [] → hifRuns s = true → holdsGrant s (.dma (some id)) = true →
      b ≠ [] → c.input.length + b.length = c.inWant → c.inWant ≤ c.inAsked →
      (if c.byte 16 = 1 then parseAutomaton (c.input ++ b) (c.field 36 4) else parseList (c.input ++ b) (c.field 36 4))
        = some k →
      ∃ t p, exec (.dmaReadCompletion id b) s = .next t ∧ Spec.done s t c 0 0 p ∧ t.masks[c.part][m] = some k ∧
        (∀ q j, q ≠ c.part ∨ j ≠ m → t.masks[q][j] = s.masks[q][j])) ∧
    (Spec.isReady s id c 0x31 → ∃ t p, exec (.maskBind id) s = .next t ∧ Spec.done s t c 0 0 p ∧
      t.masks = s.masks ∧
      (c.ctx = 0 → t.ctxs = s.ctxs ∧ byteAt p 0 = ((s.defMask[c.part].map (·.1.val)).getD 0xFF) ∧
        t.defMask[c.part] = if c.byte 16 = 1 then some (m, bindState s c) else none) ∧
      (c.ctx ≠ 0 → t.defMask = s.defMask ∧ ∀ x, ctxOf s c.part c.ctx = some x →
        ∃ y, ctxOf t c.part c.ctx = some y ∧ y.st = x.st ∧ y.pos = x.pos ∧
          y.mask = (if c.byte 16 = 1 then some m else none))) ∧
    (Spec.isReady s id c 0x38 → paused s = false → setOf s id = none →
      (choose s c.kVoices c.kMirror).isSome = true →
      let u := setCmd id (fun x => { x with phase := .running }) s
      (c.input.length = c.kLen ∨ c.inWant ≠ 0 → exec (.kernel id) s = .next u) ∧
      (c.input.length ≠ c.kLen → c.inWant = 0 → 0x8000000000 ≤ c.kCode →
        exec (.kernel id) s = .next (want id c.kCode c.kLen u)) ∧
      (c.input.length ≠ c.kLen → c.inWant = 0 → stackBase ≤ c.kCode → inUser s c.part c.kCode c.kLen = true →
        c.kCode < 0x8000000000 → islRuns s 30 = true → holdsGrant s (.dma (some id)) = true →
        (badIn s c.kCode c.kLen).isNone = true → s.vib.runFrom = none → (∀ k, (chanOf s k).dead = false) →
        ∃ t d, exec (.kernel id) s = .next t ∧ t.mem = s.mem ∧ cmdOf t id = some d ∧ d.phase = .running ∧
          d.input = memRead s.mem c.kCode c.kLen)) ∧
    (Spec.isReady s id c 0x28 → paused s = false →
      ∃ t d, exec (.hush id) s = .next t ∧ t = { s with cmds := t.cmds } ∧ cmdOf t id = some d ∧ d.phase = .running ∧
        d.waitFrom = none) ∧
    (Spec.isReady s id c 0x29 → paused s = false → c.byte 16 = 0 →
      ∃ t d, exec (.wake id) s = .next t ∧ t = { s with cmds := t.cmds } ∧ cmdOf t id = some d ∧ d.phase = .running) ∧
    (∀ x h, s.porst = false → cmdOf s id = some c → c.op = 0x28 → c.phase = .running → c.silent = false →
      muted s = false → s.bsc.early = false → c.ctx ≠ 0 → c.byte 16 = 0 → hushNow s c = [x] →
      ctxOf s c.part c.ctx = some x → x.model.bind (hdrOf s) = some h → kvDamage s c.part c.ctx = [] →
      ∃ t p y, exec (.hushWakeDeviceWorkEnd id) s = .next t ∧ Spec.done s t c 0 0 p ∧
        ctxOf t c.part c.ctx = some y ∧ y.st = .hushed ∧ y.pos = x.pos ∧ y.image = some (hushImage s x h).length ∧
        (∀ o ∈ t.objs, isKv c.part c.ctx o = false)) ∧
    (∀ x h b, s.porst = false → cmdOf s id = some c → c.op = 0x29 → c.phase = .running → c.silent = false →
      muted s = false → s.bsc.early = false → c.ctx ≠ 0 → c.byte 16 = 0 → c.input.length = c.inWant →
      ctxOf s c.part c.ctx = some x → x.model.bind (hdrOf s) = some h → wakeImage s c x = some b →
      (hushOk x h none b = true → ∃ t p y, exec (.hushWakeDeviceWorkEnd id) s = .next t ∧ Spec.done s t c 0 0 p ∧
        ctxOf t c.part c.ctx = some y ∧ y.st = .live ∧ y.pos = x.pos ∧ y.image = none) ∧
      (hushOk x h none b = false → ∃ t, exec (.hushWakeDeviceWorkEnd id) s = .next t ∧
        Spec.done s t c 0x41 (corruptDetail s 0xFFFF % 65536) (List.replicate 16 0)))

/-! ### Work commands and passes (01, 07, 17) -/

/-- An admitted work command that has not read its input and has no wake to wait for. -/
def Sys2Proof.Spec.begins (s : State) (id : Nat) (c : Cmd) (op : Nat) : Prop :=
  Spec.isReady s id c op ∧ needsWake s c = false ∧ c.work = Work.none ∧ c.inWant = 0

/-- The start of the work commands, and their input (R170, R180 to R185, R411). -/
def Obligations.WorkCommands : Prop :=
  ∀ (s : State) (id : Nat) (c : Cmd),
    (Spec.begins s id c 0x20 → c.inCount = 0 → ∃ t p, exec (.prefill id) s = .next t ∧ Spec.done s t c 0 0 p ∧
      le p 0 4 = positionOf s c % 2 ^ 32 ∧ le p 4 4 = positionOf s c % 2 ^ 32) ∧
    (Spec.begins s id c 0x21 → c.maxTokens = 0 → ∃ t p, exec (.generate id) s = .next t ∧ Spec.done s t c 0 0 p ∧
      le p 0 8 = 0 ∧ le p 8 4 = positionOf s c % 2 ^ 32 ∧ byteAt p 12 = 1) ∧
    (Spec.begins s id c 0x22 → c.inCount = 0 → ∃ t p, exec (.scoreTokens id) s = .next t ∧ Spec.done s t c 0 0 p ∧
      le p 0 4 = 0 ∧ le p 4 4 = positionOf s c % 2 ^ 32) ∧
    (Spec.begins s id c 0x23 → c.inCount = 0 → ∃ t p, exec (.embed id) s = .next t ∧ Spec.done s t c 0 0 p ∧
      le p 4 4 = positionOf s c % 2 ^ 32) ∧
    (Spec.begins s id c 0x21 → c.maxTokens ≠ 0 →
      let a := allowedAt s c (stateOfCmd s c)
      (a = [] → ∃ t p, exec (.generate id) s = .next t ∧
        Spec.done s t c 0x24 (stateOfCmd s c % 65536) p ∧ byteAt p 12 = 5) ∧
      (a ≠ [] → onlyEos a (hdrFor s c).eos = true → ∃ t p, exec (.generate id) s = .next t ∧ Spec.done s t c 0 0 p ∧
        byteAt p 12 = 3) ∧
      (a ≠ [] → onlyEos a (hdrFor s c).eos = false → c.prompt = false →
        exec (.generate id) s = .next (setWork id (fun w => { w with inputRead := true }) s))) ∧
    (∀ row : Nat × (Nat → Instr),
      row ∈ [(0x20, Instr.prefill), (0x21, Instr.generate), (0x22, Instr.scoreTokens), (0x23, Instr.embed)] →
      Spec.begins s id c row.1 → c.tokensIn ≠ 0 →
      (row.1 = 0x21 → allowedAt s c (stateOfCmd s c) ≠ [] ∧
        onlyEos (allowedAt s c (stateOfCmd s c)) (hdrFor s c).eos = false) →
      0x8000000000 ≤ c.inAddr' → exec (row.2 id) s = .next (want id c.inAddr' (4 * c.tokensIn) s)) ∧
    (∀ b : List Byte, s.porst = false → cmdOf s id = some c → 0x20 ≤ c.op → c.op ≤ 0x23 → c.silent = false →
      muted s = false → s.bsc.early = false → c.ctx ≠ 0 → c.madeCtx = false → s.jobs = [] → hifRuns s = true →
      holdsGrant s (.dma (some id)) = true → b ≠ [] → c.input.length + b.length = c.inWant → c.inWant ≤ c.inAsked →
      let tok := fun i => le (c.input ++ b) (4 * i) 4
      ((∀ i < c.tokensIn, tok i < 2 ^ 18 ∧ tok i < (hdrFor s c).vocab) → ∃ t d,
        exec (.dmaReadCompletion id b) s = .next t ∧ cmdOf t id = some d ∧ d.work.inputRead = true ∧
        d.work.input = (List.range c.tokensIn).map tok) ∧
      (∀ i < c.tokensIn, ¬ (tok i < 2 ^ 18 ∧ tok i < (hdrFor s c).vocab) →
        (∀ j < i, tok j < 2 ^ 18 ∧ tok j < (hdrFor s c).vocab) → ∃ t, exec (.dmaReadCompletion id b) s = .next t ∧
        Spec.done s t c 0x31 (min 0xFFFE (0x8000 + i)) (if c.op = 0x21 then failPayload s c 0x31 else List.replicate 16 0)))

/-- PASS_START, PASS_END, AUTO_HUSH (R21 to R28, R214, R399, R416). -/
def Obligations.PassesAndAutoHush : Prop :=
  ∀ s : State, s.porst = false →
    (∀ m pacing plan probes, modelReady s m = false → exec (.passStart m pacing plan probes) s = .next s) ∧
    (∀ m pacing plan x, modelReady s m = true → modelOf s m = some x →
      (∀ probes, planOk x plan = false → exec (.passStart m pacing plan probes) s = .next s) ∧
      (planOk x plan = true → stagesOf s m = none → x.badLayers = [] →
        (∀ probes, nextRows s m = [] → exec (.passStart m pacing plan probes) s = .next s) ∧
        (nextRows s m ≠ [] → passVoices s m ≠ [] →
          ((passIslands s m (passVoices s m)).all fun i => islRuns s (Fin.ofNat 32 i)) = true →
          ∃ t p, exec (.passStart m pacing plan []) s = .next t ∧ t.passes = s.passes ++ [p] ∧ p.model = m ∧
            p.rows = nextRows s m ∧ p.voices = passVoices s m ∧ p.failure = none ∧ t.mem = s.mem ∧ t.ctxs = s.ctxs ∧
            (∀ v ∈ passVoices s m, (voiceOf t v).run = .pass m) ∧
            (∀ r ∈ nextRows s m, ∀ d, cmdOf t r.cmd = some d → d.phase = .running)))) ∧
    (∀ m rs, passOf s m = none → exec (.passEnd m rs) s = .next s) ∧
    (∀ m p r c st d, passOf s m = some p → p.failure = some (st, d) → splitOf s m = none → p.rows = [r] → p.halted = [] →
      (∀ n, r.kind ≠ .draft n) → cmdOf s r.cmd = some c → c.silent = false → muted s = false → s.bsc.early = false →
      ∃ t q, exec (.passEnd m []) s = .next t ∧ Spec.done s t c st (d % 65536) q ∧ passOf t m = none ∧
        ∀ v ∈ p.voices, (voiceOf t v).run = .free) ∧
    (∀ h p r c x n, passOf s (.handle h) = some p → p.failure = none → p.rowFail = [] → stagesOf s (.handle h) = none →
      undecided s p = false → p.halted = [] → p.rows = [r] → r.kind = .prefill n → cmdOf s r.cmd = some c → c.op = 0x20 → c.work.start = 0 →
      ctxOf s c.part c.key = some x → c.work.fed + n < c.feeds →
      ∃ t y d, exec (.passEnd (.handle h) [{ cmd := c.id, logits := [], hidden := [], diff := false }]) s = .next t ∧
        passOf t (.handle h) = none ∧ ctxOf t c.part c.key = some y ∧
        y.log = x.log ++ (c.work.input.take (c.work.fed + n + 1)).drop x.pos ∧
        y.pos = x.pos + ((c.work.input.take (c.work.fed + n + 1)).drop x.pos).length ∧
        cmdOf t c.id = some d ∧ d.work.fed = c.work.fed + n ∧ t.models[h].lastUse = s.tbs.now ∧
        (∀ v ∈ p.voices, (voiceOf t v).run = .free) ∧ t.mem = s.mem) ∧
    (∀ p key x h, ctxOf s p key = some x → x.model.bind (hdrOf s) = some h →
      (s.clk < x.idleSince + hushWindowNs s p → exec (.autoHush p key) s = .next s) ∧
      (hushWindowNs s p ≠ 0 → (∀ c ∈ s.cmds, c.part ≠ p ∨ c.key ≠ key) → key < 65536 →
        x.idleSince + hushWindowNs s p ≤ s.clk → hushable s x = true → isEarlyCtx x = false → paused s = false →
        muted s = false → (hushImgLen s x + 0xFFFF) / 0x10000 ≤ room s p 1 → kvDamage s p key = [] →
        ∃ t y, exec (.autoHush p key) s = .next t ∧ ctxOf t p key = some y ∧ y.st = .hushed ∧ y.pos = x.pos ∧
          y.image.isSome = true ∧ (∀ o ∈ t.objs, isKv p key o = false) ∧ t.apt.auto = min 65535 (s.apt.auto + 1)))

/-! ### Models, the streamer and the prism (11, 12, 13) -/

/-- Every load and swap of a host command still has its command, or has lost it to a reset (R307). -/
def Sys2Proof.Spec.owned (s : State) : Prop :=
  ∀ j ∈ s.jobs, ∀ id, j.owner = .cmd id → j.orphan = true ∨ (cmdOf s id).isSome = true

/-- The shard was read, and is not good. -/
def Sys2Proof.Spec.isBad (r : ShardRead) : Prop := r = .damaged ∨ r = .transferFailed

/-- MODEL_LOAD, MODEL_SWAP, the phases of a swap, REPAIR_END (R173, R174, R295, R300 to R306). -/
def Obligations.LoadsAndSwaps : Prop :=
  ∀ s : State, s.porst = false →
    (∀ row : Nat × (Nat → Instr), row ∈ [(0x10, Instr.modelLoad), (0x11, Instr.modelSwap)] →
      ∀ id c, cmdOf s id = some c → c.op = row.1 → c.phase = .waiting → s.bsc.stage = .full →
      (∀ x ∈ s.cmds, x.id = id → x.early = false) →
      s.jobs = [] → blocked s c = false → s.ens.reserving = [] → handleCheck s c = none → contextCheck s c = none →
      bodyCheck s c = none → s.flc.fail = false → paused s = false → c.silent = false → muted s = false →
      s.bsc.early = false →
      let deg := (BitVec.ofNat 8 (c.byte 18)).getLsbD 1
      let pin := row.1 == 0x10 && (BitVec.ofNat 8 (c.byte 18)).getLsbD 0
      (∀ n : Fin 32, c.byte 16 = 1 → c.byte 17 = n.val →
        (slotState s n = 2 → exec (row.2 id) s = .next { s with jobs := [newJob (.cmd id) c.handle c.part
          (row.1 == 0x11) (some n) 0 s.nand.slots[n].len (c.field 40 8) pin deg] }) ∧
        (slotState s n ≠ 2 → ∃ t, exec (row.2 id) s = .next t ∧ Spec.done s t c 0x33
          ((c.model + 0x100 * if slotState s n = 4 ∨ slotState s n = 5 then 5 else 6) % 65536) (List.replicate 16 0))) ∧
      (c.byte 16 ≠ 1 → 256 ≤ c.field 32 4 → exec (row.2 id) s =
        .next (dropOrphans (want id (c.field 24 8) 256 { s with jobs := [newJob (.cmd id) c.handle c.part
          (row.1 == 0x11) none (c.field 24 8) (c.field 32 4) (c.field 40 8) pin deg] })))) ∧
    (∀ o j i x a, jobFor s o = some j → (jobSlot j).isSome = true → jobShard s j = some (i, x) → (∃ id, o = .cmd id) →
      fetchShard o a s = setJob o (fun k => { k with page := x.offset / 16384, buf := [], attempt := a }) s) ∧
    (∀ j r x, swapAt s .verify = some (j, r) → j.shards[j.shard]? = some x → isPlan j.tensors j.shard = false →
      let u := verified j j.shard x r s
      (¬ Spec.isBad r ∨ endsJob j x r = false → exec .swapVerifyEnd s =
        .next (setJob j.owner (fun k => { k with stage := .write, shard := 0, done := 0, got := none }) u)) ∧
      (Spec.isBad r → endsJob j x r = true →
        exec .swapVerifyEnd s = .next (jobFail j.owner 0x41 (corruptDetail s x.layer) false u))) ∧
    (∀ j, s.jobs.find? (fun j => j.swap && j.stage == .write) = some j →
      (passOf s (.handle j.h) = none → s.models[j.h].barrier = false →
        exec .swapWriteStart s = .next (dropOrphans (fetchShard j.owner 0
          (syncHolds (ofHandle j.h) (setModel j.h (fun m => { m with barrier := true }) s))))) ∧
      (passOf s (.handle j.h) ≠ none → Spec.owned s → exec .swapWriteStart s = .next s)) ∧
    (∀ j r i x, swapAt s .write = some (j, r) → jobFor s j.owner = some j → j.stage = .write → j.slot.isSome = true →
      (writeOrder j.shards)[j.shard]? = some i → j.shards[i]? = some x → j.shard + 1 < j.shards.length → Spec.owned s →
      (∃ id, j.owner = .cmd id) →
      let put := fun b => (putShard (s.models[j.h].units ++ j.units) (shardPlace j.tensors j.shards i) b s).mem
      (∀ b, r = .good b → ∃ t k, exec .swapShardWritten s = .next t ∧ t.mem = put b ∧
        t.models[j.h] = { s.models[j.h] with front := frontOf j (j.shard + 1) } ∧
        jobFor t j.owner = some k ∧ k.shard = j.shard + 1 ∧ k.done = j.done + b.length ∧ k.got = none) ∧
      (Spec.isBad r → j.revSlot.isSome = true → j.degraded = false →
        ∃ t k, exec .swapShardWritten s = .next t ∧ t.mem = s.mem ∧ t.models = s.models ∧
          jobFor t j.owner = some k ∧ k.stage = .revert ∧ k.failedAt = j.failedAt.or (some x.layer)) ∧
      (Spec.isBad r → (j.revSlot = none ∨ (j.degraded = true ∧ x.layer ≠ 0xFFFF)) →
        ∃ t k, exec .swapShardWritten s = .next t ∧ t.mem = put (List.replicate x.length 0) ∧
          jobFor t j.owner = some k ∧ k.shard = j.shard + 1 ∧ badLayerOf x.layer ∈ k.bad)) ∧
    (∀ j, s.jobs.find? (fun j => j.swap && j.stage == .revert) = some j →
      (j.shard < (oldShards s j).length → exec .swapRevertEnd s = .next s) ∧
      ((oldShards s j).length ≤ j.shard → ∃ t, exec .swapRevertEnd s = .next t ∧ (∀ k ∈ t.jobs, k.owner ≠ j.owner) ∧
        t.models[j.h].barrier = false ∧ t.models[j.h].front = 0x7FF ∧
        t.models[j.h].badLayers = (s.models[j.h].badLayers ++ j.bad).dedup ∧
        t.models[j.h].st = if s.models[j.h].badLayers = [] ∧ j.bad = [] then .resident else .degraded)) ∧
    (∀ (h : Handle) r, repairNow s = some h → s.models[h].repairing = some r →
      (∀ n b, r.got = some (.good b) → s.models[h].slot = some n → repairable s h = true →
        ∃ t, exec .repairEnd s = .next t ∧ t.models[h] = { s.models[h] with repairing := none } ∧
          t.str.repaired = min 65535 (s.str.repaired + 1) ∧ t.mem = (rewriteBlocks h n r.shard b s).mem) ∧
      ((∃ g, r.got = some g ∧ Spec.isBad g) ∨ (r.got = none ∧ repairable s h = false) →
        ∃ t, exec .repairEnd s = .next t ∧
          t.models[h].repairing = none ∧ (s.models[h].st = .resident → t.models[h].st = .degraded) ∧
          t.models[h].badLayers ≠ [] ∧ t.str.badRepairs = min 65535 (s.str.badRepairs + 1) ∧ t.mem = s.mem) ∧
      (r.got = none → repairable s h = true → exec .repairEnd s = .next s))

/-- STREAMER_BURST_COMPLETE and PRISM_BLOCK_DECODED (R289, R292, R311 to R316). -/
def Obligations.StripsAndBlocks : Prop :=
  ∀ (s : State) (i : Fin 64) (h : Handle), s.porst = false → s.strips[i].owner = some (.handle h) →
    (∀ a n e last, s.strips[i].st ≠ .filling → exec (.streamerBurstComplete i a n e last) s = .next s) ∧
    (∀ a f l d, s.strips[i].st ≠ .filling → exec (.prismBlockDecoded i a f l d) s = .next s) ∧
    (let own := fun (u : Consumer) => (ledger s .core).grants.any fun g => g.unit == u && g.tag == modelTag s (.handle h);
     let at_ := 0x2000000 + 0x40000 * i.val + s.strips[i].filled;
      s.strips[i].st = .filling → muted s = false → s.vib.runFrom = none → s.vib.again = none → Memory.wf s.mem = true →
      (∀ l a n last, loadOf s (.handle h) i = some l → burstOk s (.handle h) i l a n last = true →
        windowFirst s (.handle h) = true → islRuns s 21 = true → own .streamer = true → 0x100000000 ≤ a →
        Spec.readsClean s a n = true → (badIn s at_ n).isNone = true →
        (∀ t k, weightTensor s (.handle h) a = some (t, k) → 4 < t.format ∧ t.format ≠ 6) →
        ∃ t, exec (.streamerBurstComplete i a n [] last) s = .next t ∧
          (∀ k < n, memByte t.mem (at_ + k) = memByte s.mem (a + k)) ∧
          (∀ x, x < at_ ∨ at_ + n ≤ x → memByte t.mem x = memByte s.mem x) ∧
          t.strips[i].filled = s.strips[i].filled + n ∧ t.strips[i].fetched = s.strips[i].fetched + n ∧
          t.strips[i].owner = s.strips[i].owner ∧
          t.strips[i].st = (if last then .ready else .filling) ∧ (∀ k, k ≠ i → t.strips[k] = s.strips[k]) ∧
          t.str.fills = (if last then min 0xFFFFFFFF (s.str.fills + 1) else s.str.fills)) ∧
      (∀ l a lastT lastS, loadOf s (.handle h) i = some l → blockOk s (.handle h) i l a lastT lastS = true →
        islRuns s 22 = true → own .prism = true → ((passOf s (.handle h)).any (·.mirrored)) = false →
        (∀ es esc, decodeBlock lastT (memRead s.mem a 14400) = .ok (es, esc) →
          (badIn s at_ (2 * es.length)).isNone = true → s.strips[i].filled + 2 * es.length ≤ 0x40000 →
          ∃ t, exec (.prismBlockDecoded i a lastT lastS false) s = .next t ∧
            (∀ k (hk : k < es.length), memByte t.mem (at_ + 2 * k) = BitVec.ofNat 8 es[k] ∧
              memByte t.mem (at_ + 2 * k + 1) = BitVec.ofNat 8 (es[k] / 256)) ∧
            (∀ x, x < at_ ∨ at_ + 2 * es.length ≤ x → memByte t.mem x = memByte s.mem x) ∧
            t.strips[i].filled = s.strips[i].filled + 2 * es.length ∧
            t.strips[i].st = (if lastS then .ready else .filling) ∧
            t.strips[i].taken = s.strips[i].taken + le (memRead s.mem a 14400) 4 2 ∧
            t.prz.live[0] = (s.prz.live[0] + 1) % 2 ^ 64 ∧ t.prz.live[2] = (s.prz.live[2] + es.length) % 2 ^ 64 ∧
            t.prz.live[3] = (s.prz.live[3] + esc) % 2 ^ 64) ∧
        (∀ cause sub d, decodeBlock lastT (memRead s.mem a 14400) = .error (cause, sub) → s.strips[i].retry = false →
          ∃ t, exec (.prismBlockDecoded i a lastT lastS d) s = .next t ∧ t.mem = s.mem ∧ t.strips[i].retry = true ∧
            t.strips[i].filled = s.strips[i].filled ∧ t.strips[i].fetched = s.strips[i].taken ∧ t.prz.damage = min 65535 (s.prz.damage + 1) ∧
            t.prz.damageCause = cause ∧ t.prz.damageAddr = a)))

/-! ### The flash, and SCORE_UPDATE (04, 11) -/

/-- FLASH_INIT_COMPLETE, FLASH_PAGE_READ, FLASH_PATROL, BLOCK_REFRESH_COMPLETE (R264 to R272, R284). -/
def Obligations.FlashReadsAndRefresh : Prop :=
  ∀ s : State, s.porst = false → islRuns s 27 = true → muted s = false →
    (flashPart s = true → s.flc.ready = false → s.flc.fail = false → 3 < stageCode s.bsc.stage →
      (∀ ch copies bad, ∃ t, exec (.flashInitComplete (some ch) copies bad) s = .next t ∧ t.flc.fail = true ∧
        t.flc.ready = false) ∧
      (s.bsc.stage ≠ .preload → ∃ t, exec (.flashInitComplete none [true, true, true, true] []) s = .next t ∧
        t = { s with flc := { s.flc with ready := true }, nand := { s.nand with slots := t.nand.slots } } ∧
        ∀ n : Fin 32, t.nand.slots[n] =
          if s.nand.slots[n].st = 4 ∨ s.nand.slots[n].st = 5 then { st := 3, len := 0, id := 0 } else s.nand.slots[n])) ∧
    (s.flc.ready = true →
      (∀ b p who (cws : List CwRead), cws.length = 4 → cws.all (cwOk (firstOffset s b who)) = true →
        nextRead s (b % 2) = some (who, b, p) →
        let u := endGrant (.flash (Fin.ofNat 2 (b % 2))) s
        (holdsFlash s (readerTag s who) (b % 2) = true →
          exec (.flashPageRead b p cws) s = .next (readPage who b p cws u)) ∧
        (holdsFlash s (readerTag s who) (b % 2) = false →
          exec (.flashPageRead b p cws) s = .next (request (.flash (Fin.ofNat 2 (b % 2))) (readerTag s who) u))) ∧
      (∀ b p cws, (∀ who, nextRead s (b % 2) ≠ some (who, b, p)) → exec (.flashPageRead b p cws) s = .next s) ∧
      (s.flc.patrol ≠ 0 → patrolTurn s = true → s.flc.patrolAt + 3600000000000 * s.flc.patrol ≤ s.clk →
        holdsFlash s .system 0 = true → holdsFlash s .system 1 = true →
        ∀ reads, reads.length = 4 * (patrolPages s).length → ∃ t, exec (.flashPatrol reads) s = .next t ∧
          t.flc.patrolAt = s.clk ∧ t.nand.pages = s.nand.pages ∧ t.nand.slots = s.nand.slots ∧
          ∀ b p, patrolPages s = [(b, p)] → t = readCws b p (blockOfNand s b).offset 0xFF none reads
            { endGrant (.flash 1) (endGrant (.flash 0) s) with flc := { s.flc with patrolAt := s.clk } }) ∧
      (∀ reads, s.flc.patrol = 0 ∨ s.clk < s.flc.patrolAt + 3600000000000 * s.flc.patrol →
        exec (.flashPatrol reads) s = .next s) ∧
      (∀ x xs y ys, markedBlocks s = x :: xs → s.nand.pool = y :: ys → x ≠ y →
        refreshTurn s (x % 2) = true → refreshTurn s (y % 2) = true →
        holdsFlash s .system (x % 2) = true → holdsFlash s .system (y % 2) = true →
        (∃ t, exec (.blockRefreshComplete [] false) s = .next t ∧ t.nand.pool = ys ++ [x] ∧
          t.flc.refreshes = min 65535 (s.flc.refreshes + 1) ∧ (blockOfNand t x).pe = (blockOfNand s x).pe + 1 ∧
          (blockOfNand t x).mark = 0 ∧ (∀ p, p < 768 → nandPage t y p = nandPage s x p ∧
            nandPage t x p = List.replicate 16384 0xFF) ∧ t.nand.slots = s.nand.slots) ∧
        ∃ t, exec (.blockRefreshComplete [] true) s = .next t ∧ t.nand.pool = ys ∧
          (blockOfNand t y).retired = true ∧ t.nand.pages = s.nand.pages)) ∧
    (∀ b p part who (k : Fin 9) (r0 r1 r2 r3 : Nat), (∀ i < 4, isFlagged s b p i = false) → k.val < 4 →
      r0 ≤ 48 → r1 ≤ 48 → r2 ≤ 48 → r3 ≤ 48 → (blockOfNand s b).reads + 1 ≤ 1024 * s.flc.limit →
      readCws b p k.val part who [{ offset := some k, corrected := r0 }, { offset := some k, corrected := r1 },
        { offset := some k, corrected := r2 }, { offset := some k, corrected := r3 }] s =
        setBlock b (fun x => { x with reads := x.reads + 1 }) s) ∧
    (∀ b p part who first (k : Fin 9) c, isFlagged s b p 0 = false → k.val ≠ 0 → k.val ≠ first →
      let t := readCws b p first part who [{ offset := some k, corrected := c }] s
      t.flc.recovered = min 65535 (s.flc.recovered + 1) ∧ (blockOfNand t b).offset = k.val ∧
        (blockOfNand t b).reads = (blockOfNand s b).reads + 1 + k.val ∧ t.flc.uncorr = s.flc.uncorr) ∧
    (∀ b p part who first c, (readCws b p first part who [{ offset := none, corrected := c }] s).flc.uncorr =
      min 65535 (s.flc.uncorr + 1))

/-- FLASH_WRITE_IMAGE, FLASH_ERASE_SLOT, their steps, and SCORE_UPDATE (R111, R195, R196, R273, R274). -/
def Obligations.FlashWritesAndScoreUpdate : Prop :=
  ∀ (s : State) (id : Nat) (c : Cmd),
    let n : Fin 32 := Fin.ofNat 32 (c.byte 17)
    let run := fun (x : Cmd) => { x with phase := .running, queuedNs := queuedNow s x, waitFrom := none }
    (s.porst = false → s.jobs = [] → firstBy (serviceKey s) (s.cmds.filter (couldStart s)) = some c → c.id = id →
      cmdOf s id = some c → c.phase = .deferred true →
      (c.op = 0x48 → slotState s n = 1 → exec (.deferredStart id) s =
        .next (setCmd id (fun x => { x with phase := .ready }) (setSlot n 4 0 0 s))) ∧
      (c.op = 0x49 → exec (.deferredStart id) s =
        .next (setCmd id (fun x => { x with phase := .ready }) (setSlot n 5 0 0 s)))) ∧
    (Spec.isReady s id c 0x48 → s.flc.op = none → ∃ o, exec (.flashWriteImage id) s =
        .next (endIfGone (want id (c.field 24 8) 256 { setCmd id run s with flc := { s.flc with op := some o } })) ∧
      o.cmd = id ∧ o.slot = n ∧ o.erase = false ∧ o.checking = true ∧ o.page = 0) ∧
    (Spec.isReady s id c 0x49 → s.flc.op = none → goodBlocks s n ≠ [] → ∃ o, exec (.flashEraseSlot id) s =
        .next { setCmd id run s with flc := { s.flc with op := some o } } ∧
      o.cmd = id ∧ o.slot = n ∧ o.erase = true ∧ o.blocks = goodBlocks s n) ∧
    (∀ o b rest, s.porst = false → s.flc.op = some o → o.erase = true → o.blocks = b :: rest → islRuns s 27 = true →
      dieFree s b = true → holdsFlash s (.part 0) (b % 2) = true →
      (rest ≠ [] → ∃ t, exec (.flashBlockErased false) s = .next t ∧
        t.flc.op = some { o with blocks := rest, done := o.done + 1 } ∧
        (∀ p, p < 768 → nandPage t b p = List.replicate 16384 0xFF) ∧ (blockOfNand t b).pe = (blockOfNand s b).pe + 1) ∧
      (rest = [] → o.cmd = id → cmdOf s id = some c → c.silent = false → muted s = false → s.bsc.early = false →
        ∃ t p, exec (.flashBlockErased false) s = .next t ∧ Spec.done s t c 0 0 p ∧ t.flc.op = none ∧
          t.flc.lastValid = true ∧ t.flc.lastStatus = 0 ∧ t.nand.slots[o.slot].st = 1 ∧ t.evc.latch.getLsbD 34 = true)) ∧
    (∀ o, s.porst = false → s.flc.op = some o → o.erase = false → o.checking = true → o.tables ≠ [] →
      (o.shards.length < o.shard → cmdOf s o.cmd = some c → exec .flashWriteCheckPassEnd s =
        .next (endIfGone (want o.cmd (c.field 24 8 + (itemRange o 0).1) (itemRange o 0).2
          { s with flc := { s.flc with op := some { o with
            checking := false, clearing := false, shard := 0, page := 0, buf := [], done := 0, restarts := 0 } } }))) ∧
      (o.shard ≤ o.shards.length → exec .flashWriteCheckPassEnd s = .next s)) ∧
    (∀ o b p, s.porst = false → s.flc.op = some o → o.erase = false → o.checking = false → o.clearing = false →
      16384 < o.buf.length → islRuns s 27 = true → pagePlace s o.slot o.page = some (b, p) → p < 768 →
      dieFree s b = true → holdsFlash s (.part 0) (b % 2) = true →
      ∃ t q, exec (.flashPageProgrammed false) s = .next t ∧ t.flc.op = some q ∧ q.page = o.page + 1 ∧
        q.buf = o.buf.drop 16384 ∧ nandPage t b p = o.buf.take 16384 ∧
        ∀ x y, y < 768 → (x ≠ b ∨ y ≠ p) → nandPage t x y = nandPage s x y) ∧
    (Spec.isReady s id c 0x4A → (∀ d ∈ s.cmds, d.op = 0x4A → d.phase ≠ .running) →
      exec (.scoreUpdate id) s = .next (want id (c.field 24 8) (c.field 32 4)
        { setCmd id run s with bsc := { s.bsc with updStep := 1, updPercent := 0 } })) ∧
    (∀ back, s.porst = false → s.cmds.find? (fun d => d.op == 0x4A && d.phase == .running) = some c →
      sha256 back = sha256 c.input →
      (s.bsc.updStep = 2 → ∃ t, exec (.scoreUpdateCopyWritten back) s = .next t ∧
        t = { s with bsc := { s.bsc with updStep := 3, updPercent := 0 }, out := t.out } ∧
        ∃ k, t.out = .norWrite false c.input :: .norErase false k :: s.out ∧ c.input.length ≤ k) ∧
      (s.bsc.updStep = 3 → cmdOf s c.id = some c → c.silent = false → muted s = false → s.bsc.early = false →
        ∃ t p, exec (.scoreUpdateCopyWritten back) s = .next t ∧ Spec.done s t c 0 0 p ∧ t.bsc.updStep = 0 ∧
          t.bsc.updPercent = 100))

/-! ### Stacked and section memory (10, 15) -/

/-- The stacked-memory controllers and section scrub (R240 to R261, R342). -/
def Obligations.RequestsRowsAndRefresh : Prop :=
  ∀ s : State, s.porst = false →
    (∀ (c : Chan) (r : DmcReq), takesReq s c = true → reqOk s c r = true →
      (∀ q ∈ (chanOf s c).queue, q.since < s.clk ∨ sourceIsland c q.req.source ≤ sourceIsland c r.source) →
      (∀ d, r.data = some d → ((chanOf s c).queue.filter isWrite).length < 32 → (chanOf s c).dead = false →
        Memory.wf s.mem = true → (badIn s r.addr r.len).isNone = true →
        ∃ t, exec (.dmcRequestAccept c r) s = .next t ∧ (∀ i (h : i < d.length), memByte t.mem (r.addr + i) = d[i]) ∧
          (∀ x, x < r.addr ∨ r.addr + d.length ≤ x → memByte t.mem x = memByte s.mem x) ∧
          (chanOf t c).queue = (chanOf s c).queue ++
            [{ req := r, since := s.clk, value := [], lost := [], partialWait := false }]) ∧
      (r.data = none → ((chanOf s c).queue.filter fun q => !isWrite q).length < 48 →
        ((∀ q ∈ (chanOf s c).queue, isWrite q = true → overlap q.req r = false) →
          ∃ t, exec (.dmcRequestAccept c r) s = .next t ∧ t.mem = s.mem ∧ (chanOf t c).queue = (chanOf s c).queue ++
            [{ req := r, since := s.clk, value := memRead s.mem r.addr r.len,
               lost := s.bad.filter fun b => (blocksOf r.addr r.len).contains b.1, partialWait := false }]) ∧
        (∀ w, ((chanOf s c).queue.filter fun q => isWrite q && overlap q.req r).getLast? = some w → covers w.req r = true →
          (chanOf s c).fwd = true → (chanOf s c).dead = false →
          exec (.dmcRequestAccept c r) s = .next (send (.dram r (some (memRead s.mem r.addr r.len))) (bump c 4 1 s))))) ∧
    (∀ c r, takesReq s c = false → exec (.dmcRequestAccept c r) s = .next s) ∧
    (∀ c w i k q, nthOf w i (chanOf s c).queue = some k → (chanOf s c).queue[k]? = some q →
      (chanOf s c).retraining = false → takesReq s c = true → mayIssue s c (chanOf s c).queue k q = true →
      holdsGrant s (.dram c) = true → reqOk s c q.req = true → q.lost = [] → (chanOf s c).dead = false →
      s.vib.runFrom = none → (badIn s q.req.addr q.req.len).isNone = true → s.dmc[ctlOf c].idle ≠ 0 →
      ∃ t, exec (.dmcRequestIssue c w i []) s = .next t ∧ t.mem = s.mem ∧
        (chanOf t c).queue.map (·.req) = ((chanOf s c).queue.eraseIdx k).map (·.req) ∧
        isOpenAt t c (placeOf s q.req.addr).bank (placeOf s q.req.addr).row = true ∧
        t.out = if isWrite q then s.out else .dram q.req (some q.value) :: s.out) ∧
    (∀ c b o, (chanOf s c).openRows[b] = some o →
      (∀ q ∈ (chanOf s c).queue, (placeOf s q.req.addr).bank ≠ b ∨ (placeOf s q.req.addr).row ≠ o.row) →
      ∃ t, exec (.rowIdleClose c b) s = .next t ∧ (chanOf t c).openRows[b] = none ∧ t.mem = s.mem ∧
        ∀ e, e ≠ b → (chanOf t c).openRows[e] = (chanOf s c).openRows[e]) ∧
    (∀ d : Fin 2, s.dmc[d].sr = false → islRuns s (Fin.ofNat 32 (25 + d.val)) = true → refreshOn s = true →
      s.dmc[d].mode = false → s.dmc[d].modeNow = false → s.dmc[d].postpone = 0 →
      let c : Chan := Fin.ofNat 16 (8 * d.val + s.dmc[d].slot % 8)
      ∃ t, exec (.refreshSlot d) s = .next t ∧ t.dmc[d].slot = (s.dmc[d].slot + 1) % 16 ∧ t.mem = s.mem ∧
        (8 ≤ (chanOf s c).acc + dueOf (chanOf s c).rate → ∀ b : Fin 16, (chanOf t c).openRows[b] = none)) ∧
    (∀ (d : Fin 2) (vs : List Mr4), s.dmc[d].sr = false → islRuns s (Fin.ofNat 32 (25 + d.val)) = true →
      ∃ t, exec (.mr4Poll d vs) s = .next t ∧ ∀ i : Fin 8,
        (vs[i.val]? = some .x1 → t.dmc[d].chans[i].rate = 0) ∧ (vs[i.val]? = some .x2 → t.dmc[d].chans[i].rate = 1) ∧
        (vs[i.val]? = some .x4 → t.dmc[d].chans[i].rate = 2) ∧
        (∀ v, vs[i.val]? = some (.hotter v) → t.dmc[d].chans[i].hot = true)) ∧
    (∀ c drift, (250 < drift → (chanOf s c).joined = true → (chanOf s c).dead = false → s.dmc[ctlOf c].sr = false →
        ∃ t, exec (.dqsTrack c drift) s = .next t ∧ (chanOf t c).retraining = true ∧ t.mem = s.mem ∧
          ∀ b : Fin 16, (chanOf t c).openRows[b] = none) ∧
      (drift ≤ 250 → exec (.dqsTrack c drift) s = .next s)) ∧
    (∀ c, (chanOf s c).retraining = true →
      (∃ t, exec (.retrainComplete c true) s = .next t ∧ (chanOf t c).retraining = false ∧ (chanOf t c).tries = 0 ∧
        t.evc.latch.getLsbD 33 = true) ∧
      ((chanOf s c).tries = 2 → ∃ t, exec (.retrainComplete c false) s = .next t ∧ (chanOf t c).dead = true ∧
        (chanOf t c).retraining = false)) ∧
    (∀ d : Fin 2, let x := s.dmc[d]
      let c : Chan := Fin.ofNat 16 (8 * d.val + x.posChannel)
      let q := scrubReq s d c
      takesReq s c = true → (chanOf s c).retraining = false →
      ((chanOf s c).queue.filter fun y => !isWrite y).length < 48 →
      mayIssue s c ((chanOf s c).queue ++ [q]) (chanOf s c).queue.length q = true → holdsGrant s (.dram c) = true →
      Spec.readsClean s q.req.addr 32 = true → x.posBurst < 63 →
      ∃ t, exec (.scrubRead d []) s = .next t ∧ t.dmc[d].posBurst = x.posBurst + 1 ∧ t.dmc[d].posRow = x.posRow ∧
        t.dmc[d].posBank = x.posBank ∧ t.dmc[d].posChannel = x.posChannel ∧ t.mem = s.mem ∧ t.bad = s.bad) ∧
    (∀ d : Fin 2, (s.dmc[d].exiting = false → exec (.selfRefreshExitComplete d) s = .next s) ∧
      (s.dmc[d].exiting = true → ∃ t, exec (.selfRefreshExitComplete d) s = .next t ∧ t.dmc[d].exiting = false ∧
        t.dmc[d].down = false ∧ t.mem = s.mem)) ∧
    (∀ c, (∀ q ∈ (chanOf s c).queue, isWrite q = false) → ∃ t, exec (.hazardApply c) s = .next t ∧
      chanOf t c = { chanOf s c with fwd := s.dmc[ctlOf c].staged.getLsbD (localOf c).val }) ∧
    (∀ d : Fin 2, let off := 0x8100 + 0x1000 * d.val
      served s off = true →
      (islRuns s (Fin.ofNat 32 (25 + d.val)) = true →
        (∃ t, exec (.dmcCntSnap d) s = .next t ∧ t = { s with dmc := t.dmc } ∧
          ∀ i : Fin 8, t.dmc[d].chans[i] = { s.dmc[d].chans[i] with snap := s.dmc[d].chans[i].live }) ∧
        ∃ t, exec (.dmcCntClear d) s = .next t ∧ t = { s with dmc := t.dmc } ∧
          ∀ i : Fin 8, t.dmc[d].chans[i] = { s.dmc[d].chans[i] with live := Vector.replicate 8 0 }) ∧
      (islRuns s (Fin.ofNat 32 (25 + d.val)) = false →
        exec (.dmcCntSnap d) s = .next { s with isl := { s.isl with acts := s.isl.acts ++ [(off, 1)] } } ∧
        exec (.dmcCntClear d) s = .next { s with isl := { s.isl with acts := s.isl.acts ++ [(off, 2)] } })) ∧
    (∀ (m : Fin 4) (o : Nat), islRuns s (Fin.ofNat 32 (17 + m.val)) = true → o < 0x600000 → s.vib.runFrom = none →
      holdsGrant s (.secMem m) = true → (badIn s (0x800000 * m.val + o / 8 * 8) 8).isNone = true →
      exec (.sectionScrub m o []) s = .next (endGrant (.secMem m) s) ∧
      ∀ k, ∃ t, exec (.sectionScrub m o [.uncorrectable k]) s = .next t ∧
        t.sections[m].ue = s.sections[m].ue + 1 ∧ t.sections[m].ueAddr = o / 8 * 8 ∧ t.mem = s.mem)

/-! ### KERNEL sets, mirror pairs, vibrato (15, 19, 20) -/

/-- KERNEL_SET_START, PREEMPT_SAVE_COMPLETE, KERNEL_RESTORE, KERNEL_TIMEOUT, VCE_CTRL (R192, R193, R337 to R345). -/
def Obligations.KernelSets : Prop :=
  ∀ (s : State) (id : Nat), s.porst = false →
    (∀ k vs, choose s k false = some vs → vs = ((allVoices.filter (soloFree s)).take k) ∧ vs.length = k ∧
      (rowsWanted s = true → inSets s + k + 4 ≤ inService s)) ∧
    (∀ c, cmdOf s id = some c →
      (choose s c.kVoices c.kMirror = none ∨ paused s = true ∨ firstForVoices s id = false →
        ∀ probes, exec (.kernelSetStart id probes) s = .next s) ∧
      (∀ code vs, c.op = 0x38 → c.phase = .running → setOf s id = none → paused s = false → kernelCode c = some code →
        choose s c.kVoices c.kMirror = some vs → firstForVoices s id = true → s.vib.runFrom = none →
        ∃ t k, exec (.kernelSetStart id []) s = .next t ∧ t.sets = s.sets ++ [k] ∧ k.cmd = id ∧ k.part = c.part ∧
          k.mirror = c.kMirror ∧ k.voices = vs ∧ k.startedAt = s.clk ∧ k.saved = [] ∧ t.mem = s.mem ∧
          ∀ i, (h : i < vs.length) → (voiceOf t vs[i]).run = .set id i ∧ (voiceOf t vs[i]).code = code ∧
            (voiceOf t vs[i]).pc = c.kEntry ∧ (voiceOf t vs[i]).p = 0 ∧
            (voiceOf t vs[i]).s[(1 : Fin 16)] = BitVec.ofNat 32 i ∧
            (voiceOf t vs[i]).s[(2 : Fin 16)] = BitVec.ofNat 32 vs.length ∧
            (voiceOf t vs[i]).s[(3 : Fin 16)] = BitVec.ofNat 32 c.kArg ∧
            (voiceOf t vs[i]).s[(4 : Fin 16)] = BitVec.ofNat 32 (c.kArg / 2 ^ 32 % 256) ∧
            (∀ j : Fin 16, j = 0 ∨ 5 ≤ j → (voiceOf t vs[i]).s[j] = 0) ∧
            (∀ j : Fin 16, (voiceOf t vs[i]).tiles[j].live = false) ∧
            (∀ j : Fin 4, (voiceOf t vs[i]).accs[j].kind = .empty) ∧ (voiceOf t vs[i]).sat = false)) ∧
    (∀ k, setOf s id = some k → k.stopping = false → exec (.preemptSaveComplete id) s = .next s) ∧
    (∀ k, setOf s id = some k → k.stopping = true → k.voices.Nodup → ∃ t, exec (.preemptSaveComplete id) s = .next t ∧
      setOf t id = some { k with stopping := false, saved := k.voices.map (voiceOf s), voices := [] } ∧
      (∀ v ∈ k.voices, (voiceOf t v).run = .free ∧ (voiceOf t v).preempt = min 0xFFFFFFFF ((voiceOf s v).preempt + 1)) ∧
      (∀ v, v ∉ k.voices → voiceOf t v = voiceOf s v) ∧ t.mem = s.mem ∧ t.cmds = s.cmds) ∧
    (∀ k, setOf s id = some k →
      let cls := ((partCfg s k.part).map (·.cls)).getD 3
      (k.saved = [] ∨ lowerWaits s cls = true ∨ firstForVoices s id = false ∨ choose s k.saved.length false = none →
        exec (.kernelRestore id) s = .next s) ∧
      (∀ vs, k.saved ≠ [] → firstForVoices s id = true → choose s k.saved.length false = some vs →
        ∃ t, exec (.kernelRestore id) s = .next t ∧
          setOf t id = some { k with saved := [], voices := vs, given := vs, resumedAt := s.clk } ∧
          ∀ i, (h : i < vs.length) → (g : i < k.saved.length) → (voiceOf t vs[i]).pc = k.saved[i].pc ∧
            (voiceOf t vs[i]).s = k.saved[i].s ∧ (voiceOf t vs[i]).p = k.saved[i].p ∧
            (voiceOf t vs[i]).tiles = k.saved[i].tiles ∧ (voiceOf t vs[i]).accs = k.saved[i].accs ∧
            (voiceOf t vs[i]).sc = k.saved[i].sc ∧ (voiceOf t vs[i]).run = k.saved[i].run ∧
            (voiceOf t vs[i]).latchA = none ∧ (voiceOf t vs[i]).latchB = none)) ∧
    (∀ k c, setOf s id = some k → cmdOf s id = some c →
      (s.clk < k.startedAt + 1000 * c.kTimeout → exec (.kernelTimeout id) s = .next s) ∧
      (k.startedAt + 1000 * c.kTimeout ≤ s.clk → c.silent = false → muted s = false → s.bsc.early = false →
        ∃ t p, exec (.kernelTimeout id) s = .next t ∧ Spec.done s t c 0x02 4 p ∧ setOf t id = none ∧
          byteAt p 10 = 1 ∧ byteAt p 9 = 0xFF ∧ le p 4 4 = (s.clk - k.startedAt) / 1000 % 2 ^ 32 ∧
          (k.saved = [] → ∀ v ∈ physical k, (voiceOf t v).run = .free))) ∧
    (∀ (n : Voice) (v : Word), served s (0x20004 + 0x1000 * n.val) = true →
      ∃ t, exec (.vceCtrlWrite n v) s = .next t ∧ t = { s with voices := t.voices } ∧
        voiceOf t n = { voiceOf s n with
          hold := v.getLsbD 0
          run := if v.getLsbD 0 = false ∧ (voiceOf s n).run = .held then .free else (voiceOf s n).run } ∧
        ∀ m, m ≠ n → voiceOf t m = voiceOf s m)

/-- A pair in mirror mode takes a mismatch (kind 1) or a comparator fault (kinds 2 and 3): its state, its count, MIR_LAST and
the latch of source 0; no other pair changes (R453, R454, R466). -/
def Sys2Proof.Spec.pairFails (s t : State) (k : Pair) (kind : Nat) : Prop :=
  (pairAt t k).st = (if kind = 1 then .mismatch else .comparator) ∧ t.mir.probes = s.mir.probes ∧
  (pairAt t k).mismatches = min 255 ((pairAt s k).mismatches + 1) ∧ t.mir.lastPair = k.val ∧ t.mir.lastKind = kind ∧
  t.mir.lastValid = true ∧ t.evc.latch.getLsbD 0 = true ∧ ∀ j, j ≠ k → pairAt t j = pairAt s j

/-- MIRROR_PROBE, MIR_REQUAL, MIRROR_SELFTEST_END, CANTOR_MISMATCH, AON_COPY_OUTVOTED, and the VIB rows (R451 to R470). -/
def Obligations.MirrorAndVibrato : Prop :=
  ∀ s : State, s.porst = false →
    (∀ (k : Pair) (pat : BitVec 64) (r : CmpReport), islRuns s 31 = true → s.vib.runFrom = none →
      let x := pairAt s k
      (x.st ≠ .formed ∨ (pat ≠ 0 ∧ s.clk < x.probeAt + 125000 * x.per) ∨ (pat = 0 ∧ r.code = 1) →
        exec (.mirrorProbe k pat r) s = .next s) ∧
      (x.st = .formed → pat ≠ 0 → x.probeAt + 125000 * x.per ≤ s.clk →
        (r.code = 2 → r.diff = pat → exec (.mirrorProbe k pat r) s =
          .next (setPair k (fun p => { p with probeAt := s.clk, per := s.mir.period })
            { s with mir := { s.mir with probes := min 0xFFFFFFFF (s.mir.probes + 1) } })) ∧
        (¬ (r.code = 2 ∧ r.diff = pat) → ∃ t, exec (.mirrorProbe k pat r) s = .next t ∧
          Spec.pairFails s t k (if r.code = 2 then 1 else if r.code = 1 then 3 else 2))) ∧
      (x.st = .formed → pat = 0 → r.code ≠ 1 → ∃ t, exec (.mirrorProbe k pat r) s = .next t ∧
        Spec.pairFails s t k (if r.code = 2 then 1 else 2))) ∧
    (∀ v : Word, served s 0xF00C = true →
      (islRuns s 31 = true → ∃ t, exec (.mirRequalWrite v) s = .next t ∧ ∀ k : Pair,
        pairAt t k = if v.getLsbD k.val = true ∧
            ((pairAt s k).st = .mismatch ∨ (pairAt s k).st = .comparator ∨ (pairAt s k).st = .failed) then
          { pairAt s k with st := .requal, requals := min 255 ((pairAt s k).requals + 1) } else pairAt s k) ∧
      (islRuns s 31 = false → exec (.mirRequalWrite v) s =
        .next { s with isl := { s.isl with acts := s.isl.acts ++ [(0xF00C, v)] } })) ∧
    (∀ (k : Pair) (ok : Bool),
      ((pairAt s k).st ≠ .requal → exec (.mirrorSelftestEnd k ok) s = .next s) ∧
      ((pairAt s k).st = .requal → ∃ t, exec (.mirrorSelftestEnd k ok) s = .next t ∧
        pairAt t k = { pairAt s k with st := if ok then .formed else .failed, probeAt := s.clk, per := s.mir.period } ∧
        ∀ j, j ≠ k → pairAt t j = pairAt s j)) ∧
    (s.isl.refLost = false → muted s = false → s.bsc.stage ≠ .otp → ∃ t, exec .cantorMismatch s = .next t ∧
      t.bsc.stage = .mute ∧ t.bsc.muteCause = 2 ∧ t.bsc.muteIsland = 24) ∧
    (∀ (g : Fin 5) (c : Fin 3), g ≠ 0 →
      (s.mir.aon ≠ 0 → exec (.aonCopyOutvoted g c) s =
        .next { s with mir := { s.mir with aon := min 65535 (s.mir.aon + 1) } }) ∧
      (s.mir.aon = 0 → ∃ t, exec (.aonCopyOutvoted g c) s = .next t ∧ t.mir = { s.mir with aon := 1 } ∧
        t = { s with mir := t.mir, hif := t.hif, evc := t.evc } ∧ t.evc.latch = s.evc.latch)) ∧
    (∀ v : Word, served s 0x10000 = true → islRuns s 31 = true →
      let key := v.extractLsb' 0 16
      let first := s.vib.runFrom = none ∧ s.vib.keyAt = none ∧ key = 0x5649
      let second := s.vib.runFrom = none ∧ key = 0xA9B6 ∧ s.bsc.stage = .full ∧
        ∃ a, s.vib.keyAt = some a ∧ s.clk ≤ a + 100000
      (first → exec (.vibUnlockWrite v) s = .next { s with vib := { s.vib with keyAt := some s.clk } }) ∧
      (second → ∃ t, exec (.vibUnlockWrite v) s = .next t ∧ t.vib = { s.vib with keyAt := none, unlocked := true }) ∧
      (¬ first → ¬ second → ∃ t, exec (.vibUnlockWrite v) s = .next t ∧ t.vib = { s.vib with keyAt := none })) ∧
    (let missed := if s.vib.target = 0 then 0 else s.vib.count - s.vib.applied;
      let ended := { s.vib with runFrom := none, missed := missed, lastAt := none, again := none };
      (served s 0x10004 = true → islRuns s 31 = false →
        ∀ row ∈ [(Instr.vibGo, (1 : Word)), (Instr.vibStop, 2), (Instr.vibLock, 4)],
          exec row.1 s = .next { s with isl := { s.isl with acts := s.isl.acts ++ [(0x10004, row.2)] } }) ∧
      (served s 0x10004 = true → islRuns s 31 = true →
        (s.vib.unlocked = true → s.vib.runFrom = none → exec .vibGo s = .next { s with vib := { s.vib with
          keyAt := none, runFrom := some s.clk, applied := 0, lastAt := none, again := none } }) ∧
        (s.vib.unlocked = false ∨ s.vib.runFrom ≠ none → ∃ t, exec .vibGo s = .next t ∧
          t.vib = { s.vib with keyAt := none }) ∧
        (s.vib.unlocked = true → s.vib.runFrom = none →
          exec .vibStop s = .next { s with vib := { s.vib with keyAt := none } }) ∧
        (s.vib.unlocked = true → s.vib.runFrom ≠ none → ∃ t, exec .vibStop s = .next t ∧
          t.vib = { ended with keyAt := none } ∧ t.evc.latch.getLsbD 39 = true) ∧
        (s.vib.unlocked = true → s.vib.runFrom ≠ none → ∃ t, exec .vibLock s = .next t ∧
          t.vib = { ended with keyAt := none, unlocked := false } ∧ t.evc.latch.getLsbD 39 = true) ∧
        (s.vib.unlocked = true → s.vib.runFrom = none → ∃ t, exec .vibLock s = .next t ∧
          t.vib = { s.vib with keyAt := none, unlocked := false } ∧ t.evc.latch = s.evc.latch) ∧
        (s.vib.unlocked = false → ∀ c, c = .vibStop ∨ c = .vibLock → ∃ t, exec c s = .next t ∧
          t.vib = { s.vib with keyAt := none })) ∧
      (s.vib.runFrom = none → exec .vibDurationExpiry s = .next s) ∧
      (∀ a, s.vib.runFrom = some a →
        (s.clk < a + 1000000 * s.vib.ms → exec .vibDurationExpiry s = .next s) ∧
        (a + 1000000 * s.vib.ms ≤ s.clk → ∃ t, exec .vibDurationExpiry s = .next t ∧ t.vib = ended ∧
          t.evc.latch.getLsbD 39 = true ∧ t.evc.count[39] = min 255 (s.evc.count[39] + 1))))

/-! ### The ensemble (18) -/

/-- What a port fails a state of training with: DOWN, the cause, and 100 ms to wait. -/
def Sys2Proof.Spec.failed (t : State) (n : Port) (cause : Nat) : Prop :=
  (portOf t n).st = .down ∧ (portOf t n).cause = cause ∧ (portOf t n).penalty = true

/-- PORT_DETECT to LINK_ERROR, ENS_CTRL and ENS_DBIN_LO (R422 to R429, R432, R446). -/
def Obligations.PortStates : Prop :=
  ∀ (s : State) (n : Port), s.porst = false → islRuns s 29 = true →
    let q := portOf s n
    (q.st ≠ .detect → ∀ b, exec (.portDetect n b) s = .next s) ∧
    (q.st ≠ .equalize → ∀ b, exec (.portEqualizeEnd n b) s = .next s) ∧
    (q.st ≠ .align → ∀ b, exec (.portAlignEnd n b) s = .next s) ∧
    (q.st ≠ .ident → ∀ d, exec (.portIdentEnd n d) s = .next s) ∧
    (q.st = .detect → exec (.portDetect n false) s = .next s ∧
      exec (.portDetect n true) s = .next (setPort n (fun q => { q with st := .equalize, since := s.clk }) s)) ∧
    (q.st = .equalize →
      (s.clk ≤ q.since + 8000000 → exec (.portEqualizeEnd n false) s = .next s ∧
        exec (.portEqualizeEnd n true) s = .next (setPort n (fun q => { q with st := .align, since := s.clk }) s)) ∧
      (q.since + 8000000 < s.clk → ∀ b, ∃ t, exec (.portEqualizeEnd n b) s = .next t ∧ Spec.failed t n 6 ∧
        ∀ m, m ≠ n → portOf t m = portOf s m)) ∧
    (q.st = .align → ∀ lanes : BitVec 4,
      (lanes.getLsbD 0 = false → ∃ t, exec (.portAlignEnd n lanes) s = .next t ∧ Spec.failed t n 5) ∧
      (lanes.getLsbD 0 = true → q.since + 1000000 < s.clk →
        ∃ t, exec (.portAlignEnd n lanes) s = .next t ∧ Spec.failed t n 6) ∧
      (lanes.getLsbD 0 = true → s.clk ≤ q.since + 1000000 →
        ∃ t p, exec (.portAlignEnd n lanes) s = .next t ∧ (portOf t n).st = .ident ∧
        (portOf t n).lanes = (if lanes = 0xF then 0xF else if lanes.getLsbD 1 then 3 else 1) ∧ (portOf t n).idents = 1 ∧
        t.out = .packet n p false :: s.out ∧ p.type = 6 ∧ byteAt p.arg 0 = deviceNo s % 256 ∧ byteAt p.arg 1 = n.val)) ∧
    (q.st = .ident →
      (q.since + 1000000 < s.clk → ∀ d, ∃ t, exec (.portIdentEnd n d) s = .next t ∧ Spec.failed t n 6) ∧
      (s.clk ≤ q.since + 1000000 → exec (.portIdentEnd n none) s = .next s) ∧
      (s.clk ≤ q.since + 1000000 → q.idents = 16 → q.answered = 16 → ∀ d,
        ∃ t, exec (.portIdentEnd n (some d)) s = .next t ∧
        (portOf t n).st = .active ∧ (portOf t n).delay = d % 65536 ∧
        ∀ x < 256, t.ens.reach.getLsbD x = if routedOn s n x then x == q.neighbour else s.ens.reach.getLsbD x) ∧
      (s.clk ≤ q.since + 1000000 → q.idents ≠ 16 ∨ q.answered ≠ 16 →
        ∀ d, exec (.portIdentEnd n (some d)) s = .next s)) ∧
    (let wait := if q.penalty then 100000000 else 10000000;
      (q.st ≠ .down ∨ s.clk < q.since + wait → exec (.portDownExpiry n) s = .next s) ∧
      (q.st = .down → q.since + wait ≤ s.clk → exec (.portDownExpiry n) s =
        .next (setPort n (fun q => { q with st := .detect, since := s.clk }) s))) ∧
    (∀ v : Word, served s 0xE004 = true → ∃ t, exec (.ensRetrain v) s = .next t ∧ t.ens.lockReq = v.getLsbD 0 ∧
      t.ens.dbOutEn = v.getLsbD 1 ∧ t.ens.hold = v.extractLsb' 12 4 ∧
      (v.getLsbD (12 + n.val) = true → (portOf t n).st = .disabled) ∧
      (v.getLsbD (12 + n.val) = false → q.st ≠ .disabled →
        (v.getLsbD (8 + n.val) = true → (portOf t n).st = .down ∧ (portOf t n).since = s.clk ∧
          (q.st = .active → (portOf t n).cause = 7)) ∧
        (v.getLsbD (8 + n.val) = false → (portOf t n).st = q.st))) ∧
    (q.st = .active →
      (s.clk < q.lastTx + 5000 → exec (.keepaliveIdleTimer n) s = .next s) ∧
      (q.lastTx + 5000 ≤ s.clk → ∃ t p, exec (.keepaliveIdleTimer n) s = .next t ∧ t.out = .packet n p false :: s.out ∧
        p.type = 4 ∧ p.payload = [] ∧ portOf t n = { q with lastTx := s.clk }) ∧
      (q.rxNew = 0 → exec (.ackTimer n) s = .next s) ∧
      (q.rxNew ≠ 0 → ∃ t p, exec (.ackTimer n) s = .next t ∧ t.out = .packet n p false :: s.out ∧ p.type = 5 ∧
        le p.arg 0 2 = (q.rxSeq + 4095) % 4096 ∧ byteAt p.arg 2 = q.freed[(0 : Fin 2)] % 256 ∧
        byteAt p.arg 3 = q.freed[(1 : Fin 2)] % 256 ∧ byteAt p.arg 4 = 0 ∧ (portOf t n).rxNew = 0) ∧
      (q.unacked = [] → exec (.replayTimeout n) s = .next s) ∧
      (∀ e, q.unacked = [e] → q.queue = [] →
        (s.clk < e.at_ + 4000 → exec (.replayTimeout n) s = .next s) ∧
        (e.at_ + 4000 ≤ s.clk → e.replays < 7 → holdsGrant s (.port n) = true →
          ∃ t, exec (.replayTimeout n) s = .next t ∧ t.out = .packet n e.pkt (e.bad && vibRuns s) :: s.out ∧
            (portOf t n).unacked = [{ e with replays := e.replays + 1, at_ := s.clk, due := false }] ∧
            (portOf t n).replays = min 65535 (q.replays + 1) ∧ (portOf t n).st = .active) ∧
        (e.at_ + 4000 ≤ s.clk → e.replays < 8 → holdsGrant s (.port n) = false →
          ∃ t, exec (.replayTimeout n) s = .next t ∧ t.out = s.out ∧ (portOf t n).unacked = [{ e with due := true }] ∧
            (ledger t (ledgerOf (.port n))).reqs.any (fun r => r.unit == .port n) = true) ∧
        (e.at_ + 4000 ≤ s.clk → 8 ≤ e.replays →
          ∃ t, exec (.replayTimeout n) s = .next t ∧ (portOf t n).st = .down ∧ (portOf t n).cause = 2)) ∧
      (s.clk < q.lastRx + 50000 → exec (.linkSilence n) s = .next s) ∧
      (q.lastRx + 50000 ≤ s.clk → ∃ t, exec (.linkSilence n) s = .next t ∧ (portOf t n).st = .down ∧
        (portOf t n).cause = 1 ∧ (portOf t n).unacked = [] ∧
        ∀ x, t.ens.reach.getLsbD x = (s.ens.reach.getLsbD x && !routedOn s n x)) ∧
      (∀ e, (e = .crc ∨ e = .unlisted ∨ ∃ p : Packet, e = .gap p ∧ q.skipping = false ∧
          0 < (p.seq % 4096 + 4096 - q.rxSeq) % 4096 ∧ (p.seq % 4096 + 4096 - q.rxSeq) % 4096 < 2048) → q.rxSeq < 4096 →
        ∃ t p, exec (.linkError n e) s = .next t ∧ t.out = .packet n p false :: s.out ∧ p.type = 5 ∧
          le p.arg 0 2 = (q.rxSeq + 4095) % 4096 ∧ byteAt p.arg 4 = 1 ∧ (portOf t n).skipping = true ∧
          (portOf t n).rxSeq = q.rxSeq ∧ (portOf t n).crc = if e = .crc then min 65535 (q.crc + 1) else q.crc)) ∧
    (served s 0xE070 = true → exec .ensDbinLoRead s = .next (reply (.bar0 0xE070 (BitVec.ofNat 32 s.ens.dbin))
      { s with ens := { s.ens with dbinHi := BitVec.ofNat 32 (s.ens.dbin / 2 ^ 32) } }))

/-- A routed packet for this device arrives in order on a port that carries packets, and no ACK is due by count. -/
def Sys2Proof.Spec.arrives (s : State) (n : Port) (p : Packet) : Prop :=
  s.porst = false ∧ portActive s n = true ∧ routedForm p = true ∧ p.seq = (portOf s n).rxSeq ∧
  (portOf s n).rxNew < 15

/-- The CTRL messages and their rows (R444). -/
def Sys2Proof.Spec.ctrlTable : List (Nat × (Port → Packet → Instr)) :=
  [(1, .join), (2, .reach), (3, .reserve), (4, .reserveReply), (5, .release), (6, .commit), (7, .rollback),
   (8, .stageDone), (9, .fault), (10, .destroy)]

/-- The rows of arriving packets (R426 to R444). -/
def Obligations.Packets : Prop :=
  ∀ (s : State) (n : Port) (p : Packet),
    let part : Part := Fin.ofNat 8 (byteAt p.arg 1)
    let key := stageKey p.src (le p.arg 2 2)
    let own := Spec.arrives s n p ∧ p.dst = deviceNo s
    let msg := fun (m : Nat) => own ∧ p.type = 2 ∧ byteAt p.arg 0 = m
    (∀ row ∈ Spec.ctrlTable, Spec.arrives s n p → p.type = 2 →
      (byteAt p.arg 0 = row.1 → p.dst = deviceNo s → ∃ t, exec (row.2 n p) s = .next t ∧
        (portOf t n).rxSeq = ((portOf s n).rxSeq + 1) % 4096 ∧ (portOf t n).skipping = false) ∧
      (¬ (1 ≤ byteAt p.arg 0 ∧ byteAt p.arg 0 ≤ 10) → p.dst = deviceNo s → ∃ t, exec (row.2 n p) s = .next t ∧
        t.ens.dropCount = min 65535 (s.ens.dropCount + 1) ∧ t.ens.dropReason = 4) ∧
      (byteAt p.arg 0 = row.1 → p.dst ≠ deviceNo s →
        (∀ why, (p.ttl ≤ 1 ∧ why = 1) ∨ (1 < p.ttl ∧ routeOf s p.dst = 0xFF ∧ why = 2) ∨
            (1 < p.ttl ∧ (∃ m : Port, routeOf s p.dst = m.val ∧ portActive s m = false) ∧ why = 3) →
          ∃ t, exec (row.2 n p) s = .next t ∧ t.ens.dropCount = min 65535 (s.ens.dropCount + 1) ∧
            t.ens.dropReason = why ∧ (portOf t n).rxSeq = ((portOf s n).rxSeq + 1) % 4096 ∧ t.out = s.out) ∧
        (∀ m : Port, 1 < p.ttl → routeOf s p.dst = m.val → m ≠ n → portActive s m = true → (portOf s m).queue = [] →
          (∀ e ∈ (portOf s m).unacked, e.due = false) → hasCredit (portOf s m) 0 = true →
          holdsGrant s (.port m) = true → s.vib.runFrom = none → ∃ t, exec (row.2 n p) s = .next t ∧
            t.out = .packet m { p with ttl := p.ttl - 1, seq := (portOf s m).txSeq } false :: s.out ∧
            t.ens.dropCount = s.ens.dropCount))) ∧
    (own → p.type = 1 → ∀ sp, splitHandle s (byteAt p.arg 0) part = some sp → ∃ t b, exec (.data n p) s = .next t ∧
      b ∈ t.ens.blocks ∧ b.h.val = byteAt p.arg 0 ∧ b.num = le p.arg 2 2 ∧ (le p.arg 4 4, p.payload) ∈ b.data ∧
      ∀ x ∈ t.ens.blocks, x.h = b.h → x = b) ∧
    (msg 1 → ∀ h : Handle, byteAt p.arg 4 = h.val → ∃ t r, exec (.join n p) s = .next t ∧ r ∈ t.ens.joins ∧
      r.device = p.src ∧ r.h = h ∧ r.state = byteAt p.arg 5 ∧ r.record = slice p.payload 0 64 ∧
      t.ens.joined.getLsbD h.val = ((r.state == 2 || r.state == 3) && joinedNow t h)) ∧
    (msg 2 → ∃ t, exec (.reach n p) s = .next t ∧ ∀ d < 256, t.ens.reach.getLsbD d = if routedOn s n d then
      d == (portOf s n).neighbour || bitAt (leNat (slice p.payload 0 32)) d else s.ens.reach.getLsbD d) ∧
    (msg 3 → ∀ h, partFrom s p.src part = some h →
      let pages := stagePages s h part key (le p.arg 4 4)
      let short := shortTier s part [(1, pages.length), (6, b2n (ctxOf s part key).isNone)]
      (short = none → ∃ t, exec (.reserve n p) s = .next t ∧ (ctxOf t part key).isSome = true ∧
        ∀ pg ∈ pages, pg ∈ heldPages t part key) ∧
      (∀ tier k, short = some (tier, k) → ∃ t, exec (.reserve n p) s = .next t ∧ t.ctxs = s.ctxs ∧ t.objs = s.objs ∧
        (pageOf t part).lastTier = tier ∧ (pageOf t part).lastShort = k)) ∧
    (msg 4 → ∀ r c, s.ens.reserving = [r] → r.cmd = c.id → cmdOf s c.id = some c → c.part = part → c.ctx = le p.arg 2 2 →
      p.src ∈ r.asked → (∀ e ∈ r.replies, e.1 ≠ p.src) →
      (∀ d ∈ r.asked, d ≠ p.src → (∀ e ∈ r.replies, e.1 ≠ d) → ∃ t, exec (.reserveReply n p) s = .next t ∧
        t.ens.reserving = [{ r with replies := r.replies ++ [(p.src, byteAt p.arg 4, le p.arg 5 3)] }] ∧
        t.cmds = s.cmds) ∧
      (r.asked = [p.src] → byteAt p.arg 4 ≠ 0 → c.silent = false → muted s = false → s.bsc.early = false →
        ∃ t, exec (.reserveReply n p) s = .next t ∧ t.ens.reserving = [] ∧ Spec.done s t c 0x20
          ((byteAt p.arg 4 + 8 * min 8191 (le p.arg 5 3)) % 65536)
          (if c.op = 0x21 then failPayload s c 0x20 else List.replicate 16 0))) ∧
    (msg 5 → ∀ x, ctxOf s part key = some x → ∃ t, exec (.release n p) s = .next t ∧
      (x.pos = 0 → ctxOf t part key = none) ∧ (x.pos ≠ 0 → t.ctxs = s.ctxs)) ∧
    (msg 6 → ∀ x, ctxOf s part key = some x → ∃ t, exec (.commit n p) s = .next t ∧
      ctxOf t part key = some { x with pos := le p.arg 4 4 } ∧ t.objs = s.objs ∧ t.mem = s.mem) ∧
    (msg 7 → ∃ t, exec (.rollback n p) s = .next t ∧
      (∀ b ∈ t.ens.blocks, b.part = part → b.num = le p.arg 4 2 → ∀ sp, splitHandle s b.h.val part = some sp →
        sp.devices.getD 0 0 ≠ p.src) ∧
      ∀ q, splitPass s part (le p.arg 4 2) false p.src = some q → passOf t q.model = none) ∧
    (msg 8 → ∀ q, splitPass s part (le p.payload 0 2) true p.src = some q → passOf s q.model = some q →
      p.src ∉ q.stagesDone → ∃ t, exec (.stageDone n p) s = .next t ∧ passOf t q.model =
        some { q with stagesDone := q.stagesDone ++ [p.src], stageWait := q.stageWait + le p.arg 4 4 }) ∧
    (msg 9 → ∀ q r c, splitPass s part (le p.arg 6 2) true p.src = some q → q.rows = [r] → cmdOf s r.cmd = some c →
      c.silent = false → muted s = false → s.bsc.early = false →
      byteAt p.arg 4 ∈ [0x40, 0x41, 0x42, 0x50, 0x51] → ∃ t d y, exec (.fault n p) s = .next t ∧
        passOf t q.model = none ∧ Spec.done s t c (byteAt p.arg 4) d y ∧
        (byteAt p.arg 4 = 0x41 → d = p.src + 0x100 * byteAt p.arg 5) ∧ (byteAt p.arg 4 = 0x40 → d = byteAt p.arg 5)) ∧
    (msg 10 → ∃ t, exec (.destroy n p) s = .next t ∧ ctxOf t part key = none ∧
      ∀ y k, (y ≠ part ∨ k ≠ key) → ctxOf t y k = ctxOf s y k) ∧
    (s.porst = false → islRuns s 29 = true →
      ((portOf s n).st = .active →
        exec (.keepalive n { p with type := 4 }) s = .next (setPort n (fun q => { q with lastRx := s.clk }) s) ∧
        (ackOk p = false → exec (.ack n p) s = .next s) ∧
        (ackOk p = true → byteAt p.arg 4 = 0 → (portOf s n).queue = [] → (∀ e ∈ (portOf s n).unacked, e.due = false) →
          ∃ t, exec (.ack n p) s = .next t ∧ t = { s with ens := t.ens } ∧
            (∀ x y e, (portOf s n).unacked = x ++ e :: y → e.pkt.seq = le p.arg 0 2 →
              (∀ d ∈ x, d.pkt.seq ≠ le p.arg 0 2) → (portOf t n).unacked = y) ∧
            (portOf t n).granted[(0 : Fin 2)] = byteAt p.arg 2 ∧ (portOf t n).granted[(1 : Fin 2)] = byteAt p.arg 3)) ∧
      ((portOf s n).st = .ident → identOk p = true →
        (byteAt p.arg 0 = deviceNo s → ∃ t, exec (.ident n p) s = .next t ∧ Spec.failed t n 3) ∧
        (byteAt p.arg 0 ≠ deviceNo s → byteAt p.arg 2 = 1 → isLeader s = true →
          ∃ t, exec (.ident n p) s = .next t ∧ Spec.failed t n 4) ∧
        (byteAt p.arg 0 ≠ deviceNo s → ¬ (byteAt p.arg 2 = 1 ∧ isLeader s = true) → (portOf s n).idents < 16 →
          ∃ t a, exec (.ident n p) s = .next t ∧ (portOf t n).st = .ident ∧ (portOf t n).neighbour = byteAt p.arg 0 ∧
            (portOf t n).idents = (portOf s n).idents + 1 ∧ t.out = .packet n a false :: s.out ∧ a.type = 6)) ∧
      ((portOf s n).st = .active → downbeatOk p = true → ∀ res,
        (upstream s ≠ some n → exec (.downbeat n p res) s =
          .next (setPort n (fun q => { q with lastRx := s.clk }) s)) ∧
        (upstream s = some n →
          (s.tbs.lock = .seek → ∃ t, exec (.downbeat n p res) s = .next t ∧ t.tbs.lock = .align ∧
            t.tbs.dbCount = s.tbs.dbCount + 1 ∧ s.tbs.now ≤ t.tbs.now) ∧
          (s.tbs.lock = .locked → byteAt p.payload 10 = 0 → ∃ t, exec (.downbeat n p res) s = .next t ∧
            t.tbs.now = s.tbs.now ∧ t.tbs.miss = 0 ∧ t.ens.leader = byteAt p.payload 8 ∧
            (let at16 := 16 * leNat p.arg + leNat (slice p.payload 0 8) + (portOf s n).delay
             t.tbs.phase = (16 * (s.tbs.now : Int) - at16 + 8) / 16 ∧
             t.tbs.lock = if t.tbs.phase.natAbs ≤ 40 * hopsOf s then .locked else .align)))))

/-! ### Power, GPIO and the test port (21) -/

/-- The rows of 21 and the JTAG instructions (R488 to R503, R509). -/
def Obligations.PowerAndTestPort : Prop :=
  ∀ s : State,
    (s.porst = false →
      (∀ v : Word, served s 0x50 = true →
        let r := (v.extractLsb' 0 2).toNat
        (s.pwr.avsPhase ≠ .idle ∨ (s.pwr.active = r ∧ s.pwr.clockPt = r ∧ s.pwr.chargePt = r ∧ s.pwr.thermal = false) →
          exec (.glbOppointWrite v) s =
            .next { s with pwr := { s.pwr with req := r, avsErr := s.pwr.avsErr && !v.getLsbD 9 } }) ∧
        (s.pwr.avsPhase = .idle → s.pwr.thermal = false → s.pwr.active ≠ r →
          ∃ t, exec (.glbOppointWrite v) s = .next t ∧ t.pwr.avsPhase = .writing r ∧ t.out = .avs (pointMv r) :: s.out ∧
            t.pwr.active = s.pwr.active ∧
            (s.pwr.mv < pointMv r → t.pwr.chargePt = min r s.pwr.chargePt ∧ t.pwr.clockPt = s.pwr.clockPt ∧ t.isl = s.isl) ∧
            (pointMv r ≤ s.pwr.mv → t.pwr.clockPt = r ∧ t.pwr.chargePt = s.pwr.chargePt ∧ t.isl.discard = true))) ∧
      (s.pwr.avsPhase = .idle → ∀ ok, exec (.avsTransactionEnd ok) s = .next s) ∧
      (∀ r, s.pwr.avsPhase = .writing r →
        exec (.avsTransactionEnd true) s =
          .next { s with pwr := { s.pwr with avsPhase := .settling r s.clk, mv := pointMv r } } ∧
        (wantPoint s = r → exec (.avsTransactionEnd false) s =
          .next { s with pwr := { s.pwr with avsPhase := .idle, avsErr := true } })) ∧
      (∀ r a, s.pwr.avsPhase = .settling r a →
        (s.clk < a + 1000 * s.pwr.settle → exec .avsSettleExpiry s = .next s) ∧
        (a + 1000 * s.pwr.settle ≤ s.clk → wantPoint s = r → ∃ t, exec .avsSettleExpiry s = .next t ∧
          t.pwr = { s.pwr with avsPhase := .idle, clockPt := r, chargePt := r, active := r })) ∧
      (∀ ts : List Int,
        (ts.length ≠ 8 → exec (.thermalSample ts) s = .next s) ∧
        (ts.length = 8 → ∃ t, exec (.thermalSample ts) s = .next t ∧
          let x := t.pwr.temp
          let g := gradeMax s
          (∀ y ∈ ts, y ≤ x) ∧ ts[t.pwr.sensor]? = some x ∧
          (t.pwr.warn = true ↔ s.pwr.warnAt ≤ x ∨ (s.pwr.warn = true ∧ s.pwr.warnAt - 3 ≤ x)) ∧
          (t.pwr.trip = true ↔ g ≤ x ∨ (s.pwr.trip = true ∧ g - 10 ≤ x)) ∧
          (t.pwr.crit = true ↔ g + 10 ≤ x ∨ (s.pwr.crit = true ∧ g + 10 - 5 ≤ x)) ∧ t.pwr.thermal = t.pwr.trip ∧
          ((s.pwr.temp < g ∧ g ≤ x) ∨ (s.pwr.temp < g + 10 ∧ g + 10 ≤ x) → t.evc.latch.getLsbD 3 = true))) ∧
      (served s 0x58 = true → ∃ v, exec .glbThermRead s =
        .next (reply (.bar0 0x58 v) { s with pwr := { s.pwr with peak := s.pwr.temp } })) ∧
      (let stage := s.bsc.stage = .full ∨ (s.bsc.stage = .train ∧ s.bsc.trainFail = true);
        (s.pwr.st ≠ .on ∨ s.pwr.dozeUs = 0 ∨ deviceBusy s = true ∨ s.clk < s.pwr.idleSince + 1000 * s.pwr.dozeUs →
          exec .dozeEntry s = .next s) ∧
        (s.pwr.st = .on → stage → s.pwr.dozeUs ≠ 0 → deviceBusy s = false → s.isl.refLost = false →
          (∀ c : Chan, (chanOf s c).queue = []) →
          s.pwr.idleSince + 1000 * s.pwr.dozeUs ≤ s.clk → ∃ t, exec .dozeEntry s = .next t ∧ t.pwr.st = .doze ∧
            (∀ i : Island, (islOf t i).st =
              if dozeKeeps s i.val = false ∧ islRuns s i = true then .gated else (islOf s i).st) ∧
            (s.glb.winEn = false → ∀ d : Fin 2, t.dmc[d].sr = true) ∧ t.mem = s.mem ∧ t.ctxs = s.ctxs)) ∧
      (∀ v : Word, served s 0x40 = true → ∀ c, c = .restRequest v ∨ c = .restWakeRequest v →
        let r := v.extractLsb' 0 2
        let doze := (v.extractLsb' 16 16).toNat
        (r = 0 ∨ (r = 1 ∧ s.pwr.st = .rest) ∨ (r = 2 ∧ (s.pwr.st ≠ .rest ∨ s.pwr.waking ≠ none)) →
          exec c s = .next { s with pwr := { s.pwr with dozeUs := doze } }) ∧
        (r = 1 → s.pwr.st ≠ .rest → restOk s = false → exec c s = .next (regRefused 0x40 v 2 s)) ∧
        (r = 1 → s.pwr.st ≠ .rest → restOk s = true → ∃ t, exec c s = .next t ∧ t.pwr.st = .rest ∧ t.pwr.waking = none ∧
          (∀ i : Island, i ≠ 0 → (islOf t i).st = if (islOf s i).st = .fault then .fault else .collapsed) ∧
          (∀ d : Fin 2, t.dmc[d].sr = true) ∧ t.brg.core.grants = [] ∧ t.brg.io.grants = [] ∧ t.vib.runFrom = none ∧
          ∀ n : Voice, (voiceOf t n).run ≠ .held) ∧
        (r = 2 → s.pwr.st = .rest → s.pwr.waking = none → ∃ t, exec c s = .next t ∧ t.pwr.waking = some 0xFE) ∧
        (r = 3 → exec c s = .next (regRefused 0x40 v 1 s))) ∧
      (∀ w, s.pwr.st ≠ .rest → exec (.restWake w) s = .next s) ∧
      (∀ a : Source, s.pwr.wake.getLsbD a = false ∨ sourceActive s a = false →
        exec (.restWake (.source a)) s = .next s) ∧
      (s.pwr.st = .rest → s.pwr.waking = none →
        (∀ a : Source, s.pwr.wake.getLsbD a = true → sourceActive s a = true →
          ∃ t, exec (.restWake (.source a)) s = .next t ∧ t.pwr.waking = some a.val) ∧
        (∀ k : Fin 8, s.pwr.gpioWake.getLsbD k = true → ∃ t, exec (.restWake (.gpio k)) s = .next t ∧ t.pwr.waking = some 0xFD) ∧
        ∃ t, exec (.restWake .hostWrite) s = .next t ∧ t.pwr.waking = some 0xFE) ∧
      (∀ src, s.pwr.waking = some src → s.pwr.st = .rest → (∀ i ∈ ([24, 25, 26, 28, 30] : List Island), islRuns s i = true) →
        (∀ d : Fin 2, s.dmc[d].sr = false ∧ s.dmc[d].exiting = false) →
        ∃ t, exec .restExitComplete s = .next t ∧ t = { s with pwr := t.pwr, brg := t.brg } ∧ t.pwr = { s.pwr with
          st := .on, waking := none, woke := true, wakeSrc := src, idleSince := s.clk }) ∧
      (∀ (k : Fin 8) (b : Bool),
        (s.pwr.gpioOe.getLsbD k = true ∨ s.pwr.gpioIn.getLsbD k = b → exec (.gpioChange k b) s = .next s) ∧
        (s.pwr.gpioOe.getLsbD k = false → s.pwr.gpioIn.getLsbD k ≠ b → ∃ t, exec (.gpioChange k b) s = .next t ∧
          t.pwr.gpioIn.getLsbD k = b ∧ (∀ j : Fin 8, j ≠ k → t.pwr.gpioIn.getLsbD j = s.pwr.gpioIn.getLsbD j) ∧
          (s.pwr.gpioWake.getLsbD k = false ∨ s.pwr.st ≠ .rest →
            t = { s with pwr := { s.pwr with gpioIn := t.pwr.gpioIn } })))) ∧
    (let by_ := fun (ir : BitVec 8) => { s with jtag := { s.jtag with ir := ir, driving := false }, out := .tdo [false] :: s.out };
      let shown := fun (ir : BitVec 8) (l : List Bool) =>
        { s with jtag := { s.jtag with ir := ir, driving := false }, out := .tdo l :: s.out };
      exec .idcode s = .next (shown 0x01 ((List.range 32).map fun i => (0x103405A3#32).getLsbD i)) ∧
      exec .bypass s = .next (by_ 0xFF) ∧ exec .highz s = .next (by_ 0x05) ∧
      (∀ b : List Bool, ∃ t l, exec (.samplePreload b) s = .next t ∧ t.jtag.boundary = b ∧ t.jtag.ir = 0x02 ∧
        t.jtag.driving = false ∧ t.out = .tdo l :: s.out ∧ l.length = b.length ∧
        t = { s with jtag := t.jtag, out := t.out, freeCtr := t.freeCtr }) ∧
      (s.porst = false → exec .extest s = .next (by_ 0x03) ∧ exec .clamp s = .next (by_ 0x04)) ∧
      (s.porst = true → ∀ c, c = .extest ∨ c = .clamp → ∃ t, exec c s = .next t ∧ t.jtag.driving = true ∧
        t = { s with jtag := t.jtag, out := t.out, freeCtr := t.freeCtr }) ∧
      (debugOn s = false → exec .dbgStat s = .next (by_ 0x21) ∧ ∀ dr, exec (.dbgReg dr) s = .next (by_ 0x20)) ∧
      (debugOn s = true →
        (let u := bscReadEff s;
          exec .dbgStat s = .next { u with
            jtag := { u.jtag with ir := 0x21, driving := false }
            out := .tdo ((List.range 32).map fun i => (bscStage u).getLsbD i) :: u.out }) ∧
        ∀ dr : BitVec 64, let off := (dr.extractLsb' 0 20).toNat
          let s' := shown 0x20 ((List.range 64).map fun i => s.jtag.dr.getLsbD i)
          (dr.extractLsb' 21 11 ≠ 0 → exec (.dbgReg dr) s = .next s') ∧
          (dr.extractLsb' 21 11 = 0 → ∀ b, blockOf off = some b → answers s b = true → (∀ p, b ≠ .page p) →
            (∀ t, dr.getLsbD 20 = true → writeReg off (dr.extractLsb' 32 32) s' = some t →
              exec (.dbgReg dr) s = .next (noteRise .io s (noteRise .core s t))) ∧
            (∀ v, dr.getLsbD 20 = false → readReg off s' = some v → ∃ t, exec (.dbgReg dr) s = .next t ∧
              t.jtag.dr.extractLsb' 32 32 = v))))
end

