-- ==== Sys2Proof/Laws/Keeps.lean ====
section
/-! SUPPORT. What every command keeps, said once: `Keeps s0 t` says that a machine which came to `t` from `s0` holds its
memory in canonical form if `s0` did, lost no fuse, left the queue of commands alone, and did not turn TBS_NOW back. The files Laws/Keep*.lean
hold one lemma for each operation. -/

namespace Sys2Proof.Machine

theorem FusesGrow.rfl {f : Fuses} : FusesGrow f f :=
  ⟨.refl _, .refl _, .refl _, .refl _, .refl _, Nat.le_refl _, BitVec.or_self⟩

theorem FusesGrow.trans {f g h : Fuses} (a : FusesGrow f g) (b : FusesGrow g h) : FusesGrow f h :=
  ⟨b.dram.trans a.dram, b.flash.trans a.flash, b.grade.trans a.grade, b.serial.trans a.serial,
    b.keyHash.trans a.keyHash, Nat.le_trans a.rollback b.rollback, by
      rw [← b.revoked, ← BitVec.or_assoc, a.revoked]⟩

structure Keeps (s0 t : State) : Prop where
  mem : Memory.wf s0.mem = true → Memory.wf t.mem = true
  fuses : FusesGrow s0.fuses t.fuses
  pending : t.pending = s0.pending
  counts : CountsFit s0.evc.count → CountsFit t.evc.count
  now : s0.tbs.now ≤ t.tbs.now

/-- The same of the answers of operations that may have none, that answer a value as well, that a voice's instruction
gives, and that a command gives. -/
inductive KeepsOpt (s0 : State) : Option State → Prop
  | of_none : KeepsOpt s0 none
  | of_some {t : State} (h : Keeps s0 t) : KeepsOpt s0 (some t)

structure KeepsPair {α : Type} (s0 : State) (p : α × State) : Prop where
  snd : Keeps s0 p.2

inductive KeepsRan (s0 : State) : Ran → Prop
  | next {t : State} (h : Keeps s0 t) : KeepsRan s0 (.next t)
  | jump {t : State} {pc : Nat} (h : Keeps s0 t) : KeepsRan s0 (.jump t pc)
  | halt {t : State} {c : Halt} {alone : Bool} (h : Keeps s0 t) : KeepsRan s0 (.halt c alone t)
  | wait {t : State} (h : Keeps s0 t) : KeepsRan s0 (.wait t)

inductive KeepsOut (s0 : State) : Host.Outcome State Fault Refusal → Prop
  | next {t : State} (h : Keeps s0 t) : KeepsOut s0 (.next t)

variable {s0 s : State}

theorem Keeps.rfl : Keeps s s := ⟨id, .rfl, Eq.refl _, id, Nat.le_refl _⟩

/-- An update of any field but the queue, the fuses, memory, the event unit and the time base. -/
theorem Keeps.upd_iff {clk freeCtr porst glb brg isl dbOut bsc score link out hif objs cmds nextCmd
    ctxs masks defMask models jobs early passes strips str apt nand flc pwr jtag bad dmc voices sections sets prz mir
    vib ens} :
    Keeps s0 ⟨s.pending, clk, freeCtr, porst, s.fuses, glb, brg, isl, s.tbs, dbOut, bsc, score, link, out, hif, objs,
      cmds, nextCmd, ctxs, masks, defMask, models, jobs, early, passes, strips, str, apt, nand, flc,
      s.evc, pwr, jtag, s.mem, bad, dmc, voices, sections, sets, prz, mir, vib, ens⟩ ↔ Keeps s0 s :=
  ⟨fun h => ⟨h.mem, h.fuses, h.pending, h.counts, h.now⟩, fun h => ⟨h.mem, h.fuses, h.pending, h.counts, h.now⟩⟩

/-- The same, with any change of the event unit but of its counters. -/
theorem Keeps.upd_evc_iff {clk freeCtr porst glb brg isl dbOut bsc score link out hif objs cmds nextCmd
    ctxs masks defMask models jobs early passes strips str apt nand flc e1 e2 e3 e4 e5 e6 e7 e8 e9 e10 pwr jtag bad dmc voices sections sets prz mir
    vib ens} :
    Keeps s0 ⟨s.pending, clk, freeCtr, porst, s.fuses, glb, brg, isl, s.tbs, dbOut, bsc, score, link, out, hif, objs,
      cmds, nextCmd, ctxs, masks, defMask, models, jobs, early, passes, strips, str, apt, nand, flc,
      ⟨e1, e2, e3, e4, e5, e6, e7, e8, e9, s.evc.count, e10⟩, pwr, jtag, s.mem, bad, dmc, voices, sections, sets, prz, mir, vib, ens⟩ ↔ Keeps s0 s :=
  ⟨fun h => ⟨h.mem, h.fuses, h.pending, h.counts, h.now⟩, fun h => ⟨h.mem, h.fuses, h.pending, h.counts, h.now⟩⟩

/-- The same, with any change of the time base but of TBS_NOW. -/
theorem Keeps.upd_tbs_iff {clk freeCtr porst glb brg isl t1 t2 t3 t4 t5 t6 t7 t8 t9 t10 t11 t12 t13 t14 t15 dbOut bsc score link out hif objs cmds nextCmd
    ctxs masks defMask models jobs early passes strips str apt nand flc pwr jtag bad dmc voices sections sets prz mir
    vib ens} :
    Keeps s0 ⟨s.pending, clk, freeCtr, porst, s.fuses, glb, brg, isl, ⟨s.tbs.now, t1, t2, t3, t4, t5, t6, t7, t8, t9, t10, t11, t12, t13, t14, t15⟩, dbOut, bsc, score, link, out, hif, objs,
      cmds, nextCmd, ctxs, masks, defMask, models, jobs, early, passes, strips, str, apt, nand, flc,
      s.evc, pwr, jtag, s.mem, bad, dmc, voices, sections, sets, prz, mir, vib, ens⟩ ↔ Keeps s0 s :=
  ⟨fun h => ⟨h.mem, h.fuses, h.pending, h.counts, h.now⟩, fun h => ⟨h.mem, h.fuses, h.pending, h.counts, h.now⟩⟩

/-- The same, with both. -/
theorem Keeps.upd_both_iff {clk freeCtr porst glb brg isl t1 t2 t3 t4 t5 t6 t7 t8 t9 t10 t11 t12 t13 t14 t15 dbOut bsc score link out hif objs cmds nextCmd
    ctxs masks defMask models jobs early passes strips str apt nand flc e1 e2 e3 e4 e5 e6 e7 e8 e9 e10 pwr jtag bad dmc voices sections sets prz mir
    vib ens} :
    Keeps s0 ⟨s.pending, clk, freeCtr, porst, s.fuses, glb, brg, isl, ⟨s.tbs.now, t1, t2, t3, t4, t5, t6, t7, t8, t9, t10, t11, t12, t13, t14, t15⟩, dbOut, bsc, score, link, out, hif, objs,
      cmds, nextCmd, ctxs, masks, defMask, models, jobs, early, passes, strips, str, apt, nand, flc,
      ⟨e1, e2, e3, e4, e5, e6, e7, e8, e9, s.evc.count, e10⟩, pwr, jtag, s.mem, bad, dmc, voices, sections, sets, prz, mir, vib, ens⟩ ↔ Keeps s0 s :=
  ⟨fun h => ⟨h.mem, h.fuses, h.pending, h.counts, h.now⟩, fun h => ⟨h.mem, h.fuses, h.pending, h.counts, h.now⟩⟩

theorem CountsFit.set {v : Vector Nat 64} (h : CountsFit v) {n : Nat} (hn : n < 64) {k : Nat} (hk : k ≤ 255) :
    CountsFit (v.set n k hn) := by
  intro i hi
  rw [Vector.getElem_set]
  split
  · exact hk
  · exact h i hi

theorem satAdd_le {m v k : Nat} : satAdd m v k ≤ m := Nat.min_le_left _ _

theorem KeepsOpt.get {o : Option State} (e : o = some s) (h : KeepsOpt s0 o) : Keeps s0 s := by
  subst e; cases h; assumption
theorem KeepsOpt.getD {o : Option State} (h : KeepsOpt s0 o) (h' : Keeps s0 s) : Keeps s0 (o.getD s) := by
  cases h <;> assumption
theorem KeepsOpt.orElse {o : Option State} {f : Unit → Option State} (h : KeepsOpt s0 o) (k : ∀ x, KeepsOpt s0 (f x)) :
    KeepsOpt s0 (o.orElse f) := by
  cases h with
  | of_none => exact k ()
  | of_some h => exact .of_some h
theorem KeepsOpt.map {α : Type} {o : Option α} {f : α → State} (k : ∀ x, Keeps s0 (f x)) :
    KeepsOpt s0 (o.map f) := by
  cases o with
  | none => exact .of_none
  | some t => exact .of_some (k t)

theorem KeepsPair.of {α : Type} {a : α} (h : Keeps s0 s) : KeepsPair s0 (a, s) := ⟨h⟩
theorem KeepsPair.get {α : Type} {a : α} {p : α × State} (e : p = (a, s)) (h : KeepsPair s0 p) : Keeps s0 s := by
  subst e; exact h.snd

theorem KeepsRan.of_next (h : KeepsRan s0 (.next s)) : Keeps s0 s := by cases h; assumption
theorem KeepsRan.of_jump {pc : Nat} (h : KeepsRan s0 (.jump s pc)) : Keeps s0 s := by cases h; assumption
theorem KeepsRan.of_halt {c : Halt} {alone : Bool} (h : KeepsRan s0 (.halt c alone s)) : Keeps s0 s := by
  cases h; assumption
theorem KeepsRan.of_wait (h : KeepsRan s0 (.wait s)) : Keeps s0 s := by cases h; assumption

/-- A fold of an operation that keeps. -/
theorem Keeps.foldl {α : Type} {f : State → α → State} {l : List α} (h : Keeps s0 s)
    (k : ∀ t x, Keeps s0 t → Keeps s0 (f t x)) : Keeps s0 (l.foldl f s) := by
  induction l generalizing s with
  | nil => exact h
  | cons x l ih => exact ih (k s x h)

/-- A fold over numbered items. -/
theorem KeepsPair.foldl {α β : Type} {f : β × State → α → β × State} {l : List α} {p : β × State} (h : KeepsPair s0 p)
    (k : ∀ q x, KeepsPair s0 q → KeepsPair s0 (f q x)) : KeepsPair s0 (l.foldl f p) := by
  induction l generalizing p with
  | nil => exact h
  | cons x l ih => exact ih (k p x h)

/-! ### Memory -/

theorem Memory.wf_cons {k : Nat} {v : Byte} {m : Memory} :
    Memory.wf ((k, v) :: m) = true ↔ v ≠ 0 ∧ (∀ c ∈ m, k < c.1) ∧ Memory.wf m = true := by
  simp [Memory.wf, and_assoc]

theorem Memory.lt_memSet {m : Memory} {a k : Nat} {b : Byte} (hk : k < a) (h : ∀ c ∈ m, k < c.1) :
    ∀ c ∈ memSet m a b, k < c.1 := by
  induction m with
  | nil => simp only [memSet]; split <;> simp [hk]
  | cons x m ih =>
    have h1 := h x (by simp)
    have h2 : ∀ c ∈ m, k < c.1 := fun c hc => h c (by simp [hc])
    simp only [memSet]
    split
    · simpa [h1] using ih h2
    · split
      · split
        · exact h2
        · simpa [hk] using h2
      · split
        · simpa [h1] using h2
        · simp only [List.mem_cons, forall_eq_or_imp]; exact ⟨hk, h1, h2⟩

theorem Memory.wf_memSet {m : Memory} {a : Nat} {b : Byte} (h : Memory.wf m = true) : Memory.wf (memSet m a b) = true := by
  induction m with
  | nil => simp only [memSet]; split <;> simp_all [Memory.wf]
  | cons x m ih =>
    obtain ⟨h1, h2, h3⟩ := Memory.wf_cons.mp h
    simp only [memSet]
    split
    · exact Memory.wf_cons.mpr ⟨h1, Memory.lt_memSet (by assumption) h2, ih h3⟩
    · split
      · split
        · exact h3
        · exact Memory.wf_cons.mpr ⟨by assumption, fun c hc => by have := h2 c hc; omega, h3⟩
      · split
        · exact h
        · refine Memory.wf_cons.mpr ⟨by assumption, fun c hc => ?_, h⟩
          rcases List.mem_cons.mp hc with rfl | hc
          · show a < x.1; omega
          · have := h2 c hc; omega

theorem Memory.wf_memWrite {m : Memory} {a : Nat} {bs : List Byte} (h : Memory.wf m = true) :
    Memory.wf (memWrite m a bs) = true := by
  induction bs generalizing m a with
  | nil => exact h
  | cons b bs ih => exact ih (Memory.wf_memSet h)

theorem Memory.wf_filter {m : Memory} {p : Host.Cell → Bool} (h : Memory.wf m = true) : Memory.wf (m.filter p) = true := by
  induction m with
  | nil => rfl
  | cons x m ih =>
    obtain ⟨h1, h2, h3⟩ := Memory.wf_cons.mp h
    rw [List.filter_cons]
    split
    · exact Memory.wf_cons.mpr ⟨h1, fun c hc => h2 c (List.mem_of_mem_filter hc), ih h3⟩
    · exact ih h3

end Sys2Proof.Machine
end

