-- ==== Sys2Proof/Laws/KeepOps.lean ====
section
/-! SUPPORT. `Keeps` for the operations of Machine/Ops.lean, Serve.lean, Breath.lean, TimeBase.lean, Events.lean. -/

namespace Sys2Proof.Machine

theorem live_keeps {s0 s : State} {f : State → State} (h : Keeps s0 s) (f_keeps : ∀ t, Keeps s0 t → Keeps s0 (f t)) :
    KeepsOut s0 (live s f) := by
  unfold live
  repeat' first
    | with_reducible assumption | with_reducible apply f_keeps | with_reducible apply KeepsOut.next
    | with_reducible apply Keeps.foldl
    | simp only [Keeps.upd_iff, Keeps.upd_evc_iff, Keeps.upd_tbs_iff, Keeps.upd_both_iff] | split

theorem send_keeps {s0 s : State} {m : Msg} (h : Keeps s0 s) :
    Keeps s0 (send m s) := by
  unfold send
  repeat' first
    | with_reducible assumption | with_reducible apply Keeps.foldl | with_reducible apply KeepsOpt.getD
    | with_reducible apply KeepsOpt.of_some | simp only [Keeps.upd_iff]

theorem reply_keeps {s0 s : State} {m : Msg} (h : Keeps s0 s) :
    Keeps s0 (reply m s) := by
  unfold reply
  repeat' first
    | with_reducible assumption | with_reducible apply send_keeps | with_reducible apply Keeps.foldl
    | with_reducible apply KeepsOpt.getD | with_reducible apply KeepsOpt.of_some | simp only [Keeps.upd_iff] | split

theorem setPage_keeps {s0 s : State} {p : Part} {f : Page → Page} (h : Keeps s0 s) :
    Keeps s0 (setPage p f s) := by
  unfold setPage
  repeat' first
    | with_reducible assumption | with_reducible apply Keeps.foldl | with_reducible apply KeepsOpt.getD
    | with_reducible apply KeepsOpt.of_some | simp only [Keeps.upd_iff]

theorem setCmd_keeps {s0 s : State} {id : ℕ} {f : Cmd → Cmd} (h : Keeps s0 s) :
    Keeps s0 (setCmd id f s) := by
  unfold setCmd
  repeat' first
    | with_reducible assumption | with_reducible apply Keeps.foldl | with_reducible apply KeepsOpt.getD
    | with_reducible apply KeepsOpt.of_some | simp only [Keeps.upd_iff]

theorem occur_keeps {s0 s : State} {n : Source} (h : Keeps s0 s) :
    Keeps s0 (occur n s) := by
  unfold occur
  repeat' first
    | with_reducible assumption | with_reducible apply Keeps.foldl | with_reducible apply KeepsOpt.getD
    | with_reducible apply KeepsOpt.of_some
    | exact ⟨h.mem, h.fuses, h.pending, fun w => (h.counts w).set n.isLt satAdd_le, h.now⟩

theorem report_keeps {s0 s : State} {n : Source} (h : Keeps s0 s) :
    Keeps s0 (report n s) := by
  unfold report
  repeat' first
    | with_reducible assumption | with_reducible apply occur_keeps | with_reducible apply Keeps.foldl
    | with_reducible apply KeepsOpt.getD | with_reducible apply KeepsOpt.of_some | simp only [Keeps.upd_evc_iff]

theorem raiseMsix_keeps {s0 s : State} {v : Fin 2} (h : Keeps s0 s) :
    Keeps s0 (raiseMsix v s) := by
  unfold raiseMsix
  repeat' first
    | with_reducible assumption | with_reducible apply send_keeps | with_reducible apply Keeps.foldl
    | with_reducible apply KeepsOpt.getD | with_reducible apply KeepsOpt.of_some | simp only [Keeps.upd_iff] | split

theorem sendPme_keeps {s0 s : State} {n : Source} (h : Keeps s0 s) :
    Keeps s0 (sendPme n s) := by
  unfold sendPme
  repeat' first
    | with_reducible assumption | with_reducible apply send_keeps | with_reducible apply Keeps.foldl
    | with_reducible apply KeepsOpt.getD | with_reducible apply KeepsOpt.of_some | simp only [Keeps.upd_iff] | split

theorem assertWake_keeps {s0 s : State} (h : Keeps s0 s) :
    Keeps s0 (assertWake s) := by
  unfold assertWake
  repeat' first
    | with_reducible assumption | with_reducible apply Keeps.foldl | with_reducible apply KeepsOpt.getD
    | with_reducible apply KeepsOpt.of_some | simp only [Keeps.upd_iff] | split

theorem updatePend_keeps {s0 s : State} {n : Source} (h : Keeps s0 s) :
    Keeps s0 (updatePend n s) := by
  unfold updatePend
  repeat' first
    | with_reducible assumption | with_reducible apply raiseMsix_keeps | with_reducible apply assertWake_keeps
    | with_reducible apply sendPme_keeps | with_reducible apply Keeps.foldl | with_reducible apply KeepsOpt.getD
    | with_reducible apply KeepsOpt.of_some | simp only [Keeps.upd_evc_iff] | split

theorem loseErr_keeps {s0 s : State} (h : Keeps s0 s) :
    Keeps s0 (loseErr s) := by
  unfold loseErr
  repeat' first
    | with_reducible assumption | with_reducible apply occur_keeps | with_reducible apply Keeps.foldl
    | with_reducible apply KeepsOpt.getD | with_reducible apply KeepsOpt.of_some | simp only [Keeps.upd_iff]

theorem trimBacklog_keeps {s0 s : State} {a : ℕ} (h : Keeps s0 s) :
    Keeps s0 (trimBacklog a s) := by
  unfold trimBacklog
  repeat' first
    | with_reducible assumption | with_reducible apply loseErr_keeps | with_reducible apply Keeps.foldl
    | with_reducible apply KeepsOpt.getD | with_reducible apply KeepsOpt.of_some
    | with_reducible apply trimBacklog_keeps | simp only [Keeps.upd_iff] | split

theorem logErr_keeps {s0 s : State} {r : ErrRec} (h : Keeps s0 s) :
    Keeps s0 (logErr r s) := by
  unfold logErr
  repeat' first
    | with_reducible assumption | with_reducible apply trimBacklog_keeps | with_reducible apply loseErr_keeps
    | with_reducible apply Keeps.foldl | with_reducible apply KeepsOpt.getD | with_reducible apply KeepsOpt.of_some
    | simp only [Keeps.upd_iff] | split

theorem unmappedFor_keeps {s0 s : State} {p : Part} {off : ℕ} {write : Bool} (h : Keeps s0 s) :
    Keeps s0 (unmappedFor p off write s) := by
  unfold unmappedFor
  repeat' first
    | with_reducible assumption | with_reducible apply logErr_keeps | with_reducible apply Keeps.foldl
    | with_reducible apply KeepsOpt.getD | with_reducible apply KeepsOpt.of_some | simp only [Keeps.upd_iff] | split

theorem unmapped_keeps {s0 s : State} {off : ℕ} {write : Bool} (h : Keeps s0 s) :
    Keeps s0 (unmapped off write s) := by
  unfold unmapped
  repeat' first
    | with_reducible assumption | with_reducible apply unmappedFor_keeps

theorem regRefused_keeps {s0 s : State} {off : ℕ} {v : Word} {why : ℕ} (h : Keeps s0 s) :
    Keeps s0 (regRefused off v why s) := by
  unfold regRefused
  repeat' first
    | with_reducible assumption | with_reducible apply logErr_keeps

theorem barAccess_keeps {s0 s : State} {f : State → State} (f_keeps : ∀ t, Keeps s0 t → Keeps s0 (f t))
    (h : Keeps s0 s) :
    Keeps s0 (barAccess f s) := by
  unfold barAccess
  repeat' first
    | with_reducible assumption | with_reducible apply f_keeps | with_reducible apply send_keeps
    | with_reducible apply Keeps.foldl | with_reducible apply KeepsOpt.getD | with_reducible apply KeepsOpt.of_some
    | simp only [Keeps.upd_iff, Keeps.upd_evc_iff, Keeps.upd_tbs_iff, Keeps.upd_both_iff] | split

theorem regWrite_keeps {s0 s : State} {off : ℕ} {f : State → State} (f_keeps : ∀ t, Keeps s0 t → Keeps s0 (f t))
    (h : Keeps s0 s) :
    Keeps s0 (regWrite off f s) := by
  unfold regWrite
  repeat' first
    | with_reducible assumption | with_reducible apply f_keeps | with_reducible apply barAccess_keeps
    | with_reducible apply unmapped_keeps | with_reducible apply Keeps.foldl | with_reducible apply KeepsOpt.getD
    | with_reducible apply KeepsOpt.of_some
    | simp only [Keeps.upd_iff, Keeps.upd_evc_iff, Keeps.upd_tbs_iff, Keeps.upd_both_iff] | split
    | with_reducible refine KeepsOpt.get (by assumption) ?_ | with_reducible refine KeepsPair.get (by assumption) ?_
    | dsimp only | intro _

theorem regRead_keeps {s0 s : State} {off : ℕ} {val : State → Option Word} {eff : State → State}
    (eff_keeps : ∀ t, Keeps s0 t → Keeps s0 (eff t)) (h : Keeps s0 s) :
    Keeps s0 (regRead off val eff s) := by
  unfold regRead
  repeat' first
    | with_reducible assumption | with_reducible apply eff_keeps | with_reducible apply barAccess_keeps
    | with_reducible apply unmapped_keeps | with_reducible apply reply_keeps | with_reducible apply Keeps.foldl
    | with_reducible apply KeepsOpt.getD | with_reducible apply KeepsOpt.of_some
    | simp only [Keeps.upd_iff, Keeps.upd_evc_iff, Keeps.upd_tbs_iff, Keeps.upd_both_iff] | split
    | with_reducible refine KeepsOpt.get (by assumption) ?_ | with_reducible refine KeepsPair.get (by assumption) ?_
    | dsimp only | intro _

theorem whenRuns_keeps {s0 s : State} {off : ℕ} {v : Word} {f : State → State} (f_keeps : ∀ t, Keeps s0 t → Keeps s0
    (f t)) (h : Keeps s0 s) :
    Keeps s0 (whenRuns off v f s) := by
  unfold whenRuns
  repeat' first
    | with_reducible assumption | with_reducible apply f_keeps | with_reducible apply Keeps.foldl
    | with_reducible apply KeepsOpt.getD | with_reducible apply KeepsOpt.of_some | simp only [Keeps.upd_iff] | split

theorem markIdle_keeps {s0 s : State} (h : Keeps s0 s) :
    Keeps s0 (markIdle s) := by
  unfold markIdle
  repeat' first
    | with_reducible assumption | with_reducible apply Keeps.foldl | with_reducible apply KeepsOpt.getD
    | with_reducible apply KeepsOpt.of_some | simp only [Keeps.upd_iff]

theorem setIsl_keeps {s0 s : State} {i : Island} {f : IslandSt → IslandSt} (h : Keeps s0 s) :
    Keeps s0 (setIsl i f s) := by
  unfold setIsl
  repeat' first
    | with_reducible assumption | with_reducible apply Keeps.foldl | with_reducible apply KeepsOpt.getD
    | with_reducible apply KeepsOpt.of_some | simp only [Keeps.upd_iff]

theorem collapseAll_keeps {s0 s : State} {spare : Island → Bool} (h : Keeps s0 s) :
    Keeps s0 (collapseAll spare s) := by
  unfold collapseAll
  repeat' first
    | with_reducible assumption | with_reducible apply Keeps.foldl | with_reducible apply KeepsOpt.getD
    | with_reducible apply KeepsOpt.of_some | simp only [Keeps.upd_iff]

theorem stageChange_keeps {s0 s : State} (h : Keeps s0 s) :
    Keeps s0 (stageChange s) := by
  unfold stageChange
  repeat' first
    | with_reducible assumption | with_reducible apply report_keeps

theorem enterStage_keeps {s0 s : State} {st : Stage} {percent : ℕ} (h : Keeps s0 s) :
    Keeps s0 (enterStage st percent s) := by
  unfold enterStage
  repeat' first
    | with_reducible assumption | with_reducible apply stageChange_keeps | with_reducible apply Keeps.foldl
    | with_reducible apply KeepsOpt.getD | with_reducible apply KeepsOpt.of_some | simp only [Keeps.upd_iff]

theorem enterMute_keeps {s0 s : State} {cause : ℕ} {island : Island} (h : Keeps s0 s) :
    Keeps s0 (enterMute cause island s) := by
  unfold enterMute
  repeat' first
    | with_reducible assumption | with_reducible apply collapseAll_keeps | with_reducible apply enterStage_keeps
    | with_reducible apply Keeps.foldl | with_reducible apply KeepsOpt.getD | with_reducible apply KeepsOpt.of_some
    | simp only [Keeps.upd_iff]

theorem setLedger_keeps {s0 s : State} {l : Ledger} {f : LedgerSt → LedgerSt} (h : Keeps s0 s) :
    Keeps s0 (setLedger l f s) := by
  unfold setLedger
  repeat' first
    | with_reducible assumption | with_reducible apply Keeps.foldl | with_reducible apply KeepsOpt.getD
    | with_reducible apply KeepsOpt.of_some | simp only [Keeps.upd_iff] | split

theorem request_keeps {s0 s : State} {c : Consumer} {t2 : Tag} (h : Keeps s0 s) :
    Keeps s0 (request c t2 s) := by
  unfold request
  repeat' first
    | with_reducible assumption | with_reducible apply setLedger_keeps | with_reducible apply Keeps.foldl
    | with_reducible apply KeepsOpt.getD | with_reducible apply KeepsOpt.of_some
    | simp only [Keeps.upd_iff, Keeps.upd_evc_iff, Keeps.upd_tbs_iff, Keeps.upd_both_iff] | split

theorem endGrant_keeps {s0 s : State} {c : Consumer} (h : Keeps s0 s) :
    Keeps s0 (endGrant c s) := by
  unfold endGrant
  repeat' first
    | with_reducible assumption | with_reducible apply setLedger_keeps

theorem dropGrants_keeps {s0 s : State} {p : Consumer → Tag → Bool} (h : Keeps s0 s) :
    Keeps s0 (dropGrants p s) := by
  unfold dropGrants
  repeat' first
    | with_reducible assumption | with_reducible apply setLedger_keeps

theorem dropUnits_keeps {s0 s : State} {p : Consumer → Bool} (h : Keeps s0 s) :
    Keeps s0 (dropUnits p s) := by
  unfold dropUnits
  repeat' first
    | with_reducible assumption | with_reducible apply dropGrants_keeps

theorem withBurst_keeps {s0 s : State} {c : Consumer} {t2 : Tag} {k : State → State}
    (k_keeps : ∀ t, Keeps s0 t → Keeps s0 (k t)) (h : Keeps s0 s) :
    Keeps s0 (withBurst c t2 k s) := by
  unfold withBurst
  repeat' first
    | with_reducible assumption | with_reducible apply k_keeps | with_reducible apply endGrant_keeps
    | with_reducible apply request_keeps | with_reducible apply Keeps.foldl | with_reducible apply KeepsOpt.getD
    | with_reducible apply KeepsOpt.of_some
    | simp only [Keeps.upd_iff, Keeps.upd_evc_iff, Keeps.upd_tbs_iff, Keeps.upd_both_iff] | split

theorem withTagged_keeps {s0 s : State} {c : Consumer} {t2 : Tag} {k : State → State}
    (k_keeps : ∀ t, Keeps s0 t → Keeps s0 (k t)) (h : Keeps s0 s) :
    Keeps s0 (withTagged c t2 k s) := by
  unfold withTagged
  repeat' first
    | with_reducible assumption | with_reducible apply k_keeps | with_reducible apply request_keeps
    | with_reducible apply setLedger_keeps | with_reducible apply Keeps.foldl | with_reducible apply KeepsOpt.getD
    | with_reducible apply KeepsOpt.of_some | dsimp only | split

theorem withLease_keeps {s0 s : State} {c : Consumer} {t2 : Tag} {k : State → State}
    (k_keeps : ∀ t, Keeps s0 t → Keeps s0 (k t)) (h : Keeps s0 s) :
    Keeps s0 (withLease c t2 k s) := by
  unfold withLease
  repeat' first
    | with_reducible assumption | with_reducible apply k_keeps | with_reducible apply request_keeps
    | with_reducible apply Keeps.foldl | with_reducible apply KeepsOpt.getD | with_reducible apply KeepsOpt.of_some
    | simp only [Keeps.upd_iff, Keeps.upd_evc_iff, Keeps.upd_tbs_iff, Keeps.upd_both_iff] | split

theorem withDma_keeps {s0 s : State} {forCmd : Option ℕ} {k : State → State} (k_keeps : ∀ t, Keeps s0 t → Keeps s0
    (k t)) (h : Keeps s0 s) :
    Keeps s0 (withDma forCmd k s) := by
  unfold withDma
  repeat' first
    | with_reducible assumption | with_reducible apply k_keeps | with_reducible apply withBurst_keeps
    | with_reducible apply Keeps.foldl | with_reducible apply KeepsOpt.getD | with_reducible apply KeepsOpt.of_some
    | simp only [Keeps.upd_iff, Keeps.upd_evc_iff, Keeps.upd_tbs_iff, Keeps.upd_both_iff] | split

theorem addObj_keeps {s0 s : State} {p : Part} {tier : ℕ} {k : ObjKind} {ext : List (ℕ × ℕ)} (h : Keeps s0 s) :
    Keeps s0 (addObj p tier k ext s) := by
  unfold addObj
  repeat' first
    | with_reducible assumption | with_reducible apply Keeps.foldl | with_reducible apply KeepsOpt.getD
    | with_reducible apply KeepsOpt.of_some | simp only [Keeps.upd_iff]

theorem dropObjs_keeps {s0 s : State} {f : Obj → Bool} (h : Keeps s0 s) :
    Keeps s0 (dropObjs f s) := by
  unfold dropObjs
  repeat' first
    | with_reducible assumption | with_reducible apply Keeps.foldl | with_reducible apply KeepsOpt.getD
    | with_reducible apply KeepsOpt.of_some | simp only [Keeps.upd_iff]

theorem placeObj_keeps {s0 s : State} {p : Part} {tier : ℕ} {k : ObjKind} {n : ℕ} (h : Keeps s0 s) :
    Keeps s0 (placeObj p tier k n s) := by
  unfold placeObj
  repeat' first
    | with_reducible assumption | with_reducible apply addObj_keeps

theorem setCtx_keeps {s0 s : State} {p : Part} {key : ℕ} {f : Ctx → Ctx} (h : Keeps s0 s) :
    Keeps s0 (setCtx p key f s) := by
  unfold setCtx
  repeat' first
    | with_reducible assumption | with_reducible apply Keeps.foldl | with_reducible apply KeepsOpt.getD
    | with_reducible apply KeepsOpt.of_some | simp only [Keeps.upd_iff]

theorem newCtx_keeps {s0 s : State} {p : Part} {key : ℕ} (h : Keeps s0 s) :
    Keeps s0 (newCtx p key s) := by
  unfold newCtx
  repeat' first
    | with_reducible assumption | with_reducible apply addObj_keeps | with_reducible apply Keeps.foldl
    | with_reducible apply KeepsOpt.getD | with_reducible apply KeepsOpt.of_some | simp only [Keeps.upd_iff]

theorem freeObjs_keeps {s0 s : State} {f : Obj → Bool} (h : Keeps s0 s) :
    Keeps s0 (freeObjs f s) := by
  unfold freeObjs
  repeat' first
    | with_reducible assumption | with_reducible apply Keeps.foldl | with_reducible apply KeepsOpt.getD
    | with_reducible apply KeepsOpt.of_some | simp only [Keeps.upd_iff]

theorem dropCtx_keeps {s0 s : State} {p : Part} {key : ℕ} (h : Keeps s0 s) :
    Keeps s0 (dropCtx p key s) := by
  unfold dropCtx
  repeat' first
    | with_reducible assumption | with_reducible apply freeObjs_keeps | with_reducible apply Keeps.foldl
    | with_reducible apply KeepsOpt.getD | with_reducible apply KeepsOpt.of_some | simp only [Keeps.upd_iff]

theorem reservePages_keeps {s0 s : State} {p : Part} {key : ℕ} {pgs : List KvPage} (h : Keeps s0 s) :
    Keeps s0 (reservePages p key pgs s) := by
  unfold reservePages
  repeat' first
    | with_reducible assumption | with_reducible apply placeObj_keeps | with_reducible apply Keeps.foldl
    | with_reducible apply KeepsOpt.getD | with_reducible apply KeepsOpt.of_some
    | simp only [Keeps.upd_iff, Keeps.upd_evc_iff, Keeps.upd_tbs_iff, Keeps.upd_both_iff] | split
    | with_reducible refine KeepsOpt.get (by assumption) ?_ | with_reducible refine KeepsPair.get (by assumption) ?_
    | dsimp only | intro _

theorem trimPages_keeps {s0 s : State} {p : Part} {key : ℕ} (h : Keeps s0 s) :
    Keeps s0 (trimPages p key s) := by
  unfold trimPages
  repeat' first
    | with_reducible assumption | with_reducible apply freeObjs_keeps | with_reducible apply Keeps.foldl
    | with_reducible apply KeepsOpt.getD | with_reducible apply KeepsOpt.of_some | dsimp only | split

theorem startWait_keeps {s0 s : State} {id : ℕ} (h : Keeps s0 s) :
    Keeps s0 (startWait id s) := by
  unfold startWait
  repeat' first
    | with_reducible assumption | with_reducible apply setCmd_keeps

theorem endWait_keeps {s0 s : State} {id : ℕ} (h : Keeps s0 s) :
    Keeps s0 (endWait id s) := by
  unfold endWait
  repeat' first
    | with_reducible assumption | with_reducible apply setCmd_keeps

theorem queueRec_keeps {s0 s : State} {p : Part} {r : CompRec} (h : Keeps s0 s) :
    Keeps s0 (queueRec p r s) := by
  unfold queueRec
  repeat' first
    | with_reducible assumption | with_reducible apply setPage_keeps | with_reducible apply Keeps.foldl
    | with_reducible apply KeepsOpt.getD | with_reducible apply KeepsOpt.of_some | dsimp only | split

theorem settleCtx_keeps {s0 s : State} {p : Part} {key : ℕ} (h : Keeps s0 s) :
    Keeps s0 (settleCtx p key s) := by
  unfold settleCtx
  repeat' first
    | with_reducible assumption | with_reducible apply dropObjs_keeps | with_reducible apply freeObjs_keeps
    | with_reducible apply trimPages_keeps | with_reducible apply setCtx_keeps | with_reducible apply Keeps.foldl
    | with_reducible apply KeepsOpt.getD | with_reducible apply KeepsOpt.of_some | dsimp only | split

theorem releaseCmd_keeps {s0 s : State} {c : Cmd} (h : Keeps s0 s) :
    Keeps s0 (releaseCmd c s) := by
  unfold releaseCmd
  repeat' first
    | with_reducible assumption | with_reducible apply dropObjs_keeps | with_reducible apply dropCtx_keeps
    | with_reducible apply settleCtx_keeps | with_reducible apply Keeps.foldl | with_reducible apply KeepsOpt.getD
    | with_reducible apply KeepsOpt.of_some | dsimp only | split

theorem settleEarly_keeps {s0 s : State} (h : Keeps s0 s) :
    Keeps s0 (settleEarly s) := by
  unfold settleEarly
  repeat' first
    | with_reducible assumption | with_reducible apply dropCtx_keeps | with_reducible apply stageChange_keeps
    | with_reducible apply Keeps.foldl | with_reducible apply KeepsOpt.getD | with_reducible apply KeepsOpt.of_some
    | simp only [Keeps.upd_iff] | split | with_reducible refine KeepsOpt.get (by assumption) ?_
    | with_reducible refine KeepsPair.get (by assumption) ?_ | dsimp only | intro _

theorem leave_keeps {s0 s : State} {c : Cmd} (h : Keeps s0 s) :
    Keeps s0 (leave c s) := by
  unfold leave
  repeat' first
    | with_reducible assumption | with_reducible apply releaseCmd_keeps | with_reducible apply markIdle_keeps
    | with_reducible apply Keeps.foldl | with_reducible apply KeepsOpt.getD | with_reducible apply KeepsOpt.of_some
    | simp only [Keeps.upd_iff] | split

theorem finish_keeps {s0 s : State} {id : ℕ} {status : ℕ} {detail : ℕ} {refused : Bool} {payload : List Byte}
    (h : Keeps s0 s) :
    Keeps s0 (finish id status detail refused payload s) := by
  unfold finish
  repeat' first
    | with_reducible assumption | with_reducible apply logErr_keeps | with_reducible apply leave_keeps
    | with_reducible apply queueRec_keeps | with_reducible apply settleEarly_keeps | with_reducible apply Keeps.foldl
    | with_reducible apply KeepsOpt.getD | with_reducible apply KeepsOpt.of_some | dsimp only | split

theorem syncHolds_keeps {s0 s : State} {who : Cmd → Bool} (h : Keeps s0 s) :
    Keeps s0 (syncHolds who s) := by
  unfold syncHolds
  repeat' first
    | with_reducible assumption | with_reducible apply Keeps.foldl | with_reducible apply KeepsOpt.getD
    | with_reducible apply KeepsOpt.of_some | simp only [Keeps.upd_iff]

theorem failCmd_keeps {s0 s : State} {id : ℕ} {status : ℕ} {detail : ℕ} (h : Keeps s0 s) :
    Keeps s0 (failCmd id status detail s) := by
  unfold failCmd
  repeat' first
    | with_reducible assumption | with_reducible apply finish_keeps | with_reducible apply Keeps.foldl
    | with_reducible apply KeepsOpt.getD | with_reducible apply KeepsOpt.of_some
    | simp only [Keeps.upd_iff, Keeps.upd_evc_iff, Keeps.upd_tbs_iff, Keeps.upd_both_iff] | split

theorem setVoice_keeps {s0 s : State} {n : Voice} {f : VoiceSt → VoiceSt} (h : Keeps s0 s) :
    Keeps s0 (setVoice n f s) := by
  unfold setVoice
  repeat' first
    | with_reducible assumption | with_reducible apply Keeps.foldl | with_reducible apply KeepsOpt.getD
    | with_reducible apply KeepsOpt.of_some | simp only [Keeps.upd_iff]

theorem setModel_keeps {s0 s : State} {h1 : Handle} {f : Model → Model} (h : Keeps s0 s) :
    Keeps s0 (setModel h1 f s) := by
  unfold setModel
  repeat' first
    | with_reducible assumption | with_reducible apply Keeps.foldl | with_reducible apply KeepsOpt.getD
    | with_reducible apply KeepsOpt.of_some | simp only [Keeps.upd_iff]

theorem setRef_keeps {s0 s : State} {m : ModelRef} {f : Model → Model} (h : Keeps s0 s) :
    Keeps s0 (setRef m f s) := by
  unfold setRef
  repeat' first
    | with_reducible assumption | with_reducible apply setModel_keeps | with_reducible apply Keeps.foldl
    | with_reducible apply KeepsOpt.getD | with_reducible apply KeepsOpt.of_some | simp only [Keeps.upd_iff] | split

theorem setPass_keeps {s0 s : State} {m : ModelRef} {f : Pass → Pass} (h : Keeps s0 s) :
    Keeps s0 (setPass m f s) := by
  unfold setPass
  repeat' first
    | with_reducible assumption | with_reducible apply Keeps.foldl | with_reducible apply KeepsOpt.getD
    | with_reducible apply KeepsOpt.of_some | simp only [Keeps.upd_iff]

theorem noteLedger_keeps {s0 s : State} {l : Ledger} (h : Keeps s0 s) :
    Keeps s0 (noteLedger l s) := by
  unfold noteLedger
  repeat' first
    | with_reducible assumption | with_reducible apply setLedger_keeps

theorem noteLedgers_keeps {s0 s : State} (h : Keeps s0 s) :
    Keeps s0 (noteLedgers s) := by
  unfold noteLedgers
  repeat' first
    | with_reducible assumption | with_reducible apply noteLedger_keeps

theorem noteRise_keeps {s0 s t : State} {l : Ledger} (h : Keeps s0 t) : Keeps s0 (noteRise l s t) := by
  unfold noteRise
  repeat' first
    | with_reducible assumption | with_reducible apply noteLedger_keeps | with_reducible apply setLedger_keeps | split

theorem standingChange_keeps {s0 s : State} {f : State → State} (f_keeps : ∀ t, Keeps s0 t → Keeps s0 (f t))
    (h : Keeps s0 s) :
    Keeps s0 (standingChange f s) := by
  unfold standingChange
  repeat' first
    | with_reducible assumption | with_reducible apply f_keeps | with_reducible apply noteRise_keeps

theorem withGrant_keeps {s0 s : State} {l : Ledger} {r : Waiting} (h : Keeps s0 s) :
    Keeps s0 (withGrant l r s) := by
  unfold withGrant
  repeat' first
    | with_reducible assumption | with_reducible apply setLedger_keeps

theorem noteWait_keeps {s0 s : State} {r : Waiting} (h : Keeps s0 s) :
    Keeps s0 (noteWait r s) := by
  unfold noteWait
  repeat' first
    | with_reducible assumption | with_reducible apply setCmd_keeps | with_reducible apply Keeps.foldl
    | with_reducible apply KeepsOpt.getD | with_reducible apply KeepsOpt.of_some
    | simp only [Keeps.upd_iff, Keeps.upd_evc_iff, Keeps.upd_tbs_iff, Keeps.upd_both_iff] | split

theorem paceWaits_keeps {s0 s : State} {till : ℕ} (h : Keeps s0 s) :
    Keeps s0 (paceWaits till s) := by
  unfold paceWaits
  repeat' first
    | with_reducible assumption | with_reducible apply Keeps.foldl | with_reducible apply KeepsOpt.getD
    | with_reducible apply KeepsOpt.of_some | simp only [Keeps.upd_iff]

theorem giveGrant_keeps {s0 s : State} {l : Ledger} {r : Waiting} (h : Keeps s0 s) :
    Keeps s0 (giveGrant l r s) := by
  unfold giveGrant
  repeat' first
    | with_reducible assumption | with_reducible apply withGrant_keeps | with_reducible apply setLedger_keeps
    | with_reducible apply noteWait_keeps | with_reducible apply Keeps.foldl | with_reducible apply KeepsOpt.getD
    | with_reducible apply KeepsOpt.of_some | simp only [Keeps.upd_iff]

theorem arbitrate_keeps {s0 s : State} {l : Ledger} {limit : ℕ} {a : ℕ} {a4 : List Waiting} (h : Keeps s0 s) :
    Keeps s0 (arbitrate l limit a a4 s) := by
  unfold arbitrate
  repeat' first
    | with_reducible assumption | with_reducible apply giveGrant_keeps | with_reducible apply withGrant_keeps
    | with_reducible apply Keeps.foldl | with_reducible apply KeepsOpt.getD | with_reducible apply KeepsOpt.of_some
    | with_reducible apply arbitrate_keeps | dsimp only | split

theorem breathGrant_keeps {s0 s : State} {l : Ledger} {reqs : List BreathReq} (h : Keeps s0 s) :
    Keeps s0 (breathGrant l reqs s) := by
  unfold breathGrant
  repeat' first
    | with_reducible assumption | with_reducible apply arbitrate_keeps | with_reducible apply request_keeps
    | with_reducible apply noteLedger_keeps | with_reducible apply Keeps.foldl | with_reducible apply KeepsOpt.getD
    | with_reducible apply KeepsOpt.of_some | dsimp only | split
    | with_reducible refine KeepsOpt.get (by assumption) ?_ | with_reducible refine KeepsPair.get (by assumption) ?_
    | intro _

theorem stopForBreath_keeps {s0 s : State} {v : Voice} (h : Keeps s0 s) :
    Keeps s0 (stopForBreath v s) := by
  unfold stopForBreath
  repeat' first
    | with_reducible assumption | with_reducible apply request_keeps | with_reducible apply dropUnits_keeps
    | with_reducible apply setIsl_keeps | with_reducible apply Keeps.foldl | with_reducible apply KeepsOpt.getD
    | with_reducible apply KeepsOpt.of_some | dsimp only | split
    | with_reducible refine KeepsOpt.get (by assumption) ?_ | with_reducible refine KeepsPair.get (by assumption) ?_
    | intro _

theorem renewIdle_keeps {s0 s : State} {v : Voice} (h : Keeps s0 s) :
    Keeps s0 (renewIdle v s) := by
  unfold renewIdle
  repeat' first
    | with_reducible assumption | with_reducible apply withGrant_keeps | with_reducible apply stopForBreath_keeps
    | with_reducible apply Keeps.foldl | with_reducible apply KeepsOpt.getD | with_reducible apply KeepsOpt.of_some
    | simp only [Keeps.upd_iff] | split

theorem shedArrays_keeps {s0 s : State} {a : ℕ} (h : Keeps s0 s) :
    Keeps s0 (shedArrays a s) := by
  unfold shedArrays
  repeat' first
    | with_reducible assumption | with_reducible apply setLedger_keeps | with_reducible apply Keeps.foldl
    | with_reducible apply KeepsOpt.getD | with_reducible apply KeepsOpt.of_some
    | with_reducible apply shedArrays_keeps
    | simp only [Keeps.upd_iff, Keeps.upd_evc_iff, Keeps.upd_tbs_iff, Keeps.upd_both_iff] | split

theorem leaseExpiry_keeps {s0 s : State} {id : ℕ} (h : Keeps s0 s) :
    Keeps s0 (leaseExpiry id s) := by
  unfold leaseExpiry
  repeat' first
    | with_reducible assumption | with_reducible apply noteLedger_keeps | with_reducible apply setLedger_keeps
    | with_reducible apply noteLedgers_keeps | with_reducible apply renewIdle_keeps | with_reducible apply Keeps.foldl
    | with_reducible apply KeepsOpt.getD | with_reducible apply KeepsOpt.of_some | dsimp only | split

theorem execLeaseExpiry_keeps {s0 s : State} {id : ℕ} (h : Keeps s0 s) :
    KeepsOut s0 (execLeaseExpiry id s) := by
  unfold execLeaseExpiry
  repeat' first
    | with_reducible assumption | with_reducible apply leaseExpiry_keeps | with_reducible apply live_keeps
    | with_reducible apply KeepsOut.next | with_reducible apply Keeps.foldl
    | simp only [Keeps.upd_iff, Keeps.upd_evc_iff, Keeps.upd_tbs_iff, Keeps.upd_both_iff] | split
    | with_reducible refine KeepsOpt.get (by assumption) ?_ | with_reducible refine KeepsPair.get (by assumption) ?_
    | dsimp only | intro _

theorem markStarved_keeps {s0 s : State} (h : Keeps s0 s) :
    Keeps s0 (markStarved s) := by
  unfold markStarved
  repeat' first
    | with_reducible assumption | with_reducible apply Keeps.foldl | with_reducible apply KeepsOpt.getD
    | with_reducible apply KeepsOpt.of_some | simp only [Keeps.upd_iff] | split

theorem execBreathLimAssert_keeps {s0 s : State} (h : Keeps s0 s) :
    KeepsOut s0 (execBreathLimAssert s) := by
  unfold execBreathLimAssert
  repeat' first
    | with_reducible assumption | with_reducible apply markStarved_keeps | with_reducible apply occur_keeps
    | with_reducible apply live_keeps | with_reducible apply KeepsOut.next | with_reducible apply Keeps.foldl
    | simp only [Keeps.upd_iff] | split | with_reducible refine KeepsOpt.get (by assumption) ?_
    | with_reducible refine KeepsPair.get (by assumption) ?_ | dsimp only | intro _

theorem execBreathLimRelease_keeps {s0 s : State} (h : Keeps s0 s) :
    KeepsOut s0 (execBreathLimRelease s) := by
  unfold execBreathLimRelease
  repeat' first
    | with_reducible assumption | with_reducible apply live_keeps | with_reducible apply KeepsOut.next
    | with_reducible apply Keeps.foldl | simp only [Keeps.upd_iff] | split
    | with_reducible refine KeepsOpt.get (by assumption) ?_ | with_reducible refine KeepsPair.get (by assumption) ?_
    | dsimp only | intro _

theorem sampleLedger_keeps {s0 s : State} {l : Ledger} {meas : ℕ} (h : Keeps s0 s) :
    Keeps s0 (sampleLedger l meas s) := by
  unfold sampleLedger
  repeat' first
    | with_reducible assumption | with_reducible apply logErr_keeps | with_reducible apply setLedger_keeps
    | with_reducible apply Keeps.foldl | with_reducible apply KeepsOpt.getD | with_reducible apply KeepsOpt.of_some
    | dsimp only | split

theorem execOverCurrentSample_keeps {s0 s : State} {core : ℕ} {io : ℕ} (h : Keeps s0 s) :
    KeepsOut s0 (execOverCurrentSample core io s) := by
  unfold execOverCurrentSample
  repeat' first
    | with_reducible assumption | with_reducible apply sampleLedger_keeps | with_reducible apply live_keeps
    | with_reducible apply KeepsOut.next | with_reducible apply Keeps.foldl
    | simp only [Keeps.upd_iff, Keeps.upd_evc_iff, Keeps.upd_tbs_iff, Keeps.upd_both_iff] | split
    | with_reducible refine KeepsOpt.get (by assumption) ?_ | with_reducible refine KeepsPair.get (by assumption) ?_
    | dsimp only | intro _

theorem writeBrgStatus_keeps {s0 s : State} {v : Word} (h : Keeps s0 s) :
    Keeps s0 (writeBrgStatus v s) := by
  unfold writeBrgStatus
  repeat' first
    | with_reducible assumption | with_reducible apply setLedger_keeps

theorem execBrgStatusWrite_keeps {s0 s : State} {v : Word} (h : Keeps s0 s) :
    KeepsOut s0 (execBrgStatusWrite v s) := by
  unfold execBrgStatusWrite
  repeat' first
    | with_reducible assumption | with_reducible apply writeBrgStatus_keeps | with_reducible apply regWrite_keeps
    | with_reducible apply live_keeps | with_reducible apply KeepsOut.next | with_reducible apply Keeps.foldl
    | simp only [Keeps.upd_iff, Keeps.upd_evc_iff, Keeps.upd_tbs_iff, Keeps.upd_both_iff] | split
    | with_reducible refine KeepsOpt.get (by assumption) ?_ | with_reducible refine KeepsPair.get (by assumption) ?_
    | dsimp only | intro _

theorem writeBrgCeil_keeps {s0 s : State} {v : Word} (h : Keeps s0 s) :
    Keeps s0 (writeBrgCeil v s) := by
  unfold writeBrgCeil
  repeat' first
    | with_reducible assumption | with_reducible apply regRefused_keeps | with_reducible apply Keeps.foldl
    | with_reducible apply KeepsOpt.getD | with_reducible apply KeepsOpt.of_some | simp only [Keeps.upd_iff] | split

theorem execBrgCeilWrite_keeps {s0 s : State} {v : Word} (h : Keeps s0 s) :
    KeepsOut s0 (execBrgCeilWrite v s) := by
  unfold execBrgCeilWrite
  repeat' first
    | with_reducible assumption | with_reducible apply regWrite_keeps | with_reducible apply live_keeps
    | with_reducible apply writeBrgCeil_keeps | with_reducible apply KeepsOut.next | with_reducible apply Keeps.foldl
    | simp only [Keeps.upd_iff, Keeps.upd_evc_iff, Keeps.upd_tbs_iff, Keeps.upd_both_iff] | split
    | with_reducible refine KeepsOpt.get (by assumption) ?_ | with_reducible refine KeepsPair.get (by assumption) ?_
    | dsimp only | intro _

theorem writeBrgCeilLow_keeps {s0 s : State} {v : Word} (h : Keeps s0 s) :
    Keeps s0 (writeBrgCeilLow v s) := by
  unfold writeBrgCeilLow
  repeat' first
    | with_reducible assumption | with_reducible apply markStarved_keeps | with_reducible apply regRefused_keeps
    | with_reducible apply Keeps.foldl | with_reducible apply KeepsOpt.getD | with_reducible apply KeepsOpt.of_some
    | simp only [Keeps.upd_iff] | split

theorem execBrgCeilLowWrite_keeps {s0 s : State} {v : Word} (h : Keeps s0 s) :
    KeepsOut s0 (execBrgCeilLowWrite v s) := by
  unfold execBrgCeilLowWrite
  repeat' first
    | with_reducible assumption | with_reducible apply regWrite_keeps | with_reducible apply writeBrgCeilLow_keeps
    | with_reducible apply live_keeps | with_reducible apply KeepsOut.next | with_reducible apply Keeps.foldl
    | simp only [Keeps.upd_iff, Keeps.upd_evc_iff, Keeps.upd_tbs_iff, Keeps.upd_both_iff] | split
    | with_reducible refine KeepsOpt.get (by assumption) ?_ | with_reducible refine KeepsPair.get (by assumption) ?_
    | dsimp only | intro _

theorem writeBrgSlope_keeps {s0 s : State} {v : Word} (h : Keeps s0 s) :
    Keeps s0 (writeBrgSlope v s) := by
  unfold writeBrgSlope
  repeat' first
    | with_reducible assumption | with_reducible apply regRefused_keeps | with_reducible apply Keeps.foldl
    | with_reducible apply KeepsOpt.getD | with_reducible apply KeepsOpt.of_some | simp only [Keeps.upd_iff] | split

theorem writeBrgIoCeil_keeps {s0 s : State} {v : Word} (h : Keeps s0 s) :
    Keeps s0 (writeBrgIoCeil v s) := by
  unfold writeBrgIoCeil
  repeat' first
    | with_reducible assumption | with_reducible apply regRefused_keeps | with_reducible apply Keeps.foldl
    | with_reducible apply KeepsOpt.getD | with_reducible apply KeepsOpt.of_some | simp only [Keeps.upd_iff] | split

theorem writeBrgMargin_keeps {s0 s : State} {v : Word} (h : Keeps s0 s) :
    Keeps s0 (writeBrgMargin v s) := by
  unfold writeBrgMargin
  repeat' first
    | with_reducible assumption | with_reducible apply regRefused_keeps | with_reducible apply Keeps.foldl
    | with_reducible apply KeepsOpt.getD | with_reducible apply KeepsOpt.of_some | simp only [Keeps.upd_iff] | split

theorem brgReadEff_keeps {s0 s : State} {off : ℕ} (h : Keeps s0 s) :
    Keeps s0 (brgReadEff off s) := by
  unfold brgReadEff
  repeat' first
    | with_reducible assumption | with_reducible apply setLedger_keeps | with_reducible apply Keeps.foldl
    | with_reducible apply KeepsOpt.getD | with_reducible apply KeepsOpt.of_some
    | simp only [Keeps.upd_iff, Keeps.upd_evc_iff, Keeps.upd_tbs_iff, Keeps.upd_both_iff] | split

theorem execBrgPeakRead_keeps {s0 s : State} (h : Keeps s0 s) :
    KeepsOut s0 (execBrgPeakRead s) := by
  unfold execBrgPeakRead
  repeat' first
    | with_reducible assumption | with_reducible apply brgReadEff_keeps | with_reducible apply live_keeps
    | with_reducible apply regRead_keeps | with_reducible apply KeepsOut.next | with_reducible apply Keeps.foldl
    | simp only [Keeps.upd_iff, Keeps.upd_evc_iff, Keeps.upd_tbs_iff, Keeps.upd_both_iff] | split
    | with_reducible refine KeepsOpt.get (by assumption) ?_ | with_reducible refine KeepsPair.get (by assumption) ?_
    | dsimp only | intro _

theorem brgWrite_keeps {s0 s : State} {off : ℕ} {v : Word} (h : Keeps s0 s) :
    KeepsOpt s0 (brgWrite off v s) := by
  unfold brgWrite
  repeat' first
    | with_reducible assumption | with_reducible apply writeBrgStatus_keeps
    | with_reducible apply writeBrgIoCeil_keeps | with_reducible apply writeBrgSlope_keeps
    | with_reducible apply writeBrgCeilLow_keeps | with_reducible apply writeBrgMargin_keeps
    | with_reducible apply writeBrgCeil_keeps | with_reducible apply KeepsOpt.of_none
    | with_reducible apply KeepsOpt.of_some | with_reducible apply KeepsOpt.map | with_reducible apply KeepsOpt.orElse
    | with_reducible apply Keeps.foldl
    | simp only [Keeps.upd_iff, Keeps.upd_evc_iff, Keeps.upd_tbs_iff, Keeps.upd_both_iff] | split
    | with_reducible refine KeepsOpt.get (by assumption) ?_ | with_reducible refine KeepsPair.get (by assumption) ?_
    | dsimp only | intro _

theorem fireAlarm_keeps {s0 s : State} {a : Fin 2} (h : Keeps s0 s) :
    Keeps s0 (fireAlarm a s) := by
  unfold fireAlarm
  repeat' first
    | with_reducible assumption | with_reducible apply occur_keeps | with_reducible apply Keeps.foldl
    | with_reducible apply KeepsOpt.getD | with_reducible apply KeepsOpt.of_some
    | simp only [Keeps.upd_evc_iff, Keeps.upd_tbs_iff] | split

theorem execAlarmFire_keeps {s0 s : State} {a : Fin 2} (h : Keeps s0 s) :
    KeepsOut s0 (execAlarmFire a s) := by
  unfold execAlarmFire
  repeat' first
    | with_reducible assumption | with_reducible apply fireAlarm_keeps | with_reducible apply live_keeps
    | with_reducible apply KeepsOut.next | with_reducible apply Keeps.foldl
    | simp only [Keeps.upd_iff, Keeps.upd_evc_iff, Keeps.upd_tbs_iff, Keeps.upd_both_iff] | split
    | with_reducible refine KeepsOpt.get (by assumption) ?_ | with_reducible refine KeepsPair.get (by assumption) ?_
    | dsimp only | intro _

theorem writeAlarmLo_keeps {s0 s : State} {a : Fin 2} {v : Word} (h : Keeps s0 s) :
    Keeps s0 (writeAlarmLo a v s) := by
  unfold writeAlarmLo
  repeat' first
    | with_reducible assumption | with_reducible apply Keeps.foldl | with_reducible apply KeepsOpt.getD
    | with_reducible apply KeepsOpt.of_some | simp only [Keeps.upd_evc_iff, Keeps.upd_tbs_iff]

theorem writeAlarmHi_keeps {s0 s : State} {a : Fin 2} {v : Word} (h : Keeps s0 s) :
    Keeps s0 (writeAlarmHi a v s) := by
  unfold writeAlarmHi
  repeat' first
    | with_reducible assumption | with_reducible apply Keeps.foldl | with_reducible apply KeepsOpt.getD
    | with_reducible apply KeepsOpt.of_some | simp only [Keeps.upd_evc_iff, Keeps.upd_tbs_iff]

theorem execTbsAlarmHiWrite_keeps {s0 s : State} {a : Fin 2} {v : Word} (h : Keeps s0 s) :
    KeepsOut s0 (execTbsAlarmHiWrite a v s) := by
  unfold execTbsAlarmHiWrite
  repeat' first
    | with_reducible assumption | with_reducible apply regWrite_keeps | with_reducible apply writeAlarmHi_keeps
    | with_reducible apply live_keeps | with_reducible apply KeepsOut.next | with_reducible apply Keeps.foldl
    | simp only [Keeps.upd_iff, Keeps.upd_evc_iff, Keeps.upd_tbs_iff, Keeps.upd_both_iff] | split
    | with_reducible refine KeepsOpt.get (by assumption) ?_ | with_reducible refine KeepsPair.get (by assumption) ?_
    | dsimp only | intro _

theorem setAlarm_keeps {s0 s : State} {a : Fin 2} {f : Alarm → Alarm} (h : Keeps s0 s) :
    Keeps s0 (setAlarm a f s) := by
  unfold setAlarm
  repeat' first
    | with_reducible assumption | with_reducible apply Keeps.foldl | with_reducible apply KeepsOpt.getD
    | with_reducible apply KeepsOpt.of_some | simp only [Keeps.upd_evc_iff, Keeps.upd_tbs_iff]

theorem writeAlarmCtrl_keeps {s0 s : State} {v : Word} (h : Keeps s0 s) :
    Keeps s0 (writeAlarmCtrl v s) := by
  unfold writeAlarmCtrl
  repeat' first
    | with_reducible assumption | with_reducible apply setAlarm_keeps

theorem writeTbsCtrl_keeps {s0 s : State} {v : Word} (h : Keeps s0 s) :
    Keeps s0 (writeTbsCtrl v s) := by
  unfold writeTbsCtrl
  repeat' first
    | with_reducible assumption | with_reducible apply regRefused_keeps | with_reducible apply Keeps.foldl
    | with_reducible apply KeepsOpt.getD | with_reducible apply KeepsOpt.of_some
    | exact ⟨h.mem, h.fuses, h.pending, h.counts, h.now.trans (by simp_all)⟩ | dsimp only | split

theorem execTbsLoad_keeps {s0 s : State} {v : Word} (h : Keeps s0 s) :
    KeepsOut s0 (execTbsLoad v s) := by
  unfold execTbsLoad
  repeat' first
    | with_reducible assumption | with_reducible apply regWrite_keeps | with_reducible apply writeTbsCtrl_keeps
    | with_reducible apply live_keeps | with_reducible apply KeepsOut.next | with_reducible apply Keeps.foldl
    | simp only [Keeps.upd_iff, Keeps.upd_evc_iff, Keeps.upd_tbs_iff, Keeps.upd_both_iff] | split
    | with_reducible refine KeepsOpt.get (by assumption) ?_ | with_reducible refine KeepsPair.get (by assumption) ?_
    | dsimp only | intro _

theorem pulseOut_keeps {s0 s : State} (h : Keeps s0 s) :
    Keeps s0 (pulseOut s) := by
  unfold pulseOut
  repeat' first
    | with_reducible assumption | with_reducible apply Keeps.foldl | with_reducible apply KeepsOpt.getD
    | with_reducible apply KeepsOpt.of_some | simp only [Keeps.upd_iff] | split

theorem execDownbeatOutPulseEnd_keeps {s0 s : State} (h : Keeps s0 s) :
    KeepsOut s0 (execDownbeatOutPulseEnd s) := by
  unfold execDownbeatOutPulseEnd
  repeat' first
    | with_reducible assumption | with_reducible apply live_keeps | with_reducible apply KeepsOut.next
    | with_reducible apply Keeps.foldl | simp only [Keeps.upd_iff] | split
    | with_reducible refine KeepsOpt.get (by assumption) ?_ | with_reducible refine KeepsPair.get (by assumption) ?_
    | dsimp only | intro _

theorem execDownbeatMissed_keeps {s0 s : State} (h : Keeps s0 s) :
    KeepsOut s0 (execDownbeatMissed s) := by
  unfold execDownbeatMissed
  repeat' first
    | with_reducible assumption | with_reducible apply live_keeps | with_reducible apply KeepsOut.next
    | with_reducible apply Keeps.foldl | simp only [Keeps.upd_evc_iff, Keeps.upd_tbs_iff] | split
    | with_reducible refine KeepsOpt.get (by assumption) ?_ | with_reducible refine KeepsPair.get (by assumption) ?_
    | dsimp only | intro _

theorem tbsReadEff_keeps {s0 s : State} {off : ℕ} (h : Keeps s0 s) :
    Keeps s0 (tbsReadEff off s) := by
  unfold tbsReadEff
  repeat' first
    | with_reducible assumption | with_reducible apply Keeps.foldl | with_reducible apply KeepsOpt.getD
    | with_reducible apply KeepsOpt.of_some | simp only [Keeps.upd_evc_iff, Keeps.upd_tbs_iff] | split

theorem execTbsNowLoRead_keeps {s0 s : State} (h : Keeps s0 s) :
    KeepsOut s0 (execTbsNowLoRead s) := by
  unfold execTbsNowLoRead
  repeat' first
    | with_reducible assumption | with_reducible apply live_keeps | with_reducible apply regRead_keeps
    | with_reducible apply tbsReadEff_keeps | with_reducible apply KeepsOut.next | with_reducible apply Keeps.foldl
    | simp only [Keeps.upd_iff, Keeps.upd_evc_iff, Keeps.upd_tbs_iff, Keeps.upd_both_iff] | split
    | with_reducible refine KeepsOpt.get (by assumption) ?_ | with_reducible refine KeepsPair.get (by assumption) ?_
    | dsimp only | intro _

theorem tbsWrite_keeps {s0 s : State} {off : ℕ} {v : Word} (h : Keeps s0 s) :
    KeepsOpt s0 (tbsWrite off v s) := by
  unfold tbsWrite
  repeat' first
    | with_reducible assumption | with_reducible apply setAlarm_keeps | with_reducible apply writeAlarmLo_keeps
    | with_reducible apply writeTbsCtrl_keeps | with_reducible apply writeAlarmHi_keeps
    | with_reducible apply writeAlarmCtrl_keeps | with_reducible apply KeepsOpt.of_none
    | with_reducible apply KeepsOpt.of_some | with_reducible apply KeepsOpt.map | with_reducible apply KeepsOpt.orElse
    | with_reducible apply Keeps.foldl | simp only [Keeps.upd_evc_iff, Keeps.upd_tbs_iff] | split
    | with_reducible refine KeepsOpt.get (by assumption) ?_ | with_reducible refine KeepsPair.get (by assumption) ?_
    | dsimp only | intro _

theorem updatePends_keeps {s0 s : State} {ns : List ℕ} (h : Keeps s0 s) :
    Keeps s0 (updatePends ns s) := by
  unfold updatePends
  repeat' first
    | with_reducible assumption | with_reducible apply updatePend_keeps | with_reducible apply Keeps.foldl
    | with_reducible apply KeepsOpt.getD | with_reducible apply KeepsOpt.of_some
    | simp only [Keeps.upd_iff, Keeps.upd_evc_iff, Keeps.upd_tbs_iff, Keeps.upd_both_iff] | split
    | with_reducible refine KeepsOpt.get (by assumption) ?_ | with_reducible refine KeepsPair.get (by assumption) ?_
    | dsimp only | intro _

theorem countEvqFull_keeps {s0 s : State} {f : State → State} (f_keeps : ∀ t, Keeps s0 t → Keeps s0 (f t))
    (h : Keeps s0 s) :
    Keeps s0 (countEvqFull f s) := by
  unfold countEvqFull
  repeat' first
    | with_reducible assumption | with_reducible apply f_keeps | with_reducible apply Keeps.foldl
    | with_reducible apply KeepsOpt.getD | with_reducible apply KeepsOpt.of_some | simp only [Keeps.upd_iff] | split

theorem execEventSourcePending_keeps {s0 s : State} {n : Source} (h : Keeps s0 s) :
    KeepsOut s0 (execEventSourcePending n s) := by
  unfold execEventSourcePending
  repeat' first
    | with_reducible assumption | with_reducible apply updatePend_keeps | with_reducible apply live_keeps
    | with_reducible apply countEvqFull_keeps | with_reducible apply KeepsOut.next | with_reducible apply Keeps.foldl
    | simp only [Keeps.upd_iff, Keeps.upd_evc_iff, Keeps.upd_tbs_iff, Keeps.upd_both_iff] | split
    | with_reducible refine KeepsOpt.get (by assumption) ?_ | with_reducible refine KeepsPair.get (by assumption) ?_
    | dsimp only | intro _

theorem writeEvent_keeps {s0 s : State} (h : Keeps s0 s) :
    Keeps s0 (writeEvent s) := by
  unfold writeEvent
  repeat' first
    | with_reducible assumption | with_reducible apply raiseMsix_keeps | with_reducible apply send_keeps
    | with_reducible apply Keeps.foldl | with_reducible apply KeepsOpt.getD | with_reducible apply KeepsOpt.of_some
    | simp only [Keeps.upd_evc_iff] | split

theorem eventRecord_keeps {s0 s : State} (h : Keeps s0 s) :
    Keeps s0 (eventRecord s) := by
  unfold eventRecord
  repeat' first
    | with_reducible assumption | with_reducible apply writeEvent_keeps | with_reducible apply withDma_keeps
    | with_reducible apply countEvqFull_keeps | with_reducible apply Keeps.foldl | with_reducible apply KeepsOpt.getD
    | with_reducible apply KeepsOpt.of_some
    | simp only [Keeps.upd_iff, Keeps.upd_evc_iff, Keeps.upd_tbs_iff, Keeps.upd_both_iff] | split
    | with_reducible refine KeepsOpt.get (by assumption) ?_ | with_reducible refine KeepsPair.get (by assumption) ?_
    | dsimp only | intro _

theorem execEventRecordWrite_keeps {s0 s : State} (h : Keeps s0 s) :
    KeepsOut s0 (execEventRecordWrite s) := by
  unfold execEventRecordWrite
  repeat' first
    | with_reducible assumption | with_reducible apply eventRecord_keeps | with_reducible apply live_keeps

theorem claimEff_keeps {s0 s : State} (h : Keeps s0 s) :
    Keeps s0 (claimEff s) := by
  unfold claimEff
  repeat' first
    | with_reducible assumption | with_reducible apply Keeps.foldl | with_reducible apply KeepsOpt.getD
    | with_reducible apply KeepsOpt.of_some | simp only [Keeps.upd_evc_iff] | split

theorem writeDone_keeps {s0 s : State} {v : Word} (h : Keeps s0 s) :
    Keeps s0 (writeDone v s) := by
  unfold writeDone
  repeat' first
    | with_reducible assumption | with_reducible apply raiseMsix_keeps | with_reducible apply regRefused_keeps
    | with_reducible apply assertWake_keeps | with_reducible apply sendPme_keeps | with_reducible apply Keeps.foldl
    | with_reducible apply KeepsOpt.getD | with_reducible apply KeepsOpt.of_some | simp only [Keeps.upd_evc_iff]
    | split

theorem execEvcDoneWrite_keeps {s0 s : State} {v : Word} (h : Keeps s0 s) :
    KeepsOut s0 (execEvcDoneWrite v s) := by
  unfold execEvcDoneWrite
  repeat' first
    | with_reducible assumption | with_reducible apply regWrite_keeps | with_reducible apply writeDone_keeps
    | with_reducible apply live_keeps | with_reducible apply KeepsOut.next | with_reducible apply Keeps.foldl
    | simp only [Keeps.upd_iff, Keeps.upd_evc_iff, Keeps.upd_tbs_iff, Keeps.upd_both_iff] | split
    | with_reducible refine KeepsOpt.get (by assumption) ?_ | with_reducible refine KeepsPair.get (by assumption) ?_
    | dsimp only | intro _

theorem writeLatch_keeps {s0 s : State} {half : Fin 2} {v : Word} (h : Keeps s0 s) :
    Keeps s0 (writeLatch half v s) := by
  unfold writeLatch
  repeat' first
    | with_reducible assumption | with_reducible apply Keeps.foldl | with_reducible apply KeepsOpt.getD
    | with_reducible apply KeepsOpt.of_some | simp only [Keeps.upd_evc_iff]

theorem execEvcLatchWrite_keeps {s0 s : State} {half : Fin 2} {v : Word} (h : Keeps s0 s) :
    KeepsOut s0 (execEvcLatchWrite half v s) := by
  unfold execEvcLatchWrite
  repeat' first
    | with_reducible assumption | with_reducible apply regWrite_keeps | with_reducible apply live_keeps
    | with_reducible apply writeLatch_keeps | with_reducible apply KeepsOut.next | with_reducible apply Keeps.foldl
    | simp only [Keeps.upd_iff, Keeps.upd_evc_iff, Keeps.upd_tbs_iff, Keeps.upd_both_iff] | split
    | with_reducible refine KeepsOpt.get (by assumption) ?_ | with_reducible refine KeepsPair.get (by assumption) ?_
    | dsimp only | intro _

theorem writeSoftSet_keeps {s0 s : State} {v : Word} (h : Keeps s0 s) :
    Keeps s0 (writeSoftSet v s) := by
  unfold writeSoftSet
  repeat' first
    | with_reducible assumption | with_reducible apply report_keeps | with_reducible apply Keeps.foldl
    | with_reducible apply KeepsOpt.getD | with_reducible apply KeepsOpt.of_some
    | simp only [Keeps.upd_iff, Keeps.upd_evc_iff, Keeps.upd_tbs_iff, Keeps.upd_both_iff] | split
    | with_reducible refine KeepsOpt.get (by assumption) ?_ | with_reducible refine KeepsPair.get (by assumption) ?_
    | dsimp only | intro _

theorem execEvcSoftSetWrite_keeps {s0 s : State} {v : Word} (h : Keeps s0 s) :
    KeepsOut s0 (execEvcSoftSetWrite v s) := by
  unfold execEvcSoftSetWrite
  repeat' first
    | with_reducible assumption | with_reducible apply writeSoftSet_keeps | with_reducible apply regWrite_keeps
    | with_reducible apply live_keeps | with_reducible apply KeepsOut.next | with_reducible apply Keeps.foldl
    | simp only [Keeps.upd_iff, Keeps.upd_evc_iff, Keeps.upd_tbs_iff, Keeps.upd_both_iff] | split
    | with_reducible refine KeepsOpt.get (by assumption) ?_ | with_reducible refine KeepsPair.get (by assumption) ?_
    | dsimp only | intro _

theorem writeArmed_keeps {s0 s : State} {half : Fin 2} {v : Word} (h : Keeps s0 s) :
    Keeps s0 (writeArmed half v s) := by
  unfold writeArmed
  repeat' first
    | with_reducible assumption | with_reducible apply Keeps.foldl | with_reducible apply KeepsOpt.getD
    | with_reducible apply KeepsOpt.of_some | simp only [Keeps.upd_evc_iff]

theorem execEvcArmedWrite_keeps {s0 s : State} {half : Fin 2} {v : Word} (h : Keeps s0 s) :
    KeepsOut s0 (execEvcArmedWrite half v s) := by
  unfold execEvcArmedWrite
  repeat' first
    | with_reducible assumption | with_reducible apply regWrite_keeps | with_reducible apply eventRecord_keeps
    | with_reducible apply writeArmed_keeps | with_reducible apply live_keeps
    | with_reducible apply countEvqFull_keeps | with_reducible apply KeepsOut.next | with_reducible apply Keeps.foldl
    | simp only [Keeps.upd_iff, Keeps.upd_evc_iff, Keeps.upd_tbs_iff, Keeps.upd_both_iff] | split
    | with_reducible refine KeepsOpt.get (by assumption) ?_ | with_reducible refine KeepsPair.get (by assumption) ?_
    | dsimp only | intro _

theorem writeMask_keeps {s0 s : State} {half : Fin 2} {v : Word} (h : Keeps s0 s) :
    Keeps s0 (writeMask half v s) := by
  unfold writeMask
  repeat' first
    | with_reducible assumption | with_reducible apply updatePends_keeps | with_reducible apply Keeps.foldl
    | with_reducible apply KeepsOpt.getD | with_reducible apply KeepsOpt.of_some | simp only [Keeps.upd_evc_iff]

theorem writeEvcCtrl_keeps {s0 s : State} {v : Word} (h : Keeps s0 s) :
    Keeps s0 (writeEvcCtrl v s) := by
  unfold writeEvcCtrl
  repeat' first
    | with_reducible assumption | with_reducible apply Keeps.foldl | with_reducible apply KeepsOpt.getD
    | with_reducible apply KeepsOpt.of_some | simp only [Keeps.upd_evc_iff]

theorem evcReadEff_keeps {s0 s : State} {off : ℕ} (h : Keeps s0 s) :
    Keeps s0 (evcReadEff off s) := by
  unfold evcReadEff
  repeat' first
    | with_reducible assumption | with_reducible apply claimEff_keeps | with_reducible apply Keeps.foldl
    | with_reducible apply KeepsOpt.getD | with_reducible apply KeepsOpt.of_some
    | exact ⟨h.mem, h.fuses, h.pending, fun w => (h.counts w).set (Fin.ofNat 64 _).isLt (Nat.zero_le _), h.now⟩
    | dsimp only | split

theorem execEvcClaimRead_keeps {s0 s : State} (h : Keeps s0 s) :
    KeepsOut s0 (execEvcClaimRead s) := by
  unfold execEvcClaimRead
  repeat' first
    | with_reducible assumption | with_reducible apply live_keeps | with_reducible apply regRead_keeps
    | with_reducible apply evcReadEff_keeps | with_reducible apply KeepsOut.next | with_reducible apply Keeps.foldl
    | simp only [Keeps.upd_iff, Keeps.upd_evc_iff, Keeps.upd_tbs_iff, Keeps.upd_both_iff] | split
    | with_reducible refine KeepsOpt.get (by assumption) ?_ | with_reducible refine KeepsPair.get (by assumption) ?_
    | dsimp only | intro _

theorem execEvcCountRead_keeps {s0 s : State} {n : Source} (h : Keeps s0 s) :
    KeepsOut s0 (execEvcCountRead n s) := by
  unfold execEvcCountRead
  repeat' first
    | with_reducible assumption | with_reducible apply live_keeps | with_reducible apply regRead_keeps
    | with_reducible apply evcReadEff_keeps | with_reducible apply KeepsOut.next | with_reducible apply Keeps.foldl
    | simp only [Keeps.upd_iff, Keeps.upd_evc_iff, Keeps.upd_tbs_iff, Keeps.upd_both_iff] | split
    | with_reducible refine KeepsOpt.get (by assumption) ?_ | with_reducible refine KeepsPair.get (by assumption) ?_
    | dsimp only | intro _

theorem evcWrite_keeps {s0 s : State} {off : ℕ} {v : Word} (h : Keeps s0 s) :
    KeepsOpt s0 (evcWrite off v s) := by
  unfold evcWrite
  repeat' first
    | with_reducible assumption | with_reducible apply writeSoftSet_keeps | with_reducible apply writeMask_keeps
    | with_reducible apply writeDone_keeps | with_reducible apply writeArmed_keeps
    | with_reducible apply writeEvcCtrl_keeps | with_reducible apply countEvqFull_keeps
    | with_reducible apply writeLatch_keeps | with_reducible apply KeepsOpt.of_none
    | with_reducible apply KeepsOpt.of_some | with_reducible apply KeepsOpt.map | with_reducible apply KeepsOpt.orElse
    | with_reducible apply Keeps.foldl
    | simp only [Keeps.upd_iff, Keeps.upd_evc_iff, Keeps.upd_tbs_iff, Keeps.upd_both_iff] | split
    | with_reducible refine KeepsOpt.get (by assumption) ?_ | with_reducible refine KeepsPair.get (by assumption) ?_
    | dsimp only | intro _

theorem notePresentable_keeps {s0 s : State} {f : State → State} (f_keeps : ∀ t, Keeps s0 t → Keeps s0 (f t))
    (h : Keeps s0 s) :
    Keeps s0 (notePresentable f s) := by
  unfold notePresentable
  repeat' first
    | with_reducible assumption | with_reducible apply f_keeps | with_reducible apply raiseMsix_keeps
    | with_reducible apply Keeps.foldl | with_reducible apply KeepsOpt.getD | with_reducible apply KeepsOpt.of_some
    | dsimp only | split

theorem applyEvents_keeps {s0 s : State} {c : Score} (h : Keeps s0 s) :
    Keeps s0 (applyEvents c s) := by
  unfold applyEvents
  repeat' first
    | with_reducible assumption | with_reducible apply notePresentable_keeps | with_reducible apply updatePends_keeps
    | with_reducible apply Keeps.foldl | with_reducible apply KeepsOpt.getD | with_reducible apply KeepsOpt.of_some
    | simp only [Keeps.upd_evc_iff] | split | with_reducible refine KeepsOpt.get (by assumption) ?_
    | with_reducible refine KeepsPair.get (by assumption) ?_ | dsimp only | intro _

theorem resetEvcHost_keeps {s0 s : State} (h : Keeps s0 s) :
    Keeps s0 (resetEvcHost s) := by
  unfold resetEvcHost
  repeat' first
    | with_reducible assumption | with_reducible apply updatePends_keeps | with_reducible apply Keeps.foldl
    | with_reducible apply KeepsOpt.getD | with_reducible apply KeepsOpt.of_some
    | exact ⟨h.mem, h.fuses, h.pending, fun _ i hi => by simp, h.now⟩

theorem resetEvcPart_keeps {s0 s : State} {p : Part} (h : Keeps s0 s) :
    Keeps s0 (resetEvcPart p s) := by
  unfold resetEvcPart
  repeat' first
    | with_reducible assumption | with_reducible apply notePresentable_keeps | with_reducible apply updatePends_keeps
    | with_reducible apply Keeps.foldl | with_reducible apply KeepsOpt.getD | with_reducible apply KeepsOpt.of_some
    | (rename_i k; exact ⟨k.mem, k.fuses, k.pending, fun w => ((k.counts w).set (Fin.ofNat 64 _).isLt (Nat.zero_le _)).set (Fin.ofNat 64 _).isLt (Nat.zero_le _), k.now⟩)
    | dsimp only | split | with_reducible refine KeepsOpt.get (by assumption) ?_
    | with_reducible refine KeepsPair.get (by assumption) ?_ | intro _

end Sys2Proof.Machine
end

