-- ==== Sys2Proof/Laws/KeepMemory.lean ====
section
/-! SUPPORT. `Keeps` for the operations of Machine/Memory.lean, Output.lean, Rings.lean, Dram.lean, Port.lean, Voice.lean, Aznil.lean. -/

namespace Sys2Proof.Machine

theorem setDmc_keeps {s0 s : State} {d : Fin 2} {f : Dmc → Dmc} (h : Keeps s0 s) :
    Keeps s0 (setDmc d f s) := by
  unfold setDmc
  repeat' first
    | with_reducible assumption | with_reducible apply Keeps.foldl | with_reducible apply KeepsOpt.getD
    | with_reducible apply KeepsOpt.of_some | simp only [Keeps.upd_iff]

theorem setChan_keeps {s0 s : State} {c : Chan} {f : Channel → Channel} (h : Keeps s0 s) :
    Keeps s0 (setChan c f s) := by
  unfold setChan
  repeat' first
    | with_reducible assumption | with_reducible apply setDmc_keeps

theorem bump_keeps {s0 s : State} {c : Chan} {j : Fin 8} {n : ℕ} (h : Keeps s0 s) :
    Keeps s0 (bump c j n s) := by
  unfold bump
  repeat' first
    | with_reducible assumption | with_reducible apply setChan_keeps

theorem reportUe_keeps {s0 s : State} {addr : ℕ} {kind : ℕ} {source : ℕ} {part : ℕ} {who : Option Cmd}
    (h : Keeps s0 s) :
    Keeps s0 (reportUe addr kind source part who s) := by
  unfold reportUe
  repeat' first
    | with_reducible assumption | with_reducible apply logErr_keeps | with_reducible apply report_keeps
    | with_reducible apply setDmc_keeps | with_reducible apply setChan_keeps

theorem reportUes_keeps {s0 s : State} {l : List (ℕ × ℕ)} {source : ℕ} {part : ℕ} {who : Option Cmd}
    (h : Keeps s0 s) :
    Keeps s0 (reportUes l source part who s) := by
  unfold reportUes
  repeat' first
    | with_reducible assumption | with_reducible apply reportUe_keeps | with_reducible apply Keeps.foldl
    | with_reducible apply KeepsOpt.getD | with_reducible apply KeepsOpt.of_some
    | simp only [Keeps.upd_iff, Keeps.upd_evc_iff, Keeps.upd_tbs_iff, Keeps.upd_both_iff] | split
    | with_reducible refine KeepsOpt.get (by assumption) ?_ | with_reducible refine KeepsPair.get (by assumption) ?_
    | dsimp only | intro _

theorem markBad_keeps {s0 s : State} {a : ℕ} {kind : ℕ} (h : Keeps s0 s) :
    Keeps s0 (markBad a kind s) := by
  unfold markBad
  repeat' first
    | with_reducible assumption | with_reducible apply Keeps.foldl | with_reducible apply KeepsOpt.getD
    | with_reducible apply KeepsOpt.of_some | simp only [Keeps.upd_iff]

theorem storeUnits_keeps {s0 s : State} {a : ℕ} {a2 : ℕ} {a3 : List Byte} (h : Keeps s0 s) :
    Keeps s0 (storeUnits a a2 a3 s) := by
  unfold storeUnits
  repeat' first
    | with_reducible assumption | with_reducible apply Keeps.foldl | with_reducible apply KeepsOpt.getD
    | with_reducible apply KeepsOpt.of_some | with_reducible apply storeUnits_keeps
    | exact ⟨fun w => Memory.wf_memWrite (h.mem w), h.fuses, h.pending, h.counts, h.now⟩ | dsimp only | split

theorem storeRaw_keeps {s0 s : State} {a : ℕ} {bs : List Byte} (h : Keeps s0 s) :
    Keeps s0 (storeRaw a bs s) := by
  unfold storeRaw
  repeat' first
    | with_reducible assumption | with_reducible apply storeUnits_keeps

theorem closeRow_keeps {s0 s : State} {c : Chan} {b : Fin 16} (h : Keeps s0 s) :
    Keeps s0 (closeRow c b s) := by
  unfold closeRow
  repeat' first
    | with_reducible assumption | with_reducible apply setChan_keeps

theorem closeAll_keeps {s0 s : State} {c : Chan} (h : Keeps s0 s) :
    Keeps s0 (closeAll c s) := by
  unfold closeAll
  repeat' first
    | with_reducible assumption | with_reducible apply closeRow_keeps | with_reducible apply Keeps.foldl
    | with_reducible apply KeepsOpt.getD | with_reducible apply KeepsOpt.of_some
    | simp only [Keeps.upd_iff, Keeps.upd_evc_iff, Keeps.upd_tbs_iff, Keeps.upd_both_iff] | split
    | with_reducible refine KeepsOpt.get (by assumption) ?_ | with_reducible refine KeepsPair.get (by assumption) ?_
    | dsimp only | intro _

theorem openRow_keeps {s0 s : State} {c : Chan} {b : Fin 16} {r : ℕ} (h : Keeps s0 s) :
    Keeps s0 (openRow c b r s) := by
  unfold openRow
  repeat' first
    | with_reducible assumption | with_reducible apply bump_keeps | with_reducible apply setChan_keeps
    | with_reducible apply closeRow_keeps

theorem setCheck_keeps {s0 s : State} {c : Chan} {u : ℕ} (h : Keeps s0 s) :
    Keeps s0 (setCheck c u s) := by
  unfold setCheck
  repeat' first
    | with_reducible assumption | with_reducible apply setChan_keeps

theorem moveBursts_keeps {s0 s : State} {w : Bool} {us : List ℕ} (h : Keeps s0 s) :
    Keeps s0 (moveBursts w us s) := by
  unfold moveBursts
  repeat' first
    | with_reducible assumption | with_reducible apply bump_keeps | with_reducible apply setCheck_keeps
    | with_reducible apply openRow_keeps | with_reducible apply closeRow_keeps | with_reducible apply Keeps.foldl
    | with_reducible apply KeepsOpt.getD | with_reducible apply KeepsOpt.of_some | split
    | with_reducible refine KeepsOpt.get (by assumption) ?_ | with_reducible refine KeepsPair.get (by assumption) ?_
    | dsimp only | intro _

theorem moveAll_keeps {s0 s : State} {w : Bool} {a : ℕ} {n : ℕ} (h : Keeps s0 s) :
    Keeps s0 (moveAll w a n s) := by
  unfold moveAll
  repeat' first
    | with_reducible assumption | with_reducible apply moveBursts_keeps | with_reducible apply Keeps.foldl
    | with_reducible apply KeepsOpt.getD | with_reducible apply KeepsOpt.of_some
    | simp only [Keeps.upd_iff, Keeps.upd_evc_iff, Keeps.upd_tbs_iff, Keeps.upd_both_iff] | split
    | with_reducible refine KeepsOpt.get (by assumption) ?_ | with_reducible refine KeepsPair.get (by assumption) ?_
    | dsimp only | intro _

theorem storeMem_keeps {s0 s : State} {a : ℕ} {bs : List Byte} (h : Keeps s0 s) :
    Keeps s0 (storeMem a bs s) := by
  unfold storeMem
  repeat' first
    | with_reducible assumption | with_reducible apply bump_keeps | with_reducible apply moveAll_keeps
    | with_reducible apply storeRaw_keeps | with_reducible apply Keeps.foldl | with_reducible apply KeepsOpt.getD
    | with_reducible apply KeepsOpt.of_some | dsimp only | split
    | with_reducible refine KeepsOpt.get (by assumption) ?_ | with_reducible refine KeepsPair.get (by assumption) ?_
    | intro _

theorem applyInjection_keeps {s0 s : State} {island : ℕ} (h : Keeps s0 s) :
    Keeps s0 (applyInjection island s) := by
  unfold applyInjection
  repeat' first
    | with_reducible assumption | with_reducible apply logErr_keeps | with_reducible apply Keeps.foldl
    | with_reducible apply KeepsOpt.getD | with_reducible apply KeepsOpt.of_some | simp only [Keeps.upd_iff]

theorem readBlock_keeps {s0 s : State} {u : ℕ} {e : EccRes} {parts : List Part} (h : Keeps s0 s) :
    KeepsPair s0 (readBlock u e parts s) := by
  unfold readBlock
  repeat' first
    | with_reducible assumption | with_reducible apply applyInjection_keeps | with_reducible apply setChan_keeps
    | with_reducible apply markBad_keeps | with_reducible apply KeepsPair.foldl | with_reducible apply Keeps.foldl
    | simp only [Keeps.upd_iff] | split | with_reducible refine KeepsOpt.get (by assumption) ?_
    | with_reducible refine KeepsPair.get (by assumption) ?_ | dsimp only | intro _
    | with_reducible refine KeepsPair.snd ?_ | with_reducible apply KeepsPair.of

theorem readBlocks_keeps {s0 s : State} {parts : List Part} {a : List ℕ} {a3 : Ecc} (h : Keeps s0 s) :
    KeepsPair s0 (readBlocks parts a a3 s) := by
  unfold readBlocks
  repeat' first
    | with_reducible assumption | with_reducible apply readBlock_keeps | with_reducible apply KeepsPair.foldl
    | with_reducible apply Keeps.foldl | with_reducible apply readBlocks_keeps | dsimp only | split
    | with_reducible refine KeepsOpt.get (by assumption) ?_ | with_reducible refine KeepsPair.get (by assumption) ?_
    | intro _ | with_reducible refine KeepsPair.snd ?_ | with_reducible apply KeepsPair.of

theorem readStack_keeps {s0 s : State} {a : ℕ} {n : ℕ} {ecc : Ecc} {parts : List Part} (h : Keeps s0 s) :
    KeepsPair s0 (readStack a n ecc parts s) := by
  unfold readStack
  repeat' first
    | with_reducible assumption | with_reducible apply moveAll_keeps | with_reducible apply readBlocks_keeps
    | with_reducible apply KeepsPair.foldl | with_reducible apply Keeps.foldl | dsimp only | split
    | with_reducible refine KeepsOpt.get (by assumption) ?_ | with_reducible refine KeepsPair.get (by assumption) ?_
    | intro _ | with_reducible refine KeepsPair.snd ?_ | with_reducible apply KeepsPair.of

theorem setSection_keeps {s0 s : State} {m : Fin 4} {f : SectionSt → SectionSt} (h : Keeps s0 s) :
    Keeps s0 (setSection m f s) := by
  unfold setSection
  repeat' first
    | with_reducible assumption | with_reducible apply Keeps.foldl | with_reducible apply KeepsOpt.getD
    | with_reducible apply KeepsOpt.of_some | simp only [Keeps.upd_iff]

theorem readWord_keeps {s0 s : State} {u : ℕ} {e : EccRes} {parts : List Part} (h : Keeps s0 s) :
    KeepsPair s0 (readWord u e parts s) := by
  unfold readWord
  repeat' first
    | with_reducible assumption | with_reducible apply setSection_keeps | with_reducible apply applyInjection_keeps
    | with_reducible apply markBad_keeps | with_reducible apply KeepsPair.foldl | with_reducible apply Keeps.foldl
    | dsimp only | split | with_reducible refine KeepsOpt.get (by assumption) ?_
    | with_reducible refine KeepsPair.get (by assumption) ?_ | intro _ | with_reducible refine KeepsPair.snd ?_
    | with_reducible apply KeepsPair.of

theorem readWords_keeps {s0 s : State} {parts : List Part} {a : List ℕ} {a3 : Ecc} (h : Keeps s0 s) :
    KeepsPair s0 (readWords parts a a3 s) := by
  unfold readWords
  repeat' first
    | with_reducible assumption | with_reducible apply readWord_keeps | with_reducible apply KeepsPair.foldl
    | with_reducible apply Keeps.foldl | with_reducible apply readWords_keeps | dsimp only | split
    | with_reducible refine KeepsOpt.get (by assumption) ?_ | with_reducible refine KeepsPair.get (by assumption) ?_
    | intro _ | with_reducible refine KeepsPair.snd ?_ | with_reducible apply KeepsPair.of

theorem readNear_keeps {s0 s : State} {a : ℕ} {n : ℕ} {ecc : Ecc} {parts : List Part} (h : Keeps s0 s) :
    KeepsPair s0 (readNear a n ecc parts s) := by
  unfold readNear
  repeat' first
    | with_reducible assumption | with_reducible apply readWords_keeps | with_reducible apply KeepsPair.foldl
    | with_reducible apply Keeps.foldl | dsimp only | split | with_reducible refine KeepsOpt.get (by assumption) ?_
    | with_reducible refine KeepsPair.get (by assumption) ?_ | intro _ | with_reducible refine KeepsPair.snd ?_
    | with_reducible apply KeepsPair.of

theorem readMem_keeps {s0 s : State} {a : ℕ} {n : ℕ} {ecc : Ecc} {parts : List Part} (h : Keeps s0 s) :
    KeepsPair s0 (readMem a n ecc parts s) := by
  unfold readMem
  repeat' first
    | with_reducible assumption | with_reducible apply readStack_keeps | with_reducible apply readNear_keeps
    | with_reducible apply KeepsPair.foldl | with_reducible apply Keeps.foldl
    | simp only [Keeps.upd_iff, Keeps.upd_evc_iff, Keeps.upd_tbs_iff, Keeps.upd_both_iff] | split

theorem askSections_keeps {s0 s : State} {t1 : Tag} {ms : List (Fin 4)} (h : Keeps s0 s) :
    Keeps s0 (askSections t1 ms s) := by
  unfold askSections
  repeat' first
    | with_reducible assumption | with_reducible apply request_keeps | with_reducible apply Keeps.foldl
    | with_reducible apply KeepsOpt.getD | with_reducible apply KeepsOpt.of_some
    | simp only [Keeps.upd_iff, Keeps.upd_evc_iff, Keeps.upd_tbs_iff, Keeps.upd_both_iff] | split
    | with_reducible refine KeepsOpt.get (by assumption) ?_ | with_reducible refine KeepsPair.get (by assumption) ?_
    | dsimp only | intro _

theorem releaseSections_keeps {s0 s : State} {ms : List (Fin 4)} (h : Keeps s0 s) :
    Keeps s0 (releaseSections ms s) := by
  unfold releaseSections
  repeat' first
    | with_reducible assumption | with_reducible apply endGrant_keeps | with_reducible apply Keeps.foldl
    | with_reducible apply KeepsOpt.getD | with_reducible apply KeepsOpt.of_some
    | simp only [Keeps.upd_iff, Keeps.upd_evc_iff, Keeps.upd_tbs_iff, Keeps.upd_both_iff] | split
    | with_reducible refine KeepsOpt.get (by assumption) ?_ | with_reducible refine KeepsPair.get (by assumption) ?_
    | dsimp only | intro _

theorem withDevice_keeps {s0 s : State} {id : ℕ} {a : ℕ} {k : State → State} (k_keeps : ∀ t, Keeps s0 t → Keeps s0
    (k t)) (h : Keeps s0 s) :
    Keeps s0 (withDevice id a k s) := by
  unfold withDevice
  repeat' first
    | with_reducible assumption | with_reducible apply k_keeps | with_reducible apply withBurst_keeps
    | with_reducible apply request_keeps | with_reducible apply askSections_keeps
    | with_reducible apply releaseSections_keeps | with_reducible apply Keeps.foldl
    | with_reducible apply KeepsOpt.getD | with_reducible apply KeepsOpt.of_some | dsimp only | split
    | with_reducible refine KeepsOpt.get (by assumption) ?_ | with_reducible refine KeepsPair.get (by assumption) ?_
    | intro _

theorem sendWrites_keeps {s0 s : State} {n : ℕ} {a : ℕ} {bs : List Byte} (h : Keeps s0 s) :
    Keeps s0 (sendWrites n a bs s) := by
  unfold sendWrites
  repeat' first
    | with_reducible assumption | with_reducible apply send_keeps | with_reducible apply Keeps.foldl
    | with_reducible apply KeepsOpt.getD | with_reducible apply KeepsOpt.of_some
    | simp only [Keeps.upd_iff, Keeps.upd_evc_iff, Keeps.upd_tbs_iff, Keeps.upd_both_iff] | split
    | with_reducible refine KeepsOpt.get (by assumption) ?_ | with_reducible refine KeepsPair.get (by assumption) ?_
    | dsimp only | intro _

theorem askOutput_keeps {s0 s : State} {e : ℕ × ℕ × List Byte} (h : Keeps s0 s) :
    Keeps s0 (askOutput e s) := by
  unfold askOutput
  repeat' first
    | with_reducible assumption | with_reducible apply request_keeps | with_reducible apply askSections_keeps
    | with_reducible apply Keeps.foldl | with_reducible apply KeepsOpt.getD | with_reducible apply KeepsOpt.of_some
    | dsimp only | split

theorem outWrite_keeps {s0 s : State} {id : ℕ} {p : Part} {a : ℕ} {bs : List Byte} (h : Keeps s0 s) :
    Keeps s0 (outWrite id p a bs s) := by
  unfold outWrite
  repeat' first
    | with_reducible assumption | with_reducible apply askOutput_keeps | with_reducible apply setPage_keeps
    | with_reducible apply Keeps.foldl | with_reducible apply KeepsOpt.getD | with_reducible apply KeepsOpt.of_some
    | simp only [Keeps.upd_iff, Keeps.upd_evc_iff, Keeps.upd_tbs_iff, Keeps.upd_both_iff] | split

theorem outFail_keeps {s0 s : State} {p : Part} {id : ℕ} {status : ℕ} {detail : ℕ} (h : Keeps s0 s) :
    Keeps s0 (outFail p id status detail s) := by
  unfold outFail
  repeat' first
    | with_reducible assumption | with_reducible apply setPage_keeps | with_reducible apply failCmd_keeps
    | with_reducible apply Keeps.foldl | with_reducible apply KeepsOpt.getD | with_reducible apply KeepsOpt.of_some
    | dsimp only | split

theorem outFault_keeps {s0 s : State} {p : Part} {id : ℕ} {a : ℕ} (h : Keeps s0 s) :
    Keeps s0 (outFault p id a s) := by
  unfold outFault
  repeat' first
    | with_reducible assumption | with_reducible apply logErr_keeps | with_reducible apply outFail_keeps

theorem putUser_keeps {s0 s : State} {p : Part} {id : ℕ} {a : ℕ} {bs : List Byte} (h : Keeps s0 s) :
    Keeps s0 (putUser p id a bs s) := by
  unfold putUser
  repeat' first
    | with_reducible assumption | with_reducible apply outFail_keeps | with_reducible apply outFault_keeps
    | with_reducible apply reportUes_keeps | with_reducible apply storeMem_keeps
    | with_reducible apply releaseSections_keeps | with_reducible apply Keeps.foldl
    | with_reducible apply KeepsOpt.getD | with_reducible apply KeepsOpt.of_some | dsimp only | split

theorem putOutput_keeps {s0 s : State} {p : Part} {e : ℕ × ℕ × List Byte} (h : Keeps s0 s) :
    Keeps s0 (putOutput p e s) := by
  unfold putOutput
  repeat' first
    | with_reducible assumption | with_reducible apply outFault_keeps | with_reducible apply putUser_keeps
    | with_reducible apply sendWrites_keeps | with_reducible apply Keeps.foldl | with_reducible apply KeepsOpt.getD
    | with_reducible apply KeepsOpt.of_some
    | simp only [Keeps.upd_iff, Keeps.upd_evc_iff, Keeps.upd_tbs_iff, Keeps.upd_both_iff] | split

theorem moveOutput_keeps {s0 s : State} {p : Part} {a : List (ℕ × ℕ × List Byte)} (h : Keeps s0 s) :
    Keeps s0 (moveOutput p a s) := by
  unfold moveOutput
  repeat' first
    | with_reducible assumption | with_reducible apply askOutput_keeps | with_reducible apply putOutput_keeps
    | with_reducible apply setPage_keeps | with_reducible apply Keeps.foldl | with_reducible apply KeepsOpt.getD
    | with_reducible apply KeepsOpt.of_some | with_reducible apply moveOutput_keeps
    | simp only [Keeps.upd_iff, Keeps.upd_evc_iff, Keeps.upd_tbs_iff, Keeps.upd_both_iff] | split

theorem sendOutput_keeps {s0 s : State} {p : Part} (h : Keeps s0 s) :
    Keeps s0 (sendOutput p s) := by
  unfold sendOutput
  repeat' first
    | with_reducible assumption | with_reducible apply moveOutput_keeps

theorem grantedOutput_keeps {s0 s : State} (h : Keeps s0 s) :
    Keeps s0 (grantedOutput s) := by
  unfold grantedOutput
  repeat' first
    | with_reducible assumption | with_reducible apply endGrant_keeps | with_reducible apply sendOutput_keeps
    | with_reducible apply Keeps.foldl | with_reducible apply KeepsOpt.getD | with_reducible apply KeepsOpt.of_some
    | dsimp only | split | with_reducible refine KeepsOpt.get (by assumption) ?_
    | with_reducible refine KeepsPair.get (by assumption) ?_ | intro _

theorem badDoorbell_keeps {s0 s : State} {was : Bool} {off : ℕ} {part : ℕ} {v : Word} (h : Keeps s0 s) :
    Keeps s0 (badDoorbell was off part v s) := by
  unfold badDoorbell
  repeat' first
    | with_reducible assumption | with_reducible apply logErr_keeps | with_reducible apply Keeps.foldl
    | with_reducible apply KeepsOpt.getD | with_reducible apply KeepsOpt.of_some | dsimp only | split

theorem writeSqTail_keeps {s0 s : State} {p : Part} {v : Word} (h : Keeps s0 s) :
    Keeps s0 (writeSqTail p v s) := by
  unfold writeSqTail
  repeat' first
    | with_reducible assumption | with_reducible apply badDoorbell_keeps | with_reducible apply setPage_keeps
    | with_reducible apply Keeps.foldl | with_reducible apply KeepsOpt.getD | with_reducible apply KeepsOpt.of_some
    | dsimp only | split

theorem writeCqHead_keeps {s0 s : State} {p : Part} {v : Word} (h : Keeps s0 s) :
    Keeps s0 (writeCqHead p v s) := by
  unfold writeCqHead
  repeat' first
    | with_reducible assumption | with_reducible apply badDoorbell_keeps | with_reducible apply setPage_keeps
    | with_reducible apply Keeps.foldl | with_reducible apply KeepsOpt.getD | with_reducible apply KeepsOpt.of_some
    | dsimp only | split

theorem execHifCqHeadWrite_keeps {s0 s : State} {p : Part} {v : Word} (h : Keeps s0 s) :
    KeepsOut s0 (execHifCqHeadWrite p v s) := by
  unfold execHifCqHeadWrite
  repeat' first
    | with_reducible assumption | with_reducible apply regWrite_keeps | with_reducible apply writeCqHead_keeps
    | with_reducible apply live_keeps | with_reducible apply KeepsOut.next | with_reducible apply Keeps.foldl
    | simp only [Keeps.upd_iff, Keeps.upd_evc_iff, Keeps.upd_tbs_iff, Keeps.upd_both_iff] | split
    | with_reducible refine KeepsOpt.get (by assumption) ?_ | with_reducible refine KeepsPair.get (by assumption) ?_
    | dsimp only | intro _

theorem writeEvqHead_keeps {s0 s : State} {v : Word} (h : Keeps s0 s) :
    Keeps s0 (writeEvqHead v s) := by
  unfold writeEvqHead
  repeat' first
    | with_reducible assumption | with_reducible apply raiseMsix_keeps | with_reducible apply badDoorbell_keeps
    | with_reducible apply Keeps.foldl | with_reducible apply KeepsOpt.getD | with_reducible apply KeepsOpt.of_some
    | simp only [Keeps.upd_iff] | split

theorem execHifEvqHeadWrite_keeps {s0 s : State} {v : Word} (h : Keeps s0 s) :
    KeepsOut s0 (execHifEvqHeadWrite v s) := by
  unfold execHifEvqHeadWrite
  repeat' first
    | with_reducible assumption | with_reducible apply regWrite_keeps | with_reducible apply writeEvqHead_keeps
    | with_reducible apply live_keeps | with_reducible apply KeepsOut.next | with_reducible apply Keeps.foldl
    | simp only [Keeps.upd_iff, Keeps.upd_evc_iff, Keeps.upd_tbs_iff, Keeps.upd_both_iff] | split
    | with_reducible refine KeepsOpt.get (by assumption) ?_ | with_reducible refine KeepsPair.get (by assumption) ?_
    | dsimp only | intro _

theorem writeErrqHead_keeps {s0 s : State} {v : Word} (h : Keeps s0 s) :
    Keeps s0 (writeErrqHead v s) := by
  unfold writeErrqHead
  repeat' first
    | with_reducible assumption | with_reducible apply badDoorbell_keeps | with_reducible apply Keeps.foldl
    | with_reducible apply KeepsOpt.getD | with_reducible apply KeepsOpt.of_some | simp only [Keeps.upd_iff] | split

theorem writeSqSize_keeps {s0 s : State} {p : Part} {v : Word} (h : Keeps s0 s) :
    Keeps s0 (writeSqSize p v s) := by
  unfold writeSqSize
  repeat' first
    | with_reducible assumption | with_reducible apply regRefused_keeps | with_reducible apply setPage_keeps
    | with_reducible apply Keeps.foldl | with_reducible apply KeepsOpt.getD | with_reducible apply KeepsOpt.of_some
    | dsimp only | split

theorem execHifSqSizeWrite_keeps {s0 s : State} {p : Part} {v : Word} (h : Keeps s0 s) :
    KeepsOut s0 (execHifSqSizeWrite p v s) := by
  unfold execHifSqSizeWrite
  repeat' first
    | with_reducible assumption | with_reducible apply regWrite_keeps | with_reducible apply live_keeps
    | with_reducible apply writeSqSize_keeps | with_reducible apply KeepsOut.next | with_reducible apply Keeps.foldl
    | simp only [Keeps.upd_iff, Keeps.upd_evc_iff, Keeps.upd_tbs_iff, Keeps.upd_both_iff] | split
    | with_reducible refine KeepsOpt.get (by assumption) ?_ | with_reducible refine KeepsPair.get (by assumption) ?_
    | dsimp only | intro _

theorem writeCqSize_keeps {s0 s : State} {p : Part} {v : Word} (h : Keeps s0 s) :
    Keeps s0 (writeCqSize p v s) := by
  unfold writeCqSize
  repeat' first
    | with_reducible assumption | with_reducible apply regRefused_keeps | with_reducible apply setPage_keeps
    | with_reducible apply Keeps.foldl | with_reducible apply KeepsOpt.getD | with_reducible apply KeepsOpt.of_some
    | dsimp only | split

theorem execHifCqSizeWrite_keeps {s0 s : State} {p : Part} {v : Word} (h : Keeps s0 s) :
    KeepsOut s0 (execHifCqSizeWrite p v s) := by
  unfold execHifCqSizeWrite
  repeat' first
    | with_reducible assumption | with_reducible apply writeCqSize_keeps | with_reducible apply regWrite_keeps
    | with_reducible apply live_keeps | with_reducible apply KeepsOut.next | with_reducible apply Keeps.foldl
    | simp only [Keeps.upd_iff, Keeps.upd_evc_iff, Keeps.upd_tbs_iff, Keeps.upd_both_iff] | split
    | with_reducible refine KeepsOpt.get (by assumption) ?_ | with_reducible refine KeepsPair.get (by assumption) ?_
    | dsimp only | intro _

theorem writeEvqSize_keeps {s0 s : State} {v : Word} (h : Keeps s0 s) :
    Keeps s0 (writeEvqSize v s) := by
  unfold writeEvqSize
  repeat' first
    | with_reducible assumption | with_reducible apply regRefused_keeps | with_reducible apply Keeps.foldl
    | with_reducible apply KeepsOpt.getD | with_reducible apply KeepsOpt.of_some | simp only [Keeps.upd_iff] | split

theorem writeErrqSize_keeps {s0 s : State} {v : Word} (h : Keeps s0 s) :
    Keeps s0 (writeErrqSize v s) := by
  unfold writeErrqSize
  repeat' first
    | with_reducible assumption | with_reducible apply trimBacklog_keeps | with_reducible apply regRefused_keeps
    | with_reducible apply Keeps.foldl | with_reducible apply KeepsOpt.getD | with_reducible apply KeepsOpt.of_some
    | simp only [Keeps.upd_iff] | split

theorem execHifErrqSizeWrite_keeps {s0 s : State} {v : Word} (h : Keeps s0 s) :
    KeepsOut s0 (execHifErrqSizeWrite v s) := by
  unfold execHifErrqSizeWrite
  repeat' first
    | with_reducible assumption | with_reducible apply regWrite_keeps | with_reducible apply writeErrqSize_keeps
    | with_reducible apply live_keeps | with_reducible apply KeepsOut.next | with_reducible apply Keeps.foldl
    | simp only [Keeps.upd_iff, Keeps.upd_evc_iff, Keeps.upd_tbs_iff, Keeps.upd_both_iff] | split
    | with_reducible refine KeepsOpt.get (by assumption) ?_ | with_reducible refine KeepsPair.get (by assumption) ?_
    | dsimp only | intro _

theorem writeComp_keeps {s0 s : State} {p : Part} (h : Keeps s0 s) :
    Keeps s0 (writeComp p s) := by
  unfold writeComp
  repeat' first
    | with_reducible assumption | with_reducible apply send_keeps | with_reducible apply syncHolds_keeps
    | with_reducible apply occur_keeps | with_reducible apply sendOutput_keeps | with_reducible apply setPage_keeps
    | with_reducible apply Keeps.foldl | with_reducible apply KeepsOpt.getD | with_reducible apply KeepsOpt.of_some
    | dsimp only | split

theorem compRecord_keeps {s0 s : State} {p : Part} (h : Keeps s0 s) :
    Keeps s0 (compRecord p s) := by
  unfold compRecord
  repeat' first
    | with_reducible assumption | with_reducible apply askOutput_keeps | with_reducible apply writeComp_keeps
    | with_reducible apply withDma_keeps | with_reducible apply Keeps.foldl | with_reducible apply KeepsOpt.getD
    | with_reducible apply KeepsOpt.of_some | dsimp only | split
    | with_reducible refine KeepsOpt.get (by assumption) ?_ | with_reducible refine KeepsPair.get (by assumption) ?_
    | intro _

theorem execCompletionRecordWrite_keeps {s0 s : State} {p : Part} (h : Keeps s0 s) :
    KeepsOut s0 (execCompletionRecordWrite p s) := by
  unfold execCompletionRecordWrite
  repeat' first
    | with_reducible assumption | with_reducible apply compRecord_keeps | with_reducible apply live_keeps
    | with_reducible apply KeepsOut.next | with_reducible apply Keeps.foldl
    | simp only [Keeps.upd_iff, Keeps.upd_evc_iff, Keeps.upd_tbs_iff, Keeps.upd_both_iff] | split
    | with_reducible refine KeepsOpt.get (by assumption) ?_ | with_reducible refine KeepsPair.get (by assumption) ?_
    | dsimp only | intro _

theorem writeErr_keeps {s0 s : State} (h : Keeps s0 s) :
    Keeps s0 (writeErr s) := by
  unfold writeErr
  repeat' first
    | with_reducible assumption | with_reducible apply send_keeps | with_reducible apply occur_keeps
    | with_reducible apply Keeps.foldl | with_reducible apply KeepsOpt.getD | with_reducible apply KeepsOpt.of_some
    | simp only [Keeps.upd_iff] | split

theorem errRecord_keeps {s0 s : State} (h : Keeps s0 s) :
    Keeps s0 (errRecord s) := by
  unfold errRecord
  repeat' first
    | with_reducible assumption | with_reducible apply writeErr_keeps | with_reducible apply withDma_keeps
    | with_reducible apply Keeps.foldl | with_reducible apply KeepsOpt.getD | with_reducible apply KeepsOpt.of_some
    | simp only [Keeps.upd_iff, Keeps.upd_evc_iff, Keeps.upd_tbs_iff, Keeps.upd_both_iff] | split

theorem execErrorRecordWrite_keeps {s0 s : State} (h : Keeps s0 s) :
    KeepsOut s0 (execErrorRecordWrite s) := by
  unfold execErrorRecordWrite
  repeat' first
    | with_reducible assumption | with_reducible apply live_keeps | with_reducible apply errRecord_keeps

theorem writeSqStatus_keeps {s0 s : State} {p : Part} {v : Word} (h : Keeps s0 s) :
    Keeps s0 (writeSqStatus p v s) := by
  unfold writeSqStatus
  repeat' first
    | with_reducible assumption | with_reducible apply setPage_keeps

theorem execHifSqStatusWrite_keeps {s0 s : State} {p : Part} {v : Word} (h : Keeps s0 s) :
    KeepsOut s0 (execHifSqStatusWrite p v s) := by
  unfold execHifSqStatusWrite
  repeat' first
    | with_reducible assumption | with_reducible apply regWrite_keeps | with_reducible apply live_keeps
    | with_reducible apply writeSqStatus_keeps | with_reducible apply KeepsOut.next | with_reducible apply Keeps.foldl
    | simp only [Keeps.upd_iff, Keeps.upd_evc_iff, Keeps.upd_tbs_iff, Keeps.upd_both_iff] | split
    | with_reducible refine KeepsOpt.get (by assumption) ?_ | with_reducible refine KeepsPair.get (by assumption) ?_
    | dsimp only | intro _

theorem writeCqStatus_keeps {s0 s : State} {p : Part} {v : Word} (h : Keeps s0 s) :
    Keeps s0 (writeCqStatus p v s) := by
  unfold writeCqStatus
  repeat' first
    | with_reducible assumption | with_reducible apply setPage_keeps

theorem quotaLast_keeps {s0 s : State} {p : Part} {tier : ℕ} {short : ℕ} (h : Keeps s0 s) :
    Keeps s0 (quotaLast p tier short s) := by
  unfold quotaLast
  repeat' first
    | with_reducible assumption | with_reducible apply setPage_keeps

theorem writeUser_keeps {s0 s : State} {p : Part} {tier : ℕ} {off : ℕ} {n : ℕ} {v : Word} {set : Page → Page}
    (h : Keeps s0 s) :
    Keeps s0 (writeUser p tier off n v set s) := by
  unfold writeUser
  repeat' first
    | with_reducible assumption | with_reducible apply regRefused_keeps | with_reducible apply quotaLast_keeps
    | with_reducible apply setPage_keeps | with_reducible apply Keeps.foldl | with_reducible apply KeepsOpt.getD
    | with_reducible apply KeepsOpt.of_some | dsimp only | split

theorem writeUserDram_keeps {s0 s : State} {p : Part} {v : Word} (h : Keeps s0 s) :
    Keeps s0 (writeUserDram p v s) := by
  unfold writeUserDram
  repeat' first
    | with_reducible assumption | with_reducible apply writeUser_keeps

theorem writeUserStrips_keeps {s0 s : State} {p : Part} {v : Word} (h : Keeps s0 s) :
    Keeps s0 (writeUserStrips p v s) := by
  unfold writeUserStrips
  repeat' first
    | with_reducible assumption | with_reducible apply writeUser_keeps

theorem writeUserSec_keeps {s0 s : State} {p : Part} {v : Word} (h : Keeps s0 s) :
    Keeps s0 (writeUserSec p v s) := by
  unfold writeUserSec
  repeat' first
    | with_reducible assumption | with_reducible apply writeUser_keeps

theorem execHifQDramUserWrite_keeps {s0 s : State} {p : Part} {v : Word} (h : Keeps s0 s) :
    KeepsOut s0 (execHifQDramUserWrite p v s) := by
  unfold execHifQDramUserWrite
  repeat' first
    | with_reducible assumption | with_reducible apply regWrite_keeps | with_reducible apply writeUserDram_keeps
    | with_reducible apply live_keeps | with_reducible apply KeepsOut.next | with_reducible apply Keeps.foldl
    | simp only [Keeps.upd_iff, Keeps.upd_evc_iff, Keeps.upd_tbs_iff, Keeps.upd_both_iff] | split
    | with_reducible refine KeepsOpt.get (by assumption) ?_ | with_reducible refine KeepsPair.get (by assumption) ?_
    | dsimp only | intro _

theorem execHifQStripsWrite_keeps {s0 s : State} {p : Part} {v : Word} (h : Keeps s0 s) :
    KeepsOut s0 (execHifQStripsWrite p v s) := by
  unfold execHifQStripsWrite
  repeat' first
    | with_reducible assumption | with_reducible apply writeUserStrips_keeps | with_reducible apply regWrite_keeps
    | with_reducible apply live_keeps | with_reducible apply KeepsOut.next | with_reducible apply Keeps.foldl
    | simp only [Keeps.upd_iff, Keeps.upd_evc_iff, Keeps.upd_tbs_iff, Keeps.upd_both_iff] | split
    | with_reducible refine KeepsOpt.get (by assumption) ?_ | with_reducible refine KeepsPair.get (by assumption) ?_
    | dsimp only | intro _

theorem execHifQSectionUseWrite_keeps {s0 s : State} {p : Part} {v : Word} (h : Keeps s0 s) :
    KeepsOut s0 (execHifQSectionUseWrite p v s) := by
  unfold execHifQSectionUseWrite
  repeat' first
    | with_reducible assumption | with_reducible apply writeUserSec_keeps | with_reducible apply regWrite_keeps
    | with_reducible apply live_keeps | with_reducible apply KeepsOut.next | with_reducible apply Keeps.foldl
    | simp only [Keeps.upd_iff, Keeps.upd_evc_iff, Keeps.upd_tbs_iff, Keeps.upd_both_iff] | split
    | with_reducible refine KeepsOpt.get (by assumption) ?_ | with_reducible refine KeepsPair.get (by assumption) ?_
    | dsimp only | intro _

theorem writeDefer_keeps {s0 s : State} {p : Part} {v : Word} (h : Keeps s0 s) :
    Keeps s0 (writeDefer p v s) := by
  unfold writeDefer
  repeat' first
    | with_reducible assumption | with_reducible apply regRefused_keeps | with_reducible apply occur_keeps
    | with_reducible apply setPage_keeps | with_reducible apply Keeps.foldl | with_reducible apply KeepsOpt.getD
    | with_reducible apply KeepsOpt.of_some | dsimp only | split

theorem pageReadEff_keeps {s0 s : State} {p : Part} {o : ℕ} (h : Keeps s0 s) :
    Keeps s0 (pageReadEff p o s) := by
  unfold pageReadEff
  repeat' first
    | with_reducible assumption | with_reducible apply setPage_keeps | with_reducible apply Keeps.foldl
    | with_reducible apply KeepsOpt.getD | with_reducible apply KeepsOpt.of_some | dsimp only | split

theorem optWrite_keeps {s0 s : State} {off : ℕ} {v : Word} {r : Option Ring} {f : Ring → State → State}
    (f_keeps : ∀ y0 t, Keeps s0 t → Keeps s0 (f y0 t)) (h : Keeps s0 s) :
    Keeps s0 (optWrite off v r f s) := by
  unfold optWrite
  repeat' first
    | with_reducible assumption | with_reducible apply f_keeps | with_reducible apply regRefused_keeps
    | with_reducible apply Keeps.foldl | with_reducible apply KeepsOpt.getD | with_reducible apply KeepsOpt.of_some
    | simp only [Keeps.upd_iff, Keeps.upd_evc_iff, Keeps.upd_tbs_iff, Keeps.upd_both_iff] | split

theorem hifReadEff_keeps {s0 s : State} {off : ℕ} (h : Keeps s0 s) :
    Keeps s0 (hifReadEff off s) := by
  unfold hifReadEff
  repeat' first
    | with_reducible assumption | with_reducible apply Keeps.foldl | with_reducible apply KeepsOpt.getD
    | with_reducible apply KeepsOpt.of_some | simp only [Keeps.upd_iff] | split

theorem execHifErrqLostRead_keeps {s0 s : State} (h : Keeps s0 s) :
    KeepsOut s0 (execHifErrqLostRead s) := by
  unfold execHifErrqLostRead
  repeat' first
    | with_reducible assumption | with_reducible apply hifReadEff_keeps | with_reducible apply live_keeps
    | with_reducible apply regRead_keeps | with_reducible apply KeepsOut.next | with_reducible apply Keeps.foldl
    | simp only [Keeps.upd_iff, Keeps.upd_evc_iff, Keeps.upd_tbs_iff, Keeps.upd_both_iff] | split
    | with_reducible refine KeepsOpt.get (by assumption) ?_ | with_reducible refine KeepsPair.get (by assumption) ?_
    | dsimp only | intro _

theorem execHifDeferTotalRead_keeps {s0 s : State} (h : Keeps s0 s) :
    KeepsOut s0 (execHifDeferTotalRead s) := by
  unfold execHifDeferTotalRead
  repeat' first
    | with_reducible assumption | with_reducible apply hifReadEff_keeps | with_reducible apply live_keeps
    | with_reducible apply regRead_keeps | with_reducible apply KeepsOut.next | with_reducible apply Keeps.foldl
    | simp only [Keeps.upd_iff, Keeps.upd_evc_iff, Keeps.upd_tbs_iff, Keeps.upd_both_iff] | split
    | with_reducible refine KeepsOpt.get (by assumption) ?_ | with_reducible refine KeepsPair.get (by assumption) ?_
    | dsimp only | intro _

theorem hifWrite_keeps {s0 s : State} {off : ℕ} {v : Word} (h : Keeps s0 s) :
    KeepsOpt s0 (hifWrite off v s) := by
  unfold hifWrite
  repeat' first
    | with_reducible assumption | with_reducible apply optWrite_keeps | with_reducible apply writeEvqHead_keeps
    | with_reducible apply writeErrqSize_keeps | with_reducible apply writeEvqSize_keeps
    | with_reducible apply writeErrqHead_keeps | with_reducible apply KeepsOpt.of_none
    | with_reducible apply KeepsOpt.of_some | with_reducible apply KeepsOpt.map | with_reducible apply KeepsOpt.orElse
    | with_reducible apply Keeps.foldl | simp only [Keeps.upd_iff] | split
    | with_reducible refine KeepsOpt.get (by assumption) ?_ | with_reducible refine KeepsPair.get (by assumption) ?_
    | dsimp only | intro _

theorem queueDram_keeps {s0 s : State} {c : Chan} {q : Queued} (h : Keeps s0 s) :
    Keeps s0 (queueDram c q s) := by
  unfold queueDram
  repeat' first
    | with_reducible assumption | with_reducible apply request_keeps | with_reducible apply setChan_keeps

theorem accept_keeps {s0 s : State} {c : Chan} {r : DmcReq} (h : Keeps s0 s) :
    Keeps s0 (accept c r s) := by
  unfold accept
  repeat' first
    | with_reducible assumption | with_reducible apply send_keeps | with_reducible apply bump_keeps
    | with_reducible apply storeRaw_keeps | with_reducible apply queueDram_keeps | with_reducible apply Keeps.foldl
    | with_reducible apply KeepsOpt.getD | with_reducible apply KeepsOpt.of_some | dsimp only | split

theorem execDmcRequestAccept_keeps {s0 s : State} {c : Chan} {r : DmcReq} (h : Keeps s0 s) :
    KeepsOut s0 (execDmcRequestAccept c r s) := by
  unfold execDmcRequestAccept
  repeat' first
    | with_reducible assumption | with_reducible apply accept_keeps | with_reducible apply live_keeps
    | with_reducible apply KeepsOut.next | with_reducible apply Keeps.foldl
    | simp only [Keeps.upd_iff, Keeps.upd_evc_iff, Keeps.upd_tbs_iff, Keeps.upd_both_iff] | split
    | with_reducible refine KeepsOpt.get (by assumption) ?_ | with_reducible refine KeepsPair.get (by assumption) ?_
    | dsimp only | intro _

theorem scrubLost_keeps {s0 s : State} {c : Chan} {lost : List (ℕ × ℕ)} (h : Keeps s0 s) :
    Keeps s0 (scrubLost c lost s) := by
  unfold scrubLost
  repeat' first
    | with_reducible assumption | with_reducible apply logErr_keeps | with_reducible apply setChan_keeps
    | with_reducible apply Keeps.foldl | with_reducible apply KeepsOpt.getD | with_reducible apply KeepsOpt.of_some
    | dsimp only | split | with_reducible refine KeepsOpt.get (by assumption) ?_
    | with_reducible refine KeepsPair.get (by assumption) ?_ | intro _

theorem endUsers_keeps {s0 s : State} {r : DmcReq} {c : Chan} (h : Keeps s0 s) :
    Keeps s0 (endUsers r c s) := by
  unfold endUsers
  repeat' first
    | with_reducible assumption | with_reducible apply failCmd_keeps | with_reducible apply Keeps.foldl
    | with_reducible apply KeepsOpt.getD | with_reducible apply KeepsOpt.of_some | simp only [Keeps.upd_iff] | split
    | with_reducible refine KeepsOpt.get (by assumption) ?_ | with_reducible refine KeepsPair.get (by assumption) ?_
    | dsimp only | intro _

theorem eccJudge_keeps {s0 s : State} {q : Queued} {ecc : Ecc} (h : Keeps s0 s) :
    KeepsPair s0 (eccJudge q ecc s) := by
  unfold eccJudge
  repeat' first
    | with_reducible assumption | with_reducible apply readBlocks_keeps | with_reducible apply KeepsPair.foldl
    | with_reducible apply Keeps.foldl | simp only [Keeps.upd_iff] | split
    | with_reducible refine KeepsOpt.get (by assumption) ?_ | with_reducible refine KeepsPair.get (by assumption) ?_
    | dsimp only | intro _ | with_reducible refine KeepsPair.snd ?_ | with_reducible apply KeepsPair.of

theorem answer_keeps {s0 s : State} {c : Chan} {q : Queued} {lost : List (ℕ × ℕ)} (h : Keeps s0 s) :
    Keeps s0 (answer c q lost s) := by
  unfold answer
  repeat' first
    | with_reducible assumption | with_reducible apply send_keeps | with_reducible apply endUsers_keeps
    | with_reducible apply scrubLost_keeps | with_reducible apply reportUes_keeps | with_reducible apply Keeps.foldl
    | with_reducible apply KeepsOpt.getD | with_reducible apply KeepsOpt.of_some | dsimp only | split

theorem endLease_keeps {s0 s : State} {c : Chan} (h : Keeps s0 s) :
    Keeps s0 (endLease c s) := by
  unfold endLease
  repeat' first
    | with_reducible assumption | with_reducible apply dropUnits_keeps | with_reducible apply Keeps.foldl
    | with_reducible apply KeepsOpt.getD | with_reducible apply KeepsOpt.of_some
    | simp only [Keeps.upd_iff, Keeps.upd_evc_iff, Keeps.upd_tbs_iff, Keeps.upd_both_iff] | split

theorem issueAt_keeps {s0 s : State} {c : Chan} {k : ℕ} {q : Queued} {ecc : Ecc} (h : Keeps s0 s) :
    Keeps s0 (issueAt c k q ecc s) := by
  unfold issueAt
  repeat' first
    | with_reducible assumption | with_reducible apply bump_keeps | with_reducible apply eccJudge_keeps
    | with_reducible apply setChan_keeps | with_reducible apply answer_keeps | with_reducible apply endLease_keeps
    | with_reducible apply moveBursts_keeps | with_reducible apply Keeps.foldl | with_reducible apply KeepsOpt.getD
    | with_reducible apply KeepsOpt.of_some | dsimp only | split
    | with_reducible refine KeepsOpt.get (by assumption) ?_ | with_reducible refine KeepsPair.get (by assumption) ?_
    | intro _ | with_reducible refine KeepsPair.snd ?_

theorem issue_keeps {s0 s : State} {c : Chan} {w : Bool} {i : ℕ} {ecc : Ecc} (h : Keeps s0 s) :
    Keeps s0 (issue c w i ecc s) := by
  unfold issue
  repeat' first
    | with_reducible assumption | with_reducible apply withLease_keeps | with_reducible apply issueAt_keeps
    | with_reducible apply Keeps.foldl | with_reducible apply KeepsOpt.getD | with_reducible apply KeepsOpt.of_some
    | dsimp only | split | with_reducible refine KeepsOpt.get (by assumption) ?_
    | with_reducible refine KeepsPair.get (by assumption) ?_ | intro _

theorem execDmcRequestIssue_keeps {s0 s : State} {c : Chan} {w : Bool} {i : ℕ} {ecc : Ecc} (h : Keeps s0 s) :
    KeepsOut s0 (execDmcRequestIssue c w i ecc s) := by
  unfold execDmcRequestIssue
  repeat' first
    | with_reducible assumption | with_reducible apply issue_keeps | with_reducible apply live_keeps
    | with_reducible apply KeepsOut.next | with_reducible apply Keeps.foldl
    | simp only [Keeps.upd_iff, Keeps.upd_evc_iff, Keeps.upd_tbs_iff, Keeps.upd_both_iff] | split
    | with_reducible refine KeepsOpt.get (by assumption) ?_ | with_reducible refine KeepsPair.get (by assumption) ?_
    | dsimp only | intro _

theorem execRowIdleClose_keeps {s0 s : State} {c : Chan} {b : Fin 16} (h : Keeps s0 s) :
    KeepsOut s0 (execRowIdleClose c b s) := by
  unfold execRowIdleClose
  repeat' first
    | with_reducible assumption | with_reducible apply live_keeps | with_reducible apply closeRow_keeps
    | with_reducible apply KeepsOut.next | with_reducible apply Keeps.foldl | dsimp only | split
    | with_reducible refine KeepsOpt.get (by assumption) ?_ | with_reducible refine KeepsPair.get (by assumption) ?_
    | intro _

theorem refreshNow_keeps {s0 s : State} {c : Chan} {perBank : Bool} (h : Keeps s0 s) :
    Keeps s0 (refreshNow c perBank s) := by
  unfold refreshNow
  repeat' first
    | with_reducible assumption | with_reducible apply bump_keeps | with_reducible apply setChan_keeps
    | with_reducible apply closeRow_keeps | with_reducible apply Keeps.foldl | with_reducible apply KeepsOpt.getD
    | with_reducible apply KeepsOpt.of_some | dsimp only | split
    | with_reducible refine KeepsOpt.get (by assumption) ?_ | with_reducible refine KeepsPair.get (by assumption) ?_
    | intro _

theorem slotChannel_keeps {s0 s : State} {d : Fin 2} {perBank : Bool} {i : Fin 8} (h : Keeps s0 s) :
    Keeps s0 (slotChannel d perBank i s) := by
  unfold slotChannel
  repeat' first
    | with_reducible assumption | with_reducible apply setChan_keeps | with_reducible apply refreshNow_keeps
    | with_reducible apply Keeps.foldl | with_reducible apply KeepsOpt.getD | with_reducible apply KeepsOpt.of_some
    | simp only [Keeps.upd_iff, Keeps.upd_evc_iff, Keeps.upd_tbs_iff, Keeps.upd_both_iff] | split

theorem refreshSlot_keeps {s0 s : State} {d : Fin 2} (h : Keeps s0 s) :
    Keeps s0 (refreshSlot d s) := by
  unfold refreshSlot
  repeat' first
    | with_reducible assumption | with_reducible apply setDmc_keeps | with_reducible apply slotChannel_keeps
    | with_reducible apply Keeps.foldl | with_reducible apply KeepsOpt.getD | with_reducible apply KeepsOpt.of_some
    | dsimp only | split | with_reducible refine KeepsOpt.get (by assumption) ?_
    | with_reducible refine KeepsPair.get (by assumption) ?_ | intro _

theorem execRefreshSlot_keeps {s0 s : State} {d : Fin 2} (h : Keeps s0 s) :
    KeepsOut s0 (execRefreshSlot d s) := by
  unfold execRefreshSlot
  repeat' first
    | with_reducible assumption | with_reducible apply refreshSlot_keeps | with_reducible apply live_keeps
    | with_reducible apply KeepsOut.next | with_reducible apply Keeps.foldl
    | simp only [Keeps.upd_iff, Keeps.upd_evc_iff, Keeps.upd_tbs_iff, Keeps.upd_both_iff] | split
    | with_reducible refine KeepsOpt.get (by assumption) ?_ | with_reducible refine KeepsPair.get (by assumption) ?_
    | dsimp only | intro _

theorem mr4One_keeps {s0 s : State} {d : Fin 2} {i : Fin 8} {v : Mr4} (h : Keeps s0 s) :
    Keeps s0 (mr4One d i v s) := by
  unfold mr4One
  repeat' first
    | with_reducible assumption | with_reducible apply logErr_keeps | with_reducible apply setChan_keeps
    | with_reducible apply Keeps.foldl | with_reducible apply KeepsOpt.getD | with_reducible apply KeepsOpt.of_some
    | dsimp only | split

theorem execMr4Poll_keeps {s0 s : State} {d : Fin 2} {vs : List Mr4} (h : Keeps s0 s) :
    KeepsOut s0 (execMr4Poll d vs s) := by
  unfold execMr4Poll
  repeat' first
    | with_reducible assumption | with_reducible apply live_keeps | with_reducible apply mr4One_keeps
    | with_reducible apply KeepsOut.next | with_reducible apply Keeps.foldl
    | simp only [Keeps.upd_iff, Keeps.upd_evc_iff, Keeps.upd_tbs_iff, Keeps.upd_both_iff] | split
    | with_reducible refine KeepsOpt.get (by assumption) ?_ | with_reducible refine KeepsPair.get (by assumption) ?_
    | dsimp only | intro _

theorem retrainComplete_keeps {s0 s : State} {c : Chan} {ok : Bool} (h : Keeps s0 s) :
    Keeps s0 (retrainComplete c ok s) := by
  unfold retrainComplete
  repeat' first
    | with_reducible assumption | with_reducible apply logErr_keeps | with_reducible apply report_keeps
    | with_reducible apply setDmc_keeps | with_reducible apply setChan_keeps | with_reducible apply Keeps.foldl
    | with_reducible apply KeepsOpt.getD | with_reducible apply KeepsOpt.of_some | dsimp only | split

theorem execRetrainComplete_keeps {s0 s : State} {c : Chan} {ok : Bool} (h : Keeps s0 s) :
    KeepsOut s0 (execRetrainComplete c ok s) := by
  unfold execRetrainComplete
  repeat' first
    | with_reducible assumption | with_reducible apply retrainComplete_keeps | with_reducible apply live_keeps
    | with_reducible apply KeepsOut.next | with_reducible apply Keeps.foldl
    | simp only [Keeps.upd_iff, Keeps.upd_evc_iff, Keeps.upd_tbs_iff, Keeps.upd_both_iff] | split
    | with_reducible refine KeepsOpt.get (by assumption) ?_ | with_reducible refine KeepsPair.get (by assumption) ?_
    | dsimp only | intro _

theorem scrubNext_keeps {s0 s : State} {d : Fin 2} (h : Keeps s0 s) :
    Keeps s0 (scrubNext d s) := by
  unfold scrubNext
  repeat' first
    | with_reducible assumption | with_reducible apply report_keeps | with_reducible apply setDmc_keeps
    | with_reducible apply Keeps.foldl | with_reducible apply KeepsOpt.getD | with_reducible apply KeepsOpt.of_some
    | dsimp only | split

theorem scrubRead_keeps {s0 s : State} {d : Fin 2} {ecc : Ecc} (h : Keeps s0 s) :
    Keeps s0 (scrubRead d ecc s) := by
  unfold scrubRead
  repeat' first
    | with_reducible assumption | with_reducible apply eccJudge_keeps | with_reducible apply scrubLost_keeps
    | with_reducible apply withLease_keeps | with_reducible apply endLease_keeps
    | with_reducible apply moveBursts_keeps | with_reducible apply scrubNext_keeps | with_reducible apply Keeps.foldl
    | with_reducible apply KeepsOpt.getD | with_reducible apply KeepsOpt.of_some | dsimp only | split
    | with_reducible refine KeepsOpt.get (by assumption) ?_ | with_reducible refine KeepsPair.get (by assumption) ?_
    | intro _ | with_reducible refine KeepsPair.snd ?_

theorem execScrubRead_keeps {s0 s : State} {d : Fin 2} {ecc : Ecc} (h : Keeps s0 s) :
    KeepsOut s0 (execScrubRead d ecc s) := by
  unfold execScrubRead
  repeat' first
    | with_reducible assumption | with_reducible apply live_keeps | with_reducible apply scrubRead_keeps
    | with_reducible apply KeepsOut.next | with_reducible apply Keeps.foldl
    | simp only [Keeps.upd_iff, Keeps.upd_evc_iff, Keeps.upd_tbs_iff, Keeps.upd_both_iff] | split
    | with_reducible refine KeepsOpt.get (by assumption) ?_ | with_reducible refine KeepsPair.get (by assumption) ?_
    | dsimp only | intro _

theorem drainWrites_keeps {s0 s : State} {c : Chan} {a : ℕ} (h : Keeps s0 s) :
    Keeps s0 (drainWrites c a s) := by
  unfold drainWrites
  repeat' first
    | with_reducible assumption | with_reducible apply issueAt_keeps | with_reducible apply Keeps.foldl
    | with_reducible apply KeepsOpt.getD | with_reducible apply KeepsOpt.of_some
    | with_reducible apply drainWrites_keeps | dsimp only | split

theorem enterSelfRefresh_keeps {s0 s : State} {down : Bool} (h : Keeps s0 s) :
    Keeps s0 (enterSelfRefresh down s) := by
  unfold enterSelfRefresh
  repeat' first
    | with_reducible assumption | with_reducible apply closeAll_keeps | with_reducible apply drainWrites_keeps
    | with_reducible apply refreshNow_keeps | with_reducible apply dropUnits_keeps | with_reducible apply Keeps.foldl
    | with_reducible apply KeepsOpt.getD | with_reducible apply KeepsOpt.of_some | simp only [Keeps.upd_iff] | split
    | with_reducible refine KeepsOpt.get (by assumption) ?_ | with_reducible refine KeepsPair.get (by assumption) ?_
    | dsimp only | intro _

theorem startSelfRefreshExit_keeps {s0 s : State} (h : Keeps s0 s) :
    Keeps s0 (startSelfRefreshExit s) := by
  unfold startSelfRefreshExit
  repeat' first
    | with_reducible assumption | with_reducible apply Keeps.foldl | with_reducible apply KeepsOpt.getD
    | with_reducible apply KeepsOpt.of_some | simp only [Keeps.upd_iff]

theorem startRetrain_keeps {s0 s : State} {c : Chan} (h : Keeps s0 s) :
    Keeps s0 (startRetrain c s) := by
  unfold startRetrain
  repeat' first
    | with_reducible assumption | with_reducible apply closeAll_keeps | with_reducible apply setChan_keeps

theorem trackDrift_keeps {s0 s : State} {c : Chan} {drift : ℕ} (h : Keeps s0 s) :
    Keeps s0 (trackDrift c drift s) := by
  unfold trackDrift
  repeat' first
    | with_reducible assumption | with_reducible apply startRetrain_keeps | with_reducible apply Keeps.foldl
    | with_reducible apply KeepsOpt.getD | with_reducible apply KeepsOpt.of_some | dsimp only | split

theorem exitDone_keeps {s0 s : State} {d : Fin 2} (h : Keeps s0 s) :
    Keeps s0 (exitDone d s) := by
  unfold exitDone
  repeat' first
    | with_reducible assumption | with_reducible apply setDmc_keeps | with_reducible apply request_keeps
    | with_reducible apply trackDrift_keeps | with_reducible apply refreshNow_keeps | with_reducible apply Keeps.foldl
    | with_reducible apply KeepsOpt.getD | with_reducible apply KeepsOpt.of_some | simp only [Keeps.upd_iff] | split
    | with_reducible refine KeepsOpt.get (by assumption) ?_ | with_reducible refine KeepsPair.get (by assumption) ?_
    | dsimp only | intro _

theorem execSelfRefreshExitComplete_keeps {s0 s : State} {d : Fin 2} (h : Keeps s0 s) :
    KeepsOut s0 (execSelfRefreshExitComplete d s) := by
  unfold execSelfRefreshExitComplete
  repeat' first
    | with_reducible assumption | with_reducible apply exitDone_keeps | with_reducible apply live_keeps
    | with_reducible apply KeepsOut.next | with_reducible apply Keeps.foldl
    | simp only [Keeps.upd_iff, Keeps.upd_evc_iff, Keeps.upd_tbs_iff, Keeps.upd_both_iff] | split
    | with_reducible refine KeepsOpt.get (by assumption) ?_ | with_reducible refine KeepsPair.get (by assumption) ?_
    | dsimp only | intro _

theorem execDqsTrack_keeps {s0 s : State} {c : Chan} {drift : ℕ} (h : Keeps s0 s) :
    KeepsOut s0 (execDqsTrack c drift s) := by
  unfold execDqsTrack
  repeat' first
    | with_reducible assumption | with_reducible apply trackDrift_keeps | with_reducible apply live_keeps
    | with_reducible apply KeepsOut.next | with_reducible apply Keeps.foldl
    | simp only [Keeps.upd_iff, Keeps.upd_evc_iff, Keeps.upd_tbs_iff, Keeps.upd_both_iff] | split
    | with_reducible refine KeepsOpt.get (by assumption) ?_ | with_reducible refine KeepsPair.get (by assumption) ?_
    | dsimp only | intro _

theorem execHazardApply_keeps {s0 s : State} {c : Chan} (h : Keeps s0 s) :
    KeepsOut s0 (execHazardApply c s) := by
  unfold execHazardApply
  repeat' first
    | with_reducible assumption | with_reducible apply setChan_keeps | with_reducible apply live_keeps
    | with_reducible apply KeepsOut.next | with_reducible apply Keeps.foldl | dsimp only | split
    | with_reducible refine KeepsOpt.get (by assumption) ?_ | with_reducible refine KeepsPair.get (by assumption) ?_
    | intro _

theorem cntSnap_keeps {s0 s : State} {d : Fin 2} (h : Keeps s0 s) :
    Keeps s0 (cntSnap d s) := by
  unfold cntSnap
  repeat' first
    | with_reducible assumption | with_reducible apply setDmc_keeps

theorem cntClear_keeps {s0 s : State} {d : Fin 2} (h : Keeps s0 s) :
    Keeps s0 (cntClear d s) := by
  unfold cntClear
  repeat' first
    | with_reducible assumption | with_reducible apply setDmc_keeps

theorem cntCtrl_keeps {s0 s : State} {d : Fin 2} {v : Word} (h : Keeps s0 s) :
    Keeps s0 (cntCtrl d v s) := by
  unfold cntCtrl
  repeat' first
    | with_reducible assumption | with_reducible apply cntSnap_keeps | with_reducible apply cntClear_keeps
    | with_reducible apply Keeps.foldl | with_reducible apply KeepsOpt.getD | with_reducible apply KeepsOpt.of_some
    | dsimp only | split

theorem execDmcCntSnap_keeps {s0 s : State} {d : Fin 2} (h : Keeps s0 s) :
    KeepsOut s0 (execDmcCntSnap d s) := by
  unfold execDmcCntSnap
  repeat' first
    | with_reducible assumption | with_reducible apply whenRuns_keeps | with_reducible apply regWrite_keeps
    | with_reducible apply live_keeps | with_reducible apply cntCtrl_keeps | with_reducible apply KeepsOut.next
    | with_reducible apply Keeps.foldl
    | simp only [Keeps.upd_iff, Keeps.upd_evc_iff, Keeps.upd_tbs_iff, Keeps.upd_both_iff] | split
    | with_reducible refine KeepsOpt.get (by assumption) ?_ | with_reducible refine KeepsPair.get (by assumption) ?_
    | dsimp only | intro _

theorem execDmcCntClear_keeps {s0 s : State} {d : Fin 2} (h : Keeps s0 s) :
    KeepsOut s0 (execDmcCntClear d s) := by
  unfold execDmcCntClear
  repeat' first
    | with_reducible assumption | with_reducible apply whenRuns_keeps | with_reducible apply regWrite_keeps
    | with_reducible apply live_keeps | with_reducible apply cntCtrl_keeps | with_reducible apply KeepsOut.next
    | with_reducible apply Keeps.foldl
    | simp only [Keeps.upd_iff, Keeps.upd_evc_iff, Keeps.upd_tbs_iff, Keeps.upd_both_iff] | split
    | with_reducible refine KeepsOpt.get (by assumption) ?_ | with_reducible refine KeepsPair.get (by assumption) ?_
    | dsimp only | intro _

theorem trainSeen_keeps {s0 s : State} (h : Keeps s0 s) :
    Keeps s0 (trainSeen s) := by
  unfold trainSeen
  repeat' first
    | with_reducible assumption | with_reducible apply setChan_keeps | with_reducible apply Keeps.foldl
    | with_reducible apply KeepsOpt.getD | with_reducible apply KeepsOpt.of_some | simp only [Keeps.upd_iff] | split
    | with_reducible refine KeepsOpt.get (by assumption) ?_ | with_reducible refine KeepsPair.get (by assumption) ?_
    | dsimp only | intro _

theorem dmcReadEff_keeps {s0 s : State} {d : Fin 2} {off : ℕ} (h : Keeps s0 s) :
    Keeps s0 (dmcReadEff d off s) := by
  unfold dmcReadEff
  repeat' first
    | with_reducible assumption | with_reducible apply trainSeen_keeps | with_reducible apply setDmc_keeps
    | with_reducible apply setChan_keeps | with_reducible apply Keeps.foldl | with_reducible apply KeepsOpt.getD
    | with_reducible apply KeepsOpt.of_some | dsimp only | split

theorem dmcWrite_keeps {s0 s : State} {d : Fin 2} {off : ℕ} {v : Word} (h : Keeps s0 s) :
    KeepsOpt s0 (dmcWrite d off v s) := by
  unfold dmcWrite
  repeat' first
    | with_reducible assumption | with_reducible apply whenRuns_keeps | with_reducible apply regRefused_keeps
    | with_reducible apply setDmc_keeps | with_reducible apply cntCtrl_keeps | with_reducible apply KeepsOpt.of_none
    | with_reducible apply KeepsOpt.of_some | with_reducible apply KeepsOpt.map | with_reducible apply KeepsOpt.orElse
    | with_reducible apply Keeps.foldl | dsimp only | split | with_reducible refine KeepsOpt.get (by assumption) ?_
    | with_reducible refine KeepsPair.get (by assumption) ?_ | intro _

theorem sectionScrub_keeps {s0 s : State} {m : Fin 4} {offset : ℕ} {ecc : Ecc} (h : Keeps s0 s) :
    Keeps s0 (sectionScrub m offset ecc s) := by
  unfold sectionScrub
  repeat' first
    | with_reducible assumption | with_reducible apply setSection_keeps | with_reducible apply withBurst_keeps
    | with_reducible apply readNear_keeps | with_reducible apply Keeps.foldl | with_reducible apply KeepsOpt.getD
    | with_reducible apply KeepsOpt.of_some | dsimp only | split
    | with_reducible refine KeepsOpt.get (by assumption) ?_ | with_reducible refine KeepsPair.get (by assumption) ?_
    | intro _ | with_reducible refine KeepsPair.snd ?_

theorem execSectionScrub_keeps {s0 s : State} {m : Fin 4} {offset : ℕ} {ecc : Ecc} (h : Keeps s0 s) :
    KeepsOut s0 (execSectionScrub m offset ecc s) := by
  unfold execSectionScrub
  repeat' first
    | with_reducible assumption | with_reducible apply sectionScrub_keeps | with_reducible apply live_keeps
    | with_reducible apply KeepsOut.next | with_reducible apply Keeps.foldl
    | simp only [Keeps.upd_iff, Keeps.upd_evc_iff, Keeps.upd_tbs_iff, Keeps.upd_both_iff] | split
    | with_reducible refine KeepsOpt.get (by assumption) ?_ | with_reducible refine KeepsPair.get (by assumption) ?_
    | dsimp only | intro _

theorem setPort_keeps {s0 s : State} {n : Port} {f : PortState → PortState} (h : Keeps s0 s) :
    Keeps s0 (setPort n f s) := by
  unfold setPort
  repeat' first
    | with_reducible assumption | with_reducible apply Keeps.foldl | with_reducible apply KeepsOpt.getD
    | with_reducible apply KeepsOpt.of_some | simp only [Keeps.upd_iff]

theorem freeBuf_keeps {s0 s : State} {n : Port} {vc : Fin 2} (h : Keeps s0 s) :
    Keeps s0 (freeBuf n vc s) := by
  unfold freeBuf
  repeat' first
    | with_reducible assumption | with_reducible apply setPort_keeps

theorem transmit_keeps {s0 s : State} {n : Port} {p : Packet} (h : Keeps s0 s) :
    Keeps s0 (transmit n p s) := by
  unfold transmit
  repeat' first
    | with_reducible assumption | with_reducible apply send_keeps | with_reducible apply applyInjection_keeps
    | with_reducible apply setPort_keeps | with_reducible apply Keeps.foldl | with_reducible apply KeepsOpt.getD
    | with_reducible apply KeepsOpt.of_some
    | simp only [Keeps.upd_iff, Keeps.upd_evc_iff, Keeps.upd_tbs_iff, Keeps.upd_both_iff] | split

theorem replayOne_keeps {s0 s : State} {n : Port} {p : SentPkt} (h : Keeps s0 s) :
    Keeps s0 (replayOne n p s) := by
  unfold replayOne
  repeat' first
    | with_reducible assumption | with_reducible apply send_keeps | with_reducible apply setPort_keeps

theorem sendLocal_keeps {s0 s : State} {n : Port} {p : Packet} (h : Keeps s0 s) :
    Keeps s0 (sendLocal n p s) := by
  unfold sendLocal
  repeat' first
    | with_reducible assumption | with_reducible apply send_keeps | with_reducible apply setPort_keeps

theorem drain_keeps {s0 s : State} {n : Port} {a : ℕ} (h : Keeps s0 s) :
    Keeps s0 (drain n a s) := by
  unfold drain
  repeat' first
    | with_reducible assumption | with_reducible apply endGrant_keeps | with_reducible apply freeBuf_keeps
    | with_reducible apply request_keeps | with_reducible apply transmit_keeps | with_reducible apply replayOne_keeps
    | with_reducible apply setPort_keeps | with_reducible apply Keeps.foldl | with_reducible apply KeepsOpt.getD
    | with_reducible apply KeepsOpt.of_some | with_reducible apply drain_keeps | dsimp only | split

theorem drainPort_keeps {s0 s : State} {n : Port} (h : Keeps s0 s) :
    Keeps s0 (drainPort n s) := by
  unfold drainPort
  repeat' first
    | with_reducible assumption | with_reducible apply drain_keeps

theorem drainPorts_keeps {s0 s : State} (h : Keeps s0 s) :
    Keeps s0 (drainPorts s) := by
  unfold drainPorts
  repeat' first
    | with_reducible assumption | with_reducible apply drainPort_keeps | with_reducible apply Keeps.foldl
    | with_reducible apply KeepsOpt.getD | with_reducible apply KeepsOpt.of_some
    | simp only [Keeps.upd_iff, Keeps.upd_evc_iff, Keeps.upd_tbs_iff, Keeps.upd_both_iff] | split
    | with_reducible refine KeepsOpt.get (by assumption) ?_ | with_reducible refine KeepsPair.get (by assumption) ?_
    | dsimp only | intro _

theorem enqueue_keeps {s0 s : State} {n : Port} {origin : Option Port} {p : Packet} (h : Keeps s0 s) :
    Keeps s0 (enqueue n origin p s) := by
  unfold enqueue
  repeat' first
    | with_reducible assumption | with_reducible apply drainPort_keeps | with_reducible apply setPort_keeps

theorem originate_keeps {s0 s : State} {p : Packet} (h : Keeps s0 s) :
    Keeps s0 (originate p s) := by
  unfold originate
  repeat' first
    | with_reducible assumption | with_reducible apply enqueue_keeps | with_reducible apply Keeps.foldl
    | with_reducible apply KeepsOpt.getD | with_reducible apply KeepsOpt.of_some | dsimp only | split

theorem toStages_keeps {s0 s : State} {sp : Split} {f : ℕ → Packet} (h : Keeps s0 s) :
    Keeps s0 (toStages sp f s) := by
  unfold toStages
  repeat' first
    | with_reducible assumption | with_reducible apply originate_keeps | with_reducible apply Keeps.foldl
    | with_reducible apply KeepsOpt.getD | with_reducible apply KeepsOpt.of_some
    | simp only [Keeps.upd_iff, Keeps.upd_evc_iff, Keeps.upd_tbs_iff, Keeps.upd_both_iff] | split
    | with_reducible refine KeepsOpt.get (by assumption) ?_ | with_reducible refine KeepsPair.get (by assumption) ?_
    | dsimp only | intro _

theorem setStrip_keeps {s0 s : State} {i : Fin 64} {f : Strip → Strip} (h : Keeps s0 s) :
    Keeps s0 (setStrip i f s) := by
  unfold setStrip
  repeat' first
    | with_reducible assumption | with_reducible apply Keeps.foldl | with_reducible apply KeepsOpt.getD
    | with_reducible apply KeepsOpt.of_some | with_reducible apply KeepsRan.next | with_reducible apply KeepsRan.jump
    | with_reducible apply KeepsRan.halt | with_reducible apply KeepsRan.wait | simp only [Keeps.upd_iff]

theorem fillAhead_keeps {s0 s : State} {m : ModelRef} {a : ℕ} (h : Keeps s0 s) :
    Keeps s0 (fillAhead m a s) := by
  unfold fillAhead
  repeat' first
    | with_reducible assumption | with_reducible apply setStrip_keeps | with_reducible apply Keeps.foldl
    | with_reducible apply KeepsOpt.getD | with_reducible apply KeepsOpt.of_some | with_reducible apply KeepsRan.next
    | with_reducible apply KeepsRan.jump | with_reducible apply KeepsRan.halt | with_reducible apply KeepsRan.wait
    | with_reducible apply fillAhead_keeps | dsimp only | split

theorem freeRead_keeps {s0 s : State} {m : ModelRef} {p : Pass} (h : Keeps s0 s) :
    Keeps s0 (freeRead m p s) := by
  unfold freeRead
  repeat' first
    | with_reducible assumption | with_reducible apply Keeps.foldl | with_reducible apply KeepsOpt.getD
    | with_reducible apply KeepsOpt.of_some | with_reducible apply KeepsRan.next | with_reducible apply KeepsRan.jump
    | with_reducible apply KeepsRan.halt | with_reducible apply KeepsRan.wait | simp only [Keeps.upd_iff]

theorem signalDone_keeps {s0 s : State} {n : Voice} (h : Keeps s0 s) :
    Keeps s0 (signalDone n s) := by
  unfold signalDone
  repeat' first
    | with_reducible assumption | with_reducible apply freeRead_keeps | with_reducible apply fillAhead_keeps
    | with_reducible apply Keeps.foldl | with_reducible apply KeepsOpt.getD | with_reducible apply KeepsOpt.of_some
    | with_reducible apply KeepsRan.next | with_reducible apply KeepsRan.jump | with_reducible apply KeepsRan.halt
    | with_reducible apply KeepsRan.wait | simp only [Keeps.upd_iff] | split

theorem endStall_keeps {s0 s : State} {i : Fin 64} (h : Keeps s0 s) :
    Keeps s0 (endStall i s) := by
  unfold endStall
  repeat' first
    | with_reducible assumption | with_reducible apply setStrip_keeps | with_reducible apply Keeps.foldl
    | with_reducible apply KeepsOpt.getD | with_reducible apply KeepsOpt.of_some | with_reducible apply KeepsRan.next
    | with_reducible apply KeepsRan.jump | with_reducible apply KeepsRan.halt | with_reducible apply KeepsRan.wait
    | simp only [Keeps.upd_iff] | split

theorem endWindow_keeps {s0 s : State} {m : ModelRef} (h : Keeps s0 s) :
    Keeps s0 (endWindow m s) := by
  unfold endWindow
  repeat' first
    | with_reducible assumption | with_reducible apply endStall_keeps | with_reducible apply setRef_keeps
    | with_reducible apply Keeps.foldl | with_reducible apply KeepsOpt.getD | with_reducible apply KeepsOpt.of_some
    | with_reducible apply KeepsRan.next | with_reducible apply KeepsRan.jump | with_reducible apply KeepsRan.halt
    | with_reducible apply KeepsRan.wait | simp only [Keeps.upd_iff] | split

theorem toIdle_keeps {s0 s : State} {n : Voice} (h : Keeps s0 s) :
    Keeps s0 (toIdle n s) := by
  unfold toIdle
  repeat' first
    | with_reducible assumption | with_reducible apply dropUnits_keeps

theorem freeVoice_keeps {s0 s : State} {held : Bool} {n : Voice} (h : Keeps s0 s) :
    Keeps s0 (freeVoice held n s) := by
  unfold freeVoice
  repeat' first
    | with_reducible assumption | with_reducible apply toIdle_keeps | with_reducible apply setVoice_keeps

theorem endSet_keeps {s0 s : State} {k : KSet} {status : ℕ} {detail : ℕ} {faultIdx : ℕ} {timeout : Bool}
    {halted : List Voice} (h : Keeps s0 s) :
    Keeps s0 (endSet k status detail faultIdx timeout halted s) := by
  unfold endSet
  repeat' first
    | with_reducible assumption | with_reducible apply finish_keeps | with_reducible apply freeVoice_keeps
    | with_reducible apply Keeps.foldl | with_reducible apply KeepsOpt.getD | with_reducible apply KeepsOpt.of_some
    | with_reducible apply KeepsRan.next | with_reducible apply KeepsRan.jump | with_reducible apply KeepsRan.halt
    | with_reducible apply KeepsRan.wait | simp only [Keeps.upd_iff] | split
    | with_reducible refine KeepsOpt.get (by assumption) ?_ | with_reducible refine KeepsPair.get (by assumption) ?_
    | dsimp only | intro _

theorem endPass_keeps {s0 s : State} {p : Pass} {halted : List Voice} (h : Keeps s0 s) :
    Keeps s0 (endPass p halted s) := by
  unfold endPass
  repeat' first
    | with_reducible assumption | with_reducible apply syncHolds_keeps | with_reducible apply dropObjs_keeps
    | with_reducible apply markIdle_keeps | with_reducible apply endWindow_keeps
    | with_reducible apply dropGrants_keeps | with_reducible apply freeVoice_keeps | with_reducible apply Keeps.foldl
    | with_reducible apply KeepsOpt.getD | with_reducible apply KeepsOpt.of_some | with_reducible apply KeepsRan.next
    | with_reducible apply KeepsRan.jump | with_reducible apply KeepsRan.halt | with_reducible apply KeepsRan.wait
    | simp only [Keeps.upd_iff] | split | with_reducible refine KeepsOpt.get (by assumption) ?_
    | with_reducible refine KeepsPair.get (by assumption) ?_ | dsimp only | intro _

theorem tellStages_keeps {s0 s : State} {p : Pass} {status : ℕ} {detail : ℕ} (h : Keeps s0 s) :
    Keeps s0 (tellStages p status detail s) := by
  unfold tellStages
  repeat' first
    | with_reducible assumption | with_reducible apply toStages_keeps | with_reducible apply originate_keeps
    | with_reducible apply Keeps.foldl | with_reducible apply KeepsOpt.getD | with_reducible apply KeepsOpt.of_some
    | with_reducible apply KeepsRan.next | with_reducible apply KeepsRan.jump | with_reducible apply KeepsRan.halt
    | with_reducible apply KeepsRan.wait | dsimp only | split

theorem abandonPass_keeps {s0 s : State} {p : Pass} {status : ℕ} {detail : ℕ} {halted : List Voice} (h : Keeps s0 s) :
    Keeps s0 (abandonPass p status detail halted s) := by
  unfold abandonPass
  repeat' first
    | with_reducible assumption | with_reducible apply endPass_keeps | with_reducible apply tellStages_keeps
    | with_reducible apply failCmd_keeps | with_reducible apply Keeps.foldl | with_reducible apply KeepsOpt.getD
    | with_reducible apply KeepsOpt.of_some | with_reducible apply KeepsRan.next | with_reducible apply KeepsRan.jump
    | with_reducible apply KeepsRan.halt | with_reducible apply KeepsRan.wait
    | simp only [Keeps.upd_iff, Keeps.upd_evc_iff, Keeps.upd_tbs_iff, Keeps.upd_both_iff] | split
    | with_reducible refine KeepsOpt.get (by assumption) ?_ | with_reducible refine KeepsPair.get (by assumption) ?_
    | dsimp only | intro _

theorem failService_keeps {s0 s : State} {n : Voice} {status : ℕ} {detail : ℕ} {halted : List Voice}
    (h : Keeps s0 s) :
    Keeps s0 (failService n status detail halted s) := by
  unfold failService
  repeat' first
    | with_reducible assumption | with_reducible apply endSet_keeps | with_reducible apply abandonPass_keeps
    | with_reducible apply Keeps.foldl | with_reducible apply KeepsOpt.getD | with_reducible apply KeepsOpt.of_some
    | with_reducible apply KeepsRan.next | with_reducible apply KeepsRan.jump | with_reducible apply KeepsRan.halt
    | with_reducible apply KeepsRan.wait
    | simp only [Keeps.upd_iff, Keeps.upd_evc_iff, Keeps.upd_tbs_iff, Keeps.upd_both_iff] | split

theorem noteHalt_keeps {s0 s : State} {n : Voice} {h2 : Halt} (h : Keeps s0 s) :
    Keeps s0 (noteHalt n h2 s) := by
  unfold noteHalt
  repeat' first
    | with_reducible assumption | with_reducible apply report_keeps | with_reducible apply setVoice_keeps
    | with_reducible apply Keeps.foldl | with_reducible apply KeepsOpt.getD | with_reducible apply KeepsOpt.of_some
    | with_reducible apply KeepsRan.next | with_reducible apply KeepsRan.jump | with_reducible apply KeepsRan.halt
    | with_reducible apply KeepsRan.wait | simp only [Keeps.upd_iff] | split

theorem setPair_keeps {s0 s : State} {k : Pair} {f : PairState → PairState} (h : Keeps s0 s) :
    Keeps s0 (setPair k f s) := by
  unfold setPair
  repeat' first
    | with_reducible assumption | with_reducible apply Keeps.foldl | with_reducible apply KeepsOpt.getD
    | with_reducible apply KeepsOpt.of_some | with_reducible apply KeepsRan.next | with_reducible apply KeepsRan.jump
    | with_reducible apply KeepsRan.halt | with_reducible apply KeepsRan.wait | simp only [Keeps.upd_iff]

theorem recordDetection_keeps {s0 s : State} {k : Pair} {kind : ℕ} {unit : ℕ} {pc : ℕ} {diff : BitVec 64} {arg0 : ℕ}
    {arg1 : ℕ} (h : Keeps s0 s) :
    Keeps s0 (recordDetection k kind unit pc diff arg0 arg1 s) := by
  unfold recordDetection
  repeat' first
    | with_reducible assumption | with_reducible apply logErr_keeps | with_reducible apply report_keeps
    | with_reducible apply setPair_keeps | with_reducible apply Keeps.foldl | with_reducible apply KeepsOpt.getD
    | with_reducible apply KeepsOpt.of_some | with_reducible apply KeepsRan.next | with_reducible apply KeepsRan.jump
    | with_reducible apply KeepsRan.halt | with_reducible apply KeepsRan.wait | simp only [Keeps.upd_iff] | split

theorem pairFault_keeps {s0 s : State} {k : Pair} {kind : ℕ} {diff : BitVec 64} {arg0 : ℕ} {arg1 : ℕ}
    (h : Keeps s0 s) :
    Keeps s0 (pairFault k kind diff arg0 arg1 s) := by
  unfold pairFault
  repeat' first
    | with_reducible assumption | with_reducible apply failService_keeps | with_reducible apply recordDetection_keeps
    | with_reducible apply Keeps.foldl | with_reducible apply KeepsOpt.getD | with_reducible apply KeepsOpt.of_some
    | with_reducible apply KeepsRan.next | with_reducible apply KeepsRan.jump | with_reducible apply KeepsRan.halt
    | with_reducible apply KeepsRan.wait | dsimp only | split

theorem plainClock_keeps {s0 s : State} {k : Pair} {r : CmpReport} (h : Keeps s0 s) :
    Keeps s0 (plainClock k r s) := by
  unfold plainClock
  repeat' first
    | with_reducible assumption | with_reducible apply pairFault_keeps | with_reducible apply Keeps.foldl
    | with_reducible apply KeepsOpt.getD | with_reducible apply KeepsOpt.of_some | with_reducible apply KeepsRan.next
    | with_reducible apply KeepsRan.jump | with_reducible apply KeepsRan.halt | with_reducible apply KeepsRan.wait
    | simp only [Keeps.upd_iff, Keeps.upd_evc_iff, Keeps.upd_tbs_iff, Keeps.upd_both_iff] | split

theorem follow_keeps {s0 s : State} {n : Voice} (h : Keeps s0 s) :
    Keeps s0 (follow n s) := by
  unfold follow
  repeat' first
    | with_reducible assumption | with_reducible apply setVoice_keeps | with_reducible apply Keeps.foldl
    | with_reducible apply KeepsOpt.getD | with_reducible apply KeepsOpt.of_some | with_reducible apply KeepsRan.next
    | with_reducible apply KeepsRan.jump | with_reducible apply KeepsRan.halt | with_reducible apply KeepsRan.wait
    | dsimp only | split

theorem countVoice_keeps {s0 s : State} {n : Voice} {f : VoiceSt → VoiceSt} (h : Keeps s0 s) :
    Keeps s0 (countVoice n f s) := by
  unfold countVoice
  repeat' first
    | with_reducible assumption | with_reducible apply setVoice_keeps | with_reducible apply Keeps.foldl
    | with_reducible apply KeepsOpt.getD | with_reducible apply KeepsOpt.of_some | with_reducible apply KeepsRan.next
    | with_reducible apply KeepsRan.jump | with_reducible apply KeepsRan.halt | with_reducible apply KeepsRan.wait
    | simp only [Keeps.upd_iff, Keeps.upd_evc_iff, Keeps.upd_tbs_iff, Keeps.upd_both_iff] | split

theorem releaseBar_keeps {s0 s : State} {n : Voice} (h : Keeps s0 s) :
    Keeps s0 (releaseBar n s) := by
  unfold releaseBar
  repeat' first
    | with_reducible assumption | with_reducible apply follow_keeps | with_reducible apply setVoice_keeps
    | with_reducible apply Keeps.foldl | with_reducible apply KeepsOpt.getD | with_reducible apply KeepsOpt.of_some
    | with_reducible apply KeepsRan.next | with_reducible apply KeepsRan.jump | with_reducible apply KeepsRan.halt
    | with_reducible apply KeepsRan.wait | dsimp only | split | with_reducible refine KeepsOpt.get (by assumption) ?_
    | with_reducible refine KeepsPair.get (by assumption) ?_ | intro _

theorem stopAlone_keeps {s0 s : State} {n : Voice} (h : Keeps s0 s) :
    Keeps s0 (stopAlone n s) := by
  unfold stopAlone
  repeat' first
    | with_reducible assumption | with_reducible apply releaseBar_keeps | with_reducible apply signalDone_keeps
    | with_reducible apply setPass_keeps | with_reducible apply toIdle_keeps | with_reducible apply setVoice_keeps
    | with_reducible apply Keeps.foldl | with_reducible apply KeepsOpt.getD | with_reducible apply KeepsOpt.of_some
    | with_reducible apply KeepsRan.next | with_reducible apply KeepsRan.jump | with_reducible apply KeepsRan.halt
    | with_reducible apply KeepsRan.wait | dsimp only | split | with_reducible refine KeepsOpt.get (by assumption) ?_
    | with_reducible refine KeepsPair.get (by assumption) ?_ | intro _

theorem haltVoice_keeps {s0 s : State} {n : Voice} {h2 : Halt} {alone : Bool} (h : Keeps s0 s) :
    Keeps s0 (haltVoice n h2 alone s) := by
  unfold haltVoice
  repeat' first
    | with_reducible assumption | with_reducible apply stopAlone_keeps | with_reducible apply noteHalt_keeps
    | with_reducible apply failService_keeps | with_reducible apply Keeps.foldl | with_reducible apply KeepsOpt.getD
    | with_reducible apply KeepsOpt.of_some | with_reducible apply KeepsRan.next | with_reducible apply KeepsRan.jump
    | with_reducible apply KeepsRan.halt | with_reducible apply KeepsRan.wait | dsimp only | split

theorem stripGate_keeps {s0 s : State} {n : Voice} {as : List ℕ} {k : State → Ran}
    (k_keeps : ∀ t, Keeps s0 t → KeepsRan s0 (k t)) (h : Keeps s0 s) :
    KeepsRan s0 (stripGate n as k s) := by
  unfold stripGate
  repeat' first
    | with_reducible assumption | with_reducible apply k_keeps | with_reducible apply setStrip_keeps
    | with_reducible apply fillAhead_keeps | with_reducible apply KeepsRan.next | with_reducible apply KeepsRan.jump
    | with_reducible apply KeepsRan.halt | with_reducible apply KeepsRan.wait | with_reducible apply Keeps.foldl
    | dsimp only | split | with_reducible refine KeepsOpt.get (by assumption) ?_
    | with_reducible refine KeepsPair.get (by assumption) ?_ | intro _

theorem settle_keeps {s0 s : State} {n : Voice} {r : Ran} (hr : KeepsRan s0 r) :
    Keeps s0 (settle n r) := by
  unfold settle
  repeat' first
    | with_reducible assumption | with_reducible apply follow_keeps | with_reducible apply haltVoice_keeps
    | with_reducible apply setVoice_keeps | with_reducible apply Keeps.foldl | with_reducible apply KeepsOpt.getD
    | with_reducible apply KeepsOpt.of_some | with_reducible apply KeepsRan.next | with_reducible apply KeepsRan.jump
    | with_reducible apply KeepsRan.halt | with_reducible apply KeepsRan.wait | exact hr.of_next | exact hr.of_jump
    | exact hr.of_halt | exact hr.of_wait | dsimp only | split

theorem strikePair_keeps {s0 s : State} {n : Voice} (h : Keeps s0 s) :
    KeepsOpt s0 (strikePair n s) := by
  unfold strikePair
  repeat' first
    | with_reducible assumption | with_reducible apply applyInjection_keeps | with_reducible apply pairFault_keeps
    | with_reducible apply KeepsOpt.of_none | with_reducible apply KeepsOpt.of_some
    | with_reducible apply KeepsOpt.map | with_reducible apply KeepsOpt.orElse | with_reducible apply Keeps.foldl
    | with_reducible apply KeepsRan.next | with_reducible apply KeepsRan.jump | with_reducible apply KeepsRan.halt
    | with_reducible apply KeepsRan.wait | dsimp only | split

theorem issueInsn_keeps {s0 s : State} {n : Voice} {ok : ℕ → Bool} {is_ : ℕ → Bool} {k : ℕ → State → Ran}
    (k_keeps : ∀ y0 t, Keeps s0 t → KeepsRan s0 (k y0 t)) (h : Keeps s0 s) :
    Keeps s0 (issueInsn n ok is_ k s) := by
  unfold issueInsn
  repeat' first
    | with_reducible assumption | with_reducible apply k_keeps | with_reducible apply settle_keeps
    | with_reducible apply haltVoice_keeps | with_reducible apply withLease_keeps
    | with_reducible apply strikePair_keeps | with_reducible apply Keeps.foldl | with_reducible apply KeepsOpt.getD
    | with_reducible apply KeepsOpt.of_some | with_reducible apply KeepsRan.next | with_reducible apply KeepsRan.jump
    | with_reducible apply KeepsRan.halt | with_reducible apply KeepsRan.wait | dsimp only | split
    | with_reducible refine KeepsOpt.get (by assumption) ?_ | with_reducible refine KeepsPair.get (by assumption) ?_
    | intro _

theorem insn_keeps {s0 s : State} {n : Voice} {major : ℕ} {minor : ℕ} {k : ℕ → State → Ran}
    (k_keeps : ∀ y0 t, Keeps s0 t → KeepsRan s0 (k y0 t)) (h : Keeps s0 s) :
    Keeps s0 (insn n major minor k s) := by
  unfold insn
  repeat' first
    | with_reducible assumption | with_reducible apply k_keeps | with_reducible apply issueInsn_keeps

theorem insnOp_keeps {s0 s : State} {n : Voice} {major : ℕ} {op : Bool} {k : ℕ → State → Ran}
    (k_keeps : ∀ y0 t, Keeps s0 t → KeepsRan s0 (k y0 t)) (h : Keeps s0 s) :
    Keeps s0 (insnOp n major op k s) := by
  unfold insnOp
  repeat' first
    | with_reducible assumption | with_reducible apply k_keeps | with_reducible apply issueInsn_keeps

theorem setReg_keeps {s0 s : State} {n : Voice} {r : Fin 16} {x2 : Word} (h : Keeps s0 s) :
    Keeps s0 (setReg n r x2 s) := by
  unfold setReg
  repeat' first
    | with_reducible assumption | with_reducible apply setVoice_keeps | with_reducible apply Keeps.foldl
    | with_reducible apply KeepsOpt.getD | with_reducible apply KeepsOpt.of_some | with_reducible apply KeepsRan.next
    | with_reducible apply KeepsRan.jump | with_reducible apply KeepsRan.halt | with_reducible apply KeepsRan.wait
    | simp only [Keeps.upd_iff, Keeps.upd_evc_iff, Keeps.upd_tbs_iff, Keeps.upd_both_iff] | split

theorem setP_keeps {s0 s : State} {n : Voice} {i : ℕ} {b : Bool} (h : Keeps s0 s) :
    Keeps s0 (setP n i b s) := by
  unfold setP
  repeat' first
    | with_reducible assumption | with_reducible apply setVoice_keeps

theorem setV_keeps {s0 s : State} {n : Voice} {b : Bool} (h : Keeps s0 s) :
    Keeps s0 (setV n b s) := by
  unfold setV
  repeat' first
    | with_reducible assumption | with_reducible apply setVoice_keeps

theorem setZ_keeps {s0 s : State} {n : Voice} {b : Bool} (h : Keeps s0 s) :
    Keeps s0 (setZ n b s) := by
  unfold setZ
  repeat' first
    | with_reducible assumption | with_reducible apply setVoice_keeps

theorem setSat_keeps {s0 s : State} {n : Voice} {b : Bool} (h : Keeps s0 s) :
    Keeps s0 (setSat n b s) := by
  unfold setSat
  repeat' first
    | with_reducible assumption | with_reducible apply setVoice_keeps

theorem Ran.andThen_keeps {s0 s : State} {f : State → State} {a : Ran} (f_keeps : ∀ t, Keeps s0 t → Keeps s0 (f t))
    (ha : KeepsRan s0 a) :
    KeepsRan s0 (Ran.andThen f a) := by
  unfold Ran.andThen
  repeat' first
    | with_reducible assumption | with_reducible apply f_keeps | with_reducible apply KeepsRan.next
    | with_reducible apply KeepsRan.jump | with_reducible apply KeepsRan.halt | with_reducible apply KeepsRan.wait
    | with_reducible apply Keeps.foldl | exact ha.of_next | exact ha.of_jump | exact ha.of_halt | exact ha.of_wait
    | simp only [Keeps.upd_iff, Keeps.upd_evc_iff, Keeps.upd_tbs_iff, Keeps.upd_both_iff] | split

theorem withSections_keeps {s0 s : State} {n : Voice} {as : List ℕ} {k : State → Ran}
    (k_keeps : ∀ t, Keeps s0 t → KeepsRan s0 (k t)) (h : Keeps s0 s) :
    KeepsRan s0 (withSections n as k s) := by
  unfold withSections
  repeat' first
    | with_reducible assumption | with_reducible apply k_keeps | with_reducible apply askSections_keeps
    | with_reducible apply Ran.andThen_keeps | with_reducible apply releaseSections_keeps
    | with_reducible apply KeepsRan.next | with_reducible apply KeepsRan.jump | with_reducible apply KeepsRan.halt
    | with_reducible apply KeepsRan.wait | with_reducible apply Keeps.foldl | dsimp only | split
    | with_reducible refine KeepsOpt.get (by assumption) ?_ | with_reducible refine KeepsPair.get (by assumption) ?_
    | intro _

theorem failUsers_keeps {s0 s : State} {n : Voice} {bads : List (ℕ × ℕ)} (h : Keeps s0 s) :
    Keeps s0 (failUsers n bads s) := by
  unfold failUsers
  repeat' first
    | with_reducible assumption | with_reducible apply setPass_keeps | with_reducible apply Keeps.foldl
    | with_reducible apply KeepsOpt.getD | with_reducible apply KeepsOpt.of_some | with_reducible apply KeepsRan.next
    | with_reducible apply KeepsRan.jump | with_reducible apply KeepsRan.halt | with_reducible apply KeepsRan.wait
    | dsimp only | split

theorem haltUe_keeps {s0 s : State} {n : Voice} {bads : List (ℕ × ℕ)} {ea : ℕ} {elem : Option ℕ} (h : Keeps s0 s) :
    KeepsRan s0 (haltUe n bads ea elem s) := by
  unfold haltUe
  repeat' first
    | with_reducible assumption | with_reducible apply reportUes_keeps | with_reducible apply failUsers_keeps
    | with_reducible apply KeepsRan.next | with_reducible apply KeepsRan.jump | with_reducible apply KeepsRan.halt
    | with_reducible apply KeepsRan.wait | with_reducible apply Keeps.foldl | dsimp only | split

theorem noteOutside_keeps {s0 s : State} {n : Voice} {ea : ℕ} (h : Keeps s0 s) :
    Keeps s0 (noteOutside n ea s) := by
  unfold noteOutside
  repeat' first
    | with_reducible assumption | with_reducible apply logErr_keeps | split

theorem haltOutside_keeps {s0 s : State} {n : Voice} {ea : ℕ} {elem : Option ℕ} (h : Keeps s0 s) :
    KeepsRan s0 (haltOutside n ea elem s) := by
  unfold haltOutside
  exact KeepsRan.halt (noteOutside_keeps h)

theorem loadBytes_keeps {s0 s : State} {n : Voice} {ea : ℕ} {len : ℕ} {ecc : Ecc} {k : List Byte → State → Ran}
    (k_keeps : ∀ y0 t, Keeps s0 t → KeepsRan s0 (k y0 t)) (h : Keeps s0 s) :
    KeepsRan s0 (loadBytes n ea len ecc k s) := by
  unfold loadBytes
  repeat' first
    | with_reducible assumption | with_reducible apply k_keeps | with_reducible apply haltUe_keeps
    | with_reducible apply haltOutside_keeps | with_reducible apply readMem_keeps
    | with_reducible apply withSections_keeps | with_reducible apply stripGate_keeps
    | with_reducible apply KeepsRan.next | with_reducible apply KeepsRan.jump | with_reducible apply KeepsRan.halt
    | with_reducible apply KeepsRan.wait | with_reducible apply Keeps.foldl
    | simp only [Keeps.upd_iff, Keeps.upd_evc_iff, Keeps.upd_tbs_iff, Keeps.upd_both_iff] | split
    | with_reducible refine KeepsOpt.get (by assumption) ?_ | with_reducible refine KeepsPair.get (by assumption) ?_
    | dsimp only | intro _

theorem putBytes_keeps {s0 s : State} {n : Voice} {ea : ℕ} {bs : List Byte} {elem : Option ℕ} {k : State → Ran}
    (k_keeps : ∀ t, Keeps s0 t → KeepsRan s0 (k t)) (h : Keeps s0 s) :
    KeepsRan s0 (putBytes n ea bs elem k s) := by
  unfold putBytes
  repeat' first
    | with_reducible assumption | with_reducible apply k_keeps | with_reducible apply reportUes_keeps
    | with_reducible apply storeMem_keeps | with_reducible apply KeepsRan.next | with_reducible apply KeepsRan.jump
    | with_reducible apply KeepsRan.halt | with_reducible apply KeepsRan.wait | with_reducible apply Keeps.foldl
    | dsimp only | split

theorem storeBytes_keeps {s0 s : State} {n : Voice} {ea : ℕ} {bs : List Byte} {k : State → Ran}
    (k_keeps : ∀ t, Keeps s0 t → KeepsRan s0 (k t)) (h : Keeps s0 s) :
    KeepsRan s0 (storeBytes n ea bs k s) := by
  unfold storeBytes
  repeat' first
    | with_reducible assumption | with_reducible apply k_keeps | with_reducible apply putBytes_keeps
    | with_reducible apply haltOutside_keeps | with_reducible apply withSections_keeps
    | with_reducible apply KeepsRan.next | with_reducible apply KeepsRan.jump | with_reducible apply KeepsRan.halt
    | with_reducible apply KeepsRan.wait | with_reducible apply Keeps.foldl
    | simp only [Keeps.upd_iff, Keeps.upd_evc_iff, Keeps.upd_tbs_iff, Keeps.upd_both_iff] | split
    | with_reducible refine KeepsOpt.get (by assumption) ?_ | with_reducible refine KeepsPair.get (by assumption) ?_
    | dsimp only | intro _

end Sys2Proof.Machine
end

