-- ==== Sys2Proof/Laws/KeepVoice.lean ====
section
/-! SUPPORT. `Keeps` for the operations of Machine/Scalar.lean, Tile.lean, Mirror.lean, Kernel.lean, Vibrato.lean, Aperture.lean. -/

namespace Sys2Proof.Machine

theorem alu_keeps {s0 s : State} {n : Voice} {minor : ℕ} {f : Word → Word → Alu} (h : Keeps s0 s) :
    Keeps s0 (alu n minor f s) := by
  unfold alu
  repeat' first
    | with_reducible assumption | with_reducible apply setReg_keeps | with_reducible apply setZ_keeps
    | with_reducible apply insn_keeps | with_reducible apply setV_keeps | with_reducible apply Keeps.foldl
    | with_reducible apply KeepsOpt.getD | with_reducible apply KeepsOpt.of_some | with_reducible apply KeepsRan.next
    | with_reducible apply KeepsRan.jump | with_reducible apply KeepsRan.halt | with_reducible apply KeepsRan.wait
    | dsimp only | split | with_reducible refine KeepsOpt.get (by assumption) ?_
    | with_reducible refine KeepsPair.get (by assumption) ?_ | intro _

theorem execAdd_keeps {s0 s : State} {n : Voice} (h : Keeps s0 s) :
    KeepsOut s0 (execAdd n s) := by
  unfold execAdd
  repeat' first
    | with_reducible assumption | with_reducible apply live_keeps | with_reducible apply alu_keeps
    | with_reducible apply KeepsOut.next | with_reducible apply Keeps.foldl | with_reducible apply KeepsRan.next
    | with_reducible apply KeepsRan.jump | with_reducible apply KeepsRan.halt | with_reducible apply KeepsRan.wait
    | simp only [Keeps.upd_iff, Keeps.upd_evc_iff, Keeps.upd_tbs_iff, Keeps.upd_both_iff] | split
    | with_reducible refine KeepsOpt.get (by assumption) ?_ | with_reducible refine KeepsPair.get (by assumption) ?_
    | dsimp only | intro _

theorem execSub_keeps {s0 s : State} {n : Voice} (h : Keeps s0 s) :
    KeepsOut s0 (execSub n s) := by
  unfold execSub
  repeat' first
    | with_reducible assumption | with_reducible apply live_keeps | with_reducible apply alu_keeps
    | with_reducible apply KeepsOut.next | with_reducible apply Keeps.foldl | with_reducible apply KeepsRan.next
    | with_reducible apply KeepsRan.jump | with_reducible apply KeepsRan.halt | with_reducible apply KeepsRan.wait
    | simp only [Keeps.upd_iff, Keeps.upd_evc_iff, Keeps.upd_tbs_iff, Keeps.upd_both_iff] | split
    | with_reducible refine KeepsOpt.get (by assumption) ?_ | with_reducible refine KeepsPair.get (by assumption) ?_
    | dsimp only | intro _

theorem execAnd_keeps {s0 s : State} {n : Voice} (h : Keeps s0 s) :
    KeepsOut s0 (execAnd n s) := by
  unfold execAnd
  repeat' first
    | with_reducible assumption | with_reducible apply live_keeps | with_reducible apply alu_keeps
    | with_reducible apply KeepsOut.next | with_reducible apply Keeps.foldl | with_reducible apply KeepsRan.next
    | with_reducible apply KeepsRan.jump | with_reducible apply KeepsRan.halt | with_reducible apply KeepsRan.wait
    | simp only [Keeps.upd_iff, Keeps.upd_evc_iff, Keeps.upd_tbs_iff, Keeps.upd_both_iff] | split
    | with_reducible refine KeepsOpt.get (by assumption) ?_ | with_reducible refine KeepsPair.get (by assumption) ?_
    | dsimp only | intro _

theorem execOr_keeps {s0 s : State} {n : Voice} (h : Keeps s0 s) :
    KeepsOut s0 (execOr n s) := by
  unfold execOr
  repeat' first
    | with_reducible assumption | with_reducible apply live_keeps | with_reducible apply alu_keeps
    | with_reducible apply KeepsOut.next | with_reducible apply Keeps.foldl | with_reducible apply KeepsRan.next
    | with_reducible apply KeepsRan.jump | with_reducible apply KeepsRan.halt | with_reducible apply KeepsRan.wait
    | simp only [Keeps.upd_iff, Keeps.upd_evc_iff, Keeps.upd_tbs_iff, Keeps.upd_both_iff] | split
    | with_reducible refine KeepsOpt.get (by assumption) ?_ | with_reducible refine KeepsPair.get (by assumption) ?_
    | dsimp only | intro _

theorem execXor_keeps {s0 s : State} {n : Voice} (h : Keeps s0 s) :
    KeepsOut s0 (execXor n s) := by
  unfold execXor
  repeat' first
    | with_reducible assumption | with_reducible apply live_keeps | with_reducible apply alu_keeps
    | with_reducible apply KeepsOut.next | with_reducible apply Keeps.foldl | with_reducible apply KeepsRan.next
    | with_reducible apply KeepsRan.jump | with_reducible apply KeepsRan.halt | with_reducible apply KeepsRan.wait
    | simp only [Keeps.upd_iff, Keeps.upd_evc_iff, Keeps.upd_tbs_iff, Keeps.upd_both_iff] | split
    | with_reducible refine KeepsOpt.get (by assumption) ?_ | with_reducible refine KeepsPair.get (by assumption) ?_
    | dsimp only | intro _

theorem execNot_keeps {s0 s : State} {n : Voice} (h : Keeps s0 s) :
    KeepsOut s0 (execNot n s) := by
  unfold execNot
  repeat' first
    | with_reducible assumption | with_reducible apply live_keeps | with_reducible apply alu_keeps
    | with_reducible apply KeepsOut.next | with_reducible apply Keeps.foldl | with_reducible apply KeepsRan.next
    | with_reducible apply KeepsRan.jump | with_reducible apply KeepsRan.halt | with_reducible apply KeepsRan.wait
    | simp only [Keeps.upd_iff, Keeps.upd_evc_iff, Keeps.upd_tbs_iff, Keeps.upd_both_iff] | split
    | with_reducible refine KeepsOpt.get (by assumption) ?_ | with_reducible refine KeepsPair.get (by assumption) ?_
    | dsimp only | intro _

theorem execSll_keeps {s0 s : State} {n : Voice} (h : Keeps s0 s) :
    KeepsOut s0 (execSll n s) := by
  unfold execSll
  repeat' first
    | with_reducible assumption | with_reducible apply live_keeps | with_reducible apply alu_keeps
    | with_reducible apply KeepsOut.next | with_reducible apply Keeps.foldl | with_reducible apply KeepsRan.next
    | with_reducible apply KeepsRan.jump | with_reducible apply KeepsRan.halt | with_reducible apply KeepsRan.wait
    | simp only [Keeps.upd_iff, Keeps.upd_evc_iff, Keeps.upd_tbs_iff, Keeps.upd_both_iff] | split
    | with_reducible refine KeepsOpt.get (by assumption) ?_ | with_reducible refine KeepsPair.get (by assumption) ?_
    | dsimp only | intro _

theorem execSrl_keeps {s0 s : State} {n : Voice} (h : Keeps s0 s) :
    KeepsOut s0 (execSrl n s) := by
  unfold execSrl
  repeat' first
    | with_reducible assumption | with_reducible apply live_keeps | with_reducible apply alu_keeps
    | with_reducible apply KeepsOut.next | with_reducible apply Keeps.foldl | with_reducible apply KeepsRan.next
    | with_reducible apply KeepsRan.jump | with_reducible apply KeepsRan.halt | with_reducible apply KeepsRan.wait
    | simp only [Keeps.upd_iff, Keeps.upd_evc_iff, Keeps.upd_tbs_iff, Keeps.upd_both_iff] | split
    | with_reducible refine KeepsOpt.get (by assumption) ?_ | with_reducible refine KeepsPair.get (by assumption) ?_
    | dsimp only | intro _

theorem execSra_keeps {s0 s : State} {n : Voice} (h : Keeps s0 s) :
    KeepsOut s0 (execSra n s) := by
  unfold execSra
  repeat' first
    | with_reducible assumption | with_reducible apply live_keeps | with_reducible apply alu_keeps
    | with_reducible apply KeepsOut.next | with_reducible apply Keeps.foldl | with_reducible apply KeepsRan.next
    | with_reducible apply KeepsRan.jump | with_reducible apply KeepsRan.halt | with_reducible apply KeepsRan.wait
    | simp only [Keeps.upd_iff, Keeps.upd_evc_iff, Keeps.upd_tbs_iff, Keeps.upd_both_iff] | split
    | with_reducible refine KeepsOpt.get (by assumption) ?_ | with_reducible refine KeepsPair.get (by assumption) ?_
    | dsimp only | intro _

theorem execMul_keeps {s0 s : State} {n : Voice} (h : Keeps s0 s) :
    KeepsOut s0 (execMul n s) := by
  unfold execMul
  repeat' first
    | with_reducible assumption | with_reducible apply live_keeps | with_reducible apply alu_keeps
    | with_reducible apply KeepsOut.next | with_reducible apply Keeps.foldl | with_reducible apply KeepsRan.next
    | with_reducible apply KeepsRan.jump | with_reducible apply KeepsRan.halt | with_reducible apply KeepsRan.wait
    | simp only [Keeps.upd_iff, Keeps.upd_evc_iff, Keeps.upd_tbs_iff, Keeps.upd_both_iff] | split
    | with_reducible refine KeepsOpt.get (by assumption) ?_ | with_reducible refine KeepsPair.get (by assumption) ?_
    | dsimp only | intro _

theorem execMulhu_keeps {s0 s : State} {n : Voice} (h : Keeps s0 s) :
    KeepsOut s0 (execMulhu n s) := by
  unfold execMulhu
  repeat' first
    | with_reducible assumption | with_reducible apply live_keeps | with_reducible apply alu_keeps
    | with_reducible apply KeepsOut.next | with_reducible apply Keeps.foldl | with_reducible apply KeepsRan.next
    | with_reducible apply KeepsRan.jump | with_reducible apply KeepsRan.halt | with_reducible apply KeepsRan.wait
    | simp only [Keeps.upd_iff, Keeps.upd_evc_iff, Keeps.upd_tbs_iff, Keeps.upd_both_iff] | split
    | with_reducible refine KeepsOpt.get (by assumption) ?_ | with_reducible refine KeepsPair.get (by assumption) ?_
    | dsimp only | intro _

theorem execMulhs_keeps {s0 s : State} {n : Voice} (h : Keeps s0 s) :
    KeepsOut s0 (execMulhs n s) := by
  unfold execMulhs
  repeat' first
    | with_reducible assumption | with_reducible apply live_keeps | with_reducible apply alu_keeps
    | with_reducible apply KeepsOut.next | with_reducible apply Keeps.foldl | with_reducible apply KeepsRan.next
    | with_reducible apply KeepsRan.jump | with_reducible apply KeepsRan.halt | with_reducible apply KeepsRan.wait
    | simp only [Keeps.upd_iff, Keeps.upd_evc_iff, Keeps.upd_tbs_iff, Keeps.upd_both_iff] | split
    | with_reducible refine KeepsOpt.get (by assumption) ?_ | with_reducible refine KeepsPair.get (by assumption) ?_
    | dsimp only | intro _

theorem execDivu_keeps {s0 s : State} {n : Voice} (h : Keeps s0 s) :
    KeepsOut s0 (execDivu n s) := by
  unfold execDivu
  repeat' first
    | with_reducible assumption | with_reducible apply live_keeps | with_reducible apply alu_keeps
    | with_reducible apply KeepsOut.next | with_reducible apply Keeps.foldl | with_reducible apply KeepsRan.next
    | with_reducible apply KeepsRan.jump | with_reducible apply KeepsRan.halt | with_reducible apply KeepsRan.wait
    | simp only [Keeps.upd_iff, Keeps.upd_evc_iff, Keeps.upd_tbs_iff, Keeps.upd_both_iff] | split
    | with_reducible refine KeepsOpt.get (by assumption) ?_ | with_reducible refine KeepsPair.get (by assumption) ?_
    | dsimp only | intro _

theorem execDivs_keeps {s0 s : State} {n : Voice} (h : Keeps s0 s) :
    KeepsOut s0 (execDivs n s) := by
  unfold execDivs
  repeat' first
    | with_reducible assumption | with_reducible apply live_keeps | with_reducible apply alu_keeps
    | with_reducible apply KeepsOut.next | with_reducible apply Keeps.foldl | with_reducible apply KeepsRan.next
    | with_reducible apply KeepsRan.jump | with_reducible apply KeepsRan.halt | with_reducible apply KeepsRan.wait
    | simp only [Keeps.upd_iff, Keeps.upd_evc_iff, Keeps.upd_tbs_iff, Keeps.upd_both_iff] | split
    | with_reducible refine KeepsOpt.get (by assumption) ?_ | with_reducible refine KeepsPair.get (by assumption) ?_
    | dsimp only | intro _

theorem execRemu_keeps {s0 s : State} {n : Voice} (h : Keeps s0 s) :
    KeepsOut s0 (execRemu n s) := by
  unfold execRemu
  repeat' first
    | with_reducible assumption | with_reducible apply live_keeps | with_reducible apply alu_keeps
    | with_reducible apply KeepsOut.next | with_reducible apply Keeps.foldl | with_reducible apply KeepsRan.next
    | with_reducible apply KeepsRan.jump | with_reducible apply KeepsRan.halt | with_reducible apply KeepsRan.wait
    | simp only [Keeps.upd_iff, Keeps.upd_evc_iff, Keeps.upd_tbs_iff, Keeps.upd_both_iff] | split
    | with_reducible refine KeepsOpt.get (by assumption) ?_ | with_reducible refine KeepsPair.get (by assumption) ?_
    | dsimp only | intro _

theorem execRems_keeps {s0 s : State} {n : Voice} (h : Keeps s0 s) :
    KeepsOut s0 (execRems n s) := by
  unfold execRems
  repeat' first
    | with_reducible assumption | with_reducible apply live_keeps | with_reducible apply alu_keeps
    | with_reducible apply KeepsOut.next | with_reducible apply Keeps.foldl | with_reducible apply KeepsRan.next
    | with_reducible apply KeepsRan.jump | with_reducible apply KeepsRan.halt | with_reducible apply KeepsRan.wait
    | simp only [Keeps.upd_iff, Keeps.upd_evc_iff, Keeps.upd_tbs_iff, Keeps.upd_both_iff] | split
    | with_reducible refine KeepsOpt.get (by assumption) ?_ | with_reducible refine KeepsPair.get (by assumption) ?_
    | dsimp only | intro _

theorem execMins_keeps {s0 s : State} {n : Voice} (h : Keeps s0 s) :
    KeepsOut s0 (execMins n s) := by
  unfold execMins
  repeat' first
    | with_reducible assumption | with_reducible apply live_keeps | with_reducible apply alu_keeps
    | with_reducible apply KeepsOut.next | with_reducible apply Keeps.foldl | with_reducible apply KeepsRan.next
    | with_reducible apply KeepsRan.jump | with_reducible apply KeepsRan.halt | with_reducible apply KeepsRan.wait
    | simp only [Keeps.upd_iff, Keeps.upd_evc_iff, Keeps.upd_tbs_iff, Keeps.upd_both_iff] | split
    | with_reducible refine KeepsOpt.get (by assumption) ?_ | with_reducible refine KeepsPair.get (by assumption) ?_
    | dsimp only | intro _

theorem execMaxs_keeps {s0 s : State} {n : Voice} (h : Keeps s0 s) :
    KeepsOut s0 (execMaxs n s) := by
  unfold execMaxs
  repeat' first
    | with_reducible assumption | with_reducible apply live_keeps | with_reducible apply alu_keeps
    | with_reducible apply KeepsOut.next | with_reducible apply Keeps.foldl | with_reducible apply KeepsRan.next
    | with_reducible apply KeepsRan.jump | with_reducible apply KeepsRan.halt | with_reducible apply KeepsRan.wait
    | simp only [Keeps.upd_iff, Keeps.upd_evc_iff, Keeps.upd_tbs_iff, Keeps.upd_both_iff] | split
    | with_reducible refine KeepsOpt.get (by assumption) ?_ | with_reducible refine KeepsPair.get (by assumption) ?_
    | dsimp only | intro _

theorem execMinu_keeps {s0 s : State} {n : Voice} (h : Keeps s0 s) :
    KeepsOut s0 (execMinu n s) := by
  unfold execMinu
  repeat' first
    | with_reducible assumption | with_reducible apply live_keeps | with_reducible apply alu_keeps
    | with_reducible apply KeepsOut.next | with_reducible apply Keeps.foldl | with_reducible apply KeepsRan.next
    | with_reducible apply KeepsRan.jump | with_reducible apply KeepsRan.halt | with_reducible apply KeepsRan.wait
    | simp only [Keeps.upd_iff, Keeps.upd_evc_iff, Keeps.upd_tbs_iff, Keeps.upd_both_iff] | split
    | with_reducible refine KeepsOpt.get (by assumption) ?_ | with_reducible refine KeepsPair.get (by assumption) ?_
    | dsimp only | intro _

theorem execMaxu_keeps {s0 s : State} {n : Voice} (h : Keeps s0 s) :
    KeepsOut s0 (execMaxu n s) := by
  unfold execMaxu
  repeat' first
    | with_reducible assumption | with_reducible apply live_keeps | with_reducible apply alu_keeps
    | with_reducible apply KeepsOut.next | with_reducible apply Keeps.foldl | with_reducible apply KeepsRan.next
    | with_reducible apply KeepsRan.jump | with_reducible apply KeepsRan.halt | with_reducible apply KeepsRan.wait
    | simp only [Keeps.upd_iff, Keeps.upd_evc_iff, Keeps.upd_tbs_iff, Keeps.upd_both_iff] | split
    | with_reducible refine KeepsOpt.get (by assumption) ?_ | with_reducible refine KeepsPair.get (by assumption) ?_
    | dsimp only | intro _

theorem execNeg_keeps {s0 s : State} {n : Voice} (h : Keeps s0 s) :
    KeepsOut s0 (execNeg n s) := by
  unfold execNeg
  repeat' first
    | with_reducible assumption | with_reducible apply live_keeps | with_reducible apply alu_keeps
    | with_reducible apply KeepsOut.next | with_reducible apply Keeps.foldl | with_reducible apply KeepsRan.next
    | with_reducible apply KeepsRan.jump | with_reducible apply KeepsRan.halt | with_reducible apply KeepsRan.wait
    | simp only [Keeps.upd_iff, Keeps.upd_evc_iff, Keeps.upd_tbs_iff, Keeps.upd_both_iff] | split
    | with_reducible refine KeepsOpt.get (by assumption) ?_ | with_reducible refine KeepsPair.get (by assumption) ?_
    | dsimp only | intro _

theorem execAbs_keeps {s0 s : State} {n : Voice} (h : Keeps s0 s) :
    KeepsOut s0 (execAbs n s) := by
  unfold execAbs
  repeat' first
    | with_reducible assumption | with_reducible apply live_keeps | with_reducible apply alu_keeps
    | with_reducible apply KeepsOut.next | with_reducible apply Keeps.foldl | with_reducible apply KeepsRan.next
    | with_reducible apply KeepsRan.jump | with_reducible apply KeepsRan.halt | with_reducible apply KeepsRan.wait
    | simp only [Keeps.upd_iff, Keeps.upd_evc_iff, Keeps.upd_tbs_iff, Keeps.upd_both_iff] | split
    | with_reducible refine KeepsOpt.get (by assumption) ?_ | with_reducible refine KeepsPair.get (by assumption) ?_
    | dsimp only | intro _

theorem execClz_keeps {s0 s : State} {n : Voice} (h : Keeps s0 s) :
    KeepsOut s0 (execClz n s) := by
  unfold execClz
  repeat' first
    | with_reducible assumption | with_reducible apply live_keeps | with_reducible apply alu_keeps
    | with_reducible apply KeepsOut.next | with_reducible apply Keeps.foldl | with_reducible apply KeepsRan.next
    | with_reducible apply KeepsRan.jump | with_reducible apply KeepsRan.halt | with_reducible apply KeepsRan.wait
    | simp only [Keeps.upd_iff, Keeps.upd_evc_iff, Keeps.upd_tbs_iff, Keeps.upd_both_iff] | split
    | with_reducible refine KeepsOpt.get (by assumption) ?_ | with_reducible refine KeepsPair.get (by assumption) ?_
    | dsimp only | intro _

theorem execPopc_keeps {s0 s : State} {n : Voice} (h : Keeps s0 s) :
    KeepsOut s0 (execPopc n s) := by
  unfold execPopc
  repeat' first
    | with_reducible assumption | with_reducible apply live_keeps | with_reducible apply alu_keeps
    | with_reducible apply KeepsOut.next | with_reducible apply Keeps.foldl | with_reducible apply KeepsRan.next
    | with_reducible apply KeepsRan.jump | with_reducible apply KeepsRan.halt | with_reducible apply KeepsRan.wait
    | simp only [Keeps.upd_iff, Keeps.upd_evc_iff, Keeps.upd_tbs_iff, Keeps.upd_both_iff] | split
    | with_reducible refine KeepsOpt.get (by assumption) ?_ | with_reducible refine KeepsPair.get (by assumption) ?_
    | dsimp only | intro _

theorem immediate_keeps {s0 s : State} {n : Voice} {major : ℕ} {f : Word → ℕ → Word} (h : Keeps s0 s) :
    Keeps s0 (immediate n major f s) := by
  unfold immediate
  repeat' first
    | with_reducible assumption | with_reducible apply setReg_keeps | with_reducible apply insn_keeps
    | with_reducible apply Keeps.foldl | with_reducible apply KeepsOpt.getD | with_reducible apply KeepsOpt.of_some
    | with_reducible apply KeepsRan.next | with_reducible apply KeepsRan.jump | with_reducible apply KeepsRan.halt
    | with_reducible apply KeepsRan.wait
    | simp only [Keeps.upd_iff, Keeps.upd_evc_iff, Keeps.upd_tbs_iff, Keeps.upd_both_iff] | split
    | with_reducible refine KeepsOpt.get (by assumption) ?_ | with_reducible refine KeepsPair.get (by assumption) ?_
    | dsimp only | intro _

theorem execAddi_keeps {s0 s : State} {n : Voice} (h : Keeps s0 s) :
    KeepsOut s0 (execAddi n s) := by
  unfold execAddi
  repeat' first
    | with_reducible assumption | with_reducible apply live_keeps | with_reducible apply immediate_keeps
    | with_reducible apply KeepsOut.next | with_reducible apply Keeps.foldl | with_reducible apply KeepsRan.next
    | with_reducible apply KeepsRan.jump | with_reducible apply KeepsRan.halt | with_reducible apply KeepsRan.wait
    | simp only [Keeps.upd_iff, Keeps.upd_evc_iff, Keeps.upd_tbs_iff, Keeps.upd_both_iff] | split
    | with_reducible refine KeepsOpt.get (by assumption) ?_ | with_reducible refine KeepsPair.get (by assumption) ?_
    | dsimp only | intro _

theorem execAndi_keeps {s0 s : State} {n : Voice} (h : Keeps s0 s) :
    KeepsOut s0 (execAndi n s) := by
  unfold execAndi
  repeat' first
    | with_reducible assumption | with_reducible apply live_keeps | with_reducible apply immediate_keeps
    | with_reducible apply KeepsOut.next | with_reducible apply Keeps.foldl | with_reducible apply KeepsRan.next
    | with_reducible apply KeepsRan.jump | with_reducible apply KeepsRan.halt | with_reducible apply KeepsRan.wait
    | simp only [Keeps.upd_iff, Keeps.upd_evc_iff, Keeps.upd_tbs_iff, Keeps.upd_both_iff] | split
    | with_reducible refine KeepsOpt.get (by assumption) ?_ | with_reducible refine KeepsPair.get (by assumption) ?_
    | dsimp only | intro _

theorem execOri_keeps {s0 s : State} {n : Voice} (h : Keeps s0 s) :
    KeepsOut s0 (execOri n s) := by
  unfold execOri
  repeat' first
    | with_reducible assumption | with_reducible apply live_keeps | with_reducible apply immediate_keeps
    | with_reducible apply KeepsOut.next | with_reducible apply Keeps.foldl | with_reducible apply KeepsRan.next
    | with_reducible apply KeepsRan.jump | with_reducible apply KeepsRan.halt | with_reducible apply KeepsRan.wait
    | simp only [Keeps.upd_iff, Keeps.upd_evc_iff, Keeps.upd_tbs_iff, Keeps.upd_both_iff] | split
    | with_reducible refine KeepsOpt.get (by assumption) ?_ | with_reducible refine KeepsPair.get (by assumption) ?_
    | dsimp only | intro _

theorem execXori_keeps {s0 s : State} {n : Voice} (h : Keeps s0 s) :
    KeepsOut s0 (execXori n s) := by
  unfold execXori
  repeat' first
    | with_reducible assumption | with_reducible apply live_keeps | with_reducible apply immediate_keeps
    | with_reducible apply KeepsOut.next | with_reducible apply Keeps.foldl | with_reducible apply KeepsRan.next
    | with_reducible apply KeepsRan.jump | with_reducible apply KeepsRan.halt | with_reducible apply KeepsRan.wait
    | simp only [Keeps.upd_iff, Keeps.upd_evc_iff, Keeps.upd_tbs_iff, Keeps.upd_both_iff] | split
    | with_reducible refine KeepsOpt.get (by assumption) ?_ | with_reducible refine KeepsPair.get (by assumption) ?_
    | dsimp only | intro _

theorem execSlli_keeps {s0 s : State} {n : Voice} (h : Keeps s0 s) :
    KeepsOut s0 (execSlli n s) := by
  unfold execSlli
  repeat' first
    | with_reducible assumption | with_reducible apply live_keeps | with_reducible apply immediate_keeps
    | with_reducible apply KeepsOut.next | with_reducible apply Keeps.foldl | with_reducible apply KeepsRan.next
    | with_reducible apply KeepsRan.jump | with_reducible apply KeepsRan.halt | with_reducible apply KeepsRan.wait
    | simp only [Keeps.upd_iff, Keeps.upd_evc_iff, Keeps.upd_tbs_iff, Keeps.upd_both_iff] | split
    | with_reducible refine KeepsOpt.get (by assumption) ?_ | with_reducible refine KeepsPair.get (by assumption) ?_
    | dsimp only | intro _

theorem execSrli_keeps {s0 s : State} {n : Voice} (h : Keeps s0 s) :
    KeepsOut s0 (execSrli n s) := by
  unfold execSrli
  repeat' first
    | with_reducible assumption | with_reducible apply live_keeps | with_reducible apply immediate_keeps
    | with_reducible apply KeepsOut.next | with_reducible apply Keeps.foldl | with_reducible apply KeepsRan.next
    | with_reducible apply KeepsRan.jump | with_reducible apply KeepsRan.halt | with_reducible apply KeepsRan.wait
    | simp only [Keeps.upd_iff, Keeps.upd_evc_iff, Keeps.upd_tbs_iff, Keeps.upd_both_iff] | split
    | with_reducible refine KeepsOpt.get (by assumption) ?_ | with_reducible refine KeepsPair.get (by assumption) ?_
    | dsimp only | intro _

theorem execSrai_keeps {s0 s : State} {n : Voice} (h : Keeps s0 s) :
    KeepsOut s0 (execSrai n s) := by
  unfold execSrai
  repeat' first
    | with_reducible assumption | with_reducible apply live_keeps | with_reducible apply immediate_keeps
    | with_reducible apply KeepsOut.next | with_reducible apply Keeps.foldl | with_reducible apply KeepsRan.next
    | with_reducible apply KeepsRan.jump | with_reducible apply KeepsRan.halt | with_reducible apply KeepsRan.wait
    | simp only [Keeps.upd_iff, Keeps.upd_evc_iff, Keeps.upd_tbs_iff, Keeps.upd_both_iff] | split
    | with_reducible refine KeepsOpt.get (by assumption) ?_ | with_reducible refine KeepsPair.get (by assumption) ?_
    | dsimp only | intro _

theorem execLui_keeps {s0 s : State} {n : Voice} (h : Keeps s0 s) :
    KeepsOut s0 (execLui n s) := by
  unfold execLui
  repeat' first
    | with_reducible assumption | with_reducible apply live_keeps | with_reducible apply immediate_keeps
    | with_reducible apply KeepsOut.next | with_reducible apply Keeps.foldl | with_reducible apply KeepsRan.next
    | with_reducible apply KeepsRan.jump | with_reducible apply KeepsRan.halt | with_reducible apply KeepsRan.wait
    | simp only [Keeps.upd_iff, Keeps.upd_evc_iff, Keeps.upd_tbs_iff, Keeps.upd_both_iff] | split
    | with_reducible refine KeepsOpt.get (by assumption) ?_ | with_reducible refine KeepsPair.get (by assumption) ?_
    | dsimp only | intro _

theorem cmpInsn_keeps {s0 s : State} {n : Voice} (h : Keeps s0 s) :
    Keeps s0 (cmpInsn n s) := by
  unfold cmpInsn
  repeat' first
    | with_reducible assumption | with_reducible apply setP_keeps | with_reducible apply insn_keeps
    | with_reducible apply Keeps.foldl | with_reducible apply KeepsOpt.getD | with_reducible apply KeepsOpt.of_some
    | with_reducible apply KeepsRan.next | with_reducible apply KeepsRan.jump | with_reducible apply KeepsRan.halt
    | with_reducible apply KeepsRan.wait
    | simp only [Keeps.upd_iff, Keeps.upd_evc_iff, Keeps.upd_tbs_iff, Keeps.upd_both_iff] | split
    | with_reducible refine KeepsOpt.get (by assumption) ?_ | with_reducible refine KeepsPair.get (by assumption) ?_
    | dsimp only | intro _

theorem execCmp_keeps {s0 s : State} {n : Voice} (h : Keeps s0 s) :
    KeepsOut s0 (execCmp n s) := by
  unfold execCmp
  repeat' first
    | with_reducible assumption | with_reducible apply cmpInsn_keeps | with_reducible apply live_keeps
    | with_reducible apply KeepsOut.next | with_reducible apply Keeps.foldl | with_reducible apply KeepsRan.next
    | with_reducible apply KeepsRan.jump | with_reducible apply KeepsRan.halt | with_reducible apply KeepsRan.wait
    | simp only [Keeps.upd_iff, Keeps.upd_evc_iff, Keeps.upd_tbs_iff, Keeps.upd_both_iff] | split
    | with_reducible refine KeepsOpt.get (by assumption) ?_ | with_reducible refine KeepsPair.get (by assumption) ?_
    | dsimp only | intro _

theorem plogInsn_keeps {s0 s : State} {n : Voice} (h : Keeps s0 s) :
    Keeps s0 (plogInsn n s) := by
  unfold plogInsn
  repeat' first
    | with_reducible assumption | with_reducible apply setP_keeps | with_reducible apply insn_keeps
    | with_reducible apply Keeps.foldl | with_reducible apply KeepsOpt.getD | with_reducible apply KeepsOpt.of_some
    | with_reducible apply KeepsRan.next | with_reducible apply KeepsRan.jump | with_reducible apply KeepsRan.halt
    | with_reducible apply KeepsRan.wait | dsimp only | split | with_reducible refine KeepsOpt.get (by assumption) ?_
    | with_reducible refine KeepsPair.get (by assumption) ?_ | intro _

theorem execPlog_keeps {s0 s : State} {n : Voice} (h : Keeps s0 s) :
    KeepsOut s0 (execPlog n s) := by
  unfold execPlog
  repeat' first
    | with_reducible assumption | with_reducible apply live_keeps | with_reducible apply plogInsn_keeps
    | with_reducible apply KeepsOut.next | with_reducible apply Keeps.foldl | with_reducible apply KeepsRan.next
    | with_reducible apply KeepsRan.jump | with_reducible apply KeepsRan.halt | with_reducible apply KeepsRan.wait
    | simp only [Keeps.upd_iff, Keeps.upd_evc_iff, Keeps.upd_tbs_iff, Keeps.upd_both_iff] | split
    | with_reducible refine KeepsOpt.get (by assumption) ?_ | with_reducible refine KeepsPair.get (by assumption) ?_
    | dsimp only | intro _

theorem execBr_keeps {s0 s : State} {n : Voice} (h : Keeps s0 s) :
    KeepsOut s0 (execBr n s) := by
  unfold execBr
  repeat' first
    | with_reducible assumption | with_reducible apply live_keeps | with_reducible apply insn_keeps
    | with_reducible apply KeepsOut.next | with_reducible apply Keeps.foldl | with_reducible apply KeepsRan.next
    | with_reducible apply KeepsRan.jump | with_reducible apply KeepsRan.halt | with_reducible apply KeepsRan.wait
    | simp only [Keeps.upd_iff, Keeps.upd_evc_iff, Keeps.upd_tbs_iff, Keeps.upd_both_iff] | split
    | with_reducible refine KeepsOpt.get (by assumption) ?_ | with_reducible refine KeepsPair.get (by assumption) ?_
    | dsimp only | intro _

theorem execJal_keeps {s0 s : State} {n : Voice} (h : Keeps s0 s) :
    KeepsOut s0 (execJal n s) := by
  unfold execJal
  repeat' first
    | with_reducible assumption | with_reducible apply setReg_keeps | with_reducible apply live_keeps
    | with_reducible apply insn_keeps | with_reducible apply KeepsOut.next | with_reducible apply Keeps.foldl
    | with_reducible apply KeepsRan.next | with_reducible apply KeepsRan.jump | with_reducible apply KeepsRan.halt
    | with_reducible apply KeepsRan.wait | dsimp only | split | with_reducible refine KeepsOpt.get (by assumption) ?_
    | with_reducible refine KeepsPair.get (by assumption) ?_ | intro _

theorem execSysNop_keeps {s0 s : State} {n : Voice} (h : Keeps s0 s) :
    KeepsOut s0 (execSysNop n s) := by
  unfold execSysNop
  repeat' first
    | with_reducible assumption | with_reducible apply live_keeps | with_reducible apply insn_keeps
    | with_reducible apply KeepsOut.next | with_reducible apply Keeps.foldl | with_reducible apply KeepsRan.next
    | with_reducible apply KeepsRan.jump | with_reducible apply KeepsRan.halt | with_reducible apply KeepsRan.wait
    | simp only [Keeps.upd_iff, Keeps.upd_evc_iff, Keeps.upd_tbs_iff, Keeps.upd_both_iff] | split
    | with_reducible refine KeepsOpt.get (by assumption) ?_ | with_reducible refine KeepsPair.get (by assumption) ?_
    | dsimp only | intro _

theorem stopVoice_keeps {s0 s : State} {n : Voice} (h : Keeps s0 s) :
    Keeps s0 (stopVoice n s) := by
  unfold stopVoice
  repeat' first
    | with_reducible assumption | with_reducible apply follow_keeps | with_reducible apply endSet_keeps
    | with_reducible apply releaseBar_keeps | with_reducible apply signalDone_keeps
    | with_reducible apply toIdle_keeps | with_reducible apply setVoice_keeps | with_reducible apply Keeps.foldl
    | with_reducible apply KeepsOpt.getD | with_reducible apply KeepsOpt.of_some | with_reducible apply KeepsRan.next
    | with_reducible apply KeepsRan.jump | with_reducible apply KeepsRan.halt | with_reducible apply KeepsRan.wait
    | dsimp only | split

theorem execStop_keeps {s0 s : State} {n : Voice} (h : Keeps s0 s) :
    KeepsOut s0 (execStop n s) := by
  unfold execStop
  repeat' first
    | with_reducible assumption | with_reducible apply stopVoice_keeps | with_reducible apply live_keeps
    | with_reducible apply insn_keeps | with_reducible apply KeepsOut.next | with_reducible apply Keeps.foldl
    | with_reducible apply KeepsRan.next | with_reducible apply KeepsRan.jump | with_reducible apply KeepsRan.halt
    | with_reducible apply KeepsRan.wait
    | simp only [Keeps.upd_iff, Keeps.upd_evc_iff, Keeps.upd_tbs_iff, Keeps.upd_both_iff] | split
    | with_reducible refine KeepsOpt.get (by assumption) ?_ | with_reducible refine KeepsPair.get (by assumption) ?_
    | dsimp only | intro _

theorem execJalr_keeps {s0 s : State} {n : Voice} (h : Keeps s0 s) :
    KeepsOut s0 (execJalr n s) := by
  unfold execJalr
  repeat' first
    | with_reducible assumption | with_reducible apply setReg_keeps | with_reducible apply live_keeps
    | with_reducible apply insn_keeps | with_reducible apply KeepsOut.next | with_reducible apply Keeps.foldl
    | with_reducible apply KeepsRan.next | with_reducible apply KeepsRan.jump | with_reducible apply KeepsRan.halt
    | with_reducible apply KeepsRan.wait
    | simp only [Keeps.upd_iff, Keeps.upd_evc_iff, Keeps.upd_tbs_iff, Keeps.upd_both_iff] | split
    | with_reducible refine KeepsOpt.get (by assumption) ?_ | with_reducible refine KeepsPair.get (by assumption) ?_
    | dsimp only | intro _

theorem execRdsr_keeps {s0 s : State} {n : Voice} (h : Keeps s0 s) :
    KeepsOut s0 (execRdsr n s) := by
  unfold execRdsr
  repeat' first
    | with_reducible assumption | with_reducible apply setReg_keeps | with_reducible apply live_keeps
    | with_reducible apply insn_keeps | with_reducible apply KeepsOut.next | with_reducible apply Keeps.foldl
    | with_reducible apply KeepsRan.next | with_reducible apply KeepsRan.jump | with_reducible apply KeepsRan.halt
    | with_reducible apply KeepsRan.wait
    | simp only [Keeps.upd_iff, Keeps.upd_evc_iff, Keeps.upd_tbs_iff, Keeps.upd_both_iff] | split
    | with_reducible refine KeepsOpt.get (by assumption) ?_ | with_reducible refine KeepsPair.get (by assumption) ?_
    | dsimp only | intro _

theorem execWrpr_keeps {s0 s : State} {n : Voice} (h : Keeps s0 s) :
    KeepsOut s0 (execWrpr n s) := by
  unfold execWrpr
  repeat' first
    | with_reducible assumption | with_reducible apply live_keeps | with_reducible apply insn_keeps
    | with_reducible apply setVoice_keeps | with_reducible apply KeepsOut.next | with_reducible apply Keeps.foldl
    | with_reducible apply KeepsRan.next | with_reducible apply KeepsRan.jump | with_reducible apply KeepsRan.halt
    | with_reducible apply KeepsRan.wait | dsimp only | split | with_reducible refine KeepsOpt.get (by assumption) ?_
    | with_reducible refine KeepsPair.get (by assumption) ?_ | intro _

theorem loadInsn_keeps {s0 s : State} {n : Voice} {major : ℕ} {z : ℕ} {ext : ℕ → Word} {ecc : Ecc} (h : Keeps s0 s) :
    Keeps s0 (loadInsn n major z ext ecc s) := by
  unfold loadInsn
  repeat' first
    | with_reducible assumption | with_reducible apply loadBytes_keeps | with_reducible apply setReg_keeps
    | with_reducible apply insn_keeps | with_reducible apply Keeps.foldl | with_reducible apply KeepsOpt.getD
    | with_reducible apply KeepsOpt.of_some | with_reducible apply KeepsRan.next | with_reducible apply KeepsRan.jump
    | with_reducible apply KeepsRan.halt | with_reducible apply KeepsRan.wait
    | simp only [Keeps.upd_iff, Keeps.upd_evc_iff, Keeps.upd_tbs_iff, Keeps.upd_both_iff] | split
    | with_reducible refine KeepsOpt.get (by assumption) ?_ | with_reducible refine KeepsPair.get (by assumption) ?_
    | dsimp only | intro _

theorem storeInsn_keeps {s0 s : State} {n : Voice} {major : ℕ} {z : ℕ} (h : Keeps s0 s) :
    Keeps s0 (storeInsn n major z s) := by
  unfold storeInsn
  repeat' first
    | with_reducible assumption | with_reducible apply storeBytes_keeps | with_reducible apply insn_keeps
    | with_reducible apply Keeps.foldl | with_reducible apply KeepsOpt.getD | with_reducible apply KeepsOpt.of_some
    | with_reducible apply KeepsRan.next | with_reducible apply KeepsRan.jump | with_reducible apply KeepsRan.halt
    | with_reducible apply KeepsRan.wait
    | simp only [Keeps.upd_iff, Keeps.upd_evc_iff, Keeps.upd_tbs_iff, Keeps.upd_both_iff] | split
    | with_reducible refine KeepsOpt.get (by assumption) ?_ | with_reducible refine KeepsPair.get (by assumption) ?_
    | dsimp only | intro _

theorem execLdb_keeps {s0 s : State} {n : Voice} {ecc : Ecc} (h : Keeps s0 s) :
    KeepsOut s0 (execLdb n ecc s) := by
  unfold execLdb
  repeat' first
    | with_reducible assumption | with_reducible apply loadInsn_keeps | with_reducible apply live_keeps
    | with_reducible apply KeepsOut.next | with_reducible apply Keeps.foldl | with_reducible apply KeepsRan.next
    | with_reducible apply KeepsRan.jump | with_reducible apply KeepsRan.halt | with_reducible apply KeepsRan.wait
    | simp only [Keeps.upd_iff, Keeps.upd_evc_iff, Keeps.upd_tbs_iff, Keeps.upd_both_iff] | split
    | with_reducible refine KeepsOpt.get (by assumption) ?_ | with_reducible refine KeepsPair.get (by assumption) ?_
    | dsimp only | intro _

theorem execLdbu_keeps {s0 s : State} {n : Voice} {ecc : Ecc} (h : Keeps s0 s) :
    KeepsOut s0 (execLdbu n ecc s) := by
  unfold execLdbu
  repeat' first
    | with_reducible assumption | with_reducible apply loadInsn_keeps | with_reducible apply live_keeps
    | with_reducible apply KeepsOut.next | with_reducible apply Keeps.foldl | with_reducible apply KeepsRan.next
    | with_reducible apply KeepsRan.jump | with_reducible apply KeepsRan.halt | with_reducible apply KeepsRan.wait
    | simp only [Keeps.upd_iff, Keeps.upd_evc_iff, Keeps.upd_tbs_iff, Keeps.upd_both_iff] | split
    | with_reducible refine KeepsOpt.get (by assumption) ?_ | with_reducible refine KeepsPair.get (by assumption) ?_
    | dsimp only | intro _

theorem execLdh_keeps {s0 s : State} {n : Voice} {ecc : Ecc} (h : Keeps s0 s) :
    KeepsOut s0 (execLdh n ecc s) := by
  unfold execLdh
  repeat' first
    | with_reducible assumption | with_reducible apply loadInsn_keeps | with_reducible apply live_keeps
    | with_reducible apply KeepsOut.next | with_reducible apply Keeps.foldl | with_reducible apply KeepsRan.next
    | with_reducible apply KeepsRan.jump | with_reducible apply KeepsRan.halt | with_reducible apply KeepsRan.wait
    | simp only [Keeps.upd_iff, Keeps.upd_evc_iff, Keeps.upd_tbs_iff, Keeps.upd_both_iff] | split
    | with_reducible refine KeepsOpt.get (by assumption) ?_ | with_reducible refine KeepsPair.get (by assumption) ?_
    | dsimp only | intro _

theorem execLdhu_keeps {s0 s : State} {n : Voice} {ecc : Ecc} (h : Keeps s0 s) :
    KeepsOut s0 (execLdhu n ecc s) := by
  unfold execLdhu
  repeat' first
    | with_reducible assumption | with_reducible apply loadInsn_keeps | with_reducible apply live_keeps
    | with_reducible apply KeepsOut.next | with_reducible apply Keeps.foldl | with_reducible apply KeepsRan.next
    | with_reducible apply KeepsRan.jump | with_reducible apply KeepsRan.halt | with_reducible apply KeepsRan.wait
    | simp only [Keeps.upd_iff, Keeps.upd_evc_iff, Keeps.upd_tbs_iff, Keeps.upd_both_iff] | split
    | with_reducible refine KeepsOpt.get (by assumption) ?_ | with_reducible refine KeepsPair.get (by assumption) ?_
    | dsimp only | intro _

theorem execLdw_keeps {s0 s : State} {n : Voice} {ecc : Ecc} (h : Keeps s0 s) :
    KeepsOut s0 (execLdw n ecc s) := by
  unfold execLdw
  repeat' first
    | with_reducible assumption | with_reducible apply loadInsn_keeps | with_reducible apply live_keeps
    | with_reducible apply KeepsOut.next | with_reducible apply Keeps.foldl | with_reducible apply KeepsRan.next
    | with_reducible apply KeepsRan.jump | with_reducible apply KeepsRan.halt | with_reducible apply KeepsRan.wait
    | simp only [Keeps.upd_iff, Keeps.upd_evc_iff, Keeps.upd_tbs_iff, Keeps.upd_both_iff] | split
    | with_reducible refine KeepsOpt.get (by assumption) ?_ | with_reducible refine KeepsPair.get (by assumption) ?_
    | dsimp only | intro _

theorem execStb_keeps {s0 s : State} {n : Voice} (h : Keeps s0 s) :
    KeepsOut s0 (execStb n s) := by
  unfold execStb
  repeat' first
    | with_reducible assumption | with_reducible apply storeInsn_keeps | with_reducible apply live_keeps
    | with_reducible apply KeepsOut.next | with_reducible apply Keeps.foldl | with_reducible apply KeepsRan.next
    | with_reducible apply KeepsRan.jump | with_reducible apply KeepsRan.halt | with_reducible apply KeepsRan.wait
    | simp only [Keeps.upd_iff, Keeps.upd_evc_iff, Keeps.upd_tbs_iff, Keeps.upd_both_iff] | split
    | with_reducible refine KeepsOpt.get (by assumption) ?_ | with_reducible refine KeepsPair.get (by assumption) ?_
    | dsimp only | intro _

theorem execSth_keeps {s0 s : State} {n : Voice} (h : Keeps s0 s) :
    KeepsOut s0 (execSth n s) := by
  unfold execSth
  repeat' first
    | with_reducible assumption | with_reducible apply storeInsn_keeps | with_reducible apply live_keeps
    | with_reducible apply KeepsOut.next | with_reducible apply Keeps.foldl | with_reducible apply KeepsRan.next
    | with_reducible apply KeepsRan.jump | with_reducible apply KeepsRan.halt | with_reducible apply KeepsRan.wait
    | simp only [Keeps.upd_iff, Keeps.upd_evc_iff, Keeps.upd_tbs_iff, Keeps.upd_both_iff] | split
    | with_reducible refine KeepsOpt.get (by assumption) ?_ | with_reducible refine KeepsPair.get (by assumption) ?_
    | dsimp only | intro _

theorem execStw_keeps {s0 s : State} {n : Voice} (h : Keeps s0 s) :
    KeepsOut s0 (execStw n s) := by
  unfold execStw
  repeat' first
    | with_reducible assumption | with_reducible apply storeInsn_keeps | with_reducible apply live_keeps
    | with_reducible apply KeepsOut.next | with_reducible apply Keeps.foldl | with_reducible apply KeepsRan.next
    | with_reducible apply KeepsRan.jump | with_reducible apply KeepsRan.halt | with_reducible apply KeepsRan.wait
    | simp only [Keeps.upd_iff, Keeps.upd_evc_iff, Keeps.upd_tbs_iff, Keeps.upd_both_iff] | split
    | with_reducible refine KeepsOpt.get (by assumption) ?_ | with_reducible refine KeepsPair.get (by assumption) ?_
    | dsimp only | intro _

theorem setTile_keeps {s0 s : State} {n : Voice} {t2 : Fin 16} {x2 : Tile} (h : Keeps s0 s) :
    Keeps s0 (setTile n t2 x2 s) := by
  unfold setTile
  repeat' first
    | with_reducible assumption | with_reducible apply setVoice_keeps

theorem fillVals_keeps {s0 s : State} {n : Voice} {d : Fin 16} {f : ℕ → ℕ → ℕ × Bool} (h : Keeps s0 s) :
    Keeps s0 (fillVals n d f s) := by
  unfold fillVals
  repeat' first
    | with_reducible assumption | with_reducible apply setSat_keeps | with_reducible apply setTile_keeps

theorem needLive_keeps {s0 s : State} {n : Voice} {ts : List (Fin 16)} {k : State → Ran}
    (k_keeps : ∀ t, Keeps s0 t → KeepsRan s0 (k t)) (h : Keeps s0 s) :
    KeepsRan s0 (needLive n ts k s) := by
  unfold needLive
  repeat' first
    | with_reducible assumption | with_reducible apply k_keeps | with_reducible apply KeepsRan.next
    | with_reducible apply KeepsRan.jump | with_reducible apply KeepsRan.halt | with_reducible apply KeepsRan.wait
    | with_reducible apply Keeps.foldl
    | simp only [Keeps.upd_iff, Keeps.upd_evc_iff, Keeps.upd_tbs_iff, Keeps.upd_both_iff] | split

theorem needShape_keeps {s0 s : State} {cs : List (Bool × ℕ × ℕ)} {k : State → Ran}
    (k_keeps : ∀ t, Keeps s0 t → KeepsRan s0 (k t)) (h : Keeps s0 s) :
    KeepsRan s0 (needShape cs k s) := by
  unfold needShape
  repeat' first
    | with_reducible assumption | with_reducible apply k_keeps | with_reducible apply KeepsRan.next
    | with_reducible apply KeepsRan.jump | with_reducible apply KeepsRan.halt | with_reducible apply KeepsRan.wait
    | with_reducible apply Keeps.foldl
    | simp only [Keeps.upd_iff, Keeps.upd_evc_iff, Keeps.upd_tbs_iff, Keeps.upd_both_iff] | split

theorem haltCount_keeps {s0 s : State} (h : Keeps s0 s) :
    KeepsRan s0 (haltCount s) := by
  unfold haltCount
  repeat' first
    | with_reducible assumption | with_reducible apply KeepsRan.next | with_reducible apply KeepsRan.jump
    | with_reducible apply KeepsRan.halt | with_reducible apply KeepsRan.wait | with_reducible apply Keeps.foldl
    | simp only [Keeps.upd_iff]

theorem setAcc_keeps {s0 s : State} {n : Voice} {a : Fin 4} {x2 : Accum} (h : Keeps s0 s) :
    Keeps s0 (setAcc n a x2 s) := by
  unfold setAcc
  repeat' first
    | with_reducible assumption | with_reducible apply setVoice_keeps

theorem execTcfg_keeps {s0 s : State} {n : Voice} (h : Keeps s0 s) :
    KeepsOut s0 (execTcfg n s) := by
  unfold execTcfg
  repeat' first
    | with_reducible assumption | with_reducible apply live_keeps | with_reducible apply setTile_keeps
    | with_reducible apply insn_keeps | with_reducible apply KeepsOut.next | with_reducible apply Keeps.foldl
    | with_reducible apply KeepsRan.next | with_reducible apply KeepsRan.jump | with_reducible apply KeepsRan.halt
    | with_reducible apply KeepsRan.wait | dsimp only | split | with_reducible refine KeepsOpt.get (by assumption) ?_
    | with_reducible refine KeepsPair.get (by assumption) ?_ | intro _

theorem execTrel_keeps {s0 s : State} {n : Voice} (h : Keeps s0 s) :
    KeepsOut s0 (execTrel n s) := by
  unfold execTrel
  repeat' first
    | with_reducible assumption | with_reducible apply setAcc_keeps | with_reducible apply live_keeps
    | with_reducible apply setTile_keeps | with_reducible apply insn_keeps | with_reducible apply KeepsOut.next
    | with_reducible apply Keeps.foldl | with_reducible apply KeepsRan.next | with_reducible apply KeepsRan.jump
    | with_reducible apply KeepsRan.halt | with_reducible apply KeepsRan.wait | dsimp only | split
    | with_reducible refine KeepsOpt.get (by assumption) ?_ | with_reducible refine KeepsPair.get (by assumption) ?_
    | intro _

theorem readRows_keeps {s0 s : State} {n : Voice} {len : ℕ} {a : List ℕ} {a4 : Ecc} {a5 : List Byte}
    {a7 : List Byte → State → Ran} (h : Keeps s0 s) (a7_keeps : ∀ y0 t, Keeps s0 t → KeepsRan s0 (a7 y0 t)) :
    KeepsRan s0 (readRows n len a a4 a5 s a7) := by
  unfold readRows
  repeat' first
    | with_reducible assumption | with_reducible apply a7_keeps | with_reducible apply haltUe_keeps
    | with_reducible apply readMem_keeps | with_reducible apply KeepsRan.next | with_reducible apply KeepsRan.jump
    | with_reducible apply KeepsRan.halt | with_reducible apply KeepsRan.wait | with_reducible apply Keeps.foldl
    | with_reducible apply readRows_keeps
    | simp only [Keeps.upd_iff, Keeps.upd_evc_iff, Keeps.upd_tbs_iff, Keeps.upd_both_iff] | split
    | with_reducible refine KeepsOpt.get (by assumption) ?_ | with_reducible refine KeepsPair.get (by assumption) ?_

theorem needRows_keeps {s0 s : State} {n : Voice} {store : Bool} {as : List ℕ} {len : ℕ} {k : State → Ran}
    (k_keeps : ∀ t, Keeps s0 t → KeepsRan s0 (k t)) (h : Keeps s0 s) :
    KeepsRan s0 (needRows n store as len k s) := by
  unfold needRows
  repeat' first
    | with_reducible assumption | with_reducible apply k_keeps | with_reducible apply haltOutside_keeps
    | with_reducible apply withSections_keeps | with_reducible apply stripGate_keeps
    | with_reducible apply KeepsRan.next | with_reducible apply KeepsRan.jump | with_reducible apply KeepsRan.halt
    | with_reducible apply KeepsRan.wait | with_reducible apply Keeps.foldl
    | simp only [Keeps.upd_iff, Keeps.upd_evc_iff, Keeps.upd_tbs_iff, Keeps.upd_both_iff] | split
    | with_reducible refine KeepsOpt.get (by assumption) ?_ | with_reducible refine KeepsPair.get (by assumption) ?_
    | dsimp only | intro _

theorem execTld_keeps {s0 s : State} {n : Voice} {ecc : Ecc} (h : Keeps s0 s) :
    KeepsOut s0 (execTld n ecc s) := by
  unfold execTld
  repeat' first
    | with_reducible assumption | with_reducible apply needRows_keeps | with_reducible apply live_keeps
    | with_reducible apply setTile_keeps | with_reducible apply needLive_keeps | with_reducible apply insn_keeps
    | with_reducible apply readRows_keeps | with_reducible apply KeepsOut.next | with_reducible apply Keeps.foldl
    | with_reducible apply KeepsRan.next | with_reducible apply KeepsRan.jump | with_reducible apply KeepsRan.halt
    | with_reducible apply KeepsRan.wait | dsimp only | split | with_reducible refine KeepsOpt.get (by assumption) ?_
    | with_reducible refine KeepsPair.get (by assumption) ?_ | intro _

theorem writeRows_keeps {s0 s : State} {n : Voice} {a : List (ℕ × List Byte)} {a3 : State → Ran}
    (a3_keeps : ∀ t, Keeps s0 t → KeepsRan s0 (a3 t)) (h : Keeps s0 s) :
    KeepsRan s0 (writeRows n a a3 s) := by
  unfold writeRows
  repeat' first
    | with_reducible assumption | with_reducible apply a3_keeps | with_reducible apply putBytes_keeps
    | with_reducible apply KeepsRan.next | with_reducible apply KeepsRan.jump | with_reducible apply KeepsRan.halt
    | with_reducible apply KeepsRan.wait | with_reducible apply Keeps.foldl | with_reducible apply writeRows_keeps
    | simp only [Keeps.upd_iff, Keeps.upd_evc_iff, Keeps.upd_tbs_iff, Keeps.upd_both_iff] | split
    | with_reducible refine KeepsOpt.get (by assumption) ?_ | with_reducible refine KeepsPair.get (by assumption) ?_
    | dsimp only | intro _

theorem execTst_keeps {s0 s : State} {n : Voice} (h : Keeps s0 s) :
    KeepsOut s0 (execTst n s) := by
  unfold execTst
  repeat' first
    | with_reducible assumption | with_reducible apply needRows_keeps | with_reducible apply writeRows_keeps
    | with_reducible apply live_keeps | with_reducible apply needLive_keeps | with_reducible apply insn_keeps
    | with_reducible apply KeepsOut.next | with_reducible apply Keeps.foldl | with_reducible apply KeepsRan.next
    | with_reducible apply KeepsRan.jump | with_reducible apply KeepsRan.halt | with_reducible apply KeepsRan.wait
    | dsimp only | split | with_reducible refine KeepsOpt.get (by assumption) ?_
    | with_reducible refine KeepsPair.get (by assumption) ?_ | intro _

theorem setSc_keeps {s0 s : State} {n : Voice} {i : ℕ} {x2 : BitVec 16} (h : Keeps s0 s) :
    Keeps s0 (setSc n i x2 s) := by
  unfold setSc
  repeat' first
    | with_reducible assumption | with_reducible apply setVoice_keeps

theorem execScld_keeps {s0 s : State} {n : Voice} {ecc : Ecc} (h : Keeps s0 s) :
    KeepsOut s0 (execScld n ecc s) := by
  unfold execScld
  repeat' first
    | with_reducible assumption | with_reducible apply loadBytes_keeps | with_reducible apply live_keeps
    | with_reducible apply haltCount_keeps | with_reducible apply setSc_keeps | with_reducible apply insn_keeps
    | with_reducible apply KeepsOut.next | with_reducible apply Keeps.foldl | with_reducible apply KeepsRan.next
    | with_reducible apply KeepsRan.jump | with_reducible apply KeepsRan.halt | with_reducible apply KeepsRan.wait
    | dsimp only | split | with_reducible refine KeepsOpt.get (by assumption) ?_
    | with_reducible refine KeepsPair.get (by assumption) ?_ | intro _

theorem execTrda_keeps {s0 s : State} {n : Voice} (h : Keeps s0 s) :
    KeepsOut s0 (execTrda n s) := by
  unfold execTrda
  repeat' first
    | with_reducible assumption | with_reducible apply needShape_keeps | with_reducible apply live_keeps
    | with_reducible apply fillVals_keeps | with_reducible apply needLive_keeps | with_reducible apply insn_keeps
    | with_reducible apply KeepsOut.next | with_reducible apply Keeps.foldl | with_reducible apply KeepsRan.next
    | with_reducible apply KeepsRan.jump | with_reducible apply KeepsRan.halt | with_reducible apply KeepsRan.wait
    | dsimp only | split | with_reducible refine KeepsOpt.get (by assumption) ?_
    | with_reducible refine KeepsPair.get (by assumption) ?_ | intro _

theorem withArray_keeps {s0 s : State} {n : Voice} {k : State → Ran} (k_keeps : ∀ t, Keeps s0 t → KeepsRan s0 (k t))
    (h : Keeps s0 s) :
    KeepsRan s0 (withArray n k s) := by
  unfold withArray
  repeat' first
    | with_reducible assumption | with_reducible apply k_keeps | with_reducible apply request_keeps
    | with_reducible apply countVoice_keeps | with_reducible apply KeepsRan.next | with_reducible apply KeepsRan.jump
    | with_reducible apply KeepsRan.halt | with_reducible apply KeepsRan.wait | with_reducible apply Keeps.foldl
    | simp only [Keeps.upd_iff, Keeps.upd_evc_iff, Keeps.upd_tbs_iff, Keeps.upd_both_iff] | split

theorem useLatches_keeps {s0 s : State} {n : Voice} {x1 : Fin 16} {w : Fin 16} (h : Keeps s0 s) :
    Keeps s0 (useLatches n x1 w s) := by
  unfold useLatches
  repeat' first
    | with_reducible assumption | with_reducible apply countVoice_keeps

theorem tmmaGo_keeps {s0 s : State} {n : Voice} {w : ℕ} (h : Keeps s0 s) :
    KeepsRan s0 (tmmaGo n w s) := by
  unfold tmmaGo
  repeat' first
    | with_reducible assumption | with_reducible apply useLatches_keeps | with_reducible apply setSat_keeps
    | with_reducible apply withArray_keeps | with_reducible apply setAcc_keeps | with_reducible apply needShape_keeps
    | with_reducible apply needLive_keeps | with_reducible apply KeepsRan.next | with_reducible apply KeepsRan.jump
    | with_reducible apply KeepsRan.halt | with_reducible apply KeepsRan.wait | with_reducible apply Keeps.foldl
    | dsimp only | split | with_reducible refine KeepsOpt.get (by assumption) ?_
    | with_reducible refine KeepsPair.get (by assumption) ?_ | intro _

theorem compare_keeps {s0 s : State} {n : Voice} {r : CmpReport} (h : Keeps s0 s) :
    KeepsOpt s0 (compare n r s) := by
  unfold compare
  repeat' first
    | with_reducible assumption | with_reducible apply plainClock_keeps | with_reducible apply KeepsOpt.of_none
    | with_reducible apply KeepsOpt.of_some | with_reducible apply KeepsOpt.map | with_reducible apply KeepsOpt.orElse
    | with_reducible apply Keeps.foldl | with_reducible apply KeepsRan.next | with_reducible apply KeepsRan.jump
    | with_reducible apply KeepsRan.halt | with_reducible apply KeepsRan.wait
    | simp only [Keeps.upd_iff, Keeps.upd_evc_iff, Keeps.upd_tbs_iff, Keeps.upd_both_iff] | split

theorem execTmma_keeps {s0 s : State} {n : Voice} {r : CmpReport} (h : Keeps s0 s) :
    KeepsOut s0 (execTmma n r s) := by
  unfold execTmma
  repeat' first
    | with_reducible assumption | with_reducible apply compare_keeps | with_reducible apply tmmaGo_keeps
    | with_reducible apply live_keeps | with_reducible apply insn_keeps | with_reducible apply KeepsOut.next
    | with_reducible apply Keeps.foldl | with_reducible apply KeepsRan.next | with_reducible apply KeepsRan.jump
    | with_reducible apply KeepsRan.halt | with_reducible apply KeepsRan.wait
    | simp only [Keeps.upd_iff, Keeps.upd_evc_iff, Keeps.upd_tbs_iff, Keeps.upd_both_iff] | split
    | with_reducible refine KeepsOpt.get (by assumption) ?_ | with_reducible refine KeepsPair.get (by assumption) ?_
    | dsimp only | intro _

theorem execTsacc_keeps {s0 s : State} {n : Voice} (h : Keeps s0 s) :
    KeepsOut s0 (execTsacc n s) := by
  unfold execTsacc
  repeat' first
    | with_reducible assumption | with_reducible apply setSat_keeps | with_reducible apply setAcc_keeps
    | with_reducible apply needShape_keeps | with_reducible apply live_keeps | with_reducible apply haltCount_keeps
    | with_reducible apply insn_keeps | with_reducible apply KeepsOut.next | with_reducible apply Keeps.foldl
    | with_reducible apply KeepsRan.next | with_reducible apply KeepsRan.jump | with_reducible apply KeepsRan.halt
    | with_reducible apply KeepsRan.wait | dsimp only | split | with_reducible refine KeepsOpt.get (by assumption) ?_
    | with_reducible refine KeepsPair.get (by assumption) ?_ | intro _

theorem execTout_keeps {s0 s : State} {n : Voice} {ecc : Ecc} (h : Keeps s0 s) :
    KeepsOut s0 (execTout n ecc s) := by
  unfold execTout
  repeat' first
    | with_reducible assumption | with_reducible apply loadBytes_keeps | with_reducible apply setSat_keeps
    | with_reducible apply setAcc_keeps | with_reducible apply needShape_keeps | with_reducible apply live_keeps
    | with_reducible apply needLive_keeps | with_reducible apply insn_keeps | with_reducible apply KeepsOut.next
    | with_reducible apply Keeps.foldl | with_reducible apply KeepsRan.next | with_reducible apply KeepsRan.jump
    | with_reducible apply KeepsRan.halt | with_reducible apply KeepsRan.wait | dsimp only | split
    | with_reducible refine KeepsOpt.get (by assumption) ?_ | with_reducible refine KeepsPair.get (by assumption) ?_
    | intro _

theorem tdqGo_keeps {s0 s : State} {n : Voice} {w : ℕ} {packet : Option (List Byte)} (h : Keeps s0 s) :
    KeepsRan s0 (tdqGo n w packet s) := by
  unfold tdqGo
  repeat' first
    | with_reducible assumption | with_reducible apply needShape_keeps | with_reducible apply fillVals_keeps
    | with_reducible apply KeepsRan.next | with_reducible apply KeepsRan.jump | with_reducible apply KeepsRan.halt
    | with_reducible apply KeepsRan.wait | with_reducible apply Keeps.foldl | dsimp only | split
    | with_reducible refine KeepsOpt.get (by assumption) ?_ | with_reducible refine KeepsPair.get (by assumption) ?_
    | intro _

theorem execTdq_keeps {s0 s : State} {n : Voice} {ecc : Ecc} (h : Keeps s0 s) :
    KeepsOut s0 (execTdq n ecc s) := by
  unfold execTdq
  repeat' first
    | with_reducible assumption | with_reducible apply loadBytes_keeps | with_reducible apply tdqGo_keeps
    | with_reducible apply needShape_keeps | with_reducible apply live_keeps | with_reducible apply needLive_keeps
    | with_reducible apply insn_keeps | with_reducible apply KeepsOut.next | with_reducible apply Keeps.foldl
    | with_reducible apply KeepsRan.next | with_reducible apply KeepsRan.jump | with_reducible apply KeepsRan.halt
    | with_reducible apply KeepsRan.wait | dsimp only | split | with_reducible refine KeepsOpt.get (by assumption) ?_
    | with_reducible refine KeepsPair.get (by assumption) ?_ | intro _

theorem execTq_keeps {s0 s : State} {n : Voice} (h : Keeps s0 s) :
    KeepsOut s0 (execTq n s) := by
  unfold execTq
  repeat' first
    | with_reducible assumption | with_reducible apply needShape_keeps | with_reducible apply live_keeps
    | with_reducible apply fillVals_keeps | with_reducible apply needLive_keeps | with_reducible apply insn_keeps
    | with_reducible apply KeepsOut.next | with_reducible apply Keeps.foldl | with_reducible apply KeepsRan.next
    | with_reducible apply KeepsRan.jump | with_reducible apply KeepsRan.halt | with_reducible apply KeepsRan.wait
    | dsimp only | split | with_reducible refine KeepsOpt.get (by assumption) ?_
    | with_reducible refine KeepsPair.get (by assumption) ?_ | intro _

theorem tewBinary_keeps {s0 s : State} {n : Voice} {minor : ℕ} {m : Broadcast} {f : Fl → Fl → Fl} (h : Keeps s0 s) :
    Keeps s0 (tewBinary n minor m f s) := by
  unfold tewBinary
  repeat' first
    | with_reducible assumption | with_reducible apply needShape_keeps | with_reducible apply fillVals_keeps
    | with_reducible apply needLive_keeps | with_reducible apply insn_keeps | with_reducible apply Keeps.foldl
    | with_reducible apply KeepsOpt.getD | with_reducible apply KeepsOpt.of_some | with_reducible apply KeepsRan.next
    | with_reducible apply KeepsRan.jump | with_reducible apply KeepsRan.halt | with_reducible apply KeepsRan.wait
    | dsimp only | split | with_reducible refine KeepsOpt.get (by assumption) ?_
    | with_reducible refine KeepsPair.get (by assumption) ?_ | intro _

theorem tewUnaryOp_keeps {s0 s : State} {n : Voice} {minor : ℕ} {formats : ℕ → Bool} {f : ℕ → Fl → ℕ × Bool}
    (h : Keeps s0 s) :
    Keeps s0 (tewUnaryOp n minor formats f s) := by
  unfold tewUnaryOp
  repeat' first
    | with_reducible assumption | with_reducible apply needShape_keeps | with_reducible apply fillVals_keeps
    | with_reducible apply needLive_keeps | with_reducible apply insn_keeps | with_reducible apply Keeps.foldl
    | with_reducible apply KeepsOpt.getD | with_reducible apply KeepsOpt.of_some | with_reducible apply KeepsRan.next
    | with_reducible apply KeepsRan.jump | with_reducible apply KeepsRan.halt | with_reducible apply KeepsRan.wait
    | dsimp only | split | with_reducible refine KeepsOpt.get (by assumption) ?_
    | with_reducible refine KeepsPair.get (by assumption) ?_ | intro _

theorem execTewAdd_keeps {s0 s : State} {n : Voice} (h : Keeps s0 s) :
    KeepsOut s0 (execTewAdd n s) := by
  unfold execTewAdd
  repeat' first
    | with_reducible assumption | with_reducible apply live_keeps | with_reducible apply tewBinary_keeps
    | with_reducible apply KeepsOut.next | with_reducible apply Keeps.foldl | with_reducible apply KeepsRan.next
    | with_reducible apply KeepsRan.jump | with_reducible apply KeepsRan.halt | with_reducible apply KeepsRan.wait
    | simp only [Keeps.upd_iff, Keeps.upd_evc_iff, Keeps.upd_tbs_iff, Keeps.upd_both_iff] | split
    | with_reducible refine KeepsOpt.get (by assumption) ?_ | with_reducible refine KeepsPair.get (by assumption) ?_
    | dsimp only | intro _

theorem execTewSub_keeps {s0 s : State} {n : Voice} (h : Keeps s0 s) :
    KeepsOut s0 (execTewSub n s) := by
  unfold execTewSub
  repeat' first
    | with_reducible assumption | with_reducible apply live_keeps | with_reducible apply tewBinary_keeps
    | with_reducible apply KeepsOut.next | with_reducible apply Keeps.foldl | with_reducible apply KeepsRan.next
    | with_reducible apply KeepsRan.jump | with_reducible apply KeepsRan.halt | with_reducible apply KeepsRan.wait
    | simp only [Keeps.upd_iff, Keeps.upd_evc_iff, Keeps.upd_tbs_iff, Keeps.upd_both_iff] | split
    | with_reducible refine KeepsOpt.get (by assumption) ?_ | with_reducible refine KeepsPair.get (by assumption) ?_
    | dsimp only | intro _

theorem execTewMul_keeps {s0 s : State} {n : Voice} (h : Keeps s0 s) :
    KeepsOut s0 (execTewMul n s) := by
  unfold execTewMul
  repeat' first
    | with_reducible assumption | with_reducible apply live_keeps | with_reducible apply tewBinary_keeps
    | with_reducible apply KeepsOut.next | with_reducible apply Keeps.foldl | with_reducible apply KeepsRan.next
    | with_reducible apply KeepsRan.jump | with_reducible apply KeepsRan.halt | with_reducible apply KeepsRan.wait
    | simp only [Keeps.upd_iff, Keeps.upd_evc_iff, Keeps.upd_tbs_iff, Keeps.upd_both_iff] | split
    | with_reducible refine KeepsOpt.get (by assumption) ?_ | with_reducible refine KeepsPair.get (by assumption) ?_
    | dsimp only | intro _

theorem execTewMax_keeps {s0 s : State} {n : Voice} (h : Keeps s0 s) :
    KeepsOut s0 (execTewMax n s) := by
  unfold execTewMax
  repeat' first
    | with_reducible assumption | with_reducible apply live_keeps | with_reducible apply tewBinary_keeps
    | with_reducible apply KeepsOut.next | with_reducible apply Keeps.foldl | with_reducible apply KeepsRan.next
    | with_reducible apply KeepsRan.jump | with_reducible apply KeepsRan.halt | with_reducible apply KeepsRan.wait
    | simp only [Keeps.upd_iff, Keeps.upd_evc_iff, Keeps.upd_tbs_iff, Keeps.upd_both_iff] | split
    | with_reducible refine KeepsOpt.get (by assumption) ?_ | with_reducible refine KeepsPair.get (by assumption) ?_
    | dsimp only | intro _

theorem execTewMin_keeps {s0 s : State} {n : Voice} (h : Keeps s0 s) :
    KeepsOut s0 (execTewMin n s) := by
  unfold execTewMin
  repeat' first
    | with_reducible assumption | with_reducible apply live_keeps | with_reducible apply tewBinary_keeps
    | with_reducible apply KeepsOut.next | with_reducible apply Keeps.foldl | with_reducible apply KeepsRan.next
    | with_reducible apply KeepsRan.jump | with_reducible apply KeepsRan.halt | with_reducible apply KeepsRan.wait
    | simp only [Keeps.upd_iff, Keeps.upd_evc_iff, Keeps.upd_tbs_iff, Keeps.upd_both_iff] | split
    | with_reducible refine KeepsOpt.get (by assumption) ?_ | with_reducible refine KeepsPair.get (by assumption) ?_
    | dsimp only | intro _

theorem execTewAddr_keeps {s0 s : State} {n : Voice} (h : Keeps s0 s) :
    KeepsOut s0 (execTewAddr n s) := by
  unfold execTewAddr
  repeat' first
    | with_reducible assumption | with_reducible apply live_keeps | with_reducible apply tewBinary_keeps
    | with_reducible apply KeepsOut.next | with_reducible apply Keeps.foldl | with_reducible apply KeepsRan.next
    | with_reducible apply KeepsRan.jump | with_reducible apply KeepsRan.halt | with_reducible apply KeepsRan.wait
    | simp only [Keeps.upd_iff, Keeps.upd_evc_iff, Keeps.upd_tbs_iff, Keeps.upd_both_iff] | split
    | with_reducible refine KeepsOpt.get (by assumption) ?_ | with_reducible refine KeepsPair.get (by assumption) ?_
    | dsimp only | intro _

theorem execTewMulr_keeps {s0 s : State} {n : Voice} (h : Keeps s0 s) :
    KeepsOut s0 (execTewMulr n s) := by
  unfold execTewMulr
  repeat' first
    | with_reducible assumption | with_reducible apply live_keeps | with_reducible apply tewBinary_keeps
    | with_reducible apply KeepsOut.next | with_reducible apply Keeps.foldl | with_reducible apply KeepsRan.next
    | with_reducible apply KeepsRan.jump | with_reducible apply KeepsRan.halt | with_reducible apply KeepsRan.wait
    | simp only [Keeps.upd_iff, Keeps.upd_evc_iff, Keeps.upd_tbs_iff, Keeps.upd_both_iff] | split
    | with_reducible refine KeepsOpt.get (by assumption) ?_ | with_reducible refine KeepsPair.get (by assumption) ?_
    | dsimp only | intro _

theorem execTewAddc_keeps {s0 s : State} {n : Voice} (h : Keeps s0 s) :
    KeepsOut s0 (execTewAddc n s) := by
  unfold execTewAddc
  repeat' first
    | with_reducible assumption | with_reducible apply live_keeps | with_reducible apply tewBinary_keeps
    | with_reducible apply KeepsOut.next | with_reducible apply Keeps.foldl | with_reducible apply KeepsRan.next
    | with_reducible apply KeepsRan.jump | with_reducible apply KeepsRan.halt | with_reducible apply KeepsRan.wait
    | simp only [Keeps.upd_iff, Keeps.upd_evc_iff, Keeps.upd_tbs_iff, Keeps.upd_both_iff] | split
    | with_reducible refine KeepsOpt.get (by assumption) ?_ | with_reducible refine KeepsPair.get (by assumption) ?_
    | dsimp only | intro _

theorem execTewMulc_keeps {s0 s : State} {n : Voice} (h : Keeps s0 s) :
    KeepsOut s0 (execTewMulc n s) := by
  unfold execTewMulc
  repeat' first
    | with_reducible assumption | with_reducible apply live_keeps | with_reducible apply tewBinary_keeps
    | with_reducible apply KeepsOut.next | with_reducible apply Keeps.foldl | with_reducible apply KeepsRan.next
    | with_reducible apply KeepsRan.jump | with_reducible apply KeepsRan.halt | with_reducible apply KeepsRan.wait
    | simp only [Keeps.upd_iff, Keeps.upd_evc_iff, Keeps.upd_tbs_iff, Keeps.upd_both_iff] | split
    | with_reducible refine KeepsOpt.get (by assumption) ?_ | with_reducible refine KeepsPair.get (by assumption) ?_
    | dsimp only | intro _

theorem execTewCvt_keeps {s0 s : State} {n : Voice} (h : Keeps s0 s) :
    KeepsOut s0 (execTewCvt n s) := by
  unfold execTewCvt
  repeat' first
    | with_reducible assumption | with_reducible apply live_keeps | with_reducible apply tewUnaryOp_keeps
    | with_reducible apply KeepsOut.next | with_reducible apply Keeps.foldl | with_reducible apply KeepsRan.next
    | with_reducible apply KeepsRan.jump | with_reducible apply KeepsRan.halt | with_reducible apply KeepsRan.wait
    | simp only [Keeps.upd_iff, Keeps.upd_evc_iff, Keeps.upd_tbs_iff, Keeps.upd_both_iff] | split
    | with_reducible refine KeepsOpt.get (by assumption) ?_ | with_reducible refine KeepsPair.get (by assumption) ?_
    | dsimp only | intro _

theorem execTewExp_keeps {s0 s : State} {n : Voice} (h : Keeps s0 s) :
    KeepsOut s0 (execTewExp n s) := by
  unfold execTewExp
  repeat' first
    | with_reducible assumption | with_reducible apply live_keeps | with_reducible apply tewUnaryOp_keeps
    | with_reducible apply KeepsOut.next | with_reducible apply Keeps.foldl | with_reducible apply KeepsRan.next
    | with_reducible apply KeepsRan.jump | with_reducible apply KeepsRan.halt | with_reducible apply KeepsRan.wait
    | simp only [Keeps.upd_iff, Keeps.upd_evc_iff, Keeps.upd_tbs_iff, Keeps.upd_both_iff] | split
    | with_reducible refine KeepsOpt.get (by assumption) ?_ | with_reducible refine KeepsPair.get (by assumption) ?_
    | dsimp only | intro _

theorem execTewRsqrt_keeps {s0 s : State} {n : Voice} (h : Keeps s0 s) :
    KeepsOut s0 (execTewRsqrt n s) := by
  unfold execTewRsqrt
  repeat' first
    | with_reducible assumption | with_reducible apply live_keeps | with_reducible apply tewUnaryOp_keeps
    | with_reducible apply KeepsOut.next | with_reducible apply Keeps.foldl | with_reducible apply KeepsRan.next
    | with_reducible apply KeepsRan.jump | with_reducible apply KeepsRan.halt | with_reducible apply KeepsRan.wait
    | simp only [Keeps.upd_iff, Keeps.upd_evc_iff, Keeps.upd_tbs_iff, Keeps.upd_both_iff] | split
    | with_reducible refine KeepsOpt.get (by assumption) ?_ | with_reducible refine KeepsPair.get (by assumption) ?_
    | dsimp only | intro _

theorem execTewRecip_keeps {s0 s : State} {n : Voice} (h : Keeps s0 s) :
    KeepsOut s0 (execTewRecip n s) := by
  unfold execTewRecip
  repeat' first
    | with_reducible assumption | with_reducible apply live_keeps | with_reducible apply tewUnaryOp_keeps
    | with_reducible apply KeepsOut.next | with_reducible apply Keeps.foldl | with_reducible apply KeepsRan.next
    | with_reducible apply KeepsRan.jump | with_reducible apply KeepsRan.halt | with_reducible apply KeepsRan.wait
    | simp only [Keeps.upd_iff, Keeps.upd_evc_iff, Keeps.upd_tbs_iff, Keeps.upd_both_iff] | split
    | with_reducible refine KeepsOpt.get (by assumption) ?_ | with_reducible refine KeepsPair.get (by assumption) ?_
    | dsimp only | intro _

theorem execTewSilu_keeps {s0 s : State} {n : Voice} (h : Keeps s0 s) :
    KeepsOut s0 (execTewSilu n s) := by
  unfold execTewSilu
  repeat' first
    | with_reducible assumption | with_reducible apply live_keeps | with_reducible apply tewUnaryOp_keeps
    | with_reducible apply KeepsOut.next | with_reducible apply Keeps.foldl | with_reducible apply KeepsRan.next
    | with_reducible apply KeepsRan.jump | with_reducible apply KeepsRan.halt | with_reducible apply KeepsRan.wait
    | simp only [Keeps.upd_iff, Keeps.upd_evc_iff, Keeps.upd_tbs_iff, Keeps.upd_both_iff] | split
    | with_reducible refine KeepsOpt.get (by assumption) ?_ | with_reducible refine KeepsPair.get (by assumption) ?_
    | dsimp only | intro _

theorem reduce_keeps {s0 s : State} {n : Voice} {minor : ℕ} {f : List Fl → Fl} (h : Keeps s0 s) :
    Keeps s0 (reduce n minor f s) := by
  unfold reduce
  repeat' first
    | with_reducible assumption | with_reducible apply needShape_keeps | with_reducible apply fillVals_keeps
    | with_reducible apply needLive_keeps | with_reducible apply insn_keeps | with_reducible apply Keeps.foldl
    | with_reducible apply KeepsOpt.getD | with_reducible apply KeepsOpt.of_some | with_reducible apply KeepsRan.next
    | with_reducible apply KeepsRan.jump | with_reducible apply KeepsRan.halt | with_reducible apply KeepsRan.wait
    | dsimp only | split | with_reducible refine KeepsOpt.get (by assumption) ?_
    | with_reducible refine KeepsPair.get (by assumption) ?_ | intro _

theorem execRsum_keeps {s0 s : State} {n : Voice} (h : Keeps s0 s) :
    KeepsOut s0 (execRsum n s) := by
  unfold execRsum
  repeat' first
    | with_reducible assumption | with_reducible apply live_keeps | with_reducible apply reduce_keeps
    | with_reducible apply KeepsOut.next | with_reducible apply Keeps.foldl | with_reducible apply KeepsRan.next
    | with_reducible apply KeepsRan.jump | with_reducible apply KeepsRan.halt | with_reducible apply KeepsRan.wait
    | simp only [Keeps.upd_iff, Keeps.upd_evc_iff, Keeps.upd_tbs_iff, Keeps.upd_both_iff] | split
    | with_reducible refine KeepsOpt.get (by assumption) ?_ | with_reducible refine KeepsPair.get (by assumption) ?_
    | dsimp only | intro _

theorem execRsumsq_keeps {s0 s : State} {n : Voice} (h : Keeps s0 s) :
    KeepsOut s0 (execRsumsq n s) := by
  unfold execRsumsq
  repeat' first
    | with_reducible assumption | with_reducible apply live_keeps | with_reducible apply reduce_keeps
    | with_reducible apply KeepsOut.next | with_reducible apply Keeps.foldl | with_reducible apply KeepsRan.next
    | with_reducible apply KeepsRan.jump | with_reducible apply KeepsRan.halt | with_reducible apply KeepsRan.wait
    | simp only [Keeps.upd_iff, Keeps.upd_evc_iff, Keeps.upd_tbs_iff, Keeps.upd_both_iff] | split
    | with_reducible refine KeepsOpt.get (by assumption) ?_ | with_reducible refine KeepsPair.get (by assumption) ?_
    | dsimp only | intro _

theorem execRmax_keeps {s0 s : State} {n : Voice} (h : Keeps s0 s) :
    KeepsOut s0 (execRmax n s) := by
  unfold execRmax
  repeat' first
    | with_reducible assumption | with_reducible apply live_keeps | with_reducible apply reduce_keeps
    | with_reducible apply KeepsOut.next | with_reducible apply Keeps.foldl | with_reducible apply KeepsRan.next
    | with_reducible apply KeepsRan.jump | with_reducible apply KeepsRan.halt | with_reducible apply KeepsRan.wait
    | simp only [Keeps.upd_iff, Keeps.upd_evc_iff, Keeps.upd_tbs_iff, Keeps.upd_both_iff] | split
    | with_reducible refine KeepsOpt.get (by assumption) ?_ | with_reducible refine KeepsPair.get (by assumption) ?_
    | dsimp only | intro _

theorem gatherFrom_keeps {s0 s : State} {n : Voice} {td : Fin 16} {base : ℕ} {mask : ℕ} {idx : Tile} {a : Ecc}
    {a7 : List ℕ} (h : Keeps s0 s) :
    KeepsRan s0 (gatherFrom n td base mask idx a a7 s) := by
  unfold gatherFrom
  repeat' first
    | with_reducible assumption | with_reducible apply haltUe_keeps | with_reducible apply haltOutside_keeps
    | with_reducible apply readMem_keeps | with_reducible apply setTile_keeps | with_reducible apply KeepsRan.next
    | with_reducible apply KeepsRan.jump | with_reducible apply KeepsRan.halt | with_reducible apply KeepsRan.wait
    | with_reducible apply Keeps.foldl | with_reducible apply gatherFrom_keeps | dsimp only | split
    | with_reducible refine KeepsOpt.get (by assumption) ?_ | with_reducible refine KeepsPair.get (by assumption) ?_

theorem gatherSetup_keeps {s0 s : State} {n : Voice} {w : ℕ} {load : Bool} {k : ℕ → ℕ → Tile → List ℕ → State → Ran}
    (k_keeps : ∀ y0 y1 y2 y3 t, Keeps s0 t → KeepsRan s0 (k y0 y1 y2 y3 t)) (h : Keeps s0 s) :
    KeepsRan s0 (gatherSetup n w load k s) := by
  unfold gatherSetup
  repeat' first
    | with_reducible assumption | with_reducible apply k_keeps | with_reducible apply needShape_keeps
    | with_reducible apply withSections_keeps | with_reducible apply needLive_keeps
    | with_reducible apply stripGate_keeps | with_reducible apply KeepsRan.next | with_reducible apply KeepsRan.jump
    | with_reducible apply KeepsRan.halt | with_reducible apply KeepsRan.wait | with_reducible apply Keeps.foldl
    | dsimp only | split | with_reducible refine KeepsOpt.get (by assumption) ?_
    | with_reducible refine KeepsPair.get (by assumption) ?_ | intro _

theorem execGather_keeps {s0 s : State} {n : Voice} {ecc : Ecc} (h : Keeps s0 s) :
    KeepsOut s0 (execGather n ecc s) := by
  unfold execGather
  repeat' first
    | with_reducible assumption | with_reducible apply gatherSetup_keeps | with_reducible apply gatherFrom_keeps
    | with_reducible apply live_keeps | with_reducible apply insn_keeps | with_reducible apply KeepsOut.next
    | with_reducible apply Keeps.foldl | with_reducible apply KeepsRan.next | with_reducible apply KeepsRan.jump
    | with_reducible apply KeepsRan.halt | with_reducible apply KeepsRan.wait
    | simp only [Keeps.upd_iff, Keeps.upd_evc_iff, Keeps.upd_tbs_iff, Keeps.upd_both_iff] | split
    | with_reducible refine KeepsOpt.get (by assumption) ?_ | with_reducible refine KeepsPair.get (by assumption) ?_
    | dsimp only | intro _

theorem scatterFrom_keeps {s0 s : State} {n : Voice} {t2 : Tile} {base : ℕ} {mask : ℕ} {idx : Tile} {a : List ℕ}
    (h : Keeps s0 s) :
    KeepsRan s0 (scatterFrom n t2 base mask idx a s) := by
  unfold scatterFrom
  repeat' first
    | with_reducible assumption | with_reducible apply putBytes_keeps | with_reducible apply haltOutside_keeps
    | with_reducible apply KeepsRan.next | with_reducible apply KeepsRan.jump | with_reducible apply KeepsRan.halt
    | with_reducible apply KeepsRan.wait | with_reducible apply Keeps.foldl | with_reducible apply scatterFrom_keeps
    | dsimp only | split | with_reducible refine KeepsOpt.get (by assumption) ?_
    | with_reducible refine KeepsPair.get (by assumption) ?_ | intro _

theorem execScatter_keeps {s0 s : State} {n : Voice} (h : Keeps s0 s) :
    KeepsOut s0 (execScatter n s) := by
  unfold execScatter
  repeat' first
    | with_reducible assumption | with_reducible apply gatherSetup_keeps | with_reducible apply live_keeps
    | with_reducible apply scatterFrom_keeps | with_reducible apply insn_keeps | with_reducible apply KeepsOut.next
    | with_reducible apply Keeps.foldl | with_reducible apply KeepsRan.next | with_reducible apply KeepsRan.jump
    | with_reducible apply KeepsRan.halt | with_reducible apply KeepsRan.wait
    | simp only [Keeps.upd_iff, Keeps.upd_evc_iff, Keeps.upd_tbs_iff, Keeps.upd_both_iff] | split
    | with_reducible refine KeepsOpt.get (by assumption) ?_ | with_reducible refine KeepsPair.get (by assumption) ?_
    | dsimp only | intro _

theorem execBar_keeps {s0 s : State} {n : Voice} (h : Keeps s0 s) :
    KeepsOut s0 (execBar n s) := by
  unfold execBar
  repeat' first
    | with_reducible assumption | with_reducible apply follow_keeps | with_reducible apply releaseBar_keeps
    | with_reducible apply signalDone_keeps | with_reducible apply live_keeps | with_reducible apply insn_keeps
    | with_reducible apply toIdle_keeps | with_reducible apply setVoice_keeps | with_reducible apply KeepsOut.next
    | with_reducible apply Keeps.foldl | with_reducible apply KeepsRan.next | with_reducible apply KeepsRan.jump
    | with_reducible apply KeepsRan.halt | with_reducible apply KeepsRan.wait
    | simp only [Keeps.upd_iff, Keeps.upd_evc_iff, Keeps.upd_tbs_iff, Keeps.upd_both_iff] | split
    | with_reducible refine KeepsOpt.get (by assumption) ?_ | with_reducible refine KeepsPair.get (by assumption) ?_
    | dsimp only | intro _

theorem execWaitev_keeps {s0 s : State} {n : Voice} (h : Keeps s0 s) :
    KeepsOut s0 (execWaitev n s) := by
  unfold execWaitev
  repeat' first
    | with_reducible assumption | with_reducible apply setReg_keeps | with_reducible apply live_keeps
    | with_reducible apply insn_keeps | with_reducible apply toIdle_keeps | with_reducible apply setVoice_keeps
    | with_reducible apply KeepsOut.next | with_reducible apply Keeps.foldl | with_reducible apply KeepsRan.next
    | with_reducible apply KeepsRan.jump | with_reducible apply KeepsRan.halt | with_reducible apply KeepsRan.wait
    | simp only [Keeps.upd_evc_iff] | split | with_reducible refine KeepsOpt.get (by assumption) ?_
    | with_reducible refine KeepsPair.get (by assumption) ?_ | dsimp only | intro _

theorem execSetev_keeps {s0 s : State} {n : Voice} (h : Keeps s0 s) :
    KeepsOut s0 (execSetev n s) := by
  unfold execSetev
  repeat' first
    | with_reducible assumption | with_reducible apply report_keeps | with_reducible apply live_keeps
    | with_reducible apply insn_keeps | with_reducible apply KeepsOut.next | with_reducible apply Keeps.foldl
    | with_reducible apply KeepsRan.next | with_reducible apply KeepsRan.jump | with_reducible apply KeepsRan.halt
    | with_reducible apply KeepsRan.wait
    | simp only [Keeps.upd_iff, Keeps.upd_evc_iff, Keeps.upd_tbs_iff, Keeps.upd_both_iff] | split
    | with_reducible refine KeepsOpt.get (by assumption) ?_ | with_reducible refine KeepsPair.get (by assumption) ?_
    | dsimp only | intro _

theorem execBrthHold_keeps {s0 s : State} {n : Voice} (h : Keeps s0 s) :
    KeepsOut s0 (execBrthHold n s) := by
  unfold execBrthHold
  repeat' first
    | with_reducible assumption | with_reducible apply insnOp_keeps | with_reducible apply withArray_keeps
    | with_reducible apply live_keeps | with_reducible apply KeepsOut.next | with_reducible apply Keeps.foldl
    | with_reducible apply KeepsRan.next | with_reducible apply KeepsRan.jump | with_reducible apply KeepsRan.halt
    | with_reducible apply KeepsRan.wait
    | simp only [Keeps.upd_iff, Keeps.upd_evc_iff, Keeps.upd_tbs_iff, Keeps.upd_both_iff] | split
    | with_reducible refine KeepsOpt.get (by assumption) ?_ | with_reducible refine KeepsPair.get (by assumption) ?_
    | dsimp only | intro _

theorem execBrthRelease_keeps {s0 s : State} {n : Voice} (h : Keeps s0 s) :
    KeepsOut s0 (execBrthRelease n s) := by
  unfold execBrthRelease
  repeat' first
    | with_reducible assumption | with_reducible apply insnOp_keeps | with_reducible apply live_keeps
    | with_reducible apply dropUnits_keeps | with_reducible apply KeepsOut.next | with_reducible apply Keeps.foldl
    | with_reducible apply KeepsRan.next | with_reducible apply KeepsRan.jump | with_reducible apply KeepsRan.halt
    | with_reducible apply KeepsRan.wait
    | simp only [Keeps.upd_iff, Keeps.upd_evc_iff, Keeps.upd_tbs_iff, Keeps.upd_both_iff] | split
    | with_reducible refine KeepsOpt.get (by assumption) ?_ | with_reducible refine KeepsPair.get (by assumption) ?_
    | dsimp only | intro _

theorem probeCycle_keeps {s0 s : State} {k : Pair} {pattern : BitVec 64} {r : CmpReport} (h : Keeps s0 s) :
    Keeps s0 (probeCycle k pattern r s) := by
  unfold probeCycle
  repeat' first
    | with_reducible assumption | with_reducible apply applyInjection_keeps | with_reducible apply pairFault_keeps
    | with_reducible apply setPair_keeps | with_reducible apply Keeps.foldl | with_reducible apply KeepsOpt.getD
    | with_reducible apply KeepsOpt.of_some | simp only [Keeps.upd_iff] | split

theorem formPair_keeps {s0 s : State} {k : Pair} {probes : List FormProbe} (h : Keeps s0 s) :
    Keeps s0 (formPair k probes s) := by
  unfold formPair
  repeat' first
    | with_reducible assumption | with_reducible apply probeCycle_keeps | with_reducible apply setPair_keeps
    | with_reducible apply Keeps.foldl | with_reducible apply KeepsOpt.getD | with_reducible apply KeepsOpt.of_some
    | simp only [Keeps.upd_iff] | split

theorem dissolvePair_keeps {s0 s : State} {k : Pair} (h : Keeps s0 s) :
    Keeps s0 (dissolvePair k s) := by
  unfold dissolvePair
  repeat' first
    | with_reducible assumption | with_reducible apply setPair_keeps | with_reducible apply Keeps.foldl
    | with_reducible apply KeepsOpt.getD | with_reducible apply KeepsOpt.of_some | simp only [Keeps.upd_iff] | split

theorem mirrorProbe_keeps {s0 s : State} {k : Pair} {pattern : BitVec 64} {r : CmpReport} (h : Keeps s0 s) :
    Keeps s0 (mirrorProbe k pattern r s) := by
  unfold mirrorProbe
  repeat' first
    | with_reducible assumption | with_reducible apply probeCycle_keeps | with_reducible apply plainClock_keeps
    | with_reducible apply Keeps.foldl | with_reducible apply KeepsOpt.getD | with_reducible apply KeepsOpt.of_some
    | dsimp only | split

theorem execMirrorProbe_keeps {s0 s : State} {k : Pair} {pattern : BitVec 64} {r : CmpReport} (h : Keeps s0 s) :
    KeepsOut s0 (execMirrorProbe k pattern r s) := by
  unfold execMirrorProbe
  repeat' first
    | with_reducible assumption | with_reducible apply mirrorProbe_keeps | with_reducible apply live_keeps
    | with_reducible apply KeepsOut.next | with_reducible apply Keeps.foldl
    | simp only [Keeps.upd_iff, Keeps.upd_evc_iff, Keeps.upd_tbs_iff, Keeps.upd_both_iff] | split
    | with_reducible refine KeepsOpt.get (by assumption) ?_ | with_reducible refine KeepsPair.get (by assumption) ?_
    | dsimp only | intro _

theorem writeRequal_keeps {s0 s : State} {v : Word} (h : Keeps s0 s) :
    Keeps s0 (writeRequal v s) := by
  unfold writeRequal
  repeat' first
    | with_reducible assumption | with_reducible apply regRefused_keeps | with_reducible apply setPair_keeps
    | with_reducible apply Keeps.foldl | with_reducible apply KeepsOpt.getD | with_reducible apply KeepsOpt.of_some
    | dsimp only | split | with_reducible refine KeepsOpt.get (by assumption) ?_
    | with_reducible refine KeepsPair.get (by assumption) ?_ | intro _

theorem execMirRequalWrite_keeps {s0 s : State} {v : Word} (h : Keeps s0 s) :
    KeepsOut s0 (execMirRequalWrite v s) := by
  unfold execMirRequalWrite
  repeat' first
    | with_reducible assumption | with_reducible apply whenRuns_keeps | with_reducible apply regWrite_keeps
    | with_reducible apply live_keeps | with_reducible apply writeRequal_keeps | with_reducible apply KeepsOut.next
    | with_reducible apply Keeps.foldl
    | simp only [Keeps.upd_iff, Keeps.upd_evc_iff, Keeps.upd_tbs_iff, Keeps.upd_both_iff] | split
    | with_reducible refine KeepsOpt.get (by assumption) ?_ | with_reducible refine KeepsPair.get (by assumption) ?_
    | dsimp only | intro _

theorem selftestEnd_keeps {s0 s : State} {k : Pair} {passed : Bool} (h : Keeps s0 s) :
    Keeps s0 (selftestEnd k passed s) := by
  unfold selftestEnd
  repeat' first
    | with_reducible assumption | with_reducible apply logErr_keeps | with_reducible apply setPair_keeps
    | with_reducible apply Keeps.foldl | with_reducible apply KeepsOpt.getD | with_reducible apply KeepsOpt.of_some
    | dsimp only | split

theorem execMirrorSelftestEnd_keeps {s0 s : State} {k : Pair} {passed : Bool} (h : Keeps s0 s) :
    KeepsOut s0 (execMirrorSelftestEnd k passed s) := by
  unfold execMirrorSelftestEnd
  repeat' first
    | with_reducible assumption | with_reducible apply selftestEnd_keeps | with_reducible apply live_keeps
    | with_reducible apply KeepsOut.next | with_reducible apply Keeps.foldl
    | simp only [Keeps.upd_iff, Keeps.upd_evc_iff, Keeps.upd_tbs_iff, Keeps.upd_both_iff] | split
    | with_reducible refine KeepsOpt.get (by assumption) ?_ | with_reducible refine KeepsPair.get (by assumption) ?_
    | dsimp only | intro _

theorem unitMismatch_keeps {s0 s : State} {m : ModelRef} {unit : ℕ} (h : Keeps s0 s) :
    Keeps s0 (unitMismatch m unit s) := by
  unfold unitMismatch
  repeat' first
    | with_reducible assumption | with_reducible apply abandonPass_keeps | with_reducible apply recordDetection_keeps
    | with_reducible apply Keeps.foldl | with_reducible apply KeepsOpt.getD | with_reducible apply KeepsOpt.of_some
    | simp only [Keeps.upd_iff] | split

theorem execCantorMismatch_keeps {s0 s : State} (h : Keeps s0 s) :
    KeepsOut s0 (execCantorMismatch s) := by
  unfold execCantorMismatch
  repeat' first
    | with_reducible assumption | with_reducible apply enterMute_keeps | with_reducible apply live_keeps
    | with_reducible apply KeepsOut.next | with_reducible apply Keeps.foldl
    | simp only [Keeps.upd_iff, Keeps.upd_evc_iff, Keeps.upd_tbs_iff, Keeps.upd_both_iff] | split
    | with_reducible refine KeepsOpt.get (by assumption) ?_ | with_reducible refine KeepsPair.get (by assumption) ?_
    | dsimp only | intro _

theorem copyOutvoted_keeps {s0 s : State} {group : Fin 5} {copy : Fin 3} (h : Keeps s0 s) :
    Keeps s0 (copyOutvoted group copy s) := by
  unfold copyOutvoted
  repeat' first
    | with_reducible assumption | with_reducible apply logErr_keeps | with_reducible apply Keeps.foldl
    | with_reducible apply KeepsOpt.getD | with_reducible apply KeepsOpt.of_some | simp only [Keeps.upd_iff] | split

theorem execAonCopyOutvoted_keeps {s0 s : State} {group : Fin 5} {copy : Fin 3} (h : Keeps s0 s) :
    KeepsOut s0 (execAonCopyOutvoted group copy s) := by
  unfold execAonCopyOutvoted
  repeat' first
    | with_reducible assumption | with_reducible apply live_keeps | with_reducible apply copyOutvoted_keeps
    | with_reducible apply KeepsOut.next | with_reducible apply Keeps.foldl
    | simp only [Keeps.upd_iff, Keeps.upd_evc_iff, Keeps.upd_tbs_iff, Keeps.upd_both_iff] | split
    | with_reducible refine KeepsOpt.get (by assumption) ?_ | with_reducible refine KeepsPair.get (by assumption) ?_
    | dsimp only | intro _

theorem stopPairs_keeps {s0 s : State} (h : Keeps s0 s) :
    Keeps s0 (stopPairs s) := by
  unfold stopPairs
  repeat' first
    | with_reducible assumption | with_reducible apply report_keeps | with_reducible apply failService_keeps
    | with_reducible apply setPair_keeps | with_reducible apply Keeps.foldl | with_reducible apply KeepsOpt.getD
    | with_reducible apply KeepsOpt.of_some | dsimp only | split
    | with_reducible refine KeepsOpt.get (by assumption) ?_ | with_reducible refine KeepsPair.get (by assumption) ?_
    | intro _

theorem mirReadEff_keeps {s0 s : State} {off : ℕ} (h : Keeps s0 s) :
    Keeps s0 (mirReadEff off s) := by
  unfold mirReadEff
  repeat' first
    | with_reducible assumption | with_reducible apply Keeps.foldl | with_reducible apply KeepsOpt.getD
    | with_reducible apply KeepsOpt.of_some | simp only [Keeps.upd_iff] | split

theorem mirWrite_keeps {s0 s : State} {off : ℕ} {v : Word} (h : Keeps s0 s) :
    KeepsOpt s0 (mirWrite off v s) := by
  unfold mirWrite
  repeat' first
    | with_reducible assumption | with_reducible apply whenRuns_keeps | with_reducible apply regRefused_keeps
    | with_reducible apply writeRequal_keeps | with_reducible apply KeepsOpt.of_none
    | with_reducible apply KeepsOpt.of_some | with_reducible apply KeepsOpt.map | with_reducible apply KeepsOpt.orElse
    | with_reducible apply Keeps.foldl | simp only [Keeps.upd_iff] | split
    | with_reducible refine KeepsOpt.get (by assumption) ?_ | with_reducible refine KeepsPair.get (by assumption) ?_
    | dsimp only | intro _

theorem withFreed_keeps {s0 s : State} {ks : List KSet} (h : Keeps s0 s) :
    Keeps s0 (withFreed ks s) := by
  unfold withFreed
  repeat' first
    | with_reducible assumption | with_reducible apply setVoice_keeps | with_reducible apply Keeps.foldl
    | with_reducible apply KeepsOpt.getD | with_reducible apply KeepsOpt.of_some | simp only [Keeps.upd_iff] | split
    | with_reducible refine KeepsOpt.get (by assumption) ?_ | with_reducible refine KeepsPair.get (by assumption) ?_
    | dsimp only | intro _

theorem stopSet_keeps {s0 s : State} {k : KSet} (h : Keeps s0 s) :
    Keeps s0 (stopSet k s) := by
  unfold stopSet
  repeat' first
    | with_reducible assumption | with_reducible apply setVoice_keeps | with_reducible apply Keeps.foldl
    | with_reducible apply KeepsOpt.getD | with_reducible apply KeepsOpt.of_some | simp only [Keeps.upd_iff] | split
    | with_reducible refine KeepsOpt.get (by assumption) ?_ | with_reducible refine KeepsPair.get (by assumption) ?_
    | dsimp only | intro _

theorem preemptSaved_keeps {s0 s : State} {id : ℕ} (h : Keeps s0 s) :
    Keeps s0 (preemptSaved id s) := by
  unfold preemptSaved
  repeat' first
    | with_reducible assumption | with_reducible apply freeVoice_keeps | with_reducible apply setVoice_keeps
    | with_reducible apply Keeps.foldl | with_reducible apply KeepsOpt.getD | with_reducible apply KeepsOpt.of_some
    | simp only [Keeps.upd_iff] | split | with_reducible refine KeepsOpt.get (by assumption) ?_
    | with_reducible refine KeepsPair.get (by assumption) ?_ | dsimp only | intro _

theorem execPreemptSaveComplete_keeps {s0 s : State} {id : ℕ} (h : Keeps s0 s) :
    KeepsOut s0 (execPreemptSaveComplete id s) := by
  unfold execPreemptSaveComplete
  repeat' first
    | with_reducible assumption | with_reducible apply preemptSaved_keeps | with_reducible apply live_keeps
    | with_reducible apply KeepsOut.next | with_reducible apply Keeps.foldl
    | simp only [Keeps.upd_iff, Keeps.upd_evc_iff, Keeps.upd_tbs_iff, Keeps.upd_both_iff] | split
    | with_reducible refine KeepsOpt.get (by assumption) ?_ | with_reducible refine KeepsPair.get (by assumption) ?_
    | dsimp only | intro _

theorem joinPairs_keeps {s0 s : State} {mirror : Bool} {probes : List FormProbe} {vs : List Voice} (h : Keeps s0 s) :
    Keeps s0 (joinPairs mirror probes vs s) := by
  unfold joinPairs
  repeat' first
    | with_reducible assumption | with_reducible apply dissolvePair_keeps | with_reducible apply formPair_keeps
    | with_reducible apply Keeps.foldl | with_reducible apply KeepsOpt.getD | with_reducible apply KeepsOpt.of_some
    | simp only [Keeps.upd_iff, Keeps.upd_evc_iff, Keeps.upd_tbs_iff, Keeps.upd_both_iff] | split
    | with_reducible refine KeepsOpt.get (by assumption) ?_ | with_reducible refine KeepsPair.get (by assumption) ?_
    | dsimp only | intro _

theorem setStart_keeps {s0 s : State} {id : ℕ} {probes : List FormProbe} (h : Keeps s0 s) :
    Keeps s0 (setStart id probes s) := by
  unfold setStart
  repeat' first
    | with_reducible assumption | with_reducible apply endWait_keeps | with_reducible apply joinPairs_keeps
    | with_reducible apply setVoice_keeps | with_reducible apply Keeps.foldl | with_reducible apply KeepsOpt.getD
    | with_reducible apply KeepsOpt.of_some | simp only [Keeps.upd_iff] | split
    | with_reducible refine KeepsOpt.get (by assumption) ?_ | with_reducible refine KeepsPair.get (by assumption) ?_
    | dsimp only | intro _

theorem execKernelSetStart_keeps {s0 s : State} {id : ℕ} {probes : List FormProbe} (h : Keeps s0 s) :
    KeepsOut s0 (execKernelSetStart id probes s) := by
  unfold execKernelSetStart
  repeat' first
    | with_reducible assumption | with_reducible apply standingChange_keeps | with_reducible apply setStart_keeps
    | with_reducible apply live_keeps | with_reducible apply KeepsOut.next | with_reducible apply Keeps.foldl
    | simp only [Keeps.upd_iff, Keeps.upd_evc_iff, Keeps.upd_tbs_iff, Keeps.upd_both_iff] | split
    | with_reducible refine KeepsOpt.get (by assumption) ?_ | with_reducible refine KeepsPair.get (by assumption) ?_
    | dsimp only | intro _

theorem restore_keeps {s0 s : State} {id : ℕ} (h : Keeps s0 s) :
    Keeps s0 (restore id s) := by
  unfold restore
  repeat' first
    | with_reducible assumption | with_reducible apply joinPairs_keeps | with_reducible apply setVoice_keeps
    | with_reducible apply Keeps.foldl | with_reducible apply KeepsOpt.getD | with_reducible apply KeepsOpt.of_some
    | simp only [Keeps.upd_iff] | split | with_reducible refine KeepsOpt.get (by assumption) ?_
    | with_reducible refine KeepsPair.get (by assumption) ?_ | dsimp only | intro _

theorem execKernelRestore_keeps {s0 s : State} {id : ℕ} (h : Keeps s0 s) :
    KeepsOut s0 (execKernelRestore id s) := by
  unfold execKernelRestore
  repeat' first
    | with_reducible assumption | with_reducible apply standingChange_keeps | with_reducible apply live_keeps
    | with_reducible apply restore_keeps | with_reducible apply KeepsOut.next | with_reducible apply Keeps.foldl
    | simp only [Keeps.upd_iff, Keeps.upd_evc_iff, Keeps.upd_tbs_iff, Keeps.upd_both_iff] | split
    | with_reducible refine KeepsOpt.get (by assumption) ?_ | with_reducible refine KeepsPair.get (by assumption) ?_
    | dsimp only | intro _

theorem kernelTimeout_keeps {s0 s : State} {id : ℕ} (h : Keeps s0 s) :
    Keeps s0 (kernelTimeout id s) := by
  unfold kernelTimeout
  repeat' first
    | with_reducible assumption | with_reducible apply endSet_keeps | with_reducible apply Keeps.foldl
    | with_reducible apply KeepsOpt.getD | with_reducible apply KeepsOpt.of_some
    | simp only [Keeps.upd_iff, Keeps.upd_evc_iff, Keeps.upd_tbs_iff, Keeps.upd_both_iff] | split

theorem execKernelTimeout_keeps {s0 s : State} {id : ℕ} (h : Keeps s0 s) :
    KeepsOut s0 (execKernelTimeout id s) := by
  unfold execKernelTimeout
  repeat' first
    | with_reducible assumption | with_reducible apply kernelTimeout_keeps | with_reducible apply live_keeps
    | with_reducible apply KeepsOut.next | with_reducible apply Keeps.foldl
    | simp only [Keeps.upd_iff, Keeps.upd_evc_iff, Keeps.upd_tbs_iff, Keeps.upd_both_iff] | split
    | with_reducible refine KeepsOpt.get (by assumption) ?_ | with_reducible refine KeepsPair.get (by assumption) ?_
    | dsimp only | intro _

theorem writeVceCtrl_keeps {s0 s : State} {n : Voice} {v : Word} (h : Keeps s0 s) :
    Keeps s0 (writeVceCtrl n v s) := by
  unfold writeVceCtrl
  repeat' first
    | with_reducible assumption | with_reducible apply setVoice_keeps

theorem execVceCtrlWrite_keeps {s0 s : State} {n : Voice} {v : Word} (h : Keeps s0 s) :
    KeepsOut s0 (execVceCtrlWrite n v s) := by
  unfold execVceCtrlWrite
  repeat' first
    | with_reducible assumption | with_reducible apply regWrite_keeps | with_reducible apply live_keeps
    | with_reducible apply writeVceCtrl_keeps | with_reducible apply KeepsOut.next | with_reducible apply Keeps.foldl
    | simp only [Keeps.upd_iff, Keeps.upd_evc_iff, Keeps.upd_tbs_iff, Keeps.upd_both_iff] | split
    | with_reducible refine KeepsOpt.get (by assumption) ?_ | with_reducible refine KeepsPair.get (by assumption) ?_
    | dsimp only | intro _

theorem vceReadEff_keeps {s0 s : State} {n : Voice} {off : ℕ} (h : Keeps s0 s) :
    Keeps s0 (vceReadEff n off s) := by
  unfold vceReadEff
  repeat' first
    | with_reducible assumption | with_reducible apply setVoice_keeps | with_reducible apply Keeps.foldl
    | with_reducible apply KeepsOpt.getD | with_reducible apply KeepsOpt.of_some
    | simp only [Keeps.upd_iff, Keeps.upd_evc_iff, Keeps.upd_tbs_iff, Keeps.upd_both_iff] | split

theorem vceWrite_keeps {s0 s : State} {n : Voice} {off : ℕ} {v : Word} (h : Keeps s0 s) :
    KeepsOpt s0 (vceWrite n off v s) := by
  unfold vceWrite
  repeat' first
    | with_reducible assumption | with_reducible apply regRefused_keeps | with_reducible apply setVoice_keeps
    | with_reducible apply writeVceCtrl_keeps | with_reducible apply KeepsOpt.of_none
    | with_reducible apply KeepsOpt.of_some | with_reducible apply KeepsOpt.map | with_reducible apply KeepsOpt.orElse
    | with_reducible apply Keeps.foldl | dsimp only | split | with_reducible refine KeepsOpt.get (by assumption) ?_
    | with_reducible refine KeepsPair.get (by assumption) ?_ | intro _

theorem setVib_keeps {s0 s : State} {f : Vib → Vib} (h : Keeps s0 s) :
    Keeps s0 (setVib f s) := by
  unfold setVib
  repeat' first
    | with_reducible assumption | with_reducible apply Keeps.foldl | with_reducible apply KeepsOpt.getD
    | with_reducible apply KeepsOpt.of_some | simp only [Keeps.upd_iff]

theorem lockRec_keeps {s0 s : State} {what : ℕ} (h : Keeps s0 s) :
    Keeps s0 (lockRec what s) := by
  unfold lockRec
  repeat' first
    | with_reducible assumption | with_reducible apply logErr_keeps

theorem endRun_keeps {s0 s : State} {reason : ℕ} (h : Keeps s0 s) :
    Keeps s0 (endRun reason s) := by
  unfold endRun
  repeat' first
    | with_reducible assumption | with_reducible apply logErr_keeps | with_reducible apply setVib_keeps
    | with_reducible apply report_keeps | with_reducible apply Keeps.foldl | with_reducible apply KeepsOpt.getD
    | with_reducible apply KeepsOpt.of_some | dsimp only | split

theorem writeVibUnlock_keeps {s0 s : State} {v : Word} (h : Keeps s0 s) :
    Keeps s0 (writeVibUnlock v s) := by
  unfold writeVibUnlock
  repeat' first
    | with_reducible assumption | with_reducible apply setVib_keeps | with_reducible apply regRefused_keeps
    | with_reducible apply lockRec_keeps | with_reducible apply Keeps.foldl | with_reducible apply KeepsOpt.getD
    | with_reducible apply KeepsOpt.of_some | dsimp only | split

theorem execVibUnlockWrite_keeps {s0 s : State} {v : Word} (h : Keeps s0 s) :
    KeepsOut s0 (execVibUnlockWrite v s) := by
  unfold execVibUnlockWrite
  repeat' first
    | with_reducible assumption | with_reducible apply whenRuns_keeps | with_reducible apply regWrite_keeps
    | with_reducible apply live_keeps | with_reducible apply writeVibUnlock_keeps | with_reducible apply KeepsOut.next
    | with_reducible apply Keeps.foldl
    | simp only [Keeps.upd_iff, Keeps.upd_evc_iff, Keeps.upd_tbs_iff, Keeps.upd_both_iff] | split
    | with_reducible refine KeepsOpt.get (by assumption) ?_ | with_reducible refine KeepsPair.get (by assumption) ?_
    | dsimp only | intro _

theorem startRun_keeps {s0 s : State} {v : Word} (h : Keeps s0 s) :
    Keeps s0 (startRun v s) := by
  unfold startRun
  repeat' first
    | with_reducible assumption | with_reducible apply setVib_keeps | with_reducible apply regRefused_keeps
    | with_reducible apply Keeps.foldl | with_reducible apply KeepsOpt.getD | with_reducible apply KeepsOpt.of_some
    | simp only [Keeps.upd_iff, Keeps.upd_evc_iff, Keeps.upd_tbs_iff, Keeps.upd_both_iff] | split

theorem lockVib_keeps {s0 s : State} (h : Keeps s0 s) :
    Keeps s0 (lockVib s) := by
  unfold lockVib
  repeat' first
    | with_reducible assumption | with_reducible apply setVib_keeps | with_reducible apply endRun_keeps
    | with_reducible apply lockRec_keeps

theorem writeVibCtrl_keeps {s0 s : State} {v : Word} (h : Keeps s0 s) :
    Keeps s0 (writeVibCtrl v s) := by
  unfold writeVibCtrl
  repeat' first
    | with_reducible assumption | with_reducible apply lockVib_keeps | with_reducible apply setVib_keeps
    | with_reducible apply regRefused_keeps | with_reducible apply endRun_keeps | with_reducible apply startRun_keeps
    | with_reducible apply Keeps.foldl | with_reducible apply KeepsOpt.getD | with_reducible apply KeepsOpt.of_some
    | dsimp only | split

theorem vibCtrl_keeps {s0 s : State} {v : Word} (h : Keeps s0 s) :
    KeepsOut s0 (vibCtrl v s) := by
  unfold vibCtrl
  repeat' first
    | with_reducible assumption | with_reducible apply writeVibCtrl_keeps | with_reducible apply whenRuns_keeps
    | with_reducible apply regWrite_keeps | with_reducible apply live_keeps | with_reducible apply KeepsOut.next
    | with_reducible apply Keeps.foldl
    | simp only [Keeps.upd_iff, Keeps.upd_evc_iff, Keeps.upd_tbs_iff, Keeps.upd_both_iff] | split
    | with_reducible refine KeepsOpt.get (by assumption) ?_ | with_reducible refine KeepsPair.get (by assumption) ?_
    | dsimp only | intro _

theorem execVibGo_keeps {s0 s : State} (h : Keeps s0 s) :
    KeepsOut s0 (execVibGo s) := by
  unfold execVibGo
  repeat' first
    | with_reducible assumption | with_reducible apply vibCtrl_keeps

theorem execVibStop_keeps {s0 s : State} (h : Keeps s0 s) :
    KeepsOut s0 (execVibStop s) := by
  unfold execVibStop
  repeat' first
    | with_reducible assumption | with_reducible apply vibCtrl_keeps

theorem execVibLock_keeps {s0 s : State} (h : Keeps s0 s) :
    KeepsOut s0 (execVibLock s) := by
  unfold execVibLock
  repeat' first
    | with_reducible assumption | with_reducible apply vibCtrl_keeps

theorem durationExpiry_keeps {s0 s : State} (h : Keeps s0 s) :
    Keeps s0 (durationExpiry s) := by
  unfold durationExpiry
  repeat' first
    | with_reducible assumption | with_reducible apply endRun_keeps | with_reducible apply Keeps.foldl
    | with_reducible apply KeepsOpt.getD | with_reducible apply KeepsOpt.of_some
    | simp only [Keeps.upd_iff, Keeps.upd_evc_iff, Keeps.upd_tbs_iff, Keeps.upd_both_iff] | split

theorem execVibDurationExpiry_keeps {s0 s : State} (h : Keeps s0 s) :
    KeepsOut s0 (execVibDurationExpiry s) := by
  unfold execVibDurationExpiry
  repeat' first
    | with_reducible assumption | with_reducible apply durationExpiry_keeps | with_reducible apply live_keeps

theorem vibSetting_keeps {s0 s : State} {off : ℕ} {v : Word} {ok : Bool} {f : Vib → Vib} (h : Keeps s0 s) :
    Keeps s0 (vibSetting off v ok f s) := by
  unfold vibSetting
  repeat' first
    | with_reducible assumption | with_reducible apply setVib_keeps | with_reducible apply regRefused_keeps
    | with_reducible apply Keeps.foldl | with_reducible apply KeepsOpt.getD | with_reducible apply KeepsOpt.of_some
    | dsimp only | split

theorem vibWrite_keeps {s0 s : State} {off : ℕ} {v : Word} (h : Keeps s0 s) :
    KeepsOpt s0 (vibWrite off v s) := by
  unfold vibWrite
  repeat' first
    | with_reducible assumption | with_reducible apply writeVibCtrl_keeps | with_reducible apply whenRuns_keeps
    | with_reducible apply vibSetting_keeps | with_reducible apply writeVibUnlock_keeps
    | with_reducible apply KeepsOpt.of_none | with_reducible apply KeepsOpt.of_some
    | with_reducible apply KeepsOpt.map | with_reducible apply KeepsOpt.orElse | with_reducible apply Keeps.foldl
    | dsimp only | split | with_reducible refine KeepsOpt.get (by assumption) ?_
    | with_reducible refine KeepsPair.get (by assumption) ?_ | intro _

theorem bumpApt_keeps {s0 s : State} {j : Fin 8} {n : ℕ} (h : Keeps s0 s) :
    Keeps s0 (bumpApt j n s) := by
  unfold bumpApt
  repeat' first
    | with_reducible assumption | with_reducible apply Keeps.foldl | with_reducible apply KeepsOpt.getD
    | with_reducible apply KeepsOpt.of_some | simp only [Keeps.upd_iff]

theorem countSelect_keeps {s0 s : State} {z : List Word} {a : List ℕ} (h : Keeps s0 s) :
    Keeps s0 (countSelect z a s) := by
  unfold countSelect
  repeat' first
    | with_reducible assumption | with_reducible apply bumpApt_keeps

theorem aptReadEff_keeps {s0 s : State} {off : ℕ} (h : Keeps s0 s) :
    Keeps s0 (aptReadEff off s) := by
  unfold aptReadEff
  repeat' first
    | with_reducible assumption | with_reducible apply Keeps.foldl | with_reducible apply KeepsOpt.getD
    | with_reducible apply KeepsOpt.of_some | simp only [Keeps.upd_iff] | split

theorem writeAptCtrl_keeps {s0 s : State} {v : Word} (h : Keeps s0 s) :
    Keeps s0 (writeAptCtrl v s) := by
  unfold writeAptCtrl
  repeat' first
    | with_reducible assumption | with_reducible apply Keeps.foldl | with_reducible apply KeepsOpt.getD
    | with_reducible apply KeepsOpt.of_some | simp only [Keeps.upd_iff] | split

theorem aptWrite_keeps {s0 s : State} {off : ℕ} {v : Word} (h : Keeps s0 s) :
    KeepsOpt s0 (aptWrite off v s) := by
  unfold aptWrite
  repeat' first
    | with_reducible assumption | with_reducible apply whenRuns_keeps | with_reducible apply writeAptCtrl_keeps
    | with_reducible apply KeepsOpt.of_none | with_reducible apply KeepsOpt.of_some
    | with_reducible apply KeepsOpt.map | with_reducible apply KeepsOpt.orElse | with_reducible apply Keeps.foldl
    | simp only [Keeps.upd_iff] | split | with_reducible refine KeepsOpt.get (by assumption) ?_
    | with_reducible refine KeepsPair.get (by assumption) ?_ | dsimp only | intro _

end Sys2Proof.Machine
end

