-- ==== Sys2Proof/Laws/KeepModels.lean ====
section
/-! SUPPORT. `Keeps` for the operations of Machine/Image.lean, Admit.lean, Nand.lean, Models.lean, Prism.lean, Flash.lean. -/

namespace Sys2Proof.Machine

theorem storeResident_keeps {s0 s : State} {units : List (ℕ × ℕ)} {a : ℕ} {a3 : ℕ} {a4 : List Byte} (h : Keeps s0 s) :
    Keeps s0 (storeResident units a a3 a4 s) := by
  unfold storeResident
  repeat' first
    | with_reducible assumption | with_reducible apply storeMem_keeps | with_reducible apply Keeps.foldl
    | with_reducible apply KeepsOpt.getD | with_reducible apply KeepsOpt.of_some
    | with_reducible apply storeResident_keeps | dsimp only | split

theorem putShard_keeps {s0 s : State} {units : List (ℕ × ℕ)} {o : ℕ} {bs : List Byte} (h : Keeps s0 s) :
    Keeps s0 (putShard units o bs s) := by
  unfold putShard
  repeat' first
    | with_reducible assumption | with_reducible apply storeResident_keeps

theorem setBlock_keeps {s0 s : State} {b : ℕ} {f : NandBlock → NandBlock} (h : Keeps s0 s) :
    Keeps s0 (setBlock b f s) := by
  unfold setBlock
  repeat' first
    | with_reducible assumption | with_reducible apply Keeps.foldl | with_reducible apply KeepsOpt.getD
    | with_reducible apply KeepsOpt.of_some | simp only [Keeps.upd_iff]

theorem setSlot_keeps {s0 s : State} {n : Fin 32} {st : ℕ} {len : ℕ} {id : ℕ} (h : Keeps s0 s) :
    Keeps s0 (setSlot n st len id s) := by
  unfold setSlot
  repeat' first
    | with_reducible assumption | with_reducible apply Keeps.foldl | with_reducible apply KeepsOpt.getD
    | with_reducible apply KeepsOpt.of_some | simp only [Keeps.upd_iff]

theorem destroyCtx_keeps {s0 s : State} {p : Part} {key : ℕ} (h : Keeps s0 s) :
    Keeps s0 (destroyCtx p key s) := by
  unfold destroyCtx
  repeat' first
    | with_reducible assumption | with_reducible apply dropCtx_keeps | with_reducible apply toStages_keeps
    | with_reducible apply Keeps.foldl | with_reducible apply KeepsOpt.getD | with_reducible apply KeepsOpt.of_some
    | dsimp only | split

theorem tellJoin_keeps {s0 s : State} {h1 : Handle} (h : Keeps s0 s) :
    Keeps s0 (tellJoin h1 s) := by
  unfold tellJoin
  repeat' first
    | with_reducible assumption | with_reducible apply toStages_keeps | with_reducible apply Keeps.foldl
    | with_reducible apply KeepsOpt.getD | with_reducible apply KeepsOpt.of_some | dsimp only | split

theorem setJoined_keeps {s0 s : State} {h1 : Handle} {b : Bool} (h : Keeps s0 s) :
    Keeps s0 (setJoined h1 b s) := by
  unfold setJoined
  repeat' first
    | with_reducible assumption | with_reducible apply Keeps.foldl | with_reducible apply KeepsOpt.getD
    | with_reducible apply KeepsOpt.of_some | simp only [Keeps.upd_iff]

theorem tryJoin_keeps {s0 s : State} {h1 : Handle} (h : Keeps s0 s) :
    Keeps s0 (tryJoin h1 s) := by
  unfold tryJoin
  repeat' first
    | with_reducible assumption | with_reducible apply setJoined_keeps

theorem judgeJoin_keeps {s0 s : State} {h1 : Handle} {r : JoinRep} (h : Keeps s0 s) :
    Keeps s0 (judgeJoin h1 r s) := by
  unfold judgeJoin
  repeat' first
    | with_reducible assumption | with_reducible apply logErr_keeps | with_reducible apply Keeps.foldl
    | with_reducible apply KeepsOpt.getD | with_reducible apply KeepsOpt.of_some | dsimp only | split

theorem clearDrafts_keeps {s0 s : State} {h1 : Handle} (h : Keeps s0 s) :
    Keeps s0 (clearDrafts h1 s) := by
  unfold clearDrafts
  repeat' first
    | with_reducible assumption | with_reducible apply dropObjs_keeps | with_reducible apply setCtx_keeps
    | with_reducible apply Keeps.foldl | with_reducible apply KeepsOpt.getD | with_reducible apply KeepsOpt.of_some
    | simp only [Keeps.upd_iff, Keeps.upd_evc_iff, Keeps.upd_tbs_iff, Keeps.upd_both_iff] | split
    | with_reducible refine KeepsOpt.get (by assumption) ?_ | with_reducible refine KeepsPair.get (by assumption) ?_
    | dsimp only | intro _

theorem freeModel_keeps {s0 s : State} {h1 : Handle} (h : Keeps s0 s) :
    Keeps s0 (freeModel h1 s) := by
  unfold freeModel
  repeat' first
    | with_reducible assumption | with_reducible apply setModel_keeps | with_reducible apply clearDrafts_keeps
    | with_reducible apply report_keeps | with_reducible apply dropObjs_keeps | with_reducible apply destroyCtx_keeps
    | with_reducible apply tellJoin_keeps | with_reducible apply Keeps.foldl | with_reducible apply KeepsOpt.getD
    | with_reducible apply KeepsOpt.of_some | simp only [Keeps.upd_iff] | split
    | with_reducible refine KeepsOpt.get (by assumption) ?_ | with_reducible refine KeepsPair.get (by assumption) ?_
    | dsimp only | intro _

theorem evictAuto_keeps {s0 s : State} {h1 : Handle} (h : Keeps s0 s) :
    Keeps s0 (evictAuto h1 s) := by
  unfold evictAuto
  repeat' first
    | with_reducible assumption | with_reducible apply logErr_keeps | with_reducible apply freeModel_keeps

theorem autoEvict_keeps {s0 s : State} {p : Part} {skip : Option Handle} {ns : List (ℕ × ℕ)} (h : Keeps s0 s) :
    Keeps s0 (autoEvict p skip ns s) := by
  unfold autoEvict
  repeat' first
    | with_reducible assumption | with_reducible apply evictAuto_keeps | with_reducible apply Keeps.foldl
    | with_reducible apply KeepsOpt.getD | with_reducible apply KeepsOpt.of_some | dsimp only | split

theorem bindDraft_keeps {s0 s : State} {c : Cmd} (h : Keeps s0 s) :
    Keeps s0 (bindDraft c s) := by
  unfold bindDraft
  repeat' first
    | with_reducible assumption | with_reducible apply dropObjs_keeps | with_reducible apply setCtx_keeps
    | with_reducible apply Keeps.foldl | with_reducible apply KeepsOpt.getD | with_reducible apply KeepsOpt.of_some
    | dsimp only | split

theorem reserve_keeps {s0 s : State} {c : Cmd} (h : Keeps s0 s) :
    Keeps s0 (reserve c s) := by
  unfold reserve
  repeat' first
    | with_reducible assumption | with_reducible apply reservePages_keeps | with_reducible apply addObj_keeps
    | with_reducible apply bindDraft_keeps | with_reducible apply placeObj_keeps | with_reducible apply Keeps.foldl
    | with_reducible apply KeepsOpt.getD | with_reducible apply KeepsOpt.of_some | dsimp only | split
    | with_reducible refine KeepsOpt.get (by assumption) ?_ | with_reducible refine KeepsPair.get (by assumption) ?_
    | intro _

theorem noteDefer_keeps {s0 s : State} {p : Part} {f : State → State} (f_keeps : ∀ t, Keeps s0 t → Keeps s0 (f t))
    (h : Keeps s0 s) :
    Keeps s0 (noteDefer p f s) := by
  unfold noteDefer
  repeat' first
    | with_reducible assumption | with_reducible apply f_keeps | with_reducible apply occur_keeps
    | with_reducible apply Keeps.foldl | with_reducible apply KeepsOpt.getD | with_reducible apply KeepsOpt.of_some
    | simp only [Keeps.upd_iff] | split

theorem releasePeers_keeps {s0 s : State} {id : ℕ} (h : Keeps s0 s) :
    Keeps s0 (releasePeers id s) := by
  unfold releasePeers
  repeat' first
    | with_reducible assumption | with_reducible apply toStages_keeps | with_reducible apply Keeps.foldl
    | with_reducible apply KeepsOpt.getD | with_reducible apply KeepsOpt.of_some
    | simp only [Keeps.upd_iff, Keeps.upd_evc_iff, Keeps.upd_tbs_iff, Keeps.upd_both_iff] | split

theorem refuse_keeps {s0 s : State} {id : ℕ} {status : ℕ} {detail : ℕ} (h : Keeps s0 s) :
    Keeps s0 (refuse id status detail s) := by
  unfold refuse
  exact finish_keeps (releasePeers_keeps h)

theorem enterDefer_keeps {s0 s : State} {c : Cmd} {r : ℕ} {judged : Bool} (h : Keeps s0 s) :
    Keeps s0 (enterDefer c r judged s) := by
  unfold enterDefer
  repeat' first
    | with_reducible assumption | with_reducible apply setCmd_keeps | with_reducible apply noteDefer_keeps
    | with_reducible apply Keeps.foldl | with_reducible apply KeepsOpt.getD | with_reducible apply KeepsOpt.of_some
    | simp only [Keeps.upd_iff, Keeps.upd_evc_iff, Keeps.upd_tbs_iff, Keeps.upd_both_iff] | split
    | with_reducible refine KeepsOpt.get (by assumption) ?_ | with_reducible refine KeepsPair.get (by assumption) ?_
    | dsimp only | intro _

theorem defer_keeps {s0 s : State} {c : Cmd} {r : ℕ} {judged : Bool} (h : Keeps s0 s) :
    Keeps s0 (defer c r judged s) := by
  unfold defer
  repeat' first
    | with_reducible assumption | with_reducible apply enterDefer_keeps | with_reducible apply refuse_keeps
    | with_reducible apply Keeps.foldl | with_reducible apply KeepsOpt.getD | with_reducible apply KeepsOpt.of_some
    | dsimp only | split

theorem enterCtx_keeps {s0 s : State} {c : Cmd} (h : Keeps s0 s) :
    Keeps s0 (enterCtx c s) := by
  unfold enterCtx
  repeat' first
    | with_reducible assumption | with_reducible apply newCtx_keeps | with_reducible apply dropObjs_keeps
    | with_reducible apply setCmd_keeps | with_reducible apply setCtx_keeps | with_reducible apply Keeps.foldl
    | with_reducible apply KeepsOpt.getD | with_reducible apply KeepsOpt.of_some | dsimp only | split

theorem accessFault_keeps {s0 s : State} {c : Cmd} {a : ℕ} (h : Keeps s0 s) :
    Keeps s0 (accessFault c a s) := by
  unfold accessFault
  repeat' first
    | with_reducible assumption | with_reducible apply logErr_keeps | with_reducible apply failCmd_keeps

theorem sendReads_keeps {s0 s : State} {id : ℕ} {a : ℕ} (h : Keeps s0 s) :
    Keeps s0 (sendReads id a s) := by
  unfold sendReads
  repeat' first
    | with_reducible assumption | with_reducible apply send_keeps | with_reducible apply setCmd_keeps
    | with_reducible apply Keeps.foldl | with_reducible apply KeepsOpt.getD | with_reducible apply KeepsOpt.of_some
    | with_reducible apply sendReads_keeps | dsimp only | split

theorem askInput_keeps {s0 s : State} {id : ℕ} (h : Keeps s0 s) :
    Keeps s0 (askInput id s) := by
  unfold askInput
  repeat' first
    | with_reducible assumption | with_reducible apply accessFault_keeps | with_reducible apply request_keeps
    | with_reducible apply sendReads_keeps | with_reducible apply Keeps.foldl | with_reducible apply KeepsOpt.getD
    | with_reducible apply KeepsOpt.of_some | dsimp only | split

theorem want_keeps {s0 s : State} {id : ℕ} {a : ℕ} {len : ℕ} (h : Keeps s0 s) :
    Keeps s0 (want id a len s) := by
  unfold want
  repeat' first
    | with_reducible assumption | with_reducible apply setCmd_keeps | with_reducible apply askInput_keeps

theorem beginLoad_keeps {s0 s : State} {j : Job} (h : Keeps s0 s) :
    Keeps s0 (beginLoad j s) := by
  unfold beginLoad
  repeat' first
    | with_reducible assumption | with_reducible apply setModel_keeps | with_reducible apply endWait_keeps
    | with_reducible apply want_keeps | with_reducible apply setCmd_keeps | with_reducible apply Keeps.foldl
    | with_reducible apply KeepsOpt.getD | with_reducible apply KeepsOpt.of_some | simp only [Keeps.upd_iff] | split

theorem claimSlot_keeps {s0 s : State} {c : Cmd} (h : Keeps s0 s) :
    Keeps s0 (claimSlot c s) := by
  unfold claimSlot
  repeat' first
    | with_reducible assumption | with_reducible apply setSlot_keeps | with_reducible apply Keeps.foldl
    | with_reducible apply KeepsOpt.getD | with_reducible apply KeepsOpt.of_some | dsimp only | split

theorem start_keeps {s0 s : State} {id : ℕ} (h : Keeps s0 s) :
    Keeps s0 (start id s) := by
  unfold start
  repeat' first
    | with_reducible assumption | with_reducible apply claimSlot_keeps | with_reducible apply beginLoad_keeps
    | with_reducible apply setCmd_keeps | with_reducible apply enterCtx_keeps | with_reducible apply Keeps.foldl
    | with_reducible apply KeepsOpt.getD | with_reducible apply KeepsOpt.of_some | dsimp only | split

theorem decide__keeps {s0 s : State} {id : ℕ} (h : Keeps s0 s) :
    Keeps s0 (decide_ id s) := by
  unfold decide_
  repeat' first
    | with_reducible assumption | with_reducible apply start_keeps | with_reducible apply defer_keeps
    | with_reducible apply refuse_keeps | with_reducible apply Keeps.foldl | with_reducible apply KeepsOpt.getD
    | with_reducible apply KeepsOpt.of_some | dsimp only | split

theorem askStages_keeps {s0 s : State} {c : Cmd} {sp : Split} (h : Keeps s0 s) :
    Keeps s0 (askStages c sp s) := by
  unfold askStages
  repeat' first
    | with_reducible assumption | with_reducible apply toStages_keeps | with_reducible apply Keeps.foldl
    | with_reducible apply KeepsOpt.getD | with_reducible apply KeepsOpt.of_some | simp only [Keeps.upd_iff]

theorem admitQuota_keeps {s0 s : State} {id : ℕ} (h : Keeps s0 s) :
    Keeps s0 (admitQuota id s) := by
  unfold admitQuota
  repeat' first
    | with_reducible assumption | with_reducible apply decide__keeps | with_reducible apply askStages_keeps
    | with_reducible apply reserve_keeps | with_reducible apply autoEvict_keeps | with_reducible apply quotaLast_keeps
    | with_reducible apply setCmd_keeps | with_reducible apply refuse_keeps | with_reducible apply Keeps.foldl
    | with_reducible apply KeepsOpt.getD | with_reducible apply KeepsOpt.of_some | dsimp only | split

theorem holdBack_keeps {s0 s : State} {id : ℕ} (h : Keeps s0 s) :
    Keeps s0 (holdBack id s) := by
  unfold holdBack
  repeat' first
    | with_reducible assumption | with_reducible apply defer_keeps | with_reducible apply refuse_keeps
    | with_reducible apply Keeps.foldl | with_reducible apply KeepsOpt.getD | with_reducible apply KeepsOpt.of_some
    | simp only [Keeps.upd_iff, Keeps.upd_evc_iff, Keeps.upd_tbs_iff, Keeps.upd_both_iff] | split

theorem admitCmd_keeps {s0 s : State} {id : ℕ} (h : Keeps s0 s) :
    Keeps s0 (admitCmd id s) := by
  unfold admitCmd
  repeat' first
    | with_reducible assumption | with_reducible apply admitQuota_keeps | with_reducible apply setCmd_keeps
    | with_reducible apply refuse_keeps | with_reducible apply holdBack_keeps | with_reducible apply Keeps.foldl
    | with_reducible apply KeepsOpt.getD | with_reducible apply KeepsOpt.of_some | dsimp only | split

theorem checkEntry_keeps {s0 s : State} {id : ℕ} (h : Keeps s0 s) :
    Keeps s0 (checkEntry id s) := by
  unfold checkEntry
  repeat' first
    | with_reducible assumption | with_reducible apply logErr_keeps | with_reducible apply admitCmd_keeps
    | with_reducible apply refuse_keeps | with_reducible apply Keeps.foldl | with_reducible apply KeepsOpt.getD
    | with_reducible apply KeepsOpt.of_some | dsimp only | split

theorem askFetch_keeps {s0 s : State} {p : Part} (h : Keeps s0 s) :
    Keeps s0 (askFetch p s) := by
  unfold askFetch
  repeat' first
    | with_reducible assumption | with_reducible apply send_keeps | with_reducible apply request_keeps
    | with_reducible apply setPage_keeps | with_reducible apply Keeps.foldl | with_reducible apply KeepsOpt.getD
    | with_reducible apply KeepsOpt.of_some | dsimp only | split

theorem fetched_keeps {s0 s : State} {p : Part} {entry : List Byte} (h : Keeps s0 s) :
    Keeps s0 (fetched p entry s) := by
  unfold fetched
  repeat' first
    | with_reducible assumption | with_reducible apply checkEntry_keeps | with_reducible apply setPage_keeps
    | with_reducible apply Keeps.foldl | with_reducible apply KeepsOpt.getD | with_reducible apply KeepsOpt.of_some
    | simp only [Keeps.upd_iff]

theorem submissionFetch_keeps {s0 s : State} {p : Part} {entry : List Byte} (h : Keeps s0 s) :
    Keeps s0 (submissionFetch p entry s) := by
  unfold submissionFetch
  repeat' first
    | with_reducible assumption | with_reducible apply fetched_keeps | with_reducible apply withDma_keeps
    | with_reducible apply askFetch_keeps | with_reducible apply Keeps.foldl | with_reducible apply KeepsOpt.getD
    | with_reducible apply KeepsOpt.of_some
    | simp only [Keeps.upd_iff, Keeps.upd_evc_iff, Keeps.upd_tbs_iff, Keeps.upd_both_iff] | split
    | with_reducible refine KeepsOpt.get (by assumption) ?_ | with_reducible refine KeepsPair.get (by assumption) ?_
    | dsimp only | intro _

theorem execSubmissionFetch_keeps {s0 s : State} {p : Part} {entry : List Byte} (h : Keeps s0 s) :
    KeepsOut s0 (execSubmissionFetch p entry s) := by
  unfold execSubmissionFetch
  repeat' first
    | with_reducible assumption | with_reducible apply submissionFetch_keeps | with_reducible apply live_keeps
    | with_reducible apply KeepsOut.next | with_reducible apply Keeps.foldl
    | simp only [Keeps.upd_iff, Keeps.upd_evc_iff, Keeps.upd_tbs_iff, Keeps.upd_both_iff] | split
    | with_reducible refine KeepsOpt.get (by assumption) ?_ | with_reducible refine KeepsPair.get (by assumption) ?_
    | dsimp only | intro _

theorem deferredStart_keeps {s0 s : State} {id : ℕ} (h : Keeps s0 s) :
    Keeps s0 (deferredStart id s) := by
  unfold deferredStart
  repeat' first
    | with_reducible assumption | with_reducible apply start_keeps | with_reducible apply setCmd_keeps
    | with_reducible apply admitCmd_keeps | with_reducible apply refuse_keeps | with_reducible apply Keeps.foldl
    | with_reducible apply KeepsOpt.getD | with_reducible apply KeepsOpt.of_some
    | simp only [Keeps.upd_iff, Keeps.upd_evc_iff, Keeps.upd_tbs_iff, Keeps.upd_both_iff] | split

theorem patienceExpiry_keeps {s0 s : State} {id : ℕ} (h : Keeps s0 s) :
    Keeps s0 (patienceExpiry id s) := by
  unfold patienceExpiry
  repeat' first
    | with_reducible assumption | with_reducible apply refuse_keeps | with_reducible apply Keeps.foldl
    | with_reducible apply KeepsOpt.getD | with_reducible apply KeepsOpt.of_some
    | simp only [Keeps.upd_iff, Keeps.upd_evc_iff, Keeps.upd_tbs_iff, Keeps.upd_both_iff] | split

theorem execPatienceExpiry_keeps {s0 s : State} {id : ℕ} (h : Keeps s0 s) :
    KeepsOut s0 (execPatienceExpiry id s) := by
  unfold execPatienceExpiry
  repeat' first
    | with_reducible assumption | with_reducible apply patienceExpiry_keeps | with_reducible apply live_keeps
    | with_reducible apply KeepsOut.next | with_reducible apply Keeps.foldl
    | simp only [Keeps.upd_iff, Keeps.upd_evc_iff, Keeps.upd_tbs_iff, Keeps.upd_both_iff] | split
    | with_reducible refine KeepsOpt.get (by assumption) ?_ | with_reducible refine KeepsPair.get (by assumption) ?_
    | dsimp only | intro _

theorem markBlock_keeps {s0 s : State} {b : ℕ} {reason : ℕ} (h : Keeps s0 s) :
    Keeps s0 (markBlock b reason s) := by
  unfold markBlock
  repeat' first
    | with_reducible assumption | with_reducible apply setBlock_keeps | with_reducible apply Keeps.foldl
    | with_reducible apply KeepsOpt.getD | with_reducible apply KeepsOpt.of_some
    | simp only [Keeps.upd_iff, Keeps.upd_evc_iff, Keeps.upd_tbs_iff, Keeps.upd_both_iff] | split

theorem cwLost_keeps {s0 s : State} {b : ℕ} {page : ℕ} {part : ℕ} {who : Option Cmd} (h : Keeps s0 s) :
    Keeps s0 (cwLost b page part who s) := by
  unfold cwLost
  repeat' first
    | with_reducible assumption | with_reducible apply logErr_keeps | with_reducible apply Keeps.foldl
    | with_reducible apply KeepsOpt.getD | with_reducible apply KeepsOpt.of_some | simp only [Keeps.upd_iff]

theorem readCw_keeps {s0 s : State} {b : ℕ} {page : ℕ} {i : ℕ} {first : ℕ} {part : ℕ} {who : Option Cmd}
    {r : CwRead} (h : Keeps s0 s) :
    Keeps s0 (readCw b page i first part who r s) := by
  unfold readCw
  repeat' first
    | with_reducible assumption | with_reducible apply markBlock_keeps | with_reducible apply cwLost_keeps
    | with_reducible apply Keeps.foldl | with_reducible apply KeepsOpt.getD | with_reducible apply KeepsOpt.of_some
    | simp only [Keeps.upd_iff] | split

theorem countReads_keeps {s0 s : State} {b : ℕ} {n : ℕ} (h : Keeps s0 s) :
    Keeps s0 (countReads b n s) := by
  unfold countReads
  repeat' first
    | with_reducible assumption | with_reducible apply markBlock_keeps | with_reducible apply setBlock_keeps
    | with_reducible apply Keeps.foldl | with_reducible apply KeepsOpt.getD | with_reducible apply KeepsOpt.of_some
    | dsimp only | split

theorem readCws_keeps {s0 s : State} {b : ℕ} {page : ℕ} {first : ℕ} {part : ℕ} {who : Option Cmd}
    {cws : List CwRead} (h : Keeps s0 s) :
    Keeps s0 (readCws b page first part who cws s) := by
  unfold readCws
  repeat' first
    | with_reducible assumption | with_reducible apply readCw_keeps | with_reducible apply setBlock_keeps
    | with_reducible apply countReads_keeps | with_reducible apply Keeps.foldl | with_reducible apply KeepsOpt.getD
    | with_reducible apply KeepsOpt.of_some | dsimp only | split
    | with_reducible refine KeepsOpt.get (by assumption) ?_ | with_reducible refine KeepsPair.get (by assumption) ?_
    | intro _

theorem setJob_keeps {s0 s : State} {o : JobFor} {f : Job → Job} (h : Keeps s0 s) :
    Keeps s0 (setJob o f s) := by
  unfold setJob
  repeat' first
    | with_reducible assumption | with_reducible apply Keeps.foldl | with_reducible apply KeepsOpt.getD
    | with_reducible apply KeepsOpt.of_some | simp only [Keeps.upd_iff]

theorem withFlash_keeps {s0 s : State} {chs : List ℕ} {t2 : Tag} {k : State → State}
    (k_keeps : ∀ t, Keeps s0 t → Keeps s0 (k t)) (h : Keeps s0 s) :
    Keeps s0 (withFlash chs t2 k s) := by
  unfold withFlash
  repeat' first
    | with_reducible assumption | with_reducible apply k_keeps | with_reducible apply endGrant_keeps
    | with_reducible apply request_keeps | with_reducible apply Keeps.foldl | with_reducible apply KeepsOpt.getD
    | with_reducible apply KeepsOpt.of_some
    | simp only [Keeps.upd_iff, Keeps.upd_evc_iff, Keeps.upd_tbs_iff, Keeps.upd_both_iff] | split
    | with_reducible refine KeepsOpt.get (by assumption) ?_ | with_reducible refine KeepsPair.get (by assumption) ?_
    | dsimp only | intro _

theorem commitFuses_keeps {s0 s : State} (h : Keeps s0 s) :
    Keeps s0 (commitFuses s) := by
  unfold commitFuses
  repeat' first
    | with_reducible assumption | with_reducible apply Keeps.foldl | with_reducible apply KeepsOpt.getD
    | with_reducible apply KeepsOpt.of_some
    | exact ⟨h.mem, h.fuses.trans ⟨rfl, rfl, rfl, rfl, rfl, Nat.le_max_left _ _, by simp [← BitVec.or_assoc]⟩, h.pending, h.counts, h.now⟩
    | dsimp only | split

theorem fullEntry_keeps {s0 s : State} (h : Keeps s0 s) :
    Keeps s0 (fullEntry s) := by
  unfold fullEntry
  repeat' first
    | with_reducible assumption | with_reducible apply commitFuses_keeps | with_reducible apply settleEarly_keeps
    | with_reducible apply enterStage_keeps | with_reducible apply Keeps.foldl | with_reducible apply KeepsOpt.getD
    | with_reducible apply KeepsOpt.of_some | simp only [Keeps.upd_iff]

theorem preloadPos_keeps {s0 s : State} (h : Keeps s0 s) :
    Keeps s0 (preloadPos s) := by
  unfold preloadPos
  repeat' first
    | with_reducible assumption | with_reducible apply Keeps.foldl | with_reducible apply KeepsOpt.getD
    | with_reducible apply KeepsOpt.of_some | simp only [Keeps.upd_iff] | split

theorem preloadFailed_keeps {s0 s : State} {i : ℕ} {status : ℕ} (h : Keeps s0 s) :
    Keeps s0 (preloadFailed i status s) := by
  unfold preloadFailed
  repeat' first
    | with_reducible assumption | with_reducible apply logErr_keeps | with_reducible apply Keeps.foldl
    | with_reducible apply KeepsOpt.getD | with_reducible apply KeepsOpt.of_some | dsimp only | split

theorem preloadGo_keeps {s0 s : State} {a : ℕ} (h : Keeps s0 s) :
    Keeps s0 (preloadGo a s) := by
  unfold preloadGo
  repeat' first
    | with_reducible assumption | with_reducible apply preloadPos_keeps | with_reducible apply preloadFailed_keeps
    | with_reducible apply fullEntry_keeps | with_reducible apply Keeps.foldl | with_reducible apply KeepsOpt.getD
    | with_reducible apply KeepsOpt.of_some | with_reducible apply preloadGo_keeps | simp only [Keeps.upd_iff] | split

theorem preloadAll_keeps {s0 s : State} (h : Keeps s0 s) :
    Keeps s0 (preloadAll s) := by
  unfold preloadAll
  repeat' first
    | with_reducible assumption | with_reducible apply preloadGo_keeps

theorem startPreload_keeps {s0 s : State} (h : Keeps s0 s) :
    Keeps s0 (startPreload s) := by
  unfold startPreload
  repeat' first
    | with_reducible assumption | with_reducible apply preloadAll_keeps | with_reducible apply enterStage_keeps
    | with_reducible apply Keeps.foldl | with_reducible apply KeepsOpt.getD | with_reducible apply KeepsOpt.of_some
    | simp only [Keeps.upd_iff]

theorem nextVerify_keeps {s0 s : State} (h : Keeps s0 s) :
    Keeps s0 (nextVerify s) := by
  unfold nextVerify
  repeat' first
    | with_reducible assumption | with_reducible apply endWait_keeps | with_reducible apply want_keeps
    | with_reducible apply setJob_keeps | with_reducible apply Keeps.foldl | with_reducible apply KeepsOpt.getD
    | with_reducible apply KeepsOpt.of_some | dsimp only | split

theorem dropJob_keeps {s0 s : State} {o : JobFor} (h : Keeps s0 s) :
    Keeps s0 (dropJob o s) := by
  unfold dropJob
  repeat' first
    | with_reducible assumption | with_reducible apply setModel_keeps | with_reducible apply dropObjs_keeps
    | with_reducible apply nextVerify_keeps | with_reducible apply Keeps.foldl | with_reducible apply KeepsOpt.getD
    | with_reducible apply KeepsOpt.of_some | simp only [Keeps.upd_iff] | split

theorem jobFail_keeps {s0 s : State} {o : JobFor} {status : ℕ} {detail : ℕ} {refused : Bool} (h : Keeps s0 s) :
    Keeps s0 (jobFail o status detail refused s) := by
  unfold jobFail
  repeat' first
    | with_reducible assumption | with_reducible apply preloadAll_keeps | with_reducible apply finish_keeps
    | with_reducible apply dropJob_keeps | with_reducible apply preloadFailed_keeps | with_reducible apply Keeps.foldl
    | with_reducible apply KeepsOpt.getD | with_reducible apply KeepsOpt.of_some | simp only [Keeps.upd_iff] | split

theorem reserveJob_keeps {s0 s : State} {j : Job} {h2 : ImgHdr} (h : Keeps s0 s) :
    Keeps s0 (reserveJob j h2 s) := by
  unfold reserveJob
  repeat' first
    | with_reducible assumption | with_reducible apply setJob_keeps | with_reducible apply addObj_keeps
    | with_reducible apply placeObj_keeps | with_reducible apply Keeps.foldl | with_reducible apply KeepsOpt.getD
    | with_reducible apply KeepsOpt.of_some
    | simp only [Keeps.upd_iff, Keeps.upd_evc_iff, Keeps.upd_tbs_iff, Keeps.upd_both_iff] | split

theorem headerStep_keeps {s0 s : State} {j : Job} {b : List Byte} (h : Keeps s0 s) :
    Keeps s0 (headerStep j b s) := by
  unfold headerStep
  repeat' first
    | with_reducible assumption | with_reducible apply decide__keeps | with_reducible apply autoEvict_keeps
    | with_reducible apply quotaLast_keeps | with_reducible apply beginLoad_keeps | with_reducible apply jobFail_keeps
    | with_reducible apply reserveJob_keeps | with_reducible apply dropJob_keeps | with_reducible apply Keeps.foldl
    | with_reducible apply KeepsOpt.getD | with_reducible apply KeepsOpt.of_some | dsimp only | split

theorem shardFailed_keeps {s0 s : State} {j : Job} {id : ℕ} {i : ℕ} {layer : ℕ} (h : Keeps s0 s) :
    Keeps s0 (shardFailed j id i layer s) := by
  unfold shardFailed
  repeat' first
    | with_reducible assumption | with_reducible apply logErr_keeps

theorem placeShard_keeps {s0 s : State} {units : List (ℕ × ℕ)} {ts : List Tensor} {ss : List Shard} {i : ℕ}
    {b : List Byte} (h : Keeps s0 s) :
    Keeps s0 (placeShard units ts ss i b s) := by
  unfold placeShard
  repeat' first
    | with_reducible assumption | with_reducible apply putShard_keeps

theorem acceptLoad_keeps {s0 s : State} {j : Job} (h : Keeps s0 s) :
    Keeps s0 (acceptLoad j s) := by
  unfold acceptLoad
  repeat' first
    | with_reducible assumption | with_reducible apply setModel_keeps | with_reducible apply clearDrafts_keeps
    | with_reducible apply tryJoin_keeps | with_reducible apply dropObjs_keeps | with_reducible apply preloadAll_keeps
    | with_reducible apply finish_keeps | with_reducible apply markIdle_keeps | with_reducible apply tellJoin_keeps
    | with_reducible apply judgeJoin_keeps | with_reducible apply Keeps.foldl | with_reducible apply KeepsOpt.getD
    | with_reducible apply KeepsOpt.of_some | simp only [Keeps.upd_iff] | split
    | with_reducible refine KeepsOpt.get (by assumption) ?_ | with_reducible refine KeepsPair.get (by assumption) ?_
    | dsimp only | intro _

theorem fetchShard_keeps {s0 s : State} {o : JobFor} {attempt : ℕ} (h : Keeps s0 s) :
    Keeps s0 (fetchShard o attempt s) := by
  unfold fetchShard
  repeat' first
    | with_reducible assumption | with_reducible apply preloadPos_keeps | with_reducible apply want_keeps
    | with_reducible apply setJob_keeps | with_reducible apply Keeps.foldl | with_reducible apply KeepsOpt.getD
    | with_reducible apply KeepsOpt.of_some | dsimp only | split

theorem nextShard_keeps {s0 s : State} {o : JobFor} {i : ℕ} (h : Keeps s0 s) :
    Keeps s0 (nextShard o i s) := by
  unfold nextShard
  repeat' first
    | with_reducible assumption | with_reducible apply acceptLoad_keeps | with_reducible apply setJob_keeps
    | with_reducible apply fetchShard_keeps | with_reducible apply Keeps.foldl | with_reducible apply KeepsOpt.getD
    | with_reducible apply KeepsOpt.of_some | dsimp only | split

theorem loadShard_keeps {s0 s : State} {j : Job} {i : ℕ} {x2 : Shard} {r : ShardRead} (h : Keeps s0 s) :
    Keeps s0 (loadShard j i x2 r s) := by
  unfold loadShard
  repeat' first
    | with_reducible assumption | with_reducible apply shardFailed_keeps | with_reducible apply nextShard_keeps
    | with_reducible apply setJob_keeps | with_reducible apply jobFail_keeps | with_reducible apply placeShard_keeps
    | with_reducible apply Keeps.foldl | with_reducible apply KeepsOpt.getD | with_reducible apply KeepsOpt.of_some
    | dsimp only | split

theorem verified_keeps {s0 s : State} {j : Job} {i : ℕ} {x2 : Shard} {r : ShardRead} (h : Keeps s0 s) :
    Keeps s0 (verified j i x2 r s) := by
  unfold verified
  repeat' first
    | with_reducible assumption | with_reducible apply shardFailed_keeps | with_reducible apply setJob_keeps
    | with_reducible apply Keeps.foldl | with_reducible apply KeepsOpt.getD | with_reducible apply KeepsOpt.of_some
    | dsimp only | split

theorem verifyShard_keeps {s0 s : State} {j : Job} {i : ℕ} {x2 : Shard} {r : ShardRead} (h : Keeps s0 s) :
    Keeps s0 (verifyShard j i x2 r s) := by
  unfold verifyShard
  repeat' first
    | with_reducible assumption | with_reducible apply setJob_keeps | with_reducible apply fetchShard_keeps
    | with_reducible apply verified_keeps | with_reducible apply Keeps.foldl | with_reducible apply KeepsOpt.getD
    | with_reducible apply KeepsOpt.of_some
    | simp only [Keeps.upd_iff, Keeps.upd_evc_iff, Keeps.upd_tbs_iff, Keeps.upd_both_iff] | split

theorem revertShard_keeps {s0 s : State} {j : Job} {i : ℕ} {x2 : Shard} {r : ShardRead} (h : Keeps s0 s) :
    Keeps s0 (revertShard j i x2 r s) := by
  unfold revertShard
  repeat' first
    | with_reducible assumption | with_reducible apply shardFailed_keeps | with_reducible apply setModel_keeps
    | with_reducible apply setJob_keeps | with_reducible apply fetchShard_keeps
    | with_reducible apply placeShard_keeps | with_reducible apply Keeps.foldl | with_reducible apply KeepsOpt.getD
    | with_reducible apply KeepsOpt.of_some
    | simp only [Keeps.upd_iff, Keeps.upd_evc_iff, Keeps.upd_tbs_iff, Keeps.upd_both_iff] | split

theorem shardRead_keeps {s0 s : State} {j : Job} {r : ShardRead} (h : Keeps s0 s) :
    Keeps s0 (shardRead j r s) := by
  unfold shardRead
  repeat' first
    | with_reducible assumption | with_reducible apply verifyShard_keeps | with_reducible apply setJob_keeps
    | with_reducible apply fetchShard_keeps | with_reducible apply revertShard_keeps
    | with_reducible apply loadShard_keeps | with_reducible apply Keeps.foldl | with_reducible apply KeepsOpt.getD
    | with_reducible apply KeepsOpt.of_some
    | simp only [Keeps.upd_iff, Keeps.upd_evc_iff, Keeps.upd_tbs_iff, Keeps.upd_both_iff] | split

theorem tablesStep_keeps {s0 s : State} {j : Job} {b : List Byte} (h : Keeps s0 s) :
    Keeps s0 (tablesStep j b s) := by
  unfold tablesStep
  repeat' first
    | with_reducible assumption | with_reducible apply setJob_keeps | with_reducible apply fetchShard_keeps
    | with_reducible apply jobFail_keeps | with_reducible apply Keeps.foldl | with_reducible apply KeepsOpt.getD
    | with_reducible apply KeepsOpt.of_some
    | simp only [Keeps.upd_iff, Keeps.upd_evc_iff, Keeps.upd_tbs_iff, Keeps.upd_both_iff] | split

theorem itemEnd_keeps {s0 s : State} {o : JobFor} {r : ShardRead} (h : Keeps s0 s) :
    Keeps s0 (itemEnd o r s) := by
  unfold itemEnd
  repeat' first
    | with_reducible assumption | with_reducible apply tablesStep_keeps | with_reducible apply shardRead_keeps
    | with_reducible apply headerStep_keeps | with_reducible apply jobFail_keeps | with_reducible apply Keeps.foldl
    | with_reducible apply KeepsOpt.getD | with_reducible apply KeepsOpt.of_some
    | simp only [Keeps.upd_iff, Keeps.upd_evc_iff, Keeps.upd_tbs_iff, Keeps.upd_both_iff] | split

theorem jobPage_keeps {s0 s : State} {j : Job} {bytes : List Byte} {lost : List ℕ} (h : Keeps s0 s) :
    Keeps s0 (jobPage j bytes lost s) := by
  unfold jobPage
  repeat' first
    | with_reducible assumption | with_reducible apply preloadPos_keeps | with_reducible apply setJob_keeps
    | with_reducible apply itemEnd_keeps | with_reducible apply Keeps.foldl | with_reducible apply KeepsOpt.getD
    | with_reducible apply KeepsOpt.of_some
    | simp only [Keeps.upd_iff, Keeps.upd_evc_iff, Keeps.upd_tbs_iff, Keeps.upd_both_iff] | split

theorem openImage_keeps {s0 s : State} {id : ℕ} (h : Keeps s0 s) :
    Keeps s0 (openImage id s) := by
  unfold openImage
  repeat' first
    | with_reducible assumption | with_reducible apply want_keeps | with_reducible apply admitCmd_keeps
    | with_reducible apply refuse_keeps | with_reducible apply Keeps.foldl | with_reducible apply KeepsOpt.getD
    | with_reducible apply KeepsOpt.of_some | simp only [Keeps.upd_iff] | split

theorem swapVerifyEnd_keeps {s0 s : State} (h : Keeps s0 s) :
    Keeps s0 (swapVerifyEnd s) := by
  unfold swapVerifyEnd
  repeat' first
    | with_reducible assumption | with_reducible apply setJob_keeps | with_reducible apply jobFail_keeps
    | with_reducible apply verified_keeps | with_reducible apply Keeps.foldl | with_reducible apply KeepsOpt.getD
    | with_reducible apply KeepsOpt.of_some | dsimp only | split

theorem syncHandle_keeps {s0 s : State} {h1 : Handle} (h : Keeps s0 s) :
    Keeps s0 (syncHandle h1 s) := by
  unfold syncHandle
  repeat' first
    | with_reducible assumption | with_reducible apply syncHolds_keeps

theorem swapWriteStart_keeps {s0 s : State} (h : Keeps s0 s) :
    Keeps s0 (swapWriteStart s) := by
  unfold swapWriteStart
  repeat' first
    | with_reducible assumption | with_reducible apply setModel_keeps | with_reducible apply fetchShard_keeps
    | with_reducible apply syncHandle_keeps | with_reducible apply Keeps.foldl | with_reducible apply KeepsOpt.getD
    | with_reducible apply KeepsOpt.of_some
    | simp only [Keeps.upd_iff, Keeps.upd_evc_iff, Keeps.upd_tbs_iff, Keeps.upd_both_iff] | split

theorem swapRecord_keeps {s0 s : State} {j : Job} {front : ℕ} {why : ℕ} (h : Keeps s0 s) :
    Keeps s0 (swapRecord j front why s) := by
  unfold swapRecord
  repeat' first
    | with_reducible assumption | with_reducible apply logErr_keeps

theorem emptyWindow_keeps {s0 s : State} {h1 : Handle} (h : Keeps s0 s) :
    Keeps s0 (emptyWindow h1 s) := by
  unfold emptyWindow
  repeat' first
    | with_reducible assumption | with_reducible apply setModel_keeps | with_reducible apply Keeps.foldl
    | with_reducible apply KeepsOpt.getD | with_reducible apply KeepsOpt.of_some | simp only [Keeps.upd_iff]

theorem swapFinish_keeps {s0 s : State} {j : Job} {status : ℕ} {detail : ℕ} (h : Keeps s0 s) :
    Keeps s0 (swapFinish j status detail s) := by
  unfold swapFinish
  repeat' first
    | with_reducible assumption | with_reducible apply finish_keeps | with_reducible apply nextVerify_keeps
    | with_reducible apply Keeps.foldl | with_reducible apply KeepsOpt.getD | with_reducible apply KeepsOpt.of_some
    | simp only [Keeps.upd_iff, Keeps.upd_evc_iff, Keeps.upd_tbs_iff, Keeps.upd_both_iff] | split

theorem liftBarrier_keeps {s0 s : State} {h1 : Handle} (h : Keeps s0 s) :
    Keeps s0 (liftBarrier h1 s) := by
  unfold liftBarrier
  repeat' first
    | with_reducible assumption | with_reducible apply setModel_keeps | with_reducible apply syncHandle_keeps

theorem swapDone_keeps {s0 s : State} {j : Job} (h : Keeps s0 s) :
    Keeps s0 (swapDone j s) := by
  unfold swapDone
  repeat' first
    | with_reducible assumption | with_reducible apply setModel_keeps | with_reducible apply emptyWindow_keeps
    | with_reducible apply dropObjs_keeps | with_reducible apply swapFinish_keeps
    | with_reducible apply liftBarrier_keeps | with_reducible apply addObj_keeps
    | with_reducible apply swapRecord_keeps | with_reducible apply Keeps.foldl | with_reducible apply KeepsOpt.getD
    | with_reducible apply KeepsOpt.of_some | simp only [Keeps.upd_iff] | split

theorem swapPut_keeps {s0 s : State} {j : Job} {i : ℕ} {b : List Byte} (h : Keeps s0 s) :
    Keeps s0 (swapPut j i b s) := by
  unfold swapPut
  repeat' first
    | with_reducible assumption | with_reducible apply setModel_keeps | with_reducible apply swapDone_keeps
    | with_reducible apply report_keeps | with_reducible apply setJob_keeps | with_reducible apply fetchShard_keeps
    | with_reducible apply placeShard_keeps | with_reducible apply Keeps.foldl | with_reducible apply KeepsOpt.getD
    | with_reducible apply KeepsOpt.of_some | dsimp only | split
    | with_reducible refine KeepsOpt.get (by assumption) ?_ | with_reducible refine KeepsPair.get (by assumption) ?_
    | intro _

theorem startRevert_keeps {s0 s : State} {owner : JobFor} (h : Keeps s0 s) :
    Keeps s0 (startRevert owner s) := by
  unfold startRevert
  repeat' first
    | with_reducible assumption | with_reducible apply setJob_keeps | with_reducible apply fetchShard_keeps

theorem swapShard_keeps {s0 s : State} (h : Keeps s0 s) :
    Keeps s0 (swapShard s) := by
  unfold swapShard
  repeat' first
    | with_reducible assumption | with_reducible apply shardFailed_keeps | with_reducible apply swapPut_keeps
    | with_reducible apply setJob_keeps | with_reducible apply startRevert_keeps | with_reducible apply Keeps.foldl
    | with_reducible apply KeepsOpt.getD | with_reducible apply KeepsOpt.of_some | dsimp only | split

theorem swapRevertEnd_keeps {s0 s : State} (h : Keeps s0 s) :
    Keeps s0 (swapRevertEnd s) := by
  unfold swapRevertEnd
  repeat' first
    | with_reducible assumption | with_reducible apply setModel_keeps | with_reducible apply emptyWindow_keeps
    | with_reducible apply dropObjs_keeps | with_reducible apply swapFinish_keeps
    | with_reducible apply liftBarrier_keeps | with_reducible apply swapRecord_keeps
    | with_reducible apply Keeps.foldl | with_reducible apply KeepsOpt.getD | with_reducible apply KeepsOpt.of_some
    | simp only [Keeps.upd_iff] | split

theorem execSwapRevertEnd_keeps {s0 s : State} (h : Keeps s0 s) :
    KeepsOut s0 (execSwapRevertEnd s) := by
  unfold execSwapRevertEnd
  repeat' first
    | with_reducible assumption | with_reducible apply live_keeps | with_reducible apply swapRevertEnd_keeps

theorem swapReset_keeps {s0 s : State} {j : Job} (h : Keeps s0 s) :
    Keeps s0 (swapReset j s) := by
  unfold swapReset
  repeat' first
    | with_reducible assumption | with_reducible apply setModel_keeps | with_reducible apply emptyWindow_keeps
    | with_reducible apply dropObjs_keeps | with_reducible apply nextVerify_keeps | with_reducible apply setJob_keeps
    | with_reducible apply liftBarrier_keeps | with_reducible apply startRevert_keeps
    | with_reducible apply swapRecord_keeps | with_reducible apply Keeps.foldl | with_reducible apply KeepsOpt.getD
    | with_reducible apply KeepsOpt.of_some | simp only [Keeps.upd_iff] | split

theorem dropOrphans_keeps {s0 s : State} (h : Keeps s0 s) :
    Keeps s0 (dropOrphans s) := by
  unfold dropOrphans
  repeat' first
    | with_reducible assumption | with_reducible apply dropJob_keeps | with_reducible apply swapReset_keeps
    | with_reducible apply Keeps.foldl | with_reducible apply KeepsOpt.getD | with_reducible apply KeepsOpt.of_some
    | simp only [Keeps.upd_iff, Keeps.upd_evc_iff, Keeps.upd_tbs_iff, Keeps.upd_both_iff] | split
    | with_reducible refine KeepsOpt.get (by assumption) ?_ | with_reducible refine KeepsPair.get (by assumption) ?_
    | dsimp only | intro _

theorem execSwapVerifyEnd_keeps {s0 s : State} (h : Keeps s0 s) :
    KeepsOut s0 (execSwapVerifyEnd s) := by
  unfold execSwapVerifyEnd
  repeat' first
    | with_reducible assumption | with_reducible apply live_keeps | with_reducible apply swapVerifyEnd_keeps

theorem execSwapWriteStart_keeps {s0 s : State} (h : Keeps s0 s) :
    KeepsOut s0 (execSwapWriteStart s) := by
  unfold execSwapWriteStart
  repeat' first
    | with_reducible assumption | with_reducible apply swapWriteStart_keeps | with_reducible apply dropOrphans_keeps
    | with_reducible apply live_keeps | with_reducible apply KeepsOut.next | with_reducible apply Keeps.foldl
    | simp only [Keeps.upd_iff, Keeps.upd_evc_iff, Keeps.upd_tbs_iff, Keeps.upd_both_iff] | split
    | with_reducible refine KeepsOpt.get (by assumption) ?_ | with_reducible refine KeepsPair.get (by assumption) ?_
    | dsimp only | intro _

theorem execSwapShardWritten_keeps {s0 s : State} (h : Keeps s0 s) :
    KeepsOut s0 (execSwapShardWritten s) := by
  unfold execSwapShardWritten
  repeat' first
    | with_reducible assumption | with_reducible apply swapShard_keeps | with_reducible apply dropOrphans_keeps
    | with_reducible apply live_keeps | with_reducible apply KeepsOut.next | with_reducible apply Keeps.foldl
    | simp only [Keeps.upd_iff, Keeps.upd_evc_iff, Keeps.upd_tbs_iff, Keeps.upd_both_iff] | split
    | with_reducible refine KeepsOpt.get (by assumption) ?_ | with_reducible refine KeepsPair.get (by assumption) ?_
    | dsimp only | intro _

theorem execModelLoad_keeps {s0 s : State} {id : ℕ} (h : Keeps s0 s) :
    KeepsOut s0 (execModelLoad id s) := by
  unfold execModelLoad
  repeat' first
    | with_reducible assumption | with_reducible apply openImage_keeps | with_reducible apply dropOrphans_keeps
    | with_reducible apply live_keeps | with_reducible apply KeepsOut.next | with_reducible apply Keeps.foldl
    | simp only [Keeps.upd_iff, Keeps.upd_evc_iff, Keeps.upd_tbs_iff, Keeps.upd_both_iff] | split
    | with_reducible refine KeepsOpt.get (by assumption) ?_ | with_reducible refine KeepsPair.get (by assumption) ?_
    | dsimp only | intro _

theorem execModelSwap_keeps {s0 s : State} {id : ℕ} (h : Keeps s0 s) :
    KeepsOut s0 (execModelSwap id s) := by
  unfold execModelSwap
  repeat' first
    | with_reducible assumption | with_reducible apply openImage_keeps | with_reducible apply dropOrphans_keeps
    | with_reducible apply live_keeps | with_reducible apply KeepsOut.next | with_reducible apply Keeps.foldl
    | simp only [Keeps.upd_iff, Keeps.upd_evc_iff, Keeps.upd_tbs_iff, Keeps.upd_both_iff] | split
    | with_reducible refine KeepsOpt.get (by assumption) ?_ | with_reducible refine KeepsPair.get (by assumption) ?_
    | dsimp only | intro _

theorem rewriteBlocks_keeps {s0 s : State} {h1 : Handle} {n : Fin 32} {i : ℕ} {b : List Byte} (h : Keeps s0 s) :
    Keeps s0 (rewriteBlocks h1 n i b s) := by
  unfold rewriteBlocks
  repeat' first
    | with_reducible assumption | with_reducible apply putShard_keeps

theorem repairDone_keeps {s0 s : State} {h1 : Handle} {i : ℕ} {ok : Bool} (h : Keeps s0 s) :
    Keeps s0 (repairDone h1 i ok s) := by
  unfold repairDone
  repeat' first
    | with_reducible assumption | with_reducible apply logErr_keeps | with_reducible apply setModel_keeps
    | with_reducible apply markIdle_keeps | with_reducible apply syncHandle_keeps
    | with_reducible apply tellJoin_keeps | with_reducible apply Keeps.foldl | with_reducible apply KeepsOpt.getD
    | with_reducible apply KeepsOpt.of_some | simp only [Keeps.upd_iff] | split

theorem readRepair_keeps {s0 s : State} {h1 : Handle} {i : ℕ} {attempt : ℕ} (h : Keeps s0 s) :
    Keeps s0 (readRepair h1 i attempt s) := by
  unfold readRepair
  repeat' first
    | with_reducible assumption | with_reducible apply setModel_keeps

theorem startRepair_keeps {s0 s : State} {h1 : Handle} {i : ℕ} (h : Keeps s0 s) :
    Keeps s0 (startRepair h1 i s) := by
  unfold startRepair
  repeat' first
    | with_reducible assumption | with_reducible apply repairDone_keeps | with_reducible apply syncHandle_keeps
    | with_reducible apply readRepair_keeps | with_reducible apply Keeps.foldl | with_reducible apply KeepsOpt.getD
    | with_reducible apply KeepsOpt.of_some
    | simp only [Keeps.upd_iff, Keeps.upd_evc_iff, Keeps.upd_tbs_iff, Keeps.upd_both_iff] | split

theorem repairPage_keeps {s0 s : State} {h1 : Handle} {bytes : List Byte} {lost : List ℕ} (h : Keeps s0 s) :
    Keeps s0 (repairPage h1 bytes lost s) := by
  unfold repairPage
  repeat' first
    | with_reducible assumption | with_reducible apply setModel_keeps | with_reducible apply readRepair_keeps
    | with_reducible apply Keeps.foldl | with_reducible apply KeepsOpt.getD | with_reducible apply KeepsOpt.of_some
    | dsimp only | split

theorem repairEnd_keeps {s0 s : State} (h : Keeps s0 s) :
    Keeps s0 (repairEnd s) := by
  unfold repairEnd
  repeat' first
    | with_reducible assumption | with_reducible apply logErr_keeps | with_reducible apply repairDone_keeps
    | with_reducible apply rewriteBlocks_keeps | with_reducible apply Keeps.foldl | with_reducible apply KeepsOpt.getD
    | with_reducible apply KeepsOpt.of_some | dsimp only | split

theorem execRepairEnd_keeps {s0 s : State} (h : Keeps s0 s) :
    KeepsOut s0 (execRepairEnd s) := by
  unfold execRepairEnd
  repeat' first
    | with_reducible assumption | with_reducible apply repairEnd_keeps | with_reducible apply live_keeps

theorem strReadEff_keeps {s0 s : State} {off : ℕ} (h : Keeps s0 s) :
    Keeps s0 (strReadEff off s) := by
  unfold strReadEff
  repeat' first
    | with_reducible assumption | with_reducible apply Keeps.foldl | with_reducible apply KeepsOpt.getD
    | with_reducible apply KeepsOpt.of_some | simp only [Keeps.upd_iff] | split

theorem strWrite_keeps {s0 s : State} {off : ℕ} {v : Word} (h : Keeps s0 s) :
    KeepsOpt s0 (strWrite off v s) := by
  unfold strWrite
  repeat' first
    | with_reducible assumption | with_reducible apply regRefused_keeps | with_reducible apply KeepsOpt.of_none
    | with_reducible apply KeepsOpt.of_some | with_reducible apply KeepsOpt.map | with_reducible apply KeepsOpt.orElse
    | with_reducible apply Keeps.foldl | simp only [Keeps.upd_iff] | split
    | with_reducible refine KeepsOpt.get (by assumption) ?_ | with_reducible refine KeepsPair.get (by assumption) ?_
    | dsimp only | intro _

theorem weightFailed_keeps {s0 s : State} {m : ModelRef} {i : Fin 64} {addr : ℕ} {status : ℕ} (h : Keeps s0 s) :
    Keeps s0 (weightFailed m i addr status s) := by
  unfold weightFailed
  repeat' first
    | with_reducible assumption | with_reducible apply logErr_keeps | with_reducible apply startRepair_keeps
    | with_reducible apply setPass_keeps | with_reducible apply setStrip_keeps | with_reducible apply Keeps.foldl
    | with_reducible apply KeepsOpt.getD | with_reducible apply KeepsOpt.of_some | dsimp only | split

theorem stripReady_keeps {s0 s : State} {i : Fin 64} (h : Keeps s0 s) :
    Keeps s0 (stripReady i s) := by
  unfold stripReady
  repeat' first
    | with_reducible assumption | with_reducible apply endStall_keeps | with_reducible apply setStrip_keeps
    | with_reducible apply Keeps.foldl | with_reducible apply KeepsOpt.getD | with_reducible apply KeepsOpt.of_some
    | simp only [Keeps.upd_iff]

theorem stripPut_keeps {s0 s : State} {i : Fin 64} {bs : List Byte} {last : Bool} (h : Keeps s0 s) :
    Keeps s0 (stripPut i bs last s) := by
  unfold stripPut
  repeat' first
    | with_reducible assumption | with_reducible apply stripReady_keeps | with_reducible apply setStrip_keeps
    | with_reducible apply storeMem_keeps | with_reducible apply Keeps.foldl | with_reducible apply KeepsOpt.getD
    | with_reducible apply KeepsOpt.of_some | dsimp only | split

theorem weightRead_keeps {s0 s : State} {m : ModelRef} {addr : ℕ} {len : ℕ} {ecc : Ecc} (h : Keeps s0 s) :
    KeepsPair s0 (weightRead m addr len ecc s) := by
  unfold weightRead
  repeat' first
    | with_reducible assumption | with_reducible apply readStack_keeps | with_reducible apply KeepsPair.foldl
    | with_reducible apply Keeps.foldl | dsimp only | split | with_reducible refine KeepsOpt.get (by assumption) ?_
    | with_reducible refine KeepsPair.get (by assumption) ?_ | intro _ | with_reducible refine KeepsPair.snd ?_
    | with_reducible apply KeepsPair.of

theorem dropPages_keeps {s0 s : State} {i : Fin 64} {m : ModelRef} {addr : ℕ} {len : ℕ} (h : Keeps s0 s) :
    Keeps s0 (dropPages i m addr len s) := by
  unfold dropPages
  repeat' first
    | with_reducible assumption | with_reducible apply Keeps.foldl | with_reducible apply KeepsOpt.getD
    | with_reducible apply KeepsOpt.of_some | simp only [Keeps.upd_iff] | split

theorem burst_keeps {s0 s : State} {i : Fin 64} {m : ModelRef} {addr : ℕ} {len : ℕ} {ecc : Ecc} {last : Bool}
    (h : Keeps s0 s) :
    Keeps s0 (burst i m addr len ecc last s) := by
  unfold burst
  repeat' first
    | with_reducible assumption | with_reducible apply weightRead_keeps | with_reducible apply weightFailed_keeps
    | with_reducible apply stripPut_keeps | with_reducible apply reportUes_keeps | with_reducible apply setStrip_keeps
    | with_reducible apply Keeps.foldl | with_reducible apply KeepsOpt.getD | with_reducible apply KeepsOpt.of_some
    | simp only [Keeps.upd_iff] | split | with_reducible refine KeepsOpt.get (by assumption) ?_
    | with_reducible refine KeepsPair.get (by assumption) ?_

theorem burstComplete_keeps {s0 s : State} {i : Fin 64} {addr : ℕ} {len : ℕ} {ecc : Ecc} {last : Bool}
    (h : Keeps s0 s) :
    Keeps s0 (burstComplete i addr len ecc last s) := by
  unfold burstComplete
  repeat' first
    | with_reducible assumption | with_reducible apply dropPages_keeps | with_reducible apply withTagged_keeps
    | with_reducible apply burst_keeps | with_reducible apply Keeps.foldl | with_reducible apply KeepsOpt.getD
    | with_reducible apply KeepsOpt.of_some
    | simp only [Keeps.upd_iff, Keeps.upd_evc_iff, Keeps.upd_tbs_iff, Keeps.upd_both_iff] | split
    | with_reducible refine KeepsOpt.get (by assumption) ?_ | with_reducible refine KeepsPair.get (by assumption) ?_
    | dsimp only | intro _

theorem execStreamerBurstComplete_keeps {s0 s : State} {i : Fin 64} {addr : ℕ} {len : ℕ} {ecc : Ecc} {last : Bool}
    (h : Keeps s0 s) :
    KeepsOut s0 (execStreamerBurstComplete i addr len ecc last s) := by
  unfold execStreamerBurstComplete
  repeat' first
    | with_reducible assumption | with_reducible apply burstComplete_keeps | with_reducible apply live_keeps
    | with_reducible apply KeepsOut.next | with_reducible apply Keeps.foldl
    | simp only [Keeps.upd_iff, Keeps.upd_evc_iff, Keeps.upd_tbs_iff, Keeps.upd_both_iff] | split
    | with_reducible refine KeepsOpt.get (by assumption) ?_ | with_reducible refine KeepsPair.get (by assumption) ?_
    | dsimp only | intro _

theorem injectPrism_keeps {s0 s : State} {addr : ℕ} {b : List Byte} (h : Keeps s0 s) :
    KeepsPair s0 (injectPrism addr b s) := by
  unfold injectPrism
  repeat' first
    | with_reducible assumption | with_reducible apply applyInjection_keeps | with_reducible apply KeepsPair.foldl
    | with_reducible apply Keeps.foldl | simp only [Keeps.upd_iff] | split
    | with_reducible refine KeepsOpt.get (by assumption) ?_ | with_reducible refine KeepsPair.get (by assumption) ?_
    | dsimp only | intro _ | with_reducible refine KeepsPair.snd ?_ | with_reducible apply KeepsPair.of

theorem bumpPrz_keeps {s0 s : State} {j : Fin 4} {n : ℕ} (h : Keeps s0 s) :
    Keeps s0 (bumpPrz j n s) := by
  unfold bumpPrz
  repeat' first
    | with_reducible assumption | with_reducible apply Keeps.foldl | with_reducible apply KeepsOpt.getD
    | with_reducible apply KeepsOpt.of_some | simp only [Keeps.upd_iff]

theorem damaged_keeps {s0 s : State} {i : Fin 64} {m : ModelRef} {addr : ℕ} {cause : ℕ} {sub : ℕ} (h : Keeps s0 s) :
    Keeps s0 (damaged i m addr cause sub s) := by
  unfold damaged
  repeat' first
    | with_reducible assumption | with_reducible apply weightFailed_keeps | with_reducible apply setStrip_keeps
    | with_reducible apply Keeps.foldl | with_reducible apply KeepsOpt.getD | with_reducible apply KeepsOpt.of_some
    | simp only [Keeps.upd_iff] | split

theorem prismBlock_keeps {s0 s : State} {i : Fin 64} {m : ModelRef} {addr : ℕ} {lastT : Bool} {lastS : Bool}
    {diff : Bool} (h : Keeps s0 s) :
    Keeps s0 (prismBlock i m addr lastT lastS diff s) := by
  unfold prismBlock
  repeat' first
    | with_reducible assumption | with_reducible apply damaged_keeps | with_reducible apply injectPrism_keeps
    | with_reducible apply bumpPrz_keeps | with_reducible apply unitMismatch_keeps
    | with_reducible apply stripPut_keeps | with_reducible apply setStrip_keeps | with_reducible apply Keeps.foldl
    | with_reducible apply KeepsOpt.getD | with_reducible apply KeepsOpt.of_some | dsimp only | split
    | with_reducible refine KeepsOpt.get (by assumption) ?_ | with_reducible refine KeepsPair.get (by assumption) ?_
    | intro _ | with_reducible refine KeepsPair.snd ?_

theorem withDecoders_keeps {s0 s : State} {twice : Bool} {t2 : Tag} {k : State → State}
    (k_keeps : ∀ t, Keeps s0 t → Keeps s0 (k t)) (h : Keeps s0 s) :
    Keeps s0 (withDecoders twice t2 k s) := by
  unfold withDecoders
  repeat' first
    | with_reducible assumption | with_reducible apply k_keeps | with_reducible apply request_keeps
    | with_reducible apply withTagged_keeps | with_reducible apply Keeps.foldl | with_reducible apply KeepsOpt.getD
    | with_reducible apply KeepsOpt.of_some | dsimp only | split
    | with_reducible refine KeepsOpt.get (by assumption) ?_ | with_reducible refine KeepsPair.get (by assumption) ?_
    | intro _

theorem blockDecoded_keeps {s0 s : State} {i : Fin 64} {addr : ℕ} {lastT : Bool} {lastS : Bool} {diff : Bool}
    (h : Keeps s0 s) :
    Keeps s0 (blockDecoded i addr lastT lastS diff s) := by
  unfold blockDecoded
  repeat' first
    | with_reducible assumption | with_reducible apply prismBlock_keeps | with_reducible apply withDecoders_keeps
    | with_reducible apply Keeps.foldl | with_reducible apply KeepsOpt.getD | with_reducible apply KeepsOpt.of_some
    | simp only [Keeps.upd_iff, Keeps.upd_evc_iff, Keeps.upd_tbs_iff, Keeps.upd_both_iff] | split
    | with_reducible refine KeepsOpt.get (by assumption) ?_ | with_reducible refine KeepsPair.get (by assumption) ?_
    | dsimp only | intro _

theorem execPrismBlockDecoded_keeps {s0 s : State} {i : Fin 64} {addr : ℕ} {lastT : Bool} {lastS : Bool}
    {diff : Bool} (h : Keeps s0 s) :
    KeepsOut s0 (execPrismBlockDecoded i addr lastT lastS diff s) := by
  unfold execPrismBlockDecoded
  repeat' first
    | with_reducible assumption | with_reducible apply blockDecoded_keeps | with_reducible apply live_keeps
    | with_reducible apply KeepsOut.next | with_reducible apply Keeps.foldl
    | simp only [Keeps.upd_iff, Keeps.upd_evc_iff, Keeps.upd_tbs_iff, Keeps.upd_both_iff] | split
    | with_reducible refine KeepsOpt.get (by assumption) ?_ | with_reducible refine KeepsPair.get (by assumption) ?_
    | dsimp only | intro _

theorem przReadEff_keeps {s0 s : State} {off : ℕ} (h : Keeps s0 s) :
    Keeps s0 (przReadEff off s) := by
  unfold przReadEff
  repeat' first
    | with_reducible assumption | with_reducible apply Keeps.foldl | with_reducible apply KeepsOpt.getD
    | with_reducible apply KeepsOpt.of_some | simp only [Keeps.upd_iff] | split

theorem writePrzCtrl_keeps {s0 s : State} {v : Word} (h : Keeps s0 s) :
    Keeps s0 (writePrzCtrl v s) := by
  unfold writePrzCtrl
  repeat' first
    | with_reducible assumption | with_reducible apply Keeps.foldl | with_reducible apply KeepsOpt.getD
    | with_reducible apply KeepsOpt.of_some | simp only [Keeps.upd_iff] | split

theorem przWrite_keeps {s0 s : State} {off : ℕ} {v : Word} (h : Keeps s0 s) :
    KeepsOpt s0 (przWrite off v s) := by
  unfold przWrite
  repeat' first
    | with_reducible assumption | with_reducible apply whenRuns_keeps | with_reducible apply writePrzCtrl_keeps
    | with_reducible apply KeepsOpt.of_none | with_reducible apply KeepsOpt.of_some
    | with_reducible apply KeepsOpt.map | with_reducible apply KeepsOpt.orElse | with_reducible apply Keeps.foldl
    | simp only [Keeps.upd_iff, Keeps.upd_evc_iff, Keeps.upd_tbs_iff, Keeps.upd_both_iff] | split
    | with_reducible refine KeepsOpt.get (by assumption) ?_ | with_reducible refine KeepsPair.get (by assumption) ?_
    | dsimp only | intro _

theorem earlyFailed_keeps {s0 s : State} {id : ℕ} {status : ℕ} (h : Keeps s0 s) :
    Keeps s0 (earlyFailed id status s) := by
  unfold earlyFailed
  repeat' first
    | with_reducible assumption | with_reducible apply logErr_keeps | with_reducible apply Keeps.foldl
    | with_reducible apply KeepsOpt.getD | with_reducible apply KeepsOpt.of_some | simp only [Keeps.upd_iff] | split

theorem freshMeta_keeps {s0 s : State} {factoryBad : List ℕ} (h : Keeps s0 s) :
    Keeps s0 (freshMeta factoryBad s) := by
  unfold freshMeta
  repeat' first
    | with_reducible assumption | with_reducible apply Keeps.foldl | with_reducible apply KeepsOpt.getD
    | with_reducible apply KeepsOpt.of_some | simp only [Keeps.upd_iff]

theorem settleSlots_keeps {s0 s : State} (h : Keeps s0 s) :
    Keeps s0 (settleSlots s) := by
  unfold settleSlots
  repeat' first
    | with_reducible assumption | with_reducible apply Keeps.foldl | with_reducible apply KeepsOpt.getD
    | with_reducible apply KeepsOpt.of_some | simp only [Keeps.upd_iff]

theorem refuseFlash_keeps {s0 s : State} (h : Keeps s0 s) :
    Keeps s0 (refuseFlash s) := by
  unfold refuseFlash
  repeat' first
    | with_reducible assumption | with_reducible apply refuse_keeps | with_reducible apply Keeps.foldl
    | with_reducible apply KeepsOpt.getD | with_reducible apply KeepsOpt.of_some
    | simp only [Keeps.upd_iff, Keeps.upd_evc_iff, Keeps.upd_tbs_iff, Keeps.upd_both_iff] | split
    | with_reducible refine KeepsOpt.get (by assumption) ?_ | with_reducible refine KeepsPair.get (by assumption) ?_
    | dsimp only | intro _

theorem flashInit_keeps {s0 s : State} {failed : Option (Fin 2)} {copies : List Bool} {factoryBad : List ℕ}
    (h : Keeps s0 s) :
    Keeps s0 (flashInit failed copies factoryBad s) := by
  unfold flashInit
  repeat' first
    | with_reducible assumption | with_reducible apply logErr_keeps | with_reducible apply refuseFlash_keeps
    | with_reducible apply preloadAll_keeps | with_reducible apply earlyFailed_keeps
    | with_reducible apply freshMeta_keeps | with_reducible apply settleSlots_keeps | with_reducible apply Keeps.foldl
    | with_reducible apply KeepsOpt.getD | with_reducible apply KeepsOpt.of_some | simp only [Keeps.upd_iff] | split
    | with_reducible refine KeepsOpt.get (by assumption) ?_ | with_reducible refine KeepsPair.get (by assumption) ?_
    | dsimp only | intro _

theorem execFlashInitComplete_keeps {s0 s : State} {failed : Option (Fin 2)} {copies : List Bool}
    {factoryBad : List ℕ} (h : Keeps s0 s) :
    KeepsOut s0 (execFlashInitComplete failed copies factoryBad s) := by
  unfold execFlashInitComplete
  repeat' first
    | with_reducible assumption | with_reducible apply flashInit_keeps | with_reducible apply live_keeps
    | with_reducible apply KeepsOut.next | with_reducible apply Keeps.foldl
    | simp only [Keeps.upd_iff, Keeps.upd_evc_iff, Keeps.upd_tbs_iff, Keeps.upd_both_iff] | split
    | with_reducible refine KeepsOpt.get (by assumption) ?_ | with_reducible refine KeepsPair.get (by assumption) ?_
    | dsimp only | intro _

theorem readPage_keeps {s0 s : State} {who : FlashReader} {b : ℕ} {p : ℕ} {cws : List CwRead} (h : Keeps s0 s) :
    Keeps s0 (readPage who b p cws s) := by
  unfold readPage
  repeat' first
    | with_reducible assumption | with_reducible apply dropOrphans_keeps | with_reducible apply repairPage_keeps
    | with_reducible apply jobPage_keeps | with_reducible apply readCws_keeps | with_reducible apply Keeps.foldl
    | with_reducible apply KeepsOpt.getD | with_reducible apply KeepsOpt.of_some | simp only [Keeps.upd_iff] | split

theorem flashPageRead_keeps {s0 s : State} {b : ℕ} {p : ℕ} {cws : List CwRead} (h : Keeps s0 s) :
    Keeps s0 (flashPageRead b p cws s) := by
  unfold flashPageRead
  repeat' first
    | with_reducible assumption | with_reducible apply readPage_keeps | with_reducible apply withFlash_keeps
    | with_reducible apply Keeps.foldl | with_reducible apply KeepsOpt.getD | with_reducible apply KeepsOpt.of_some
    | simp only [Keeps.upd_iff, Keeps.upd_evc_iff, Keeps.upd_tbs_iff, Keeps.upd_both_iff] | split
    | with_reducible refine KeepsOpt.get (by assumption) ?_ | with_reducible refine KeepsPair.get (by assumption) ?_
    | dsimp only | intro _

theorem execFlashPageRead_keeps {s0 s : State} {b : ℕ} {p : ℕ} {cws : List CwRead} (h : Keeps s0 s) :
    KeepsOut s0 (execFlashPageRead b p cws s) := by
  unfold execFlashPageRead
  repeat' first
    | with_reducible assumption | with_reducible apply flashPageRead_keeps | with_reducible apply live_keeps
    | with_reducible apply KeepsOut.next | with_reducible apply Keeps.foldl
    | simp only [Keeps.upd_iff, Keeps.upd_evc_iff, Keeps.upd_tbs_iff, Keeps.upd_both_iff] | split
    | with_reducible refine KeepsOpt.get (by assumption) ?_ | with_reducible refine KeepsPair.get (by assumption) ?_
    | dsimp only | intro _

theorem patrolPage_keeps {s0 s : State} {q : ℕ × ℕ} {cws : List CwRead} (h : Keeps s0 s) :
    Keeps s0 (patrolPage q cws s) := by
  unfold patrolPage
  repeat' first
    | with_reducible assumption | with_reducible apply readCws_keeps

theorem flashPatrol_keeps {s0 s : State} {reads : List CwRead} (h : Keeps s0 s) :
    Keeps s0 (flashPatrol reads s) := by
  unfold flashPatrol
  repeat' first
    | with_reducible assumption | with_reducible apply patrolPage_keeps | with_reducible apply withFlash_keeps
    | with_reducible apply Keeps.foldl | with_reducible apply KeepsOpt.getD | with_reducible apply KeepsOpt.of_some
    | simp only [Keeps.upd_iff] | split | with_reducible refine KeepsOpt.get (by assumption) ?_
    | with_reducible refine KeepsPair.get (by assumption) ?_ | dsimp only | intro _

theorem execFlashPatrol_keeps {s0 s : State} {reads : List CwRead} (h : Keeps s0 s) :
    KeepsOut s0 (execFlashPatrol reads s) := by
  unfold execFlashPatrol
  repeat' first
    | with_reducible assumption | with_reducible apply flashPatrol_keeps | with_reducible apply live_keeps
    | with_reducible apply KeepsOut.next | with_reducible apply Keeps.foldl
    | simp only [Keeps.upd_iff, Keeps.upd_evc_iff, Keeps.upd_tbs_iff, Keeps.upd_both_iff] | split
    | with_reducible refine KeepsOpt.get (by assumption) ?_ | with_reducible refine KeepsPair.get (by assumption) ?_
    | dsimp only | intro _

theorem retire_keeps {s0 s : State} {b : ℕ} {why : ℕ} {part : ℕ} {who : Option Cmd} (h : Keeps s0 s) :
    Keeps s0 (retire b why part who s) := by
  unfold retire
  repeat' first
    | with_reducible assumption | with_reducible apply logErr_keeps | with_reducible apply setBlock_keeps

theorem eraseBlock_keeps {s0 s : State} {b : ℕ} (h : Keeps s0 s) :
    Keeps s0 (eraseBlock b s) := by
  unfold eraseBlock
  repeat' first
    | with_reducible assumption | with_reducible apply setBlock_keeps | with_reducible apply Keeps.foldl
    | with_reducible apply KeepsOpt.getD | with_reducible apply KeepsOpt.of_some | simp only [Keeps.upd_iff]

theorem leavePool_keeps {s0 s : State} (h : Keeps s0 s) :
    Keeps s0 (leavePool s) := by
  unfold leavePool
  repeat' first
    | with_reducible assumption | with_reducible apply logErr_keeps | with_reducible apply Keeps.foldl
    | with_reducible apply KeepsOpt.getD | with_reducible apply KeepsOpt.of_some | simp only [Keeps.upd_iff] | split

theorem moveBlock_keeps {s0 s : State} {x0 : ℕ} {y : ℕ} {lost : List (ℕ × ℕ)} (h : Keeps s0 s) :
    Keeps s0 (moveBlock x0 y lost s) := by
  unfold moveBlock
  repeat' first
    | with_reducible assumption | with_reducible apply logErr_keeps | with_reducible apply setBlock_keeps
    | with_reducible apply eraseBlock_keeps | with_reducible apply cwLost_keeps | with_reducible apply Keeps.foldl
    | with_reducible apply KeepsOpt.getD | with_reducible apply KeepsOpt.of_some | simp only [Keeps.upd_iff] | split
    | with_reducible refine KeepsOpt.get (by assumption) ?_ | with_reducible refine KeepsPair.get (by assumption) ?_
    | dsimp only | intro _

theorem blockRefresh_keeps {s0 s : State} {lost : List (ℕ × ℕ)} {failed : Bool} (h : Keeps s0 s) :
    Keeps s0 (blockRefresh lost failed s) := by
  unfold blockRefresh
  repeat' first
    | with_reducible assumption | with_reducible apply leavePool_keeps | with_reducible apply moveBlock_keeps
    | with_reducible apply withFlash_keeps | with_reducible apply retire_keeps | with_reducible apply Keeps.foldl
    | with_reducible apply KeepsOpt.getD | with_reducible apply KeepsOpt.of_some
    | simp only [Keeps.upd_iff, Keeps.upd_evc_iff, Keeps.upd_tbs_iff, Keeps.upd_both_iff] | split
    | with_reducible refine KeepsOpt.get (by assumption) ?_ | with_reducible refine KeepsPair.get (by assumption) ?_
    | dsimp only | intro _

theorem execBlockRefreshComplete_keeps {s0 s : State} {lost : List (ℕ × ℕ)} {failed : Bool} (h : Keeps s0 s) :
    KeepsOut s0 (execBlockRefreshComplete lost failed s) := by
  unfold execBlockRefreshComplete
  repeat' first
    | with_reducible assumption | with_reducible apply blockRefresh_keeps | with_reducible apply live_keeps
    | with_reducible apply KeepsOut.next | with_reducible apply Keeps.foldl
    | simp only [Keeps.upd_iff, Keeps.upd_evc_iff, Keeps.upd_tbs_iff, Keeps.upd_both_iff] | split
    | with_reducible refine KeepsOpt.get (by assumption) ?_ | with_reducible refine KeepsPair.get (by assumption) ?_
    | dsimp only | intro _

theorem setOp_keeps {s0 s : State} {f : FlashOp → FlashOp} (h : Keeps s0 s) :
    Keeps s0 (setOp f s) := by
  unfold setOp
  repeat' first
    | with_reducible assumption | with_reducible apply Keeps.foldl | with_reducible apply KeepsOpt.getD
    | with_reducible apply KeepsOpt.of_some | simp only [Keeps.upd_iff]

theorem endOp_keeps {s0 s : State} {o : FlashOp} {status : ℕ} {detail : ℕ} {id : ℕ} (h : Keeps s0 s) :
    Keeps s0 (endOp o status detail id s) := by
  unfold endOp
  repeat' first
    | with_reducible assumption | with_reducible apply report_keeps | with_reducible apply finish_keeps
    | with_reducible apply Keeps.foldl | with_reducible apply KeepsOpt.getD | with_reducible apply KeepsOpt.of_some
    | simp only [Keeps.upd_iff]

theorem failWrite_keeps {s0 s : State} {o : FlashOp} {status : ℕ} {detail : ℕ} (h : Keeps s0 s) :
    Keeps s0 (failWrite o status detail s) := by
  unfold failWrite
  repeat' first
    | with_reducible assumption | with_reducible apply endOp_keeps | with_reducible apply setSlot_keeps

theorem endIfGone_keeps {s0 s : State} (h : Keeps s0 s) :
    Keeps s0 (endIfGone s) := by
  unfold endIfGone
  repeat' first
    | with_reducible assumption | with_reducible apply failWrite_keeps | with_reducible apply Keeps.foldl
    | with_reducible apply KeepsOpt.getD | with_reducible apply KeepsOpt.of_some
    | simp only [Keeps.upd_iff, Keeps.upd_evc_iff, Keeps.upd_tbs_iff, Keeps.upd_both_iff] | split

theorem wantItem_keeps {s0 s : State} {o : FlashOp} {i : ℕ} (h : Keeps s0 s) :
    Keeps s0 (wantItem s o i) := by
  unfold wantItem
  repeat' first
    | with_reducible assumption | with_reducible apply want_keeps

theorem startProgram_keeps {s0 s : State} {o : FlashOp} (h : Keeps s0 s) :
    Keeps s0 (startProgram o s) := by
  unfold startProgram
  repeat' first
    | with_reducible assumption | with_reducible apply setOp_keeps | with_reducible apply endIfGone_keeps
    | with_reducible apply wantItem_keeps

theorem erased_keeps {s0 s : State} (h : Keeps s0 s) :
    Keeps s0 (erased s) := by
  unfold erased
  repeat' first
    | with_reducible assumption | with_reducible apply endOp_keeps | with_reducible apply startProgram_keeps
    | with_reducible apply failWrite_keeps | with_reducible apply setSlot_keeps | with_reducible apply Keeps.foldl
    | with_reducible apply KeepsOpt.getD | with_reducible apply KeepsOpt.of_some
    | simp only [Keeps.upd_iff, Keeps.upd_evc_iff, Keeps.upd_tbs_iff, Keeps.upd_both_iff] | split

theorem clearSlot_keeps {s0 s : State} {fail : Option (ℕ × ℕ)} (h : Keeps s0 s) :
    Keeps s0 (clearSlot fail s) := by
  unfold clearSlot
  repeat' first
    | with_reducible assumption | with_reducible apply setOp_keeps | with_reducible apply erased_keeps

theorem dropWrite_keeps {s0 s : State} (h : Keeps s0 s) :
    Keeps s0 (dropWrite s) := by
  unfold dropWrite
  repeat' first
    | with_reducible assumption | with_reducible apply clearSlot_keeps | with_reducible apply failWrite_keeps
    | with_reducible apply Keeps.foldl | with_reducible apply KeepsOpt.getD | with_reducible apply KeepsOpt.of_some
    | simp only [Keeps.upd_iff, Keeps.upd_evc_iff, Keeps.upd_tbs_iff, Keeps.upd_both_iff] | split

theorem blockErased_keeps {s0 s : State} {failed : Bool} (h : Keeps s0 s) :
    Keeps s0 (blockErased failed s) := by
  unfold blockErased
  repeat' first
    | with_reducible assumption | with_reducible apply setOp_keeps | with_reducible apply eraseBlock_keeps
    | with_reducible apply withFlash_keeps | with_reducible apply retire_keeps | with_reducible apply erased_keeps
    | with_reducible apply Keeps.foldl | with_reducible apply KeepsOpt.getD | with_reducible apply KeepsOpt.of_some
    | dsimp only | split | with_reducible refine KeepsOpt.get (by assumption) ?_
    | with_reducible refine KeepsPair.get (by assumption) ?_ | intro _

theorem execFlashBlockErased_keeps {s0 s : State} {failed : Bool} (h : Keeps s0 s) :
    KeepsOut s0 (execFlashBlockErased failed s) := by
  unfold execFlashBlockErased
  repeat' first
    | with_reducible assumption | with_reducible apply blockErased_keeps | with_reducible apply live_keeps
    | with_reducible apply KeepsOut.next | with_reducible apply Keeps.foldl
    | simp only [Keeps.upd_iff, Keeps.upd_evc_iff, Keeps.upd_tbs_iff, Keeps.upd_both_iff] | split
    | with_reducible refine KeepsOpt.get (by assumption) ?_ | with_reducible refine KeepsPair.get (by assumption) ?_
    | dsimp only | intro _

theorem checkFails_keeps {s0 s : State} {o : FlashOp} {layer : ℕ} (h : Keeps s0 s) :
    Keeps s0 (checkFails o layer s) := by
  unfold checkFails
  repeat' first
    | with_reducible assumption | with_reducible apply failWrite_keeps

theorem writeItem_keeps {s0 s : State} {good : Option (List Byte)} (h : Keeps s0 s) :
    Keeps s0 (writeItem good s) := by
  unfold writeItem
  repeat' first
    | with_reducible assumption | with_reducible apply checkFails_keeps | with_reducible apply clearSlot_keeps
    | with_reducible apply want_keeps | with_reducible apply setOp_keeps | with_reducible apply wantItem_keeps
    | with_reducible apply Keeps.foldl | with_reducible apply KeepsOpt.getD | with_reducible apply KeepsOpt.of_some
    | dsimp only | split

theorem checkPassEnd_keeps {s0 s : State} (h : Keeps s0 s) :
    Keeps s0 (checkPassEnd s) := by
  unfold checkPassEnd
  repeat' first
    | with_reducible assumption | with_reducible apply setOp_keeps | with_reducible apply startProgram_keeps
    | with_reducible apply Keeps.foldl | with_reducible apply KeepsOpt.getD | with_reducible apply KeepsOpt.of_some
    | simp only [Keeps.upd_iff, Keeps.upd_evc_iff, Keeps.upd_tbs_iff, Keeps.upd_both_iff] | split

theorem execFlashWriteCheckPassEnd_keeps {s0 s : State} (h : Keeps s0 s) :
    KeepsOut s0 (execFlashWriteCheckPassEnd s) := by
  unfold execFlashWriteCheckPassEnd
  repeat' first
    | with_reducible assumption | with_reducible apply checkPassEnd_keeps | with_reducible apply live_keeps

theorem programPage_keeps {s0 s : State} {b : ℕ} {p : ℕ} {bytes : List Byte} (h : Keeps s0 s) :
    Keeps s0 (programPage b p bytes s) := by
  unfold programPage
  repeat' first
    | with_reducible assumption | with_reducible apply setBlock_keeps | with_reducible apply Keeps.foldl
    | with_reducible apply KeepsOpt.getD | with_reducible apply KeepsOpt.of_some | simp only [Keeps.upd_iff]

theorem pageProgrammed_keeps {s0 s : State} {failed : Bool} (h : Keeps s0 s) :
    Keeps s0 (pageProgrammed failed s) := by
  unfold pageProgrammed
  repeat' first
    | with_reducible assumption | with_reducible apply clearSlot_keeps | with_reducible apply endOp_keeps
    | with_reducible apply programPage_keeps | with_reducible apply setOp_keeps | with_reducible apply withFlash_keeps
    | with_reducible apply wantItem_keeps | with_reducible apply retire_keeps | with_reducible apply setSlot_keeps
    | with_reducible apply dropWrite_keeps | with_reducible apply Keeps.foldl | with_reducible apply KeepsOpt.getD
    | with_reducible apply KeepsOpt.of_some | dsimp only | split
    | with_reducible refine KeepsOpt.get (by assumption) ?_ | with_reducible refine KeepsPair.get (by assumption) ?_
    | intro _

theorem execFlashPageProgrammed_keeps {s0 s : State} {failed : Bool} (h : Keeps s0 s) :
    KeepsOut s0 (execFlashPageProgrammed failed s) := by
  unfold execFlashPageProgrammed
  repeat' first
    | with_reducible assumption | with_reducible apply pageProgrammed_keeps | with_reducible apply live_keeps
    | with_reducible apply KeepsOut.next | with_reducible apply Keeps.foldl
    | simp only [Keeps.upd_iff, Keeps.upd_evc_iff, Keeps.upd_tbs_iff, Keeps.upd_both_iff] | split
    | with_reducible refine KeepsOpt.get (by assumption) ?_ | with_reducible refine KeepsPair.get (by assumption) ?_
    | dsimp only | intro _

theorem beginFlash_keeps {s0 s : State} {op : ℕ} {id : ℕ} (h : Keeps s0 s) :
    Keeps s0 (beginFlash op id s) := by
  unfold beginFlash
  repeat' first
    | with_reducible assumption | with_reducible apply endWait_keeps | with_reducible apply want_keeps
    | with_reducible apply setCmd_keeps | with_reducible apply admitCmd_keeps | with_reducible apply endIfGone_keeps
    | with_reducible apply erased_keeps | with_reducible apply Keeps.foldl | with_reducible apply KeepsOpt.getD
    | with_reducible apply KeepsOpt.of_some | simp only [Keeps.upd_iff] | split

theorem execFlashWriteImage_keeps {s0 s : State} {id : ℕ} (h : Keeps s0 s) :
    KeepsOut s0 (execFlashWriteImage id s) := by
  unfold execFlashWriteImage
  repeat' first
    | with_reducible assumption | with_reducible apply live_keeps | with_reducible apply beginFlash_keeps
    | with_reducible apply KeepsOut.next | with_reducible apply Keeps.foldl
    | simp only [Keeps.upd_iff, Keeps.upd_evc_iff, Keeps.upd_tbs_iff, Keeps.upd_both_iff] | split
    | with_reducible refine KeepsOpt.get (by assumption) ?_ | with_reducible refine KeepsPair.get (by assumption) ?_
    | dsimp only | intro _

theorem execFlashEraseSlot_keeps {s0 s : State} {id : ℕ} (h : Keeps s0 s) :
    KeepsOut s0 (execFlashEraseSlot id s) := by
  unfold execFlashEraseSlot
  repeat' first
    | with_reducible assumption | with_reducible apply live_keeps | with_reducible apply beginFlash_keeps
    | with_reducible apply KeepsOut.next | with_reducible apply Keeps.foldl
    | simp only [Keeps.upd_iff, Keeps.upd_evc_iff, Keeps.upd_tbs_iff, Keeps.upd_both_iff] | split
    | with_reducible refine KeepsOpt.get (by assumption) ?_ | with_reducible refine KeepsPair.get (by assumption) ?_
    | dsimp only | intro _

theorem flcReadEff_keeps {s0 s : State} {off : ℕ} (h : Keeps s0 s) :
    Keeps s0 (flcReadEff off s) := by
  unfold flcReadEff
  repeat' first
    | with_reducible assumption | with_reducible apply Keeps.foldl | with_reducible apply KeepsOpt.getD
    | with_reducible apply KeepsOpt.of_some | simp only [Keeps.upd_iff] | split

theorem flcWrite_keeps {s0 s : State} {off : ℕ} {v : Word} (h : Keeps s0 s) :
    KeepsOpt s0 (flcWrite off v s) := by
  unfold flcWrite
  repeat' first
    | with_reducible assumption | with_reducible apply regRefused_keeps | with_reducible apply KeepsOpt.of_none
    | with_reducible apply KeepsOpt.of_some | with_reducible apply KeepsOpt.map | with_reducible apply KeepsOpt.orElse
    | with_reducible apply Keeps.foldl | simp only [Keeps.upd_iff] | split
    | with_reducible refine KeepsOpt.get (by assumption) ?_ | with_reducible refine KeepsPair.get (by assumption) ?_
    | dsimp only | intro _

end Sys2Proof.Machine
end

