-- ==== Sys2Proof/Laws/KeepWork.lean ====
section
/-! SUPPORT. `Keeps` for the operations of Machine/Hush.lean, Work.lean, Ending.lean, Commands.lean, Passes.lean. -/

namespace Sys2Proof.Machine

theorem writePieces_keeps {s0 s : State} {p : Part} {key : ℕ} {l : ℕ} {a : List (ℕ × ℕ × ℕ)} {a5 : List Byte}
    (h : Keeps s0 s) :
    Keeps s0 (writePieces p key l a a5 s) := by
  unfold writePieces
  repeat' first
    | with_reducible assumption | with_reducible apply storeMem_keeps | with_reducible apply Keeps.foldl
    | with_reducible apply KeepsOpt.getD | with_reducible apply KeepsOpt.of_some
    | with_reducible apply writePieces_keeps | dsimp only | split

theorem writeKv_keeps {s0 s : State} {p : Part} {key : ℕ} {l : ℕ} {lb : ℕ} {x4 : ℕ} {bs : List Byte}
    (h : Keeps s0 s) :
    Keeps s0 (writeKv p key l lb x4 bs s) := by
  unfold writeKv
  repeat' first
    | with_reducible assumption | with_reducible apply writePieces_keeps

theorem restoreImage_keeps {s0 s : State} {x0 : Ctx} {h2 : ImgHdr} {b : List Byte} (h : Keeps s0 s) :
    Keeps s0 (restoreImage x0 h2 b s) := by
  unfold restoreImage
  repeat' first
    | with_reducible assumption | with_reducible apply writeKv_keeps | with_reducible apply Keeps.foldl
    | with_reducible apply KeepsOpt.getD | with_reducible apply KeepsOpt.of_some | dsimp only | split
    | with_reducible refine KeepsOpt.get (by assumption) ?_ | with_reducible refine KeepsPair.get (by assumption) ?_
    | intro _

theorem hushOne_keeps {s0 s : State} {x0 : Ctx} {h2 : ImgHdr} (h : Keeps s0 s) :
    Keeps s0 (hushOne x0 h2 s) := by
  unfold hushOne
  repeat' first
    | with_reducible assumption | with_reducible apply dropObjs_keeps | with_reducible apply putShard_keeps
    | with_reducible apply setCtx_keeps

theorem reportKv_keeps {s0 s : State} {c : Option Cmd} {p : Part} {key : ℕ} (h : Keeps s0 s) :
    Keeps s0 (reportKv c p key s) := by
  unfold reportKv
  repeat' first
    | with_reducible assumption | with_reducible apply reportUes_keeps

theorem hushOut_keeps {s0 s : State} {c : Cmd} (h : Keeps s0 s) :
    Keeps s0 (hushOut c s) := by
  unfold hushOut
  repeat' first
    | with_reducible assumption | with_reducible apply dropObjs_keeps | with_reducible apply outWrite_keeps
    | with_reducible apply setCtx_keeps | with_reducible apply Keeps.foldl | with_reducible apply KeepsOpt.getD
    | with_reducible apply KeepsOpt.of_some | dsimp only | split

theorem hushCommit_keeps {s0 s : State} {c : Cmd} (h : Keeps s0 s) :
    Keeps s0 (hushCommit c s) := by
  unfold hushCommit
  repeat' first
    | with_reducible assumption | with_reducible apply reportKv_keeps | with_reducible apply hushOut_keeps
    | with_reducible apply finish_keeps | with_reducible apply hushOne_keeps | with_reducible apply Keeps.foldl
    | with_reducible apply KeepsOpt.getD | with_reducible apply KeepsOpt.of_some | simp only [Keeps.upd_iff] | split
    | with_reducible refine KeepsOpt.get (by assumption) ?_ | with_reducible refine KeepsPair.get (by assumption) ?_
    | dsimp only | intro _

theorem runCmd_keeps {s0 s : State} {id : ℕ} (h : Keeps s0 s) :
    Keeps s0 (runCmd id s) := by
  unfold runCmd
  repeat' first
    | with_reducible assumption | with_reducible apply endWait_keeps | with_reducible apply setCmd_keeps

theorem hushRow_keeps {s0 s : State} {id : ℕ} (h : Keeps s0 s) :
    Keeps s0 (hushRow id s) := by
  unfold hushRow
  repeat' first
    | with_reducible assumption | with_reducible apply runCmd_keeps | with_reducible apply admitCmd_keeps
    | with_reducible apply Keeps.foldl | with_reducible apply KeepsOpt.getD | with_reducible apply KeepsOpt.of_some
    | dsimp only | split

theorem execHush_keeps {s0 s : State} {id : ℕ} (h : Keeps s0 s) :
    KeepsOut s0 (execHush id s) := by
  unfold execHush
  repeat' first
    | with_reducible assumption | with_reducible apply hushRow_keeps | with_reducible apply live_keeps
    | with_reducible apply KeepsOut.next | with_reducible apply Keeps.foldl
    | simp only [Keeps.upd_iff, Keeps.upd_evc_iff, Keeps.upd_tbs_iff, Keeps.upd_both_iff] | split
    | with_reducible refine KeepsOpt.get (by assumption) ?_ | with_reducible refine KeepsPair.get (by assumption) ?_
    | dsimp only | intro _

theorem wakeCtx_keeps {s0 s : State} {c : Cmd} (h : Keeps s0 s) :
    KeepsOpt s0 (wakeCtx c s) := by
  unfold wakeCtx
  repeat' first
    | with_reducible assumption | with_reducible apply dropObjs_keeps | with_reducible apply restoreImage_keeps
    | with_reducible apply setCtx_keeps | with_reducible apply KeepsOpt.of_none
    | with_reducible apply KeepsOpt.of_some | with_reducible apply KeepsOpt.map | with_reducible apply KeepsOpt.orElse
    | with_reducible apply Keeps.foldl | dsimp only | split

theorem wakeFailed_keeps {s0 s : State} {c : Cmd} (h : Keeps s0 s) :
    Keeps s0 (wakeFailed c s) := by
  unfold wakeFailed
  repeat' first
    | with_reducible assumption | with_reducible apply reportUes_keeps | with_reducible apply failCmd_keeps

theorem wakeCommit_keeps {s0 s : State} {c : Cmd} (h : Keeps s0 s) :
    Keeps s0 (wakeCommit c s) := by
  unfold wakeCommit
  repeat' first
    | with_reducible assumption | with_reducible apply wakeFailed_keeps | with_reducible apply wakeCtx_keeps
    | with_reducible apply finish_keeps | with_reducible apply Keeps.foldl | with_reducible apply KeepsOpt.getD
    | with_reducible apply KeepsOpt.of_some | dsimp only | split
    | with_reducible refine KeepsOpt.get (by assumption) ?_

theorem wakeRow_keeps {s0 s : State} {id : ℕ} (h : Keeps s0 s) :
    Keeps s0 (wakeRow id s) := by
  unfold wakeRow
  repeat' first
    | with_reducible assumption | with_reducible apply runCmd_keeps | with_reducible apply want_keeps
    | with_reducible apply admitCmd_keeps | with_reducible apply Keeps.foldl | with_reducible apply KeepsOpt.getD
    | with_reducible apply KeepsOpt.of_some | dsimp only | split

theorem execWake_keeps {s0 s : State} {id : ℕ} (h : Keeps s0 s) :
    KeepsOut s0 (execWake id s) := by
  unfold execWake
  repeat' first
    | with_reducible assumption | with_reducible apply wakeRow_keeps | with_reducible apply live_keeps
    | with_reducible apply KeepsOut.next | with_reducible apply Keeps.foldl
    | simp only [Keeps.upd_iff, Keeps.upd_evc_iff, Keeps.upd_tbs_iff, Keeps.upd_both_iff] | split
    | with_reducible refine KeepsOpt.get (by assumption) ?_ | with_reducible refine KeepsPair.get (by assumption) ?_
    | dsimp only | intro _

theorem hushWorkEnd_keeps {s0 s : State} {id : ℕ} (h : Keeps s0 s) :
    Keeps s0 (hushWorkEnd id s) := by
  unfold hushWorkEnd
  repeat' first
    | with_reducible assumption | with_reducible apply wakeFailed_keeps | with_reducible apply wakeCtx_keeps
    | with_reducible apply wakeCommit_keeps | with_reducible apply hushCommit_keeps | with_reducible apply Keeps.foldl
    | with_reducible apply KeepsOpt.getD | with_reducible apply KeepsOpt.of_some
    | simp only [Keeps.upd_iff, Keeps.upd_evc_iff, Keeps.upd_tbs_iff, Keeps.upd_both_iff] | split
    | with_reducible refine KeepsOpt.get (by assumption) ?_

theorem execHushWakeDeviceWorkEnd_keeps {s0 s : State} {id : ℕ} (h : Keeps s0 s) :
    KeepsOut s0 (execHushWakeDeviceWorkEnd id s) := by
  unfold execHushWakeDeviceWorkEnd
  repeat' first
    | with_reducible assumption | with_reducible apply live_keeps | with_reducible apply hushWorkEnd_keeps
    | with_reducible apply KeepsOut.next | with_reducible apply Keeps.foldl
    | simp only [Keeps.upd_iff, Keeps.upd_evc_iff, Keeps.upd_tbs_iff, Keeps.upd_both_iff] | split
    | with_reducible refine KeepsOpt.get (by assumption) ?_ | with_reducible refine KeepsPair.get (by assumption) ?_
    | dsimp only | intro _

theorem autoHush_keeps {s0 s : State} {p : Part} {key : ℕ} (h : Keeps s0 s) :
    Keeps s0 (autoHush p key s) := by
  unfold autoHush
  repeat' first
    | with_reducible assumption | with_reducible apply reportKv_keeps | with_reducible apply markIdle_keeps
    | with_reducible apply placeObj_keeps | with_reducible apply hushOne_keeps | with_reducible apply setCtx_keeps
    | with_reducible apply Keeps.foldl | with_reducible apply KeepsOpt.getD | with_reducible apply KeepsOpt.of_some
    | simp only [Keeps.upd_iff] | split

theorem execAutoHush_keeps {s0 s : State} {p : Part} {key : ℕ} (h : Keeps s0 s) :
    KeepsOut s0 (execAutoHush p key s) := by
  unfold execAutoHush
  repeat' first
    | with_reducible assumption | with_reducible apply autoHush_keeps | with_reducible apply live_keeps
    | with_reducible apply KeepsOut.next | with_reducible apply Keeps.foldl
    | simp only [Keeps.upd_iff, Keeps.upd_evc_iff, Keeps.upd_tbs_iff, Keeps.upd_both_iff] | split
    | with_reducible refine KeepsOpt.get (by assumption) ?_ | with_reducible refine KeepsPair.get (by assumption) ?_
    | dsimp only | intro _

theorem setWork_keeps {s0 s : State} {id : ℕ} {f : Work → Work} (h : Keeps s0 s) :
    Keeps s0 (setWork id f s) := by
  unfold setWork
  repeat' first
    | with_reducible assumption | with_reducible apply setCmd_keeps

theorem commitTok_keeps {s0 s : State} {c : Cmd} {t2 : ℕ} (h : Keeps s0 s) :
    Keeps s0 (commitTok c t2 s) := by
  unfold commitTok
  repeat' first
    | with_reducible assumption | with_reducible apply setCtx_keeps

theorem commitInput_keeps {s0 s : State} {c : Cmd} {n : ℕ} (h : Keeps s0 s) :
    Keeps s0 (commitInput c n s) := by
  unfold commitInput
  repeat' first
    | with_reducible assumption | with_reducible apply commitTok_keeps | with_reducible apply Keeps.foldl
    | with_reducible apply KeepsOpt.getD | with_reducible apply KeepsOpt.of_some
    | simp only [Keeps.upd_iff, Keeps.upd_evc_iff, Keeps.upd_tbs_iff, Keeps.upd_both_iff] | split
    | with_reducible refine KeepsOpt.get (by assumption) ?_ | with_reducible refine KeepsPair.get (by assumption) ?_
    | dsimp only | intro _

theorem output_keeps {s0 s : State} {id : ℕ} {a : ℕ} {bs : List Byte} (h : Keeps s0 s) :
    Keeps s0 (output id a bs s) := by
  unfold output
  repeat' first
    | with_reducible assumption | with_reducible apply accessFault_keeps | with_reducible apply outWrite_keeps
    | with_reducible apply Keeps.foldl | with_reducible apply KeepsOpt.getD | with_reducible apply KeepsOpt.of_some
    | simp only [Keeps.upd_iff, Keeps.upd_evc_iff, Keeps.upd_tbs_iff, Keeps.upd_both_iff] | split

theorem endGen_keeps {s0 s : State} {id : ℕ} {status : ℕ} {detail : ℕ} {ending : ℕ} (h : Keeps s0 s) :
    Keeps s0 (endGen id status detail ending s) := by
  unfold endGen
  repeat' first
    | with_reducible assumption | with_reducible apply finish_keeps | with_reducible apply Keeps.foldl
    | with_reducible apply KeepsOpt.getD | with_reducible apply KeepsOpt.of_some
    | simp only [Keeps.upd_iff, Keeps.upd_evc_iff, Keeps.upd_tbs_iff, Keeps.upd_both_iff] | split

theorem deadEnd_keeps {s0 s : State} {c : Cmd} (h : Keeps s0 s) :
    Keeps s0 (deadEnd c s) := by
  unfold deadEnd
  repeat' first
    | with_reducible assumption | with_reducible apply bumpApt_keeps | with_reducible apply endGen_keeps
    | with_reducible apply Keeps.foldl | with_reducible apply KeepsOpt.getD | with_reducible apply KeepsOpt.of_some
    | simp only [Keeps.upd_iff]

theorem checkMask_keeps {s0 s : State} {id : ℕ} (h : Keeps s0 s) :
    Keeps s0 (checkMask id s) := by
  unfold checkMask
  repeat' first
    | with_reducible assumption | with_reducible apply bumpApt_keeps | with_reducible apply deadEnd_keeps
    | with_reducible apply endGen_keeps | with_reducible apply Keeps.foldl | with_reducible apply KeepsOpt.getD
    | with_reducible apply KeepsOpt.of_some | dsimp only | split

theorem partialRec_keeps {s0 s : State} {id : ℕ} {was : ℕ} (h : Keeps s0 s) :
    Keeps s0 (partialRec id was s) := by
  unfold partialRec
  repeat' first
    | with_reducible assumption | with_reducible apply syncHolds_keeps | with_reducible apply queueRec_keeps
    | with_reducible apply setWork_keeps | with_reducible apply Keeps.foldl | with_reducible apply KeepsOpt.getD
    | with_reducible apply KeepsOpt.of_some | dsimp only | split

theorem commitGen_keeps {s0 s : State} {id : ℕ} {t2 : ℕ} {z : List Word} (h : Keeps s0 s) :
    Keeps s0 (commitGen id t2 z s) := by
  unfold commitGen
  repeat' first
    | with_reducible assumption | with_reducible apply output_keeps | with_reducible apply endGen_keeps
    | with_reducible apply setWork_keeps | with_reducible apply checkMask_keeps | with_reducible apply commitTok_keeps
    | with_reducible apply setCtx_keeps | with_reducible apply Keeps.foldl | with_reducible apply KeepsOpt.getD
    | with_reducible apply KeepsOpt.of_some | simp only [Keeps.upd_iff] | split

theorem selectCommit_keeps {s0 s : State} {id : ℕ} {z : List Word} (h : Keeps s0 s) :
    Keeps s0 (selectCommit id z s) := by
  unfold selectCommit
  repeat' first
    | with_reducible assumption | with_reducible apply commitGen_keeps | with_reducible apply countSelect_keeps
    | with_reducible apply Keeps.foldl | with_reducible apply KeepsOpt.getD | with_reducible apply KeepsOpt.of_some
    | dsimp only | split

theorem propose_keeps {s0 s : State} {id : ℕ} {z : List Word} (h : Keeps s0 s) :
    Keeps s0 (propose id z s) := by
  unfold propose
  repeat' first
    | with_reducible assumption | with_reducible apply bumpApt_keeps | with_reducible apply setWork_keeps
    | with_reducible apply countSelect_keeps | with_reducible apply Keeps.foldl | with_reducible apply KeepsOpt.getD
    | with_reducible apply KeepsOpt.of_some | dsimp only | split

theorem commitDraft_keeps {s0 s : State} {id : ℕ} {t2 : ℕ} {z : List Word} (h : Keeps s0 s) :
    Keeps s0 (commitDraft id t2 z s) := by
  unfold commitDraft
  repeat' first
    | with_reducible assumption | with_reducible apply bumpApt_keeps | with_reducible apply commitGen_keeps
    | with_reducible apply setWork_keeps

theorem greedyRound_keeps {s0 s : State} {id : ℕ} {a : List (List Word)} {a3 : List ℕ} (h : Keeps s0 s) :
    Keeps s0 (greedyRound id a a3 s) := by
  unfold greedyRound
  repeat' first
    | with_reducible assumption | with_reducible apply commitGen_keeps | with_reducible apply countSelect_keeps
    | with_reducible apply commitDraft_keeps | with_reducible apply Keeps.foldl | with_reducible apply KeepsOpt.getD
    | with_reducible apply KeepsOpt.of_some | with_reducible apply greedyRound_keeps | dsimp only | split

theorem samplingRound_keeps {s0 s : State} {id : ℕ} {a : List (List Word)} {a3 : List ℕ} {a4 : List (List Word)}
    (h : Keeps s0 s) :
    Keeps s0 (samplingRound id a a3 a4 s) := by
  unfold samplingRound
  repeat' first
    | with_reducible assumption | with_reducible apply commitGen_keeps | with_reducible apply countSelect_keeps
    | with_reducible apply commitDraft_keeps | with_reducible apply Keeps.foldl | with_reducible apply KeepsOpt.getD
    | with_reducible apply KeepsOpt.of_some | with_reducible apply samplingRound_keeps | dsimp only | split

theorem closeRound_keeps {s0 s : State} {id : ℕ} (h : Keeps s0 s) :
    Keeps s0 (closeRound id s) := by
  unfold closeRound
  repeat' first
    | with_reducible assumption | with_reducible apply setWork_keeps | with_reducible apply setCtx_keeps
    | with_reducible apply Keeps.foldl | with_reducible apply KeepsOpt.getD | with_reducible apply KeepsOpt.of_some
    | dsimp only | split

theorem settleRound_keeps {s0 s : State} {c : Cmd} {zs : List (List Word)} (h : Keeps s0 s) :
    Keeps s0 (settleRound c zs s) := by
  unfold settleRound
  repeat' first
    | with_reducible assumption | with_reducible apply partialRec_keeps | with_reducible apply selectCommit_keeps
    | with_reducible apply closeRound_keeps | with_reducible apply samplingRound_keeps
    | with_reducible apply greedyRound_keeps | with_reducible apply Keeps.foldl | with_reducible apply KeepsOpt.getD
    | with_reducible apply KeepsOpt.of_some
    | simp only [Keeps.upd_iff, Keeps.upd_evc_iff, Keeps.upd_tbs_iff, Keeps.upd_both_iff] | split

theorem stopDrafting_keeps {s0 s : State} {id : ℕ} (h : Keeps s0 s) :
    Keeps s0 (stopDrafting id s) := by
  unfold stopDrafting
  repeat' first
    | with_reducible assumption | with_reducible apply dropObjs_keeps | with_reducible apply setWork_keeps
    | with_reducible apply setCtx_keeps | with_reducible apply Keeps.foldl | with_reducible apply KeepsOpt.getD
    | with_reducible apply KeepsOpt.of_some | dsimp only | split

theorem scoreTok_keeps {s0 s : State} {id : ℕ} {z : Option (List Word)} (h : Keeps s0 s) :
    Keeps s0 (scoreTok id z s) := by
  unfold scoreTok
  repeat' first
    | with_reducible assumption | with_reducible apply setWork_keeps | with_reducible apply Keeps.foldl
    | with_reducible apply KeepsOpt.getD | with_reducible apply KeepsOpt.of_some | simp only [Keeps.upd_iff] | split

theorem commitAll_keeps {s0 s : State} {c : Cmd} (h : Keeps s0 s) :
    Keeps s0 (commitAll c s) := by
  unfold commitAll
  repeat' first
    | with_reducible assumption | with_reducible apply commitInput_keeps | with_reducible apply Keeps.foldl
    | with_reducible apply KeepsOpt.getD | with_reducible apply KeepsOpt.of_some
    | simp only [Keeps.upd_iff, Keeps.upd_evc_iff, Keeps.upd_tbs_iff, Keeps.upd_both_iff] | split

theorem endScore_keeps {s0 s : State} {id : ℕ} (h : Keeps s0 s) :
    Keeps s0 (endScore id s) := by
  unfold endScore
  repeat' first
    | with_reducible assumption | with_reducible apply output_keeps | with_reducible apply finish_keeps
    | with_reducible apply commitAll_keeps | with_reducible apply Keeps.foldl | with_reducible apply KeepsOpt.getD
    | with_reducible apply KeepsOpt.of_some | dsimp only | split

theorem endEmbed_keeps {s0 s : State} {id : ℕ} (h : Keeps s0 s) :
    Keeps s0 (endEmbed id s) := by
  unfold endEmbed
  repeat' first
    | with_reducible assumption | with_reducible apply output_keeps | with_reducible apply finish_keeps
    | with_reducible apply commitAll_keeps | with_reducible apply Keeps.foldl | with_reducible apply KeepsOpt.getD
    | with_reducible apply KeepsOpt.of_some | dsimp only | split

theorem endPrefill_keeps {s0 s : State} {id : ℕ} (h : Keeps s0 s) :
    Keeps s0 (endPrefill id s) := by
  unfold endPrefill
  repeat' first
    | with_reducible assumption | with_reducible apply finish_keeps | with_reducible apply Keeps.foldl
    | with_reducible apply KeepsOpt.getD | with_reducible apply KeepsOpt.of_some
    | simp only [Keeps.upd_iff, Keeps.upd_evc_iff, Keeps.upd_tbs_iff, Keeps.upd_both_iff] | split

theorem takeInput_keeps {s0 s : State} {id : ℕ} {b : List Byte} (h : Keeps s0 s) :
    Keeps s0 (takeInput id b s) := by
  unfold takeInput
  repeat' first
    | with_reducible assumption | with_reducible apply dropCtx_keeps | with_reducible apply finish_keeps
    | with_reducible apply setWork_keeps | with_reducible apply setCtx_keeps | with_reducible apply Keeps.foldl
    | with_reducible apply KeepsOpt.getD | with_reducible apply KeepsOpt.of_some | dsimp only | split

theorem bufferLost_keeps {s0 s : State} {c : Cmd} {bads : List (ℕ × ℕ)} (h : Keeps s0 s) :
    Keeps s0 (bufferLost c bads s) := by
  unfold bufferLost
  repeat' first
    | with_reducible assumption | with_reducible apply reportUes_keeps | with_reducible apply failCmd_keeps
    | with_reducible apply Keeps.foldl | with_reducible apply KeepsOpt.getD | with_reducible apply KeepsOpt.of_some
    | dsimp only | split

theorem readBuf_keeps {s0 s : State} {id : ℕ} {a : ℕ} {n : ℕ} {k : List Byte → State → State}
    (k_keeps : ∀ y0 t, Keeps s0 t → Keeps s0 (k y0 t)) (h : Keeps s0 s) :
    Keeps s0 (readBuf id a n k s) := by
  unfold readBuf
  repeat' first
    | with_reducible assumption | with_reducible apply k_keeps | with_reducible apply want_keeps
    | with_reducible apply accessFault_keeps | with_reducible apply bufferLost_keeps
    | with_reducible apply readMem_keeps | with_reducible apply withDevice_keeps | with_reducible apply failCmd_keeps
    | with_reducible apply Keeps.foldl | with_reducible apply KeepsOpt.getD | with_reducible apply KeepsOpt.of_some
    | simp only [Keeps.upd_iff, Keeps.upd_evc_iff, Keeps.upd_tbs_iff, Keeps.upd_both_iff] | split
    | with_reducible refine KeepsOpt.get (by assumption) ?_ | with_reducible refine KeepsPair.get (by assumption) ?_
    | dsimp only | intro _

theorem endAtOnce_keeps {s0 s : State} {c : Cmd} (h : Keeps s0 s) :
    Keeps s0 (endAtOnce c s) := by
  unfold endAtOnce
  repeat' first
    | with_reducible assumption | with_reducible apply endPrefill_keeps | with_reducible apply endScore_keeps
    | with_reducible apply endEmbed_keeps | with_reducible apply endGen_keeps | with_reducible apply Keeps.foldl
    | with_reducible apply KeepsOpt.getD | with_reducible apply KeepsOpt.of_some
    | simp only [Keeps.upd_iff, Keeps.upd_evc_iff, Keeps.upd_tbs_iff, Keeps.upd_both_iff] | split

theorem beginWork_keeps {s0 s : State} {op : ℕ} {id : ℕ} (h : Keeps s0 s) :
    Keeps s0 (beginWork op id s) := by
  unfold beginWork
  repeat' first
    | with_reducible assumption | with_reducible apply endAtOnce_keeps | with_reducible apply readBuf_keeps
    | with_reducible apply admitCmd_keeps | with_reducible apply takeInput_keeps | with_reducible apply setWork_keeps
    | with_reducible apply checkMask_keeps | with_reducible apply Keeps.foldl | with_reducible apply KeepsOpt.getD
    | with_reducible apply KeepsOpt.of_some | dsimp only | split
    | with_reducible refine KeepsOpt.get (by assumption) ?_ | with_reducible refine KeepsPair.get (by assumption) ?_
    | intro _

theorem execPrefill_keeps {s0 s : State} {id : ℕ} (h : Keeps s0 s) :
    KeepsOut s0 (execPrefill id s) := by
  unfold execPrefill
  repeat' first
    | with_reducible assumption | with_reducible apply beginWork_keeps | with_reducible apply live_keeps
    | with_reducible apply KeepsOut.next | with_reducible apply Keeps.foldl
    | simp only [Keeps.upd_iff, Keeps.upd_evc_iff, Keeps.upd_tbs_iff, Keeps.upd_both_iff] | split
    | with_reducible refine KeepsOpt.get (by assumption) ?_ | with_reducible refine KeepsPair.get (by assumption) ?_
    | dsimp only | intro _

theorem execGenerate_keeps {s0 s : State} {id : ℕ} (h : Keeps s0 s) :
    KeepsOut s0 (execGenerate id s) := by
  unfold execGenerate
  repeat' first
    | with_reducible assumption | with_reducible apply beginWork_keeps | with_reducible apply live_keeps
    | with_reducible apply KeepsOut.next | with_reducible apply Keeps.foldl
    | simp only [Keeps.upd_iff, Keeps.upd_evc_iff, Keeps.upd_tbs_iff, Keeps.upd_both_iff] | split
    | with_reducible refine KeepsOpt.get (by assumption) ?_ | with_reducible refine KeepsPair.get (by assumption) ?_
    | dsimp only | intro _

theorem execScoreTokens_keeps {s0 s : State} {id : ℕ} (h : Keeps s0 s) :
    KeepsOut s0 (execScoreTokens id s) := by
  unfold execScoreTokens
  repeat' first
    | with_reducible assumption | with_reducible apply beginWork_keeps | with_reducible apply live_keeps
    | with_reducible apply KeepsOut.next | with_reducible apply Keeps.foldl
    | simp only [Keeps.upd_iff, Keeps.upd_evc_iff, Keeps.upd_tbs_iff, Keeps.upd_both_iff] | split
    | with_reducible refine KeepsOpt.get (by assumption) ?_ | with_reducible refine KeepsPair.get (by assumption) ?_
    | dsimp only | intro _

theorem execEmbed_keeps {s0 s : State} {id : ℕ} (h : Keeps s0 s) :
    KeepsOut s0 (execEmbed id s) := by
  unfold execEmbed
  repeat' first
    | with_reducible assumption | with_reducible apply beginWork_keeps | with_reducible apply live_keeps
    | with_reducible apply KeepsOut.next | with_reducible apply Keeps.foldl
    | simp only [Keeps.upd_iff, Keeps.upd_evc_iff, Keeps.upd_tbs_iff, Keeps.upd_both_iff] | split
    | with_reducible refine KeepsOpt.get (by assumption) ?_ | with_reducible refine KeepsPair.get (by assumption) ?_
    | dsimp only | intro _

theorem settlePrefill_keeps {s0 s : State} {c : Cmd} {n : ℕ} {r : RowResult} (h : Keeps s0 s) :
    Keeps s0 (settlePrefill c n r s) := by
  unfold settlePrefill
  repeat' first
    | with_reducible assumption | with_reducible apply endPrefill_keeps | with_reducible apply partialRec_keeps
    | with_reducible apply selectCommit_keeps | with_reducible apply endScore_keeps
    | with_reducible apply endEmbed_keeps | with_reducible apply commitInput_keeps
    | with_reducible apply setWork_keeps | with_reducible apply scoreTok_keeps | with_reducible apply Keeps.foldl
    | with_reducible apply KeepsOpt.getD | with_reducible apply KeepsOpt.of_some | dsimp only | split
    | with_reducible refine KeepsOpt.get (by assumption) ?_ | with_reducible refine KeepsPair.get (by assumption) ?_
    | intro _

theorem settleDraft_keeps {s0 s : State} {c : Cmd} {n : ℕ} {r : RowResult} (h : Keeps s0 s) :
    Keeps s0 (settleDraft c n r s) := by
  unfold settleDraft
  repeat' first
    | with_reducible assumption | with_reducible apply propose_keeps | with_reducible apply setCtx_keeps
    | with_reducible apply Keeps.foldl | with_reducible apply KeepsOpt.getD | with_reducible apply KeepsOpt.of_some
    | dsimp only | split

theorem settleRow_keeps {s0 s : State} {row : PassRow} {r : RowResult} (h : Keeps s0 s) :
    Keeps s0 (settleRow row r s) := by
  unfold settleRow
  repeat' first
    | with_reducible assumption | with_reducible apply settleRound_keeps | with_reducible apply settleDraft_keeps
    | with_reducible apply settlePrefill_keeps | with_reducible apply Keeps.foldl | with_reducible apply KeepsOpt.getD
    | with_reducible apply KeepsOpt.of_some
    | simp only [Keeps.upd_iff, Keeps.upd_evc_iff, Keeps.upd_tbs_iff, Keeps.upd_both_iff] | split

theorem dropReserving_keeps {s0 s : State} {id : ℕ} (h : Keeps s0 s) :
    Keeps s0 (dropReserving id s) := by
  unfold dropReserving
  repeat' first
    | with_reducible assumption | with_reducible apply originate_keeps | with_reducible apply Keeps.foldl
    | with_reducible apply KeepsOpt.getD | with_reducible apply KeepsOpt.of_some | simp only [Keeps.upd_iff] | split
    | with_reducible refine KeepsOpt.get (by assumption) ?_ | with_reducible refine KeepsPair.get (by assumption) ?_
    | dsimp only | intro _

theorem dropEmptyPasses_keeps {s0 s : State} (h : Keeps s0 s) :
    Keeps s0 (dropEmptyPasses s) := by
  unfold dropEmptyPasses
  repeat' first
    | with_reducible assumption | with_reducible apply endPass_keeps | with_reducible apply tellStages_keeps
    | with_reducible apply Keeps.foldl | with_reducible apply KeepsOpt.getD | with_reducible apply KeepsOpt.of_some
    | simp only [Keeps.upd_iff, Keeps.upd_evc_iff, Keeps.upd_tbs_iff, Keeps.upd_both_iff] | split
    | with_reducible refine KeepsOpt.get (by assumption) ?_ | with_reducible refine KeepsPair.get (by assumption) ?_
    | dsimp only | intro _

theorem abortCmd_keeps {s0 s : State} {id : ℕ} {reason : ℕ} (h : Keeps s0 s) :
    Keeps s0 (abortCmd id reason s) := by
  unfold abortCmd
  repeat' first
    | with_reducible assumption | with_reducible apply releasePeers_keeps | with_reducible apply endSet_keeps
    | with_reducible apply finish_keeps | with_reducible apply dropEmptyPasses_keeps
    | with_reducible apply dropJob_keeps | with_reducible apply failCmd_keeps
    | with_reducible apply dropReserving_keeps | with_reducible apply Keeps.foldl | with_reducible apply KeepsOpt.getD
    | with_reducible apply KeepsOpt.of_some | dsimp only | split

theorem atAdmission_keeps {s0 s : State} {op : ℕ} {id : ℕ} {f : Cmd → State → State}
    (f_keeps : ∀ y0 t, Keeps s0 t → Keeps s0 (f y0 t)) (h : Keeps s0 s) :
    Keeps s0 (atAdmission op id f s) := by
  unfold atAdmission
  repeat' first
    | with_reducible assumption | with_reducible apply f_keeps | with_reducible apply admitCmd_keeps
    | with_reducible apply Keeps.foldl | with_reducible apply KeepsOpt.getD | with_reducible apply KeepsOpt.of_some
    | dsimp only | split

theorem abortRow_keeps {s0 s : State} {c : Cmd} (h : Keeps s0 s) :
    Keeps s0 (abortRow c s) := by
  unfold abortRow
  repeat' first
    | with_reducible assumption | with_reducible apply finish_keeps | with_reducible apply abortCmd_keeps
    | with_reducible apply Keeps.foldl | with_reducible apply KeepsOpt.getD | with_reducible apply KeepsOpt.of_some
    | simp only [Keeps.upd_iff, Keeps.upd_evc_iff, Keeps.upd_tbs_iff, Keeps.upd_both_iff] | split
    | with_reducible refine KeepsOpt.get (by assumption) ?_ | with_reducible refine KeepsPair.get (by assumption) ?_
    | dsimp only | intro _

theorem execAbort_keeps {s0 s : State} {id : ℕ} (h : Keeps s0 s) :
    KeepsOut s0 (execAbort id s) := by
  unfold execAbort
  repeat' first
    | with_reducible assumption | with_reducible apply atAdmission_keeps | with_reducible apply abortRow_keeps
    | with_reducible apply live_keeps | with_reducible apply KeepsOut.next | with_reducible apply Keeps.foldl
    | simp only [Keeps.upd_iff, Keeps.upd_evc_iff, Keeps.upd_tbs_iff, Keeps.upd_both_iff] | split
    | with_reducible refine KeepsOpt.get (by assumption) ?_ | with_reducible refine KeepsPair.get (by assumption) ?_
    | dsimp only | intro _

theorem destroyRow_keeps {s0 s : State} {c : Cmd} (h : Keeps s0 s) :
    Keeps s0 (destroyRow c s) := by
  unfold destroyRow
  repeat' first
    | with_reducible assumption | with_reducible apply destroyCtx_keeps | with_reducible apply finish_keeps
    | with_reducible apply abortCmd_keeps | with_reducible apply Keeps.foldl | with_reducible apply KeepsOpt.getD
    | with_reducible apply KeepsOpt.of_some
    | simp only [Keeps.upd_iff, Keeps.upd_evc_iff, Keeps.upd_tbs_iff, Keeps.upd_both_iff] | split
    | with_reducible refine KeepsOpt.get (by assumption) ?_ | with_reducible refine KeepsPair.get (by assumption) ?_
    | dsimp only | intro _

theorem execContextDestroy_keeps {s0 s : State} {id : ℕ} (h : Keeps s0 s) :
    KeepsOut s0 (execContextDestroy id s) := by
  unfold execContextDestroy
  repeat' first
    | with_reducible assumption | with_reducible apply atAdmission_keeps | with_reducible apply destroyRow_keeps
    | with_reducible apply live_keeps | with_reducible apply KeepsOut.next | with_reducible apply Keeps.foldl
    | simp only [Keeps.upd_iff, Keeps.upd_evc_iff, Keeps.upd_tbs_iff, Keeps.upd_both_iff] | split
    | with_reducible refine KeepsOpt.get (by assumption) ?_ | with_reducible refine KeepsPair.get (by assumption) ?_
    | dsimp only | intro _

theorem evictRow_keeps {s0 s : State} {c : Cmd} (h : Keeps s0 s) :
    Keeps s0 (evictRow c s) := by
  unfold evictRow
  repeat' first
    | with_reducible assumption | with_reducible apply setModel_keeps | with_reducible apply endWait_keeps
    | with_reducible apply freeModel_keeps | with_reducible apply finish_keeps | with_reducible apply setCmd_keeps
    | with_reducible apply abortCmd_keeps | with_reducible apply Keeps.foldl | with_reducible apply KeepsOpt.getD
    | with_reducible apply KeepsOpt.of_some | dsimp only | split
    | with_reducible refine KeepsOpt.get (by assumption) ?_ | with_reducible refine KeepsPair.get (by assumption) ?_
    | intro _

theorem execModelEvict_keeps {s0 s : State} {id : ℕ} (h : Keeps s0 s) :
    KeepsOut s0 (execModelEvict id s) := by
  unfold execModelEvict
  repeat' first
    | with_reducible assumption | with_reducible apply evictRow_keeps | with_reducible apply atAdmission_keeps
    | with_reducible apply live_keeps | with_reducible apply KeepsOut.next | with_reducible apply Keeps.foldl
    | simp only [Keeps.upd_iff, Keeps.upd_evc_iff, Keeps.upd_tbs_iff, Keeps.upd_both_iff] | split
    | with_reducible refine KeepsOpt.get (by assumption) ?_ | with_reducible refine KeepsPair.get (by assumption) ?_
    | dsimp only | intro _

theorem execNop_keeps {s0 s : State} {id : ℕ} (h : Keeps s0 s) :
    KeepsOut s0 (execNop id s) := by
  unfold execNop
  repeat' first
    | with_reducible assumption | with_reducible apply finish_keeps | with_reducible apply atAdmission_keeps
    | with_reducible apply live_keeps | with_reducible apply KeepsOut.next | with_reducible apply Keeps.foldl
    | simp only [Keeps.upd_iff, Keeps.upd_evc_iff, Keeps.upd_tbs_iff, Keeps.upd_both_iff] | split
    | with_reducible refine KeepsOpt.get (by assumption) ?_ | with_reducible refine KeepsPair.get (by assumption) ?_
    | dsimp only | intro _

theorem fenceRow_keeps {s0 s : State} {id : ℕ} (h : Keeps s0 s) :
    Keeps s0 (fenceRow id s) := by
  unfold fenceRow
  repeat' first
    | with_reducible assumption | with_reducible apply finish_keeps | with_reducible apply atAdmission_keeps
    | with_reducible apply Keeps.foldl | with_reducible apply KeepsOpt.getD | with_reducible apply KeepsOpt.of_some
    | simp only [Keeps.upd_iff, Keeps.upd_evc_iff, Keeps.upd_tbs_iff, Keeps.upd_both_iff] | split
    | with_reducible refine KeepsOpt.get (by assumption) ?_ | with_reducible refine KeepsPair.get (by assumption) ?_
    | dsimp only | intro _

theorem execFence_keeps {s0 s : State} {id : ℕ} (h : Keeps s0 s) :
    KeepsOut s0 (execFence id s) := by
  unfold execFence
  repeat' first
    | with_reducible assumption | with_reducible apply fenceRow_keeps | with_reducible apply live_keeps
    | with_reducible apply KeepsOut.next | with_reducible apply Keeps.foldl
    | simp only [Keeps.upd_iff, Keeps.upd_evc_iff, Keeps.upd_tbs_iff, Keeps.upd_both_iff] | split
    | with_reducible refine KeepsOpt.get (by assumption) ?_ | with_reducible refine KeepsPair.get (by assumption) ?_
    | dsimp only | intro _

theorem execModelPin_keeps {s0 s : State} {id : ℕ} (h : Keeps s0 s) :
    KeepsOut s0 (execModelPin id s) := by
  unfold execModelPin
  repeat' first
    | with_reducible assumption | with_reducible apply setModel_keeps | with_reducible apply finish_keeps
    | with_reducible apply atAdmission_keeps | with_reducible apply live_keeps | with_reducible apply KeepsOut.next
    | with_reducible apply Keeps.foldl | dsimp only | split | with_reducible refine KeepsOpt.get (by assumption) ?_
    | with_reducible refine KeepsPair.get (by assumption) ?_ | intro _

theorem execModelQuery_keeps {s0 s : State} {id : ℕ} (h : Keeps s0 s) :
    KeepsOut s0 (execModelQuery id s) := by
  unfold execModelQuery
  repeat' first
    | with_reducible assumption | with_reducible apply finish_keeps | with_reducible apply atAdmission_keeps
    | with_reducible apply live_keeps | with_reducible apply KeepsOut.next | with_reducible apply Keeps.foldl
    | simp only [Keeps.upd_iff, Keeps.upd_evc_iff, Keeps.upd_tbs_iff, Keeps.upd_both_iff] | split
    | with_reducible refine KeepsOpt.get (by assumption) ?_ | with_reducible refine KeepsPair.get (by assumption) ?_
    | dsimp only | intro _

theorem setMask_keeps {s0 s : State} {p : Part} {m : Fin 32} {k : Option Mask} (h : Keeps s0 s) :
    Keeps s0 (setMask p m k s) := by
  unfold setMask
  repeat' first
    | with_reducible assumption | with_reducible apply Keeps.foldl | with_reducible apply KeepsOpt.getD
    | with_reducible apply KeepsOpt.of_some | simp only [Keeps.upd_iff]

theorem dropMask_keeps {s0 s : State} {p : Part} {m : Fin 32} (h : Keeps s0 s) :
    Keeps s0 (dropMask p m s) := by
  unfold dropMask
  repeat' first
    | with_reducible assumption | with_reducible apply dropObjs_keeps

theorem takeMask_keeps {s0 s : State} {id : ℕ} {b : List Byte} (h : Keeps s0 s) :
    Keeps s0 (takeMask id b s) := by
  unfold takeMask
  repeat' first
    | with_reducible assumption | with_reducible apply setMask_keeps | with_reducible apply finish_keeps
    | with_reducible apply dropMask_keeps | with_reducible apply Keeps.foldl | with_reducible apply KeepsOpt.getD
    | with_reducible apply KeepsOpt.of_some | simp only [Keeps.upd_iff] | split

theorem maskLoadRow_keeps {s0 s : State} {c : Cmd} (h : Keeps s0 s) :
    Keeps s0 (maskLoadRow c s) := by
  unfold maskLoadRow
  repeat' first
    | with_reducible assumption | with_reducible apply setMask_keeps | with_reducible apply runCmd_keeps
    | with_reducible apply readBuf_keeps | with_reducible apply finish_keeps | with_reducible apply dropMask_keeps
    | with_reducible apply takeMask_keeps | with_reducible apply Keeps.foldl | with_reducible apply KeepsOpt.getD
    | with_reducible apply KeepsOpt.of_some | dsimp only | split
    | with_reducible refine KeepsOpt.get (by assumption) ?_ | with_reducible refine KeepsPair.get (by assumption) ?_
    | intro _

theorem execMaskLoad_keeps {s0 s : State} {id : ℕ} (h : Keeps s0 s) :
    KeepsOut s0 (execMaskLoad id s) := by
  unfold execMaskLoad
  repeat' first
    | with_reducible assumption | with_reducible apply atAdmission_keeps | with_reducible apply live_keeps
    | with_reducible apply maskLoadRow_keeps | with_reducible apply KeepsOut.next | with_reducible apply Keeps.foldl
    | simp only [Keeps.upd_iff, Keeps.upd_evc_iff, Keeps.upd_tbs_iff, Keeps.upd_both_iff] | split
    | with_reducible refine KeepsOpt.get (by assumption) ?_ | with_reducible refine KeepsPair.get (by assumption) ?_
    | dsimp only | intro _

theorem maskBindRow_keeps {s0 s : State} {c : Cmd} (h : Keeps s0 s) :
    Keeps s0 (maskBindRow c s) := by
  unfold maskBindRow
  repeat' first
    | with_reducible assumption | with_reducible apply finish_keeps | with_reducible apply setCtx_keeps
    | with_reducible apply Keeps.foldl | with_reducible apply KeepsOpt.getD | with_reducible apply KeepsOpt.of_some
    | simp only [Keeps.upd_iff] | split

theorem execMaskBind_keeps {s0 s : State} {id : ℕ} (h : Keeps s0 s) :
    KeepsOut s0 (execMaskBind id s) := by
  unfold execMaskBind
  repeat' first
    | with_reducible assumption | with_reducible apply atAdmission_keeps | with_reducible apply live_keeps
    | with_reducible apply maskBindRow_keeps | with_reducible apply KeepsOut.next | with_reducible apply Keeps.foldl
    | simp only [Keeps.upd_iff, Keeps.upd_evc_iff, Keeps.upd_tbs_iff, Keeps.upd_both_iff] | split
    | with_reducible refine KeepsOpt.get (by assumption) ?_ | with_reducible refine KeepsPair.get (by assumption) ?_
    | dsimp only | intro _

theorem callVictims_keeps {s0 s : State} {c : Cmd} (h : Keeps s0 s) :
    Keeps s0 (callVictims c s) := by
  unfold callVictims
  repeat' first
    | with_reducible assumption | with_reducible apply stopSet_keeps | with_reducible apply Keeps.foldl
    | with_reducible apply KeepsOpt.getD | with_reducible apply KeepsOpt.of_some
    | simp only [Keeps.upd_iff, Keeps.upd_evc_iff, Keeps.upd_tbs_iff, Keeps.upd_both_iff] | split

theorem readCode_keeps {s0 s : State} {c : Cmd} (h : Keeps s0 s) :
    Keeps s0 (readCode c s) := by
  unfold readCode
  repeat' first
    | with_reducible assumption | with_reducible apply readBuf_keeps | with_reducible apply setCmd_keeps
    | with_reducible apply Keeps.foldl | with_reducible apply KeepsOpt.getD | with_reducible apply KeepsOpt.of_some
    | simp only [Keeps.upd_iff, Keeps.upd_evc_iff, Keeps.upd_tbs_iff, Keeps.upd_both_iff] | split
    | with_reducible refine KeepsOpt.get (by assumption) ?_ | with_reducible refine KeepsPair.get (by assumption) ?_
    | dsimp only | intro _

theorem kernelRow_keeps {s0 s : State} {id : ℕ} (h : Keeps s0 s) :
    Keeps s0 (kernelRow id s) := by
  unfold kernelRow
  repeat' first
    | with_reducible assumption | with_reducible apply readCode_keeps | with_reducible apply setCmd_keeps
    | with_reducible apply admitCmd_keeps | with_reducible apply callVictims_keeps | with_reducible apply Keeps.foldl
    | with_reducible apply KeepsOpt.getD | with_reducible apply KeepsOpt.of_some | dsimp only | split

theorem execKernel_keeps {s0 s : State} {id : ℕ} (h : Keeps s0 s) :
    KeepsOut s0 (execKernel id s) := by
  unfold execKernel
  repeat' first
    | with_reducible assumption | with_reducible apply live_keeps | with_reducible apply kernelRow_keeps
    | with_reducible apply KeepsOut.next | with_reducible apply Keeps.foldl
    | simp only [Keeps.upd_iff, Keeps.upd_evc_iff, Keeps.upd_tbs_iff, Keeps.upd_both_iff] | split
    | with_reducible refine KeepsOpt.get (by assumption) ?_ | with_reducible refine KeepsPair.get (by assumption) ?_
    | dsimp only | intro _

theorem execDeferredStart_keeps {s0 s : State} {id : ℕ} (h : Keeps s0 s) :
    KeepsOut s0 (execDeferredStart id s) := by
  unfold execDeferredStart
  repeat' first
    | with_reducible assumption | with_reducible apply deferredStart_keeps | with_reducible apply dropOrphans_keeps
    | with_reducible apply live_keeps | with_reducible apply KeepsOut.next | with_reducible apply Keeps.foldl
    | simp only [Keeps.upd_iff, Keeps.upd_evc_iff, Keeps.upd_tbs_iff, Keeps.upd_both_iff] | split
    | with_reducible refine KeepsOpt.get (by assumption) ?_ | with_reducible refine KeepsPair.get (by assumption) ?_
    | dsimp only | intro _

theorem degradeRows_keeps {s0 s : State} {m : ModelRef} (h : Keeps s0 s) :
    Keeps s0 (degradeRows m s) := by
  unfold degradeRows
  repeat' first
    | with_reducible assumption | with_reducible apply stopDrafting_keeps | with_reducible apply failCmd_keeps
    | with_reducible apply Keeps.foldl | with_reducible apply KeepsOpt.getD | with_reducible apply KeepsOpt.of_some
    | simp only [Keeps.upd_iff, Keeps.upd_evc_iff, Keeps.upd_tbs_iff, Keeps.upd_both_iff] | split
    | with_reducible refine KeepsOpt.get (by assumption) ?_ | with_reducible refine KeepsPair.get (by assumption) ?_
    | dsimp only | intro _

theorem launch_keeps {s0 s : State} {m : ModelRef} {pacing : Pacing} {plan : List StripLoad}
    {probes : List FormProbe} {rows : List PassRow} {num : ℕ} (h : Keeps s0 s) :
    Keeps s0 (launch m pacing plan probes rows num s) := by
  unfold launch
  repeat' first
    | with_reducible assumption | with_reducible apply runCmd_keeps | with_reducible apply joinPairs_keeps
    | with_reducible apply setRef_keeps | with_reducible apply setWork_keeps | with_reducible apply fillAhead_keeps
    | with_reducible apply setVoice_keeps | with_reducible apply Keeps.foldl | with_reducible apply KeepsOpt.getD
    | with_reducible apply KeepsOpt.of_some | simp only [Keeps.upd_iff] | split
    | with_reducible refine KeepsOpt.get (by assumption) ?_ | with_reducible refine KeepsPair.get (by assumption) ?_
    | dsimp only | intro _

theorem sendBlock_keeps {s0 s : State} {sp : Split} {h2 : Handle} {part : ℕ} {num : ℕ} {bytes : List Byte}
    (h : Keeps s0 s) :
    Keeps s0 (sendBlock sp h2 part num bytes s) := by
  unfold sendBlock
  repeat' first
    | with_reducible assumption | with_reducible apply originate_keeps | with_reducible apply Keeps.foldl

theorem launchSplit_keeps {s0 s : State} {sp : Split} {h2 : Handle} {pacing : Pacing} {plan : List StripLoad}
    {probes : List FormProbe} {rows : List PassRow} (h : Keeps s0 s) :
    Keeps s0 (launchSplit sp h2 pacing plan probes rows s) := by
  unfold launchSplit
  repeat' first
    | with_reducible assumption | with_reducible apply sendBlock_keeps | with_reducible apply launch_keeps
    | with_reducible apply Keeps.foldl | with_reducible apply KeepsOpt.getD | with_reducible apply KeepsOpt.of_some
    | simp only [Keeps.upd_iff] | split

theorem launchStage_keeps {s0 s : State} {h1 : Handle} {pacing : Pacing} {plan : List StripLoad}
    {probes : List FormProbe} (h : Keeps s0 s) :
    Keeps s0 (launchStage h1 pacing plan probes s) := by
  unfold launchStage
  repeat' first
    | with_reducible assumption | with_reducible apply launch_keeps | with_reducible apply Keeps.foldl
    | with_reducible apply KeepsOpt.getD | with_reducible apply KeepsOpt.of_some
    | simp only [Keeps.upd_iff, Keeps.upd_evc_iff, Keeps.upd_tbs_iff, Keeps.upd_both_iff] | split

theorem passStart_keeps {s0 s : State} {m : ModelRef} {pacing : Pacing} {plan : List StripLoad}
    {probes : List FormProbe} (h : Keeps s0 s) :
    Keeps s0 (passStart m pacing plan probes s) := by
  unfold passStart
  repeat' first
    | with_reducible assumption | with_reducible apply launchSplit_keeps | with_reducible apply launch_keeps
    | with_reducible apply startWait_keeps | with_reducible apply degradeRows_keeps
    | with_reducible apply originate_keeps | with_reducible apply launchStage_keeps | with_reducible apply Keeps.foldl
    | with_reducible apply KeepsOpt.getD | with_reducible apply KeepsOpt.of_some | simp only [Keeps.upd_iff] | split
    | with_reducible refine KeepsOpt.get (by assumption) ?_ | with_reducible refine KeepsPair.get (by assumption) ?_
    | dsimp only | intro _

theorem execPassStart_keeps {s0 s : State} {m : ModelRef} {pacing : Pacing} {plan : List StripLoad}
    {probes : List FormProbe} (h : Keeps s0 s) :
    KeepsOut s0 (execPassStart m pacing plan probes s) := by
  unfold execPassStart
  repeat' first
    | with_reducible assumption | with_reducible apply passStart_keeps | with_reducible apply standingChange_keeps
    | with_reducible apply live_keeps | with_reducible apply KeepsOut.next | with_reducible apply Keeps.foldl
    | simp only [Keeps.upd_iff, Keeps.upd_evc_iff, Keeps.upd_tbs_iff, Keeps.upd_both_iff] | split
    | with_reducible refine KeepsOpt.get (by assumption) ?_ | with_reducible refine KeepsPair.get (by assumption) ?_
    | dsimp only | intro _

theorem addBreath_keeps {s0 s : State} {p : Pass} (h : Keeps s0 s) :
    Keeps s0 (addBreath p s) := by
  unfold addBreath
  repeat' first
    | with_reducible assumption | with_reducible apply setCmd_keeps | with_reducible apply Keeps.foldl
    | with_reducible apply KeepsOpt.getD | with_reducible apply KeepsOpt.of_some
    | simp only [Keeps.upd_iff, Keeps.upd_evc_iff, Keeps.upd_tbs_iff, Keeps.upd_both_iff] | split
    | with_reducible refine KeepsOpt.get (by assumption) ?_ | with_reducible refine KeepsPair.get (by assumption) ?_
    | dsimp only | intro _

theorem failRow_keeps {s0 s : State} {r : PassRow} {status : ℕ} {detail : ℕ} (h : Keeps s0 s) :
    Keeps s0 (failRow r status detail s) := by
  unfold failRow
  repeat' first
    | with_reducible assumption | with_reducible apply stopDrafting_keeps | with_reducible apply failCmd_keeps
    | with_reducible apply Keeps.foldl | with_reducible apply KeepsOpt.getD | with_reducible apply KeepsOpt.of_some
    | simp only [Keeps.upd_iff, Keeps.upd_evc_iff, Keeps.upd_tbs_iff, Keeps.upd_both_iff] | split

theorem tellCommit_keeps {s0 s : State} {sp : Split} {r : PassRow} {key : ℕ} {was : ℕ} (h : Keeps s0 s) :
    Keeps s0 (tellCommit sp r key was s) := by
  unfold tellCommit
  repeat' first
    | with_reducible assumption | with_reducible apply toStages_keeps | with_reducible apply Keeps.foldl
    | with_reducible apply KeepsOpt.getD | with_reducible apply KeepsOpt.of_some | dsimp only | split

theorem endRow_keeps {s0 s : State} {p : Pass} {rs : List RowResult} {r : PassRow} (h : Keeps s0 s) :
    Keeps s0 (endRow p rs r s) := by
  unfold endRow
  repeat' first
    | with_reducible assumption | with_reducible apply tellCommit_keeps | with_reducible apply failRow_keeps
    | with_reducible apply settleRow_keeps | with_reducible apply Keeps.foldl | with_reducible apply KeepsOpt.getD
    | with_reducible apply KeepsOpt.of_some | dsimp only | split

theorem commitPass_keeps {s0 s : State} {p : Pass} {rs : List RowResult} (h : Keeps s0 s) :
    Keeps s0 (commitPass p rs s) := by
  unfold commitPass
  repeat' first
    | with_reducible assumption | with_reducible apply bumpApt_keeps | with_reducible apply setModel_keeps
    | with_reducible apply endRow_keeps | with_reducible apply addBreath_keeps | with_reducible apply endPass_keeps
    | with_reducible apply Keeps.foldl | with_reducible apply KeepsOpt.getD | with_reducible apply KeepsOpt.of_some
    | simp only [Keeps.upd_iff, Keeps.upd_evc_iff, Keeps.upd_tbs_iff, Keeps.upd_both_iff] | split
    | with_reducible refine KeepsOpt.get (by assumption) ?_ | with_reducible refine KeepsPair.get (by assumption) ?_
    | dsimp only | intro _

theorem failPass_keeps {s0 s : State} {p : Pass} {status : ℕ} {detail : ℕ} (h : Keeps s0 s) :
    Keeps s0 (failPass p status detail s) := by
  unfold failPass
  repeat' first
    | with_reducible assumption | with_reducible apply addBreath_keeps | with_reducible apply failRow_keeps
    | with_reducible apply endPass_keeps | with_reducible apply tellStages_keeps | with_reducible apply Keeps.foldl
    | with_reducible apply KeepsOpt.getD | with_reducible apply KeepsOpt.of_some
    | simp only [Keeps.upd_iff, Keeps.upd_evc_iff, Keeps.upd_tbs_iff, Keeps.upd_both_iff] | split
    | with_reducible refine KeepsOpt.get (by assumption) ?_ | with_reducible refine KeepsPair.get (by assumption) ?_
    | dsimp only | intro _

theorem endStage_keeps {s0 s : State} {p : Pass} {sp : Split} {h3 : Handle} (h : Keeps s0 s) :
    Keeps s0 (endStage p sp h3 s) := by
  unfold endStage
  repeat' first
    | with_reducible assumption | with_reducible apply setModel_keeps | with_reducible apply sendBlock_keeps
    | with_reducible apply endPass_keeps | with_reducible apply originate_keeps | with_reducible apply Keeps.foldl
    | with_reducible apply KeepsOpt.getD | with_reducible apply KeepsOpt.of_some | simp only [Keeps.upd_iff]

theorem passEnd_keeps {s0 s : State} {m : ModelRef} {rs : List RowResult} (h : Keeps s0 s) :
    Keeps s0 (passEnd m rs s) := by
  unfold passEnd
  repeat' first
    | with_reducible assumption | with_reducible apply unitMismatch_keeps | with_reducible apply commitPass_keeps
    | with_reducible apply withLease_keeps | with_reducible apply failPass_keeps | with_reducible apply endStage_keeps
    | with_reducible apply Keeps.foldl | with_reducible apply KeepsOpt.getD | with_reducible apply KeepsOpt.of_some
    | dsimp only | split | with_reducible refine KeepsOpt.get (by assumption) ?_
    | with_reducible refine KeepsPair.get (by assumption) ?_ | intro _

theorem execPassEnd_keeps {s0 s : State} {m : ModelRef} {rs : List RowResult} (h : Keeps s0 s) :
    KeepsOut s0 (execPassEnd m rs s) := by
  unfold execPassEnd
  repeat' first
    | with_reducible assumption | with_reducible apply passEnd_keeps | with_reducible apply live_keeps
    | with_reducible apply KeepsOut.next | with_reducible apply Keeps.foldl
    | simp only [Keeps.upd_iff, Keeps.upd_evc_iff, Keeps.upd_tbs_iff, Keeps.upd_both_iff] | split
    | with_reducible refine KeepsOpt.get (by assumption) ?_ | with_reducible refine KeepsPair.get (by assumption) ?_
    | dsimp only | intro _

end Sys2Proof.Machine
end

