-- ==== Sys2Proof/Laws/KeepDevice.lean ====
section
/-! SUPPORT. `Keeps` for the operations of Machine/Ensemble.lean, Stages.lean, Clocks.lean, Power.lean, Boot.lean, HostLink.lean, Regs.lean. -/

namespace Sys2Proof.Machine

theorem sendReach_keeps {s0 s : State} (h : Keeps s0 s) :
    Keeps s0 (sendReach s) := by
  unfold sendReach
  repeat' first
    | with_reducible assumption | with_reducible apply enqueue_keeps | with_reducible apply Keeps.foldl
    | with_reducible apply KeepsOpt.getD | with_reducible apply KeepsOpt.of_some | dsimp only | split
    | with_reducible refine KeepsOpt.get (by assumption) ?_ | with_reducible refine KeepsPair.get (by assumption) ?_
    | intro _

theorem unjoin_keeps {s0 s : State} {h1 : Handle} {status : ℕ} {detail : ℕ} (h : Keeps s0 s) :
    Keeps s0 (unjoin h1 status detail s) := by
  unfold unjoin
  repeat' first
    | with_reducible assumption | with_reducible apply destroyCtx_keeps | with_reducible apply finish_keeps
    | with_reducible apply abandonPass_keeps | with_reducible apply setJoined_keeps
    | with_reducible apply dropReserving_keeps | with_reducible apply Keeps.foldl | with_reducible apply KeepsOpt.getD
    | with_reducible apply KeepsOpt.of_some | simp only [Keeps.upd_iff] | split
    | with_reducible refine KeepsOpt.get (by assumption) ?_ | with_reducible refine KeepsPair.get (by assumption) ?_
    | dsimp only | intro _

theorem loseDevice_keeps {s0 s : State} {d : ℕ} (h : Keeps s0 s) :
    Keeps s0 (loseDevice d s) := by
  unfold loseDevice
  repeat' first
    | with_reducible assumption | with_reducible apply logErr_keeps | with_reducible apply report_keeps
    | with_reducible apply Keeps.foldl | with_reducible apply KeepsOpt.getD | with_reducible apply KeepsOpt.of_some
    | simp only [Keeps.upd_iff]

theorem findDevice_keeps {s0 s : State} {d : ℕ} (h : Keeps s0 s) :
    Keeps s0 (findDevice d s) := by
  unfold findDevice
  repeat' first
    | with_reducible assumption | with_reducible apply logErr_keeps | with_reducible apply originate_keeps
    | with_reducible apply Keeps.foldl | with_reducible apply KeepsOpt.getD | with_reducible apply KeepsOpt.of_some
    | dsimp only | split | with_reducible refine KeepsOpt.get (by assumption) ?_
    | with_reducible refine KeepsPair.get (by assumption) ?_ | intro _

theorem settleJoins_keeps {s0 s : State} (h : Keeps s0 s) :
    Keeps s0 (settleJoins s) := by
  unfold settleJoins
  repeat' first
    | with_reducible assumption | with_reducible apply tryJoin_keeps | with_reducible apply unjoin_keeps
    | with_reducible apply Keeps.foldl | with_reducible apply KeepsOpt.getD | with_reducible apply KeepsOpt.of_some
    | dsimp only | split | with_reducible refine KeepsOpt.get (by assumption) ?_
    | with_reducible refine KeepsPair.get (by assumption) ?_ | intro _

theorem setReach_keeps {s0 s : State} {new : BitVec 256} (h : Keeps s0 s) :
    Keeps s0 (setReach new s) := by
  unfold setReach
  repeat' first
    | with_reducible assumption | with_reducible apply sendReach_keeps | with_reducible apply settleJoins_keeps
    | with_reducible apply loseDevice_keeps | with_reducible apply findDevice_keeps | with_reducible apply Keeps.foldl
    | with_reducible apply KeepsOpt.getD | with_reducible apply KeepsOpt.of_some | simp only [Keeps.upd_iff] | split
    | with_reducible refine KeepsOpt.get (by assumption) ?_ | with_reducible refine KeepsPair.get (by assumption) ?_
    | dsimp only | intro _

theorem reachVia_keeps {s0 s : State} {n : Port} {f : ℕ → Bool} (h : Keeps s0 s) :
    Keeps s0 (reachVia n f s) := by
  unfold reachVia
  repeat' first
    | with_reducible assumption | with_reducible apply setReach_keeps

theorem enterPort_keeps {s0 s : State} {n : Port} {st : PortSt} (h : Keeps s0 s) :
    Keeps s0 (enterPort n st s) := by
  unfold enterPort
  repeat' first
    | with_reducible assumption | with_reducible apply setPort_keeps

theorem clearLink_keeps {s0 s : State} {n : Port} (h : Keeps s0 s) :
    Keeps s0 (clearLink n s) := by
  unfold clearLink
  repeat' first
    | with_reducible assumption | with_reducible apply dropUnits_keeps | with_reducible apply setPort_keeps

theorem portRecord_keeps {s0 s : State} {n : Port} (h : Keeps s0 s) :
    Keeps s0 (portRecord n s) := by
  unfold portRecord
  repeat' first
    | with_reducible assumption | with_reducible apply logErr_keeps

theorem leavePort_keeps {s0 s : State} {n : Port} {st : PortSt} {cause : Option ℕ} (h : Keeps s0 s) :
    Keeps s0 (leavePort n st cause s) := by
  unfold leavePort
  repeat' first
    | with_reducible assumption | with_reducible apply enterPort_keeps | with_reducible apply clearLink_keeps
    | with_reducible apply portRecord_keeps | with_reducible apply reachVia_keeps | with_reducible apply setPort_keeps
    | with_reducible apply Keeps.foldl | with_reducible apply KeepsOpt.getD | with_reducible apply KeepsOpt.of_some
    | dsimp only | split

theorem portDown_keeps {s0 s : State} {n : Port} {cause : ℕ} (h : Keeps s0 s) :
    Keeps s0 (portDown n cause s) := by
  unfold portDown
  repeat' first
    | with_reducible assumption | with_reducible apply leavePort_keeps

theorem trainFail_keeps {s0 s : State} {n : Port} {cause : ℕ} (h : Keeps s0 s) :
    Keeps s0 (trainFail n cause s) := by
  unfold trainFail
  repeat' first
    | with_reducible assumption | with_reducible apply enterPort_keeps | with_reducible apply portRecord_keeps
    | with_reducible apply setPort_keeps

theorem settlePorts_keeps {s0 s : State} (h : Keeps s0 s) :
    Keeps s0 (settlePorts s) := by
  unfold settlePorts
  repeat' first
    | with_reducible assumption | with_reducible apply leavePort_keeps | with_reducible apply enterPort_keeps
    | with_reducible apply Keeps.foldl | with_reducible apply KeepsOpt.getD | with_reducible apply KeepsOpt.of_some
    | dsimp only | split | with_reducible refine KeepsOpt.get (by assumption) ?_
    | with_reducible refine KeepsPair.get (by assumption) ?_ | intro _

theorem inPort_keeps {s0 s : State} {n : Port} {st : PortSt} {f : State → State}
    (f_keeps : ∀ t, Keeps s0 t → Keeps s0 (f t)) (h : Keeps s0 s) :
    Keeps s0 (inPort n st f s) := by
  unfold inPort
  repeat' first
    | with_reducible assumption | with_reducible apply f_keeps | with_reducible apply Keeps.foldl
    | with_reducible apply KeepsOpt.getD | with_reducible apply KeepsOpt.of_some
    | simp only [Keeps.upd_iff, Keeps.upd_evc_iff, Keeps.upd_tbs_iff, Keeps.upd_both_iff] | split

theorem execPortDetect_keeps {s0 s : State} {n : Port} {answered : Bool} (h : Keeps s0 s) :
    KeepsOut s0 (execPortDetect n answered s) := by
  unfold execPortDetect
  repeat' first
    | with_reducible assumption | with_reducible apply enterPort_keeps | with_reducible apply live_keeps
    | with_reducible apply inPort_keeps | with_reducible apply KeepsOut.next | with_reducible apply Keeps.foldl
    | simp only [Keeps.upd_iff, Keeps.upd_evc_iff, Keeps.upd_tbs_iff, Keeps.upd_both_iff] | split
    | with_reducible refine KeepsOpt.get (by assumption) ?_ | with_reducible refine KeepsPair.get (by assumption) ?_
    | dsimp only | intro _

theorem execPortEqualizeEnd_keeps {s0 s : State} {n : Port} {ok : Bool} (h : Keeps s0 s) :
    KeepsOut s0 (execPortEqualizeEnd n ok s) := by
  unfold execPortEqualizeEnd
  repeat' first
    | with_reducible assumption | with_reducible apply enterPort_keeps | with_reducible apply live_keeps
    | with_reducible apply trainFail_keeps | with_reducible apply inPort_keeps | with_reducible apply KeepsOut.next
    | with_reducible apply Keeps.foldl
    | simp only [Keeps.upd_iff, Keeps.upd_evc_iff, Keeps.upd_tbs_iff, Keeps.upd_both_iff] | split
    | with_reducible refine KeepsOpt.get (by assumption) ?_ | with_reducible refine KeepsPair.get (by assumption) ?_
    | dsimp only | intro _

theorem sendIdent_keeps {s0 s : State} {n : Port} (h : Keeps s0 s) :
    Keeps s0 (sendIdent n s) := by
  unfold sendIdent
  repeat' first
    | with_reducible assumption | with_reducible apply sendLocal_keeps | with_reducible apply setPort_keeps
    | with_reducible apply Keeps.foldl | with_reducible apply KeepsOpt.getD | with_reducible apply KeepsOpt.of_some
    | simp only [Keeps.upd_iff]

theorem portAlignEnd_keeps {s0 s : State} {n : Port} {lanes : BitVec 4} (h : Keeps s0 s) :
    Keeps s0 (portAlignEnd n lanes s) := by
  unfold portAlignEnd
  repeat' first
    | with_reducible assumption | with_reducible apply enterPort_keeps | with_reducible apply trainFail_keeps
    | with_reducible apply sendIdent_keeps | with_reducible apply setPort_keeps | with_reducible apply Keeps.foldl
    | with_reducible apply KeepsOpt.getD | with_reducible apply KeepsOpt.of_some | dsimp only | split

theorem execPortAlignEnd_keeps {s0 s : State} {n : Port} {lanes : BitVec 4} (h : Keeps s0 s) :
    KeepsOut s0 (execPortAlignEnd n lanes s) := by
  unfold execPortAlignEnd
  repeat' first
    | with_reducible assumption | with_reducible apply portAlignEnd_keeps | with_reducible apply live_keeps
    | with_reducible apply inPort_keeps | with_reducible apply KeepsOut.next | with_reducible apply Keeps.foldl
    | simp only [Keeps.upd_iff, Keeps.upd_evc_iff, Keeps.upd_tbs_iff, Keeps.upd_both_iff] | split
    | with_reducible refine KeepsOpt.get (by assumption) ?_ | with_reducible refine KeepsPair.get (by assumption) ?_
    | dsimp only | intro _

theorem identIn_keeps {s0 s : State} {n : Port} {p : Packet} (h : Keeps s0 s) :
    Keeps s0 (identIn n p s) := by
  unfold identIn
  repeat' first
    | with_reducible assumption | with_reducible apply trainFail_keeps | with_reducible apply sendIdent_keeps
    | with_reducible apply setPort_keeps | with_reducible apply Keeps.foldl | with_reducible apply KeepsOpt.getD
    | with_reducible apply KeepsOpt.of_some | dsimp only | split

theorem execIdent_keeps {s0 s : State} {n : Port} {p : Packet} (h : Keeps s0 s) :
    KeepsOut s0 (execIdent n p s) := by
  unfold execIdent
  repeat' first
    | with_reducible assumption | with_reducible apply identIn_keeps | with_reducible apply live_keeps
    | with_reducible apply inPort_keeps | with_reducible apply KeepsOut.next | with_reducible apply Keeps.foldl
    | simp only [Keeps.upd_iff, Keeps.upd_evc_iff, Keeps.upd_tbs_iff, Keeps.upd_both_iff] | split
    | with_reducible refine KeepsOpt.get (by assumption) ?_ | with_reducible refine KeepsPair.get (by assumption) ?_
    | dsimp only | intro _

theorem portUp_keeps {s0 s : State} {n : Port} {delay : ℕ} (h : Keeps s0 s) :
    Keeps s0 (portUp n delay s) := by
  unfold portUp
  repeat' first
    | with_reducible assumption | with_reducible apply enterPort_keeps | with_reducible apply clearLink_keeps
    | with_reducible apply reachVia_keeps | with_reducible apply setPort_keeps

theorem portIdentEnd_keeps {s0 s : State} {n : Port} {delay : Option ℕ} (h : Keeps s0 s) :
    Keeps s0 (portIdentEnd n delay s) := by
  unfold portIdentEnd
  repeat' first
    | with_reducible assumption | with_reducible apply portUp_keeps | with_reducible apply trainFail_keeps
    | with_reducible apply Keeps.foldl | with_reducible apply KeepsOpt.getD | with_reducible apply KeepsOpt.of_some
    | simp only [Keeps.upd_iff, Keeps.upd_evc_iff, Keeps.upd_tbs_iff, Keeps.upd_both_iff] | split

theorem execPortIdentEnd_keeps {s0 s : State} {n : Port} {delay : Option ℕ} (h : Keeps s0 s) :
    KeepsOut s0 (execPortIdentEnd n delay s) := by
  unfold execPortIdentEnd
  repeat' first
    | with_reducible assumption | with_reducible apply standingChange_keeps | with_reducible apply portIdentEnd_keeps
    | with_reducible apply live_keeps | with_reducible apply inPort_keeps | with_reducible apply KeepsOut.next
    | with_reducible apply Keeps.foldl
    | simp only [Keeps.upd_iff, Keeps.upd_evc_iff, Keeps.upd_tbs_iff, Keeps.upd_both_iff] | split
    | with_reducible refine KeepsOpt.get (by assumption) ?_ | with_reducible refine KeepsPair.get (by assumption) ?_
    | dsimp only | intro _

theorem execPortDownExpiry_keeps {s0 s : State} {n : Port} (h : Keeps s0 s) :
    KeepsOut s0 (execPortDownExpiry n s) := by
  unfold execPortDownExpiry
  repeat' first
    | with_reducible assumption | with_reducible apply enterPort_keeps | with_reducible apply live_keeps
    | with_reducible apply inPort_keeps | with_reducible apply KeepsOut.next | with_reducible apply Keeps.foldl
    | dsimp only | split | with_reducible refine KeepsOpt.get (by assumption) ?_
    | with_reducible refine KeepsPair.get (by assumption) ?_ | intro _

theorem retrain_keeps {s0 s : State} {n : Port} (h : Keeps s0 s) :
    Keeps s0 (retrain n s) := by
  unfold retrain
  repeat' first
    | with_reducible assumption | with_reducible apply leavePort_keeps | with_reducible apply portDown_keeps
    | with_reducible apply setPort_keeps | with_reducible apply Keeps.foldl | with_reducible apply KeepsOpt.getD
    | with_reducible apply KeepsOpt.of_some
    | simp only [Keeps.upd_iff, Keeps.upd_evc_iff, Keeps.upd_tbs_iff, Keeps.upd_both_iff] | split

theorem retrainPorts_keeps {s0 s : State} {v : Word} (h : Keeps s0 s) :
    Keeps s0 (retrainPorts v s) := by
  unfold retrainPorts
  repeat' first
    | with_reducible assumption | with_reducible apply retrain_keeps | with_reducible apply Keeps.foldl
    | with_reducible apply KeepsOpt.getD | with_reducible apply KeepsOpt.of_some
    | simp only [Keeps.upd_iff, Keeps.upd_evc_iff, Keeps.upd_tbs_iff, Keeps.upd_both_iff] | split
    | with_reducible refine KeepsOpt.get (by assumption) ?_ | with_reducible refine KeepsPair.get (by assumption) ?_
    | dsimp only | intro _

theorem writeEnsCtrl_keeps {s0 s : State} {v : Word} (h : Keeps s0 s) :
    Keeps s0 (writeEnsCtrl v s) := by
  unfold writeEnsCtrl
  repeat' first
    | with_reducible assumption | with_reducible apply whenRuns_keeps | with_reducible apply retrainPorts_keeps
    | with_reducible apply settlePorts_keeps | with_reducible apply Keeps.foldl | with_reducible apply KeepsOpt.getD
    | with_reducible apply KeepsOpt.of_some | simp only [Keeps.upd_iff] | split
    | with_reducible refine KeepsOpt.get (by assumption) ?_ | with_reducible refine KeepsPair.get (by assumption) ?_
    | dsimp only | intro _

theorem execEnsRetrain_keeps {s0 s : State} {v : Word} (h : Keeps s0 s) :
    KeepsOut s0 (execEnsRetrain v s) := by
  unfold execEnsRetrain
  repeat' first
    | with_reducible assumption | with_reducible apply regWrite_keeps | with_reducible apply writeEnsCtrl_keeps
    | with_reducible apply live_keeps | with_reducible apply KeepsOut.next | with_reducible apply Keeps.foldl
    | simp only [Keeps.upd_iff, Keeps.upd_evc_iff, Keeps.upd_tbs_iff, Keeps.upd_both_iff] | split
    | with_reducible refine KeepsOpt.get (by assumption) ?_ | with_reducible refine KeepsPair.get (by assumption) ?_
    | dsimp only | intro _

theorem losePeers_keeps {s0 s : State} (h : Keeps s0 s) :
    Keeps s0 (losePeers s) := by
  unfold losePeers
  repeat' first
    | with_reducible assumption | with_reducible apply portDown_keeps | with_reducible apply Keeps.foldl
    | with_reducible apply KeepsOpt.getD | with_reducible apply KeepsOpt.of_some | dsimp only | split
    | with_reducible refine KeepsOpt.get (by assumption) ?_ | with_reducible refine KeepsPair.get (by assumption) ?_
    | intro _

theorem sendAck_keeps {s0 s : State} {n : Port} {nak : Bool} (h : Keeps s0 s) :
    Keeps s0 (sendAck n nak s) := by
  unfold sendAck
  repeat' first
    | with_reducible assumption | with_reducible apply sendLocal_keeps | with_reducible apply setPort_keeps

theorem execAckTimer_keeps {s0 s : State} {n : Port} (h : Keeps s0 s) :
    KeepsOut s0 (execAckTimer n s) := by
  unfold execAckTimer
  repeat' first
    | with_reducible assumption | with_reducible apply sendAck_keeps | with_reducible apply live_keeps
    | with_reducible apply inPort_keeps | with_reducible apply KeepsOut.next | with_reducible apply Keeps.foldl
    | simp only [Keeps.upd_iff, Keeps.upd_evc_iff, Keeps.upd_tbs_iff, Keeps.upd_both_iff] | split
    | with_reducible refine KeepsOpt.get (by assumption) ?_ | with_reducible refine KeepsPair.get (by assumption) ?_
    | dsimp only | intro _

theorem replayAll_keeps {s0 s : State} {n : Port} (h : Keeps s0 s) :
    Keeps s0 (replayAll n s) := by
  unfold replayAll
  repeat' first
    | with_reducible assumption | with_reducible apply drainPort_keeps | with_reducible apply setPort_keeps

theorem replayLimit_keeps {s0 s : State} {n : Port} (h : Keeps s0 s) :
    Keeps s0 (replayLimit n s) := by
  unfold replayLimit
  repeat' first
    | with_reducible assumption | with_reducible apply portDown_keeps | with_reducible apply Keeps.foldl
    | with_reducible apply KeepsOpt.getD | with_reducible apply KeepsOpt.of_some
    | simp only [Keeps.upd_iff, Keeps.upd_evc_iff, Keeps.upd_tbs_iff, Keeps.upd_both_iff] | split

theorem ackIn_keeps {s0 s : State} {n : Port} {p : Packet} (h : Keeps s0 s) :
    Keeps s0 (ackIn n p s) := by
  unfold ackIn
  repeat' first
    | with_reducible assumption | with_reducible apply replayAll_keeps | with_reducible apply replayLimit_keeps
    | with_reducible apply drainPort_keeps | with_reducible apply setPort_keeps | with_reducible apply Keeps.foldl
    | with_reducible apply KeepsOpt.getD | with_reducible apply KeepsOpt.of_some | dsimp only | split

theorem execAck_keeps {s0 s : State} {n : Port} {p : Packet} (h : Keeps s0 s) :
    KeepsOut s0 (execAck n p s) := by
  unfold execAck
  repeat' first
    | with_reducible assumption | with_reducible apply ackIn_keeps | with_reducible apply live_keeps
    | with_reducible apply inPort_keeps | with_reducible apply KeepsOut.next | with_reducible apply Keeps.foldl
    | simp only [Keeps.upd_iff, Keeps.upd_evc_iff, Keeps.upd_tbs_iff, Keeps.upd_both_iff] | split
    | with_reducible refine KeepsOpt.get (by assumption) ?_ | with_reducible refine KeepsPair.get (by assumption) ?_
    | dsimp only | intro _

theorem execReplayTimeout_keeps {s0 s : State} {n : Port} (h : Keeps s0 s) :
    KeepsOut s0 (execReplayTimeout n s) := by
  unfold execReplayTimeout
  repeat' first
    | with_reducible assumption | with_reducible apply replayAll_keeps | with_reducible apply replayLimit_keeps
    | with_reducible apply live_keeps | with_reducible apply inPort_keeps | with_reducible apply KeepsOut.next
    | with_reducible apply Keeps.foldl
    | simp only [Keeps.upd_iff, Keeps.upd_evc_iff, Keeps.upd_tbs_iff, Keeps.upd_both_iff] | split
    | with_reducible refine KeepsOpt.get (by assumption) ?_ | with_reducible refine KeepsPair.get (by assumption) ?_
    | dsimp only | intro _

theorem execKeepaliveIdleTimer_keeps {s0 s : State} {n : Port} (h : Keeps s0 s) :
    KeepsOut s0 (execKeepaliveIdleTimer n s) := by
  unfold execKeepaliveIdleTimer
  repeat' first
    | with_reducible assumption | with_reducible apply live_keeps | with_reducible apply sendLocal_keeps
    | with_reducible apply inPort_keeps | with_reducible apply KeepsOut.next | with_reducible apply Keeps.foldl
    | simp only [Keeps.upd_iff, Keeps.upd_evc_iff, Keeps.upd_tbs_iff, Keeps.upd_both_iff] | split
    | with_reducible refine KeepsOpt.get (by assumption) ?_ | with_reducible refine KeepsPair.get (by assumption) ?_
    | dsimp only | intro _

theorem execKeepalive_keeps {s0 s : State} {n : Port} {p : Packet} (h : Keeps s0 s) :
    KeepsOut s0 (execKeepalive n p s) := by
  unfold execKeepalive
  repeat' first
    | with_reducible assumption | with_reducible apply live_keeps | with_reducible apply inPort_keeps
    | with_reducible apply setPort_keeps | with_reducible apply KeepsOut.next | with_reducible apply Keeps.foldl
    | simp only [Keeps.upd_iff, Keeps.upd_evc_iff, Keeps.upd_tbs_iff, Keeps.upd_both_iff] | split
    | with_reducible refine KeepsOpt.get (by assumption) ?_ | with_reducible refine KeepsPair.get (by assumption) ?_
    | dsimp only | intro _

theorem execLinkSilence_keeps {s0 s : State} {n : Port} (h : Keeps s0 s) :
    KeepsOut s0 (execLinkSilence n s) := by
  unfold execLinkSilence
  repeat' first
    | with_reducible assumption | with_reducible apply portDown_keeps | with_reducible apply live_keeps
    | with_reducible apply inPort_keeps | with_reducible apply KeepsOut.next | with_reducible apply Keeps.foldl
    | simp only [Keeps.upd_iff, Keeps.upd_evc_iff, Keeps.upd_tbs_iff, Keeps.upd_both_iff] | split
    | with_reducible refine KeepsOpt.get (by assumption) ?_ | with_reducible refine KeepsPair.get (by assumption) ?_
    | dsimp only | intro _

theorem linkErr_keeps {s0 s : State} {n : Port} {crc : Bool} (h : Keeps s0 s) :
    Keeps s0 (linkErr n crc s) := by
  unfold linkErr
  repeat' first
    | with_reducible assumption | with_reducible apply sendAck_keeps | with_reducible apply setPort_keeps

theorem seqError_keeps {s0 s : State} {n : Port} {seq : ℕ} (h : Keeps s0 s) :
    Keeps s0 (seqError n seq s) := by
  unfold seqError
  repeat' first
    | with_reducible assumption | with_reducible apply linkErr_keeps | with_reducible apply setPort_keeps
    | with_reducible apply Keeps.foldl | with_reducible apply KeepsOpt.getD | with_reducible apply KeepsOpt.of_some
    | dsimp only | split

theorem linkError_keeps {s0 s : State} {n : Port} {e : LinkErr} (h : Keeps s0 s) :
    Keeps s0 (linkError n e s) := by
  unfold linkError
  repeat' first
    | with_reducible assumption | with_reducible apply seqError_keeps | with_reducible apply linkErr_keeps
    | with_reducible apply Keeps.foldl | with_reducible apply KeepsOpt.getD | with_reducible apply KeepsOpt.of_some
    | simp only [Keeps.upd_iff, Keeps.upd_evc_iff, Keeps.upd_tbs_iff, Keeps.upd_both_iff] | split

theorem execLinkError_keeps {s0 s : State} {n : Port} {e : LinkErr} (h : Keeps s0 s) :
    KeepsOut s0 (execLinkError n e s) := by
  unfold execLinkError
  repeat' first
    | with_reducible assumption | with_reducible apply live_keeps | with_reducible apply linkError_keeps
    | with_reducible apply inPort_keeps | with_reducible apply KeepsOut.next | with_reducible apply Keeps.foldl
    | simp only [Keeps.upd_iff, Keeps.upd_evc_iff, Keeps.upd_tbs_iff, Keeps.upd_both_iff] | split
    | with_reducible refine KeepsOpt.get (by assumption) ?_ | with_reducible refine KeepsPair.get (by assumption) ?_
    | dsimp only | intro _

theorem dropPacket_keeps {s0 s : State} {n : Port} {p : Packet} {reason : ℕ} (h : Keeps s0 s) :
    Keeps s0 (dropPacket n p reason s) := by
  unfold dropPacket
  repeat' first
    | with_reducible assumption | with_reducible apply logErr_keeps | with_reducible apply Keeps.foldl
    | with_reducible apply KeepsOpt.getD | with_reducible apply KeepsOpt.of_some | simp only [Keeps.upd_iff]

theorem forward_keeps {s0 s : State} {n : Port} {p : Packet} (h : Keeps s0 s) :
    Keeps s0 (forward n p s) := by
  unfold forward
  repeat' first
    | with_reducible assumption | with_reducible apply dropPacket_keeps | with_reducible apply freeBuf_keeps
    | with_reducible apply enqueue_keeps | with_reducible apply Keeps.foldl | with_reducible apply KeepsOpt.getD
    | with_reducible apply KeepsOpt.of_some
    | simp only [Keeps.upd_iff, Keeps.upd_evc_iff, Keeps.upd_tbs_iff, Keeps.upd_both_iff] | split

theorem receive_keeps {s0 s : State} {n : Port} {p : Packet} {k : State → State}
    (k_keeps : ∀ t, Keeps s0 t → Keeps s0 (k t)) (h : Keeps s0 s) :
    Keeps s0 (receive n p k s) := by
  unfold receive
  repeat' first
    | with_reducible assumption | with_reducible apply k_keeps | with_reducible apply seqError_keeps
    | with_reducible apply freeBuf_keeps | with_reducible apply sendAck_keeps | with_reducible apply forward_keeps
    | with_reducible apply linkErr_keeps | with_reducible apply setPort_keeps | with_reducible apply Keeps.foldl
    | with_reducible apply KeepsOpt.getD | with_reducible apply KeepsOpt.of_some | dsimp only | split

theorem receiveCtrl_keeps {s0 s : State} {n : Port} {p : Packet} {msg : ℕ} {k : State → State}
    (k_keeps : ∀ t, Keeps s0 t → Keeps s0 (k t)) (h : Keeps s0 s) :
    Keeps s0 (receiveCtrl n p msg k s) := by
  unfold receiveCtrl
  repeat' first
    | with_reducible assumption | with_reducible apply k_keeps | with_reducible apply dropPacket_keeps
    | with_reducible apply receive_keeps | with_reducible apply Keeps.foldl | with_reducible apply KeepsOpt.getD
    | with_reducible apply KeepsOpt.of_some | dsimp only | split
    | with_reducible refine KeepsOpt.get (by assumption) ?_ | with_reducible refine KeepsPair.get (by assumption) ?_
    | intro _

theorem reachIn_keeps {s0 s : State} {n : Port} {p : Packet} (h : Keeps s0 s) :
    Keeps s0 (reachIn n p s) := by
  unfold reachIn
  repeat' first
    | with_reducible assumption | with_reducible apply reachVia_keeps

theorem execReach_keeps {s0 s : State} {n : Port} {p : Packet} (h : Keeps s0 s) :
    KeepsOut s0 (execReach n p s) := by
  unfold execReach
  repeat' first
    | with_reducible assumption | with_reducible apply reachIn_keeps | with_reducible apply live_keeps
    | with_reducible apply receiveCtrl_keeps | with_reducible apply KeepsOut.next | with_reducible apply Keeps.foldl
    | simp only [Keeps.upd_iff, Keeps.upd_evc_iff, Keeps.upd_tbs_iff, Keeps.upd_both_iff] | split
    | with_reducible refine KeepsOpt.get (by assumption) ?_ | with_reducible refine KeepsPair.get (by assumption) ?_
    | dsimp only | intro _

theorem sendDownbeat_keeps {s0 s : State} {hops : ℕ} {p : Packet} (h : Keeps s0 s) :
    Keeps s0 (sendDownbeat hops p s) := by
  unfold sendDownbeat
  repeat' first
    | with_reducible assumption | with_reducible apply sendLocal_keeps | with_reducible apply Keeps.foldl
    | with_reducible apply KeepsOpt.getD | with_reducible apply KeepsOpt.of_some | dsimp only | split
    | with_reducible refine KeepsOpt.get (by assumption) ?_ | with_reducible refine KeepsPair.get (by assumption) ?_
    | intro _

theorem crossing_keeps {s0 s : State} (h : Keeps s0 s) :
    Keeps s0 (crossing s) := by
  unfold crossing
  repeat' first
    | with_reducible assumption | with_reducible apply pulseOut_keeps | with_reducible apply sendDownbeat_keeps
    | with_reducible apply Keeps.foldl | with_reducible apply KeepsOpt.getD | with_reducible apply KeepsOpt.of_some
    | simp only [Keeps.upd_evc_iff, Keeps.upd_tbs_iff] | split

theorem execDownbeatCrossing_keeps {s0 s : State} (h : Keeps s0 s) :
    KeepsOut s0 (execDownbeatCrossing s) := by
  unfold execDownbeatCrossing
  repeat' first
    | with_reducible assumption | with_reducible apply crossing_keeps | with_reducible apply live_keeps

theorem execDownbeatInCapture_keeps {s0 s : State} (h : Keeps s0 s) :
    KeepsOut s0 (execDownbeatInCapture s) := by
  unfold execDownbeatInCapture
  repeat' first
    | with_reducible assumption | with_reducible apply live_keeps | with_reducible apply KeepsOut.next
    | with_reducible apply Keeps.foldl | simp only [Keeps.upd_iff] | split
    | with_reducible refine KeepsOpt.get (by assumption) ?_ | with_reducible refine KeepsPair.get (by assumption) ?_
    | dsimp only | intro _

theorem stepTo_keeps {s0 s : State} {t1 : ℕ} (h : Keeps s0 s) :
    Keeps s0 (stepTo t1 s) := by
  unfold stepTo
  repeat' first
    | with_reducible assumption | with_reducible apply Keeps.foldl | with_reducible apply KeepsOpt.getD
    | with_reducible apply KeepsOpt.of_some
    | exact ⟨h.mem, h.fuses, h.pending, h.counts, h.now.trans (Nat.le_max_left _ _)⟩

theorem acceptDownbeat_keeps {s0 s : State} {n : Port} {h2 : ℕ} {p : Packet} {residence : ℕ} (h : Keeps s0 s) :
    Keeps s0 (acceptDownbeat n h2 p residence s) := by
  unfold acceptDownbeat
  repeat' first
    | with_reducible assumption | with_reducible apply stepTo_keeps | with_reducible apply sendDownbeat_keeps
    | with_reducible apply Keeps.foldl | with_reducible apply KeepsOpt.getD | with_reducible apply KeepsOpt.of_some
    | simp only [Keeps.upd_iff, Keeps.upd_tbs_iff] | split

theorem downbeatIn_keeps {s0 s : State} {n : Port} {p : Packet} {residence : ℕ} (h : Keeps s0 s) :
    Keeps s0 (downbeatIn n p residence s) := by
  unfold downbeatIn
  repeat' first
    | with_reducible assumption | with_reducible apply acceptDownbeat_keeps | with_reducible apply setPort_keeps
    | with_reducible apply Keeps.foldl | with_reducible apply KeepsOpt.getD | with_reducible apply KeepsOpt.of_some
    | dsimp only | split

theorem execDownbeat_keeps {s0 s : State} {n : Port} {p : Packet} {residence : ℕ} (h : Keeps s0 s) :
    KeepsOut s0 (execDownbeat n p residence s) := by
  unfold execDownbeat
  repeat' first
    | with_reducible assumption | with_reducible apply downbeatIn_keeps | with_reducible apply live_keeps
    | with_reducible apply inPort_keeps | with_reducible apply KeepsOut.next | with_reducible apply Keeps.foldl
    | simp only [Keeps.upd_iff, Keeps.upd_evc_iff, Keeps.upd_tbs_iff, Keeps.upd_both_iff] | split
    | with_reducible refine KeepsOpt.get (by assumption) ?_ | with_reducible refine KeepsPair.get (by assumption) ?_
    | dsimp only | intro _

theorem dataIn_keeps {s0 s : State} {p : Packet} (h : Keeps s0 s) :
    Keeps s0 (dataIn p s) := by
  unfold dataIn
  repeat' first
    | with_reducible assumption | with_reducible apply Keeps.foldl | with_reducible apply KeepsOpt.getD
    | with_reducible apply KeepsOpt.of_some | simp only [Keeps.upd_iff] | split

theorem execData_keeps {s0 s : State} {n : Port} {p : Packet} (h : Keeps s0 s) :
    KeepsOut s0 (execData n p s) := by
  unfold execData
  repeat' first
    | with_reducible assumption | with_reducible apply live_keeps | with_reducible apply dataIn_keeps
    | with_reducible apply receive_keeps | with_reducible apply KeepsOut.next | with_reducible apply Keeps.foldl
    | simp only [Keeps.upd_iff, Keeps.upd_evc_iff, Keeps.upd_tbs_iff, Keeps.upd_both_iff] | split
    | with_reducible refine KeepsOpt.get (by assumption) ?_ | with_reducible refine KeepsPair.get (by assumption) ?_
    | dsimp only | intro _

theorem joinIn_keeps {s0 s : State} {p : Packet} (h : Keeps s0 s) :
    Keeps s0 (joinIn p s) := by
  unfold joinIn
  repeat' first
    | with_reducible assumption | with_reducible apply tryJoin_keeps | with_reducible apply unjoin_keeps
    | with_reducible apply setJoined_keeps | with_reducible apply judgeJoin_keeps | with_reducible apply Keeps.foldl
    | with_reducible apply KeepsOpt.getD | with_reducible apply KeepsOpt.of_some | simp only [Keeps.upd_iff] | split

theorem execJoin_keeps {s0 s : State} {n : Port} {p : Packet} (h : Keeps s0 s) :
    KeepsOut s0 (execJoin n p s) := by
  unfold execJoin
  repeat' first
    | with_reducible assumption | with_reducible apply joinIn_keeps | with_reducible apply live_keeps
    | with_reducible apply receiveCtrl_keeps | with_reducible apply KeepsOut.next | with_reducible apply Keeps.foldl
    | simp only [Keeps.upd_iff, Keeps.upd_evc_iff, Keeps.upd_tbs_iff, Keeps.upd_both_iff] | split
    | with_reducible refine KeepsOpt.get (by assumption) ?_ | with_reducible refine KeepsPair.get (by assumption) ?_
    | dsimp only | intro _

theorem reserveIn_keeps {s0 s : State} {p : Packet} (h : Keeps s0 s) :
    Keeps s0 (reserveIn p s) := by
  unfold reserveIn
  repeat' first
    | with_reducible assumption | with_reducible apply newCtx_keeps | with_reducible apply reservePages_keeps
    | with_reducible apply quotaLast_keeps | with_reducible apply originate_keeps | with_reducible apply setCtx_keeps
    | with_reducible apply Keeps.foldl | with_reducible apply KeepsOpt.getD | with_reducible apply KeepsOpt.of_some
    | dsimp only | split

theorem execReserve_keeps {s0 s : State} {n : Port} {p : Packet} (h : Keeps s0 s) :
    KeepsOut s0 (execReserve n p s) := by
  unfold execReserve
  repeat' first
    | with_reducible assumption | with_reducible apply reserveIn_keeps | with_reducible apply live_keeps
    | with_reducible apply receiveCtrl_keeps | with_reducible apply KeepsOut.next | with_reducible apply Keeps.foldl
    | simp only [Keeps.upd_iff, Keeps.upd_evc_iff, Keeps.upd_tbs_iff, Keeps.upd_both_iff] | split
    | with_reducible refine KeepsOpt.get (by assumption) ?_ | with_reducible refine KeepsPair.get (by assumption) ?_
    | dsimp only | intro _

theorem releaseStages_keeps {s0 s : State} {c : Cmd} {asked : List ℕ} (h : Keeps s0 s) :
    Keeps s0 (releaseStages c asked s) := by
  unfold releaseStages
  repeat' first
    | with_reducible assumption | with_reducible apply originate_keeps | with_reducible apply Keeps.foldl
    | with_reducible apply KeepsOpt.getD | with_reducible apply KeepsOpt.of_some
    | simp only [Keeps.upd_iff, Keeps.upd_evc_iff, Keeps.upd_tbs_iff, Keeps.upd_both_iff] | split
    | with_reducible refine KeepsOpt.get (by assumption) ?_ | with_reducible refine KeepsPair.get (by assumption) ?_
    | dsimp only | intro _

theorem settleReserve_keeps {s0 s : State} {r : Reserving} (h : Keeps s0 s) :
    Keeps s0 (settleReserve r s) := by
  unfold settleReserve
  repeat' first
    | with_reducible assumption | with_reducible apply decide__keeps | with_reducible apply releaseStages_keeps
    | with_reducible apply refuse_keeps | with_reducible apply Keeps.foldl | with_reducible apply KeepsOpt.getD
    | with_reducible apply KeepsOpt.of_some | simp only [Keeps.upd_iff] | split

theorem replyIn_keeps {s0 s : State} {p : Packet} (h : Keeps s0 s) :
    Keeps s0 (replyIn p s) := by
  unfold replyIn
  repeat' first
    | with_reducible assumption | with_reducible apply settleReserve_keeps | with_reducible apply Keeps.foldl
    | with_reducible apply KeepsOpt.getD | with_reducible apply KeepsOpt.of_some | simp only [Keeps.upd_iff] | split

theorem execReserveReply_keeps {s0 s : State} {n : Port} {p : Packet} (h : Keeps s0 s) :
    KeepsOut s0 (execReserveReply n p s) := by
  unfold execReserveReply
  repeat' first
    | with_reducible assumption | with_reducible apply live_keeps | with_reducible apply replyIn_keeps
    | with_reducible apply receiveCtrl_keeps | with_reducible apply KeepsOut.next | with_reducible apply Keeps.foldl
    | simp only [Keeps.upd_iff, Keeps.upd_evc_iff, Keeps.upd_tbs_iff, Keeps.upd_both_iff] | split
    | with_reducible refine KeepsOpt.get (by assumption) ?_ | with_reducible refine KeepsPair.get (by assumption) ?_
    | dsimp only | intro _

theorem releaseIn_keeps {s0 s : State} {p : Packet} (h : Keeps s0 s) :
    Keeps s0 (releaseIn p s) := by
  unfold releaseIn
  repeat' first
    | with_reducible assumption | with_reducible apply dropCtx_keeps | with_reducible apply trimPages_keeps
    | with_reducible apply Keeps.foldl | with_reducible apply KeepsOpt.getD | with_reducible apply KeepsOpt.of_some
    | dsimp only | split

theorem execRelease_keeps {s0 s : State} {n : Port} {p : Packet} (h : Keeps s0 s) :
    KeepsOut s0 (execRelease n p s) := by
  unfold execRelease
  repeat' first
    | with_reducible assumption | with_reducible apply releaseIn_keeps | with_reducible apply live_keeps
    | with_reducible apply receiveCtrl_keeps | with_reducible apply KeepsOut.next | with_reducible apply Keeps.foldl
    | simp only [Keeps.upd_iff, Keeps.upd_evc_iff, Keeps.upd_tbs_iff, Keeps.upd_both_iff] | split
    | with_reducible refine KeepsOpt.get (by assumption) ?_ | with_reducible refine KeepsPair.get (by assumption) ?_
    | dsimp only | intro _

theorem commitIn_keeps {s0 s : State} {p : Packet} (h : Keeps s0 s) :
    Keeps s0 (commitIn p s) := by
  unfold commitIn
  repeat' first
    | with_reducible assumption | with_reducible apply setCtx_keeps

theorem execCommit_keeps {s0 s : State} {n : Port} {p : Packet} (h : Keeps s0 s) :
    KeepsOut s0 (execCommit n p s) := by
  unfold execCommit
  repeat' first
    | with_reducible assumption | with_reducible apply live_keeps | with_reducible apply receiveCtrl_keeps
    | with_reducible apply commitIn_keeps | with_reducible apply KeepsOut.next | with_reducible apply Keeps.foldl
    | simp only [Keeps.upd_iff, Keeps.upd_evc_iff, Keeps.upd_tbs_iff, Keeps.upd_both_iff] | split
    | with_reducible refine KeepsOpt.get (by assumption) ?_ | with_reducible refine KeepsPair.get (by assumption) ?_
    | dsimp only | intro _

theorem rollbackIn_keeps {s0 s : State} {p : Packet} (h : Keeps s0 s) :
    Keeps s0 (rollbackIn p s) := by
  unfold rollbackIn
  repeat' first
    | with_reducible assumption | with_reducible apply endPass_keeps | with_reducible apply Keeps.foldl
    | with_reducible apply KeepsOpt.getD | with_reducible apply KeepsOpt.of_some | simp only [Keeps.upd_iff] | split

theorem execRollback_keeps {s0 s : State} {n : Port} {p : Packet} (h : Keeps s0 s) :
    KeepsOut s0 (execRollback n p s) := by
  unfold execRollback
  repeat' first
    | with_reducible assumption | with_reducible apply rollbackIn_keeps | with_reducible apply live_keeps
    | with_reducible apply receiveCtrl_keeps | with_reducible apply KeepsOut.next | with_reducible apply Keeps.foldl
    | simp only [Keeps.upd_iff, Keeps.upd_evc_iff, Keeps.upd_tbs_iff, Keeps.upd_both_iff] | split
    | with_reducible refine KeepsOpt.get (by assumption) ?_ | with_reducible refine KeepsPair.get (by assumption) ?_
    | dsimp only | intro _

theorem stageDoneIn_keeps {s0 s : State} {p : Packet} (h : Keeps s0 s) :
    Keeps s0 (stageDoneIn p s) := by
  unfold stageDoneIn
  repeat' first
    | with_reducible assumption | with_reducible apply Keeps.foldl | with_reducible apply KeepsOpt.getD
    | with_reducible apply KeepsOpt.of_some | simp only [Keeps.upd_iff] | split

theorem execStageDone_keeps {s0 s : State} {n : Port} {p : Packet} (h : Keeps s0 s) :
    KeepsOut s0 (execStageDone n p s) := by
  unfold execStageDone
  repeat' first
    | with_reducible assumption | with_reducible apply live_keeps | with_reducible apply receiveCtrl_keeps
    | with_reducible apply stageDoneIn_keeps | with_reducible apply KeepsOut.next | with_reducible apply Keeps.foldl
    | simp only [Keeps.upd_iff, Keeps.upd_evc_iff, Keeps.upd_tbs_iff, Keeps.upd_both_iff] | split
    | with_reducible refine KeepsOpt.get (by assumption) ?_ | with_reducible refine KeepsPair.get (by assumption) ?_
    | dsimp only | intro _

theorem faultIn_keeps {s0 s : State} {p : Packet} (h : Keeps s0 s) :
    Keeps s0 (faultIn p s) := by
  unfold faultIn
  repeat' first
    | with_reducible assumption | with_reducible apply abandonPass_keeps | with_reducible apply Keeps.foldl
    | with_reducible apply KeepsOpt.getD | with_reducible apply KeepsOpt.of_some | simp only [Keeps.upd_iff] | split

theorem execFault_keeps {s0 s : State} {n : Port} {p : Packet} (h : Keeps s0 s) :
    KeepsOut s0 (execFault n p s) := by
  unfold execFault
  repeat' first
    | with_reducible assumption | with_reducible apply faultIn_keeps | with_reducible apply live_keeps
    | with_reducible apply receiveCtrl_keeps | with_reducible apply KeepsOut.next | with_reducible apply Keeps.foldl
    | simp only [Keeps.upd_iff, Keeps.upd_evc_iff, Keeps.upd_tbs_iff, Keeps.upd_both_iff] | split
    | with_reducible refine KeepsOpt.get (by assumption) ?_ | with_reducible refine KeepsPair.get (by assumption) ?_
    | dsimp only | intro _

theorem execDestroy_keeps {s0 s : State} {n : Port} {p : Packet} (h : Keeps s0 s) :
    KeepsOut s0 (execDestroy n p s) := by
  unfold execDestroy
  repeat' first
    | with_reducible assumption | with_reducible apply dropCtx_keeps | with_reducible apply live_keeps
    | with_reducible apply receiveCtrl_keeps | with_reducible apply KeepsOut.next | with_reducible apply Keeps.foldl
    | simp only [Keeps.upd_iff, Keeps.upd_evc_iff, Keeps.upd_tbs_iff, Keeps.upd_both_iff] | split
    | with_reducible refine KeepsOpt.get (by assumption) ?_ | with_reducible refine KeepsPair.get (by assumption) ?_
    | dsimp only | intro _

theorem ensReadEff_keeps {s0 s : State} {off : ℕ} (h : Keeps s0 s) :
    Keeps s0 (ensReadEff off s) := by
  unfold ensReadEff
  repeat' first
    | with_reducible assumption | with_reducible apply setPort_keeps | with_reducible apply Keeps.foldl
    | with_reducible apply KeepsOpt.getD | with_reducible apply KeepsOpt.of_some | simp only [Keeps.upd_iff] | split

theorem execEnsDbinLoRead_keeps {s0 s : State} (h : Keeps s0 s) :
    KeepsOut s0 (execEnsDbinLoRead s) := by
  unfold execEnsDbinLoRead
  repeat' first
    | with_reducible assumption | with_reducible apply ensReadEff_keeps | with_reducible apply live_keeps
    | with_reducible apply regRead_keeps | with_reducible apply KeepsOut.next | with_reducible apply Keeps.foldl
    | simp only [Keeps.upd_iff, Keeps.upd_evc_iff, Keeps.upd_tbs_iff, Keeps.upd_both_iff] | split
    | with_reducible refine KeepsOpt.get (by assumption) ?_ | with_reducible refine KeepsPair.get (by assumption) ?_
    | dsimp only | intro _

theorem ensWrite_keeps {s0 s : State} {off : ℕ} {v : Word} (h : Keeps s0 s) :
    KeepsOpt s0 (ensWrite off v s) := by
  unfold ensWrite
  repeat' first
    | with_reducible assumption | with_reducible apply writeEnsCtrl_keeps | with_reducible apply KeepsOpt.of_none
    | with_reducible apply KeepsOpt.of_some | with_reducible apply KeepsOpt.map | with_reducible apply KeepsOpt.orElse
    | with_reducible apply Keeps.foldl
    | simp only [Keeps.upd_iff, Keeps.upd_evc_iff, Keeps.upd_tbs_iff, Keeps.upd_both_iff] | split
    | with_reducible refine KeepsOpt.get (by assumption) ?_ | with_reducible refine KeepsPair.get (by assumption) ?_
    | dsimp only | intro _

theorem setTargets_keeps {s0 s : State} (h : Keeps s0 s) :
    Keeps s0 (setTargets s) := by
  unfold setTargets
  repeat' first
    | with_reducible assumption | with_reducible apply setIsl_keeps | with_reducible apply Keeps.foldl
    | with_reducible apply KeepsOpt.getD | with_reducible apply KeepsOpt.of_some | dsimp only | split
    | with_reducible refine KeepsOpt.get (by assumption) ?_ | with_reducible refine KeepsPair.get (by assumption) ?_
    | intro _

theorem loseMem_keeps {s0 s : State} {a : ℕ} {n : ℕ} (h : Keeps s0 s) :
    Keeps s0 (loseMem a n s) := by
  unfold loseMem
  repeat' first
    | with_reducible assumption | with_reducible apply Keeps.foldl | with_reducible apply KeepsOpt.getD
    | with_reducible apply KeepsOpt.of_some
    | exact ⟨fun w => Memory.wf_filter (h.mem w), h.fuses, h.pending, h.counts, h.now⟩

theorem loseVoice_keeps {s0 s : State} {n : Voice} (h : Keeps s0 s) :
    Keeps s0 (loseVoice n s) := by
  unfold loseVoice
  repeat' first
    | with_reducible assumption | with_reducible apply setVoice_keeps

theorem loseContents_keeps {s0 s : State} {i : Island} (h : Keeps s0 s) :
    Keeps s0 (loseContents i s) := by
  unfold loseContents
  repeat' first
    | with_reducible assumption | with_reducible apply loseVoice_keeps | with_reducible apply loseMem_keeps
    | with_reducible apply Keeps.foldl | with_reducible apply KeepsOpt.getD | with_reducible apply KeepsOpt.of_some
    | simp only [Keeps.upd_iff, Keeps.upd_evc_iff, Keeps.upd_tbs_iff, Keeps.upd_both_iff] | split

theorem stopIsland_keeps {s0 s : State} {i : Island} {st : IslSt} (h : Keeps s0 s) :
    Keeps s0 (stopIsland i st s) := by
  unfold stopIsland
  repeat' first
    | with_reducible assumption | with_reducible apply loseContents_keeps | with_reducible apply dropUnits_keeps
    | with_reducible apply setIsl_keeps | with_reducible apply Keeps.foldl | with_reducible apply KeepsOpt.getD
    | with_reducible apply KeepsOpt.of_some | dsimp only | split

theorem startIsland_keeps {s0 s : State} {i : Island} (h : Keeps s0 s) :
    Keeps s0 (startIsland i s) := by
  unfold startIsland
  repeat' first
    | with_reducible assumption | with_reducible apply setIsl_keeps

theorem islandGate_keeps {s0 s : State} {i : Island} {collapse : Bool} (h : Keeps s0 s) :
    Keeps s0 (islandGate i collapse s) := by
  unfold islandGate
  repeat' first
    | with_reducible assumption | with_reducible apply stopIsland_keeps | with_reducible apply Keeps.foldl
    | with_reducible apply KeepsOpt.getD | with_reducible apply KeepsOpt.of_some | dsimp only | split

theorem execIslandGate_keeps {s0 s : State} {i : Island} {c : Bool} (h : Keeps s0 s) :
    KeepsOut s0 (execIslandGate i c s) := by
  unfold execIslandGate
  repeat' first
    | with_reducible assumption | with_reducible apply islandGate_keeps | with_reducible apply live_keeps
    | with_reducible apply KeepsOut.next | with_reducible apply Keeps.foldl
    | simp only [Keeps.upd_iff, Keeps.upd_evc_iff, Keeps.upd_tbs_iff, Keeps.upd_both_iff] | split
    | with_reducible refine KeepsOpt.get (by assumption) ?_ | with_reducible refine KeepsPair.get (by assumption) ?_
    | dsimp only | intro _

theorem leaveSr_keeps {s0 s : State} {d : Fin 2} (h : Keeps s0 s) :
    Keeps s0 (leaveSr d s) := by
  unfold leaveSr
  repeat' first
    | with_reducible assumption | with_reducible apply setDmc_keeps

theorem endDoze_keeps {s0 s : State} (h : Keeps s0 s) :
    Keeps s0 (endDoze s) := by
  unfold endDoze
  repeat' first
    | with_reducible assumption | with_reducible apply leaveSr_keeps | with_reducible apply Keeps.foldl
    | with_reducible apply KeepsOpt.getD | with_reducible apply KeepsOpt.of_some | simp only [Keeps.upd_iff] | split

theorem islandsPos_keeps {s0 s : State} {i : Island} (h : Keeps s0 s) :
    Keeps s0 (islandsPos i s) := by
  unfold islandsPos
  repeat' first
    | with_reducible assumption | with_reducible apply Keeps.foldl | with_reducible apply KeepsOpt.getD
    | with_reducible apply KeepsOpt.of_some | simp only [Keeps.upd_iff] | split

theorem actOn_keeps {s0 s : State} {off : ℕ} {v : Word} (h : Keeps s0 s) :
    Keeps s0 (actOn off v s) := by
  unfold actOn
  repeat' first
    | with_reducible assumption | with_reducible apply writeVibCtrl_keeps | with_reducible apply writePrzCtrl_keeps
    | with_reducible apply writeAptCtrl_keeps | with_reducible apply retrainPorts_keeps
    | with_reducible apply cntCtrl_keeps | with_reducible apply writeVibUnlock_keeps
    | with_reducible apply writeRequal_keeps | with_reducible apply Keeps.foldl | with_reducible apply KeepsOpt.getD
    | with_reducible apply KeepsOpt.of_some
    | simp only [Keeps.upd_iff, Keeps.upd_evc_iff, Keeps.upd_tbs_iff, Keeps.upd_both_iff] | split

theorem runActs_keeps {s0 s : State} {i : Island} (h : Keeps s0 s) :
    Keeps s0 (runActs i s) := by
  unfold runActs
  repeat' first
    | with_reducible assumption | with_reducible apply actOn_keeps | with_reducible apply Keeps.foldl
    | with_reducible apply KeepsOpt.getD | with_reducible apply KeepsOpt.of_some | simp only [Keeps.upd_iff] | split
    | with_reducible refine KeepsOpt.get (by assumption) ?_ | with_reducible refine KeepsPair.get (by assumption) ?_
    | dsimp only | intro _

theorem wakeIsland_keeps {s0 s : State} {i : Island} (h : Keeps s0 s) :
    Keeps s0 (wakeIsland i s) := by
  unfold wakeIsland
  repeat' first
    | with_reducible assumption | with_reducible apply islandsPos_keeps | with_reducible apply loseContents_keeps
    | with_reducible apply endDoze_keeps | with_reducible apply startIsland_keeps | with_reducible apply runActs_keeps
    | with_reducible apply leaveSr_keeps | with_reducible apply settlePorts_keeps | with_reducible apply Keeps.foldl
    | with_reducible apply KeepsOpt.getD | with_reducible apply KeepsOpt.of_some | dsimp only | split

theorem wakeGated_keeps {s0 s : State} {i : Island} (h : Keeps s0 s) :
    Keeps s0 (wakeGated i s) := by
  unfold wakeGated
  repeat' first
    | with_reducible assumption | with_reducible apply wakeIsland_keeps | with_reducible apply request_keeps
    | with_reducible apply Keeps.foldl | with_reducible apply KeepsOpt.getD | with_reducible apply KeepsOpt.of_some
    | simp only [Keeps.upd_iff, Keeps.upd_evc_iff, Keeps.upd_tbs_iff, Keeps.upd_both_iff] | split

theorem rampUp_keeps {s0 s : State} {i : Island} (h : Keeps s0 s) :
    Keeps s0 (rampUp i s) := by
  unfold rampUp
  repeat' first
    | with_reducible assumption | with_reducible apply setIsl_keeps

theorem islandWake_keeps {s0 s : State} {i : Island} (h : Keeps s0 s) :
    Keeps s0 (islandWake i s) := by
  unfold islandWake
  repeat' first
    | with_reducible assumption | with_reducible apply withBurst_keeps | with_reducible apply wakeIsland_keeps
    | with_reducible apply rampUp_keeps | with_reducible apply withLease_keeps | with_reducible apply wakeGated_keeps
    | with_reducible apply Keeps.foldl | with_reducible apply KeepsOpt.getD | with_reducible apply KeepsOpt.of_some
    | dsimp only | split | with_reducible refine KeepsOpt.get (by assumption) ?_
    | with_reducible refine KeepsPair.get (by assumption) ?_ | intro _

theorem execIslandWakeComplete_keeps {s0 s : State} {i : Island} (h : Keeps s0 s) :
    KeepsOut s0 (execIslandWakeComplete i s) := by
  unfold execIslandWakeComplete
  repeat' first
    | with_reducible assumption | with_reducible apply standingChange_keeps | with_reducible apply live_keeps
    | with_reducible apply islandWake_keeps | with_reducible apply KeepsOut.next | with_reducible apply Keeps.foldl
    | simp only [Keeps.upd_iff, Keeps.upd_evc_iff, Keeps.upd_tbs_iff, Keeps.upd_both_iff] | split
    | with_reducible refine KeepsOpt.get (by assumption) ?_ | with_reducible refine KeepsPair.get (by assumption) ?_
    | dsimp only | intro _

theorem faultEffect_keeps {s0 s : State} {i : Island} (h : Keeps s0 s) :
    Keeps s0 (faultEffect i s) := by
  unfold faultEffect
  repeat' first
    | with_reducible assumption | with_reducible apply enterMute_keeps | with_reducible apply stopPairs_keeps
    | with_reducible apply failService_keeps | with_reducible apply losePeers_keeps | with_reducible apply Keeps.foldl
    | with_reducible apply KeepsOpt.getD | with_reducible apply KeepsOpt.of_some | dsimp only | split
    | with_reducible refine KeepsOpt.get (by assumption) ?_ | with_reducible refine KeepsPair.get (by assumption) ?_
    | intro _

theorem faultOne_keeps {s0 s : State} {i : Island} {kind : ℕ} (h : Keeps s0 s) :
    Keeps s0 (faultOne i kind s) := by
  unfold faultOne
  repeat' first
    | with_reducible assumption | with_reducible apply logErr_keeps | with_reducible apply faultEffect_keeps
    | with_reducible apply occur_keeps | with_reducible apply stopIsland_keeps | with_reducible apply setIsl_keeps
    | with_reducible apply Keeps.foldl | with_reducible apply KeepsOpt.getD | with_reducible apply KeepsOpt.of_some
    | simp only [Keeps.upd_iff]

theorem clockFault_keeps {s0 s : State} {i : Island} {kind : ℕ} (h : Keeps s0 s) :
    Keeps s0 (clockFault i kind s) := by
  unfold clockFault
  repeat' first
    | with_reducible assumption | with_reducible apply faultOne_keeps | with_reducible apply Keeps.foldl
    | with_reducible apply KeepsOpt.getD | with_reducible apply KeepsOpt.of_some
    | simp only [Keeps.upd_iff, Keeps.upd_evc_iff, Keeps.upd_tbs_iff, Keeps.upd_both_iff] | split

theorem requalWindow_keeps {s0 s : State} {i : Island} {left : ℕ} {kind : ℕ} (h : Keeps s0 s) :
    Keeps s0 (requalWindow i left kind s) := by
  unfold requalWindow
  repeat' first
    | with_reducible assumption | with_reducible apply stopIsland_keeps | with_reducible apply clockFault_keeps
    | with_reducible apply setIsl_keeps | with_reducible apply Keeps.foldl | with_reducible apply KeepsOpt.getD
    | with_reducible apply KeepsOpt.of_some | simp only [Keeps.upd_iff] | split

theorem windowOf_keeps {s0 s : State} {i : Island} {count : ℕ} {skip : Bool} (h : Keeps s0 s) :
    Keeps s0 (windowOf i count skip s) := by
  unfold windowOf
  repeat' first
    | with_reducible assumption | with_reducible apply clockFault_keeps | with_reducible apply setIsl_keeps
    | with_reducible apply requalWindow_keeps | with_reducible apply Keeps.foldl | with_reducible apply KeepsOpt.getD
    | with_reducible apply KeepsOpt.of_some | dsimp only | split

theorem monitorWindow_keeps {s0 s : State} {counts : List ℕ} (h : Keeps s0 s) :
    Keeps s0 (monitorWindow counts s) := by
  unfold monitorWindow
  repeat' first
    | with_reducible assumption | with_reducible apply windowOf_keeps | with_reducible apply Keeps.foldl
    | with_reducible apply KeepsOpt.getD | with_reducible apply KeepsOpt.of_some | simp only [Keeps.upd_iff] | split
    | with_reducible refine KeepsOpt.get (by assumption) ?_ | with_reducible refine KeepsPair.get (by assumption) ?_
    | dsimp only | intro _

theorem execClockMonitorWindow_keeps {s0 s : State} {counts : List ℕ} (h : Keeps s0 s) :
    KeepsOut s0 (execClockMonitorWindow counts s) := by
  unfold execClockMonitorWindow
  repeat' first
    | with_reducible assumption | with_reducible apply live_keeps | with_reducible apply monitorWindow_keeps
    | with_reducible apply KeepsOut.next | with_reducible apply Keeps.foldl
    | simp only [Keeps.upd_iff, Keeps.upd_evc_iff, Keeps.upd_tbs_iff, Keeps.upd_both_iff] | split
    | with_reducible refine KeepsOpt.get (by assumption) ?_ | with_reducible refine KeepsPair.get (by assumption) ?_
    | dsimp only | intro _

theorem refLoss_keeps {s0 s : State} {kind : ℕ} (h : Keeps s0 s) :
    Keeps s0 (refLoss kind s) := by
  unfold refLoss
  repeat' first
    | with_reducible assumption | with_reducible apply occur_keeps | with_reducible apply stopIsland_keeps
    | with_reducible apply setIsl_keeps | with_reducible apply Keeps.foldl | with_reducible apply KeepsOpt.getD
    | with_reducible apply KeepsOpt.of_some | simp only [Keeps.upd_evc_iff, Keeps.upd_tbs_iff] | split
    | with_reducible refine KeepsOpt.get (by assumption) ?_ | with_reducible refine KeepsPair.get (by assumption) ?_
    | dsimp only | intro _

theorem execRefclk38Loss_keeps {s0 s : State} (h : Keeps s0 s) :
    KeepsOut s0 (execRefclk38Loss s) := by
  unfold execRefclk38Loss
  repeat' first
    | with_reducible assumption | with_reducible apply refLoss_keeps | with_reducible apply live_keeps
    | with_reducible apply KeepsOut.next | with_reducible apply Keeps.foldl
    | simp only [Keeps.upd_iff, Keeps.upd_evc_iff, Keeps.upd_tbs_iff, Keeps.upd_both_iff] | split
    | with_reducible refine KeepsOpt.get (by assumption) ?_ | with_reducible refine KeepsPair.get (by assumption) ?_
    | dsimp only | intro _

theorem aonCheck_keeps {s0 s : State} {count : ℕ} (h : Keeps s0 s) :
    Keeps s0 (aonCheck count s) := by
  unfold aonCheck
  repeat' first
    | with_reducible assumption | with_reducible apply refLoss_keeps | with_reducible apply Keeps.foldl
    | with_reducible apply KeepsOpt.getD | with_reducible apply KeepsOpt.of_some | simp only [Keeps.upd_iff] | split

theorem execAonClockCheckWindow_keeps {s0 s : State} {count : ℕ} (h : Keeps s0 s) :
    KeepsOut s0 (execAonClockCheckWindow count s) := by
  unfold execAonClockCheckWindow
  repeat' first
    | with_reducible assumption | with_reducible apply aonCheck_keeps | with_reducible apply live_keeps
    | with_reducible apply KeepsOut.next | with_reducible apply Keeps.foldl
    | simp only [Keeps.upd_iff, Keeps.upd_evc_iff, Keeps.upd_tbs_iff, Keeps.upd_both_iff] | split
    | with_reducible refine KeepsOpt.get (by assumption) ?_ | with_reducible refine KeepsPair.get (by assumption) ?_
    | dsimp only | intro _

theorem faultBit_keeps {s0 s : State} {i : ℕ} (h : Keeps s0 s) :
    Keeps s0 (faultBit i s) := by
  unfold faultBit
  repeat' first
    | with_reducible assumption | with_reducible apply setIsl_keeps | with_reducible apply Keeps.foldl
    | with_reducible apply KeepsOpt.getD | with_reducible apply KeepsOpt.of_some | simp only [Keeps.upd_iff] | split

theorem writeIslFault_keeps {s0 s : State} {v : Word} (h : Keeps s0 s) :
    Keeps s0 (writeIslFault v s) := by
  unfold writeIslFault
  repeat' first
    | with_reducible assumption | with_reducible apply faultBit_keeps | with_reducible apply Keeps.foldl
    | with_reducible apply KeepsOpt.getD | with_reducible apply KeepsOpt.of_some
    | simp only [Keeps.upd_iff, Keeps.upd_evc_iff, Keeps.upd_tbs_iff, Keeps.upd_both_iff] | split
    | with_reducible refine KeepsOpt.get (by assumption) ?_ | with_reducible refine KeepsPair.get (by assumption) ?_
    | dsimp only | intro _

theorem execIslFaultWrite_keeps {s0 s : State} {v : Word} (h : Keeps s0 s) :
    KeepsOut s0 (execIslFaultWrite v s) := by
  unfold execIslFaultWrite
  repeat' first
    | with_reducible assumption | with_reducible apply regWrite_keeps | with_reducible apply live_keeps
    | with_reducible apply writeIslFault_keeps | with_reducible apply KeepsOut.next | with_reducible apply Keeps.foldl
    | simp only [Keeps.upd_iff, Keeps.upd_evc_iff, Keeps.upd_tbs_iff, Keeps.upd_both_iff] | split
    | with_reducible refine KeepsOpt.get (by assumption) ?_ | with_reducible refine KeepsPair.get (by assumption) ?_
    | dsimp only | intro _

theorem writeSpread_keeps {s0 s : State} {v : Word} (h : Keeps s0 s) :
    Keeps s0 (writeSpread v s) := by
  unfold writeSpread
  repeat' first
    | with_reducible assumption | with_reducible apply Keeps.foldl | with_reducible apply KeepsOpt.getD
    | with_reducible apply KeepsOpt.of_some | simp only [Keeps.upd_iff]

theorem islWrite_keeps {s0 s : State} {off : ℕ} {v : Word} (h : Keeps s0 s) :
    KeepsOpt s0 (islWrite off v s) := by
  unfold islWrite
  repeat' first
    | with_reducible assumption | with_reducible apply writeSpread_keeps | with_reducible apply writeIslFault_keeps
    | with_reducible apply KeepsOpt.of_none | with_reducible apply KeepsOpt.of_some
    | with_reducible apply KeepsOpt.map | with_reducible apply KeepsOpt.orElse | with_reducible apply Keeps.foldl
    | simp only [Keeps.upd_iff] | split | with_reducible refine KeepsOpt.get (by assumption) ?_
    | with_reducible refine KeepsPair.get (by assumption) ?_ | dsimp only | intro _

theorem setPwr_keeps {s0 s : State} {f : Pwr → Pwr} (h : Keeps s0 s) :
    Keeps s0 (setPwr f s) := by
  unfold setPwr
  repeat' first
    | with_reducible assumption | with_reducible apply Keeps.foldl | with_reducible apply KeepsOpt.getD
    | with_reducible apply KeepsOpt.of_some | simp only [Keeps.upd_iff]

theorem moveClocks_keeps {s0 s : State} {pt : ℕ} (h : Keeps s0 s) :
    Keeps s0 (moveClocks pt s) := by
  unfold moveClocks
  repeat' first
    | with_reducible assumption | with_reducible apply setTargets_keeps | with_reducible apply setPwr_keeps
    | with_reducible apply Keeps.foldl | with_reducible apply KeepsOpt.getD | with_reducible apply KeepsOpt.of_some
    | simp only [Keeps.upd_iff]

theorem startChange_keeps {s0 s : State} {pt : ℕ} (h : Keeps s0 s) :
    Keeps s0 (startChange pt s) := by
  unfold startChange
  repeat' first
    | with_reducible assumption | with_reducible apply send_keeps | with_reducible apply shedArrays_keeps
    | with_reducible apply moveClocks_keeps | with_reducible apply setPwr_keeps | with_reducible apply Keeps.foldl
    | with_reducible apply KeepsOpt.getD | with_reducible apply KeepsOpt.of_some
    | simp only [Keeps.upd_iff, Keeps.upd_evc_iff, Keeps.upd_tbs_iff, Keeps.upd_both_iff] | split

theorem seekPoint_keeps {s0 s : State} (h : Keeps s0 s) :
    Keeps s0 (seekPoint s) := by
  unfold seekPoint
  repeat' first
    | with_reducible assumption | with_reducible apply startChange_keeps | with_reducible apply Keeps.foldl
    | with_reducible apply KeepsOpt.getD | with_reducible apply KeepsOpt.of_some | dsimp only | split

theorem avsEnd_keeps {s0 s : State} {ok : Bool} (h : Keeps s0 s) :
    Keeps s0 (avsEnd ok s) := by
  unfold avsEnd
  repeat' first
    | with_reducible assumption | with_reducible apply seekPoint_keeps | with_reducible apply setPwr_keeps
    | with_reducible apply Keeps.foldl | with_reducible apply KeepsOpt.getD | with_reducible apply KeepsOpt.of_some
    | dsimp only | split

theorem execAvsTransactionEnd_keeps {s0 s : State} {ok : Bool} (h : Keeps s0 s) :
    KeepsOut s0 (execAvsTransactionEnd ok s) := by
  unfold execAvsTransactionEnd
  repeat' first
    | with_reducible assumption | with_reducible apply standingChange_keeps | with_reducible apply live_keeps
    | with_reducible apply avsEnd_keeps | with_reducible apply KeepsOut.next | with_reducible apply Keeps.foldl
    | simp only [Keeps.upd_iff, Keeps.upd_evc_iff, Keeps.upd_tbs_iff, Keeps.upd_both_iff] | split
    | with_reducible refine KeepsOpt.get (by assumption) ?_ | with_reducible refine KeepsPair.get (by assumption) ?_
    | dsimp only | intro _

theorem settleExpiry_keeps {s0 s : State} (h : Keeps s0 s) :
    Keeps s0 (settleExpiry s) := by
  unfold settleExpiry
  repeat' first
    | with_reducible assumption | with_reducible apply moveClocks_keeps | with_reducible apply seekPoint_keeps
    | with_reducible apply setPwr_keeps | with_reducible apply Keeps.foldl | with_reducible apply KeepsOpt.getD
    | with_reducible apply KeepsOpt.of_some | dsimp only | split

theorem execAvsSettleExpiry_keeps {s0 s : State} (h : Keeps s0 s) :
    KeepsOut s0 (execAvsSettleExpiry s) := by
  unfold execAvsSettleExpiry
  repeat' first
    | with_reducible assumption | with_reducible apply settleExpiry_keeps | with_reducible apply standingChange_keeps
    | with_reducible apply live_keeps | with_reducible apply KeepsOut.next | with_reducible apply Keeps.foldl
    | simp only [Keeps.upd_iff, Keeps.upd_evc_iff, Keeps.upd_tbs_iff, Keeps.upd_both_iff] | split
    | with_reducible refine KeepsOpt.get (by assumption) ?_ | with_reducible refine KeepsPair.get (by assumption) ?_
    | dsimp only | intro _

theorem writeOppoint_keeps {s0 s : State} {v : Word} (h : Keeps s0 s) :
    Keeps s0 (writeOppoint v s) := by
  unfold writeOppoint
  repeat' first
    | with_reducible assumption | with_reducible apply seekPoint_keeps | with_reducible apply setPwr_keeps

theorem execGlbOppointWrite_keeps {s0 s : State} {v : Word} (h : Keeps s0 s) :
    KeepsOut s0 (execGlbOppointWrite v s) := by
  unfold execGlbOppointWrite
  repeat' first
    | with_reducible assumption | with_reducible apply regWrite_keeps | with_reducible apply standingChange_keeps
    | with_reducible apply writeOppoint_keeps | with_reducible apply live_keeps | with_reducible apply KeepsOut.next
    | with_reducible apply Keeps.foldl
    | simp only [Keeps.upd_iff, Keeps.upd_evc_iff, Keeps.upd_tbs_iff, Keeps.upd_both_iff] | split
    | with_reducible refine KeepsOpt.get (by assumption) ?_ | with_reducible refine KeepsPair.get (by assumption) ?_
    | dsimp only | intro _

theorem thermalSample_keeps {s0 s : State} {ts : List ℤ} (h : Keeps s0 s) :
    Keeps s0 (thermalSample ts s) := by
  unfold thermalSample
  repeat' first
    | with_reducible assumption | with_reducible apply report_keeps | with_reducible apply syncHolds_keeps
    | with_reducible apply preloadAll_keeps | with_reducible apply seekPoint_keeps | with_reducible apply setPwr_keeps
    | with_reducible apply Keeps.foldl | with_reducible apply KeepsOpt.getD | with_reducible apply KeepsOpt.of_some
    | dsimp only | split

theorem execThermalSample_keeps {s0 s : State} {ts : List ℤ} (h : Keeps s0 s) :
    KeepsOut s0 (execThermalSample ts s) := by
  unfold execThermalSample
  repeat' first
    | with_reducible assumption | with_reducible apply standingChange_keeps | with_reducible apply live_keeps
    | with_reducible apply thermalSample_keeps | with_reducible apply KeepsOut.next | with_reducible apply Keeps.foldl
    | simp only [Keeps.upd_iff, Keeps.upd_evc_iff, Keeps.upd_tbs_iff, Keeps.upd_both_iff] | split
    | with_reducible refine KeepsOpt.get (by assumption) ?_ | with_reducible refine KeepsPair.get (by assumption) ?_
    | dsimp only | intro _

theorem dozeEntry_keeps {s0 s : State} (h : Keeps s0 s) :
    Keeps s0 (dozeEntry s) := by
  unfold dozeEntry
  repeat' first
    | with_reducible assumption | with_reducible apply stopIsland_keeps | with_reducible apply setPwr_keeps
    | with_reducible apply enterSelfRefresh_keeps | with_reducible apply Keeps.foldl
    | with_reducible apply KeepsOpt.getD | with_reducible apply KeepsOpt.of_some | dsimp only | split
    | with_reducible refine KeepsOpt.get (by assumption) ?_ | with_reducible refine KeepsPair.get (by assumption) ?_
    | intro _

theorem execDozeEntry_keeps {s0 s : State} (h : Keeps s0 s) :
    KeepsOut s0 (execDozeEntry s) := by
  unfold execDozeEntry
  repeat' first
    | with_reducible assumption | with_reducible apply standingChange_keeps | with_reducible apply live_keeps
    | with_reducible apply dozeEntry_keeps | with_reducible apply KeepsOut.next | with_reducible apply Keeps.foldl
    | simp only [Keeps.upd_iff, Keeps.upd_evc_iff, Keeps.upd_tbs_iff, Keeps.upd_both_iff] | split
    | with_reducible refine KeepsOpt.get (by assumption) ?_ | with_reducible refine KeepsPair.get (by assumption) ?_
    | dsimp only | intro _

theorem endHolds_keeps {s0 s : State} (h : Keeps s0 s) :
    Keeps s0 (endHolds s) := by
  unfold endHolds
  repeat' first
    | with_reducible assumption | with_reducible apply Keeps.foldl | with_reducible apply KeepsOpt.getD
    | with_reducible apply KeepsOpt.of_some | simp only [Keeps.upd_iff]

theorem enterRest_keeps {s0 s : State} (h : Keeps s0 s) :
    Keeps s0 (enterRest s) := by
  unfold enterRest
  repeat' first
    | with_reducible assumption | with_reducible apply send_keeps | with_reducible apply endHolds_keeps
    | with_reducible apply endRun_keeps | with_reducible apply stopIsland_keeps | with_reducible apply setPwr_keeps
    | with_reducible apply enterSelfRefresh_keeps | with_reducible apply dropUnits_keeps
    | with_reducible apply Keeps.foldl | with_reducible apply KeepsOpt.getD | with_reducible apply KeepsOpt.of_some
    | simp only [Keeps.upd_iff] | split | with_reducible refine KeepsOpt.get (by assumption) ?_
    | with_reducible refine KeepsPair.get (by assumption) ?_ | dsimp only | intro _

theorem wakeRest_keeps {s0 s : State} {src : ℕ} (h : Keeps s0 s) :
    Keeps s0 (wakeRest src s) := by
  unfold wakeRest
  repeat' first
    | with_reducible assumption | with_reducible apply assertWake_keeps | with_reducible apply setPwr_keeps
    | with_reducible apply Keeps.foldl | with_reducible apply KeepsOpt.getD | with_reducible apply KeepsOpt.of_some
    | simp only [Keeps.upd_iff] | split

theorem writePwrCtrl_keeps {s0 s : State} {v : Word} (h : Keeps s0 s) :
    Keeps s0 (writePwrCtrl v s) := by
  unfold writePwrCtrl
  repeat' first
    | with_reducible assumption | with_reducible apply regRefused_keeps | with_reducible apply wakeRest_keeps
    | with_reducible apply enterRest_keeps | with_reducible apply setPwr_keeps | with_reducible apply Keeps.foldl
    | with_reducible apply KeepsOpt.getD | with_reducible apply KeepsOpt.of_some | dsimp only | split

theorem execRestRequest_keeps {s0 s : State} {v : Word} (h : Keeps s0 s) :
    KeepsOut s0 (execRestRequest v s) := by
  unfold execRestRequest
  repeat' first
    | with_reducible assumption | with_reducible apply regWrite_keeps | with_reducible apply standingChange_keeps
    | with_reducible apply writePwrCtrl_keeps | with_reducible apply live_keeps | with_reducible apply KeepsOut.next
    | with_reducible apply Keeps.foldl
    | simp only [Keeps.upd_iff, Keeps.upd_evc_iff, Keeps.upd_tbs_iff, Keeps.upd_both_iff] | split
    | with_reducible refine KeepsOpt.get (by assumption) ?_ | with_reducible refine KeepsPair.get (by assumption) ?_
    | dsimp only | intro _

theorem execRestWakeRequest_keeps {s0 s : State} {v : Word} (h : Keeps s0 s) :
    KeepsOut s0 (execRestWakeRequest v s) := by
  unfold execRestWakeRequest
  repeat' first
    | with_reducible assumption | with_reducible apply regWrite_keeps | with_reducible apply standingChange_keeps
    | with_reducible apply writePwrCtrl_keeps | with_reducible apply live_keeps | with_reducible apply KeepsOut.next
    | with_reducible apply Keeps.foldl
    | simp only [Keeps.upd_iff, Keeps.upd_evc_iff, Keeps.upd_tbs_iff, Keeps.upd_both_iff] | split
    | with_reducible refine KeepsOpt.get (by assumption) ?_ | with_reducible refine KeepsPair.get (by assumption) ?_
    | dsimp only | intro _

theorem writeTail_keeps {s0 s : State} {p : Part} {v : Word} (h : Keeps s0 s) :
    Keeps s0 (writeTail p v s) := by
  unfold writeTail
  repeat' first
    | with_reducible assumption | with_reducible apply writeSqTail_keeps | with_reducible apply wakeRest_keeps
    | with_reducible apply askFetch_keeps

theorem execHifSqTailWrite_keeps {s0 s : State} {p : Part} {v : Word} (h : Keeps s0 s) :
    KeepsOut s0 (execHifSqTailWrite p v s) := by
  unfold execHifSqTailWrite
  repeat' first
    | with_reducible assumption | with_reducible apply regWrite_keeps | with_reducible apply standingChange_keeps
    | with_reducible apply live_keeps | with_reducible apply writeTail_keeps | with_reducible apply KeepsOut.next
    | with_reducible apply Keeps.foldl
    | simp only [Keeps.upd_iff, Keeps.upd_evc_iff, Keeps.upd_tbs_iff, Keeps.upd_both_iff] | split
    | with_reducible refine KeepsOpt.get (by assumption) ?_ | with_reducible refine KeepsPair.get (by assumption) ?_
    | dsimp only | intro _

theorem restWake_keeps {s0 s : State} {w : WakeEvent} (h : Keeps s0 s) :
    Keeps s0 (restWake w s) := by
  unfold restWake
  repeat' first
    | with_reducible assumption | with_reducible apply wakeRest_keeps | with_reducible apply Keeps.foldl
    | with_reducible apply KeepsOpt.getD | with_reducible apply KeepsOpt.of_some
    | simp only [Keeps.upd_iff, Keeps.upd_evc_iff, Keeps.upd_tbs_iff, Keeps.upd_both_iff] | split

theorem execRestWake_keeps {s0 s : State} {w : WakeEvent} (h : Keeps s0 s) :
    KeepsOut s0 (execRestWake w s) := by
  unfold execRestWake
  repeat' first
    | with_reducible assumption | with_reducible apply standingChange_keeps | with_reducible apply live_keeps
    | with_reducible apply restWake_keeps | with_reducible apply KeepsOut.next | with_reducible apply Keeps.foldl
    | simp only [Keeps.upd_iff, Keeps.upd_evc_iff, Keeps.upd_tbs_iff, Keeps.upd_both_iff] | split
    | with_reducible refine KeepsOpt.get (by assumption) ?_ | with_reducible refine KeepsPair.get (by assumption) ?_
    | dsimp only | intro _

theorem restExit_keeps {s0 s : State} (h : Keeps s0 s) :
    Keeps s0 (restExit s) := by
  unfold restExit
  repeat' first
    | with_reducible assumption | with_reducible apply setPwr_keeps | with_reducible apply Keeps.foldl
    | with_reducible apply KeepsOpt.getD | with_reducible apply KeepsOpt.of_some | dsimp only | split

theorem execRestExitComplete_keeps {s0 s : State} (h : Keeps s0 s) :
    KeepsOut s0 (execRestExitComplete s) := by
  unfold execRestExitComplete
  repeat' first
    | with_reducible assumption | with_reducible apply restExit_keeps | with_reducible apply standingChange_keeps
    | with_reducible apply live_keeps | with_reducible apply KeepsOut.next | with_reducible apply Keeps.foldl
    | simp only [Keeps.upd_iff, Keeps.upd_evc_iff, Keeps.upd_tbs_iff, Keeps.upd_both_iff] | split
    | with_reducible refine KeepsOpt.get (by assumption) ?_ | with_reducible refine KeepsPair.get (by assumption) ?_
    | dsimp only | intro _

theorem gpioChange_keeps {s0 s : State} {n : Fin 8} {level : Bool} (h : Keeps s0 s) :
    Keeps s0 (gpioChange n level s) := by
  unfold gpioChange
  repeat' first
    | with_reducible assumption | with_reducible apply wakeRest_keeps | with_reducible apply setPwr_keeps
    | with_reducible apply Keeps.foldl | with_reducible apply KeepsOpt.getD | with_reducible apply KeepsOpt.of_some
    | dsimp only | split

theorem execGpioChange_keeps {s0 s : State} {n : Fin 8} {level : Bool} (h : Keeps s0 s) :
    KeepsOut s0 (execGpioChange n level s) := by
  unfold execGpioChange
  repeat' first
    | with_reducible assumption | with_reducible apply standingChange_keeps | with_reducible apply gpioChange_keeps
    | with_reducible apply live_keeps | with_reducible apply KeepsOut.next | with_reducible apply Keeps.foldl
    | simp only [Keeps.upd_iff, Keeps.upd_evc_iff, Keeps.upd_tbs_iff, Keeps.upd_both_iff] | split
    | with_reducible refine KeepsOpt.get (by assumption) ?_ | with_reducible refine KeepsPair.get (by assumption) ?_
    | dsimp only | intro _

theorem setBsc_keeps {s0 s : State} {f : Bsc → Bsc} (h : Keeps s0 s) :
    Keeps s0 (setBsc f s) := by
  unfold setBsc
  repeat' first
    | with_reducible assumption | with_reducible apply Keeps.foldl | with_reducible apply KeepsOpt.getD
    | with_reducible apply KeepsOpt.of_some | simp only [Keeps.upd_iff]

theorem nextCopy_keeps {s0 s : State} (h : Keeps s0 s) :
    Keeps s0 (nextCopy s) := by
  unfold nextCopy
  repeat' first
    | with_reducible assumption | with_reducible apply setBsc_keeps | with_reducible apply enterMute_keeps
    | with_reducible apply enterStage_keeps | with_reducible apply Keeps.foldl | with_reducible apply KeepsOpt.getD
    | with_reducible apply KeepsOpt.of_some
    | simp only [Keeps.upd_iff, Keeps.upd_evc_iff, Keeps.upd_tbs_iff, Keeps.upd_both_iff] | split

theorem copyFails_keeps {s0 s : State} {reason : ℕ} (h : Keeps s0 s) :
    Keeps s0 (copyFails reason s) := by
  unfold copyFails
  repeat' first
    | with_reducible assumption | with_reducible apply setBsc_keeps | with_reducible apply nextCopy_keeps

theorem otpLoaded_keeps {s0 s : State} (h : Keeps s0 s) :
    Keeps s0 (otpLoaded s) := by
  unfold otpLoaded
  repeat' first
    | with_reducible assumption | with_reducible apply setBsc_keeps | with_reducible apply startIsland_keeps
    | with_reducible apply nextCopy_keeps | with_reducible apply Keeps.foldl | with_reducible apply KeepsOpt.getD
    | with_reducible apply KeepsOpt.of_some | simp only [Keeps.upd_iff] | split

theorem execOtpLoadComplete_keeps {s0 s : State} (h : Keeps s0 s) :
    KeepsOut s0 (execOtpLoadComplete s) := by
  unfold execOtpLoadComplete
  repeat' first
    | with_reducible assumption | with_reducible apply otpLoaded_keeps | with_reducible apply live_keeps

theorem scoreHeader_keeps {s0 s : State} {f : Sfdp} {h2 : List Byte} (h : Keeps s0 s) :
    Keeps s0 (scoreHeader f h2 s) := by
  unfold scoreHeader
  repeat' first
    | with_reducible assumption | with_reducible apply setBsc_keeps | with_reducible apply copyFails_keeps
    | with_reducible apply Keeps.foldl | with_reducible apply KeepsOpt.getD | with_reducible apply KeepsOpt.of_some
    | simp only [Keeps.upd_iff, Keeps.upd_evc_iff, Keeps.upd_tbs_iff, Keeps.upd_both_iff] | split

theorem execScoreHeaderRead_keeps {s0 s : State} {f : Sfdp} {h2 : List Byte} (h : Keeps s0 s) :
    KeepsOut s0 (execScoreHeaderRead f h2 s) := by
  unfold execScoreHeaderRead
  repeat' first
    | with_reducible assumption | with_reducible apply scoreHeader_keeps | with_reducible apply live_keeps
    | with_reducible apply KeepsOut.next | with_reducible apply Keeps.foldl
    | simp only [Keeps.upd_iff, Keeps.upd_evc_iff, Keeps.upd_tbs_iff, Keeps.upd_both_iff] | split
    | with_reducible refine KeepsOpt.get (by assumption) ?_ | with_reducible refine KeepsPair.get (by assumption) ?_
    | dsimp only | intro _

theorem copyRead_keeps {s0 s : State} {c : List Byte} (h : Keeps s0 s) :
    Keeps s0 (copyRead c s) := by
  unfold copyRead
  repeat' first
    | with_reducible assumption | with_reducible apply setBsc_keeps | with_reducible apply enterStage_keeps
    | with_reducible apply Keeps.foldl | with_reducible apply KeepsOpt.getD | with_reducible apply KeepsOpt.of_some
    | simp only [Keeps.upd_iff, Keeps.upd_evc_iff, Keeps.upd_tbs_iff, Keeps.upd_both_iff] | split

theorem execScoreCopyReadEnd_keeps {s0 s : State} {c : List Byte} (h : Keeps s0 s) :
    KeepsOut s0 (execScoreCopyReadEnd c s) := by
  unfold execScoreCopyReadEnd
  repeat' first
    | with_reducible assumption | with_reducible apply copyRead_keeps | with_reducible apply live_keeps
    | with_reducible apply KeepsOut.next | with_reducible apply Keeps.foldl
    | simp only [Keeps.upd_iff, Keeps.upd_evc_iff, Keeps.upd_tbs_iff, Keeps.upd_both_iff] | split
    | with_reducible refine KeepsOpt.get (by assumption) ?_ | with_reducible refine KeepsPair.get (by assumption) ?_
    | dsimp only | intro _

theorem applyBreath_keeps {s0 s : State} {c : Score} (h : Keeps s0 s) :
    Keeps s0 (applyBreath c s) := by
  unfold applyBreath
  repeat' first
    | with_reducible assumption | with_reducible apply Keeps.foldl | with_reducible apply KeepsOpt.getD
    | with_reducible apply KeepsOpt.of_some | simp only [Keeps.upd_iff]

theorem applyIslands_keeps {s0 s : State} {c : Score} (h : Keeps s0 s) :
    Keeps s0 (applyIslands c s) := by
  unfold applyIslands
  repeat' first
    | with_reducible assumption | with_reducible apply Keeps.foldl | with_reducible apply KeepsOpt.getD
    | with_reducible apply KeepsOpt.of_some | simp only [Keeps.upd_iff]

theorem applyEnsemble_keeps {s0 s : State} {c : Score} (h : Keeps s0 s) :
    Keeps s0 (applyEnsemble c s) := by
  unfold applyEnsemble
  repeat' first
    | with_reducible assumption | with_reducible apply Keeps.foldl | with_reducible apply KeepsOpt.getD
    | with_reducible apply KeepsOpt.of_some | simp only [Keeps.upd_evc_iff, Keeps.upd_tbs_iff] | split

theorem applyDram_keeps {s0 s : State} {c : Score} (h : Keeps s0 s) :
    Keeps s0 (applyDram c s) := by
  unfold applyDram
  repeat' first
    | with_reducible assumption | with_reducible apply Keeps.foldl | with_reducible apply KeepsOpt.getD
    | with_reducible apply KeepsOpt.of_some | simp only [Keeps.upd_iff]

theorem applyScore_keeps {s0 s : State} {c : Score} (h : Keeps s0 s) :
    Keeps s0 (applyScore c s) := by
  unfold applyScore
  repeat' first
    | with_reducible assumption | with_reducible apply islandsPos_keeps | with_reducible apply markStarved_keeps
    | with_reducible apply setBsc_keeps | with_reducible apply applyIslands_keeps
    | with_reducible apply seekPoint_keeps | with_reducible apply applyEnsemble_keeps
    | with_reducible apply applyEvents_keeps | with_reducible apply applyBreath_keeps
    | with_reducible apply setPwr_keeps | with_reducible apply applyDram_keeps | with_reducible apply enterStage_keeps
    | with_reducible apply Keeps.foldl | with_reducible apply KeepsOpt.getD | with_reducible apply KeepsOpt.of_some
    | simp only [Keeps.upd_iff]

theorem scoreVerified_keeps {s0 s : State} (h : Keeps s0 s) :
    Keeps s0 (scoreVerified s) := by
  unfold scoreVerified
  repeat' first
    | with_reducible assumption | with_reducible apply applyScore_keeps | with_reducible apply copyFails_keeps
    | with_reducible apply Keeps.foldl | with_reducible apply KeepsOpt.getD | with_reducible apply KeepsOpt.of_some
    | simp only [Keeps.upd_iff, Keeps.upd_evc_iff, Keeps.upd_tbs_iff, Keeps.upd_both_iff] | split

theorem execScoreVerifyEnd_keeps {s0 s : State} (h : Keeps s0 s) :
    KeepsOut s0 (execScoreVerifyEnd s) := by
  unfold execScoreVerifyEnd
  repeat' first
    | with_reducible assumption | with_reducible apply scoreVerified_keeps | with_reducible apply standingChange_keeps
    | with_reducible apply live_keeps | with_reducible apply KeepsOut.next | with_reducible apply Keeps.foldl
    | simp only [Keeps.upd_iff, Keeps.upd_evc_iff, Keeps.upd_tbs_iff, Keeps.upd_both_iff] | split
    | with_reducible refine KeepsOpt.get (by assumption) ?_ | with_reducible refine KeepsPair.get (by assumption) ?_
    | dsimp only | intro _

theorem trainPos_keeps {s0 s : State} (h : Keeps s0 s) :
    Keeps s0 (trainPos s) := by
  unfold trainPos
  repeat' first
    | with_reducible assumption | with_reducible apply setBsc_keeps

theorem beginAttempt_keeps {s0 s : State} {c : Chan} {n : ℕ} (h : Keeps s0 s) :
    Keeps s0 (beginAttempt c n s) := by
  unfold beginAttempt
  repeat' first
    | with_reducible assumption | with_reducible apply request_keeps | with_reducible apply setChan_keeps
    | with_reducible apply Keeps.foldl | with_reducible apply KeepsOpt.getD | with_reducible apply KeepsOpt.of_some
    | dsimp only | split

theorem islandsExit_keeps {s0 s : State} (h : Keeps s0 s) :
    Keeps s0 (islandsExit s) := by
  unfold islandsExit
  repeat' first
    | with_reducible assumption | with_reducible apply beginAttempt_keeps | with_reducible apply settlePorts_keeps
    | with_reducible apply trainPos_keeps | with_reducible apply enterStage_keeps | with_reducible apply Keeps.foldl
    | with_reducible apply KeepsOpt.getD | with_reducible apply KeepsOpt.of_some | simp only [Keeps.upd_iff] | split

theorem execIslandsExit_keeps {s0 s : State} (h : Keeps s0 s) :
    KeepsOut s0 (execIslandsExit s) := by
  unfold execIslandsExit
  repeat' first
    | with_reducible assumption | with_reducible apply standingChange_keeps | with_reducible apply islandsExit_keeps
    | with_reducible apply live_keeps | with_reducible apply KeepsOut.next | with_reducible apply Keeps.foldl
    | simp only [Keeps.upd_iff, Keeps.upd_evc_iff, Keeps.upd_tbs_iff, Keeps.upd_both_iff] | split
    | with_reducible refine KeepsOpt.get (by assumption) ?_ | with_reducible refine KeepsPair.get (by assumption) ?_
    | dsimp only | intro _

theorem joinChannel_keeps {s0 s : State} {c : Chan} (h : Keeps s0 s) :
    Keeps s0 (joinChannel c s) := by
  unfold joinChannel
  repeat' first
    | with_reducible assumption | with_reducible apply setBsc_keeps | with_reducible apply report_keeps
    | with_reducible apply beginAttempt_keeps | with_reducible apply endGrant_keeps
    | with_reducible apply startPreload_keeps | with_reducible apply setChan_keeps
    | with_reducible apply trainPos_keeps | with_reducible apply Keeps.foldl | with_reducible apply KeepsOpt.getD
    | with_reducible apply KeepsOpt.of_some | dsimp only | split

theorem attemptFails_keeps {s0 s : State} {c : Chan} {step : ℕ} (h : Keeps s0 s) :
    Keeps s0 (attemptFails c step s) := by
  unfold attemptFails
  repeat' first
    | with_reducible assumption | with_reducible apply logErr_keeps | with_reducible apply setBsc_keeps
    | with_reducible apply beginAttempt_keeps | with_reducible apply endGrant_keeps
    | with_reducible apply setChan_keeps | with_reducible apply trainPos_keeps | with_reducible apply Keeps.foldl
    | with_reducible apply KeepsOpt.getD | with_reducible apply KeepsOpt.of_some | dsimp only | split

theorem attemptEnd_keeps {s0 s : State} {c : Chan} {failedStep : Option (Fin 8)} {ms : ℕ} (h : Keeps s0 s) :
    Keeps s0 (attemptEnd c failedStep ms s) := by
  unfold attemptEnd
  repeat' first
    | with_reducible assumption | with_reducible apply setChan_keeps | with_reducible apply withLease_keeps
    | with_reducible apply joinChannel_keeps | with_reducible apply attemptFails_keeps
    | with_reducible apply Keeps.foldl | with_reducible apply KeepsOpt.getD | with_reducible apply KeepsOpt.of_some
    | dsimp only | split | with_reducible refine KeepsOpt.get (by assumption) ?_
    | with_reducible refine KeepsPair.get (by assumption) ?_ | intro _

theorem execChannelTrainAttemptEnd_keeps {s0 s : State} {c : Chan} {failedStep : Option (Fin 8)} {ms : ℕ}
    (h : Keeps s0 s) :
    KeepsOut s0 (execChannelTrainAttemptEnd c failedStep ms s) := by
  unfold execChannelTrainAttemptEnd
  repeat' first
    | with_reducible assumption | with_reducible apply standingChange_keeps | with_reducible apply attemptEnd_keeps
    | with_reducible apply live_keeps | with_reducible apply KeepsOut.next | with_reducible apply Keeps.foldl
    | simp only [Keeps.upd_iff, Keeps.upd_evc_iff, Keeps.upd_tbs_iff, Keeps.upd_both_iff] | split
    | with_reducible refine KeepsOpt.get (by assumption) ?_ | with_reducible refine KeepsPair.get (by assumption) ?_
    | dsimp only | intro _

theorem readStart_keeps {s0 s : State} {e : EarlyCfg} (h : Keeps s0 s) :
    Keeps s0 (readStart s e) := by
  unfold readStart
  repeat' first
    | with_reducible assumption | with_reducible apply countReads_keeps | with_reducible apply cwLost_keeps
    | with_reducible apply Keeps.foldl | with_reducible apply KeepsOpt.getD | with_reducible apply KeepsOpt.of_some
    | simp only [Keeps.upd_iff, Keeps.upd_evc_iff, Keeps.upd_tbs_iff, Keeps.upd_both_iff] | split
    | with_reducible refine KeepsOpt.get (by assumption) ?_ | with_reducible refine KeepsPair.get (by assumption) ?_
    | dsimp only | intro _

theorem earlyStart_keeps {s0 s : State} (h : Keeps s0 s) :
    Keeps s0 (earlyStart s) := by
  unfold earlyStart
  repeat' first
    | with_reducible assumption | with_reducible apply readStart_keeps | with_reducible apply earlyFailed_keeps
    | with_reducible apply stageChange_keeps | with_reducible apply withFlash_keeps | with_reducible apply Keeps.foldl
    | with_reducible apply KeepsOpt.getD | with_reducible apply KeepsOpt.of_some | simp only [Keeps.upd_iff] | split
    | with_reducible refine KeepsOpt.get (by assumption) ?_ | with_reducible refine KeepsPair.get (by assumption) ?_
    | dsimp only | intro _

theorem execEarlyServiceStart_keeps {s0 s : State} (h : Keeps s0 s) :
    KeepsOut s0 (execEarlyServiceStart s) := by
  unfold execEarlyServiceStart
  repeat' first
    | with_reducible assumption | with_reducible apply earlyStart_keeps | with_reducible apply live_keeps

theorem writeNor_keeps {s0 s : State} {copyB : Bool} {b : List Byte} (h : Keeps s0 s) :
    Keeps s0 (writeNor copyB b s) := by
  unfold writeNor
  repeat' first
    | with_reducible assumption | with_reducible apply send_keeps

theorem takeScore_keeps {s0 s : State} {id : ℕ} {b : List Byte} (h : Keeps s0 s) :
    Keeps s0 (takeScore id b s) := by
  unfold takeScore
  repeat' first
    | with_reducible assumption | with_reducible apply setBsc_keeps | with_reducible apply finish_keeps
    | with_reducible apply writeNor_keeps | with_reducible apply Keeps.foldl | with_reducible apply KeepsOpt.getD
    | with_reducible apply KeepsOpt.of_some | dsimp only | split

theorem scoreUpdateRow_keeps {s0 s : State} {c : Cmd} (h : Keeps s0 s) :
    Keeps s0 (scoreUpdateRow c s) := by
  unfold scoreUpdateRow
  repeat' first
    | with_reducible assumption | with_reducible apply runCmd_keeps | with_reducible apply setBsc_keeps
    | with_reducible apply want_keeps | with_reducible apply Keeps.foldl | with_reducible apply KeepsOpt.getD
    | with_reducible apply KeepsOpt.of_some | dsimp only | split

theorem execScoreUpdate_keeps {s0 s : State} {id : ℕ} (h : Keeps s0 s) :
    KeepsOut s0 (execScoreUpdate id s) := by
  unfold execScoreUpdate
  repeat' first
    | with_reducible assumption | with_reducible apply scoreUpdateRow_keeps | with_reducible apply atAdmission_keeps
    | with_reducible apply live_keeps | with_reducible apply KeepsOut.next | with_reducible apply Keeps.foldl
    | simp only [Keeps.upd_iff, Keeps.upd_evc_iff, Keeps.upd_tbs_iff, Keeps.upd_both_iff] | split
    | with_reducible refine KeepsOpt.get (by assumption) ?_ | with_reducible refine KeepsPair.get (by assumption) ?_
    | dsimp only | intro _

theorem copyWritten_keeps {s0 s : State} {back : List Byte} (h : Keeps s0 s) :
    Keeps s0 (copyWritten back s) := by
  unfold copyWritten
  repeat' first
    | with_reducible assumption | with_reducible apply setBsc_keeps | with_reducible apply finish_keeps
    | with_reducible apply writeNor_keeps | with_reducible apply failCmd_keeps | with_reducible apply Keeps.foldl
    | with_reducible apply KeepsOpt.getD | with_reducible apply KeepsOpt.of_some | dsimp only | split

theorem execScoreUpdateCopyWritten_keeps {s0 s : State} {back : List Byte} (h : Keeps s0 s) :
    KeepsOut s0 (execScoreUpdateCopyWritten back s) := by
  unfold execScoreUpdateCopyWritten
  repeat' first
    | with_reducible assumption | with_reducible apply copyWritten_keeps | with_reducible apply live_keeps
    | with_reducible apply KeepsOut.next | with_reducible apply Keeps.foldl
    | simp only [Keeps.upd_iff, Keeps.upd_evc_iff, Keeps.upd_tbs_iff, Keeps.upd_both_iff] | split
    | with_reducible refine KeepsOpt.get (by assumption) ?_ | with_reducible refine KeepsPair.get (by assumption) ?_
    | dsimp only | intro _

theorem bscSeen_keeps {s0 s : State} (h : Keeps s0 s) :
    Keeps s0 (bscSeen s) := by
  unfold bscSeen
  repeat' first
    | with_reducible assumption | with_reducible apply setBsc_keeps | with_reducible apply trainSeen_keeps
    | with_reducible apply Keeps.foldl | with_reducible apply KeepsOpt.getD | with_reducible apply KeepsOpt.of_some
    | simp only [Keeps.upd_iff] | split

theorem bscReadEff_keeps {s0 s : State} (h : Keeps s0 s) :
    Keeps s0 (bscReadEff s) := by
  unfold bscReadEff
  repeat' first
    | with_reducible assumption | with_reducible apply bscSeen_keeps

theorem bscWrite_keeps {s0 s : State} {off : ℕ} (h : Keeps s0 s) :
    KeepsOpt s0 (bscWrite off s) := by
  unfold bscWrite
  repeat' first
    | with_reducible assumption | with_reducible apply KeepsOpt.of_none | with_reducible apply KeepsOpt.of_some
    | with_reducible apply KeepsOpt.map | with_reducible apply KeepsOpt.orElse | with_reducible apply Keeps.foldl
    | simp only [Keeps.upd_iff, Keeps.upd_evc_iff, Keeps.upd_tbs_iff, Keeps.upd_both_iff] | split
    | with_reducible refine KeepsOpt.get (by assumption) ?_ | with_reducible refine KeepsPair.get (by assumption) ?_
    | dsimp only | intro _

theorem setLink_keeps {s0 s : State} {f : Link → Link} (h : Keeps s0 s) :
    Keeps s0 (setLink f s) := by
  unfold setLink
  repeat' first
    | with_reducible assumption | with_reducible apply Keeps.foldl | with_reducible apply KeepsOpt.getD
    | with_reducible apply KeepsOpt.of_some | simp only [Keeps.upd_iff]

theorem cfgWrite_keeps {s0 s : State} {off : ℕ} {v : Word} {be : BitVec 4} (h : Keeps s0 s) :
    Keeps s0 (cfgWrite off v be s) := by
  unfold cfgWrite
  repeat' first
    | with_reducible assumption | with_reducible apply syncHolds_keeps | with_reducible apply setLink_keeps

theorem configRequest_keeps {s0 s : State} {r : CfgReq} (h : Keeps s0 s) :
    Keeps s0 (configRequest r s) := by
  unfold configRequest
  repeat' first
    | with_reducible assumption | with_reducible apply send_keeps | with_reducible apply cfgWrite_keeps
    | with_reducible apply Keeps.foldl | with_reducible apply KeepsOpt.getD | with_reducible apply KeepsOpt.of_some
    | simp only [Keeps.upd_iff] | split

theorem execConfigRequest_keeps {s0 s : State} {r : CfgReq} (h : Keeps s0 s) :
    KeepsOut s0 (execConfigRequest r s) := by
  unfold execConfigRequest
  repeat' first
    | with_reducible assumption | with_reducible apply configRequest_keeps | with_reducible apply live_keeps
    | with_reducible apply KeepsOut.next | with_reducible apply Keeps.foldl
    | simp only [Keeps.upd_iff, Keeps.upd_evc_iff, Keeps.upd_tbs_iff, Keeps.upd_both_iff] | split
    | with_reducible refine KeepsOpt.get (by assumption) ?_ | with_reducible refine KeepsPair.get (by assumption) ?_
    | dsimp only | intro _

theorem linkUp_keeps {s0 s : State} {speed : ℕ} {width : ℕ} (h : Keeps s0 s) :
    Keeps s0 (linkUp speed width s) := by
  unfold linkUp
  repeat' first
    | with_reducible assumption | with_reducible apply setLink_keeps | with_reducible apply Keeps.foldl
    | with_reducible apply KeepsOpt.getD | with_reducible apply KeepsOpt.of_some | simp only [Keeps.upd_iff] | split

theorem execLinkUp_keeps {s0 s : State} {speed : ℕ} {width : ℕ} (h : Keeps s0 s) :
    KeepsOut s0 (execLinkUp speed width s) := by
  unfold execLinkUp
  repeat' first
    | with_reducible assumption | with_reducible apply live_keeps | with_reducible apply linkUp_keeps
    | with_reducible apply KeepsOut.next | with_reducible apply Keeps.foldl
    | simp only [Keeps.upd_iff, Keeps.upd_evc_iff, Keeps.upd_tbs_iff, Keeps.upd_both_iff] | split
    | with_reducible refine KeepsOpt.get (by assumption) ?_ | with_reducible refine KeepsPair.get (by assumption) ?_
    | dsimp only | intro _

theorem ltrMessage_keeps {s0 s : State} (h : Keeps s0 s) :
    Keeps s0 (ltrMessage s) := by
  unfold ltrMessage
  repeat' first
    | with_reducible assumption | with_reducible apply send_keeps | with_reducible apply setLink_keeps
    | with_reducible apply Keeps.foldl | with_reducible apply KeepsOpt.getD | with_reducible apply KeepsOpt.of_some
    | simp only [Keeps.upd_iff, Keeps.upd_evc_iff, Keeps.upd_tbs_iff, Keeps.upd_both_iff] | split

theorem execLtrMessage_keeps {s0 s : State} (h : Keeps s0 s) :
    KeepsOut s0 (execLtrMessage s) := by
  unfold execLtrMessage
  repeat' first
    | with_reducible assumption | with_reducible apply ltrMessage_keeps | with_reducible apply live_keeps

theorem msixHeldSend_keeps {s0 s : State} {v : Fin 2} (h : Keeps s0 s) :
    Keeps s0 (msixHeldSend v s) := by
  unfold msixHeldSend
  repeat' first
    | with_reducible assumption | with_reducible apply send_keeps | with_reducible apply setLink_keeps
    | with_reducible apply Keeps.foldl | with_reducible apply KeepsOpt.getD | with_reducible apply KeepsOpt.of_some
    | simp only [Keeps.upd_iff, Keeps.upd_evc_iff, Keeps.upd_tbs_iff, Keeps.upd_both_iff] | split

theorem execMsixHeldSend_keeps {s0 s : State} {v : Fin 2} (h : Keeps s0 s) :
    KeepsOut s0 (execMsixHeldSend v s) := by
  unfold execMsixHeldSend
  repeat' first
    | with_reducible assumption | with_reducible apply msixHeldSend_keeps | with_reducible apply live_keeps
    | with_reducible apply KeepsOut.next | with_reducible apply Keeps.foldl
    | simp only [Keeps.upd_iff, Keeps.upd_evc_iff, Keeps.upd_tbs_iff, Keeps.upd_both_iff] | split
    | with_reducible refine KeepsOpt.get (by assumption) ?_ | with_reducible refine KeepsPair.get (by assumption) ?_
    | dsimp only | intro _

theorem undoEvict_keeps {s0 s : State} {c : Cmd} (h : Keeps s0 s) :
    Keeps s0 (undoEvict c s) := by
  unfold undoEvict
  repeat' first
    | with_reducible assumption | with_reducible apply setModel_keeps | with_reducible apply Keeps.foldl
    | with_reducible apply KeepsOpt.getD | with_reducible apply KeepsOpt.of_some
    | simp only [Keeps.upd_iff, Keeps.upd_evc_iff, Keeps.upd_tbs_iff, Keeps.upd_both_iff] | split

theorem resetCmd_keeps {s0 s : State} {id : ℕ} (h : Keeps s0 s) :
    Keeps s0 (resetCmd id s) := by
  unfold resetCmd
  repeat' first
    | with_reducible assumption | with_reducible apply finish_keeps | with_reducible apply setCmd_keeps
    | with_reducible apply undoEvict_keeps | with_reducible apply swapReset_keeps
    | with_reducible apply abortCmd_keeps | with_reducible apply Keeps.foldl | with_reducible apply KeepsOpt.getD
    | with_reducible apply KeepsOpt.of_some | dsimp only | split

theorem dropDma_keeps {s0 s : State} (h : Keeps s0 s) :
    Keeps s0 (dropDma s) := by
  unfold dropDma
  repeat' first
    | with_reducible assumption | with_reducible apply dropUnits_keeps

theorem resetCmds_keeps {s0 s : State} {own : Cmd → Bool} (h : Keeps s0 s) :
    Keeps s0 (resetCmds own s) := by
  unfold resetCmds
  repeat' first
    | with_reducible assumption | with_reducible apply resetCmd_keeps | with_reducible apply dropDma_keeps
    | with_reducible apply Keeps.foldl

theorem resetPage_keeps {s0 s : State} {p : Part} (h : Keeps s0 s) :
    Keeps s0 (resetPage p s) := by
  unfold resetPage
  repeat' first
    | with_reducible assumption | with_reducible apply setPage_keeps

theorem resetHif_keeps {s0 s : State} (h : Keeps s0 s) :
    Keeps s0 (resetHif s) := by
  unfold resetHif
  repeat' first
    | with_reducible assumption | with_reducible apply trimBacklog_keeps | with_reducible apply resetPage_keeps
    | with_reducible apply Keeps.foldl | with_reducible apply KeepsOpt.getD | with_reducible apply KeepsOpt.of_some
    | simp only [Keeps.upd_iff] | split | with_reducible refine KeepsOpt.get (by assumption) ?_
    | with_reducible refine KeepsPair.get (by assumption) ?_ | dsimp only | intro _

theorem resetGlb_keeps {s0 s : State} (h : Keeps s0 s) :
    Keeps s0 (resetGlb s) := by
  unfold resetGlb
  repeat' first
    | with_reducible assumption | with_reducible apply Keeps.foldl | with_reducible apply KeepsOpt.getD
    | with_reducible apply KeepsOpt.of_some | simp only [Keeps.upd_iff]

theorem resetConfig_keeps {s0 s : State} (h : Keeps s0 s) :
    Keeps s0 (resetConfig s) := by
  unfold resetConfig
  repeat' first
    | with_reducible assumption | with_reducible apply setLink_keeps

theorem resetHost_keeps {s0 s : State} (h : Keeps s0 s) :
    Keeps s0 (resetHost s) := by
  unfold resetHost
  repeat' first
    | with_reducible assumption | with_reducible apply resetCmds_keeps | with_reducible apply resetConfig_keeps
    | with_reducible apply resetHif_keeps | with_reducible apply resetGlb_keeps
    | with_reducible apply resetEvcHost_keeps

theorem hostLinkReset_keeps {s0 s : State} {kind : LinkReset} (h : Keeps s0 s) :
    Keeps s0 (hostLinkReset kind s) := by
  unfold hostLinkReset
  repeat' first
    | with_reducible assumption | with_reducible apply resetHost_keeps | with_reducible apply setLink_keeps
    | with_reducible apply Keeps.foldl | with_reducible apply KeepsOpt.getD | with_reducible apply KeepsOpt.of_some
    | simp only [Keeps.upd_iff]

theorem execHostLinkReset_keeps {s0 s : State} {kind : LinkReset} (h : Keeps s0 s) :
    KeepsOut s0 (execHostLinkReset kind s) := by
  unfold execHostLinkReset
  repeat' first
    | with_reducible assumption | with_reducible apply live_keeps | with_reducible apply hostLinkReset_keeps
    | with_reducible apply KeepsOut.next | with_reducible apply Keeps.foldl
    | simp only [Keeps.upd_iff, Keeps.upd_evc_iff, Keeps.upd_tbs_iff, Keeps.upd_both_iff] | split
    | with_reducible refine KeepsOpt.get (by assumption) ?_ | with_reducible refine KeepsPair.get (by assumption) ?_
    | dsimp only | intro _

theorem flr_keeps {s0 s : State} (h : Keeps s0 s) :
    Keeps s0 (flr s) := by
  unfold flr
  repeat' first
    | with_reducible assumption | with_reducible apply resetHost_keeps | with_reducible apply setLink_keeps
    | with_reducible apply Keeps.foldl | with_reducible apply KeepsOpt.getD | with_reducible apply KeepsOpt.of_some
    | simp only [Keeps.upd_iff] | split

theorem execFlr_keeps {s0 s : State} (h : Keeps s0 s) :
    KeepsOut s0 (execFlr s) := by
  unfold execFlr
  repeat' first
    | with_reducible assumption | with_reducible apply live_keeps | with_reducible apply flr_keeps

theorem execFlrComplete_keeps {s0 s : State} (h : Keeps s0 s) :
    KeepsOut s0 (execFlrComplete s) := by
  unfold execFlrComplete
  repeat' first
    | with_reducible assumption | with_reducible apply setLink_keeps | with_reducible apply live_keeps
    | with_reducible apply KeepsOut.next | with_reducible apply Keeps.foldl
    | simp only [Keeps.upd_iff, Keeps.upd_evc_iff, Keeps.upd_tbs_iff, Keeps.upd_both_iff] | split
    | with_reducible refine KeepsOpt.get (by assumption) ?_ | with_reducible refine KeepsPair.get (by assumption) ?_
    | dsimp only | intro _

theorem dropMasks_keeps {s0 s : State} {p : Part} (h : Keeps s0 s) :
    Keeps s0 (dropMasks p s) := by
  unfold dropMasks
  repeat' first
    | with_reducible assumption | with_reducible apply dropObjs_keeps | with_reducible apply Keeps.foldl
    | with_reducible apply KeepsOpt.getD | with_reducible apply KeepsOpt.of_some | simp only [Keeps.upd_iff]

theorem partReset_keeps {s0 s : State} {p : Part} (h : Keeps s0 s) :
    Keeps s0 (partReset p s) := by
  unfold partReset
  repeat' first
    | with_reducible assumption | with_reducible apply resetPage_keeps | with_reducible apply resetCmds_keeps
    | with_reducible apply destroyCtx_keeps | with_reducible apply resetEvcPart_keeps
    | with_reducible apply dropMasks_keeps | with_reducible apply setPage_keeps | with_reducible apply Keeps.foldl
    | with_reducible apply KeepsOpt.getD | with_reducible apply KeepsOpt.of_some
    | simp only [Keeps.upd_iff, Keeps.upd_evc_iff, Keeps.upd_tbs_iff, Keeps.upd_both_iff] | split
    | with_reducible refine KeepsOpt.get (by assumption) ?_ | with_reducible refine KeepsPair.get (by assumption) ?_
    | dsimp only | intro _

theorem writePartReset_keeps {s0 s : State} {p : Part} {v : Word} (h : Keeps s0 s) :
    Keeps s0 (writePartReset p v s) := by
  unfold writePartReset
  repeat' first
    | with_reducible assumption | with_reducible apply regRefused_keeps | with_reducible apply partReset_keeps
    | with_reducible apply Keeps.foldl | with_reducible apply KeepsOpt.getD | with_reducible apply KeepsOpt.of_some
    | dsimp only | split

theorem partResetWrite_keeps {s0 s : State} {p : Part} {v : Word} (h : Keeps s0 s) :
    Keeps s0 (partResetWrite p v s) := by
  unfold partResetWrite
  repeat' first
    | with_reducible assumption | with_reducible apply writePartReset_keeps | with_reducible apply barAccess_keeps
    | with_reducible apply unmapped_keeps | with_reducible apply Keeps.foldl | with_reducible apply KeepsOpt.getD
    | with_reducible apply KeepsOpt.of_some
    | simp only [Keeps.upd_iff, Keeps.upd_evc_iff, Keeps.upd_tbs_iff, Keeps.upd_both_iff] | split
    | with_reducible refine KeepsOpt.get (by assumption) ?_ | with_reducible refine KeepsPair.get (by assumption) ?_
    | dsimp only | intro _

theorem execHifPartResetWrite_keeps {s0 s : State} {p : Part} {v : Word} (h : Keeps s0 s) :
    KeepsOut s0 (execHifPartResetWrite p v s) := by
  unfold execHifPartResetWrite
  repeat' first
    | with_reducible assumption | with_reducible apply partResetWrite_keeps | with_reducible apply live_keeps
    | with_reducible apply KeepsOut.next | with_reducible apply Keeps.foldl
    | simp only [Keeps.upd_iff, Keeps.upd_evc_iff, Keeps.upd_tbs_iff, Keeps.upd_both_iff] | split
    | with_reducible refine KeepsOpt.get (by assumption) ?_ | with_reducible refine KeepsPair.get (by assumption) ?_
    | dsimp only | intro _

theorem execPartResetComplete_keeps {s0 s : State} {p : Part} (h : Keeps s0 s) :
    KeepsOut s0 (execPartResetComplete p s) := by
  unfold execPartResetComplete
  repeat' first
    | with_reducible assumption | with_reducible apply live_keeps | with_reducible apply setPage_keeps
    | with_reducible apply KeepsOut.next | with_reducible apply Keeps.foldl
    | simp only [Keeps.upd_iff, Keeps.upd_evc_iff, Keeps.upd_tbs_iff, Keeps.upd_both_iff] | split
    | with_reducible refine KeepsOpt.get (by assumption) ?_ | with_reducible refine KeepsPair.get (by assumption) ?_
    | dsimp only | intro _

theorem settleGone_keeps {s0 s : State} (h : Keeps s0 s) :
    Keeps s0 (settleGone s) := by
  unfold settleGone
  repeat' first
    | with_reducible assumption | with_reducible apply setBsc_keeps | with_reducible apply dropOrphans_keeps
    | with_reducible apply dropWrite_keeps | with_reducible apply Keeps.foldl | with_reducible apply KeepsOpt.getD
    | with_reducible apply KeepsOpt.of_some | dsimp only | split

theorem inputDone_keeps {s0 s : State} {c : Cmd} {b : List Byte} (h : Keeps s0 s) :
    Keeps s0 (inputDone c b s) := by
  unfold inputDone
  repeat' first
    | with_reducible assumption | with_reducible apply writeItem_keeps | with_reducible apply takeInput_keeps
    | with_reducible apply itemEnd_keeps | with_reducible apply takeScore_keeps | with_reducible apply takeMask_keeps
    | with_reducible apply Keeps.foldl | with_reducible apply KeepsOpt.getD | with_reducible apply KeepsOpt.of_some
    | simp only [Keeps.upd_iff, Keeps.upd_evc_iff, Keeps.upd_tbs_iff, Keeps.upd_both_iff] | split

theorem dmaRead_keeps {s0 s : State} {id : ℕ} {data : List Byte} (h : Keeps s0 s) :
    Keeps s0 (dmaRead id data s) := by
  unfold dmaRead
  repeat' first
    | with_reducible assumption | with_reducible apply setCmd_keeps | with_reducible apply withDma_keeps
    | with_reducible apply inputDone_keeps | with_reducible apply askInput_keeps
    | with_reducible apply settleGone_keeps | with_reducible apply Keeps.foldl | with_reducible apply KeepsOpt.getD
    | with_reducible apply KeepsOpt.of_some | dsimp only | split
    | with_reducible refine KeepsOpt.get (by assumption) ?_ | with_reducible refine KeepsPair.get (by assumption) ?_
    | intro _

theorem execDmaReadCompletion_keeps {s0 s : State} {id : ℕ} {data : List Byte} (h : Keeps s0 s) :
    KeepsOut s0 (execDmaReadCompletion id data s) := by
  unfold execDmaReadCompletion
  repeat' first
    | with_reducible assumption | with_reducible apply dmaRead_keeps | with_reducible apply live_keeps
    | with_reducible apply KeepsOut.next | with_reducible apply Keeps.foldl
    | simp only [Keeps.upd_iff, Keeps.upd_evc_iff, Keeps.upd_tbs_iff, Keeps.upd_both_iff] | split
    | with_reducible refine KeepsOpt.get (by assumption) ?_ | with_reducible refine KeepsPair.get (by assumption) ?_
    | dsimp only | intro _

theorem noteAer_keeps {s0 s : State} {w : DmaFail} (h : Keeps s0 s) :
    Keeps s0 (noteAer w s) := by
  unfold noteAer
  repeat' first
    | with_reducible assumption | with_reducible apply send_keeps | with_reducible apply setLink_keeps
    | with_reducible apply Keeps.foldl | with_reducible apply KeepsOpt.getD | with_reducible apply KeepsOpt.of_some
    | simp only [Keeps.upd_iff] | split

theorem inputLost_keeps {s0 s : State} {c : Cmd} (h : Keeps s0 s) :
    Keeps s0 (inputLost c s) := by
  unfold inputLost
  repeat' first
    | with_reducible assumption | with_reducible apply setBsc_keeps | with_reducible apply writeItem_keeps
    | with_reducible apply itemEnd_keeps | with_reducible apply failCmd_keeps | with_reducible apply Keeps.foldl
    | with_reducible apply KeepsOpt.getD | with_reducible apply KeepsOpt.of_some | dsimp only | split

theorem readFailed_keeps {s0 s : State} {id : ℕ} {w : DmaFail} (h : Keeps s0 s) :
    Keeps s0 (readFailed id w s) := by
  unfold readFailed
  repeat' first
    | with_reducible assumption | with_reducible apply logErr_keeps | with_reducible apply setCmd_keeps
    | with_reducible apply noteAer_keeps | with_reducible apply askInput_keeps | with_reducible apply settleGone_keeps
    | with_reducible apply inputLost_keeps | with_reducible apply Keeps.foldl | with_reducible apply KeepsOpt.getD
    | with_reducible apply KeepsOpt.of_some | dsimp only | split

theorem fetchFailed_keeps {s0 s : State} {p : Part} {w : DmaFail} (h : Keeps s0 s) :
    Keeps s0 (fetchFailed p w s) := by
  unfold fetchFailed
  repeat' first
    | with_reducible assumption | with_reducible apply logErr_keeps | with_reducible apply noteAer_keeps
    | with_reducible apply askFetch_keeps | with_reducible apply setPage_keeps | with_reducible apply Keeps.foldl
    | with_reducible apply KeepsOpt.getD | with_reducible apply KeepsOpt.of_some | dsimp only | split

theorem dmaFailure_keeps {s0 s : State} {t1 : DmaTarget} {w : DmaFail} (h : Keeps s0 s) :
    Keeps s0 (dmaFailure t1 w s) := by
  unfold dmaFailure
  repeat' first
    | with_reducible assumption | with_reducible apply readFailed_keeps | with_reducible apply fetchFailed_keeps
    | with_reducible apply Keeps.foldl | with_reducible apply KeepsOpt.getD | with_reducible apply KeepsOpt.of_some
    | simp only [Keeps.upd_iff, Keeps.upd_evc_iff, Keeps.upd_tbs_iff, Keeps.upd_both_iff] | split

theorem execDmaReadFailure_keeps {s0 s : State} {t1 : DmaTarget} {w : DmaFail} (h : Keeps s0 s) :
    KeepsOut s0 (execDmaReadFailure t1 w s) := by
  unfold execDmaReadFailure
  repeat' first
    | with_reducible assumption | with_reducible apply dmaFailure_keeps | with_reducible apply live_keeps
    | with_reducible apply KeepsOut.next | with_reducible apply Keeps.foldl
    | simp only [Keeps.upd_iff, Keeps.upd_evc_iff, Keeps.upd_tbs_iff, Keeps.upd_both_iff] | split
    | with_reducible refine KeepsOpt.get (by assumption) ?_ | with_reducible refine KeepsPair.get (by assumption) ?_
    | dsimp only | intro _

theorem bar2Outside_keeps {s0 s : State} {a : ℕ} (h : Keeps s0 s) :
    Keeps s0 (bar2Outside a s) := by
  unfold bar2Outside
  repeat' first
    | with_reducible assumption | with_reducible apply logErr_keeps | with_reducible apply Keeps.foldl
    | with_reducible apply KeepsOpt.getD | with_reducible apply KeepsOpt.of_some | simp only [Keeps.upd_iff] | split

theorem bar2Put_keeps {s0 s : State} {a : ℕ} {b : List Byte} (h : Keeps s0 s) :
    Keeps s0 (bar2Put a b s) := by
  unfold bar2Put
  repeat' first
    | with_reducible assumption | with_reducible apply reportUes_keeps | with_reducible apply storeMem_keeps

theorem bar2Do_keeps {s0 s : State} {a : HostReq} (h : Keeps s0 s) :
    Keeps s0 (bar2Do a s) := by
  unfold bar2Do
  repeat' first
    | with_reducible assumption | with_reducible apply readStack_keeps | with_reducible apply send_keeps
    | with_reducible apply reportUes_keeps | with_reducible apply bar2Put_keeps | with_reducible apply Keeps.foldl
    | with_reducible apply KeepsOpt.getD | with_reducible apply KeepsOpt.of_some
    | simp only [Keeps.upd_iff, Keeps.upd_evc_iff, Keeps.upd_tbs_iff, Keeps.upd_both_iff] | split
    | with_reducible refine KeepsOpt.get (by assumption) ?_ | with_reducible refine KeepsPair.get (by assumption) ?_

theorem serveBar2_keeps {s0 s : State} {a : ℕ} (h : Keeps s0 s) :
    Keeps s0 (serveBar2 a s) := by
  unfold serveBar2
  repeat' first
    | with_reducible assumption | with_reducible apply send_keeps | with_reducible apply endGrant_keeps
    | with_reducible apply request_keeps | with_reducible apply setLink_keeps | with_reducible apply bar2Do_keeps
    | with_reducible apply Keeps.foldl | with_reducible apply KeepsOpt.getD | with_reducible apply KeepsOpt.of_some
    | with_reducible apply serveBar2_keeps | dsimp only | split

theorem takeBar2_keeps {s0 s : State} {x0 : HostReq} (h : Keeps s0 s) :
    Keeps s0 (takeBar2 x0 s) := by
  unfold takeBar2
  repeat' first
    | with_reducible assumption | with_reducible apply setLink_keeps | with_reducible apply serveBar2_keeps

theorem bar2Read_keeps {s0 s : State} {o : ℕ} {n : ℕ} (h : Keeps s0 s) :
    Keeps s0 (bar2Read o n s) := by
  unfold bar2Read
  repeat' first
    | with_reducible assumption | with_reducible apply bar2Outside_keeps | with_reducible apply takeBar2_keeps
    | with_reducible apply reply_keeps | with_reducible apply Keeps.foldl | with_reducible apply KeepsOpt.getD
    | with_reducible apply KeepsOpt.of_some | dsimp only | split

theorem execBar2Read_keeps {s0 s : State} {o : ℕ} {n : ℕ} (h : Keeps s0 s) :
    KeepsOut s0 (execBar2Read o n s) := by
  unfold execBar2Read
  repeat' first
    | with_reducible assumption | with_reducible apply bar2Read_keeps | with_reducible apply barAccess_keeps
    | with_reducible apply live_keeps | with_reducible apply KeepsOut.next | with_reducible apply Keeps.foldl
    | simp only [Keeps.upd_iff, Keeps.upd_evc_iff, Keeps.upd_tbs_iff, Keeps.upd_both_iff] | split
    | with_reducible refine KeepsOpt.get (by assumption) ?_ | with_reducible refine KeepsPair.get (by assumption) ?_
    | dsimp only | intro _

theorem bar2Write_keeps {s0 s : State} {o : ℕ} {b : List Byte} (h : Keeps s0 s) :
    Keeps s0 (bar2Write o b s) := by
  unfold bar2Write
  repeat' first
    | with_reducible assumption | with_reducible apply bar2Outside_keeps | with_reducible apply takeBar2_keeps
    | with_reducible apply Keeps.foldl | with_reducible apply KeepsOpt.getD | with_reducible apply KeepsOpt.of_some
    | dsimp only | split

theorem execBar2Write_keeps {s0 s : State} {o : ℕ} {b : List Byte} (h : Keeps s0 s) :
    KeepsOut s0 (execBar2Write o b s) := by
  unfold execBar2Write
  repeat' first
    | with_reducible assumption | with_reducible apply bar2Write_keeps | with_reducible apply barAccess_keeps
    | with_reducible apply live_keeps | with_reducible apply KeepsOut.next | with_reducible apply Keeps.foldl
    | simp only [Keeps.upd_iff, Keeps.upd_evc_iff, Keeps.upd_tbs_iff, Keeps.upd_both_iff] | split
    | with_reducible refine KeepsOpt.get (by assumption) ?_ | with_reducible refine KeepsPair.get (by assumption) ?_
    | dsimp only | intro _

theorem setHwin_keeps {s0 s : State} {p : Part} {f : HostWin → HostWin} (h : Keeps s0 s) :
    Keeps s0 (setHwin p f s) := by
  unfold setHwin
  repeat' first
    | with_reducible assumption | with_reducible apply Keeps.foldl | with_reducible apply KeepsOpt.getD
    | with_reducible apply KeepsOpt.of_some | simp only [Keeps.upd_iff]

theorem writeHwinLen_keeps {s0 s : State} {p : Part} {v : Word} (h : Keeps s0 s) :
    Keeps s0 (writeHwinLen p v s) := by
  unfold writeHwinLen
  repeat' first
    | with_reducible assumption | with_reducible apply regRefused_keeps | with_reducible apply setHwin_keeps
    | with_reducible apply Keeps.foldl | with_reducible apply KeepsOpt.getD | with_reducible apply KeepsOpt.of_some
    | dsimp only | split

theorem execGlbHwinLenWrite_keeps {s0 s : State} {p : Part} {v : Word} (h : Keeps s0 s) :
    KeepsOut s0 (execGlbHwinLenWrite p v s) := by
  unfold execGlbHwinLenWrite
  repeat' first
    | with_reducible assumption | with_reducible apply regWrite_keeps | with_reducible apply live_keeps
    | with_reducible apply writeHwinLen_keeps | with_reducible apply KeepsOut.next | with_reducible apply Keeps.foldl
    | simp only [Keeps.upd_iff, Keeps.upd_evc_iff, Keeps.upd_tbs_iff, Keeps.upd_both_iff] | split
    | with_reducible refine KeepsOpt.get (by assumption) ?_ | with_reducible refine KeepsPair.get (by assumption) ?_
    | dsimp only | intro _

theorem writeWinHi_keeps {s0 s : State} {v : Word} (h : Keeps s0 s) :
    Keeps s0 (writeWinHi v s) := by
  unfold writeWinHi
  repeat' first
    | with_reducible assumption | with_reducible apply Keeps.foldl | with_reducible apply KeepsOpt.getD
    | with_reducible apply KeepsOpt.of_some | simp only [Keeps.upd_iff]

theorem execGlbWinBaseHiWrite_keeps {s0 s : State} {v : Word} (h : Keeps s0 s) :
    KeepsOut s0 (execGlbWinBaseHiWrite v s) := by
  unfold execGlbWinBaseHiWrite
  repeat' first
    | with_reducible assumption | with_reducible apply regWrite_keeps | with_reducible apply writeWinHi_keeps
    | with_reducible apply live_keeps | with_reducible apply KeepsOut.next | with_reducible apply Keeps.foldl
    | simp only [Keeps.upd_iff, Keeps.upd_evc_iff, Keeps.upd_tbs_iff, Keeps.upd_both_iff] | split
    | with_reducible refine KeepsOpt.get (by assumption) ?_ | with_reducible refine KeepsPair.get (by assumption) ?_
    | dsimp only | intro _

theorem setGlb_keeps {s0 s : State} {f : Glb → Glb} (h : Keeps s0 s) :
    Keeps s0 (setGlb f s) := by
  unfold setGlb
  repeat' first
    | with_reducible assumption | with_reducible apply Keeps.foldl | with_reducible apply KeepsOpt.getD
    | with_reducible apply KeepsOpt.of_some | simp only [Keeps.upd_iff]

theorem glbReadEff_keeps {s0 s : State} {off : ℕ} (h : Keeps s0 s) :
    Keeps s0 (glbReadEff off s) := by
  unfold glbReadEff
  repeat' first
    | with_reducible assumption | with_reducible apply setPwr_keeps | with_reducible apply Keeps.foldl
    | with_reducible apply KeepsOpt.getD | with_reducible apply KeepsOpt.of_some
    | simp only [Keeps.upd_iff, Keeps.upd_evc_iff, Keeps.upd_tbs_iff, Keeps.upd_both_iff] | split

theorem execGlbThermRead_keeps {s0 s : State} (h : Keeps s0 s) :
    KeepsOut s0 (execGlbThermRead s) := by
  unfold execGlbThermRead
  repeat' first
    | with_reducible assumption | with_reducible apply glbReadEff_keeps | with_reducible apply live_keeps
    | with_reducible apply regRead_keeps | with_reducible apply KeepsOut.next | with_reducible apply Keeps.foldl
    | simp only [Keeps.upd_iff, Keeps.upd_evc_iff, Keeps.upd_tbs_iff, Keeps.upd_both_iff] | split
    | with_reducible refine KeepsOpt.get (by assumption) ?_ | with_reducible refine KeepsPair.get (by assumption) ?_
    | dsimp only | intro _

theorem writeWinCtrl_keeps {s0 s : State} {v : Word} (h : Keeps s0 s) :
    Keeps s0 (writeWinCtrl v s) := by
  unfold writeWinCtrl
  repeat' first
    | with_reducible assumption | with_reducible apply setGlb_keeps | with_reducible apply startIsland_keeps
    | with_reducible apply leaveSr_keeps | with_reducible apply Keeps.foldl | with_reducible apply KeepsOpt.getD
    | with_reducible apply KeepsOpt.of_some | dsimp only | split

theorem glbWrite_keeps {s0 s : State} {off : ℕ} {v : Word} (h : Keeps s0 s) :
    KeepsOpt s0 (glbWrite off v s) := by
  unfold glbWrite
  repeat' first
    | with_reducible assumption | with_reducible apply regRefused_keeps | with_reducible apply setHwin_keeps
    | with_reducible apply setGlb_keeps | with_reducible apply writeOppoint_keeps
    | with_reducible apply writePwrCtrl_keeps | with_reducible apply writeWinHi_keeps
    | with_reducible apply setPwr_keeps | with_reducible apply writeHwinLen_keeps
    | with_reducible apply writeWinCtrl_keeps | with_reducible apply KeepsOpt.of_none
    | with_reducible apply KeepsOpt.of_some | with_reducible apply KeepsOpt.map | with_reducible apply KeepsOpt.orElse
    | with_reducible apply Keeps.foldl | dsimp only | split | with_reducible refine KeepsOpt.get (by assumption) ?_
    | with_reducible refine KeepsPair.get (by assumption) ?_ | intro _

theorem msixWrite_keeps {s0 s : State} {off : ℕ} {v : Word} (h : Keeps s0 s) :
    KeepsOpt s0 (msixWrite off v s) := by
  unfold msixWrite
  repeat' first
    | with_reducible assumption | with_reducible apply setLink_keeps | with_reducible apply KeepsOpt.of_none
    | with_reducible apply KeepsOpt.of_some | with_reducible apply KeepsOpt.map | with_reducible apply KeepsOpt.orElse
    | with_reducible apply Keeps.foldl | dsimp only | split

theorem readEff_keeps {s0 s : State} {off : ℕ} (h : Keeps s0 s) :
    Keeps s0 (readEff off s) := by
  unfold readEff
  repeat' first
    | with_reducible assumption | with_reducible apply przReadEff_keeps | with_reducible apply dmcReadEff_keeps
    | with_reducible apply bscReadEff_keeps | with_reducible apply aptReadEff_keeps
    | with_reducible apply pageReadEff_keeps | with_reducible apply strReadEff_keeps
    | with_reducible apply glbReadEff_keeps | with_reducible apply brgReadEff_keeps
    | with_reducible apply hifReadEff_keeps | with_reducible apply ensReadEff_keeps
    | with_reducible apply flcReadEff_keeps | with_reducible apply vceReadEff_keeps
    | with_reducible apply mirReadEff_keeps | with_reducible apply evcReadEff_keeps
    | with_reducible apply tbsReadEff_keeps | with_reducible apply Keeps.foldl | with_reducible apply KeepsOpt.getD
    | with_reducible apply KeepsOpt.of_some
    | simp only [Keeps.upd_iff, Keeps.upd_evc_iff, Keeps.upd_tbs_iff, Keeps.upd_both_iff] | split

theorem pageWrite_keeps {s0 s : State} {p : Part} {o : ℕ} {v : Word} (h : Keeps s0 s) :
    KeepsOpt s0 (pageWrite p o v s) := by
  unfold pageWrite
  repeat' first
    | with_reducible assumption | with_reducible apply writeUserStrips_keeps | with_reducible apply writeDefer_keeps
    | with_reducible apply optWrite_keeps | with_reducible apply writeCqSize_keeps
    | with_reducible apply writeUserSec_keeps | with_reducible apply writeCqHead_keeps
    | with_reducible apply writeUserDram_keeps | with_reducible apply writePartReset_keeps
    | with_reducible apply writeCqStatus_keeps | with_reducible apply writeTail_keeps
    | with_reducible apply writeSqSize_keeps | with_reducible apply setPage_keeps
    | with_reducible apply writeSqStatus_keeps | with_reducible apply KeepsOpt.of_none
    | with_reducible apply KeepsOpt.of_some | with_reducible apply KeepsOpt.map | with_reducible apply KeepsOpt.orElse
    | with_reducible apply Keeps.foldl | dsimp only | split | with_reducible refine KeepsOpt.get (by assumption) ?_
    | with_reducible refine KeepsPair.get (by assumption) ?_ | intro _

theorem writeReg_keeps {s0 s : State} {off : ℕ} {v : Word} (h : Keeps s0 s) :
    KeepsOpt s0 (writeReg off v s) := by
  unfold writeReg
  repeat' first
    | with_reducible assumption | with_reducible apply dmcWrite_keeps | with_reducible apply ensWrite_keeps
    | with_reducible apply vibWrite_keeps | with_reducible apply strWrite_keeps | with_reducible apply mirWrite_keeps
    | with_reducible apply pageWrite_keeps | with_reducible apply vceWrite_keeps | with_reducible apply islWrite_keeps
    | with_reducible apply glbWrite_keeps | with_reducible apply przWrite_keeps | with_reducible apply msixWrite_keeps
    | with_reducible apply brgWrite_keeps | with_reducible apply evcWrite_keeps | with_reducible apply hifWrite_keeps
    | with_reducible apply aptWrite_keeps | with_reducible apply flcWrite_keeps | with_reducible apply tbsWrite_keeps
    | with_reducible apply bscWrite_keeps | with_reducible apply KeepsOpt.of_none
    | with_reducible apply KeepsOpt.of_some | with_reducible apply KeepsOpt.map | with_reducible apply KeepsOpt.orElse
    | with_reducible apply Keeps.foldl
    | simp only [Keeps.upd_iff, Keeps.upd_evc_iff, Keeps.upd_tbs_iff, Keeps.upd_both_iff] | split
    | with_reducible refine KeepsOpt.get (by assumption) ?_ | with_reducible refine KeepsPair.get (by assumption) ?_
    | dsimp only | intro _

theorem writeDw_keeps {s0 s : State} {off : ℕ} {v : Word} {be : BitVec 4} (h : Keeps s0 s) :
    Keeps s0 (writeDw off v be s) := by
  unfold writeDw
  repeat' first
    | with_reducible assumption | with_reducible apply writeReg_keeps | with_reducible apply regWrite_keeps
    | with_reducible apply partResetWrite_keeps | with_reducible apply unmapped_keeps
    | with_reducible apply Keeps.foldl | with_reducible apply KeepsOpt.getD | with_reducible apply KeepsOpt.of_some
    | simp only [Keeps.upd_iff, Keeps.upd_evc_iff, Keeps.upd_tbs_iff, Keeps.upd_both_iff] | split
    | with_reducible refine KeepsOpt.get (by assumption) ?_ | with_reducible refine KeepsPair.get (by assumption) ?_
    | dsimp only | intro _

theorem registerWrite_keeps {s0 s : State} {a : ℕ} {a2 : List (Word × BitVec 4)} (h : Keeps s0 s) :
    Keeps s0 (registerWrite a a2 s) := by
  unfold registerWrite
  repeat' first
    | with_reducible assumption | with_reducible apply writeDw_keeps | with_reducible apply Keeps.foldl
    | with_reducible apply KeepsOpt.getD | with_reducible apply KeepsOpt.of_some
    | with_reducible apply registerWrite_keeps
    | simp only [Keeps.upd_iff, Keeps.upd_evc_iff, Keeps.upd_tbs_iff, Keeps.upd_both_iff] | split

theorem execRegisterWrite_keeps {s0 s : State} {off : ℕ} {ds : List (Word × BitVec 4)} (h : Keeps s0 s) :
    KeepsOut s0 (execRegisterWrite off ds s) := by
  unfold execRegisterWrite
  repeat' first
    | with_reducible assumption | with_reducible apply registerWrite_keeps | with_reducible apply standingChange_keeps
    | with_reducible apply live_keeps | with_reducible apply KeepsOut.next | with_reducible apply Keeps.foldl
    | simp only [Keeps.upd_iff, Keeps.upd_evc_iff, Keeps.upd_tbs_iff, Keeps.upd_both_iff] | split
    | with_reducible refine KeepsOpt.get (by assumption) ?_ | with_reducible refine KeepsPair.get (by assumption) ?_
    | dsimp only | intro _

theorem registerRead_keeps {s0 s : State} {a : ℕ} {a2 : ℕ} (h : Keeps s0 s) :
    Keeps s0 (registerRead a a2 s) := by
  unfold registerRead
  repeat' first
    | with_reducible assumption | with_reducible apply regRead_keeps | with_reducible apply readEff_keeps
    | with_reducible apply Keeps.foldl | with_reducible apply KeepsOpt.getD | with_reducible apply KeepsOpt.of_some
    | with_reducible apply registerRead_keeps
    | simp only [Keeps.upd_iff, Keeps.upd_evc_iff, Keeps.upd_tbs_iff, Keeps.upd_both_iff] | split
    | with_reducible refine KeepsOpt.get (by assumption) ?_ | with_reducible refine KeepsPair.get (by assumption) ?_
    | dsimp only | intro _

theorem execRcRegisterRead_keeps {s0 s : State} {off : ℕ} {n : ℕ} (h : Keeps s0 s) :
    KeepsOut s0 (execRcRegisterRead off n s) := by
  unfold execRcRegisterRead
  repeat' first
    | with_reducible assumption | with_reducible apply registerRead_keeps | with_reducible apply live_keeps
    | with_reducible apply KeepsOut.next | with_reducible apply Keeps.foldl
    | simp only [Keeps.upd_iff, Keeps.upd_evc_iff, Keeps.upd_tbs_iff, Keeps.upd_both_iff] | split
    | with_reducible refine KeepsOpt.get (by assumption) ?_ | with_reducible refine KeepsPair.get (by assumption) ?_
    | dsimp only | intro _

theorem unmappedAccess_keeps {s0 s : State} {off : ℕ} {write : Bool} (h : Keeps s0 s) :
    Keeps s0 (unmappedAccess off write s) := by
  unfold unmappedAccess
  repeat' first
    | with_reducible assumption | with_reducible apply regWrite_keeps | with_reducible apply unmapped_keeps
    | with_reducible apply regRead_keeps | with_reducible apply Keeps.foldl | with_reducible apply KeepsOpt.getD
    | with_reducible apply KeepsOpt.of_some | simp only [id_eq]
    | simp only [Keeps.upd_iff, Keeps.upd_evc_iff, Keeps.upd_tbs_iff, Keeps.upd_both_iff] | split
    | with_reducible refine KeepsOpt.get (by assumption) ?_ | with_reducible refine KeepsPair.get (by assumption) ?_
    | dsimp only | intro _

theorem execUnmappedBar0Access_keeps {s0 s : State} {off : ℕ} {write : Bool} (h : Keeps s0 s) :
    KeepsOut s0 (execUnmappedBar0Access off write s) := by
  unfold execUnmappedBar0Access
  repeat' first
    | with_reducible assumption | with_reducible apply unmappedAccess_keeps | with_reducible apply live_keeps
    | with_reducible apply KeepsOut.next | with_reducible apply Keeps.foldl
    | simp only [Keeps.upd_iff, Keeps.upd_evc_iff, Keeps.upd_tbs_iff, Keeps.upd_both_iff] | split
    | with_reducible refine KeepsOpt.get (by assumption) ?_ | with_reducible refine KeepsPair.get (by assumption) ?_
    | dsimp only | intro _

theorem grantedReads_keeps {s0 s : State} (h : Keeps s0 s) :
    Keeps s0 (grantedReads s) := by
  unfold grantedReads
  repeat' first
    | with_reducible assumption | with_reducible apply askInput_keeps | with_reducible apply settleGone_keeps
    | with_reducible apply askFetch_keeps | with_reducible apply Keeps.foldl | with_reducible apply KeepsOpt.getD
    | with_reducible apply KeepsOpt.of_some
    | simp only [Keeps.upd_iff, Keeps.upd_evc_iff, Keeps.upd_tbs_iff, Keeps.upd_both_iff] | split
    | with_reducible refine KeepsOpt.get (by assumption) ?_ | with_reducible refine KeepsPair.get (by assumption) ?_
    | dsimp only | intro _

theorem grantRow_keeps {s0 s : State} {l : Ledger} {reqs : List BreathReq} (h : Keeps s0 s) :
    Keeps s0 (grantRow l reqs s) := by
  unfold grantRow
  repeat' first
    | with_reducible assumption | with_reducible apply breathGrant_keeps | with_reducible apply grantedReads_keeps
    | with_reducible apply serveBar2_keeps | with_reducible apply drainPorts_keeps
    | with_reducible apply replayLimit_keeps | with_reducible apply grantedOutput_keeps
    | with_reducible apply Keeps.foldl | with_reducible apply KeepsOpt.getD | with_reducible apply KeepsOpt.of_some
    | simp only [Keeps.upd_iff, Keeps.upd_evc_iff, Keeps.upd_tbs_iff, Keeps.upd_both_iff] | split
    | with_reducible refine KeepsOpt.get (by assumption) ?_ | with_reducible refine KeepsPair.get (by assumption) ?_
    | dsimp only | intro _

theorem execBreathGrant_keeps {s0 s : State} {l : Ledger} {reqs : List BreathReq} (h : Keeps s0 s) :
    KeepsOut s0 (execBreathGrant l reqs s) := by
  unfold execBreathGrant
  repeat' first
    | with_reducible assumption | with_reducible apply grantRow_keeps | with_reducible apply live_keeps
    | with_reducible apply KeepsOut.next | with_reducible apply Keeps.foldl
    | simp only [Keeps.upd_iff, Keeps.upd_evc_iff, Keeps.upd_tbs_iff, Keeps.upd_both_iff] | split
    | with_reducible refine KeepsOpt.get (by assumption) ?_ | with_reducible refine KeepsPair.get (by assumption) ?_
    | dsimp only | intro _

theorem execProgressQuery_keeps {s0 s : State} {id : ℕ} (h : Keeps s0 s) :
    KeepsOut s0 (execProgressQuery id s) := by
  unfold execProgressQuery
  repeat' first
    | with_reducible assumption | with_reducible apply bscReadEff_keeps | with_reducible apply finish_keeps
    | with_reducible apply atAdmission_keeps | with_reducible apply live_keeps | with_reducible apply KeepsOut.next
    | with_reducible apply Keeps.foldl | dsimp only | split | with_reducible refine KeepsOpt.get (by assumption) ?_
    | with_reducible refine KeepsPair.get (by assumption) ?_ | intro _

theorem jtagAs_keeps {s0 s : State} {ir : BitVec 8} {driving : Bool} (h : Keeps s0 s) :
    Keeps s0 (jtagAs ir driving s) := by
  unfold jtagAs
  repeat' first
    | with_reducible assumption | with_reducible apply Keeps.foldl | with_reducible apply KeepsOpt.getD
    | with_reducible apply KeepsOpt.of_some | simp only [Keeps.upd_iff]

theorem jtagBypass_keeps {s0 s : State} {ir : BitVec 8} (h : Keeps s0 s) :
    Keeps s0 (jtagBypass ir s) := by
  unfold jtagBypass
  repeat' first
    | with_reducible assumption | with_reducible apply send_keeps | with_reducible apply jtagAs_keeps

theorem captureBalls_keeps {s0 s : State} (h : Keeps s0 s) :
    Keeps s0 (captureBalls s) := by
  unfold captureBalls
  repeat' first
    | with_reducible assumption | with_reducible apply send_keeps | with_reducible apply Keeps.foldl
    | with_reducible apply KeepsOpt.getD | with_reducible apply KeepsOpt.of_some | simp only [Keeps.upd_iff]

theorem execIdcode_keeps {s0 s : State} (h : Keeps s0 s) :
    KeepsOut s0 (execIdcode s) := by
  unfold execIdcode
  repeat' first
    | with_reducible assumption | with_reducible apply send_keeps | with_reducible apply jtagAs_keeps
    | with_reducible apply KeepsOut.next

theorem execSamplePreload_keeps {s0 s : State} {b : List Bool} (h : Keeps s0 s) :
    KeepsOut s0 (execSamplePreload b s) := by
  unfold execSamplePreload
  repeat' first
    | with_reducible assumption | with_reducible apply jtagAs_keeps | with_reducible apply captureBalls_keeps
    | with_reducible apply KeepsOut.next | with_reducible apply Keeps.foldl | simp only [Keeps.upd_iff]

theorem execExtest_keeps {s0 s : State} (h : Keeps s0 s) :
    KeepsOut s0 (execExtest s) := by
  unfold execExtest
  repeat' first
    | with_reducible assumption | with_reducible apply jtagBypass_keeps | with_reducible apply jtagAs_keeps
    | with_reducible apply captureBalls_keeps | with_reducible apply KeepsOut.next | with_reducible apply Keeps.foldl
    | simp only [Keeps.upd_iff, Keeps.upd_evc_iff, Keeps.upd_tbs_iff, Keeps.upd_both_iff] | split

theorem execClamp_keeps {s0 s : State} (h : Keeps s0 s) :
    KeepsOut s0 (execClamp s) := by
  unfold execClamp
  repeat' first
    | with_reducible assumption | with_reducible apply send_keeps | with_reducible apply jtagBypass_keeps
    | with_reducible apply jtagAs_keeps | with_reducible apply KeepsOut.next | with_reducible apply Keeps.foldl
    | simp only [Keeps.upd_iff, Keeps.upd_evc_iff, Keeps.upd_tbs_iff, Keeps.upd_both_iff] | split

theorem execHighz_keeps {s0 s : State} (h : Keeps s0 s) :
    KeepsOut s0 (execHighz s) := by
  unfold execHighz
  repeat' first
    | with_reducible assumption | with_reducible apply jtagBypass_keeps | with_reducible apply KeepsOut.next

theorem execBypass_keeps {s0 s : State} (h : Keeps s0 s) :
    KeepsOut s0 (execBypass s) := by
  unfold execBypass
  repeat' first
    | with_reducible assumption | with_reducible apply jtagBypass_keeps | with_reducible apply KeepsOut.next

theorem dbgWrite_keeps {s0 s : State} {off : ℕ} {v : Word} (h : Keeps s0 s) :
    Keeps s0 (dbgWrite off v s) := by
  unfold dbgWrite
  repeat' first
    | with_reducible assumption | with_reducible apply writeReg_keeps | with_reducible apply unmappedFor_keeps
    | with_reducible apply Keeps.foldl | with_reducible apply KeepsOpt.getD | with_reducible apply KeepsOpt.of_some
    | simp only [Keeps.upd_iff, Keeps.upd_evc_iff, Keeps.upd_tbs_iff, Keeps.upd_both_iff] | split

theorem dbgRead_keeps {s0 s : State} {off : ℕ} (h : Keeps s0 s) :
    Keeps s0 (dbgRead off s) := by
  unfold dbgRead
  repeat' first
    | with_reducible assumption | with_reducible apply unmappedFor_keeps | with_reducible apply readEff_keeps
    | with_reducible apply Keeps.foldl | with_reducible apply KeepsOpt.getD | with_reducible apply KeepsOpt.of_some
    | simp only [Keeps.upd_iff] | split

theorem dbgReg_keeps {s0 s : State} {dr : BitVec 64} (h : Keeps s0 s) :
    Keeps s0 (dbgReg dr s) := by
  unfold dbgReg
  repeat' first
    | with_reducible assumption | with_reducible apply send_keeps | with_reducible apply dbgWrite_keeps
    | with_reducible apply dbgRead_keeps | with_reducible apply jtagAs_keeps | with_reducible apply Keeps.foldl
    | with_reducible apply KeepsOpt.getD | with_reducible apply KeepsOpt.of_some | dsimp only | split

theorem execDbgReg_keeps {s0 s : State} {dr : BitVec 64} (h : Keeps s0 s) :
    KeepsOut s0 (execDbgReg dr s) := by
  unfold execDbgReg
  apply KeepsOut.next
  split
  · exact standingChange_keeps (fun _ ht => dbgReg_keeps ht) h
  · exact jtagBypass_keeps h

theorem execDbgStat_keeps {s0 s : State} (h : Keeps s0 s) :
    KeepsOut s0 (execDbgStat s) := by
  unfold execDbgStat
  apply KeepsOut.next
  split
  · exact send_keeps (jtagAs_keeps (bscReadEff_keeps h))
  · exact jtagBypass_keeps h

end Sys2Proof.Machine
end

