-- ==== Sys2Proof/Laws/State.lean ====
section
/-! SUPPORT. What each named update of the state leaves as it was, one lemma for each field, and what it writes. -/

namespace Sys2Proof.Machine

section
variable {n : Voice} {f : VoiceSt → VoiceSt} {s : State}
@[simp] theorem setVoice_pending : (setVoice n f s).pending = s.pending := rfl
@[simp] theorem setVoice_clk : (setVoice n f s).clk = s.clk := rfl
@[simp] theorem setVoice_freeCtr : (setVoice n f s).freeCtr = s.freeCtr := rfl
@[simp] theorem setVoice_porst : (setVoice n f s).porst = s.porst := rfl
@[simp] theorem setVoice_fuses : (setVoice n f s).fuses = s.fuses := rfl
@[simp] theorem setVoice_glb : (setVoice n f s).glb = s.glb := rfl
@[simp] theorem setVoice_brg : (setVoice n f s).brg = s.brg := rfl
@[simp] theorem setVoice_isl : (setVoice n f s).isl = s.isl := rfl
@[simp] theorem setVoice_tbs : (setVoice n f s).tbs = s.tbs := rfl
@[simp] theorem setVoice_dbOut : (setVoice n f s).dbOut = s.dbOut := rfl
@[simp] theorem setVoice_bsc : (setVoice n f s).bsc = s.bsc := rfl
@[simp] theorem setVoice_score : (setVoice n f s).score = s.score := rfl
@[simp] theorem setVoice_link : (setVoice n f s).link = s.link := rfl
@[simp] theorem setVoice_out : (setVoice n f s).out = s.out := rfl
@[simp] theorem setVoice_hif : (setVoice n f s).hif = s.hif := rfl
@[simp] theorem setVoice_objs : (setVoice n f s).objs = s.objs := rfl
@[simp] theorem setVoice_cmds : (setVoice n f s).cmds = s.cmds := rfl
@[simp] theorem setVoice_nextCmd : (setVoice n f s).nextCmd = s.nextCmd := rfl
@[simp] theorem setVoice_ctxs : (setVoice n f s).ctxs = s.ctxs := rfl
@[simp] theorem setVoice_masks : (setVoice n f s).masks = s.masks := rfl
@[simp] theorem setVoice_defMask : (setVoice n f s).defMask = s.defMask := rfl
@[simp] theorem setVoice_models : (setVoice n f s).models = s.models := rfl
@[simp] theorem setVoice_jobs : (setVoice n f s).jobs = s.jobs := rfl
@[simp] theorem setVoice_early : (setVoice n f s).early = s.early := rfl
@[simp] theorem setVoice_passes : (setVoice n f s).passes = s.passes := rfl
@[simp] theorem setVoice_strips : (setVoice n f s).strips = s.strips := rfl
@[simp] theorem setVoice_str : (setVoice n f s).str = s.str := rfl
@[simp] theorem setVoice_apt : (setVoice n f s).apt = s.apt := rfl
@[simp] theorem setVoice_nand : (setVoice n f s).nand = s.nand := rfl
@[simp] theorem setVoice_flc : (setVoice n f s).flc = s.flc := rfl
@[simp] theorem setVoice_evc : (setVoice n f s).evc = s.evc := rfl
@[simp] theorem setVoice_pwr : (setVoice n f s).pwr = s.pwr := rfl
@[simp] theorem setVoice_jtag : (setVoice n f s).jtag = s.jtag := rfl
@[simp] theorem setVoice_mem : (setVoice n f s).mem = s.mem := rfl
@[simp] theorem setVoice_bad : (setVoice n f s).bad = s.bad := rfl
@[simp] theorem setVoice_dmc : (setVoice n f s).dmc = s.dmc := rfl
@[simp] theorem setVoice_sections : (setVoice n f s).sections = s.sections := rfl
@[simp] theorem setVoice_sets : (setVoice n f s).sets = s.sets := rfl
@[simp] theorem setVoice_prz : (setVoice n f s).prz = s.prz := rfl
@[simp] theorem setVoice_mir : (setVoice n f s).mir = s.mir := rfl
@[simp] theorem setVoice_vib : (setVoice n f s).vib = s.vib := rfl
@[simp] theorem setVoice_ens : (setVoice n f s).ens = s.ens := rfl
end

section
variable {i : Island} {f : IslandSt → IslandSt} {s : State}
@[simp] theorem setIsl_pending : (setIsl i f s).pending = s.pending := rfl
@[simp] theorem setIsl_clk : (setIsl i f s).clk = s.clk := rfl
@[simp] theorem setIsl_freeCtr : (setIsl i f s).freeCtr = s.freeCtr := rfl
@[simp] theorem setIsl_porst : (setIsl i f s).porst = s.porst := rfl
@[simp] theorem setIsl_fuses : (setIsl i f s).fuses = s.fuses := rfl
@[simp] theorem setIsl_glb : (setIsl i f s).glb = s.glb := rfl
@[simp] theorem setIsl_brg : (setIsl i f s).brg = s.brg := rfl
@[simp] theorem setIsl_tbs : (setIsl i f s).tbs = s.tbs := rfl
@[simp] theorem setIsl_dbOut : (setIsl i f s).dbOut = s.dbOut := rfl
@[simp] theorem setIsl_bsc : (setIsl i f s).bsc = s.bsc := rfl
@[simp] theorem setIsl_score : (setIsl i f s).score = s.score := rfl
@[simp] theorem setIsl_link : (setIsl i f s).link = s.link := rfl
@[simp] theorem setIsl_out : (setIsl i f s).out = s.out := rfl
@[simp] theorem setIsl_hif : (setIsl i f s).hif = s.hif := rfl
@[simp] theorem setIsl_objs : (setIsl i f s).objs = s.objs := rfl
@[simp] theorem setIsl_cmds : (setIsl i f s).cmds = s.cmds := rfl
@[simp] theorem setIsl_nextCmd : (setIsl i f s).nextCmd = s.nextCmd := rfl
@[simp] theorem setIsl_ctxs : (setIsl i f s).ctxs = s.ctxs := rfl
@[simp] theorem setIsl_masks : (setIsl i f s).masks = s.masks := rfl
@[simp] theorem setIsl_defMask : (setIsl i f s).defMask = s.defMask := rfl
@[simp] theorem setIsl_models : (setIsl i f s).models = s.models := rfl
@[simp] theorem setIsl_jobs : (setIsl i f s).jobs = s.jobs := rfl
@[simp] theorem setIsl_early : (setIsl i f s).early = s.early := rfl
@[simp] theorem setIsl_passes : (setIsl i f s).passes = s.passes := rfl
@[simp] theorem setIsl_strips : (setIsl i f s).strips = s.strips := rfl
@[simp] theorem setIsl_str : (setIsl i f s).str = s.str := rfl
@[simp] theorem setIsl_apt : (setIsl i f s).apt = s.apt := rfl
@[simp] theorem setIsl_nand : (setIsl i f s).nand = s.nand := rfl
@[simp] theorem setIsl_flc : (setIsl i f s).flc = s.flc := rfl
@[simp] theorem setIsl_evc : (setIsl i f s).evc = s.evc := rfl
@[simp] theorem setIsl_pwr : (setIsl i f s).pwr = s.pwr := rfl
@[simp] theorem setIsl_jtag : (setIsl i f s).jtag = s.jtag := rfl
@[simp] theorem setIsl_mem : (setIsl i f s).mem = s.mem := rfl
@[simp] theorem setIsl_bad : (setIsl i f s).bad = s.bad := rfl
@[simp] theorem setIsl_dmc : (setIsl i f s).dmc = s.dmc := rfl
@[simp] theorem setIsl_voices : (setIsl i f s).voices = s.voices := rfl
@[simp] theorem setIsl_sections : (setIsl i f s).sections = s.sections := rfl
@[simp] theorem setIsl_sets : (setIsl i f s).sets = s.sets := rfl
@[simp] theorem setIsl_prz : (setIsl i f s).prz = s.prz := rfl
@[simp] theorem setIsl_mir : (setIsl i f s).mir = s.mir := rfl
@[simp] theorem setIsl_vib : (setIsl i f s).vib = s.vib := rfl
@[simp] theorem setIsl_ens : (setIsl i f s).ens = s.ens := rfl
end

section
variable {p : Part} {f : Page → Page} {s : State}
@[simp] theorem setPage_pending : (setPage p f s).pending = s.pending := rfl
@[simp] theorem setPage_clk : (setPage p f s).clk = s.clk := rfl
@[simp] theorem setPage_freeCtr : (setPage p f s).freeCtr = s.freeCtr := rfl
@[simp] theorem setPage_porst : (setPage p f s).porst = s.porst := rfl
@[simp] theorem setPage_fuses : (setPage p f s).fuses = s.fuses := rfl
@[simp] theorem setPage_glb : (setPage p f s).glb = s.glb := rfl
@[simp] theorem setPage_brg : (setPage p f s).brg = s.brg := rfl
@[simp] theorem setPage_isl : (setPage p f s).isl = s.isl := rfl
@[simp] theorem setPage_tbs : (setPage p f s).tbs = s.tbs := rfl
@[simp] theorem setPage_dbOut : (setPage p f s).dbOut = s.dbOut := rfl
@[simp] theorem setPage_bsc : (setPage p f s).bsc = s.bsc := rfl
@[simp] theorem setPage_score : (setPage p f s).score = s.score := rfl
@[simp] theorem setPage_link : (setPage p f s).link = s.link := rfl
@[simp] theorem setPage_out : (setPage p f s).out = s.out := rfl
@[simp] theorem setPage_objs : (setPage p f s).objs = s.objs := rfl
@[simp] theorem setPage_cmds : (setPage p f s).cmds = s.cmds := rfl
@[simp] theorem setPage_nextCmd : (setPage p f s).nextCmd = s.nextCmd := rfl
@[simp] theorem setPage_ctxs : (setPage p f s).ctxs = s.ctxs := rfl
@[simp] theorem setPage_masks : (setPage p f s).masks = s.masks := rfl
@[simp] theorem setPage_defMask : (setPage p f s).defMask = s.defMask := rfl
@[simp] theorem setPage_models : (setPage p f s).models = s.models := rfl
@[simp] theorem setPage_jobs : (setPage p f s).jobs = s.jobs := rfl
@[simp] theorem setPage_early : (setPage p f s).early = s.early := rfl
@[simp] theorem setPage_passes : (setPage p f s).passes = s.passes := rfl
@[simp] theorem setPage_strips : (setPage p f s).strips = s.strips := rfl
@[simp] theorem setPage_str : (setPage p f s).str = s.str := rfl
@[simp] theorem setPage_apt : (setPage p f s).apt = s.apt := rfl
@[simp] theorem setPage_nand : (setPage p f s).nand = s.nand := rfl
@[simp] theorem setPage_flc : (setPage p f s).flc = s.flc := rfl
@[simp] theorem setPage_evc : (setPage p f s).evc = s.evc := rfl
@[simp] theorem setPage_pwr : (setPage p f s).pwr = s.pwr := rfl
@[simp] theorem setPage_jtag : (setPage p f s).jtag = s.jtag := rfl
@[simp] theorem setPage_mem : (setPage p f s).mem = s.mem := rfl
@[simp] theorem setPage_bad : (setPage p f s).bad = s.bad := rfl
@[simp] theorem setPage_dmc : (setPage p f s).dmc = s.dmc := rfl
@[simp] theorem setPage_voices : (setPage p f s).voices = s.voices := rfl
@[simp] theorem setPage_sections : (setPage p f s).sections = s.sections := rfl
@[simp] theorem setPage_sets : (setPage p f s).sets = s.sets := rfl
@[simp] theorem setPage_prz : (setPage p f s).prz = s.prz := rfl
@[simp] theorem setPage_mir : (setPage p f s).mir = s.mir := rfl
@[simp] theorem setPage_vib : (setPage p f s).vib = s.vib := rfl
@[simp] theorem setPage_ens : (setPage p f s).ens = s.ens := rfl
end

section
variable {id : Nat} {f : Cmd → Cmd} {s : State}
@[simp] theorem setCmd_pending : (setCmd id f s).pending = s.pending := rfl
@[simp] theorem setCmd_clk : (setCmd id f s).clk = s.clk := rfl
@[simp] theorem setCmd_freeCtr : (setCmd id f s).freeCtr = s.freeCtr := rfl
@[simp] theorem setCmd_porst : (setCmd id f s).porst = s.porst := rfl
@[simp] theorem setCmd_fuses : (setCmd id f s).fuses = s.fuses := rfl
@[simp] theorem setCmd_glb : (setCmd id f s).glb = s.glb := rfl
@[simp] theorem setCmd_brg : (setCmd id f s).brg = s.brg := rfl
@[simp] theorem setCmd_isl : (setCmd id f s).isl = s.isl := rfl
@[simp] theorem setCmd_tbs : (setCmd id f s).tbs = s.tbs := rfl
@[simp] theorem setCmd_dbOut : (setCmd id f s).dbOut = s.dbOut := rfl
@[simp] theorem setCmd_bsc : (setCmd id f s).bsc = s.bsc := rfl
@[simp] theorem setCmd_score : (setCmd id f s).score = s.score := rfl
@[simp] theorem setCmd_link : (setCmd id f s).link = s.link := rfl
@[simp] theorem setCmd_out : (setCmd id f s).out = s.out := rfl
@[simp] theorem setCmd_hif : (setCmd id f s).hif = s.hif := rfl
@[simp] theorem setCmd_objs : (setCmd id f s).objs = s.objs := rfl
@[simp] theorem setCmd_nextCmd : (setCmd id f s).nextCmd = s.nextCmd := rfl
@[simp] theorem setCmd_ctxs : (setCmd id f s).ctxs = s.ctxs := rfl
@[simp] theorem setCmd_masks : (setCmd id f s).masks = s.masks := rfl
@[simp] theorem setCmd_defMask : (setCmd id f s).defMask = s.defMask := rfl
@[simp] theorem setCmd_models : (setCmd id f s).models = s.models := rfl
@[simp] theorem setCmd_jobs : (setCmd id f s).jobs = s.jobs := rfl
@[simp] theorem setCmd_early : (setCmd id f s).early = s.early := rfl
@[simp] theorem setCmd_passes : (setCmd id f s).passes = s.passes := rfl
@[simp] theorem setCmd_strips : (setCmd id f s).strips = s.strips := rfl
@[simp] theorem setCmd_str : (setCmd id f s).str = s.str := rfl
@[simp] theorem setCmd_apt : (setCmd id f s).apt = s.apt := rfl
@[simp] theorem setCmd_nand : (setCmd id f s).nand = s.nand := rfl
@[simp] theorem setCmd_flc : (setCmd id f s).flc = s.flc := rfl
@[simp] theorem setCmd_evc : (setCmd id f s).evc = s.evc := rfl
@[simp] theorem setCmd_pwr : (setCmd id f s).pwr = s.pwr := rfl
@[simp] theorem setCmd_jtag : (setCmd id f s).jtag = s.jtag := rfl
@[simp] theorem setCmd_mem : (setCmd id f s).mem = s.mem := rfl
@[simp] theorem setCmd_bad : (setCmd id f s).bad = s.bad := rfl
@[simp] theorem setCmd_dmc : (setCmd id f s).dmc = s.dmc := rfl
@[simp] theorem setCmd_voices : (setCmd id f s).voices = s.voices := rfl
@[simp] theorem setCmd_sections : (setCmd id f s).sections = s.sections := rfl
@[simp] theorem setCmd_sets : (setCmd id f s).sets = s.sets := rfl
@[simp] theorem setCmd_prz : (setCmd id f s).prz = s.prz := rfl
@[simp] theorem setCmd_mir : (setCmd id f s).mir = s.mir := rfl
@[simp] theorem setCmd_vib : (setCmd id f s).vib = s.vib := rfl
@[simp] theorem setCmd_ens : (setCmd id f s).ens = s.ens := rfl
end

section
variable {p : Part} {key : Nat} {f : Ctx → Ctx} {s : State}
@[simp] theorem setCtx_pending : (setCtx p key f s).pending = s.pending := rfl
@[simp] theorem setCtx_clk : (setCtx p key f s).clk = s.clk := rfl
@[simp] theorem setCtx_freeCtr : (setCtx p key f s).freeCtr = s.freeCtr := rfl
@[simp] theorem setCtx_porst : (setCtx p key f s).porst = s.porst := rfl
@[simp] theorem setCtx_fuses : (setCtx p key f s).fuses = s.fuses := rfl
@[simp] theorem setCtx_glb : (setCtx p key f s).glb = s.glb := rfl
@[simp] theorem setCtx_brg : (setCtx p key f s).brg = s.brg := rfl
@[simp] theorem setCtx_isl : (setCtx p key f s).isl = s.isl := rfl
@[simp] theorem setCtx_tbs : (setCtx p key f s).tbs = s.tbs := rfl
@[simp] theorem setCtx_dbOut : (setCtx p key f s).dbOut = s.dbOut := rfl
@[simp] theorem setCtx_bsc : (setCtx p key f s).bsc = s.bsc := rfl
@[simp] theorem setCtx_score : (setCtx p key f s).score = s.score := rfl
@[simp] theorem setCtx_link : (setCtx p key f s).link = s.link := rfl
@[simp] theorem setCtx_out : (setCtx p key f s).out = s.out := rfl
@[simp] theorem setCtx_hif : (setCtx p key f s).hif = s.hif := rfl
@[simp] theorem setCtx_objs : (setCtx p key f s).objs = s.objs := rfl
@[simp] theorem setCtx_cmds : (setCtx p key f s).cmds = s.cmds := rfl
@[simp] theorem setCtx_nextCmd : (setCtx p key f s).nextCmd = s.nextCmd := rfl
@[simp] theorem setCtx_masks : (setCtx p key f s).masks = s.masks := rfl
@[simp] theorem setCtx_defMask : (setCtx p key f s).defMask = s.defMask := rfl
@[simp] theorem setCtx_models : (setCtx p key f s).models = s.models := rfl
@[simp] theorem setCtx_jobs : (setCtx p key f s).jobs = s.jobs := rfl
@[simp] theorem setCtx_early : (setCtx p key f s).early = s.early := rfl
@[simp] theorem setCtx_passes : (setCtx p key f s).passes = s.passes := rfl
@[simp] theorem setCtx_strips : (setCtx p key f s).strips = s.strips := rfl
@[simp] theorem setCtx_str : (setCtx p key f s).str = s.str := rfl
@[simp] theorem setCtx_apt : (setCtx p key f s).apt = s.apt := rfl
@[simp] theorem setCtx_nand : (setCtx p key f s).nand = s.nand := rfl
@[simp] theorem setCtx_flc : (setCtx p key f s).flc = s.flc := rfl
@[simp] theorem setCtx_evc : (setCtx p key f s).evc = s.evc := rfl
@[simp] theorem setCtx_pwr : (setCtx p key f s).pwr = s.pwr := rfl
@[simp] theorem setCtx_jtag : (setCtx p key f s).jtag = s.jtag := rfl
@[simp] theorem setCtx_mem : (setCtx p key f s).mem = s.mem := rfl
@[simp] theorem setCtx_bad : (setCtx p key f s).bad = s.bad := rfl
@[simp] theorem setCtx_dmc : (setCtx p key f s).dmc = s.dmc := rfl
@[simp] theorem setCtx_voices : (setCtx p key f s).voices = s.voices := rfl
@[simp] theorem setCtx_sections : (setCtx p key f s).sections = s.sections := rfl
@[simp] theorem setCtx_sets : (setCtx p key f s).sets = s.sets := rfl
@[simp] theorem setCtx_prz : (setCtx p key f s).prz = s.prz := rfl
@[simp] theorem setCtx_mir : (setCtx p key f s).mir = s.mir := rfl
@[simp] theorem setCtx_vib : (setCtx p key f s).vib = s.vib := rfl
@[simp] theorem setCtx_ens : (setCtx p key f s).ens = s.ens := rfl
end

section
variable {h : Handle} {f : Model → Model} {s : State}
@[simp] theorem setModel_pending : (setModel h f s).pending = s.pending := rfl
@[simp] theorem setModel_clk : (setModel h f s).clk = s.clk := rfl
@[simp] theorem setModel_freeCtr : (setModel h f s).freeCtr = s.freeCtr := rfl
@[simp] theorem setModel_porst : (setModel h f s).porst = s.porst := rfl
@[simp] theorem setModel_fuses : (setModel h f s).fuses = s.fuses := rfl
@[simp] theorem setModel_glb : (setModel h f s).glb = s.glb := rfl
@[simp] theorem setModel_brg : (setModel h f s).brg = s.brg := rfl
@[simp] theorem setModel_isl : (setModel h f s).isl = s.isl := rfl
@[simp] theorem setModel_tbs : (setModel h f s).tbs = s.tbs := rfl
@[simp] theorem setModel_dbOut : (setModel h f s).dbOut = s.dbOut := rfl
@[simp] theorem setModel_bsc : (setModel h f s).bsc = s.bsc := rfl
@[simp] theorem setModel_score : (setModel h f s).score = s.score := rfl
@[simp] theorem setModel_link : (setModel h f s).link = s.link := rfl
@[simp] theorem setModel_out : (setModel h f s).out = s.out := rfl
@[simp] theorem setModel_hif : (setModel h f s).hif = s.hif := rfl
@[simp] theorem setModel_objs : (setModel h f s).objs = s.objs := rfl
@[simp] theorem setModel_cmds : (setModel h f s).cmds = s.cmds := rfl
@[simp] theorem setModel_nextCmd : (setModel h f s).nextCmd = s.nextCmd := rfl
@[simp] theorem setModel_ctxs : (setModel h f s).ctxs = s.ctxs := rfl
@[simp] theorem setModel_masks : (setModel h f s).masks = s.masks := rfl
@[simp] theorem setModel_defMask : (setModel h f s).defMask = s.defMask := rfl
@[simp] theorem setModel_jobs : (setModel h f s).jobs = s.jobs := rfl
@[simp] theorem setModel_early : (setModel h f s).early = s.early := rfl
@[simp] theorem setModel_passes : (setModel h f s).passes = s.passes := rfl
@[simp] theorem setModel_strips : (setModel h f s).strips = s.strips := rfl
@[simp] theorem setModel_str : (setModel h f s).str = s.str := rfl
@[simp] theorem setModel_apt : (setModel h f s).apt = s.apt := rfl
@[simp] theorem setModel_nand : (setModel h f s).nand = s.nand := rfl
@[simp] theorem setModel_flc : (setModel h f s).flc = s.flc := rfl
@[simp] theorem setModel_evc : (setModel h f s).evc = s.evc := rfl
@[simp] theorem setModel_pwr : (setModel h f s).pwr = s.pwr := rfl
@[simp] theorem setModel_jtag : (setModel h f s).jtag = s.jtag := rfl
@[simp] theorem setModel_mem : (setModel h f s).mem = s.mem := rfl
@[simp] theorem setModel_bad : (setModel h f s).bad = s.bad := rfl
@[simp] theorem setModel_dmc : (setModel h f s).dmc = s.dmc := rfl
@[simp] theorem setModel_voices : (setModel h f s).voices = s.voices := rfl
@[simp] theorem setModel_sections : (setModel h f s).sections = s.sections := rfl
@[simp] theorem setModel_sets : (setModel h f s).sets = s.sets := rfl
@[simp] theorem setModel_prz : (setModel h f s).prz = s.prz := rfl
@[simp] theorem setModel_mir : (setModel h f s).mir = s.mir := rfl
@[simp] theorem setModel_vib : (setModel h f s).vib = s.vib := rfl
@[simp] theorem setModel_ens : (setModel h f s).ens = s.ens := rfl
end

section
variable {d : Fin 2} {f : Dmc → Dmc} {s : State}
@[simp] theorem setDmc_pending : (setDmc d f s).pending = s.pending := rfl
@[simp] theorem setDmc_clk : (setDmc d f s).clk = s.clk := rfl
@[simp] theorem setDmc_freeCtr : (setDmc d f s).freeCtr = s.freeCtr := rfl
@[simp] theorem setDmc_porst : (setDmc d f s).porst = s.porst := rfl
@[simp] theorem setDmc_fuses : (setDmc d f s).fuses = s.fuses := rfl
@[simp] theorem setDmc_glb : (setDmc d f s).glb = s.glb := rfl
@[simp] theorem setDmc_brg : (setDmc d f s).brg = s.brg := rfl
@[simp] theorem setDmc_isl : (setDmc d f s).isl = s.isl := rfl
@[simp] theorem setDmc_tbs : (setDmc d f s).tbs = s.tbs := rfl
@[simp] theorem setDmc_dbOut : (setDmc d f s).dbOut = s.dbOut := rfl
@[simp] theorem setDmc_bsc : (setDmc d f s).bsc = s.bsc := rfl
@[simp] theorem setDmc_score : (setDmc d f s).score = s.score := rfl
@[simp] theorem setDmc_link : (setDmc d f s).link = s.link := rfl
@[simp] theorem setDmc_out : (setDmc d f s).out = s.out := rfl
@[simp] theorem setDmc_hif : (setDmc d f s).hif = s.hif := rfl
@[simp] theorem setDmc_objs : (setDmc d f s).objs = s.objs := rfl
@[simp] theorem setDmc_cmds : (setDmc d f s).cmds = s.cmds := rfl
@[simp] theorem setDmc_nextCmd : (setDmc d f s).nextCmd = s.nextCmd := rfl
@[simp] theorem setDmc_ctxs : (setDmc d f s).ctxs = s.ctxs := rfl
@[simp] theorem setDmc_masks : (setDmc d f s).masks = s.masks := rfl
@[simp] theorem setDmc_defMask : (setDmc d f s).defMask = s.defMask := rfl
@[simp] theorem setDmc_models : (setDmc d f s).models = s.models := rfl
@[simp] theorem setDmc_jobs : (setDmc d f s).jobs = s.jobs := rfl
@[simp] theorem setDmc_early : (setDmc d f s).early = s.early := rfl
@[simp] theorem setDmc_passes : (setDmc d f s).passes = s.passes := rfl
@[simp] theorem setDmc_strips : (setDmc d f s).strips = s.strips := rfl
@[simp] theorem setDmc_str : (setDmc d f s).str = s.str := rfl
@[simp] theorem setDmc_apt : (setDmc d f s).apt = s.apt := rfl
@[simp] theorem setDmc_nand : (setDmc d f s).nand = s.nand := rfl
@[simp] theorem setDmc_flc : (setDmc d f s).flc = s.flc := rfl
@[simp] theorem setDmc_evc : (setDmc d f s).evc = s.evc := rfl
@[simp] theorem setDmc_pwr : (setDmc d f s).pwr = s.pwr := rfl
@[simp] theorem setDmc_jtag : (setDmc d f s).jtag = s.jtag := rfl
@[simp] theorem setDmc_mem : (setDmc d f s).mem = s.mem := rfl
@[simp] theorem setDmc_bad : (setDmc d f s).bad = s.bad := rfl
@[simp] theorem setDmc_voices : (setDmc d f s).voices = s.voices := rfl
@[simp] theorem setDmc_sections : (setDmc d f s).sections = s.sections := rfl
@[simp] theorem setDmc_sets : (setDmc d f s).sets = s.sets := rfl
@[simp] theorem setDmc_prz : (setDmc d f s).prz = s.prz := rfl
@[simp] theorem setDmc_mir : (setDmc d f s).mir = s.mir := rfl
@[simp] theorem setDmc_vib : (setDmc d f s).vib = s.vib := rfl
@[simp] theorem setDmc_ens : (setDmc d f s).ens = s.ens := rfl
end

section
variable {c : Chan} {f : Channel → Channel} {s : State}
@[simp] theorem setChan_pending : (setChan c f s).pending = s.pending := rfl
@[simp] theorem setChan_clk : (setChan c f s).clk = s.clk := rfl
@[simp] theorem setChan_freeCtr : (setChan c f s).freeCtr = s.freeCtr := rfl
@[simp] theorem setChan_porst : (setChan c f s).porst = s.porst := rfl
@[simp] theorem setChan_fuses : (setChan c f s).fuses = s.fuses := rfl
@[simp] theorem setChan_glb : (setChan c f s).glb = s.glb := rfl
@[simp] theorem setChan_brg : (setChan c f s).brg = s.brg := rfl
@[simp] theorem setChan_isl : (setChan c f s).isl = s.isl := rfl
@[simp] theorem setChan_tbs : (setChan c f s).tbs = s.tbs := rfl
@[simp] theorem setChan_dbOut : (setChan c f s).dbOut = s.dbOut := rfl
@[simp] theorem setChan_bsc : (setChan c f s).bsc = s.bsc := rfl
@[simp] theorem setChan_score : (setChan c f s).score = s.score := rfl
@[simp] theorem setChan_link : (setChan c f s).link = s.link := rfl
@[simp] theorem setChan_out : (setChan c f s).out = s.out := rfl
@[simp] theorem setChan_hif : (setChan c f s).hif = s.hif := rfl
@[simp] theorem setChan_objs : (setChan c f s).objs = s.objs := rfl
@[simp] theorem setChan_cmds : (setChan c f s).cmds = s.cmds := rfl
@[simp] theorem setChan_nextCmd : (setChan c f s).nextCmd = s.nextCmd := rfl
@[simp] theorem setChan_ctxs : (setChan c f s).ctxs = s.ctxs := rfl
@[simp] theorem setChan_masks : (setChan c f s).masks = s.masks := rfl
@[simp] theorem setChan_defMask : (setChan c f s).defMask = s.defMask := rfl
@[simp] theorem setChan_models : (setChan c f s).models = s.models := rfl
@[simp] theorem setChan_jobs : (setChan c f s).jobs = s.jobs := rfl
@[simp] theorem setChan_early : (setChan c f s).early = s.early := rfl
@[simp] theorem setChan_passes : (setChan c f s).passes = s.passes := rfl
@[simp] theorem setChan_strips : (setChan c f s).strips = s.strips := rfl
@[simp] theorem setChan_str : (setChan c f s).str = s.str := rfl
@[simp] theorem setChan_apt : (setChan c f s).apt = s.apt := rfl
@[simp] theorem setChan_nand : (setChan c f s).nand = s.nand := rfl
@[simp] theorem setChan_flc : (setChan c f s).flc = s.flc := rfl
@[simp] theorem setChan_evc : (setChan c f s).evc = s.evc := rfl
@[simp] theorem setChan_pwr : (setChan c f s).pwr = s.pwr := rfl
@[simp] theorem setChan_jtag : (setChan c f s).jtag = s.jtag := rfl
@[simp] theorem setChan_mem : (setChan c f s).mem = s.mem := rfl
@[simp] theorem setChan_bad : (setChan c f s).bad = s.bad := rfl
@[simp] theorem setChan_voices : (setChan c f s).voices = s.voices := rfl
@[simp] theorem setChan_sections : (setChan c f s).sections = s.sections := rfl
@[simp] theorem setChan_sets : (setChan c f s).sets = s.sets := rfl
@[simp] theorem setChan_prz : (setChan c f s).prz = s.prz := rfl
@[simp] theorem setChan_mir : (setChan c f s).mir = s.mir := rfl
@[simp] theorem setChan_vib : (setChan c f s).vib = s.vib := rfl
@[simp] theorem setChan_ens : (setChan c f s).ens = s.ens := rfl
end

section
variable {m : Fin 4} {f : SectionSt → SectionSt} {s : State}
@[simp] theorem setSection_pending : (setSection m f s).pending = s.pending := rfl
@[simp] theorem setSection_clk : (setSection m f s).clk = s.clk := rfl
@[simp] theorem setSection_freeCtr : (setSection m f s).freeCtr = s.freeCtr := rfl
@[simp] theorem setSection_porst : (setSection m f s).porst = s.porst := rfl
@[simp] theorem setSection_fuses : (setSection m f s).fuses = s.fuses := rfl
@[simp] theorem setSection_glb : (setSection m f s).glb = s.glb := rfl
@[simp] theorem setSection_brg : (setSection m f s).brg = s.brg := rfl
@[simp] theorem setSection_isl : (setSection m f s).isl = s.isl := rfl
@[simp] theorem setSection_tbs : (setSection m f s).tbs = s.tbs := rfl
@[simp] theorem setSection_dbOut : (setSection m f s).dbOut = s.dbOut := rfl
@[simp] theorem setSection_bsc : (setSection m f s).bsc = s.bsc := rfl
@[simp] theorem setSection_score : (setSection m f s).score = s.score := rfl
@[simp] theorem setSection_link : (setSection m f s).link = s.link := rfl
@[simp] theorem setSection_out : (setSection m f s).out = s.out := rfl
@[simp] theorem setSection_hif : (setSection m f s).hif = s.hif := rfl
@[simp] theorem setSection_objs : (setSection m f s).objs = s.objs := rfl
@[simp] theorem setSection_cmds : (setSection m f s).cmds = s.cmds := rfl
@[simp] theorem setSection_nextCmd : (setSection m f s).nextCmd = s.nextCmd := rfl
@[simp] theorem setSection_ctxs : (setSection m f s).ctxs = s.ctxs := rfl
@[simp] theorem setSection_masks : (setSection m f s).masks = s.masks := rfl
@[simp] theorem setSection_defMask : (setSection m f s).defMask = s.defMask := rfl
@[simp] theorem setSection_models : (setSection m f s).models = s.models := rfl
@[simp] theorem setSection_jobs : (setSection m f s).jobs = s.jobs := rfl
@[simp] theorem setSection_early : (setSection m f s).early = s.early := rfl
@[simp] theorem setSection_passes : (setSection m f s).passes = s.passes := rfl
@[simp] theorem setSection_strips : (setSection m f s).strips = s.strips := rfl
@[simp] theorem setSection_str : (setSection m f s).str = s.str := rfl
@[simp] theorem setSection_apt : (setSection m f s).apt = s.apt := rfl
@[simp] theorem setSection_nand : (setSection m f s).nand = s.nand := rfl
@[simp] theorem setSection_flc : (setSection m f s).flc = s.flc := rfl
@[simp] theorem setSection_evc : (setSection m f s).evc = s.evc := rfl
@[simp] theorem setSection_pwr : (setSection m f s).pwr = s.pwr := rfl
@[simp] theorem setSection_jtag : (setSection m f s).jtag = s.jtag := rfl
@[simp] theorem setSection_mem : (setSection m f s).mem = s.mem := rfl
@[simp] theorem setSection_bad : (setSection m f s).bad = s.bad := rfl
@[simp] theorem setSection_dmc : (setSection m f s).dmc = s.dmc := rfl
@[simp] theorem setSection_voices : (setSection m f s).voices = s.voices := rfl
@[simp] theorem setSection_sets : (setSection m f s).sets = s.sets := rfl
@[simp] theorem setSection_prz : (setSection m f s).prz = s.prz := rfl
@[simp] theorem setSection_mir : (setSection m f s).mir = s.mir := rfl
@[simp] theorem setSection_vib : (setSection m f s).vib = s.vib := rfl
@[simp] theorem setSection_ens : (setSection m f s).ens = s.ens := rfl
end

section
variable {f : Bsc → Bsc} {s : State}
@[simp] theorem setBsc_pending : (setBsc f s).pending = s.pending := rfl
@[simp] theorem setBsc_clk : (setBsc f s).clk = s.clk := rfl
@[simp] theorem setBsc_freeCtr : (setBsc f s).freeCtr = s.freeCtr := rfl
@[simp] theorem setBsc_porst : (setBsc f s).porst = s.porst := rfl
@[simp] theorem setBsc_fuses : (setBsc f s).fuses = s.fuses := rfl
@[simp] theorem setBsc_glb : (setBsc f s).glb = s.glb := rfl
@[simp] theorem setBsc_brg : (setBsc f s).brg = s.brg := rfl
@[simp] theorem setBsc_isl : (setBsc f s).isl = s.isl := rfl
@[simp] theorem setBsc_tbs : (setBsc f s).tbs = s.tbs := rfl
@[simp] theorem setBsc_dbOut : (setBsc f s).dbOut = s.dbOut := rfl
@[simp] theorem setBsc_score : (setBsc f s).score = s.score := rfl
@[simp] theorem setBsc_link : (setBsc f s).link = s.link := rfl
@[simp] theorem setBsc_out : (setBsc f s).out = s.out := rfl
@[simp] theorem setBsc_hif : (setBsc f s).hif = s.hif := rfl
@[simp] theorem setBsc_objs : (setBsc f s).objs = s.objs := rfl
@[simp] theorem setBsc_cmds : (setBsc f s).cmds = s.cmds := rfl
@[simp] theorem setBsc_nextCmd : (setBsc f s).nextCmd = s.nextCmd := rfl
@[simp] theorem setBsc_ctxs : (setBsc f s).ctxs = s.ctxs := rfl
@[simp] theorem setBsc_masks : (setBsc f s).masks = s.masks := rfl
@[simp] theorem setBsc_defMask : (setBsc f s).defMask = s.defMask := rfl
@[simp] theorem setBsc_models : (setBsc f s).models = s.models := rfl
@[simp] theorem setBsc_jobs : (setBsc f s).jobs = s.jobs := rfl
@[simp] theorem setBsc_early : (setBsc f s).early = s.early := rfl
@[simp] theorem setBsc_passes : (setBsc f s).passes = s.passes := rfl
@[simp] theorem setBsc_strips : (setBsc f s).strips = s.strips := rfl
@[simp] theorem setBsc_str : (setBsc f s).str = s.str := rfl
@[simp] theorem setBsc_apt : (setBsc f s).apt = s.apt := rfl
@[simp] theorem setBsc_nand : (setBsc f s).nand = s.nand := rfl
@[simp] theorem setBsc_flc : (setBsc f s).flc = s.flc := rfl
@[simp] theorem setBsc_evc : (setBsc f s).evc = s.evc := rfl
@[simp] theorem setBsc_pwr : (setBsc f s).pwr = s.pwr := rfl
@[simp] theorem setBsc_jtag : (setBsc f s).jtag = s.jtag := rfl
@[simp] theorem setBsc_mem : (setBsc f s).mem = s.mem := rfl
@[simp] theorem setBsc_bad : (setBsc f s).bad = s.bad := rfl
@[simp] theorem setBsc_dmc : (setBsc f s).dmc = s.dmc := rfl
@[simp] theorem setBsc_voices : (setBsc f s).voices = s.voices := rfl
@[simp] theorem setBsc_sections : (setBsc f s).sections = s.sections := rfl
@[simp] theorem setBsc_sets : (setBsc f s).sets = s.sets := rfl
@[simp] theorem setBsc_prz : (setBsc f s).prz = s.prz := rfl
@[simp] theorem setBsc_mir : (setBsc f s).mir = s.mir := rfl
@[simp] theorem setBsc_vib : (setBsc f s).vib = s.vib := rfl
@[simp] theorem setBsc_ens : (setBsc f s).ens = s.ens := rfl
end

section
variable {f : Pwr → Pwr} {s : State}
@[simp] theorem setPwr_pending : (setPwr f s).pending = s.pending := rfl
@[simp] theorem setPwr_clk : (setPwr f s).clk = s.clk := rfl
@[simp] theorem setPwr_freeCtr : (setPwr f s).freeCtr = s.freeCtr := rfl
@[simp] theorem setPwr_porst : (setPwr f s).porst = s.porst := rfl
@[simp] theorem setPwr_fuses : (setPwr f s).fuses = s.fuses := rfl
@[simp] theorem setPwr_glb : (setPwr f s).glb = s.glb := rfl
@[simp] theorem setPwr_brg : (setPwr f s).brg = s.brg := rfl
@[simp] theorem setPwr_isl : (setPwr f s).isl = s.isl := rfl
@[simp] theorem setPwr_tbs : (setPwr f s).tbs = s.tbs := rfl
@[simp] theorem setPwr_dbOut : (setPwr f s).dbOut = s.dbOut := rfl
@[simp] theorem setPwr_bsc : (setPwr f s).bsc = s.bsc := rfl
@[simp] theorem setPwr_score : (setPwr f s).score = s.score := rfl
@[simp] theorem setPwr_link : (setPwr f s).link = s.link := rfl
@[simp] theorem setPwr_out : (setPwr f s).out = s.out := rfl
@[simp] theorem setPwr_hif : (setPwr f s).hif = s.hif := rfl
@[simp] theorem setPwr_objs : (setPwr f s).objs = s.objs := rfl
@[simp] theorem setPwr_cmds : (setPwr f s).cmds = s.cmds := rfl
@[simp] theorem setPwr_nextCmd : (setPwr f s).nextCmd = s.nextCmd := rfl
@[simp] theorem setPwr_ctxs : (setPwr f s).ctxs = s.ctxs := rfl
@[simp] theorem setPwr_masks : (setPwr f s).masks = s.masks := rfl
@[simp] theorem setPwr_defMask : (setPwr f s).defMask = s.defMask := rfl
@[simp] theorem setPwr_models : (setPwr f s).models = s.models := rfl
@[simp] theorem setPwr_jobs : (setPwr f s).jobs = s.jobs := rfl
@[simp] theorem setPwr_early : (setPwr f s).early = s.early := rfl
@[simp] theorem setPwr_passes : (setPwr f s).passes = s.passes := rfl
@[simp] theorem setPwr_strips : (setPwr f s).strips = s.strips := rfl
@[simp] theorem setPwr_str : (setPwr f s).str = s.str := rfl
@[simp] theorem setPwr_apt : (setPwr f s).apt = s.apt := rfl
@[simp] theorem setPwr_nand : (setPwr f s).nand = s.nand := rfl
@[simp] theorem setPwr_flc : (setPwr f s).flc = s.flc := rfl
@[simp] theorem setPwr_evc : (setPwr f s).evc = s.evc := rfl
@[simp] theorem setPwr_jtag : (setPwr f s).jtag = s.jtag := rfl
@[simp] theorem setPwr_mem : (setPwr f s).mem = s.mem := rfl
@[simp] theorem setPwr_bad : (setPwr f s).bad = s.bad := rfl
@[simp] theorem setPwr_dmc : (setPwr f s).dmc = s.dmc := rfl
@[simp] theorem setPwr_voices : (setPwr f s).voices = s.voices := rfl
@[simp] theorem setPwr_sections : (setPwr f s).sections = s.sections := rfl
@[simp] theorem setPwr_sets : (setPwr f s).sets = s.sets := rfl
@[simp] theorem setPwr_prz : (setPwr f s).prz = s.prz := rfl
@[simp] theorem setPwr_mir : (setPwr f s).mir = s.mir := rfl
@[simp] theorem setPwr_vib : (setPwr f s).vib = s.vib := rfl
@[simp] theorem setPwr_ens : (setPwr f s).ens = s.ens := rfl
end

section
variable {f : Glb → Glb} {s : State}
@[simp] theorem setGlb_pending : (setGlb f s).pending = s.pending := rfl
@[simp] theorem setGlb_clk : (setGlb f s).clk = s.clk := rfl
@[simp] theorem setGlb_freeCtr : (setGlb f s).freeCtr = s.freeCtr := rfl
@[simp] theorem setGlb_porst : (setGlb f s).porst = s.porst := rfl
@[simp] theorem setGlb_fuses : (setGlb f s).fuses = s.fuses := rfl
@[simp] theorem setGlb_brg : (setGlb f s).brg = s.brg := rfl
@[simp] theorem setGlb_isl : (setGlb f s).isl = s.isl := rfl
@[simp] theorem setGlb_tbs : (setGlb f s).tbs = s.tbs := rfl
@[simp] theorem setGlb_dbOut : (setGlb f s).dbOut = s.dbOut := rfl
@[simp] theorem setGlb_bsc : (setGlb f s).bsc = s.bsc := rfl
@[simp] theorem setGlb_score : (setGlb f s).score = s.score := rfl
@[simp] theorem setGlb_link : (setGlb f s).link = s.link := rfl
@[simp] theorem setGlb_out : (setGlb f s).out = s.out := rfl
@[simp] theorem setGlb_hif : (setGlb f s).hif = s.hif := rfl
@[simp] theorem setGlb_objs : (setGlb f s).objs = s.objs := rfl
@[simp] theorem setGlb_cmds : (setGlb f s).cmds = s.cmds := rfl
@[simp] theorem setGlb_nextCmd : (setGlb f s).nextCmd = s.nextCmd := rfl
@[simp] theorem setGlb_ctxs : (setGlb f s).ctxs = s.ctxs := rfl
@[simp] theorem setGlb_masks : (setGlb f s).masks = s.masks := rfl
@[simp] theorem setGlb_defMask : (setGlb f s).defMask = s.defMask := rfl
@[simp] theorem setGlb_models : (setGlb f s).models = s.models := rfl
@[simp] theorem setGlb_jobs : (setGlb f s).jobs = s.jobs := rfl
@[simp] theorem setGlb_early : (setGlb f s).early = s.early := rfl
@[simp] theorem setGlb_passes : (setGlb f s).passes = s.passes := rfl
@[simp] theorem setGlb_strips : (setGlb f s).strips = s.strips := rfl
@[simp] theorem setGlb_str : (setGlb f s).str = s.str := rfl
@[simp] theorem setGlb_apt : (setGlb f s).apt = s.apt := rfl
@[simp] theorem setGlb_nand : (setGlb f s).nand = s.nand := rfl
@[simp] theorem setGlb_flc : (setGlb f s).flc = s.flc := rfl
@[simp] theorem setGlb_evc : (setGlb f s).evc = s.evc := rfl
@[simp] theorem setGlb_pwr : (setGlb f s).pwr = s.pwr := rfl
@[simp] theorem setGlb_jtag : (setGlb f s).jtag = s.jtag := rfl
@[simp] theorem setGlb_mem : (setGlb f s).mem = s.mem := rfl
@[simp] theorem setGlb_bad : (setGlb f s).bad = s.bad := rfl
@[simp] theorem setGlb_dmc : (setGlb f s).dmc = s.dmc := rfl
@[simp] theorem setGlb_voices : (setGlb f s).voices = s.voices := rfl
@[simp] theorem setGlb_sections : (setGlb f s).sections = s.sections := rfl
@[simp] theorem setGlb_sets : (setGlb f s).sets = s.sets := rfl
@[simp] theorem setGlb_prz : (setGlb f s).prz = s.prz := rfl
@[simp] theorem setGlb_mir : (setGlb f s).mir = s.mir := rfl
@[simp] theorem setGlb_vib : (setGlb f s).vib = s.vib := rfl
@[simp] theorem setGlb_ens : (setGlb f s).ens = s.ens := rfl
end

section
variable {f : Link → Link} {s : State}
@[simp] theorem setLink_pending : (setLink f s).pending = s.pending := rfl
@[simp] theorem setLink_clk : (setLink f s).clk = s.clk := rfl
@[simp] theorem setLink_freeCtr : (setLink f s).freeCtr = s.freeCtr := rfl
@[simp] theorem setLink_porst : (setLink f s).porst = s.porst := rfl
@[simp] theorem setLink_fuses : (setLink f s).fuses = s.fuses := rfl
@[simp] theorem setLink_glb : (setLink f s).glb = s.glb := rfl
@[simp] theorem setLink_brg : (setLink f s).brg = s.brg := rfl
@[simp] theorem setLink_isl : (setLink f s).isl = s.isl := rfl
@[simp] theorem setLink_tbs : (setLink f s).tbs = s.tbs := rfl
@[simp] theorem setLink_dbOut : (setLink f s).dbOut = s.dbOut := rfl
@[simp] theorem setLink_bsc : (setLink f s).bsc = s.bsc := rfl
@[simp] theorem setLink_score : (setLink f s).score = s.score := rfl
@[simp] theorem setLink_out : (setLink f s).out = s.out := rfl
@[simp] theorem setLink_hif : (setLink f s).hif = s.hif := rfl
@[simp] theorem setLink_objs : (setLink f s).objs = s.objs := rfl
@[simp] theorem setLink_cmds : (setLink f s).cmds = s.cmds := rfl
@[simp] theorem setLink_nextCmd : (setLink f s).nextCmd = s.nextCmd := rfl
@[simp] theorem setLink_ctxs : (setLink f s).ctxs = s.ctxs := rfl
@[simp] theorem setLink_masks : (setLink f s).masks = s.masks := rfl
@[simp] theorem setLink_defMask : (setLink f s).defMask = s.defMask := rfl
@[simp] theorem setLink_models : (setLink f s).models = s.models := rfl
@[simp] theorem setLink_jobs : (setLink f s).jobs = s.jobs := rfl
@[simp] theorem setLink_early : (setLink f s).early = s.early := rfl
@[simp] theorem setLink_passes : (setLink f s).passes = s.passes := rfl
@[simp] theorem setLink_strips : (setLink f s).strips = s.strips := rfl
@[simp] theorem setLink_str : (setLink f s).str = s.str := rfl
@[simp] theorem setLink_apt : (setLink f s).apt = s.apt := rfl
@[simp] theorem setLink_nand : (setLink f s).nand = s.nand := rfl
@[simp] theorem setLink_flc : (setLink f s).flc = s.flc := rfl
@[simp] theorem setLink_evc : (setLink f s).evc = s.evc := rfl
@[simp] theorem setLink_pwr : (setLink f s).pwr = s.pwr := rfl
@[simp] theorem setLink_jtag : (setLink f s).jtag = s.jtag := rfl
@[simp] theorem setLink_mem : (setLink f s).mem = s.mem := rfl
@[simp] theorem setLink_bad : (setLink f s).bad = s.bad := rfl
@[simp] theorem setLink_dmc : (setLink f s).dmc = s.dmc := rfl
@[simp] theorem setLink_voices : (setLink f s).voices = s.voices := rfl
@[simp] theorem setLink_sections : (setLink f s).sections = s.sections := rfl
@[simp] theorem setLink_sets : (setLink f s).sets = s.sets := rfl
@[simp] theorem setLink_prz : (setLink f s).prz = s.prz := rfl
@[simp] theorem setLink_mir : (setLink f s).mir = s.mir := rfl
@[simp] theorem setLink_vib : (setLink f s).vib = s.vib := rfl
@[simp] theorem setLink_ens : (setLink f s).ens = s.ens := rfl
end

section
variable {n : Port} {f : PortState → PortState} {s : State}
@[simp] theorem setPort_pending : (setPort n f s).pending = s.pending := rfl
@[simp] theorem setPort_clk : (setPort n f s).clk = s.clk := rfl
@[simp] theorem setPort_freeCtr : (setPort n f s).freeCtr = s.freeCtr := rfl
@[simp] theorem setPort_porst : (setPort n f s).porst = s.porst := rfl
@[simp] theorem setPort_fuses : (setPort n f s).fuses = s.fuses := rfl
@[simp] theorem setPort_glb : (setPort n f s).glb = s.glb := rfl
@[simp] theorem setPort_brg : (setPort n f s).brg = s.brg := rfl
@[simp] theorem setPort_isl : (setPort n f s).isl = s.isl := rfl
@[simp] theorem setPort_tbs : (setPort n f s).tbs = s.tbs := rfl
@[simp] theorem setPort_dbOut : (setPort n f s).dbOut = s.dbOut := rfl
@[simp] theorem setPort_bsc : (setPort n f s).bsc = s.bsc := rfl
@[simp] theorem setPort_score : (setPort n f s).score = s.score := rfl
@[simp] theorem setPort_link : (setPort n f s).link = s.link := rfl
@[simp] theorem setPort_out : (setPort n f s).out = s.out := rfl
@[simp] theorem setPort_hif : (setPort n f s).hif = s.hif := rfl
@[simp] theorem setPort_objs : (setPort n f s).objs = s.objs := rfl
@[simp] theorem setPort_cmds : (setPort n f s).cmds = s.cmds := rfl
@[simp] theorem setPort_nextCmd : (setPort n f s).nextCmd = s.nextCmd := rfl
@[simp] theorem setPort_ctxs : (setPort n f s).ctxs = s.ctxs := rfl
@[simp] theorem setPort_masks : (setPort n f s).masks = s.masks := rfl
@[simp] theorem setPort_defMask : (setPort n f s).defMask = s.defMask := rfl
@[simp] theorem setPort_models : (setPort n f s).models = s.models := rfl
@[simp] theorem setPort_jobs : (setPort n f s).jobs = s.jobs := rfl
@[simp] theorem setPort_early : (setPort n f s).early = s.early := rfl
@[simp] theorem setPort_passes : (setPort n f s).passes = s.passes := rfl
@[simp] theorem setPort_strips : (setPort n f s).strips = s.strips := rfl
@[simp] theorem setPort_str : (setPort n f s).str = s.str := rfl
@[simp] theorem setPort_apt : (setPort n f s).apt = s.apt := rfl
@[simp] theorem setPort_nand : (setPort n f s).nand = s.nand := rfl
@[simp] theorem setPort_flc : (setPort n f s).flc = s.flc := rfl
@[simp] theorem setPort_evc : (setPort n f s).evc = s.evc := rfl
@[simp] theorem setPort_pwr : (setPort n f s).pwr = s.pwr := rfl
@[simp] theorem setPort_jtag : (setPort n f s).jtag = s.jtag := rfl
@[simp] theorem setPort_mem : (setPort n f s).mem = s.mem := rfl
@[simp] theorem setPort_bad : (setPort n f s).bad = s.bad := rfl
@[simp] theorem setPort_dmc : (setPort n f s).dmc = s.dmc := rfl
@[simp] theorem setPort_voices : (setPort n f s).voices = s.voices := rfl
@[simp] theorem setPort_sections : (setPort n f s).sections = s.sections := rfl
@[simp] theorem setPort_sets : (setPort n f s).sets = s.sets := rfl
@[simp] theorem setPort_prz : (setPort n f s).prz = s.prz := rfl
@[simp] theorem setPort_mir : (setPort n f s).mir = s.mir := rfl
@[simp] theorem setPort_vib : (setPort n f s).vib = s.vib := rfl
end

section
variable {a : Fin 2} {f : Alarm → Alarm} {s : State}
@[simp] theorem setAlarm_pending : (setAlarm a f s).pending = s.pending := rfl
@[simp] theorem setAlarm_clk : (setAlarm a f s).clk = s.clk := rfl
@[simp] theorem setAlarm_freeCtr : (setAlarm a f s).freeCtr = s.freeCtr := rfl
@[simp] theorem setAlarm_porst : (setAlarm a f s).porst = s.porst := rfl
@[simp] theorem setAlarm_fuses : (setAlarm a f s).fuses = s.fuses := rfl
@[simp] theorem setAlarm_glb : (setAlarm a f s).glb = s.glb := rfl
@[simp] theorem setAlarm_brg : (setAlarm a f s).brg = s.brg := rfl
@[simp] theorem setAlarm_isl : (setAlarm a f s).isl = s.isl := rfl
@[simp] theorem setAlarm_dbOut : (setAlarm a f s).dbOut = s.dbOut := rfl
@[simp] theorem setAlarm_bsc : (setAlarm a f s).bsc = s.bsc := rfl
@[simp] theorem setAlarm_score : (setAlarm a f s).score = s.score := rfl
@[simp] theorem setAlarm_link : (setAlarm a f s).link = s.link := rfl
@[simp] theorem setAlarm_out : (setAlarm a f s).out = s.out := rfl
@[simp] theorem setAlarm_hif : (setAlarm a f s).hif = s.hif := rfl
@[simp] theorem setAlarm_objs : (setAlarm a f s).objs = s.objs := rfl
@[simp] theorem setAlarm_cmds : (setAlarm a f s).cmds = s.cmds := rfl
@[simp] theorem setAlarm_nextCmd : (setAlarm a f s).nextCmd = s.nextCmd := rfl
@[simp] theorem setAlarm_ctxs : (setAlarm a f s).ctxs = s.ctxs := rfl
@[simp] theorem setAlarm_masks : (setAlarm a f s).masks = s.masks := rfl
@[simp] theorem setAlarm_defMask : (setAlarm a f s).defMask = s.defMask := rfl
@[simp] theorem setAlarm_models : (setAlarm a f s).models = s.models := rfl
@[simp] theorem setAlarm_jobs : (setAlarm a f s).jobs = s.jobs := rfl
@[simp] theorem setAlarm_early : (setAlarm a f s).early = s.early := rfl
@[simp] theorem setAlarm_passes : (setAlarm a f s).passes = s.passes := rfl
@[simp] theorem setAlarm_strips : (setAlarm a f s).strips = s.strips := rfl
@[simp] theorem setAlarm_str : (setAlarm a f s).str = s.str := rfl
@[simp] theorem setAlarm_apt : (setAlarm a f s).apt = s.apt := rfl
@[simp] theorem setAlarm_nand : (setAlarm a f s).nand = s.nand := rfl
@[simp] theorem setAlarm_flc : (setAlarm a f s).flc = s.flc := rfl
@[simp] theorem setAlarm_evc : (setAlarm a f s).evc = s.evc := rfl
@[simp] theorem setAlarm_pwr : (setAlarm a f s).pwr = s.pwr := rfl
@[simp] theorem setAlarm_jtag : (setAlarm a f s).jtag = s.jtag := rfl
@[simp] theorem setAlarm_mem : (setAlarm a f s).mem = s.mem := rfl
@[simp] theorem setAlarm_bad : (setAlarm a f s).bad = s.bad := rfl
@[simp] theorem setAlarm_dmc : (setAlarm a f s).dmc = s.dmc := rfl
@[simp] theorem setAlarm_voices : (setAlarm a f s).voices = s.voices := rfl
@[simp] theorem setAlarm_sections : (setAlarm a f s).sections = s.sections := rfl
@[simp] theorem setAlarm_sets : (setAlarm a f s).sets = s.sets := rfl
@[simp] theorem setAlarm_prz : (setAlarm a f s).prz = s.prz := rfl
@[simp] theorem setAlarm_mir : (setAlarm a f s).mir = s.mir := rfl
@[simp] theorem setAlarm_vib : (setAlarm a f s).vib = s.vib := rfl
@[simp] theorem setAlarm_ens : (setAlarm a f s).ens = s.ens := rfl
end

section
variable {f : Vib → Vib} {s : State}
@[simp] theorem setVib_pending : (setVib f s).pending = s.pending := rfl
@[simp] theorem setVib_clk : (setVib f s).clk = s.clk := rfl
@[simp] theorem setVib_freeCtr : (setVib f s).freeCtr = s.freeCtr := rfl
@[simp] theorem setVib_porst : (setVib f s).porst = s.porst := rfl
@[simp] theorem setVib_fuses : (setVib f s).fuses = s.fuses := rfl
@[simp] theorem setVib_glb : (setVib f s).glb = s.glb := rfl
@[simp] theorem setVib_brg : (setVib f s).brg = s.brg := rfl
@[simp] theorem setVib_isl : (setVib f s).isl = s.isl := rfl
@[simp] theorem setVib_tbs : (setVib f s).tbs = s.tbs := rfl
@[simp] theorem setVib_dbOut : (setVib f s).dbOut = s.dbOut := rfl
@[simp] theorem setVib_bsc : (setVib f s).bsc = s.bsc := rfl
@[simp] theorem setVib_score : (setVib f s).score = s.score := rfl
@[simp] theorem setVib_link : (setVib f s).link = s.link := rfl
@[simp] theorem setVib_out : (setVib f s).out = s.out := rfl
@[simp] theorem setVib_hif : (setVib f s).hif = s.hif := rfl
@[simp] theorem setVib_objs : (setVib f s).objs = s.objs := rfl
@[simp] theorem setVib_cmds : (setVib f s).cmds = s.cmds := rfl
@[simp] theorem setVib_nextCmd : (setVib f s).nextCmd = s.nextCmd := rfl
@[simp] theorem setVib_ctxs : (setVib f s).ctxs = s.ctxs := rfl
@[simp] theorem setVib_masks : (setVib f s).masks = s.masks := rfl
@[simp] theorem setVib_defMask : (setVib f s).defMask = s.defMask := rfl
@[simp] theorem setVib_models : (setVib f s).models = s.models := rfl
@[simp] theorem setVib_jobs : (setVib f s).jobs = s.jobs := rfl
@[simp] theorem setVib_early : (setVib f s).early = s.early := rfl
@[simp] theorem setVib_passes : (setVib f s).passes = s.passes := rfl
@[simp] theorem setVib_strips : (setVib f s).strips = s.strips := rfl
@[simp] theorem setVib_str : (setVib f s).str = s.str := rfl
@[simp] theorem setVib_apt : (setVib f s).apt = s.apt := rfl
@[simp] theorem setVib_nand : (setVib f s).nand = s.nand := rfl
@[simp] theorem setVib_flc : (setVib f s).flc = s.flc := rfl
@[simp] theorem setVib_evc : (setVib f s).evc = s.evc := rfl
@[simp] theorem setVib_pwr : (setVib f s).pwr = s.pwr := rfl
@[simp] theorem setVib_jtag : (setVib f s).jtag = s.jtag := rfl
@[simp] theorem setVib_mem : (setVib f s).mem = s.mem := rfl
@[simp] theorem setVib_bad : (setVib f s).bad = s.bad := rfl
@[simp] theorem setVib_dmc : (setVib f s).dmc = s.dmc := rfl
@[simp] theorem setVib_voices : (setVib f s).voices = s.voices := rfl
@[simp] theorem setVib_sections : (setVib f s).sections = s.sections := rfl
@[simp] theorem setVib_sets : (setVib f s).sets = s.sets := rfl
@[simp] theorem setVib_prz : (setVib f s).prz = s.prz := rfl
@[simp] theorem setVib_mir : (setVib f s).mir = s.mir := rfl
@[simp] theorem setVib_ens : (setVib f s).ens = s.ens := rfl
end

section
variable {i : Fin 64} {f : Strip → Strip} {s : State}
@[simp] theorem setStrip_pending : (setStrip i f s).pending = s.pending := rfl
@[simp] theorem setStrip_clk : (setStrip i f s).clk = s.clk := rfl
@[simp] theorem setStrip_freeCtr : (setStrip i f s).freeCtr = s.freeCtr := rfl
@[simp] theorem setStrip_porst : (setStrip i f s).porst = s.porst := rfl
@[simp] theorem setStrip_fuses : (setStrip i f s).fuses = s.fuses := rfl
@[simp] theorem setStrip_glb : (setStrip i f s).glb = s.glb := rfl
@[simp] theorem setStrip_brg : (setStrip i f s).brg = s.brg := rfl
@[simp] theorem setStrip_isl : (setStrip i f s).isl = s.isl := rfl
@[simp] theorem setStrip_tbs : (setStrip i f s).tbs = s.tbs := rfl
@[simp] theorem setStrip_dbOut : (setStrip i f s).dbOut = s.dbOut := rfl
@[simp] theorem setStrip_bsc : (setStrip i f s).bsc = s.bsc := rfl
@[simp] theorem setStrip_score : (setStrip i f s).score = s.score := rfl
@[simp] theorem setStrip_link : (setStrip i f s).link = s.link := rfl
@[simp] theorem setStrip_out : (setStrip i f s).out = s.out := rfl
@[simp] theorem setStrip_hif : (setStrip i f s).hif = s.hif := rfl
@[simp] theorem setStrip_objs : (setStrip i f s).objs = s.objs := rfl
@[simp] theorem setStrip_cmds : (setStrip i f s).cmds = s.cmds := rfl
@[simp] theorem setStrip_nextCmd : (setStrip i f s).nextCmd = s.nextCmd := rfl
@[simp] theorem setStrip_ctxs : (setStrip i f s).ctxs = s.ctxs := rfl
@[simp] theorem setStrip_masks : (setStrip i f s).masks = s.masks := rfl
@[simp] theorem setStrip_defMask : (setStrip i f s).defMask = s.defMask := rfl
@[simp] theorem setStrip_models : (setStrip i f s).models = s.models := rfl
@[simp] theorem setStrip_jobs : (setStrip i f s).jobs = s.jobs := rfl
@[simp] theorem setStrip_early : (setStrip i f s).early = s.early := rfl
@[simp] theorem setStrip_passes : (setStrip i f s).passes = s.passes := rfl
@[simp] theorem setStrip_str : (setStrip i f s).str = s.str := rfl
@[simp] theorem setStrip_apt : (setStrip i f s).apt = s.apt := rfl
@[simp] theorem setStrip_nand : (setStrip i f s).nand = s.nand := rfl
@[simp] theorem setStrip_flc : (setStrip i f s).flc = s.flc := rfl
@[simp] theorem setStrip_evc : (setStrip i f s).evc = s.evc := rfl
@[simp] theorem setStrip_pwr : (setStrip i f s).pwr = s.pwr := rfl
@[simp] theorem setStrip_jtag : (setStrip i f s).jtag = s.jtag := rfl
@[simp] theorem setStrip_mem : (setStrip i f s).mem = s.mem := rfl
@[simp] theorem setStrip_bad : (setStrip i f s).bad = s.bad := rfl
@[simp] theorem setStrip_dmc : (setStrip i f s).dmc = s.dmc := rfl
@[simp] theorem setStrip_voices : (setStrip i f s).voices = s.voices := rfl
@[simp] theorem setStrip_sections : (setStrip i f s).sections = s.sections := rfl
@[simp] theorem setStrip_sets : (setStrip i f s).sets = s.sets := rfl
@[simp] theorem setStrip_prz : (setStrip i f s).prz = s.prz := rfl
@[simp] theorem setStrip_mir : (setStrip i f s).mir = s.mir := rfl
@[simp] theorem setStrip_vib : (setStrip i f s).vib = s.vib := rfl
@[simp] theorem setStrip_ens : (setStrip i f s).ens = s.ens := rfl
end

section
variable {k : Pair} {f : PairState → PairState} {s : State}
@[simp] theorem setPair_pending : (setPair k f s).pending = s.pending := rfl
@[simp] theorem setPair_clk : (setPair k f s).clk = s.clk := rfl
@[simp] theorem setPair_freeCtr : (setPair k f s).freeCtr = s.freeCtr := rfl
@[simp] theorem setPair_porst : (setPair k f s).porst = s.porst := rfl
@[simp] theorem setPair_fuses : (setPair k f s).fuses = s.fuses := rfl
@[simp] theorem setPair_glb : (setPair k f s).glb = s.glb := rfl
@[simp] theorem setPair_brg : (setPair k f s).brg = s.brg := rfl
@[simp] theorem setPair_isl : (setPair k f s).isl = s.isl := rfl
@[simp] theorem setPair_tbs : (setPair k f s).tbs = s.tbs := rfl
@[simp] theorem setPair_dbOut : (setPair k f s).dbOut = s.dbOut := rfl
@[simp] theorem setPair_bsc : (setPair k f s).bsc = s.bsc := rfl
@[simp] theorem setPair_score : (setPair k f s).score = s.score := rfl
@[simp] theorem setPair_link : (setPair k f s).link = s.link := rfl
@[simp] theorem setPair_out : (setPair k f s).out = s.out := rfl
@[simp] theorem setPair_hif : (setPair k f s).hif = s.hif := rfl
@[simp] theorem setPair_objs : (setPair k f s).objs = s.objs := rfl
@[simp] theorem setPair_cmds : (setPair k f s).cmds = s.cmds := rfl
@[simp] theorem setPair_nextCmd : (setPair k f s).nextCmd = s.nextCmd := rfl
@[simp] theorem setPair_ctxs : (setPair k f s).ctxs = s.ctxs := rfl
@[simp] theorem setPair_masks : (setPair k f s).masks = s.masks := rfl
@[simp] theorem setPair_defMask : (setPair k f s).defMask = s.defMask := rfl
@[simp] theorem setPair_models : (setPair k f s).models = s.models := rfl
@[simp] theorem setPair_jobs : (setPair k f s).jobs = s.jobs := rfl
@[simp] theorem setPair_early : (setPair k f s).early = s.early := rfl
@[simp] theorem setPair_passes : (setPair k f s).passes = s.passes := rfl
@[simp] theorem setPair_strips : (setPair k f s).strips = s.strips := rfl
@[simp] theorem setPair_str : (setPair k f s).str = s.str := rfl
@[simp] theorem setPair_apt : (setPair k f s).apt = s.apt := rfl
@[simp] theorem setPair_nand : (setPair k f s).nand = s.nand := rfl
@[simp] theorem setPair_flc : (setPair k f s).flc = s.flc := rfl
@[simp] theorem setPair_evc : (setPair k f s).evc = s.evc := rfl
@[simp] theorem setPair_pwr : (setPair k f s).pwr = s.pwr := rfl
@[simp] theorem setPair_jtag : (setPair k f s).jtag = s.jtag := rfl
@[simp] theorem setPair_mem : (setPair k f s).mem = s.mem := rfl
@[simp] theorem setPair_bad : (setPair k f s).bad = s.bad := rfl
@[simp] theorem setPair_dmc : (setPair k f s).dmc = s.dmc := rfl
@[simp] theorem setPair_voices : (setPair k f s).voices = s.voices := rfl
@[simp] theorem setPair_sections : (setPair k f s).sections = s.sections := rfl
@[simp] theorem setPair_sets : (setPair k f s).sets = s.sets := rfl
@[simp] theorem setPair_prz : (setPair k f s).prz = s.prz := rfl
@[simp] theorem setPair_vib : (setPair k f s).vib = s.vib := rfl
@[simp] theorem setPair_ens : (setPair k f s).ens = s.ens := rfl
end

section
variable {p : Part} {m : Fin 32} {k : Option Mask} {s : State}
@[simp] theorem setMask_pending : (setMask p m k s).pending = s.pending := rfl
@[simp] theorem setMask_clk : (setMask p m k s).clk = s.clk := rfl
@[simp] theorem setMask_freeCtr : (setMask p m k s).freeCtr = s.freeCtr := rfl
@[simp] theorem setMask_porst : (setMask p m k s).porst = s.porst := rfl
@[simp] theorem setMask_fuses : (setMask p m k s).fuses = s.fuses := rfl
@[simp] theorem setMask_glb : (setMask p m k s).glb = s.glb := rfl
@[simp] theorem setMask_brg : (setMask p m k s).brg = s.brg := rfl
@[simp] theorem setMask_isl : (setMask p m k s).isl = s.isl := rfl
@[simp] theorem setMask_tbs : (setMask p m k s).tbs = s.tbs := rfl
@[simp] theorem setMask_dbOut : (setMask p m k s).dbOut = s.dbOut := rfl
@[simp] theorem setMask_bsc : (setMask p m k s).bsc = s.bsc := rfl
@[simp] theorem setMask_score : (setMask p m k s).score = s.score := rfl
@[simp] theorem setMask_link : (setMask p m k s).link = s.link := rfl
@[simp] theorem setMask_out : (setMask p m k s).out = s.out := rfl
@[simp] theorem setMask_hif : (setMask p m k s).hif = s.hif := rfl
@[simp] theorem setMask_objs : (setMask p m k s).objs = s.objs := rfl
@[simp] theorem setMask_cmds : (setMask p m k s).cmds = s.cmds := rfl
@[simp] theorem setMask_nextCmd : (setMask p m k s).nextCmd = s.nextCmd := rfl
@[simp] theorem setMask_ctxs : (setMask p m k s).ctxs = s.ctxs := rfl
@[simp] theorem setMask_defMask : (setMask p m k s).defMask = s.defMask := rfl
@[simp] theorem setMask_models : (setMask p m k s).models = s.models := rfl
@[simp] theorem setMask_jobs : (setMask p m k s).jobs = s.jobs := rfl
@[simp] theorem setMask_early : (setMask p m k s).early = s.early := rfl
@[simp] theorem setMask_passes : (setMask p m k s).passes = s.passes := rfl
@[simp] theorem setMask_strips : (setMask p m k s).strips = s.strips := rfl
@[simp] theorem setMask_str : (setMask p m k s).str = s.str := rfl
@[simp] theorem setMask_apt : (setMask p m k s).apt = s.apt := rfl
@[simp] theorem setMask_nand : (setMask p m k s).nand = s.nand := rfl
@[simp] theorem setMask_flc : (setMask p m k s).flc = s.flc := rfl
@[simp] theorem setMask_evc : (setMask p m k s).evc = s.evc := rfl
@[simp] theorem setMask_pwr : (setMask p m k s).pwr = s.pwr := rfl
@[simp] theorem setMask_jtag : (setMask p m k s).jtag = s.jtag := rfl
@[simp] theorem setMask_mem : (setMask p m k s).mem = s.mem := rfl
@[simp] theorem setMask_bad : (setMask p m k s).bad = s.bad := rfl
@[simp] theorem setMask_dmc : (setMask p m k s).dmc = s.dmc := rfl
@[simp] theorem setMask_voices : (setMask p m k s).voices = s.voices := rfl
@[simp] theorem setMask_sections : (setMask p m k s).sections = s.sections := rfl
@[simp] theorem setMask_sets : (setMask p m k s).sets = s.sets := rfl
@[simp] theorem setMask_prz : (setMask p m k s).prz = s.prz := rfl
@[simp] theorem setMask_mir : (setMask p m k s).mir = s.mir := rfl
@[simp] theorem setMask_vib : (setMask p m k s).vib = s.vib := rfl
@[simp] theorem setMask_ens : (setMask p m k s).ens = s.ens := rfl
end

section
variable {b : Nat} {f : NandBlock → NandBlock} {s : State}
@[simp] theorem setBlock_pending : (setBlock b f s).pending = s.pending := rfl
@[simp] theorem setBlock_clk : (setBlock b f s).clk = s.clk := rfl
@[simp] theorem setBlock_freeCtr : (setBlock b f s).freeCtr = s.freeCtr := rfl
@[simp] theorem setBlock_porst : (setBlock b f s).porst = s.porst := rfl
@[simp] theorem setBlock_fuses : (setBlock b f s).fuses = s.fuses := rfl
@[simp] theorem setBlock_glb : (setBlock b f s).glb = s.glb := rfl
@[simp] theorem setBlock_brg : (setBlock b f s).brg = s.brg := rfl
@[simp] theorem setBlock_isl : (setBlock b f s).isl = s.isl := rfl
@[simp] theorem setBlock_tbs : (setBlock b f s).tbs = s.tbs := rfl
@[simp] theorem setBlock_dbOut : (setBlock b f s).dbOut = s.dbOut := rfl
@[simp] theorem setBlock_bsc : (setBlock b f s).bsc = s.bsc := rfl
@[simp] theorem setBlock_score : (setBlock b f s).score = s.score := rfl
@[simp] theorem setBlock_link : (setBlock b f s).link = s.link := rfl
@[simp] theorem setBlock_out : (setBlock b f s).out = s.out := rfl
@[simp] theorem setBlock_hif : (setBlock b f s).hif = s.hif := rfl
@[simp] theorem setBlock_objs : (setBlock b f s).objs = s.objs := rfl
@[simp] theorem setBlock_cmds : (setBlock b f s).cmds = s.cmds := rfl
@[simp] theorem setBlock_nextCmd : (setBlock b f s).nextCmd = s.nextCmd := rfl
@[simp] theorem setBlock_ctxs : (setBlock b f s).ctxs = s.ctxs := rfl
@[simp] theorem setBlock_masks : (setBlock b f s).masks = s.masks := rfl
@[simp] theorem setBlock_defMask : (setBlock b f s).defMask = s.defMask := rfl
@[simp] theorem setBlock_models : (setBlock b f s).models = s.models := rfl
@[simp] theorem setBlock_jobs : (setBlock b f s).jobs = s.jobs := rfl
@[simp] theorem setBlock_early : (setBlock b f s).early = s.early := rfl
@[simp] theorem setBlock_passes : (setBlock b f s).passes = s.passes := rfl
@[simp] theorem setBlock_strips : (setBlock b f s).strips = s.strips := rfl
@[simp] theorem setBlock_str : (setBlock b f s).str = s.str := rfl
@[simp] theorem setBlock_apt : (setBlock b f s).apt = s.apt := rfl
@[simp] theorem setBlock_flc : (setBlock b f s).flc = s.flc := rfl
@[simp] theorem setBlock_evc : (setBlock b f s).evc = s.evc := rfl
@[simp] theorem setBlock_pwr : (setBlock b f s).pwr = s.pwr := rfl
@[simp] theorem setBlock_jtag : (setBlock b f s).jtag = s.jtag := rfl
@[simp] theorem setBlock_mem : (setBlock b f s).mem = s.mem := rfl
@[simp] theorem setBlock_bad : (setBlock b f s).bad = s.bad := rfl
@[simp] theorem setBlock_dmc : (setBlock b f s).dmc = s.dmc := rfl
@[simp] theorem setBlock_voices : (setBlock b f s).voices = s.voices := rfl
@[simp] theorem setBlock_sections : (setBlock b f s).sections = s.sections := rfl
@[simp] theorem setBlock_sets : (setBlock b f s).sets = s.sets := rfl
@[simp] theorem setBlock_prz : (setBlock b f s).prz = s.prz := rfl
@[simp] theorem setBlock_mir : (setBlock b f s).mir = s.mir := rfl
@[simp] theorem setBlock_vib : (setBlock b f s).vib = s.vib := rfl
@[simp] theorem setBlock_ens : (setBlock b f s).ens = s.ens := rfl
end

section
variable {n : Voice} {t : Fin 16} {x : Tile} {s : State}
@[simp] theorem setTile_pending : (setTile n t x s).pending = s.pending := rfl
@[simp] theorem setTile_clk : (setTile n t x s).clk = s.clk := rfl
@[simp] theorem setTile_freeCtr : (setTile n t x s).freeCtr = s.freeCtr := rfl
@[simp] theorem setTile_porst : (setTile n t x s).porst = s.porst := rfl
@[simp] theorem setTile_fuses : (setTile n t x s).fuses = s.fuses := rfl
@[simp] theorem setTile_glb : (setTile n t x s).glb = s.glb := rfl
@[simp] theorem setTile_brg : (setTile n t x s).brg = s.brg := rfl
@[simp] theorem setTile_isl : (setTile n t x s).isl = s.isl := rfl
@[simp] theorem setTile_tbs : (setTile n t x s).tbs = s.tbs := rfl
@[simp] theorem setTile_dbOut : (setTile n t x s).dbOut = s.dbOut := rfl
@[simp] theorem setTile_bsc : (setTile n t x s).bsc = s.bsc := rfl
@[simp] theorem setTile_score : (setTile n t x s).score = s.score := rfl
@[simp] theorem setTile_link : (setTile n t x s).link = s.link := rfl
@[simp] theorem setTile_out : (setTile n t x s).out = s.out := rfl
@[simp] theorem setTile_hif : (setTile n t x s).hif = s.hif := rfl
@[simp] theorem setTile_objs : (setTile n t x s).objs = s.objs := rfl
@[simp] theorem setTile_cmds : (setTile n t x s).cmds = s.cmds := rfl
@[simp] theorem setTile_nextCmd : (setTile n t x s).nextCmd = s.nextCmd := rfl
@[simp] theorem setTile_ctxs : (setTile n t x s).ctxs = s.ctxs := rfl
@[simp] theorem setTile_masks : (setTile n t x s).masks = s.masks := rfl
@[simp] theorem setTile_defMask : (setTile n t x s).defMask = s.defMask := rfl
@[simp] theorem setTile_models : (setTile n t x s).models = s.models := rfl
@[simp] theorem setTile_jobs : (setTile n t x s).jobs = s.jobs := rfl
@[simp] theorem setTile_early : (setTile n t x s).early = s.early := rfl
@[simp] theorem setTile_passes : (setTile n t x s).passes = s.passes := rfl
@[simp] theorem setTile_strips : (setTile n t x s).strips = s.strips := rfl
@[simp] theorem setTile_str : (setTile n t x s).str = s.str := rfl
@[simp] theorem setTile_apt : (setTile n t x s).apt = s.apt := rfl
@[simp] theorem setTile_nand : (setTile n t x s).nand = s.nand := rfl
@[simp] theorem setTile_flc : (setTile n t x s).flc = s.flc := rfl
@[simp] theorem setTile_evc : (setTile n t x s).evc = s.evc := rfl
@[simp] theorem setTile_pwr : (setTile n t x s).pwr = s.pwr := rfl
@[simp] theorem setTile_jtag : (setTile n t x s).jtag = s.jtag := rfl
@[simp] theorem setTile_mem : (setTile n t x s).mem = s.mem := rfl
@[simp] theorem setTile_bad : (setTile n t x s).bad = s.bad := rfl
@[simp] theorem setTile_dmc : (setTile n t x s).dmc = s.dmc := rfl
@[simp] theorem setTile_sections : (setTile n t x s).sections = s.sections := rfl
@[simp] theorem setTile_sets : (setTile n t x s).sets = s.sets := rfl
@[simp] theorem setTile_prz : (setTile n t x s).prz = s.prz := rfl
@[simp] theorem setTile_mir : (setTile n t x s).mir = s.mir := rfl
@[simp] theorem setTile_vib : (setTile n t x s).vib = s.vib := rfl
@[simp] theorem setTile_ens : (setTile n t x s).ens = s.ens := rfl
end

section
variable {n : Voice} {a : Fin 4} {x : Accum} {s : State}
@[simp] theorem setAcc_pending : (setAcc n a x s).pending = s.pending := rfl
@[simp] theorem setAcc_clk : (setAcc n a x s).clk = s.clk := rfl
@[simp] theorem setAcc_freeCtr : (setAcc n a x s).freeCtr = s.freeCtr := rfl
@[simp] theorem setAcc_porst : (setAcc n a x s).porst = s.porst := rfl
@[simp] theorem setAcc_fuses : (setAcc n a x s).fuses = s.fuses := rfl
@[simp] theorem setAcc_glb : (setAcc n a x s).glb = s.glb := rfl
@[simp] theorem setAcc_brg : (setAcc n a x s).brg = s.brg := rfl
@[simp] theorem setAcc_isl : (setAcc n a x s).isl = s.isl := rfl
@[simp] theorem setAcc_tbs : (setAcc n a x s).tbs = s.tbs := rfl
@[simp] theorem setAcc_dbOut : (setAcc n a x s).dbOut = s.dbOut := rfl
@[simp] theorem setAcc_bsc : (setAcc n a x s).bsc = s.bsc := rfl
@[simp] theorem setAcc_score : (setAcc n a x s).score = s.score := rfl
@[simp] theorem setAcc_link : (setAcc n a x s).link = s.link := rfl
@[simp] theorem setAcc_out : (setAcc n a x s).out = s.out := rfl
@[simp] theorem setAcc_hif : (setAcc n a x s).hif = s.hif := rfl
@[simp] theorem setAcc_objs : (setAcc n a x s).objs = s.objs := rfl
@[simp] theorem setAcc_cmds : (setAcc n a x s).cmds = s.cmds := rfl
@[simp] theorem setAcc_nextCmd : (setAcc n a x s).nextCmd = s.nextCmd := rfl
@[simp] theorem setAcc_ctxs : (setAcc n a x s).ctxs = s.ctxs := rfl
@[simp] theorem setAcc_masks : (setAcc n a x s).masks = s.masks := rfl
@[simp] theorem setAcc_defMask : (setAcc n a x s).defMask = s.defMask := rfl
@[simp] theorem setAcc_models : (setAcc n a x s).models = s.models := rfl
@[simp] theorem setAcc_jobs : (setAcc n a x s).jobs = s.jobs := rfl
@[simp] theorem setAcc_early : (setAcc n a x s).early = s.early := rfl
@[simp] theorem setAcc_passes : (setAcc n a x s).passes = s.passes := rfl
@[simp] theorem setAcc_strips : (setAcc n a x s).strips = s.strips := rfl
@[simp] theorem setAcc_str : (setAcc n a x s).str = s.str := rfl
@[simp] theorem setAcc_apt : (setAcc n a x s).apt = s.apt := rfl
@[simp] theorem setAcc_nand : (setAcc n a x s).nand = s.nand := rfl
@[simp] theorem setAcc_flc : (setAcc n a x s).flc = s.flc := rfl
@[simp] theorem setAcc_evc : (setAcc n a x s).evc = s.evc := rfl
@[simp] theorem setAcc_pwr : (setAcc n a x s).pwr = s.pwr := rfl
@[simp] theorem setAcc_jtag : (setAcc n a x s).jtag = s.jtag := rfl
@[simp] theorem setAcc_mem : (setAcc n a x s).mem = s.mem := rfl
@[simp] theorem setAcc_bad : (setAcc n a x s).bad = s.bad := rfl
@[simp] theorem setAcc_dmc : (setAcc n a x s).dmc = s.dmc := rfl
@[simp] theorem setAcc_sections : (setAcc n a x s).sections = s.sections := rfl
@[simp] theorem setAcc_sets : (setAcc n a x s).sets = s.sets := rfl
@[simp] theorem setAcc_prz : (setAcc n a x s).prz = s.prz := rfl
@[simp] theorem setAcc_mir : (setAcc n a x s).mir = s.mir := rfl
@[simp] theorem setAcc_vib : (setAcc n a x s).vib = s.vib := rfl
@[simp] theorem setAcc_ens : (setAcc n a x s).ens = s.ens := rfl
end

section
variable {n : Voice} {b : Bool} {s : State}
@[simp] theorem setSat_pending : (setSat n b s).pending = s.pending := rfl
@[simp] theorem setSat_clk : (setSat n b s).clk = s.clk := rfl
@[simp] theorem setSat_freeCtr : (setSat n b s).freeCtr = s.freeCtr := rfl
@[simp] theorem setSat_porst : (setSat n b s).porst = s.porst := rfl
@[simp] theorem setSat_fuses : (setSat n b s).fuses = s.fuses := rfl
@[simp] theorem setSat_glb : (setSat n b s).glb = s.glb := rfl
@[simp] theorem setSat_brg : (setSat n b s).brg = s.brg := rfl
@[simp] theorem setSat_isl : (setSat n b s).isl = s.isl := rfl
@[simp] theorem setSat_tbs : (setSat n b s).tbs = s.tbs := rfl
@[simp] theorem setSat_dbOut : (setSat n b s).dbOut = s.dbOut := rfl
@[simp] theorem setSat_bsc : (setSat n b s).bsc = s.bsc := rfl
@[simp] theorem setSat_score : (setSat n b s).score = s.score := rfl
@[simp] theorem setSat_link : (setSat n b s).link = s.link := rfl
@[simp] theorem setSat_out : (setSat n b s).out = s.out := rfl
@[simp] theorem setSat_hif : (setSat n b s).hif = s.hif := rfl
@[simp] theorem setSat_objs : (setSat n b s).objs = s.objs := rfl
@[simp] theorem setSat_cmds : (setSat n b s).cmds = s.cmds := rfl
@[simp] theorem setSat_nextCmd : (setSat n b s).nextCmd = s.nextCmd := rfl
@[simp] theorem setSat_ctxs : (setSat n b s).ctxs = s.ctxs := rfl
@[simp] theorem setSat_masks : (setSat n b s).masks = s.masks := rfl
@[simp] theorem setSat_defMask : (setSat n b s).defMask = s.defMask := rfl
@[simp] theorem setSat_models : (setSat n b s).models = s.models := rfl
@[simp] theorem setSat_jobs : (setSat n b s).jobs = s.jobs := rfl
@[simp] theorem setSat_early : (setSat n b s).early = s.early := rfl
@[simp] theorem setSat_passes : (setSat n b s).passes = s.passes := rfl
@[simp] theorem setSat_strips : (setSat n b s).strips = s.strips := rfl
@[simp] theorem setSat_str : (setSat n b s).str = s.str := rfl
@[simp] theorem setSat_apt : (setSat n b s).apt = s.apt := rfl
@[simp] theorem setSat_nand : (setSat n b s).nand = s.nand := rfl
@[simp] theorem setSat_flc : (setSat n b s).flc = s.flc := rfl
@[simp] theorem setSat_evc : (setSat n b s).evc = s.evc := rfl
@[simp] theorem setSat_pwr : (setSat n b s).pwr = s.pwr := rfl
@[simp] theorem setSat_jtag : (setSat n b s).jtag = s.jtag := rfl
@[simp] theorem setSat_mem : (setSat n b s).mem = s.mem := rfl
@[simp] theorem setSat_bad : (setSat n b s).bad = s.bad := rfl
@[simp] theorem setSat_dmc : (setSat n b s).dmc = s.dmc := rfl
@[simp] theorem setSat_sections : (setSat n b s).sections = s.sections := rfl
@[simp] theorem setSat_sets : (setSat n b s).sets = s.sets := rfl
@[simp] theorem setSat_prz : (setSat n b s).prz = s.prz := rfl
@[simp] theorem setSat_mir : (setSat n b s).mir = s.mir := rfl
@[simp] theorem setSat_vib : (setSat n b s).vib = s.vib := rfl
@[simp] theorem setSat_ens : (setSat n b s).ens = s.ens := rfl
end

section
variable {n : Voice} {b : Bool} {s : State}
@[simp] theorem setV_pending : (setV n b s).pending = s.pending := rfl
@[simp] theorem setV_clk : (setV n b s).clk = s.clk := rfl
@[simp] theorem setV_freeCtr : (setV n b s).freeCtr = s.freeCtr := rfl
@[simp] theorem setV_porst : (setV n b s).porst = s.porst := rfl
@[simp] theorem setV_fuses : (setV n b s).fuses = s.fuses := rfl
@[simp] theorem setV_glb : (setV n b s).glb = s.glb := rfl
@[simp] theorem setV_brg : (setV n b s).brg = s.brg := rfl
@[simp] theorem setV_isl : (setV n b s).isl = s.isl := rfl
@[simp] theorem setV_tbs : (setV n b s).tbs = s.tbs := rfl
@[simp] theorem setV_dbOut : (setV n b s).dbOut = s.dbOut := rfl
@[simp] theorem setV_bsc : (setV n b s).bsc = s.bsc := rfl
@[simp] theorem setV_score : (setV n b s).score = s.score := rfl
@[simp] theorem setV_link : (setV n b s).link = s.link := rfl
@[simp] theorem setV_out : (setV n b s).out = s.out := rfl
@[simp] theorem setV_hif : (setV n b s).hif = s.hif := rfl
@[simp] theorem setV_objs : (setV n b s).objs = s.objs := rfl
@[simp] theorem setV_cmds : (setV n b s).cmds = s.cmds := rfl
@[simp] theorem setV_nextCmd : (setV n b s).nextCmd = s.nextCmd := rfl
@[simp] theorem setV_ctxs : (setV n b s).ctxs = s.ctxs := rfl
@[simp] theorem setV_masks : (setV n b s).masks = s.masks := rfl
@[simp] theorem setV_defMask : (setV n b s).defMask = s.defMask := rfl
@[simp] theorem setV_models : (setV n b s).models = s.models := rfl
@[simp] theorem setV_jobs : (setV n b s).jobs = s.jobs := rfl
@[simp] theorem setV_early : (setV n b s).early = s.early := rfl
@[simp] theorem setV_passes : (setV n b s).passes = s.passes := rfl
@[simp] theorem setV_strips : (setV n b s).strips = s.strips := rfl
@[simp] theorem setV_str : (setV n b s).str = s.str := rfl
@[simp] theorem setV_apt : (setV n b s).apt = s.apt := rfl
@[simp] theorem setV_nand : (setV n b s).nand = s.nand := rfl
@[simp] theorem setV_flc : (setV n b s).flc = s.flc := rfl
@[simp] theorem setV_evc : (setV n b s).evc = s.evc := rfl
@[simp] theorem setV_pwr : (setV n b s).pwr = s.pwr := rfl
@[simp] theorem setV_jtag : (setV n b s).jtag = s.jtag := rfl
@[simp] theorem setV_mem : (setV n b s).mem = s.mem := rfl
@[simp] theorem setV_bad : (setV n b s).bad = s.bad := rfl
@[simp] theorem setV_dmc : (setV n b s).dmc = s.dmc := rfl
@[simp] theorem setV_sections : (setV n b s).sections = s.sections := rfl
@[simp] theorem setV_sets : (setV n b s).sets = s.sets := rfl
@[simp] theorem setV_prz : (setV n b s).prz = s.prz := rfl
@[simp] theorem setV_mir : (setV n b s).mir = s.mir := rfl
@[simp] theorem setV_vib : (setV n b s).vib = s.vib := rfl
@[simp] theorem setV_ens : (setV n b s).ens = s.ens := rfl
end

section
variable {n : Voice} {b : Bool} {s : State}
@[simp] theorem setZ_pending : (setZ n b s).pending = s.pending := rfl
@[simp] theorem setZ_clk : (setZ n b s).clk = s.clk := rfl
@[simp] theorem setZ_freeCtr : (setZ n b s).freeCtr = s.freeCtr := rfl
@[simp] theorem setZ_porst : (setZ n b s).porst = s.porst := rfl
@[simp] theorem setZ_fuses : (setZ n b s).fuses = s.fuses := rfl
@[simp] theorem setZ_glb : (setZ n b s).glb = s.glb := rfl
@[simp] theorem setZ_brg : (setZ n b s).brg = s.brg := rfl
@[simp] theorem setZ_isl : (setZ n b s).isl = s.isl := rfl
@[simp] theorem setZ_tbs : (setZ n b s).tbs = s.tbs := rfl
@[simp] theorem setZ_dbOut : (setZ n b s).dbOut = s.dbOut := rfl
@[simp] theorem setZ_bsc : (setZ n b s).bsc = s.bsc := rfl
@[simp] theorem setZ_score : (setZ n b s).score = s.score := rfl
@[simp] theorem setZ_link : (setZ n b s).link = s.link := rfl
@[simp] theorem setZ_out : (setZ n b s).out = s.out := rfl
@[simp] theorem setZ_hif : (setZ n b s).hif = s.hif := rfl
@[simp] theorem setZ_objs : (setZ n b s).objs = s.objs := rfl
@[simp] theorem setZ_cmds : (setZ n b s).cmds = s.cmds := rfl
@[simp] theorem setZ_nextCmd : (setZ n b s).nextCmd = s.nextCmd := rfl
@[simp] theorem setZ_ctxs : (setZ n b s).ctxs = s.ctxs := rfl
@[simp] theorem setZ_masks : (setZ n b s).masks = s.masks := rfl
@[simp] theorem setZ_defMask : (setZ n b s).defMask = s.defMask := rfl
@[simp] theorem setZ_models : (setZ n b s).models = s.models := rfl
@[simp] theorem setZ_jobs : (setZ n b s).jobs = s.jobs := rfl
@[simp] theorem setZ_early : (setZ n b s).early = s.early := rfl
@[simp] theorem setZ_passes : (setZ n b s).passes = s.passes := rfl
@[simp] theorem setZ_strips : (setZ n b s).strips = s.strips := rfl
@[simp] theorem setZ_str : (setZ n b s).str = s.str := rfl
@[simp] theorem setZ_apt : (setZ n b s).apt = s.apt := rfl
@[simp] theorem setZ_nand : (setZ n b s).nand = s.nand := rfl
@[simp] theorem setZ_flc : (setZ n b s).flc = s.flc := rfl
@[simp] theorem setZ_evc : (setZ n b s).evc = s.evc := rfl
@[simp] theorem setZ_pwr : (setZ n b s).pwr = s.pwr := rfl
@[simp] theorem setZ_jtag : (setZ n b s).jtag = s.jtag := rfl
@[simp] theorem setZ_mem : (setZ n b s).mem = s.mem := rfl
@[simp] theorem setZ_bad : (setZ n b s).bad = s.bad := rfl
@[simp] theorem setZ_dmc : (setZ n b s).dmc = s.dmc := rfl
@[simp] theorem setZ_sections : (setZ n b s).sections = s.sections := rfl
@[simp] theorem setZ_sets : (setZ n b s).sets = s.sets := rfl
@[simp] theorem setZ_prz : (setZ n b s).prz = s.prz := rfl
@[simp] theorem setZ_mir : (setZ n b s).mir = s.mir := rfl
@[simp] theorem setZ_vib : (setZ n b s).vib = s.vib := rfl
@[simp] theorem setZ_ens : (setZ n b s).ens = s.ens := rfl
end

section
variable {n : Voice} {i : Nat} {b : Bool} {s : State}
@[simp] theorem setP_pending : (setP n i b s).pending = s.pending := rfl
@[simp] theorem setP_clk : (setP n i b s).clk = s.clk := rfl
@[simp] theorem setP_freeCtr : (setP n i b s).freeCtr = s.freeCtr := rfl
@[simp] theorem setP_porst : (setP n i b s).porst = s.porst := rfl
@[simp] theorem setP_fuses : (setP n i b s).fuses = s.fuses := rfl
@[simp] theorem setP_glb : (setP n i b s).glb = s.glb := rfl
@[simp] theorem setP_brg : (setP n i b s).brg = s.brg := rfl
@[simp] theorem setP_isl : (setP n i b s).isl = s.isl := rfl
@[simp] theorem setP_tbs : (setP n i b s).tbs = s.tbs := rfl
@[simp] theorem setP_dbOut : (setP n i b s).dbOut = s.dbOut := rfl
@[simp] theorem setP_bsc : (setP n i b s).bsc = s.bsc := rfl
@[simp] theorem setP_score : (setP n i b s).score = s.score := rfl
@[simp] theorem setP_link : (setP n i b s).link = s.link := rfl
@[simp] theorem setP_out : (setP n i b s).out = s.out := rfl
@[simp] theorem setP_hif : (setP n i b s).hif = s.hif := rfl
@[simp] theorem setP_objs : (setP n i b s).objs = s.objs := rfl
@[simp] theorem setP_cmds : (setP n i b s).cmds = s.cmds := rfl
@[simp] theorem setP_nextCmd : (setP n i b s).nextCmd = s.nextCmd := rfl
@[simp] theorem setP_ctxs : (setP n i b s).ctxs = s.ctxs := rfl
@[simp] theorem setP_masks : (setP n i b s).masks = s.masks := rfl
@[simp] theorem setP_defMask : (setP n i b s).defMask = s.defMask := rfl
@[simp] theorem setP_models : (setP n i b s).models = s.models := rfl
@[simp] theorem setP_jobs : (setP n i b s).jobs = s.jobs := rfl
@[simp] theorem setP_early : (setP n i b s).early = s.early := rfl
@[simp] theorem setP_passes : (setP n i b s).passes = s.passes := rfl
@[simp] theorem setP_strips : (setP n i b s).strips = s.strips := rfl
@[simp] theorem setP_str : (setP n i b s).str = s.str := rfl
@[simp] theorem setP_apt : (setP n i b s).apt = s.apt := rfl
@[simp] theorem setP_nand : (setP n i b s).nand = s.nand := rfl
@[simp] theorem setP_flc : (setP n i b s).flc = s.flc := rfl
@[simp] theorem setP_evc : (setP n i b s).evc = s.evc := rfl
@[simp] theorem setP_pwr : (setP n i b s).pwr = s.pwr := rfl
@[simp] theorem setP_jtag : (setP n i b s).jtag = s.jtag := rfl
@[simp] theorem setP_mem : (setP n i b s).mem = s.mem := rfl
@[simp] theorem setP_bad : (setP n i b s).bad = s.bad := rfl
@[simp] theorem setP_dmc : (setP n i b s).dmc = s.dmc := rfl
@[simp] theorem setP_sections : (setP n i b s).sections = s.sections := rfl
@[simp] theorem setP_sets : (setP n i b s).sets = s.sets := rfl
@[simp] theorem setP_prz : (setP n i b s).prz = s.prz := rfl
@[simp] theorem setP_mir : (setP n i b s).mir = s.mir := rfl
@[simp] theorem setP_vib : (setP n i b s).vib = s.vib := rfl
@[simp] theorem setP_ens : (setP n i b s).ens = s.ens := rfl
end

section
variable {m : Msg} {s : State}
@[simp] theorem send_pending : (send m s).pending = s.pending := rfl
@[simp] theorem send_clk : (send m s).clk = s.clk := rfl
@[simp] theorem send_freeCtr : (send m s).freeCtr = s.freeCtr := rfl
@[simp] theorem send_porst : (send m s).porst = s.porst := rfl
@[simp] theorem send_fuses : (send m s).fuses = s.fuses := rfl
@[simp] theorem send_glb : (send m s).glb = s.glb := rfl
@[simp] theorem send_brg : (send m s).brg = s.brg := rfl
@[simp] theorem send_isl : (send m s).isl = s.isl := rfl
@[simp] theorem send_tbs : (send m s).tbs = s.tbs := rfl
@[simp] theorem send_dbOut : (send m s).dbOut = s.dbOut := rfl
@[simp] theorem send_bsc : (send m s).bsc = s.bsc := rfl
@[simp] theorem send_score : (send m s).score = s.score := rfl
@[simp] theorem send_link : (send m s).link = s.link := rfl
@[simp] theorem send_hif : (send m s).hif = s.hif := rfl
@[simp] theorem send_objs : (send m s).objs = s.objs := rfl
@[simp] theorem send_cmds : (send m s).cmds = s.cmds := rfl
@[simp] theorem send_nextCmd : (send m s).nextCmd = s.nextCmd := rfl
@[simp] theorem send_ctxs : (send m s).ctxs = s.ctxs := rfl
@[simp] theorem send_masks : (send m s).masks = s.masks := rfl
@[simp] theorem send_defMask : (send m s).defMask = s.defMask := rfl
@[simp] theorem send_models : (send m s).models = s.models := rfl
@[simp] theorem send_jobs : (send m s).jobs = s.jobs := rfl
@[simp] theorem send_early : (send m s).early = s.early := rfl
@[simp] theorem send_passes : (send m s).passes = s.passes := rfl
@[simp] theorem send_strips : (send m s).strips = s.strips := rfl
@[simp] theorem send_str : (send m s).str = s.str := rfl
@[simp] theorem send_apt : (send m s).apt = s.apt := rfl
@[simp] theorem send_nand : (send m s).nand = s.nand := rfl
@[simp] theorem send_flc : (send m s).flc = s.flc := rfl
@[simp] theorem send_evc : (send m s).evc = s.evc := rfl
@[simp] theorem send_pwr : (send m s).pwr = s.pwr := rfl
@[simp] theorem send_jtag : (send m s).jtag = s.jtag := rfl
@[simp] theorem send_mem : (send m s).mem = s.mem := rfl
@[simp] theorem send_bad : (send m s).bad = s.bad := rfl
@[simp] theorem send_dmc : (send m s).dmc = s.dmc := rfl
@[simp] theorem send_voices : (send m s).voices = s.voices := rfl
@[simp] theorem send_sections : (send m s).sections = s.sections := rfl
@[simp] theorem send_sets : (send m s).sets = s.sets := rfl
@[simp] theorem send_prz : (send m s).prz = s.prz := rfl
@[simp] theorem send_mir : (send m s).mir = s.mir := rfl
@[simp] theorem send_vib : (send m s).vib = s.vib := rfl
@[simp] theorem send_ens : (send m s).ens = s.ens := rfl
end

section
variable {n : Source} {s : State}
@[simp] theorem occur_pending : (occur n s).pending = s.pending := rfl
@[simp] theorem occur_clk : (occur n s).clk = s.clk := rfl
@[simp] theorem occur_freeCtr : (occur n s).freeCtr = s.freeCtr := rfl
@[simp] theorem occur_porst : (occur n s).porst = s.porst := rfl
@[simp] theorem occur_fuses : (occur n s).fuses = s.fuses := rfl
@[simp] theorem occur_glb : (occur n s).glb = s.glb := rfl
@[simp] theorem occur_brg : (occur n s).brg = s.brg := rfl
@[simp] theorem occur_isl : (occur n s).isl = s.isl := rfl
@[simp] theorem occur_tbs : (occur n s).tbs = s.tbs := rfl
@[simp] theorem occur_dbOut : (occur n s).dbOut = s.dbOut := rfl
@[simp] theorem occur_bsc : (occur n s).bsc = s.bsc := rfl
@[simp] theorem occur_score : (occur n s).score = s.score := rfl
@[simp] theorem occur_link : (occur n s).link = s.link := rfl
@[simp] theorem occur_out : (occur n s).out = s.out := rfl
@[simp] theorem occur_hif : (occur n s).hif = s.hif := rfl
@[simp] theorem occur_objs : (occur n s).objs = s.objs := rfl
@[simp] theorem occur_cmds : (occur n s).cmds = s.cmds := rfl
@[simp] theorem occur_nextCmd : (occur n s).nextCmd = s.nextCmd := rfl
@[simp] theorem occur_ctxs : (occur n s).ctxs = s.ctxs := rfl
@[simp] theorem occur_masks : (occur n s).masks = s.masks := rfl
@[simp] theorem occur_defMask : (occur n s).defMask = s.defMask := rfl
@[simp] theorem occur_models : (occur n s).models = s.models := rfl
@[simp] theorem occur_jobs : (occur n s).jobs = s.jobs := rfl
@[simp] theorem occur_early : (occur n s).early = s.early := rfl
@[simp] theorem occur_passes : (occur n s).passes = s.passes := rfl
@[simp] theorem occur_strips : (occur n s).strips = s.strips := rfl
@[simp] theorem occur_str : (occur n s).str = s.str := rfl
@[simp] theorem occur_apt : (occur n s).apt = s.apt := rfl
@[simp] theorem occur_nand : (occur n s).nand = s.nand := rfl
@[simp] theorem occur_flc : (occur n s).flc = s.flc := rfl
@[simp] theorem occur_pwr : (occur n s).pwr = s.pwr := rfl
@[simp] theorem occur_jtag : (occur n s).jtag = s.jtag := rfl
@[simp] theorem occur_mem : (occur n s).mem = s.mem := rfl
@[simp] theorem occur_bad : (occur n s).bad = s.bad := rfl
@[simp] theorem occur_dmc : (occur n s).dmc = s.dmc := rfl
@[simp] theorem occur_voices : (occur n s).voices = s.voices := rfl
@[simp] theorem occur_sections : (occur n s).sections = s.sections := rfl
@[simp] theorem occur_sets : (occur n s).sets = s.sets := rfl
@[simp] theorem occur_prz : (occur n s).prz = s.prz := rfl
@[simp] theorem occur_mir : (occur n s).mir = s.mir := rfl
@[simp] theorem occur_vib : (occur n s).vib = s.vib := rfl
@[simp] theorem occur_ens : (occur n s).ens = s.ens := rfl
end

section
variable {n : Source} {s : State}
@[simp] theorem report_pending : (report n s).pending = s.pending := rfl
@[simp] theorem report_clk : (report n s).clk = s.clk := rfl
@[simp] theorem report_freeCtr : (report n s).freeCtr = s.freeCtr := rfl
@[simp] theorem report_porst : (report n s).porst = s.porst := rfl
@[simp] theorem report_fuses : (report n s).fuses = s.fuses := rfl
@[simp] theorem report_glb : (report n s).glb = s.glb := rfl
@[simp] theorem report_brg : (report n s).brg = s.brg := rfl
@[simp] theorem report_isl : (report n s).isl = s.isl := rfl
@[simp] theorem report_tbs : (report n s).tbs = s.tbs := rfl
@[simp] theorem report_dbOut : (report n s).dbOut = s.dbOut := rfl
@[simp] theorem report_bsc : (report n s).bsc = s.bsc := rfl
@[simp] theorem report_score : (report n s).score = s.score := rfl
@[simp] theorem report_link : (report n s).link = s.link := rfl
@[simp] theorem report_out : (report n s).out = s.out := rfl
@[simp] theorem report_hif : (report n s).hif = s.hif := rfl
@[simp] theorem report_objs : (report n s).objs = s.objs := rfl
@[simp] theorem report_cmds : (report n s).cmds = s.cmds := rfl
@[simp] theorem report_nextCmd : (report n s).nextCmd = s.nextCmd := rfl
@[simp] theorem report_ctxs : (report n s).ctxs = s.ctxs := rfl
@[simp] theorem report_masks : (report n s).masks = s.masks := rfl
@[simp] theorem report_defMask : (report n s).defMask = s.defMask := rfl
@[simp] theorem report_models : (report n s).models = s.models := rfl
@[simp] theorem report_jobs : (report n s).jobs = s.jobs := rfl
@[simp] theorem report_early : (report n s).early = s.early := rfl
@[simp] theorem report_passes : (report n s).passes = s.passes := rfl
@[simp] theorem report_strips : (report n s).strips = s.strips := rfl
@[simp] theorem report_str : (report n s).str = s.str := rfl
@[simp] theorem report_apt : (report n s).apt = s.apt := rfl
@[simp] theorem report_nand : (report n s).nand = s.nand := rfl
@[simp] theorem report_flc : (report n s).flc = s.flc := rfl
@[simp] theorem report_pwr : (report n s).pwr = s.pwr := rfl
@[simp] theorem report_jtag : (report n s).jtag = s.jtag := rfl
@[simp] theorem report_mem : (report n s).mem = s.mem := rfl
@[simp] theorem report_bad : (report n s).bad = s.bad := rfl
@[simp] theorem report_dmc : (report n s).dmc = s.dmc := rfl
@[simp] theorem report_voices : (report n s).voices = s.voices := rfl
@[simp] theorem report_sections : (report n s).sections = s.sections := rfl
@[simp] theorem report_sets : (report n s).sets = s.sets := rfl
@[simp] theorem report_prz : (report n s).prz = s.prz := rfl
@[simp] theorem report_mir : (report n s).mir = s.mir := rfl
@[simp] theorem report_vib : (report n s).vib = s.vib := rfl
@[simp] theorem report_ens : (report n s).ens = s.ens := rfl
end

/-! ### What is written is read back -/

@[simp] theorem voiceOf_setVoice {n : Voice} {f : VoiceSt → VoiceSt} {s : State} :
    voiceOf (setVoice n f s) n = f (voiceOf s n) := by simp [voiceOf, setVoice]

theorem voiceOf_setVoice_ne {n m : Voice} {f : VoiceSt → VoiceSt} {s : State} (h : n ≠ m) :
    voiceOf (setVoice n f s) m = voiceOf s m := by
  have h' : n.val ≠ m.val := fun e => h (Fin.ext e)
  simp [voiceOf, setVoice, h']

@[simp] theorem pageOf_setPage {p : Part} {f : Page → Page} {s : State} : pageOf (setPage p f s) p = f (pageOf s p) := by
  simp [pageOf, setPage]

@[simp] theorem islOf_setIsl {i : Island} {f : IslandSt → IslandSt} {s : State} : islOf (setIsl i f s) i = f (islOf s i) := by
  simp [islOf, setIsl]

end Sys2Proof.Machine
end

