-- ==== Sys2Proof/Laws/Ops.lean ====
section
/-! SUPPORT. What the shared operations do when their conditions hold, and when they do not: running a command, BAR0
registers, grants, and the issue of an Aznil word. -/

namespace Sys2Proof.Machine

variable {s : State}

theorem live_low {f : State → State} (h : s.porst = true) : live s f = .next s := by simp [live, h]

theorem live_of {f : State → State} (h : s.porst = false) : live s f = .next (f s) := by simp [live, h]

/-! ### Registers -/

theorem served_porst {off : Nat} (h : served s off = true) : s.porst = false := by
  simp [served] at h; exact h.1.1.1

/-- A write to a served register has its effect, and no more. -/
theorem regWrite_of_served {off : Nat} {f : State → State} (h : served s off = true) : regWrite off f s = f s := by
  simp only [served, Bool.and_eq_true] at h
  obtain ⟨⟨⟨_, hl⟩, hm⟩, hb⟩ := h
  unfold regWrite barAccess
  simp only [hl, hm, Bool.not_true, Bool.false_eq_true, if_false]
  cases hblk : blockOf off with
  | none => simp [hblk] at hb
  | some b =>
    simp only [hblk, Bool.and_eq_true] at hb ⊢
    obtain ⟨ha, hp⟩ := hb
    simp only [ha, Bool.not_true, Bool.false_eq_true, if_false]
    cases b <;> simp_all

/-- A read of a served register answers its value and has its effect; the completion waits for no BAR2 write but those the
link holds (R125). -/
theorem regRead_of_served {off : Nat} {val : State → Option Word} {eff : State → State} {v : Word}
    (h : served s off = true) (hv : val s = some v) : regRead off val eff s = reply (.bar0 off v) (eff s) := by
  simp only [served, Bool.and_eq_true] at h
  obtain ⟨⟨⟨_, hl⟩, hm⟩, hb⟩ := h
  unfold regRead barAccess
  simp only [hl, hm, Bool.not_true, Bool.false_eq_true, if_false]
  cases hblk : blockOf off with
  | none => simp [hblk] at hb
  | some b =>
    simp only [hblk, Bool.and_eq_true] at hb ⊢
    obtain ⟨ha, hp⟩ := hb
    simp only [ha, Bool.not_true, Bool.false_eq_true, if_false, hv]
    cases b <;> simp_all

theorem regWrite_silent {off : Nat} {f : State → State} (h : linkAnswers s = false) : regWrite off f s = s := by
  simp [regWrite, barAccess, h]

theorem regRead_silent {off : Nat} {val : State → Option Word} {eff : State → State} (h : linkAnswers s = false) :
    regRead off val eff s = s := by
  simp [regRead, barAccess, h]

/-! ### Grants -/

theorem withLease_of {c : Consumer} {t : Tag} {k : State → State} (h : holdsGrant s c = true) :
    withLease c t k s = k s := by simp [withLease, h]

theorem withBurst_of {c : Consumer} {t : Tag} {k : State → State} (h : holdsGrant s c = true) :
    withBurst c t k s = k (endGrant c s) := by simp [withBurst, h]

theorem withBurst_without {c : Consumer} {t : Tag} {k : State → State} (h : holdsGrant s c = false) :
    withBurst c t k s = request c t s := by simp [withBurst, h]

theorem withDma_of {i : Option Nat} {k : State → State} (h : hifRuns s = true) (g : holdsGrant s (.dma i) = true) :
    withDma i k s = k (endGrant (.dma i) s) := by simp [withDma, withBurst, h, g]

/-! ### Issue -/

/-- A word that the voice issues does what its instruction does. -/
theorem issueInsn_of_issues {n : Voice} {ok is_ : Nat → Bool} {k : Nat → State → Ran} {w : Word}
    (h : issues s n w = true) (ho : ok w.toNat = true) (hi : is_ w.toNat = true) :
    issueInsn n ok is_ k s = settle n (k w.toNat s) := by
  simp only [issues, Bool.and_eq_true, bne_iff_ne, beq_iff_eq, Option.isNone_iff_eq_none] at h
  obtain ⟨⟨⟨⟨⟨⟨_, hc⟩, hw⟩, hl⟩, hcode⟩, hg⟩, hp⟩ := h
  simp [issueInsn, hc, hcode, ho, hi, hw, withLease, hl, hg, hp]

theorem insn_of_issues {n : Voice} {major minor : Nat} {k : Nat → State → Ran} {w : Word}
    (h : issues s n w = true) (hi : insnOf w.toNat = some (major, minor)) :
    insn n major minor k s = settle n (k w.toNat s) :=
  issueInsn_of_issues h (by simp [hi]) (by simp [hi])

theorem insnOp_of_issues {n : Voice} {major : Nat} {op : Bool} {k : Nat → State → Ran} {w : Word}
    (h : issues s n w = true) (hi : insnOf w.toNat = some (major, 0)) (ho : bitAt w.toNat 0 = op) :
    insnOp n major op k s = settle n (k w.toNat s) :=
  issueInsn_of_issues h (by simp [hi]) (by simp [hi, ho])

theorem issues_porst {n : Voice} {w : Word} (h : issues s n w = true) : s.porst = false := by
  simp [issues] at h; exact h.1.1.1.1.1.1

@[simp] theorem settle_next {n : Voice} : settle n (.next s) = pcNext n s := rfl

end Sys2Proof.Machine
end

