-- ==== Sys2Proof/Tests/Slice0.lean ====
section
/-! SUPPORT. The model's own tests: ill-formed terms that the checks refuse, the spec's worked examples, and for each
statement of Obligations states and operands that meet its hypotheses, with what the one step then shows. -/

open Sys2Proof Sys2Proof.Machine

namespace Sys2Proof.Tests

-- One theorem at a time: each is checked by the kernel after what stands before it.
set_option Elab.async false

/-! ### Ill-formed commands -/

def pkt (type msg : Nat) (arg payload : List Byte) : Packet :=
  { type := type, dst := 1, src := 2, ttl := 16, seq := 0, arg := BitVec.ofNat 8 msg :: (arg ++ List.replicate 7 0).take 7
    payload := payload }

/-- One ill-formed term for each check of `Instr.wf`. -/
theorem test_ill_formed :
    ([.scoreHeaderRead ⟨true, true, 0⟩ [], .clockMonitorWindow [1], .linkUp 5 2, .linkUp 0 2, .linkUp 1 3,
      .unmappedBar0Access 0x100000 true, .bar2Read 0 0, .bar2Read 0x10000000 1, .bar2Write 0 [],
      .bar2Write 0x10000000 [1], .dmaReadCompletion 0 [], .submissionFetch 0 [0], .flashInitComplete none [] [],
      .flashPageRead 0 768 (List.replicate 4 ⟨none, 0⟩), .flashPageRead 0 0 [],
      .dmcRequestAccept 0 ⟨.scrub, [], none, 0, 0, none⟩, .dmcRequestAccept 0 ⟨.scrub, [], none, 0, 65, none⟩,
      .dmcRequestAccept 0 ⟨.scrub, [], none, 63, 2, none⟩, .mr4Poll 0 [], .sectionScrub 0 0x600000 [],
      .data 0 (pkt 256 0 [] []), .join 0 { pkt 2 1 [] [] with dst := 256 }, .reach 0 { pkt 2 2 [] [] with src := 256 },
      .reserve 0 { pkt 2 3 [] [] with ttl := 256 }, .reserveReply 0 { pkt 2 4 [] [] with seq := 4096 },
      .release 0 { pkt 2 5 [] [] with arg := [] }, .commit 0 (pkt 2 6 [] [1]),
      .rollback 0 (pkt 2 7 [] (List.replicate 272 0)), .stageDone 0 (pkt 2 8 [] [1]), .fault 0 (pkt 2 9 [] [1]),
      .destroy 0 (pkt 2 10 [] [1]), .keepalive 0 (pkt 4 0 [] [1]), .ack 0 (pkt 5 0 [] [1]), .ident 0 (pkt 6 0 [] [1]),
      .downbeat 0 (pkt 3 0 [] [1]) 0, .linkError 0 (.gap (pkt 1 0 [] [1])), .thermalSample [20],
      .thermalSample (128 :: List.replicate 7 20), .thermalSample (-129 :: List.replicate 7 20),
      .registerWrite 0x100000 [(0, 0xF)],
      .registerWrite 0 [], .registerWrite 0 (List.replicate 17 (0, 0xF)), .registerWrite 2 [(0, 0xF)],
      .rcRegisterRead 0x100000 1, .rcRegisterRead 0 0] : List Instr).all (fun c => !c.wf) = true := by
  decide +kernel

/-- A copy of more than 8 MiB, without its bytes. -/
theorem test_ill_formed_copy (c : List Byte) (h : c.length = 8388609) : (Instr.scoreCopyReadEnd c).wf = false := by
  simp [Instr.wf, h]

/-- Well-formed neighbours of the same terms. -/
theorem test_well_formed :
    ([.scoreHeaderRead ⟨true, true, 0⟩ (List.replicate 128 0), .scoreCopyReadEnd [], .clockMonitorWindow (List.replicate 32 0),
      .linkUp 4 4, .unmappedBar0Access 0xFFFFF true, .bar2Read 0xFFFFFFF 1, .bar2Write 0xFFFFFFF [1],
      .dmaReadCompletion 0 [0], .submissionFetch 0 (List.replicate 64 0), .flashInitComplete none [true, true, true, true] [],
      .flashPageRead 0 767 (List.replicate 4 ⟨none, 0⟩), .dmcRequestAccept 0 ⟨.scrub, [], none, 64, 64, none⟩,
      .mr4Poll 0 (List.replicate 8 .x1), .sectionScrub 0 0x5FFFFF [], .data 0 (pkt 1 0 [] (List.replicate 256 0)),
      .thermalSample (List.replicate 8 127), .registerWrite 0xFFFFC [(0, 0xF)], .rcRegisterRead 0xFFFC0 16, .nop 0, .tbsTick] : List Instr).all
      (fun c => c.wf) = true := by
  decide +kernel

/-! ### States -/

/-- The state that a command leaves. -/
def after (c : Instr) (s : State) : State := match exec c s with
  | .next t => t
  | _ => s

def part0 : PartCfg := ⟨1, 64, 16, 16, 0, 4, 0, 0, 10, 1, 0, 64⟩

def cfg : Score :=
  { version := 1
    build := 0
    fw := 0
    debugUnlock := true
    commit := false
    revoke := 0
    keySlot := 0
    breath := ⟨320, 200, 40, 60, 40, 10, 8, 0⟩
    parts := Vector.replicate 8 (some part0)
    dram := ⟨4, 0, 0, 0, 100, 4, 24⟩
    dies := 1
    slots := []
    ens := some { device := 1, leader := true, hops := 0, ports := 0xF, route := [2, 0xFE, 0] }
    queueMode := false
    routes := []
    preload := []
    early := none
    spread := 0
    noCollapse := 0 }

def running : IslandSt := { st := .run, bad := false, fresh := false, requal := none, ramped := false, meas := 0, target := 0 }

def grants (us : List Consumer) : LedgerSt :=
  { Brg.reset.core with grants := us.zipIdx.map fun u => { id := u.2, unit := u.1, tag := .system, since := 0 } }

def page : Page := { Page.reset with isOpen := true, userSec := 4, userDram := 16 }

/-- FULL, every island in RUN, the link up, every page open, and these grants held. -/
def up (core io : List Consumer) : State :=
  { State.reset with
    score := some cfg
    bsc := { Bsc.reset with stage := .full, debugOk := true }
    link := { Link.reset with up := true, perst := false, mse := true, bme := true }
    isl := { Isl.reset with each := Vector.replicate 32 running }
    brg := { Brg.reset with ceil := 320, core := grants core, io := grants io }
    hif := { Hif.reset with pages := Vector.replicate 8 page }
    pwr := { Pwr.reset with st := .on } }

def on : State := up [] []

/-- A word of these fields. -/
def word (major d a b low : Nat) : Word :=
  BitVec.ofNat 32 (major * 2 ^ 26 + d * 2 ^ 18 + a * 2 ^ 14 + b * 2 ^ 10 + low)

def cmdEntry (id op : Nat) (fields : List Byte) : Cmd :=
  { newCmd on 0 ([BitVec.ofNat 8 op, 0, 5, 0] ++ fields ++ List.replicate (60 - fields.length) 0) with
    id := id, phase := .ready }

def regs (rs : List (Nat × Word)) : Vector Word 16 :=
  rs.foldl (fun v r => v.set (Fin.ofNat 16 r.1) r.2) (Vector.replicate 16 0)

/-- V8 in a KERNEL set of P0 with this word in hand and these registers. -/
def vox (w : Word) (rs : List (Nat × Word)) : State :=
  { up [.voice 8 .scalar, .voice 8 .array, .secMem 0] [] with
    voices := State.reset.voices.set 8 { VoiceSt.reset with s := regs rs, code := [w, w], run := .set 7 0 }
    cmds := [{ cmdEntry 7 0x38 [] with phase := .running }]
    sets := [{ cmd := 7, part := 0, mirror := false, voices := [8], startedAt := 0, resumedAt := 0, given := [8], stopping := false, saved := [] }] }

/-- V8 after a row of its word. -/
def v8 (c : Voice → Instr) (s : State) : VoiceSt := voiceOf (after (c 8) s) 8

/-! ### The scalar instructions -/

/-- The words of Worked example 15.1, as 15 prints them, decode to the instructions that it names. -/
theorem test_words_15_1 :
    ([0x10140010, 0x10200010, 0x501CE000, 0x04199C00, 0x100CC004, 0x10157FFF, 0x08014040, 0x323FFFFB, 0x043DA150,
      0x38000010].map insnOf) =
      [some (0x04, 0), some (0x04, 0), some (0x14, 0), some (0x01, 0), some (0x04, 0), some (0x04, 0), some (0x02, 0),
       some (0x0C, 0), some (0x01, 0x15), some (0x0E, 1)] := by
  decide

/-- The table of Worked example 15.1: result and flags V and Z on clear flags. -/
theorem test_table_15_1 :
    ([(Instr.divs, 0x15, 0x80000000, 0xFFFFFFFF, 0x80000000, true, false), (.divs, 0x15, 0xFFFFFF9C, 0, 1, false, true),
      (.divu, 0x14, 0xFFFFFF9C, 0, 0xFFFFFFFF, false, true), (.rems, 0x17, 0xFFFFFF9C, 0, 0xFFFFFF9C, false, true),
      (.rems, 0x17, 0x80000000, 0xFFFFFFFF, 0, false, false), (.sra, 0x0A, 0xFFFFFF9C, 0x28, 0xFFFFFFFF, false, false),
      (.srl, 0x09, 0xFFFFFF9C, 0x28, 0, false, false), (.sll, 0x08, 1, 0x101, 0, false, false),
      (.divs, 0x15, 0xFFFFFF9C, 16, 0xFFFFFFFA, false, false)] :
      List ((Voice → Instr) × Nat × Word × Word × Word × Bool × Bool)).all (fun r =>
        let v := v8 r.1 (vox (word 1 15 6 8 (16 * r.2.1)) [(6, r.2.2.1), (8, r.2.2.2.1)])
        v.s[(15 : Fin 16)] == r.2.2.2.2.1 && v.v == r.2.2.2.2.2.1 && v.z == r.2.2.2.2.2.2 && v.pc == 1) = true ∧
    (let v := v8 .neg (vox (word 1 15 6 0 0x200) [(6, 0x80000000)]); v.s[(15 : Fin 16)] = 0x80000000 ∧ v.v = true) := by
  decide

/-- O8: every row of the ALU map issues, and the result is the row's. -/
theorem test_alu : Spec.aluTable.all (fun r =>
    let w := word 1 15 6 0 (16 * r.minor)
    let s := vox w [(6, 0xFFFFFF9C)]
    issues s 8 w && insnOf w.toNat == some (1, r.minor) &&
      (v8 r.instr s).s[(15 : Fin 16)] == r.value 0xFFFFFF9C 0) = true := by
  decide

/-- O9: the immediates with their top bits set. -/
theorem test_immediates : Spec.immTable.all (fun r =>
    let w := word r.major 15 6 0 (if r.major = 8 ∨ r.major = 9 ∨ r.major = 10 then 31 else 0x3FFF)
    let s := vox w [(6, 0x8000F00F)]
    issues s 8 w && insnOf w.toNat == some (r.major, 0) &&
      (v8 r.instr s).s[(15 : Fin 16)] == r.value 0x8000F00F w) = true ∧
    insnOf (word 8 15 6 0 0x20).toNat = none := by
  decide

/-- O10: CMP p1 of each condition, PLOG, WRPR. -/
theorem test_predicates :
    ((List.range 6).all fun k =>
      let w := word 2 4 6 8 (64 * k)
      let s := vox w [(6, 0xFFFFFFFF), (8, 1)]
      issues s 8 w && insnOf w.toNat == some (2, 0) &&
        (v8 .cmp s).p.getLsbD 1 == Spec.cmpHolds (BitVec.ofNat 4 k) 0xFFFFFFFF 1) = true ∧
    (let w := word 3 4 0 0 0x1000; issues (vox w []) 8 w = true ∧ insnOf w.toNat = some (3, 0) ∧ (v8 .plog (vox w [])).p = 2) ∧
    (let w := word 0x0E 0 6 0 0x40
     issues (vox w [(6, 0xF5)]) 8 w = true ∧ insnOf w.toNat = some (0x0E, 4) ∧ (v8 .wrpr (vox w [(6, 0xF5)])).p = 5) := by
  decide

/-- O11: NOP, RDSR of its five registers, and a write of s0. -/
theorem test_nop_rdsr :
    (let w := word 0x0E 0 0 0 0; issues (vox w []) 8 w = true ∧ insnOf w.toNat = some (0x0E, 0) ∧ (v8 .sysNop (vox w [])).pc = 1) ∧
    ((List.range 5).all fun k =>
      let w := word 0x0E 3 0 k 0x30
      issues (vox w []) 8 w && insnOf w.toNat == some (0x0E, 3) && (v8 .rdsr (vox w [])).s[(3 : Fin 16)] ==
        if k = 2 then 8 else 0) = true ∧
    sReg (setReg 8 0 5 (vox 0 [])) 8 0 = 0 := by
  decide

/-- O12: BR −1 from word 0 leaves the code and halts; JAL and JALR stay in it. -/
theorem test_branches :
    (let w := word 0x0C 0xF 0xF 0xF 0x3FF; let w := w ||| 0x3FFFFF
     issues (vox w []) 8 w = true ∧ insnOf w.toNat = some (0x0C, 0) ∧ (v8 .br (vox w [])).cause = haltRange.cause ∧
       (v8 .br (vox w [])).pc = 0xFFFFFF) ∧
    (let w := word 0x0D 3 0 0 1; issues (vox w []) 8 w = true ∧ insnOf w.toNat = some (0x0D, 0) ∧
       (v8 .jal (vox w [])).pc = 1 ∧ (v8 .jal (vox w [])).s[(3 : Fin 16)] = 1) ∧
    (let w := word 0x0E 3 6 0 0x20; issues (vox w [(6, 0xFF000001)]) 8 w = true ∧ insnOf w.toNat = some (0x0E, 2) ∧
       (v8 .jalr (vox w [(6, 0xFF000001)])).pc = 1) := by
  decide

/-- O13, O14: a guard that does not hold only moves PC; an undefined word and the end of the code halt; a defined word is
left to its own row. -/
theorem test_guards_and_halts :
    (let w := word 1 15 6 8 0 ||| 0x02000000; let s := vox w [(6, 1), (8, 2)]
     aznilOf (.add 8) ≠ none ∧ canIssue s 8 = true ∧ (voiceOf s 8).wait ≠ .event ∧ holdsGrant s (.voice 8 .scalar) = true ∧
       guardOk (voiceOf s 8) w.toNat = false ∧ (v8 .add s).pc = 1 ∧ (v8 .add s).s[(15 : Fin 16)] = 0) ∧
    (insnOf 0 = none ∧ (v8 .add (vox 0 [])).cause = haltIllegal.cause) ∧
    (let s := setVoice 8 (fun v => { v with pc := 2 }) (vox 0 [])
     (voiceOf s 8).code[(voiceOf s 8).pc]? = none ∧ (v8 .add s).cause = haltRange.cause) ∧
    ((insnOf (word 1 15 6 8 0).toNat).isSome = true ∧ (v8 .sub (vox (word 1 15 6 8 0) [])).pc = 0) ∧
    insnOf (word 1 15 6 8 0 ||| 0x00400000).toNat = none := by
  decide

/-- O15: the record of a halt on a free voice; the last STOP of a set ends it, an earlier one does not. -/
theorem test_halts_and_stops :
    (let s := setVoice 8 (fun v => { v with run := .free, valid := true }) (vox 0x1234 [])
     let v := voiceOf (haltVoice 8 (haltAccess 0x55) false s) 8
     (voiceOf s 8).run = .free ∧ (voiceOf s 8).code[(voiceOf s 8).pc]? = some 0x1234 ∧ v.valid = true ∧ v.overrun = true ∧
       v.haltWord = 0x1234 ∧ v.haltAddr = 0x55 ∧ v.cause = 2) ∧
    (let w := word 0x0E 0 0 0 0x10; let s := vox w []
     let s2 := { s with sets := s.sets.map fun k => { k with voices := [8, 9] } }
     issues s 8 w = true ∧ insnOf w.toNat = some (0x0E, 1) ∧ (setOf s 7).isSome = true ∧ (after (.stop 8) s).sets = [] ∧
       (voiceOf (after (.stop 8) s) 8).run = .free ∧ issues s2 8 w = true ∧ (voiceOf s2 9).stopped = false ∧
       (voiceOf (after (.stop 8) s2) 8).stopped = true ∧ (after (.stop 8) s2).sets.length = 1) := by
  decide

/-! ### Loads, stores and tiles -/

def bytesAt (a : Nat) (l : List Byte) : Memory := l.zipIdx.map fun b => (a + b.2, b.1)

/-- A pass of handle 0 with one row of command 7 on V8. -/
def pass0 : Pass :=
  { model := .handle 0, rows := [{ cmd := 7, part := 0, key := 0, pos := 0, kind := .prefill 1 }], voices := [8], mirrored := false
    pacing := .voices, waitNs := 0, since := 0, failure := none, rowFail := [], num := 1, stagesDone := [], stageWait := 0, halted := [], runahead := 0 }

/-- V8 in that pass, with the resident space of handle 0 in the first granule. -/
def inPass0 (w : Word) (rs : List (Nat × Word)) : State :=
  let s := vox w rs
  { s with
    sets := []
    passes := [pass0]
    models := s.models.set 0 { Model.empty with st := .resident, units := [(0, 1)] }
    voices := s.voices.set 8 { s.voices[8] with run := .pass (.handle 0) } }

/-- O16: each load in a set and in a pass, and one that is out of reach. -/
theorem test_loads : Spec.loadTable.all (fun r =>
    let w := word r.major 7 3 0 0
    let s := { vox w [(3, 0x101)] with mem := bytesAt 0x100 [0x80, 0x91, 0xA2, 0xB3] }
    let a := Spec.ea s 8 w r.size
    let q := { inPass0 (w ||| 0x2000) [(4, 1)] with mem := bytesAt 0x100000000 [0x80, 0x91, 0xA2, 0xB3] }
    let t := vox w [(3, 0x40000)]
    issues s 8 w && insnOf w.toNat == some (r.major, 0) && Spec.inSet s 8 && reaches s 8 false a r.size &&
      Spec.leased s [a, a + r.size - 1] && Spec.readsClean s a r.size && a == 0x101 / r.size * r.size &&
      (v8 (fun n => r.instr n []) s).s[(7 : Fin 16)] == r.value (leNat (memRead s.mem a r.size)) &&
      issues q 8 (w ||| 0x2000) && reaches q 8 false 0x100000000 r.size && Spec.readsClean q 0x100000000 r.size &&
      (stripOf 0x100000000).isNone && (v8 (fun n => r.instr n []) q).pc == 1 &&
      (v8 (fun n => r.instr n []) q).s[(7 : Fin 16)] == r.value (leNat (memRead q.mem 0x100000000 r.size)) &&
      !reaches t 8 false (Spec.ea t 8 w r.size) r.size && (v8 (fun n => r.instr n []) t).cause == 2) = true := by
  decide +kernel

/-- O17: each store, in reach and out of it. -/
theorem test_stores : Spec.storeTable.all (fun r =>
    let w := word r.major 7 3 0 1
    let s := vox w [(3, 0x100), (7, 0xB3A29180)]
    let a := Spec.ea s 8 w r.size
    let t := vox w [(3, 0x40000)]
    issues s 8 w && insnOf w.toNat == some (r.major, 0) && Memory.wf s.mem && reaches s 8 true a r.size &&
      Spec.leased s [a, a + r.size - 1] && (badIn s a r.size).isNone && Spec.alive s a r.size && a == 0x100 + r.size &&
      (after (r.instr 8) s).mem == bytesAt a ((toLe 4 0xB3A29180).take r.size) &&
      !reaches t 8 true (Spec.ea t 8 w r.size) r.size && (v8 r.instr t).cause == 2 && (after (r.instr 8) t).mem == []) = true := by
  decide +kernel

def tile (rows cols fmt : Nat) (data : List Byte) : Tile := { live := true, rows := rows, cols := cols, fmt := fmt, data := data }

/-- The same with these tiles in V8. -/
def withTiles (ts : List (Nat × Tile)) (s : State) : State :=
  setVoice 8 (fun v => { v with tiles := ts.foldl (fun x t => x.set (Fin.ofNat 16 t.1) t.2) v.tiles }) s

/-- The words of Worked example 16.1, as 16 prints them; TCFG's descriptor 0x0010_4020 is 32 × 64 INT4. -/
theorem test_words_16_1 :
    ([0x80060000, 0x88055E00, 0x90000400, 0x94126800, 0x98100E80, 0xB0090000, 0xC008CD58].map insnOf) =
      [some (0x20, 0), some (0x22, 0), some (0x24, 0), some (0x25, 0), some (0x26, 0), some (0x2C, 0), some (0x30, 0)] ∧
    (let s := vox 0x80060000 [(8, 0x00104020)]
     issues s 8 0x80060000 = true ∧ tileOf (after (.tcfg 8) s) 8 1 = tile 32 64 1 []) := by
  decide

/-- O18: each rule of R334 at its boundary, and TREL of T1 and A0. -/
theorem test_tile_configuration :
    ([(64, 33, 2, 4), (32, 64, 2, 0), (0, 64, 1, 1), (65, 64, 1, 1), (32, 0, 1, 2), (32, 257, 1, 2), (32, 64, 0, 3),
      (32, 64, 8, 3), (1, 65, 1, 5), (1, 1, 6, 0)] : List (Nat × Nat × Nat × Nat)).all (fun r =>
        let w := word 0x20 1 8 0 0
        let s := vox w [(8, BitVec.ofNat 32 (r.1 + 0x100 * r.2.1 + 0x100000 * r.2.2.1))]
        issues s 8 w && insnOf w.toNat == some (0x20, 0) &&
          Spec.descriptorRule r.1 r.2.1 r.2.2.1 == r.2.2.2 &&
          (v8 .tcfg s).detail == Spec.descriptorRule r.1 r.2.1 r.2.2.1) = true ∧
    (let w := word 0x21 1 0 0 2; let s := withTiles [(1, tile 1 2 2 [1, 2]), (2, tile 1 1 2 [3])] (vox w [])
     issues s 8 w = true ∧ insnOf w.toNat = some (0x21, 0) ∧ tileOf (after (.trel 8) s) 8 1 = Tile.empty ∧
       tileOf (after (.trel 8) s) 8 2 = tile 1 1 2 [3]) := by
  decide +kernel

/-- O19: TLD and TST of a 2 × 4 INT8 tile, of an empty one, and with the second row out of reach. -/
theorem test_tile_loads_and_stores :
    (let w := word 0x22 1 3 5 0
     let s := { withTiles [(1, tile 2 4 2 [])] (vox w [(3, 0x100), (5, 8)]) with mem := bytesAt 0x100 [1, 2, 3, 4, 5, 6, 7, 8, 9] }
     let t := withTiles [(1, tile 2 4 2 [])] (vox w [(3, 0x100), (5, 0x40000)])
     issues s 8 w = true ∧ insnOf w.toNat = some (0x22, 0) ∧ Spec.rows s 8 w (tileOf s 8 1) = [0x100, 0x108] ∧
       Spec.leased s [0x100, 0x108] = true ∧ Spec.inSet s 8 = true ∧ reaches s 8 false 0x108 4 = true ∧
       Spec.readsClean s 0x108 4 = true ∧ (tileOf (after (.tld 8 []) s) 8 1).data = [1, 2, 3, 4, 9, 0, 0, 0] ∧
       (v8 (fun n => .tld n []) (vox w [])).cause = 4 ∧ reaches t 8 false 0x40100 4 = false ∧
       (v8 (fun n => .tld n []) t).haltAddr = 0x40100) ∧
    (let w := word 0x23 1 3 5 0
     let s := withTiles [(1, tile 2 4 2 [1, 2, 3, 4, 9, 0, 0, 7])] (vox w [(3, 0x100), (5, 8)])
     let t := withTiles [(1, tile 2 4 2 [])] (vox w [(3, 0x100), (5, 0x40000)])
     issues s 8 w = true ∧ insnOf w.toNat = some (0x23, 0) ∧ reaches s 8 true 0x108 4 = true ∧ s.bad = [] ∧ Spec.alive s 0x108 4 = true ∧
       (after (.tst 8) s).mem = bytesAt 0x100 [1, 2, 3, 4] ++ [(0x108, 9), (0x10B, 7)] ∧
       (v8 .tst (vox w [])).cause = 4 ∧ reaches t 8 true 0x40100 4 = false ∧ (v8 .tst t).haltAddr = 0x40100) := by
  decide +kernel

/-- O20: GATHER and SCATTER of elements 1 and 15. -/
theorem test_gather_and_scatter :
    (let ix := tile 1 16 7 ((List.range 16).flatMap fun e => toLe 4 (16 * e))
     let w := word 0x30 2 3 4 0x158
     let s := { withTiles [(2, tile 16 4 2 (List.replicate 64 1)), (4, ix)] (vox w [(3, 0x100), (5, 0x8002)]) with
       mem := bytesAt 0x110 [5, 6, 7, 8] ++ bytesAt 0x1F0 [9] }
     let v := word 0x31 2 3 4 0x158
     let t := withTiles [(2, tile 16 4 2 (List.replicate 64 3)), (4, ix)] (vox v [(3, 0x100), (5, 0x8002)])
     issues s 8 w = true ∧ insnOf w.toNat = some (0x30, 0) ∧ (fB w.toNat).val = 4 ∧ (fC w.toNat).val = 5 ∧
       Spec.leased s [0x110, 0x1F0] = true ∧ reaches s 8 false 0x1F0 4 = true ∧ Spec.readsClean s 0x1F0 4 = true ∧
       tileRow (tileOf (after (.gather 8 []) s) 8 2) 1 = [5, 6, 7, 8] ∧
       tileRow (tileOf (after (.gather 8 []) s) 8 2) 15 = [9, 0, 0, 0] ∧
       tileRow (tileOf (after (.gather 8 []) s) 8 2) 2 = [1, 1, 1, 1] ∧
       issues t 8 v = true ∧ insnOf v.toNat = some (0x31, 0) ∧ reaches t 8 true 0x1F0 4 = true ∧ Spec.alive t 0x1F0 4 = true ∧
       (after (.scatter 8) t).mem = bytesAt 0x110 [3, 3, 3, 3] ++ bytesAt 0x1F0 [3, 3, 3, 3]) ∧
    (let ix := tile 1 16 7 ((List.range 16).flatMap fun e => toLe 4 (16 * e))
     let v := word 0x31 2 3 4 0x158
     let t := withTiles [(2, tile 16 4 2 (List.replicate 64 3)), (4, ix)] (vox v [(3, 0x40000), (5, 0x8002)])
     issues t 8 v = true ∧ Spec.leased t [0x40010, 0x40013, 0x400F0, 0x400F3] = true ∧ reaches t 8 true 0x40010 4 = false ∧
       (v8 .scatter t).elValid = true ∧ (v8 .scatter t).element = 1 ∧ (after (.scatter 8) t).mem = []) := by
  decide +kernel

/-! ### Tile arithmetic -/

/-- O21: each binary row on 1.0, 2.0 and 3.0, 5.0. -/
theorem test_elementwise_binary :
    Spec.tewTable.map (fun r =>
      let w := word 0x27 1 2 3 (16 * r.minor)
      let s := withTiles [(1, tile 1 2 5 []), (2, tile 1 2 5 [0x80, 0x3F, 0, 0x40]), (3, tile 1 2 5 [0x40, 0x40, 0xA0, 0x40])] (vox w [])
      (issues s 8 w && insnOf w.toNat == some (0x27, r.minor) && r.fits (tileOf s 8 2) (tileOf s 8 3),
        tileCode (tileOf (after (r.instr 8) s) 8 1) 0 0)) =
      [(true, 0x4080), (true, 0xC000), (true, 0x4040), (true, 0x4040), (true, 0x3F80), (true, 0x4080), (true, 0x4040),
       (true, 0x4080), (true, 0x4040)] := by
  decide +kernel

/-- O22: each unary row has operands; a conversion of −3 from INT8 to INT32 keeps it, and the reciprocal of 0 is the
largest value. -/
theorem test_elementwise_unary :
    Spec.tewUnaryTable.all (fun r =>
      let w := word 0x27 1 2 0 (16 * r.minor)
      let s := withTiles [(1, tile 1 2 5 []), (2, tile 1 2 5 [0, 0, 0, 0x40])] (vox w [])
      issues s 8 w && insnOf w.toNat == some (0x27, r.minor) && r.formats 5 && (tileOf s 8 1).live && (tileOf s 8 2).live) = true ∧
    (let w := word 0x27 1 2 0 0x100
     tileCode (tileOf (after (.tewCvt 8) (withTiles [(1, tile 1 1 7 []), (2, tile 1 1 7 [0xFD, 0xFF, 0xFF, 0xFF])] (vox w []))) 8 1) 0 0
       = 0xFFFFFFFD) ∧
    (let w := word 0x27 1 2 0 0x130
     let v := v8 .tewRecip (withTiles [(1, tile 1 1 5 []), (2, tile 1 1 5 [0, 0])] (vox w []))
     v.sat = true ∧ v.tiles[(1 : Fin 16)].data = [0x7F, 0x7F]) := by
  decide +kernel

/-- O23: sum, sum of squares and maximum of 1.0 and 2.0. -/
theorem test_reductions :
    ([(0, Instr.rsum, 0x4040), (1, Instr.rsumsq, 0x40A0), (2, Instr.rmax, 0x4000)] : List (Nat × (Voice → Instr) × Nat)).all
      (fun r =>
        let w := word 0x28 1 2 0 (16 * r.1)
        let s := withTiles [(1, tile 1 1 5 []), (2, tile 1 2 5 [0x80, 0x3F, 0, 0x40])] (vox w [])
        issues s 8 w && insnOf w.toNat == some (0x28, r.1) && tileCode (tileOf (after (r.2.1 8) s) 8 1) 0 0 == r.2.2) = true := by
  decide +kernel

/-- O24: a 1 × 64 INT4 tile and constant codes. -/
theorem test_tile_elements :
    (let s := withTiles [(1, tile 1 64 1 [])] (vox 0 []); let t := tileOf s 8 1
     Spec.descriptorRule t.rows t.cols t.fmt = 0 ∧ tileCode (tileOf (fillVals 8 1 (fun _ _ => (13, true)) s) 8 1) 0 63 = 13) ∧
    ∀ i j : Nat, ((fun _ _ => (13, true)) i j : Nat × Bool).1 < 2 ^ fmtBits 1 :=
  ⟨by decide +kernel, fun _ _ => show 13 < 16 by decide⟩

/-- O25: the dot product of Worked example 16.1 and its INT32 accumulator: 20 × 0 + 10 × (−3). -/
theorem test_matrix_multiply :
    (let s := withTiles [(0, tile 1 2 2 [20, 10]), (1, tile 1 2 1 [0xD8])] (vox 0x90000400 [])
     let u := v8 (fun n => .tmma n ⟨1, 0⟩) s
     issues s 8 0x90000400 = true ∧ insnOf 0x90000400 = some (0x24, 0) ∧ compare 8 ⟨1, 0⟩ s = none ∧ pairing 2 1 = some false ∧
       holdsGrant s (.voice 8 .array) = true ∧ (accOf s 8 0).kind = .empty ∧ u.accs[(0 : Fin 4)].kind = .int32 ∧
       accAt u.accs[(0 : Fin 4)] 0 0 = 0xFFFFFFE2 ∧ u.latchA = some 0 ∧ u.latchB = some 1) := by
  decide +kernel

def withAccs (as : List (Nat × Accum)) (s : State) : State :=
  setVoice 8 (fun v => { v with accs := as.foldl (fun x a => x.set (Fin.ofNat 4 a.1) a.2) v.accs }) s

/-- O26: the scales of Worked example 16.1: SCLD of two, TSACC of −30, what TOUT asks of its page, TRDA of 1,555 × 2⁻¹⁶. -/
theorem test_scales_and_outliers :
    (let w := word 0x2B 4 3 5 0
     let s := { vox w [(3, 0x100), (4, 255), (5, 2)] with mem := bytesAt 0x100 [0x40, 0x3B, 1, 0x3C] }
     issues s 8 w = true ∧ insnOf w.toNat = some (0x2B, 0) ∧ reaches s 8 false 0x100 4 = true ∧
       Spec.leased s [0x100, 0x103] = true ∧ Spec.readsClean s 0x100 4 = true ∧
       scAt (v8 (fun n => .scld n []) s) 255 = 0x3B40 ∧ scAt (v8 (fun n => .scld n []) s) 0 = 0x3C01 ∧ (v8 (fun n => .scld n []) (vox w [])).pc = 1) ∧
    (let s := setVoice 8 (fun v => { v with sc := [0, 0x3B40] ++ List.replicate 126 0 ++ [0x3C00] })
       (withAccs [(0, { kind := .int32, data := [0xFFFFFFE2] })] (vox 0x94126800 [(9, 0x00010080), (10, 0x201), (11, 0x14000)]))
     let u := v8 .tsacc s
     issues s 8 0x94126800 = true ∧ insnOf 0x94126800 = some (0x25, 0) ∧ (wSel s 8 10).n = 1 ∧ wScaleOk s 8 (wSel s 8 10) 1 = true ∧
       u.accs[(0 : Fin 4)] = Accum.empty ∧ u.accs[(1 : Fin 4)].kind = .fp32 ∧ accAt u.accs[(1 : Fin 4)] 0 0 = 0xBA340000) ∧
    (let s := withTiles [(0, tile 1 2 2 [20, 10])] (vox 0x98100E80 [(10, 0x201), (11, 0x14000)])
     issues s 8 0x98100E80 = true ∧ insnOf 0x98100E80 = some (0x26, 0) ∧ Spec.inSet s 8 = true ∧
       baseOf s 8 (fB 0x98100E80) true = 0 ∧ reaches s 8 false 0 4096 = true ∧ Spec.leased s [0, 4095] = true ∧
       Spec.readsClean s 0 4096 = true ∧ (accOf s 8 1).kind = .empty) ∧
    (let s := withTiles [(2, tile 1 1 5 [])] (withAccs [(1, { kind := .fp32, data := [0x3CC26000] })] (vox 0xB0090000 []))
     issues s 8 0xB0090000 = true ∧ insnOf 0xB0090000 = some (0x2C, 0) ∧ (v8 .trda s).tiles[(2 : Fin 16)].data = [0xC2, 0x3C]) := by
  decide +kernel

/-- O27: 3.0 by a scale of 1 to INT8 and back. -/
theorem test_quantisation :
    (let w := word 0x29 1 2 3 0
     let s := withTiles [(1, tile 1 1 2 []), (2, tile 1 1 5 [0x40, 0x40]), (3, tile 1 1 6 [0, 0, 0x80, 0x3F])] (vox w [])
     issues s 8 w = true ∧ insnOf w.toNat = some (0x29, 0) ∧ (v8 .tq s).tiles[(1 : Fin 16)].data = [3]) ∧
    (let w := word 0x2A 1 2 4 0
     let s := withTiles [(1, tile 1 1 5 []), (2, tile 1 1 2 [3])] (vox w [(4, 0x200000)])
     issues s 8 w = true ∧ insnOf w.toNat = some (0x2A, 0) ∧ fC w.toNat = 0 ∧ wScaleOk s 8 (wSel s 8 4) 1 = true ∧
       (v8 (fun n => .tdq n []) s).tiles[(1 : Fin 16)].data = [0x40, 0x40]) ∧
    (let w := word 0x2A 1 2 4 0x200
     let s := { withTiles [(1, tile 1 1 5 []), (2, tile 1 1 1 [8])] (vox w [(4, 0x200000), (8, 0x1000)]) with
       mem := bytesAt 0x1001 [1] ++ bytesAt 0x1004 [64] ++ bytesAt 0x1012 [0x20] ++ bytesAt 0x1022 [0x40, 0x40] }
     issues s 8 w = true ∧ insnOf w.toNat = some (0x2A, 0) ∧ fC w.toNat = 8 ∧ wScaleOk s 8 (wSel s 8 4) 1 = true ∧
       reaches s 8 false 0x1000 4096 = true ∧ Spec.leased s [0x1000, 0x1FFF] = true ∧ Spec.readsClean s 0x1000 4096 = true ∧
       (v8 (fun n => .tdq n []) s).tiles[(1 : Fin 16)].data = [0x40, 0x40]) := by
  decide +kernel

/-- O28: BAR waits for V9; WAITEV of no source, of source 48 latched and of one that is not; SETEV; BRTH. -/
theorem test_voice_synchronisation :
    (let w := word 0x34 0 0 0 0
     let s := { vox w [] with sets := (vox w []).sets.map fun k => { k with voices := [8, 9] } }
     issues s 8 w = true ∧ insnOf w.toNat = some (0x34, 0) ∧ (setOf s 7).isSome = true ∧ pairOn s 8 = false ∧
       (voiceOf s 9).wait ≠ .bar ∧ (voiceOf s 9).stopped = false ∧ (v8 .bar s).wait = .bar ∧ (v8 .bar s).pc = 0 ∧
       (v8 .bar (vox w [])).pc = 1) ∧
    (let w := word 0x35 3 0 0 0; issues (vox w []) 8 w = true ∧ insnOf w.toNat = some (0x35, 0) ∧ (v8 .waitev (vox w [])).pc = 1) ∧
    (let w := word 0x35 3 4 0 1; let s := vox w []
     let t := { s with evc := { s.evc with latch := 0x0001000000000000 } }
     issues s 8 w = true ∧ insnOf w.toNat = some (0x35, 0) ∧ outranked t 8 = false ∧
       (v8 .waitev t).s[(3 : Fin 16)] = 1 ∧ (after (.waitev 8) t).evc.latch = 0 ∧ (v8 .waitev s).wait = .event) ∧
    (let w := word 0x36 0 0 0x20 0; let s := after (.setev 8) (vox w [])
     issues (vox w []) 8 w = true ∧ insnOf w.toNat = some (0x36, 0) ∧ s.evc.latch.getLsbD 63 = true ∧ s.evc.count[63] = 1) ∧
    (let w := word 0x37 0 0 0 0; let u := word 0x37 0 0 0 1
     issues (vox w []) 8 w = true ∧ insnOf w.toNat = some (0x37, 0) ∧ w.getLsbD 0 = false ∧
       holdsGrant (vox w []) (.voice 8 .array) = true ∧ (v8 .brthHold (vox w [])).pc = 1 ∧
       issues (vox u []) 8 u = true ∧ u.getLsbD 0 = true ∧ holdsGrant (after (.brthRelease 8) (vox u [])) (.voice 8 .array) = false) := by
  decide +kernel

/-! ### Start-up -/

/-- A signed score (R87 to R98) for a flash part with two dies per channel, in segments: offset, length, and bytes as one
big-endian number. -/
def scoreSegs : List (Nat × Nat × Nat) :=
  [(0, 34, 0x4f58534301008000001000000700000005000000400311180100000000000000cdab),
   (128, 40, 0x01000000f000000010000000f2568c97020000000001000010000000a9d1f7e30300000010010000),
   (168, 40, 0x48000000ef2fc0ef04000000600100002000000004ab982b05000000800100002000000083cde8d5),
   (208, 40, 0x07000000a001000048000000f6c0ff0e09000000f00100001000000067cdf08d0700000000000000),
   (248, 40, 0x00000000000000004001c80010281408080300000000000001000000000000000001000040000000),
   (288, 21, 0x1000100001000000040000000a0001000000000040),
   (353, 10, 0x19000000006400040018),
   (384, 40, 0x02010000000000000000000000000000000000005000000004000000000000000100000000000000),
   (424, 40, 0x01010101010101010101010101010101010101010101010101010101010101010101010101010101),
   (464, 35, 0x0101010101010101010101010101010101010101010101010000000000000000000102),
   (3968, 40, 0x3988322ab9f52c7f11d5d1aa92a2ac0b00275bcad8e934682257323fda672482855b7389f116c19c),
   (4008, 40, 0x0014311c3d57dc02001e3a0ec8bd90c797732034aacd99187788502055aa51005971e983b3162c23),
   (4048, 40, 0xadca3befb2ea611162067c04e11e87b80c7720658e586527c4bd6a9179fb3bd82f0f4ed69fd1fec2),
   (4088, 8, 0x332374ed06e9a979)]

/-- Header, tables and signature of a signed image of one layer (R275 to R278), INT4. -/
def imageSegs : List (Nat × Nat × Nat) :=
  [(0, 40, 0x4f584849010000010000010000000000770000000000000000300000000000000001000003000000),
   (40, 39, 0x600100000300000020020000004000000100040004000000400000000004000002000000010004),
   (258, 40, 0xffff020100000400000004000000000000000100000000000000000000000100ffff030100010400),
   (298, 40, 0x000004000000010000000100000000100000000000000200ffff0707000040000000010000000200),
   (338, 40, 0x00000100000000200000000000000000ffff0010000000400000000000008941f998010000000000),
   (378, 40, 0x000000000000ad7facb2586fc6e966c004d7d1d16b024f5805ff7cb47c7a85dabd8b48892ca70100),
   (418, 40, 0xffff0010000000800000000000008941f998010000000000000000000000ad7facb2586fc6e966c0),
   (458, 40, 0x04d7d1d16b024f5805ff7cb47c7a85dabd8b48892ca70200ffff4000000000c00000000000000f52),
   (498, 40, 0x7aa2000000000000000000000000c2dfcab80b547020ac3ca761b52b6c304c8317744c520b59a9a4),
   (538, 6, 0x4da6de51eb11),
   (576, 40, 0x3988322ab9f52c7f11d5d1aa92a2ac0b00275bcad8e934682257323fda672482855b7389f116c19c),
   (616, 40, 0x0014311c3d57dc02001e3a0ec8bd90c797732034aacd99187788502055aa51005971e983b3162c23),
   (656, 40, 0xadca3befb2ea611162067c04e11e87b837631e91744215d049368ee8b338780f42385f138c749467),
   (696, 8, 0xe758b2f707f96399)]

/-- The SHA-256 of the public key in both. -/
def keyHash0 : List Byte := toBe 32 0x2d9551eb61cd602f4cafa09904ba29111108ac7cd2e59d88282310a19e32dd30

/-- The bytes from `pos` on, up to byte `n`. -/
def segBytes (n pos : Nat) : List (Nat × Nat × Nat) → List Byte
  | [] => List.replicate (n - pos) 0
  | x :: rest => List.replicate (x.1 - pos) 0 ++ toBe x.2.1 x.2.2 ++ segBytes n (x.1 + x.2.1) rest

def scoreBytes : List Byte := segBytes 4096 0 scoreSegs

/-- After PORST_N, with the key in OTP. -/
def fused : State := { State.reset with fuses := { Fuses.reset with keyHash := keyHash0 :: Fuses.reset.keyHash.tail } }

def fusedOtp : State := { fused with bsc := { Bsc.reset with image := scoreBytes, stage := .scoreVerify } }

/-- Published digests: FIPS 180-4 "abc", RFC 3720 CRC-32C of 32 zero bytes. -/
theorem test_digests : beNat (sha256 [0x61, 0x62, 0x63]) = 0xba7816bf8f01cfea414140de5dae2223b00361a396177a9cb410ff61f20015ad ∧
    crc32c (List.replicate 32 0) = 0x8A9136AA := by
  decide +kernel

/-- O30: the score is accepted. -/
theorem test_score_accepted : (match judgeScore fusedOtp fusedOtp.bsc.image with
    | .ok c => c.version == 5 && c.breath.ceil == 320 && c.early.isSome && c.slots.length == 1
    | .error _ => false) = true := by
  decide +kernel

/-- O29: PORST_N low from a working state, and its release. -/
theorem test_porst :
    (let t := after .porstNAssert { on with cmds := [cmdEntry 7 0 []], mem := bytesAt 5 [1] }
     t.porst = true ∧ t.cmds = [] ∧ t.mem = [] ∧ t.score = none ∧ t.link.perst = false) ∧
    (let s := { on with porst := true }
     s.porst = true ∧ (after (.porstNRelease 1) s).bsc.bootSel = 1 ∧ (after (.porstNRelease 1) s).bsc.stage = .otp ∧
       (after (.porstNRelease 1) s).porst = false) ∧
    on.porst = false := by
  decide

/-- O4: a working state with memory meets the invariant. -/
theorem test_inv : Inv { on with mem := bytesAt 5 [1, 2] } :=
  ⟨by decide, show ∀ i, (h : i < 64) → on.evc.count[i] ≤ 255 by decide⟩

/-- O4, O6, O7: a step; a command that does nothing while PORST_N is low; a silent BAR0. -/
theorem test_held_and_silent :
    (∃ t, step { State.reset with pending := [.tbsTick] } = .next t) ∧ (after .tbsTick State.reset).tbs.now = 26 ∧
    ({ State.reset with porst := true }).porst = true ∧ Spec.actsInReset .tbsTick = false ∧
    (after .tbsTick { State.reset with porst := true }).tbs.now = 0 ∧
    linkAnswers State.reset = false ∧ Spec.isRegisterAccess (.brgCeilWrite 99) = true ∧
    (after (.brgCeilWrite 99) State.reset).brg.ceil = 40 :=
  ⟨⟨_, rfl⟩, by decide⟩

/-- A header that keeps R87, of a copy of 4096 bytes. -/
def header0 : List Byte := scoreBytes.take 128

def reading (tries : List Bool) (h : List Byte) : State :=
  { fused with bsc := { Bsc.reset with stage := .scoreRead, tries := tries, header := h } }

/-- O30: the stages up to SCORE_VERIFY, at the bounds of the density, and a copy that fails step 2. -/
theorem test_copies :
    (let t := after .otpLoadComplete { fused with bsc := { Bsc.reset with bootSel := 1 } }
     fused.bsc.stage = .otp ∧ t.bsc.stage = .scoreRead ∧ t.bsc.copy = true ∧ t.bsc.tries = [false]) ∧
    (let s := reading [true] []
     s.bsc.stage = .scoreRead ∧ s.bsc.header = [] ∧ header0.length = 128 ∧ headerOk header0 = true ∧
       copyBase s.bsc.copy + scoreLen header0 = 4096 ∧
       (after (.scoreHeaderRead ⟨true, true, 4096⟩ header0) s).bsc.offset = 128 ∧
       (after (.scoreHeaderRead ⟨true, true, 4095⟩ header0) s).bsc.aReason = 1 ∧
       (after (.scoreHeaderRead ⟨false, true, 0⟩ header0) s).bsc.aReason = 1 ∧
       headerOk (List.replicate 128 0) = false ∧
       (after (.scoreHeaderRead ⟨true, true, 4096⟩ (List.replicate 128 0)) s).bsc.aReason = 2) ∧
    (let s := reading [true] header0
     s.bsc.header ≠ [] ∧ scoreBytes.length = scoreLen s.bsc.header ∧ scoreBytes.take 128 = s.bsc.header ∧
       (after (.scoreCopyReadEnd scoreBytes) s).bsc.stage = .scoreVerify) ∧
    (let s := { fusedOtp with bsc := { fusedOtp.bsc with image := scoreBytes.set 245 1, tries := [true] } }
     s.bsc.stage = .scoreVerify ∧ (match judgeScore s s.bsc.image with | .error r => r == 4 | .ok _ => false) = true ∧
       (copyFails 4 s).bsc.stage = .scoreRead ∧ (copyFails 4 s).bsc.copy = true ∧ (copyFails 4 s).bsc.aReason = 4) ∧
    (let s := reading [] []; (copyFails 1 s).bsc.stage = .mute ∧ (copyFails 1 s).bsc.muteCause = 1) := by
  decide +kernel

/-- TRAIN under this score, with the grants of channels 0 and 8 and of the flash, and channel 0 in this attempt. -/
def training (attempt : Nat) (joined : BitVec 16) : State :=
  let s := up [] [.dram 0, .dram 8, .flash 0, .flash 1]
  { setChan 0 (fun h => { h with step := 1, attempt := attempt }) s with
    bsc := { s.bsc with stage := .train, joined := joined } }

/-- O31: ISLANDS_EXIT, a good and two bad attempts. -/
theorem test_training :
    (let s := { on with bsc := { on.bsc with stage := .islands } }
     let t := after .islandsExit s
     (startList s).all (fun i => islRuns s (Fin.ofNat 32 i)) = true ∧ t.bsc.stage = .train ∧ (chanOf t 8).attempt = 1 ∧
       pageOpen t 7 = true) ∧
    (let s := training 1 0
     let t := after (.channelTrainAttemptEnd 0 none 5) s
     isTraining s 0 = true ∧ holdsGrant s (.dram 0) = true ∧
       s.bsc.joined ||| BitVec.ofNat 16 (2 ^ 0) ≠ BitVec.allOnes 16 ∧ (chanOf t 0).joined = true ∧ t.bsc.joined = 1 ∧
       (chanOf t 1).attempt = 1) ∧
    (let s := training 2 0
     isTraining s 0 = true ∧ (chanOf s 0).attempt < 3 ∧
       (chanOf (after (.channelTrainAttemptEnd 0 (some 3) 5) s) 0).attempt = 3) ∧
    (let s := training 3 0
     let t := after (.channelTrainAttemptEnd 0 (some 7) 5) s
     isTraining s 0 = true ∧ 3 ≤ (chanOf s 0).attempt ∧ (chanOf t 0).failed = true ∧ (chanOf t 0).step = 8 ∧
       t.bsc.trainFail = true ∧ t.brg.io.grants.length = 3) ∧
    (let s := training 3 0
     let u := { s with hif := { s.hif with errq := { s.hif.errq with size := 16 } } }
     Spec.canLog u = true ∧ (after (.channelTrainAttemptEnd 0 (some 7) 5) u).hif.errWait.length = 1) ∧
    (let s := training 1 0xFFFE
     s.bsc.joined ||| BitVec.ofNat 16 (2 ^ 0) = BitVec.allOnes 16 ∧ isTraining s 0 = true ∧
       (after (.channelTrainAttemptEnd 0 none 5) s).bsc.stage = .full) := by
  decide +kernel

/-- TRAIN with the signed image in slot 0. -/
def early0 : State :=
  let s := training 1 0
  { s with
    fuses := fused.fuses
    score := some { cfg with slots := [⟨0, 80, 4⟩], early := some ⟨0, 1, 2, 0⟩, ens := none }
    flc := { Flc.reset with ready := true }
    nand := { Nand.reset with
      pages := [(768 * 80, segBytes 704 0 imageSegs), (768 * 83, toBe 5 0x4f58535001 ++ List.replicate 59 0)]
      slots := Nand.reset.slots.set 0 { st := 2, len := 65536, id := 0x77 } } }

/-- O31: early service starts from the flash. -/
theorem test_early :
    earlyCfg early0 = some ⟨0, 1, 2, 0⟩ ∧ early0.bsc.stage = .train ∧ early0.flc.ready = true ∧ early0.bsc.early = false ∧
    early0.bsc.earlyFail = false ∧ muted early0 = false ∧
    (((startPages early0 ⟨0, 1, 2, 0⟩).map (·.1 % 2)).dedup.all (holdsFlash early0 .system)) = true ∧
    (match earlyImage early0 ⟨0, 1, 2, 0⟩ with | .ok m => m.hdr.modelId == 0x77 | .error _ => false) = true := by
  decide +kernel

/-! ### The breath governor, the clocks and the time base -/

/-- O32, O33: a lone request that just fits, one that does not; a lease at 999 and at 1000 ns, and an idle breath. -/
theorem test_grants :
    (let s := on
     ledgerOf .prism = .core ∧ (ledger s .core).reqs = [] ∧ muted s = false ∧ s.pwr.st ≠ .rest ∧ s.isl.refLost = false ∧
       s.vib.runFrom = none ∧ oneGrant .prism = false ∧ s.porst = false ∧
       tagOk s ⟨.prism, .system⟩ = true ∧ streamerFull s .prism = false ∧
       overMax s (withGrant .core { unit := .prism, tag := .system, since := s.clk } s) = false ∧
       total (withGrant .core { unit := .prism, tag := .system, since := s.clk } s) .core ≤ ledgerLimit (noteLedger .core s) .core ∧
       (ledger (after (.breathGrant .core [⟨.prism, .system⟩]) s) .core).grants.map (·.unit) = [.prism]) ∧
    (let s := { on with brg := { on.brg with ceil := 8 } }
     let t := after (.breathGrant .core [⟨.prism, .system⟩, ⟨.prism, .part 0⟩]) s
     total s .core = 4 ∧ total t .core = 8 ∧ t.brg.core.reqs.length = 1) ∧
    (let s := up [.prism, .voice 3 .idle] [.dram 4]
     (after (.leaseExpiry 0) { s with clk := 999 }).brg.core.grants.length = 2 ∧
       (after (.leaseExpiry 0) { s with clk := 1000 }).brg.core.grants.map (·.unit) = [.voice 3 .idle] ∧
       (after (.leaseExpiry 0) { s with clk := 1000 }).brg.io.grants = []) ∧
    (let s := { up [.prism, .voice 3 .idle] [] with clk := 1000 }
     let w : Waiting := { unit := .voice 3 .idle, tag := voiceTag s 3, since := s.clk }
     let t := after (.leaseExpiry 1) s
     let low := { s with brg := { s.brg with ceil := 8 } }
     let u := after (.leaseExpiry 1) low
     (s.brg.core.grants.find? fun g => g.id == 1 && decide (g.since + 1000 ≤ s.clk) && isIdleBreath g).isSome = true ∧
       overMax s (withGrant .core w s) = false ∧
       total (withGrant .core w s) .core ≤ ledgerLimit (noteLedger .core s) .core ∧
       t.brg.core.grants.map (fun g => (g.unit, g.since)) = [(.prism, 0), (.voice 3 .idle, 1000)] ∧
       ledgerLimit (noteLedger .core low) .core < total (withGrant .core w low) .core ∧
       (islOf u 4).st = .gated ∧ u.brg.core.grants.map (·.unit) = [.prism] ∧ u.brg.core.reqs.map (·.unit) = [.voice 3 .idle]) := by
  decide +kernel

/-- O34: the pin, the fourth sample, and the bounds of BRG_CEIL and BRG_CEIL_LOW. -/
theorem test_ceilings :
    (let t := after .breathLimAssert on
     on.brg.lim = false ∧ t.brg.lim = true ∧ effCeil t .core = 40 ∧ t.evc.count[2] = 1 ∧
       effCeil (after .breathLimRelease t) .core = 320) ∧
    (let s := { on with brg := { on.brg with core := { on.brg.core with ocRun := 3 } } }
     s.brg.core.oc = false ∧ effCeil s .core + s.brg.margin < 329 ∧ slopeOf (after (.overCurrentSample 329 0) s) .core = 0 ∧
       328 ≤ effCeil s .core + s.brg.margin ∧ (after (.overCurrentSample 328 0) s).brg.core.oc = false) ∧
    (served on 0x1010 = true ∧ served on 0x1000 = true ∧ served on 0x1004 = true ∧ served on 0x1024 = true ∧
      minSum on = 0 ∧ (after (.brgCeilWrite 8) on).brg.ceil = 8 ∧ (after (.brgCeilWrite 400) on).brg.ceil = 400 ∧
      (after (.brgCeilWrite 7) on).brg.ceil = 320 ∧ (after (.brgCeilWrite 401) on).brg.ceil = 320 ∧
      (let s := { on with brg := { on.brg with partMin := on.brg.partMin.set 3 3 } }
       8 < 6 + minSum s ∧ (after (.brgCeilWrite 8) s).brg.ceil = 320) ∧
      (after (.brgCeilLowWrite 8) on).brg.ceilLow = 8 ∧ (after (.brgCeilLowWrite 401) on).brg.ceilLow = on.brg.ceilLow ∧
      (after .brgPeakRead on).out = [.bar0 0x1024 0x60004]) ∧
    (let s := { on with brg := { on.brg with core := { on.brg.core with oc := true } } }
     (after (.brgStatusWrite 2) s).brg.core.oc = false ∧ (after (.brgStatusWrite 4) s).brg.core.oc = true) := by
  decide +kernel

/-- The count of every island at its target. -/
def goodCounts (s : State) : List Nat :=
  (List.range 32).map fun i => (5 * (targetOf s (Fin.ofNat 32 i)).1) / (2 * (targetOf s (Fin.ofNat 32 i)).2)

/-- O35: good windows; the bounds of R64 at 500 MHz (938 to 1287); AON's check at 60 and 140 per cent; re-qualification. -/
theorem test_monitors :
    (let s := on
     let t := after (.clockMonitorWindow (goodCounts s)) s
     (goodCounts s).length = 32 ∧ s.isl.refLost = false ∧
       ((List.range 32).all fun i => (islOf s (Fin.ofNat 32 i)).requal.isNone &&
         judge (targetOf s (Fin.ofNat 32 i)) ((goodCounts s).getD i 0) == 0) = true ∧
       t.isl.fault = 0 ∧ (islOf t 28).meas = 500) ∧
    (targetOf on 28 = (500, 1) ∧ judge (500, 1) 937 = 2 ∧ judge (500, 1) 938 = 0 ∧ judge (500, 1) 1287 = 0 ∧
      judge (500, 1) 1288 = 3 ∧ (islOf on 28).st = .run ∧ (islOf on 28).fresh = false ∧ (islOf on 28).bad = false ∧
      (islOf (windowOf 28 937 false on) 28).bad = true ∧ (islOf (windowOf 28 0 false on) 28).st = .fault ∧
      (islOf (windowOf 28 1288 false (setIsl 28 (fun x => { x with bad := true }) on)) 28).st = .fault) ∧
    (60 * 768 ≤ 100 * 461 ∧ 100 * 1075 ≤ 140 * 768 ∧
      (after (.aonClockCheckWindow 461) { on with isl := { on.isl with aonBad := true } }).isl.aonBad = false ∧
      (after (.aonClockCheckWindow 460) on).isl.aonBad = true) ∧
    (let t := after .refclk38Loss on
     t.isl.refLost = true ∧ (islOf t 0).st = .run ∧ (islOf t 31).st = .fault ∧ t.link.up = false) ∧
    (let s := setIsl 5 (fun x => { x with st := .fault }) on
     served s 0x2108 = true ∧ requalifies 5 = true ∧ (islOf s 5).st = .fault ∧ (islOf s 5).requal = none ∧
       muted s = false ∧ (islOf (after (.islFaultWrite 0x20) s) 5).requal = some 4 ∧
       (islOf (requalWindow 5 2 0 s) 5).requal = some 1) := by
  decide +kernel

/-- O36: gate, collapse and wake island 22; 0, 24, 28 and 30 stay. -/
theorem test_gating :
    muted on = false ∧ islandIdle on 22 = true ∧ (islOf on 22).st = .run ∧
    (islOf (after (.islandGate 22 false) (up [.prism] [])) 22).st = .gated ∧
    (after (.islandGate 22 false) (up [.prism] [])).brg.core.grants = [] ∧
    on.isl.keep.getLsbD 22 = false ∧ contentsIdle on 22 = true ∧ (islOf (after (.islandGate 22 true) on) 22).st = .collapsed ∧
    ([0, 24, 28, 30].all fun i => (islOf (after (.islandGate i true) on) i).st == .run) = true ∧
    islandIdle { on with passes := [pass0] } 22 = false ∧
    (let s := setIsl 22 (fun x => { x with st := .gated }) (up [.prism] [])
     let u := setIsl 22 (fun x => { x with st := .gated }) on
     (islOf s 22).st = .gated ∧ s.bsc.stage = .full ∧ s.pwr.st = .on ∧ unitOf 22 = some .prism ∧ unitGranted s 22 = true ∧
       islRuns (after (.islandWakeComplete 22) s) 22 = true ∧ unitGranted u 22 = false ∧
       (after (.islandWakeComplete 22) u).brg.core.reqs.map (·.unit) = [.prism]) ∧
    (let s := setIsl 22 (fun x => { x with st := .fault, requal := some 4, bad := true }) (up [.ramp 22] [])
     let v := setIsl 1 (fun x => { x with st := .collapsed }) (up [.voice 0 .idle] [])
     (islOf s 22).ramped = false ∧ holdsGrant s (.ramp 22) = true ∧
       (islOf (after (.islandWakeComplete 22) s) 22).ramped = true ∧ islRuns (after (.islandWakeComplete 1) v) 1 = true) := by
  decide +kernel

/-- O37, O38: the ticks of R70; a crossing as LEADER; the fourth miss. -/
theorem test_time_base :
    (let s := { on with ens := { on.ens with dbOutEn := true }, tbs := { on.tbs with now := 1023990, lock := .leader } }
     let t := after .tbsTick s
     s.tbs.trim = 0 ∧ s.tbs.acc = 0 ∧ s.tbs.now + 28 < 2 ^ 64 ∧ t.tbs.now = 1024016 ∧ t.tbs.crossed = true ∧
       (after .tbsTick { s with tbs := { s.tbs with cycle := 23 } }).tbs.now = 1024017 ∧
       (after .tbsTick { s with isl := { s.isl with refLost := true } }).tbs.now = 1024015 ∧
       (after .downbeatCrossing t).dbOut = true ∧ (after .downbeatCrossing t).tbs.dbCount = 1 ∧
       s.tbs.crossed = false ∧ (after .downbeatCrossing s).dbOut = false ∧
       (after .downbeatOutPulseEnd (after .downbeatCrossing t)).dbOut = false ∧
       (after .downbeatInCapture s).ens.dbin = 1023990) ∧
    (let miss := fun l n => (after .downbeatMissed { on with tbs := { on.tbs with lock := l, miss := n } }).tbs
     (miss .align 2).lock = .align ∧ (miss .locked 3).lock = .holdover ∧ (miss .holdover 4).miss = 5 ∧
       (miss .standalone 3).miss = 3) ∧
    (-200000 ≤ on.tbs.trim ∧ on.tbs.trim ≤ 200000 ∧ 0 ≤ on.tbs.acc ∧ on.tbs.acc < 1000000000 ∧ on.tbs.now + 28 < 2 ^ 64) := by
  decide +kernel

/-- O39: LOAD at and below TBS_NOW; an alarm's halves; an alarm that fires late by more than its period. -/
theorem test_alarms :
    (let s := { on with tbs := { on.tbs with now := 100, set := 100, lock := .leader } }
     served s 0x2010 = true ∧ served s 0x2000 = true ∧ (after (.tbsLoad 1) s).tbs.loadedLeft = 8 ∧
       (after (.tbsLoad 1) { s with tbs := { s.tbs with set := 99 } }).hif.errWait.length = 1 ∧
       (after (.tbsLoad 1) { s with tbs := { s.tbs with lock := .seek } }).tbs.now = 100) ∧
    (served on 0x2024 = true ∧ served on 0x202C = true ∧ served on 0x2020 = true ∧ served on 0x2028 = true ∧
      (after (.tbsAlarmHiWrite 1 3) (after (.registerWrite 0x2028 [(7, 0xF)]) on)).tbs.alarms[(1 : Fin 2)].value = 3 * 2 ^ 32 + 7) ∧
    (let al : Alarm := { value := 50, stagedLo := 0, period := 20, armed := true, fired := false, fresh := false }
     let s := { on with tbs := { on.tbs with now := 90, alarms := on.tbs.alarms.set 0 al } }
     let t := after (.alarmFire 0) s
     al.value ≤ s.tbs.now ∧ s.tbs.now + al.period < 2 ^ 64 ∧ t.tbs.alarms[(0 : Fin 2)].value = 110 ∧
       t.tbs.alarms[(0 : Fin 2)].armed = true ∧ t.evc.count[38] = 1 ∧
       (after (.alarmFire 0) { s with tbs := { s.tbs with now := 49 } }).tbs.alarms[(0 : Fin 2)].fired = false ∧
       (after (.alarmFire 0) { s with tbs := { s.tbs with alarms := on.tbs.alarms.set 0 { al with period := 0 } } }).tbs.alarms[
         (0 : Fin 2)].armed = false) := by
  decide +kernel

/-! ### The host link, rings and events -/

def ring (size head tail : Nat) : Ring := { Ring.reset with size := size, head := head, tail := tail }

def setPage0 (f : Page → Page) (s : State) : State := { s with hif := { s.hif with pages := s.hif.pages.set 0 (f s.hif.pages[0]) } }

/-- FULL with the host-interface engine's grant. -/
def dmaOn : State := up [.dma none] []

/-- O40: configuration space in its three answers, LINK_UP at the edges of its ranges, LTR, MSI-X. -/
theorem test_config_space :
    (let s := { on with link := { on.link with up := false } }
     s.link.up = false ∧ (after (.configRequest (.read 0)) s).out = []) ∧
    (let s := { on with link := { on.link with flrBusy := true } }
     s.link.flrBusy = true ∧ (after (.configRequest (.read 0)) s).out = [.config none]) ∧
    linkAnswers on = true ∧ (after (.configRequest (.read 0)) on).out = [.config (some 0x03401F7D)] ∧
    (after (.configRequest (.write 0x44 3 0xF)) on).link.d3 = true ∧
    (after (.configRequest (.write 0x44 2 0xF)) on).link.d3 = false ∧
    (let s := { on with link := { on.link with perst := true, up := false } }
     (after (.linkUp 1 1) s).link.up = true ∧ (after (.linkUp 4 4) s).link.perst = false ∧
       (after (.linkUp 5 4) s).link.up = false ∧ (after (.linkUp 1 3) s).link.up = false) ∧
    (let s := { on with link := { on.link with ltrEn := true } }
     s.link.ltrSent ≠ some 1000000 ∧ s.pwr.st ≠ .rest ∧ (after .ltrMessage s).out = [.ltr (some 1000000)] ∧
       (after .ltrMessage (after .ltrMessage s)).out.length = 1 ∧
       (after .ltrMessage (setPage0 (fun g => { g with sq := ring 16 0 1 }) s)).out = [.ltr (some 20000)]) ∧
    (let e : MsixEntry := ⟨0x10, 0, 5, false⟩
     let s := { on with link := { on.link with pba := 3, msixEn := true, msix := on.link.msix.set 1 e } }
     s.link.pba.getLsbD 1 = true ∧ msixHeld s 1 = false ∧ msixHeld s 0 = true ∧ (after (.msixHeldSend 1) s).link.pba = 1 ∧
       (after (.msixHeldSend 1) s).out = [.msix 1 0x10 5] ∧ (after (.msixHeldSend 0) s).out = []) := by
  decide +kernel

/-- O41: the three link resets, FLR, and a partition reset with a good key, a wrong key, and one while it runs. -/
theorem test_resets :
    ([LinkReset.perst, .hotReset, .linkDown].all fun k => !(after (.hostLinkReset k) dmaOn).link.mse &&
      (after (.hostLinkReset k) dmaOn).glb.perst) = true ∧
    (after .flr on).link.flrBusy = true ∧ (after .flrComplete (after .flr on)).link.flrBusy = false ∧
    linkAnswers State.reset = false ∧ (after .flr State.reset).glb.flr = false ∧
    (let p : Part := 7
     answers on (.page p) = true ∧ pageOpen on p = true ∧ (pageOf on p).resetting = false ∧
       (pageOf (after (.hifPartResetWrite p 0x5A5A) on) p).resetting = true ∧
       (pageOf (after (.hifPartResetWrite p 0x5A5B) on) p).resetting = false ∧
       (after (.hifPartResetWrite p 0x5A5A) (after (.hifPartResetWrite p 0x5A5A) on)).hif.errWait.length = 1 ∧
       (pageOf (after (.partResetComplete p) (after (.hifPartResetWrite p 0x5A5A) on)) p).resetting = false) := by
  decide +kernel

/-- P0 with 2 MiB of stacked memory in the window from 0x1_0000_0000 on, every channel joined. -/
def bar2On : State :=
  let s := dmaOn
  { s with
    glb := { s.glb with winEn := true, winBase := 0x100000000 }
    bsc := { s.bsc with joined := 0xFFFF }
    dmc := Vector.replicate 2 { Dmc.reset with sr := false } }

/-- O42: BAR2 at both ends of the carve-out, the window registers at their bounds, a completion and the attempts. -/
theorem test_dma_and_bar2 :
    (let s := { bar2On with mem := bytesAt 0x100000000 [1, 2, 3] }
     bar2Inside s 0x100000000 2 = true ∧ bar2Inside s 0x107FFFFFE 2 = true ∧ bar2Inside s 0x107FFFFFF 2 = false ∧
       bar2Ready s = true ∧ holdsGrant s (.dma none) = true ∧ (badIn s 0x100000000 2).isNone = true ∧
       s.vib.runFrom = none ∧ (List.range 16).all (fun c => !(chanOf s (Fin.ofNat 16 c)).dead) = true ∧
       (after (.bar2Read 1 2) s).out = [.bar2 1 (some [2, 3])] ∧ Memory.wf s.mem = true ∧
       (after (.bar2Write 0 [9, 0]) s).mem = [(0x100000000, 9), (0x100000002, 3)] ∧
       (after (.bar2Write 0x7FFFFFF [9, 9]) s).glb.winOutside = true ∧
       (after (.bar2Read 0x7FFFFFF 2) { s with glb := { s.glb with winOutside := true } }).out =
         [.bar2 0x7FFFFFF (some [0, 0])]) ∧
    (served on 0x108 = true ∧ served on 0x178 = true ∧ served on 0x28 = true ∧
      (after (.glbHwinLenWrite 0 524288) on).glb.hwin[(0 : Fin 8)].len = 524288 ∧
      (after (.glbHwinLenWrite 0 524289) on).glb.hwin[(0 : Fin 8)].len = 0 ∧
      (after (.glbWinBaseHiWrite 0x1FF) on).glb.winBase = 0xFF00000000) ∧
    (let c := { cmdEntry 7 0x46 [] with inAddr := hostWinBase + 0x1000, inWant := 4, inAsked := 4, phase := .running, attempt := 2 }
     let s := { up [.dma (some 7)] [] with cmds := [c], glb := { on.glb with hwin := on.glb.hwin.set 0 ⟨0, 0, 0x500000, 1⟩ } }
     let u := { s with cmds := [{ c with inAsked := 0 }] }
     cmdOf s 7 = some c ∧ hifRuns s = true ∧ holdsGrant s (.dma (some 7)) = true ∧ c.input.length + 3 ≤ c.inAsked ∧
       (after (.dmaReadCompletion 7 [1, 2, 3]) s).cmds.map (fun x => (x.input, x.attempt)) = [([1, 2, 3], 0)] ∧
       inHostWin u 0 (hostWinBase + 0x1000) 4 = true ∧ 4 ≤ maxRead u ∧ outstanding u < tagLimit u ∧
       (askInput 7 u).out = [.readReq 0x501000 4] ∧ canFail s .poisoned = true ∧
       c.attempt < 3 ∧ (after (.dmaReadFailure (.command 7) .poisoned) s).out = [.readReq 0x501000 4] ∧
       (after (.dmaReadFailure (.command 7) .timeout) s).hif.errWait.map (fun r => (r.kind, r.arg1, r.arg2)) = [(6, 3, 3)] ∧
       (after (.dmaReadFailure (.command 7) .poisoned) { s with cmds := [{ c with attempt := 3 }] }).cmds = []) ∧
    (let s := setPage0 (fun g => { g with sq := ring 16 0 1, cq := ring 16 0 0, fetchTries := 3, asked := 1 }) on
     fetchOk s 0 = true ∧ canFail s .timeout = true ∧ (pageOf (after (.dmaReadFailure (.fetch 0) .timeout) s) 0).fetchStop = true ∧
       (pageOf (after (.dmaReadFailure (.fetch 0) .timeout) (setPage0 (fun g => { g with fetchTries := 2 }) s)) 0).fetchTries
         = 3) ∧
    (let s := { bar2On with brg := on.brg }
     s.link.held = [] ∧ holdsGrant s (.dma none) = false ∧ (after (.bar2Write 0 [9]) s).link.held = [.write 0x100000000 [9]] ∧
       (after (.bar2Read 0 1) s).brg.core.reqs.map (·.unit) = [.dma none]) := by
  decide +kernel

/-- O43: a register, an offset without one, a partial write, and the GLB registers. -/
theorem test_any_register :
    served on 0x1008 = true ∧ partResetAt 0x1008 = none ∧ (after (.registerWrite 0x1008 [(64, 0xF)]) on).brg.slope = 64 ∧
    (after (.registerWrite 0x1008 [(64, 7)]) on).glb.unmLogged = 1 ∧ readReg 0x1008 on = some 8 ∧
    (after (.rcRegisterRead 0x1008 1) on).out = [.bar0 0x1008 8] ∧
    served on 0x41FC = true ∧ readReg 0x41FC on = none ∧ (after (.unmappedBar0Access 0x41FC false) on).out = [.bar0 0x41FC 0] ∧
    (after (.unmappedBar0Access 0x1008 true) on).glb.unmLogged = 0 ∧
    served on 0x00C = true ∧ served on 0x024 = true ∧ served on 0x008 = true ∧
    (after (.registerWrite 0x024 [(0xFFFFFFFF, 0xF)]) on).glb.winLo = 0xFFE00000 ∧
    (after (.registerWrite 0x008 [(1, 0xF)]) on).glb.porst = false := by
  decide +kernel

/-- O44: doorbells at and beyond the size, sizes at their bounds, USER fields at the carve-outs of `cfg`. -/
theorem test_rings :
    (let s := setPage0 (fun g => { g with sq := ring 16 0 0, cq := ring 16 2 5 }) on
     served s 0x400C = true ∧ s.pwr.st ≠ .rest ∧ (pageOf (after (.hifSqTailWrite 0 15) s) 0).sq.tail = 15 ∧
       (pageOf (after (.hifSqTailWrite 0 16) s) 0).sq.dbBad = true ∧ served s 0x402C = true ∧
       headOk (pageOf s 0).cq 5 = true ∧ headOk (pageOf s 0).cq 6 = false ∧
       (pageOf (after (.hifCqHeadWrite 0 5) s) 0).cq.head = 5 ∧ (pageOf (after (.hifCqHeadWrite 0 6) s) 0).cq.dbBad = true ∧
       served s 0x4008 = true ∧ (pageOf (after (.hifSqSizeWrite 0 0) s) 0).sq.size = 0 ∧
       (pageOf (after (.hifSqSizeWrite 0 32) s) 0).sq.size = 16 ∧ served s 0x4028 = true ∧
       (pageOf (after (.hifCqSizeWrite 0 0) s) 0).cq.size = 0 ∧
       (pageOf (after (.hifCqSizeWrite 0 0) { s with cmds := [cmdEntry 1 1 []] }) 0).cq.size = 16 ∧
       inflight { s with cmds := [cmdEntry 1 1 []] } 0 ≠ 0 ∧ inflight s 0 = 0 ∧ (pageOf s 0).cqWait = []) ∧
    (served on 0x4E08 = true ∧ (pageOf (after (.hifSqSizeWrite 7 16) on) 7).sq.size = 16 ∧
      (pageOf (after (.hifSqSizeWrite 7 65536) on) 7).sq.size = 65536 ∧
      (pageOf (after (.hifSqSizeWrite 7 8) on) 7).sq.size = 0 ∧ (pageOf (after (.hifCqSizeWrite 7 16) on) 7).cq.size = 16) ∧
    (let s := { on with hif := { on.hif with evq := ring 16 2 5 }, evc := { on.evc with claimMode := false } }
     served s 0x500C = true ∧ headOk s.hif.evq 5 = true ∧ headOk s.hif.evq 4 = true ∧ headOk s.hif.evq 1 = false ∧
       (after (.hifEvqHeadWrite 5) s).link.pba = 0 ∧ (after (.hifEvqHeadWrite 4) s).link.pba = 1 ∧
       (after (.hifEvqHeadWrite 1) s).hif.evq.dbBad = true) ∧
    (served on 0x5028 = true ∧ on.hif.errq.size = 0 ∧ (after (.hifErrqSizeWrite 16) on).hif.errq.size = 16 ∧
      (after (.hifErrqSizeWrite 32) (after (.hifErrqSizeWrite 16) on)).hif.errq.size = 16 ∧
      (after (.hifErrqSizeWrite 15) on).hif.errq.size = 0) ∧
    (let s := setPage0 (fun g => { g with fetchStop := true, userDram := 64, userStrips := 16, userSec := 16 }) on
     served s 0x4014 = true ∧ (pageOf (after (.hifSqStatusWrite 0 1) s) 0).fetchStop = false ∧ served s 0x4088 = true ∧
       carve s 0 1 = (0, 2048) ∧ (pageOf (after (.hifQDramUserWrite 0 64) s) 0).userDram = 64 ∧
       (after (.hifQDramUserWrite 0 2049) s).hif.errWait.length = 1 ∧ served s 0x4090 = true ∧ (carve s 0 2).2 = 16 ∧
       (pageOf (after (.hifQStripsWrite 0 0xF0000) s) 0).userStrips = 15 ∧
       (after (.hifQStripsWrite 0 0x110000) s).hif.errWait.length = 1 ∧ served s 0x4098 = true ∧ (carve s 0 3).2 = 16 ∧
       (pageOf (after (.hifQSectionUseWrite 0 16) s) 0).userSec = 16 ∧
       (after (.hifQSectionUseWrite 0 17) s).hif.errWait.length = 1) := by
  decide +kernel

/-- O45: a fetched NOP, a reserved opcode, records at the last place of a ring. -/
theorem test_records :
    (let s := setPage0 (fun g => { g with sq := ring 16 15 1, cq := ring 16 0 0, asked := 1 }) dmaOn
     let t := after (.submissionFetch 0 (Spec.entryOf 1 0 5)) s
     let u := after (.submissionFetch 0 (Spec.entryOf 0 0 5)) s
     fetchOk s 0 = true ∧ s.cmds = [] ∧ s.jobs = [] ∧ s.ens.reserving = [] ∧ hifRuns s = true ∧
       holdsGrant s (.dma none) = true ∧ s.bsc.early = false ∧ t.cmds.map (·.tag) = [5] ∧ (pageOf t 0).sq.head = 0 ∧
       (pageOf u 0).cqWait.map (·.status) = [0x30] ∧ fetchOk dmaOn 0 = false ∧ (pageOf s 0).asked ≠ 0) ∧
    (let s := setPage0 (fun g => { g with sq := { ring 16 14 1 with base := 0x1000 }, cq := ring 16 0 0 }) dmaOn
     let t := after (.submissionFetch 0 (Spec.entryOf 1 0 5)) s
     fetchOk s 0 = true ∧ (pageOf s 0).asked = 0 ∧ hifRuns s = true ∧ holdsGrant s (.dma none) = true ∧
       outstanding s < tagLimit s ∧ t.out = [.readReq 0x1380 128] ∧ (pageOf t 0).asked = 2 ∧
       (askFetch 0 { s with brg := on.brg }).brg.core.reqs.map (·.unit) = [.dma none]) ∧
    (let r := (pageOf (after (.submissionFetch 0 (Spec.entryOf 0 0 5))
        (setPage0 (fun g => { g with sq := ring 16 15 1, cq := ring 16 0 0, asked := 1 }) dmaOn)) 0).cqWait
     let s := setPage0 (fun g => { g with cq := { ring 16 14 15 with phase := true, base := 0x1000 }, cqWait := r }) dmaOn
     let t := after (.completionRecordWrite 0) s
     (pageOf s 0).outWait = [] ∧ (pageOf s 0).cq.room = 14 ∧ muted s = false ∧ (pageOf t 0).cq.tail = 0 ∧
       (pageOf t 0).cq.phase = false ∧ t.evc.count[8] = 1 ∧ t.out.map (fun m => match m with | .write a _ => a | _ => 0) =
         [0x11E0] ∧ (after (.completionRecordWrite 0) dmaOn).out = []) ∧
    (let s := after (.brgCeilWrite 7) { dmaOn with hif := { dmaOn.hif with errq := ring 16 0 15 } }
     let q := { s with hif := { s.hif with errq := ring 16 1 15 } }
     s.hif.errWait.length = 1 ∧ s.hif.errq.room = 0 ∧ (after .errorRecordWrite s).out = s.out ∧ q.hif.errq.room = 1 ∧
       (after .errorRecordWrite q).hif.errq.tail = 0 ∧ (after .errorRecordWrite q).hif.errWait = []) ∧
    (served on 0x504C = true ∧ served on 0x5048 = true ∧
      (after .hifErrqLostRead { on with hif := { on.hif with errLost := 3 } }).hif.errLost = 0 ∧
      (after .hifDeferTotalRead { on with hif := { on.hif with deferPeak := 3 } }).hif.deferPeak = 0) := by
  decide +kernel

/-- O46: source 48 set by software, claimed and done; and recorded in queue mode. -/
theorem test_events :
    (let s0 := { on with evc := { on.evc with routeHost := BitVec.allOnes 64 } }
     let s := after (.eventSourcePending 48) (after (.evcSoftSetWrite 1) s0)
     let t := after .evcClaimRead s
     served s 0x6028 = true ∧ served s 0x6004 = true ∧ served s 0x6008 = true ∧ served s 0x6020 = true ∧
       served s 0x6024 = true ∧ served s 0x6038 = true ∧ served s 0x61FC = true ∧
       s.evc.latch.getLsbD 48 = true ∧ s.evc.count[48] = 1 ∧ s.evc.pend = 2 ^ 48 ∧ s.evc.claimMode = true ∧
       s.evc.inServ = none ∧ t.evc.inServ = some 48 ∧ t.evc.pend = 0 ∧ t.out = .bar0 0x6004 48 :: s.out ∧
       (after .evcClaimRead t).out.head? = some (.bar0 0x6004 0xFE) ∧
       (after .evcClaimRead s0).out = [.bar0 0x6004 0xFF] ∧
       (after (.evcDoneWrite 48) t).evc.inServ = none ∧ (after (.evcDoneWrite 48) t).evc.pend = 2 ^ 48 ∧
       (after (.evcDoneWrite 47) t).evc.inServ = some 48 ∧
       (after (.evcLatchWrite 1 0x10000) t).evc.latch = 0 ∧
       (after (.evcCountRead 48) t).evc.count[48] = 0 ∧
       (after (.evcArmedWrite 1 0x80000000) { s with evc := { s.evc with armed := 1 } }).evc.armed = 2 ^ 63 + 1) ∧
    (let s := { dmaOn with
       hif := { dmaOn.hif with evq := ring 16 0 15 }
       evc := { dmaOn.evc with claimMode := false, routeHost := BitVec.allOnes 64, pend := 2 ^ 48, latch := 2 ^ 48 } }
     let q := { s with hif := { s.hif with evq := ring 16 1 15 } }
     due q 48 = true ∧ (List.range 48).all (fun n => !due q (Fin.ofNat 64 n)) = true ∧ s.hif.evq.room = 0 ∧
       q.hif.evq.room = 1 ∧ (after .eventRecordWrite q).evc.armed.getLsbD 48 = false ∧
       (after .eventRecordWrite q).hif.evq.tail = 0 ∧ (after .eventRecordWrite s).evc.armed.getLsbD 48 = true) := by
  decide +kernel

/-! ### Host commands, work and passes -/

/-- Command 7 of P0 with this opcode, context and body. -/
def ready (op ctx : Nat) (body : List Byte) : Cmd := cmdEntry 7 op (toLe 2 ctx ++ List.replicate 10 0 ++ body)

def with_ (cs : List Cmd) (s : State) : State := { s with cmds := cs }

def hdr0 : ImgHdr :=
  { ImgHdr.none with modelId := 0x77, layers := 1, hidden := 2, vocab := 4, contextMax := 64, kvPerToken := 64, eos := 2, minStrips := 1 }

/-- Handle 0 resident, with one host window of 1 MiB at 0x10_0000. -/
def served0 (cs : List Cmd) (xs : List Ctx) : State :=
  let s := up [.dma none, .dma (some 7)] []
  { s with
    cmds := cs
    ctxs := xs
    models := s.models.set 0 { Model.empty with st := .resident, hdr := hdr0, units := [(0, 1)] }
    objs := [⟨0, 1, .model 0 none, [(0, 1)]⟩]
    glb := { s.glb with hwin := s.glb.hwin.set 0 ⟨0, 0, 0x100000, 1⟩ } }

def ctx5 (st : CtxSt) (pos : Nat) (log : List Nat) : Ctx :=
  { part := 0, num := 5, st := st, model := some (.handle 0), pos := pos, log := log, mask := none, mstate := 0
    draft := none, image := none, early := false, idleSince := 0 }

/-- The statuses of the records that wait in P0. -/
def statuses (s : State) : List Nat := (pageOf s 0).cqWait.map (·.status)

/-- `isReady` as a Boolean test. -/
def readyIn (s : State) (c : Cmd) (op : Nat) : Bool :=
  !s.porst && cmdOf s 7 == some c && c.op == op && c.phase == .ready && !c.silent && !muted s && !s.bsc.early

/-- O47: each device command once; a FENCE that waits; the deferral queue at its deadline. -/
theorem test_device_commands :
    (let c := ready 0x01 0 []; readyIn (with_ [c] on) c 0x01 = true ∧ statuses (after (.nop 7) (with_ [c] on)) = [0]) ∧
    (let c := ready 0x02 0 []
     readyIn (with_ [c] on) c 0x02 = true ∧ statuses (after (.fence 7) (with_ [c] on)) = [0] ∧
       statuses (after (.fence 7) (with_ [cmdEntry 6 1 [], c] on)) = []) ∧
    (let c := ready 0x13 0 [1]; let s := served0 [c] []
     readyIn s c 0x13 = true ∧ (after (.modelPin 7) s).models[(0 : Fin 64)].pinned = true) ∧
    (let c := ready 0x14 0 []; let s := served0 [c] []
     readyIn s c 0x14 = true ∧ (pageOf (after (.modelQuery 7) s) 0).cqWait.map (fun r => le r.payload 0 8) = [0x77]) ∧
    (let c := ready 0x12 0 []; let s := served0 [c] [ctx5 .live 1 [3]]
     readyIn s c 0x12 = true ∧ users s { c with mark := s.nextCmd } = [] ∧ ctxUsers s c.handle = [] ∧ passOf s (.handle c.handle) = none ∧
       s.models[c.handle].repairing = none ∧ s.jobs = [] ∧ (after (.modelEvict 7) s).models[(0 : Fin 64)] = Model.empty ∧
       (after (.modelEvict 7) s).objs = []) ∧
    (let c := ready 0x40 0 []; let d := cmdEntry 6 0x38 []
     readyIn (with_ [c] on) c 0x40 = true ∧ abortTargets (with_ [c] on) c = [] ∧
       statuses (after (.abort 7) (with_ [c] on)) = [3] ∧ abortTargets (with_ [d, c] on) c = [d] ∧
       cmdOf (with_ [d, c] on) d.id = some d ∧ statuses (after (.abort 7) (with_ [d, c] on)) = [2, 0]) ∧
    (let c := ready 0x50 0 [1]
     readyIn (with_ [c] on) c 0x50 = true ∧ c.byte 16 = 1 ∧
       (pageOf (after (.progressQuery 7) (with_ [c] on)) 0).cqWait.map (fun r => le r.payload 0 4) = [(bscStage on).toNat]) ∧
    (let c := { ready 0x38 0 [1] with phase := .deferred true, deadline := 100, lastShort := 2 }
     let s := with_ [c] on
     let q := { s with voices := Vector.replicate 16 { VoiceSt.reset with run := .pass (.handle 1) } }
     firstBy (serviceKey s) (s.cmds.filter (couldStart s)) = some c ∧
       (after (.deferredStart 7) s).cmds.map (·.phase) = [.ready] ∧
       firstBy (serviceKey on) (on.cmds.filter (couldStart on)) = none ∧ c.isDeferred = true ∧ barrierOf q c = none ∧
       couldStart q c = false ∧ statuses (after (.patienceExpiry 7) { q with clk := 99 }) = [] ∧
       statuses (after (.patienceExpiry 7) { q with clk := 100 }) = [0x21]) := by
  decide +kernel

/-- A mask file of one allowed token, 3, of a vocabulary of 4. -/
def listMask : List Byte := toLe 4 0x4C41584F ++ [1, 0, 0, 0] ++ toLe 4 1 ++ toLe 4 4 ++ toLe 4 3

/-- O48: sessions, masks and KERNEL. -/
theorem test_contexts_and_masks :
    (let c := ready 0x2A 5 []; let s := served0 [c] [ctx5 .live 1 [3], { ctx5 .live 1 [3] with num := 6 }]
     readyIn s c 0x2A = true ∧ destroyAborts s c = [] ∧ (after (.contextDestroy 7) s).ctxs.map (·.num) = [6]) ∧
    (let c := ready 0x30 0 [3, 31]
     let s := { with_ [c] on with masks := on.masks.set 0 (on.masks[0].set 31 (some (.list [3] 4))) }
     readyIn s c 0x30 = true ∧ c.byte 16 = 3 ∧ (after (.maskLoad 7) s).masks[(0 : Fin 8)][(31 : Fin 32)] = none) ∧
    (let c := ready 0x30 0 ([2, 31] ++ List.replicate 6 0 ++ toLe 8 0x8000000000 ++ toLe 4 20 ++ toLe 4 4)
     let s := served0 [c] []
     readyIn s c 0x30 = true ∧ c.byte 16 ≠ 3 ∧ 0x8000000000 ≤ c.field 24 8 ∧
       inHostWin s c.part (c.field 24 8) (c.field 32 4) = true ∧ (after (.maskLoad 7) s).out = [.readReq 0x100000 20] ∧
       (let d := { c with phase := .running, inWant := 20, inAsked := 20, input := listMask.take 16 }
        let s := served0 [d] []
        hifRuns s = true ∧ holdsGrant s (.dma (some 7)) = true ∧ parseList (d.input ++ toLe 4 3) (d.field 36 4) = some (.list [3] 4) ∧
          (after (.dmaReadCompletion 7 (toLe 4 3)) s).masks[(0 : Fin 8)][(31 : Fin 32)] = some (.list [3] 4))) ∧
    (let c := ready 0x31 0 [1, 31]
     readyIn (with_ [c] on) c 0x31 = true ∧ (after (.maskBind 7) (with_ [c] on)).defMask[(0 : Fin 8)] = some (31, 0)) ∧
    (let c := ready 0x31 5 [1, 31]; let s := served0 [c] [ctx5 .live 1 [3]]
     readyIn s c 0x31 = true ∧ c.ctx ≠ 0 ∧ (after (.maskBind 7) s).ctxs.map (·.mask) = [some 31]) ∧
    (let c := ready 0x38 0 ([2] ++ List.replicate 15 0 ++ toLe 4 8); let s := with_ [c] on
     readyIn s c 0x38 = true ∧ paused s = false ∧ setOf s 7 = none ∧ (choose s c.kVoices c.kMirror).isSome = true ∧
       c.kCode < 0x8000000000 ∧ (after (.kernel 7) s).cmds.map (·.phase) = [.running]) ∧
    (let c := ready 0x38 0 ([2] ++ List.replicate 7 0 ++ toLe 8 0x8000000000 ++ toLe 4 8); let s := served0 [c] []
     0x8000000000 ≤ c.kCode ∧ inHostWin s c.part c.kCode c.kLen = true ∧ (after (.kernel 7) s).out = [.readReq 0x100000 8]) ∧
    (let a := stackBase + 0x10000 * (carve on 0 1).1
     let c := ready 0x38 0 ([2] ++ List.replicate 7 0 ++ toLe 8 a ++ toLe 4 8)
     let s := { served0 [c] [] with mem := bytesAt a [9] }
     let u := setPage0 (fun g => { g with userDram := 16 }) s
     readyIn u c 0x38 = true ∧ stackBase ≤ c.kCode ∧ inUser u c.part c.kCode c.kLen = true ∧ islRuns u 30 = true ∧
       holdsGrant u (.dma (some 7)) = true ∧ (badIn u c.kCode c.kLen).isNone = true ∧ u.vib.runFrom = none ∧
       (List.range 16).all (fun k => !(chanOf u (Fin.ofNat 16 k)).dead) = true ∧
       (after (.kernel 7) u).cmds.map (·.input) = [[9, 0, 0, 0, 0, 0, 0, 0]]) := by
  decide +kernel

/-- Context 5 with one KV page, its token log, and the space of an image. -/
def kv5 (x : Ctx) (c : Cmd) : State :=
  { served0 [c] [x] with
    objs := [⟨0, 1, .kv 5 ⟨false, some 0, 0⟩, [(40, 1)]⟩, ⟨0, 1, .kv 5 ⟨false, none, 0⟩, [(41, 1)]⟩, ⟨0, 1, .hush 5, [(50, 1)]⟩] }

def hushCmd : Cmd := { ready 0x28 5 [] with phase := .running }
def wakeCmd : Cmd := { ready 0x29 5 [] with phase := .running }

/-- The image of context 5 after the tokens 3 and 1, one entry of zeros (R417), with its CRC-32C. -/
def image5 : List Byte := toBe 72 0x4f58485501000000c00000000000050077000000000000000200000001000000400000001000000100000000000000000000000000000000000000000aeadd2b0300000001000000

/-- Context 5 HUSHED with these bytes at its image's place. -/
def hushed5 (b : List Byte) : State :=
  { kv5 { ctx5 .hushed 2 [3, 1] with image := some 192 } wakeCmd with mem := (bytesAt (granuleAddr 50) b).filter (·.2 != 0) }

/-- O48: HUSH and WAKE start; a context is hushed and wakes; an image with one byte wrong does not. -/
theorem test_hush_and_wake :
    (let c := ready 0x28 5 []; let s := kv5 (ctx5 .live 2 [3, 1]) c
     readyIn s c 0x28 = true ∧ paused s = false ∧ (after (.hush 7) s).cmds.map (·.phase) = [.running]) ∧
    (let c := ready 0x29 5 []; let s := with_ [c] (hushed5 image5)
     readyIn s c 0x29 = true ∧ c.byte 16 = 0 ∧ (after (.wake 7) s).cmds.map (·.phase) = [.running]) ∧
    (let x := ctx5 .live 2 [3, 1]; let s := kv5 x hushCmd
     cmdOf s 7 = some hushCmd ∧ hushCmd.ctx ≠ 0 ∧ hushCmd.byte 16 = 0 ∧ hushNow s hushCmd = [x] ∧ ctxOf s 0 5 = some x ∧
       x.model.bind (hdrOf s) = some hdr0 ∧ kvDamage s 0 5 = [] ∧
       (after (.hushWakeDeviceWorkEnd 7) s).ctxs.map (fun y => (y.st, y.image)) = [(.hushed, some 192)]) ∧
    (let s := hushed5 image5; let x := { ctx5 .hushed 2 [3, 1] with image := some 192 }
     ctxOf s 0 5 = some x ∧ wakeCmd.input.length = wakeCmd.inWant ∧ x.model.bind (hdrOf s) = some hdr0 ∧
       (wakeImage s wakeCmd x).map (hushOk x hdr0 none) = some true ∧
       (after (.hushWakeDeviceWorkEnd 7) s).ctxs.map (·.st) = [.live]) ∧
    (let s := hushed5 (image5.set 64 4); let x := { ctx5 .hushed 2 [3, 1] with image := some 192 }
     (wakeImage s wakeCmd x).map (hushOk x hdr0 none) = some false ∧ statuses (after (.hushWakeDeviceWorkEnd 7) s) = [0x41]) := by
  decide +kernel

/-- A work command of context 5 that asks for `n` tokens from the host window. -/
def workCmd (op n : Nat) (rest : List Byte) : Cmd :=
  ready op 5 (toLe 8 0x8000000000 ++ toLe 4 n ++ List.replicate 12 0 ++ rest)

def beginsIn (s : State) (c : Cmd) (op : Nat) : Bool :=
  readyIn s c op && !needsWake s c && c.work == Work.none && c.inWant == 0

/-- O49: nothing to do, a mask that allows nothing or only the end of sequence, the request for tokens, and tokens of
which the second is the first beyond the vocabulary. -/
theorem test_work_commands :
    ([(0x20, Instr.prefill), (0x22, Instr.scoreTokens), (0x23, Instr.embed)].all fun r =>
      let c := workCmd r.1 0 []; let s := served0 [c] [ctx5 .live 1 [3]]
      let d := workCmd r.1 2 []; let t := served0 [d] [ctx5 .live 1 [3]]
      beginsIn s c r.1 && c.inCount == 0 && statuses (after (r.2 7) s) == [0] &&
        beginsIn t d r.1 && inHostWin t 0 d.inAddr' 8 && (after (r.2 7) t).out == [.readReq 0x100000 8]) = true ∧
    (let c := workCmd 0x21 0 []; let s := served0 [c] [ctx5 .live 1 [3]]
     beginsIn s c 0x21 = true ∧ c.maxTokens = 0 ∧ statuses (after (.generate 7) s) = [0]) ∧
    (let gen := fun (flags : Byte) (sts : List AutoState) (eds : List AutoEdge) =>
       let c := workCmd 0x21 2 [1, 0, 0, 0, 0, 0, 0, flags]
       (c, { served0 [c] [{ ctx5 .live 1 [3] with mask := some 0 }] with
         masks := on.masks.set 0 (on.masks[0].set 0 (some (.automaton sts eds 0 4 2))) })
     let dead := gen 0 [⟨0, 0, false⟩] []
     let eos := gen 0 [⟨0, 0, true⟩] []
     let more := gen 0 [⟨0, 1, false⟩] [⟨3, 3, 0⟩]
     let ask := gen 1 [⟨0, 1, false⟩] [⟨3, 3, 0⟩]
     beginsIn dead.2 dead.1 0x21 = true ∧ allowedAt dead.2 dead.1 (stateOfCmd dead.2 dead.1) = [] ∧
       statuses (after (.generate 7) dead.2) = [0x24] ∧
       onlyEos (allowedAt eos.2 eos.1 (stateOfCmd eos.2 eos.1)) (hdrFor eos.2 eos.1).eos = true ∧
       statuses (after (.generate 7) eos.2) = [0] ∧
       onlyEos (allowedAt more.2 more.1 (stateOfCmd more.2 more.1)) (hdrFor more.2 more.1).eos = false ∧ more.1.prompt = false ∧
       (after (.generate 7) more.2).cmds.map (·.work.inputRead) = [true] ∧ beginsIn ask.2 ask.1 0x21 = true ∧ ask.1.prompt = true ∧
       allowedAt ask.2 ask.1 (stateOfCmd ask.2 ask.1) ≠ [] ∧ ask.1.inCount ≠ 0 ∧ (after (.generate 7) ask.2).out = [.readReq 0x100000 8]) ∧
    (let c := { workCmd 0x20 2 [] with inWant := 8, inAsked := 8 }
     let s := served0 [c] [ctx5 .live 1 [3]]
     c.ctx ≠ 0 ∧ c.madeCtx = false ∧ hifRuns s = true ∧ holdsGrant s (.dma (some 7)) = true ∧ c.tokensIn = 2 ∧
       (hdrFor s c).vocab = 4 ∧
       (after (.dmaReadCompletion 7 (toLe 4 0 ++ toLe 4 3)) s).cmds.map (·.work.input) = [[0, 3]] ∧
       (pageOf (after (.dmaReadCompletion 7 (toLe 4 0 ++ toLe 4 4)) s) 0).cqWait.map (fun r => (r.status, r.detail)) =
         [(0x31, 0x8001)]) := by
  decide +kernel

/-- A prefill of 9 tokens in an empty context, with its tokens read. -/
def feeding : Cmd :=
  { workCmd 0x20 9 [] with phase := .running, work := { Work.none with input := List.range 9, inputRead := true, start := 0 } }

/-- O50: a pass starts, waits without rows, ends at its commit point, and fails; a context is hushed at its window. -/
theorem test_passes :
    (let s := served0 [feeding] [ctx5 .new 0 []]
     modelReady s (.handle 0) = true ∧ stagesOf s (.handle 0) = none ∧ ((modelOf s (.handle 0)).any fun x => planOk x [] && x.badLayers == []) = true ∧ (nextRows s (.handle 0)).length = 1 ∧
       (passVoices s (.handle 0)).length = 16 ∧
       ((passIslands s (.handle 0) (passVoices s (.handle 0))).all fun i => islRuns s (Fin.ofNat 32 i)) = true ∧
       (after (.passStart (.handle 0) .voices [] []) s).passes.length = 1 ∧ modelReady s (.handle 1) = false ∧
       (after (.passStart (.handle 1) .voices [] []) s).passes = [] ∧
       nextRows (with_ [] s) (.handle 0) = [] ∧ (after (.passStart (.handle 0) .voices [] []) (with_ [] s)).passes = []) ∧
    (let s := { served0 [feeding] [ctx5 .new 0 []] with passes := [{ pass0 with failure := some (0x40, 3) }] }
     splitOf s (.handle 0) = none ∧ passOf s (.handle 1) = none ∧ statuses (after (.passEnd (.handle 0) []) s) = [0x40] ∧
       (after (.passEnd (.handle 1) []) s).passes.length = 1 ∧ (after (.passEnd (.handle 0) []) s).passes = []) ∧
    (let s := { served0 [feeding] [ctx5 .live 0 []] with passes := [{ pass0 with rows := [⟨7, 0, 5, 0, .prefill 4⟩] }] }
     let t := after (.passEnd (.handle 0) [⟨7, [], [], false⟩]) s
     feeding.op = 0x20 ∧ feeding.work.start = 0 ∧ pass0.failure = none ∧ pass0.rowFail = [] ∧ pass0.halted = [] ∧
       undecided s { pass0 with rows := [⟨7, 0, 5, 0, .prefill 4⟩] } = false ∧ stagesOf s (.handle 0) = none ∧ ctxOf s 0 feeding.key = some (ctx5 .live 0 []) ∧
       feeding.work.fed + 4 < feeding.feeds ∧ t.ctxs.map (·.log) = [[0, 1, 2, 3, 4]] ∧ t.cmds.map (·.work.fed) = [4]) ∧
    (let x := ctx5 .live 2 [3, 1]
     let s := { kv5 x hushCmd with cmds := [], score := some { cfg with parts := Vector.replicate 8 (some { part0 with hushWindow := 1 }) } }
     x.model.bind (hdrOf s) = some hdr0 ∧ hushWindowNs s 0 = 1000000000 ∧ s.cmds = [] ∧ paused s = false ∧ kvDamage s 0 5 = [] ∧ hushable s x = true ∧ isEarlyCtx x = false ∧
       (hushImgLen s x + 0xFFFF) / 0x10000 ≤ room s 0 1 ∧
       (after (.autoHush 0 5) { s with clk := 999999999 }).ctxs = [x] ∧
       (after (.autoHush 0 5) { s with clk := 1000000000 }).ctxs.map (·.st) = [.hushed] ∧
       (after (.autoHush 0 5) { s with clk := 1000000000 }).apt.auto = 1) := by
  decide +kernel

/-! ### Models, strips, flash and memory -/

def shard0 (layer off : Nat) : Shard :=
  { tensor := layer, layer := layer, length := 4, offset := off, crc := 0x29308CF4, packets := 0, sha := [] }

def tensor0 (i : Nat) : Tensor :=
  { layer := i, kind := 1, format := 5, group := 0, gathered := false, rows := 1, cols := 2, first := i, shards := 1, off := 4096 * i }

/-- A swap of handle 0 from slot 3 to a model of two layers of four bytes each. -/
def swap0 (st : JobStage) : Job :=
  { newJob (.cmd 7) 0 0 true (some 3) 0 65536 0 false false with
    stage := st, tensors := [tensor0 0, tensor0 1], shards := [shard0 0 16384, shard0 1 32768], revSlot := some 4,
    hdr := { hdr0 with layers := 2 } }

def swapping (st : JobStage) (barrier : Bool) (i : Nat := 0) (got : Option ShardRead := none) : State :=
  let s := served0 [{ ready 0x11 0 [] with phase := .running }] []
  { s with jobs := [{ swap0 st with shard := i, got := got }], models := s.models.set 0 { s.models[0] with barrier := barrier, st := .swapping } }

/-- P0 owns slot 3, which holds an image; the model of handle 0 was loaded from it and one shard is being repaired. -/
def slots3 (s : State) : State :=
  { s with
    score := some { cfg with slots := [⟨3, 80, 4⟩], parts := Vector.replicate 8 (some { part0 with slots := 8 }) }
    flc := { Flc.reset with ready := true }
    nand := { Nand.reset with slots := Nand.reset.slots.set 3 { st := 2, len := 65536, id := 0x77 } } }

def repairing0 (got : Option ShardRead) : State :=
  let s := slots3 (served0 [] [])
  { s with models := s.models.set 0 { s.models[0] with
      slot := some 3, repairing := some { shard := 0, page := 0, attempt := 0, buf := [], got := got }, tensors := [tensor0 0], shards := [shard0 0 16384] } }

/-- O51. The CRC-32C of the bytes 1 to 4 is 0x29308CF4. -/
theorem test_loads_and_swaps :
    (let c := { ready 0x10 0 [1, 3] with phase := .waiting }
     let s := slots3 (with_ [c] on)
     cmdOf s 7 = some c ∧ s.jobs = [] ∧ blocked s c = false ∧ s.ens.reserving = [] ∧ handleCheck s c = none ∧
       contextCheck s c = none ∧ bodyCheck s c = none ∧ paused s = false ∧ c.byte 16 = 1 ∧ c.byte 17 = 3 ∧ s.flc.fail = false ∧
       slotState s 3 = 2 ∧ (after (.modelLoad 7) s).jobs.map (·.len) = [65536] ∧
       (let u := { s with nand := Nand.reset }
        slotState u 3 ≠ 2 ∧ statuses (after (.modelLoad 7) u) = [0x33])) ∧
    (let c := { ready 0x10 0 ([2, 0] ++ List.replicate 6 0 ++ toLe 8 0x8000000000 ++ toLe 4 16384) with phase := .waiting }
     let s := served0 [c] []
     let t := { s with models := dmaOn.models, objs := [] }
     bodyCheck t c = none ∧ blocked t c = false ∧ handleCheck t c = none ∧ c.byte 16 ≠ 1 ∧ 256 ≤ c.field 32 4 ∧
       inHostWin t c.part (c.field 24 8) 256 = true ∧ (after (.modelLoad 7) t).out = [.readReq 0x100000 256]) ∧
    (let c := { ready 0x11 0 [1, 3] with phase := .waiting }
     let s := slots3 (served0 [c] [])
     bodyCheck s c = none ∧ blocked s c = false ∧ handleCheck s c = none ∧ (after (.modelSwap 7) s).jobs.map (·.swap) = [true]) := by
  decide +kernel

/-- O51: the phases of a swap, and a repair. -/
theorem test_swap_phases :
    (let g := some (ShardRead.good [1, 2, 3, 4]); let s := swapping .verify false 1 g
     let j := { swap0 .verify with shard := 1, got := g }
     swapAt s .verify = some (j, .good [1, 2, 3, 4]) ∧ j.shards[1]? = some (shard0 1 32768) ∧ isPlan j.tensors 1 = false ∧
       (after .swapVerifyEnd s).jobs.map (·.stage) = [.write] ∧
       swapAt (swapping .verify false 1 (some .damaged)) .verify = some ({ j with got := some .damaged }, .damaged) ∧
       endsJob j (shard0 1 32768) .damaged = true ∧ statuses (after .swapVerifyEnd (swapping .verify false 1 (some .damaged))) = [0x41]) ∧
    (let s := swapping .write false
     s.jobs.find? (fun j => j.swap && j.stage == .write) = some (swap0 .write) ∧ passOf s (.handle 0) = none ∧
       (after .swapWriteStart s).models[(0 : Fin 64)].barrier = true ∧ passOf { s with passes := [pass0] } (.handle 0) ≠ none ∧
       (s.jobs.all fun j => j.owner == .cmd 7 && (cmdOf s 7).isSome) = true ∧
       (after .swapWriteStart { s with passes := [pass0] }).models[(0 : Fin 64)].barrier = false) ∧
    (let s := swapping .write true
     let j := swap0 .write
     jobFor s j.owner = some j ∧ (jobSlot j).isSome = true ∧ jobShard s j = some (0, shard0 0 16384) ∧
       (fetchShard (.cmd 7) 2 s).jobs.map (fun k => (k.page, k.attempt)) = [(1, 2)]) := by
  decide +kernel

/-- O51: the write phase. -/
theorem test_swap_writes :
    (let s := swapping .write true 0 (some (.good [1, 2, 3, 4]))
     let j := { swap0 .write with got := some (.good [1, 2, 3, 4]) }
     let t := after .swapShardWritten s
     swapAt s .write = some (j, .good [1, 2, 3, 4]) ∧ jobFor s j.owner = some j ∧ j.slot.isSome = true ∧
       (writeOrder j.shards)[j.shard]? = some 0 ∧ j.shards[0]? = some (shard0 0 16384) ∧ j.shard + 1 < j.shards.length ∧
       t.mem = bytesAt 0x100000000 [1, 2, 3, 4] ∧ t.models[(0 : Fin 64)].front = 1 ∧ t.jobs.map (·.shard) = [1] ∧
       j.revSlot.isSome = true ∧ j.degraded = false ∧
       (after .swapShardWritten (swapping .write true 0 (some .damaged))).jobs.map (fun k => (k.stage, k.failedAt)) = [(.revert, some 0)] ∧
       (let q := { s with jobs := [{ j with got := some .damaged, revSlot := none }] };
        (after .swapShardWritten q).jobs.map (fun k => (k.shard, k.bad)) = [(1, [badLayerOf 0])])) := by
  decide +kernel

/-- O51: a reversion that has ended and one that has not, and a repair. -/
theorem test_reverts_and_repairs :
    (let s := swapping .revert true; let t := after .swapRevertEnd s
     s.jobs.find? (fun j => j.swap && j.stage == .revert) = some (swap0 .revert) ∧ (oldShards s (swap0 .revert)).length ≤ 0 ∧
       t.jobs = [] ∧ t.models[(0 : Fin 64)].barrier = false ∧ t.models[(0 : Fin 64)].st = .resident ∧
       (let j := { swap0 .revert with written := 4, shard := 0, done := 4, frontAt := 1 }
        let m := { s with jobs := [j], models := s.models.set 0 { s.models[0] with tensors := [tensor0 0], shards := [shard0 0 16384] } }
        0 < (oldShards m j).length ∧ (after .swapRevertEnd m).jobs = [j])) ∧
    (let s := repairing0 (some (.good [1, 2, 3, 4])); let t := after .repairEnd s
     repairNow s = some 0 ∧ s.models[(0 : Fin 64)].slot = some 3 ∧ repairable s 0 = true ∧ t.str.repaired = 1 ∧
       memRead t.mem 0x100000000 4 = [1, 2, 3, 4] ∧ t.models[(0 : Fin 64)].repairing = none ∧
       (after .repairEnd (repairing0 (some .damaged))).models[(0 : Fin 64)].st = .degraded ∧
       repairable { repairing0 none with nand := Nand.reset } 0 = false ∧
       (after .repairEnd { repairing0 none with nand := Nand.reset }).models[(0 : Fin 64)].st = .degraded ∧
       repairable (repairing0 none) 0 = true ∧ (after .repairEnd (repairing0 none)).str.repaired = 0) := by
  decide +kernel

/-- Strip 5 filling for handle 0: the load of its plan, the bytes read and taken, and 10 bytes landed. -/
def filling (mem : Memory) (l : StripLoad) (fetched : Nat) : State :=
  let s := up [.streamer, .prism] []
  { s with
    mem := mem
    models := s.models.set 0 { Model.empty with st := .resident, hdr := hdr0, units := [(0, 1)], plan := [l] }
    strips := s.strips.set 5 { Strip.reset with st := .filling, owner := some (.handle 0), load := 1, fetched := fetched, filled := 10 } }

/-- The same with one coded tensor of 80 bytes. -/
def coding (mem : Memory) : State :=
  let s := filling mem ⟨0x100000000, 80, 1, 1⟩ 80
  { s with models := s.models.set 0 { s.models[0] with
      tensors := [{ tensor0 0 with format := 6, rows := 1, cols := 1 }], shards := [{ shard0 0 16384 with length := 80 }] } }

/-- A block of one element (R312 to R315): symbols 0 and 1 of one bit each, exponents 0x7F and 0x80, and the bits
0, 0, 1000001. -/
def block1 : List Byte :=
  [0x9B, 0, 1, 0, 80, 0, 0, 0, 0x7F, 0x80] ++ List.replicate 14 0 ++ [0x11] ++ List.replicate 7 0 ++ [2] ++ List.replicate 31 0 ++
    [0x20, 0x80]

/-- O52: a burst that fills the strip to its end, a block, and a damaged block. -/
theorem test_strips :
    (let l : StripLoad := ⟨0x100000000, 13, 1, 1⟩
     let s := filling (bytesAt 0x10000000A [1, 2, 3]) l 10
     let t := after (.streamerBurstComplete 5 0x10000000A 3 [] true) s
     s.strips[(5 : Fin 64)].owner = some (.handle 0) ∧ s.strips[(5 : Fin 64)].st = .filling ∧ s.vib.again = none ∧ s.vib.runFrom = none ∧
       muted s = false ∧ Memory.wf s.mem = true ∧ islRuns s 21 = true ∧ loadOf s (.handle 0) 5 = some l ∧
       burstOk s (.handle 0) 5 l 0x10000000A 3 true = true ∧ windowFirst s (.handle 0) = true ∧
       ((ledger s .core).grants.any fun g => g.unit == .streamer && g.tag == modelTag s (.handle 0)) = true ∧
       Spec.readsClean s 0x10000000A 3 = true ∧ (badIn s (0x2000000 + 0x40000 * 5 + 10) 3).isNone = true ∧
       weightTensor s (.handle 0) 0x10000000A = none ∧ memRead t.mem 0x214000A 3 = [1, 2, 3] ∧
       t.strips[(5 : Fin 64)].st = .ready ∧ t.strips[(5 : Fin 64)].filled = 13 ∧ t.str.fills = 1 ∧
       s.strips[(6 : Fin 64)].st ≠ .filling ∧ (after (.streamerBurstComplete 6 0x10000000A 3 [] true) s).str.fills = 0) ∧
    (let s := coding ((bytesAt 0x100000000 block1).filter (·.2 != 0))
     let t := after (.prismBlockDecoded 5 0x100000000 true true false) s
     islRuns s 22 = true ∧ blockOk s (.handle 0) 5 ⟨0x100000000, 80, 1, 1⟩ 0x100000000 true true = true ∧
       ((ledger s .core).grants.any fun g => g.unit == .prism && g.tag == modelTag s (.handle 0)) = true ∧
       ((passOf s (.handle 0)).any (·.mirrored)) = false ∧ Memory.wf s.mem = true ∧
       (match decodeBlock true (memRead s.mem 0x100000000 14400) with | .ok r => r == ([0x3FC1], 0) | .error _ => false) = true ∧
       (badIn s (0x2000000 + 0x40000 * 5 + 10) 2).isNone = true ∧ memRead t.mem 0x214000A 2 = [0xC1, 0x3F] ∧
       t.strips[(5 : Fin 64)].filled = 12 ∧ t.strips[(5 : Fin 64)].st = .ready ∧ t.prz.live[0] = 1 ∧ t.prz.live[2] = 1) ∧
    (let s := coding (bytesAt 0x100000004 [80])
     let t := after (.prismBlockDecoded 5 0x100000000 true true false) s
     blockOk s (.handle 0) 5 ⟨0x100000000, 80, 1, 1⟩ 0x100000000 true true = true ∧
     (match decodeBlock true (memRead s.mem 0x100000000 14400) with | .ok _ => false | .error e => e == (1, 0)) = true ∧
       s.strips[(5 : Fin 64)].retry = false ∧ t.strips[(5 : Fin 64)].retry = true ∧ t.prz.damageCause = 1) := by
  decide +kernel

/-- The channels' leases held for a tag. -/
def leases (t : Tag) : LedgerSt := { grants [.flash 0, .flash 1] with grants := [⟨0, .flash 0, t, 0⟩, ⟨1, .flash 1, t, 0⟩] }

/-- The same slot, holding one page, with the leases of patrol held. -/
def flash0 : State :=
  let s := slots3 (up [] [.flash 0, .flash 1])
  { s with nand := { s.nand with slots := s.nand.slots.set 3 { st := 2, len := 16384, id := 0x77 } } }

def cw (offset : Fin 9) (corrected : Nat) : CwRead := { offset := some offset, corrected := corrected }

/-- O53: initialisation, a read at the bound of 48 corrections, patrol, and a refresh. -/
theorem test_flash_reads :
    (let s := { flash0 with flc := Flc.reset, nand := { flash0.nand with slots := Nand.reset.slots.set 3 { st := 5, len := 9, id := 0 } } }
     flashPart s = true ∧ islRuns s 27 = true ∧ s.flc.ready = false ∧ s.flc.fail = false ∧ 3 < stageCode s.bsc.stage ∧
       s.bsc.stage ≠ .preload ∧ muted s = false ∧ (after (.flashInitComplete (some 1) [] []) s).flc.fail = true ∧
       (after (.flashInitComplete none [true, true, true, true] []) s).flc.ready = true ∧
       (after (.flashInitComplete none [true, true, true, true] []) s).nand.slots[(3 : Fin 32)].st = 3) ∧
    (let q := slots3 (swapping .verify false)
     let s := fetchShard (.cmd 7) 0 { q with brg := { q.brg with io := leases (.part 0) } }
     s.flc.ready = true ∧ nextRead s 1 = some (.job (.cmd 7), 81, 0) ∧ readerTag s (.job (.cmd 7)) = .part 0 ∧
       holdsFlash s (.part 0) 1 = true ∧ [cw 0 48, cw 0 0, cw 0 48, cw 0 48].all (cwOk (firstOffset s 81 (.job (.cmd 7)))) = true ∧
       nextRead s 0 = none ∧ holdsFlash q (.part 0) 1 = false ∧
       (let t := after (.flashPageRead 81 0 [cw 0 48, cw 0 0, cw 0 48, cw 0 48]) s
        (blockOfNand t 81).reads = 1 ∧ t.jobs.map (·.attempt) = [1])) ∧
    (let s := flash0
     (List.range 4).all (fun i => !isFlagged s 81 0 i) = true ∧ (blockOfNand s 81).reads + 1 ≤ 1024 * s.flc.limit ∧
       readCws 81 0 0 0xFF none [cw 0 48, cw 0 0, cw 0 48, cw 0 48] s = setBlock 81 (fun x => { x with reads := x.reads + 1 }) s ∧
       (readCws 81 0 0 0xFF none [cw 3 48] s).flc.recovered = 1 ∧
       (blockOfNand (readCws 81 0 0 0xFF none [cw 3 48] s) 81).offset = 3 ∧
       (readCws 81 0 0 0xFF none [{ offset := none, corrected := 0 }] s).flc.uncorr = 1) ∧
    (let s := { flash0 with clk := 3600000000000 * flash0.flc.patrol }
     let reads := [cw 0 48, cw 0 48, cw 0 48, cw 0 48]
     let t := after (.flashPatrol reads) s
     s.flc.patrol ≠ 0 ∧ patrolTurn s = true ∧ s.flc.patrolAt + 3600000000000 * s.flc.patrol ≤ s.clk ∧
       holdsFlash s .system 0 = true ∧ holdsFlash s .system 1 = true ∧ patrolPages s = [(80, 0)] ∧
       t.flc.patrolAt = s.clk ∧ (blockOfNand t 80).reads = 1 ∧
       (blockOfNand (after (.flashPatrol reads) { s with clk := s.clk - 1 }) 80).reads = 0) ∧
    (let s := { flash0 with nand := { flash0.nand with
       blocks := [{ num := 80, retired := false, pe := 2, reads := 0, mark := 1, offset := 0, flagged := [] }] } }
     let t := after (.blockRefreshComplete [] false) s
     let u := after (.blockRefreshComplete [] true) s
     markedBlocks s = [80] ∧ s.nand.pool.head? = some 16 ∧ refreshTurn s 0 = true ∧ t.nand.pool.getLast? = some 80 ∧ t.flc.refreshes = 1 ∧
       (blockOfNand t 80).pe = 3 ∧ t.nand.pool.length = 64 ∧ u.nand.pool.length = 63 ∧ (blockOfNand u 16).retired = true) := by
  decide +kernel

/-- A write in its program pass, with the item in hand, and an erase. -/
def flashOp : FlashOp :=
  { cmd := 7, erase := false, slot := 3, checking := false, clearing := false, hdr := hdr0, shards := [shard0 0 16384], tables := [1]
    shard := 0, page := 1, buf := List.replicate 16384 7 ++ [8], restarts := 0, retired := 0, blocks := [], done := 0, fail := none }

def flashing (op : Nat) (o : FlashOp) : State :=
  let body := [0, 3] ++ List.replicate 6 0 ++ toLe 8 0x8000000000 ++ toLe 4 65536
  let s := slots3 (served0 [{ ready op 0 body with phase := .running }] [])
  { s with brg := { s.brg with io := leases (.part 0) }, flc := { s.flc with op := some o } }

/-- O54: the two flash commands and their steps. -/
theorem test_flash_writes :
    (let c := { ready 0x48 0 ([0, 3] ++ List.replicate 6 0 ++ toLe 8 0x8000000000 ++ toLe 4 65536) with phase := .deferred true }
     let s := slots3 (served0 [c] [])
     let u := { s with nand := { s.nand with slots := s.nand.slots.set 3 { st := 1, len := 0, id := 0 } } }
     let d := { ready 0x49 0 [0, 3] with phase := .deferred true }
     let v := { u with cmds := [d] }
     firstBy (serviceKey u) (u.cmds.filter (couldStart u)) = some c ∧ slotState u 3 = 1 ∧
       (after (.deferredStart 7) u).nand.slots[(3 : Fin 32)].st = 4 ∧
       firstBy (serviceKey v) (v.cmds.filter (couldStart v)) = some d ∧ (after (.deferredStart 7) v).nand.slots[(3 : Fin 32)].st = 5) ∧
    (let c := ready 0x48 0 ([0, 3] ++ List.replicate 6 0 ++ toLe 8 0x8000000000 ++ toLe 4 65536)
     let s := slots3 (served0 [c] [])
     readyIn s c 0x48 = true ∧ s.flc.op = none ∧ (after (.flashWriteImage 7) s).flc.op.map (·.checking) = some true ∧
       (after (.flashWriteImage 7) s).out = [.readReq 0x100000 256]) ∧
    (let c := ready 0x49 0 [0, 3]; let s := slots3 (served0 [c] [])
     readyIn s c 0x49 = true ∧ goodBlocks s 3 = [80, 81, 82, 83] ∧
       (after (.flashEraseSlot 7) s).flc.op.map (·.blocks) = some [80, 81, 82, 83]) ∧
    (let s := flashing 0x49 { flashOp with erase := true, blocks := [82, 83] }
     let t := flashing 0x49 { flashOp with erase := true, blocks := [83] }
     islRuns s 27 = true ∧ dieFree s 82 = true ∧ holdsFlash s (.part 0) 0 = true ∧ dieFree t 83 = true ∧
       holdsFlash t (.part 0) 1 = true ∧ (after (.flashBlockErased false) s).flc.op.map (·.blocks) = some [83] ∧
       (after (.flashBlockErased false) t).flc.op = none ∧ statuses (after (.flashBlockErased false) t) = [0] ∧
       (after (.flashBlockErased false) t).nand.slots[(3 : Fin 32)].st = 1) ∧
    (let o := { flashOp with checking := true, shard := 2, buf := [] }; let s := flashing 0x48 o
     o.shards.length < o.shard ∧ o.tables ≠ [] ∧ (cmdOf s 7).isSome = true ∧
       (after .flashWriteCheckPassEnd s).flc.op.map (·.checking) = some false ∧
       (after .flashWriteCheckPassEnd (flashing 0x48 { o with shard := 1 })).flc.op.map (·.checking) = some true) ∧
    (let s := flashing 0x48 flashOp
     16384 < flashOp.buf.length ∧ pagePlace s 3 1 = some (81, 0) ∧ dieFree s 81 = true ∧ holdsFlash s (.part 0) 1 = true ∧
       (after (.flashPageProgrammed false) s).flc.op.map (fun o => (o.page, o.buf)) = some (2, [8])) := by
  decide +kernel

/-- O54: a score update. -/
theorem test_score_update :
    (let c := ready 0x4A 0 (List.replicate 8 0 ++ toLe 8 0x8000000000 ++ toLe 4 4096)
     let s := served0 [c] []
     readyIn s c 0x4A = true ∧ (s.cmds.all fun d => d.op != 0x4A || d.phase != .running) = true ∧
       (after (.scoreUpdate 7) s).bsc.updStep = 1 ∧
       (let d := { c with phase := .running, input := [1, 2] }
        let s := { served0 [d] [] with bsc := { on.bsc with updStep := 2 } }
        let t := after (.scoreUpdateCopyWritten [1, 2]) s
        s.cmds.find? (fun d => d.op == 0x4A && d.phase == .running) = some d ∧ sha256 [1, 2] = sha256 d.input ∧
          t.out.head? = some (.norWrite false [1, 2]) ∧ t.out.length = 2 ∧
          statuses (after (.scoreUpdateCopyWritten [1, 2]) { s with bsc := { s.bsc with updStep := 3 } }) = [0])) := by
  decide +kernel

/-- Both controllers in service. -/
def dramOn (c : Channel) : State :=
  let s := up [.secMem 0] [.dram 0, .dram 8]
  { s with
    bsc := { s.bsc with joined := 0xFFFF }
    dmc := Vector.replicate 2 { Dmc.reset with sr := false, idle := 100, postpone := 0, chans := Vector.replicate 8 { c with joined := true } } }

def dmcReq (addr : Nat) (d : Option (List Byte)) : DmcReq :=
  { source := .bar2, cmds := [], part := none, addr := addr, len := 2, data := d }

def queued (r : DmcReq) (value : List Byte) : Queued := { req := r, since := 0, value := value, lost := [], partialWait := false }

/-- O55: requests of a channel, in both hazard modes. -/
theorem test_requests :
    (let s := dramOn Channel.reset
     let w := dmcReq 0x10000003E (some [1, 2])
     let r := dmcReq 0x10000003E none
     let t := after (.dmcRequestAccept 0 w) s
     let u := after (.dmcRequestAccept 0 r) s
     takesReq s 0 = true ∧ reqOk s 0 w = true ∧ reqOk s 0 r = true ∧ (chanOf s 0).queue = [] ∧ (chanOf s 0).dead = false ∧
       (badIn s w.addr 2).isNone = true ∧ t.mem = bytesAt 0x10000003E [1, 2] ∧ (chanOf t 0).queue = [queued w []] ∧
       (chanOf u 0).queue = [queued r [0, 0]] ∧ takesReq on 0 = false ∧ (after (.dmcRequestAccept 0 w) on).mem = [] ∧
       nthOf true 0 (chanOf t 0).queue = some 0 ∧ mayIssue t 0 (chanOf t 0).queue 0 (queued w []) = true ∧
       holdsGrant t (.dram 0) = true ∧ t.dmc[ctlOf 0].idle ≠ 0 ∧ t.vib.runFrom = none ∧
       (chanOf (after (.dmcRequestIssue 0 true 0 []) t) 0).queue = [] ∧
       isOpenAt (after (.dmcRequestIssue 0 true 0 []) t) 0 0 0 = true ∧
       mayIssue u 0 (chanOf u 0).queue 0 (queued r [0, 0]) = true ∧
       (after (.dmcRequestIssue 0 false 0 []) u).out = [.dram r (some [0, 0])]) ∧
    (let w := dmcReq 0x10000003E (some [1, 2])
     let r := dmcReq 0x10000003E none
     let s := { dramOn { Channel.reset with fwd := true, queue := [queued w []] } with mem := bytesAt 0x10000003E [1, 2] }
     ((chanOf s 0).queue.filter fun q => isWrite q && overlap q.req r).getLast? = some (queued w []) ∧ covers w r = true ∧
       sourceIsland 0 w.source ≤ sourceIsland 0 r.source ∧ (after (.dmcRequestAccept 0 r) s).out = [.dram r (some [1, 2])] ∧
       (chanOf (after (.dmcRequestAccept 0 r) s) 0).live[4] = 1) := by
  decide +kernel

/-- O55: rows, refresh, MR4, retraining, scrub, self-refresh, the counters and section scrub. -/
theorem test_dram :
    (let h := { Channel.reset with openRows := Channel.reset.openRows.set 3 (some ⟨9, []⟩), acc := 4 }
     let s := dramOn h
     (chanOf s 0).openRows[(3 : Fin 16)] = some ⟨9, []⟩ ∧ (chanOf s 0).queue = [] ∧
       (chanOf (after (.rowIdleClose 0 3) s) 0).openRows[(3 : Fin 16)] = none ∧
       refreshOn s = true ∧ s.dmc[(0 : Fin 2)].mode = false ∧ s.dmc[(0 : Fin 2)].modeNow = false ∧ s.dmc[(0 : Fin 2)].postpone = 0 ∧
       8 ≤ (chanOf s 0).acc + dueOf (chanOf s 0).rate ∧ (after (.refreshSlot 0) s).dmc[(0 : Fin 2)].slot = 1 ∧
       (chanOf (after (.refreshSlot 0) s) 0).openRows[(3 : Fin 16)] = none ∧
       (chanOf (after (.mr4Poll 0 [.x4, .x2, .x1, .x1, .x1, .x1, .x1, .hotter 4]) s) 0).rate = 2 ∧
       (chanOf (after (.mr4Poll 0 [.x4, .x2, .x1, .x1, .x1, .x1, .x1, .hotter 4]) s) 7).hot = true ∧
       (chanOf (after (.dqsTrack 0 251) s) 0).retraining = true ∧ (chanOf (after (.dqsTrack 0 250) s) 0).retraining = false) ∧
    (let s := dramOn { Channel.reset with retraining := true, tries := 2 }
     (chanOf (after (.retrainComplete 0 true) s) 0).tries = 0 ∧ (chanOf (after (.retrainComplete 0 false) s) 0).dead = true) ∧
    (let s := dramOn Channel.reset
     let x := s.dmc[(0 : Fin 2)]
     let q := scrubReq s 0 0
     takesReq s 0 = true ∧ x.posChannel = 0 ∧ mayIssue s 0 ((chanOf s 0).queue ++ [q]) (chanOf s 0).queue.length q = true ∧
       holdsGrant s (.dram 0) = true ∧ Spec.readsClean s q.req.addr 32 = true ∧ x.posBurst < 63 ∧
       (after (.scrubRead 0 []) s).dmc[(0 : Fin 2)].posBurst = 1 ∧
       (after (.selfRefreshExitComplete 1) { s with dmc := s.dmc.set 1 { s.dmc[1] with exiting := true } }).dmc[(1 : Fin 2)].exiting =
         false ∧
       (chanOf (after (.hazardApply 0) { s with dmc := s.dmc.set 0 { s.dmc[0] with staged := 1 } }) 0).fwd = true ∧
       served s 0x8100 = true ∧ served s 0x9100 = true ∧ islRuns s 26 = true ∧
       (after (.dmcCntClear 1) (dramOn { Channel.reset with live := Vector.replicate 8 5 })).dmc[(1 : Fin 2)].chans[(0 : Fin 8)].live[0] =
         0 ∧
       (after (.dmcCntSnap 1) (dramOn { Channel.reset with live := Vector.replicate 8 5 })).dmc[(1 : Fin 2)].chans[(0 : Fin 8)].snap[0] =
         5 ∧
       (let g := { s with isl := { s.isl with each := s.isl.each.set 26 { running with st := .gated } } }
        served g 0x9100 = true ∧ islRuns g 26 = false ∧ (after (.dmcCntSnap 1) g).isl.acts = [(0x9100, 1)])) ∧
    (let s := dramOn Channel.reset
     islRuns s 17 = true ∧ s.vib.runFrom = none ∧ holdsGrant s (.secMem 0) = true ∧ (badIn s 0x5FFFF8 8).isNone = true ∧
      (after (.sectionScrub 0 0x5FFFFF [.uncorrectable 0]) s).sections[(0 : Fin 4)].ueAddr = 0x5FFFF8 ∧
      (after (.sectionScrub 0 0x5FFFFF [.uncorrectable 0]) s).sections[(0 : Fin 4)].ue = 1) := by
  decide +kernel

/-! ### Sets, mirror, vibrato, ports, power and the test port -/

def kcmd : Cmd :=
  { ready 0x38 0 ([1] ++ List.replicate 7 0 ++ toLe 8 0x40000 ++ toLe 4 8 ++ toLe 4 0 ++ toLe 8 9 ++ toLe 4 3 ++ [0]) with
    phase := .running, input := List.replicate 8 0 }

def kset (stopping : Bool) (vs : List Voice) (saved : List VoiceSt) : KSet :=
  { cmd := 7, part := 0, mirror := false, voices := vs, startedAt := 0, resumedAt := 0, given := vs, stopping := stopping, saved := saved }

/-- O56. -/
theorem test_kernel_sets :
    (let s := served0 [kcmd] []
     let t := after (.kernelSetStart 7 []) s
     cmdOf s 7 = some kcmd ∧ kcmd.op = 0x38 ∧ Machine.setOf s 7 = none ∧ paused s = false ∧
       (kernelCode kcmd).isSome = true ∧ firstForVoices s 7 = true ∧ s.vib.runFrom = none ∧ choose s kcmd.kVoices kcmd.kMirror = some [0] ∧ choose s 1 false = some [0] ∧
       t.sets.map (·.voices) = [[0]] ∧ (voiceOf t 0).run = .set 7 0 ∧ (voiceOf t 0).s[(2 : Fin 16)] = 1 ∧
       choose { s with voices := Vector.replicate 16 { VoiceSt.reset with run := .held } } 1 false = none) ∧
    (let s := { vox 0 [] with sets := [kset true [8] []] }
     let t := after (.preemptSaveComplete 7) s
     Machine.setOf s 7 = some (kset true [8] []) ∧ [(8 : Voice)].Nodup ∧ (voiceOf t 8).run = .free ∧ (voiceOf t 8).preempt = 1 ∧
       (Machine.setOf (vox 0 []) 7).map (·.stopping) = some false) ∧
    (let k := kset false [] [{ VoiceSt.reset with run := .set 7 0, pc := 5 }]
     let s := { served0 [kcmd] [] with sets := [k] }
     Machine.setOf s 7 = some k ∧ k.saved ≠ [] ∧ lowerWaits s 1 = false ∧ firstForVoices s 7 = true ∧ choose s 1 false = some [0] ∧
       (voiceOf (after (.kernelRestore 7) s) 0).pc = 5) ∧
    (let s := { served0 [kcmd] [] with sets := [kset false [8] []], clk := 3000 }
     cmdOf s 7 = some kcmd ∧ (kset false [8] []).startedAt + 1000 * kcmd.kTimeout ≤ s.clk ∧ muted s = false ∧ s.bsc.early = false ∧
       statuses (after (.kernelTimeout 7) s) = [2] ∧ statuses (after (.kernelTimeout 7) { s with clk := 2999 }) = []) ∧
    (served on 0x28004 = true ∧ (voiceOf (after (.vceCtrlWrite 8 1) on) 8).hold = true) := by
  decide +kernel

def mirrored (st : PairSt) : State := { on with clk := 1000000000, mir := { on.mir with pairs := on.mir.pairs.map fun p => { p with st := st } } }

/-- O57. -/
theorem test_mirror_and_vibrato :
    (let s := mirrored .formed; let u := mirrored .requal; let r := mirrored .failed
     islRuns s 31 = true ∧ s.vib.runFrom = none ∧ (pairAt s 3).st = .formed ∧
       (after (.mirrorProbe 3 5 ⟨2, 5⟩) s).mir.probes = 1 ∧ (pairAt (after (.mirrorProbe 3 5 ⟨2, 4⟩) s) 3).st = .mismatch ∧
       (pairAt (after (.mirrorProbe 3 5 ⟨1, 0⟩) s) 3).st = .comparator ∧
       (pairAt s 3).probeAt + 125000 * (pairAt s 3).per ≤ s.clk ∧ (after (.mirrorProbe 3 5 ⟨2, 5⟩) { s with clk := 0 }).mir.probes = 0 ∧
       (pairAt (after (.mirrorProbe 3 0 ⟨2, 1⟩) s) 3).st = .mismatch ∧ (pairAt (after (.mirrorProbe 3 0 ⟨1, 0⟩) s) 3).st = .formed ∧
       (let g := { r with isl := { r.isl with each := r.isl.each.set 31 { running with st := .gated } } }
        islRuns g 31 = false ∧ served g 0xF00C = true ∧ (after (.mirRequalWrite 8) g).isl.acts = [(0xF00C, 8)] ∧
          served g 0x10004 = true ∧ (after .vibGo g).isl.acts = [(0x10004, 1)]) ∧ (pairAt on 3).st ≠ .formed ∧
       served s 0xF00C = true ∧ (pairAt (after (.mirRequalWrite 8) r) 3).st = .requal ∧
       (pairAt (after (.mirRequalWrite 8) s) 3).st = .formed ∧ (pairAt u 3).st = .requal ∧
       (pairAt (after (.mirrorSelftestEnd 3 true) u) 3).st = .formed ∧ s.isl.refLost = false ∧ muted s = false ∧
       s.bsc.stage ≠ .otp ∧ (after .cantorMismatch s).bsc.muteIsland = 24 ∧ s.mir.aon = 0 ∧
       (after (.aonCopyOutvoted 1 0) s).mir.aon = 1 ∧ (after (.aonCopyOutvoted 2 0) (after (.aonCopyOutvoted 1 0) s)).mir.aon = 2) ∧
    (let s := on; let k := after (.vibUnlockWrite 0x5649) s; let u := after (.vibUnlockWrite 0xA9B6) k
     let g := after .vibGo u
     served s 0x10000 = true ∧ k.vib.keyAt = some 0 ∧ u.vib.unlocked = true ∧ served s 0x10004 = true ∧ g.vib.runFrom = some 0 ∧
       u.vib.runFrom = none ∧ (after .vibGo s).vib = s.vib ∧ (after .vibStop g).vib.runFrom = none ∧
       (after .vibLock g).vib.unlocked = false ∧ (after .vibLock u).vib.unlocked = false ∧
       (after .vibDurationExpiry { g with clk := 1000000 * g.vib.ms }).vib.runFrom = none ∧
       (after (.vibUnlockWrite 1) k).vib.keyAt = none) := by
  decide +kernel

def port0 (f : PortState → PortState) : State := setPort 0 f (up [.port 0, .port 1] [])

def port1 (st : PortSt) : State := port0 fun q => { q with st := st, neighbour := 2 }

def sent0 : SentPkt := { pkt := pkt 1 0 [] [], at_ := 0, replays := 0, due := false, bad := false }

/-- O58. -/
theorem test_port_states :
    (let s := port1 .detect
     islRuns s 29 = true ∧ (portOf s 0).st = .detect ∧ (portOf (after (.portDetect 0 true) s) 0).st = .equalize ∧
       (portOf (after (.portEqualizeEnd 0 true) (port1 .equalize)) 0).st = .align ∧
       (portOf (after (.portEqualizeEnd 0 false) (port1 .equalize)) 0).st = .equalize ∧
       (portOf (after (.portEqualizeEnd 0 true) { port1 .equalize with clk := 8000001 }) 0).cause = 6 ∧
       (portOf (after (.portAlignEnd 0 7) (port1 .align)) 0).lanes = 3 ∧
       (portOf (after (.portAlignEnd 0 6) (port1 .align)) 0).cause = 5 ∧
       (portOf (after (.portAlignEnd 0 7) { port1 .align with clk := 1000001 }) 0).cause = 6 ∧
       (portOf (after (.portIdentEnd 0 none) (port1 .ident)) 0).st = .ident ∧
       (portOf (after (.portIdentEnd 0 none) { port1 .ident with clk := 1000001 }) 0).cause = 6 ∧
       (portOf (after (.portIdentEnd 0 (some 7)) (port1 .ident)) 0).st = .ident ∧
       (let u := port0 fun q => { q with st := .ident, neighbour := 2, idents := 16, answered := 16 }
        (portOf (after (.portIdentEnd 0 (some 7)) u) 0).st = .active ∧
          (after (.portIdentEnd 0 (some 7)) u).ens.reach.getLsbD 2 = true)) ∧
    (let s := port1 .down
     (portOf (after (.portDownExpiry 0) s) 0).st = .down ∧
       (portOf (after (.portDownExpiry 0) { s with clk := 10000000 }) 0).st = .detect ∧ served s 0xE004 = true ∧
       (portOf (after (.ensRetrain 0x1100) (port1 .active)) 0).st = .disabled ∧
       (portOf (after (.ensRetrain 0x100) (port1 .active)) 0).cause = 7 ∧
       (portOf (after (.ensRetrain 0x200) (port1 .active)) 0).st = .active) ∧
    (let s := port1 .active
     let u := port0 fun q => { q with st := .active, rxNew := 3, unacked := [sent0] }
     (portOf s 0).st = .active ∧ (portOf s 0).rxNew = 0 ∧ (portOf s 0).unacked = [] ∧
       (after (.keepaliveIdleTimer 0) { s with clk := 5000 }).out.length = 1 ∧ (after (.keepaliveIdleTimer 0) s).out = [] ∧
       (portOf (after (.ackTimer 0) u) 0).rxNew = 0 ∧ (portOf u 0).unacked = [sent0] ∧ (portOf u 0).queue = [] ∧
       holdsGrant u (.port 0) = true ∧
       (portOf (after (.replayTimeout 0) { u with clk := 4000 }) 0).unacked = [{ sent0 with replays := 1, at_ := 4000 }] ∧
       (portOf (after (.replayTimeout 0) { u with brg := on.brg, clk := 4000 }) 0).unacked = [{ sent0 with due := true }] ∧
       (let w := port0 fun q => { q with st := .active, unacked := [{ sent0 with replays := 8 }] };
        (portOf (after (.replayTimeout 0) { w with clk := 4000 }) 0).cause = 2) ∧
       (portOf (after (.linkSilence 0) s) 0).st = .active ∧ (portOf (after (.linkSilence 0) { s with clk := 50000 }) 0).cause = 1 ∧
       (portOf s 0).rxSeq < 4096 ∧ (portOf (after (.linkError 0 .crc) s) 0).crc = 1 ∧
       (portOf (after (.linkError 0 (.gap { pkt 1 0 [] [] with seq := 2 })) s) 0).skipping = true ∧
       served s 0xE070 = true ∧ (after .ensDbinLoRead { s with ens := { s.ens with dbin := 0x500000007 } }).ens.dbinHi = 5) := by
  decide +kernel

/-- Handle 3 of P0, the entry stage or the second stage of two on devices 1 and 2. -/
def split (stage : Nat) : State :=
  let s := port1 .active
  let sp : Split :=
    { stages := 2, stage := stage, first := stage, last := stage, id := 9, devices := if stage = 0 then [1, 2] else [2, 1] }
  { s with models := s.models.set 3 { Model.empty with st := .resident, owner := 0, hdr := { hdr0 with split := some sp } } }

def splitRun (stage : Nat) : State :=
  let s := split stage
  { s with
    passes := [{ pass0 with model := .handle 3, num := 4, rows := pass0.rows }]
    cmds := [{ ready 0x20 5 [] with phase := .running }] }

def stageCtx (pos : Nat) : Ctx := { ctx5 .live pos [] with num := stageKey 2 5 }

/-- O59. -/
theorem test_packets :
    (let s := port1 .active; let p := pkt 2 1 [0, 5, 0, 3, 3] []
     portActive s 0 = true ∧ routedForm p = true ∧ p.seq = (portOf s 0).rxSeq ∧ (portOf s 0).rxNew < 15 ∧ p.dst = deviceNo s ∧
       (portOf (after (.join 0 p) s) 0).rxSeq = 1 ∧ (after (.join 0 p) s).ens.joins.map (·.state) = [3] ∧
       (after (.join 0 (pkt 2 11 [] [])) s).ens.dropReason = 4 ∧
       (after (.join 0 { p with dst := 2, ttl := 1 }) s).ens.dropReason = 1 ∧ routeOf s 9 = 0xFF ∧
       (after (.join 0 { p with dst := 9 }) s).ens.dropReason = 2 ∧ routeOf s 0 = 2 ∧ portActive s 2 = false ∧
       (after (.join 0 { p with dst := 0 }) s).ens.dropReason = 3 ∧
       (let u := setPort 2 (fun q => { q with st := .active }) { s with brg := { s.brg with core := grants [.port 2] } }
        let m := { p with dst := 0, ttl := 9 }
        routeOf u m.dst = 2 ∧ portActive u 2 = true ∧ (portOf u 2).queue = [] ∧ (portOf u 2).unacked = [] ∧
          hasCredit (portOf u 2) 0 = true ∧ holdsGrant u (.port 2) = true ∧ u.vib.runFrom = none ∧
          (after (.join 0 m) u).out = [.packet 2 { m with ttl := 8, seq := (portOf u 2).txSeq } false])) ∧
    (let s := split 1
     splitHandle s 3 0 = some { stages := 2, stage := 1, first := 1, last := 1, devices := [2, 1], id := 9 } ∧
       partFrom s 2 0 = some 3 ∧
       (after (.data 0 { pkt 1 0 [] (List.replicate 16 1) with arg := [3, 0, 4, 0, 0, 0, 0, 0] }) s).ens.blocks.map (·.num) = [4] ∧
       (after (.reach 0 (pkt 2 2 [] (List.replicate 32 0))) s).ens.reach.getLsbD 5 = false ∧
       shortTier s 0 [(1, (stagePages s 3 0 (stageKey 2 5) 1).length), (6, 1)] = none ∧
       (ctxOf (after (.reserve 0 (pkt 2 3 [0, 5, 0, 1, 0, 0, 0] [])) s) 0 (stageKey 2 5)).isSome = true ∧
       (let u := { s with ctxs := [stageCtx 0] }
        (ctxOf u 0 (stageKey 2 5)).isSome = true ∧ ctxOf (after (.release 0 (pkt 2 5 [0, 5, 0] [])) u) 0 (stageKey 2 5) = none ∧
          (ctxOf (after (.commit 0 (pkt 2 6 [0, 5, 0, 9, 0, 0, 0] [])) u) 0 (stageKey 2 5)).map (·.pos) = some 9 ∧
          ctxOf (after (.destroy 0 (pkt 2 10 [0, 5, 0] [])) u) 0 (stageKey 2 5) = none)) ∧
    (let s := splitRun 1
     (splitPass s 0 4 false 2).isSome = true ∧ (after (.rollback 0 (pkt 2 7 [0, 0, 0, 4, 0] [])) s).passes = []) ∧
    (let s := splitRun 0
     (splitPass s 0 4 true 2).isSome = true ∧
       ((after (.stageDone 0 { pkt 2 8 [0, 5, 0, 6, 0, 0, 0] [4, 0] with payload := [4, 0] ++ List.replicate 14 0 }) s).passes.map
         fun q => (q.stagesDone, q.stageWait)) = [([2], 6)] ∧
       statuses (after (.fault 0 (pkt 2 9 [0, 5, 0, 0x40, 7, 4, 0] [])) s) = [0x40]) ∧
    (let c := { ready 0x20 5 [] with phase := .waiting }
     let s := { split 0 with cmds := [c] }
     let r := fun (l : List Nat) => ({ cmd := 7, h := 3, asked := l, replies := [] } : Reserving)
     let u := fun (l : List Nat) => { s with ens := { s.ens with reserving := [r l] } }
     cmdOf s 7 = some c ∧
       (after (.reserveReply 0 (pkt 2 4 [0, 5, 0, 0, 0, 0, 0] [])) (u [2, 3])).ens.reserving = [{ r [2, 3] with replies := [(2, 0, 0)] }] ∧
       statuses (after (.reserveReply 0 (pkt 2 4 [0, 5, 0, 1, 2, 0, 0] [])) (u [2])) = [0x20]) ∧
    (let s := port0 fun q => { q with st := .active, unacked := [sent0], nhops := 0 }
     let a := { pkt 5 0 [] [] with arg := [0, 0, 1, 2, 0, 0, 0, 0] }
     ackOk a = true ∧ (portOf (after (.ack 0 a) s) 0).unacked = [] ∧ (portOf (after (.ack 0 a) s) 0).granted = #v[1, 2]) ∧
    (let id := fun (l : List Byte) => { pkt 6 0 [] [] with arg := l }
     identOk (id [2, 0, 0, 1, 0, 0, 0, 0]) = true ∧
       (portOf (after (.ident 0 (id [1, 0, 0, 1, 0, 0, 0, 0])) (port1 .ident)) 0).cause = 3 ∧
       (portOf (after (.ident 0 (id [2, 0, 1, 1, 0, 0, 0, 0])) (port1 .ident)) 0).cause = 4 ∧
       (portOf (after (.ident 0 (id [2, 0, 0, 1, 0, 0, 0, 0])) (port1 .ident)) 0).idents = 1) ∧
    (let s0 := port0 fun q => { q with st := .active, neighbour := 2, nhops := 0 }
     let s := { s0 with score := some { cfg with ens := some { device := 1, leader := false, hops := 1, ports := 0xF, route := [2, 0xFE, 0] } } }
     let d := { pkt 3 0 [] [] with arg := toLe 8 100, payload := List.replicate 16 0 }
     downbeatOk d = true ∧ upstream s = some 0 ∧ upstream s0 = none ∧ (after (.downbeat 0 d 0) { s with tbs := { s.tbs with lock := .seek } }).tbs.lock = .align ∧
       (after (.downbeat 0 d 0) { s with tbs := { s.tbs with lock := .locked, now := 90 } }).tbs.phase = -10) := by
  decide +kernel

/-- A part whose only enabled wake events are source 4 (all of 0 to 39) and ball 2. -/
def resting : State := { on with pwr := { on.pwr with st := .rest, wake := 0xFFFFFFFFFF, gpioWake := 4 } }

/-- O60. -/
theorem test_power_and_test_port :
    (let s := on
     served s 0x50 = true ∧ s.pwr.avsPhase = .idle ∧ s.pwr.thermal = false ∧ s.pwr.active ≠ 2 ∧ s.pwr.active ≠ 0 ∧
       (after (.glbOppointWrite 2) s).pwr.avsPhase = .writing 2 ∧ (after (.glbOppointWrite 0) s).pwr.avsPhase = .writing 0 ∧
       (let w := after (.glbOppointWrite 2) s; let u := after (.avsTransactionEnd true) w
        u.pwr.mv = pointMv 2 ∧ (after (.avsTransactionEnd false) w).pwr.avsErr = true ∧
          (after .avsSettleExpiry { u with clk := 1000 * s.pwr.settle }).pwr.active = 2) ∧
       (after (.thermalSample (List.replicate 8 127)) s).pwr.trip = true ∧ s.pwr.trip = false ∧ s.pwr.temp < gradeMax s ∧
       gradeMax s ≤ 127 ∧ (after (.thermalSample (List.replicate 8 127)) s).evc.latch.getLsbD 3 = true ∧ wantPoint (after (.glbOppointWrite 2) s) = 2 ∧ served s 0x58 = true) ∧
    (let s := { on with pwr := { on.pwr with dozeUs := 5 }, clk := 5000 }
     s.pwr.st = .on ∧ deviceBusy s = false ∧ s.isl.refLost = false ∧ (after .dozeEntry s).pwr.st = .doze ∧
       (after .dozeEntry { s with clk := 4999 }).pwr.st = .on) ∧
    (let s := { on with link := { on.link with l1ss1 := 4 } }
     served s 0x40 = true ∧ restOk s = true ∧ (after (.restRequest 1) s).pwr.st = .rest ∧ restOk on = false ∧
       (after (.restRequest 1) on).pwr.st = .on ∧ (after (.restWakeRequest 2) resting).pwr.waking = some 0xFE) ∧
    (let s := resting
     s.pwr.waking = none ∧ s.pwr.gpioWake.getLsbD 2 = true ∧ (after (.restWake (.gpio 2)) s).pwr.waking = some 0xFD ∧
       (after (.restWake .hostWrite) s).pwr.waking = some 0xFE ∧
       (let u := { s with evc := { s.evc with latch := 16 } }
        sourceActive u 4 = true ∧ (after (.restWake (.source 4)) u).pwr.waking = some 4) ∧
       (let u := { s with pwr := { s.pwr with waking := some 6 }, dmc := Vector.replicate 2 { Dmc.reset with sr := false } }
        ([24, 25, 26, 28, 30] : List Island).all (islRuns u) = true ∧ u.dmc.all (fun d => !d.sr && !d.exiting) = true ∧
          (after .restExitComplete u).pwr.st = .on)) ∧
    (let s := { on with pwr := { on.pwr with gpioOe := 2 } }
     (after (.gpioChange 0 true) s).pwr.gpioIn = 1 ∧ (after (.gpioChange 1 true) s).pwr.gpioIn = 0) ∧
    (debugOn on = true ∧ debugOn State.reset = false ∧ blockOf 0x58 = some .glb ∧ answers on .glb = true ∧
      (readReg 0x58 on).isSome = true ∧ (writeReg 0x50 2 on).isSome = true ∧ (after .extest { on with porst := true }).jtag.driving = true) := by
  decide +kernel

end Sys2Proof.Tests
end

namespace Sys2Proof.Proofs

/-! O50. A Vibrato run whose target is a missed probe strikes the probe of a pair's formation (R452, R473), and the struck pair
is not used (R448, R453): a mirrored pass starts without two of the voices that stood free for it. -/

open Sys2Proof.Machine

/-- A running PREFILL of P0 on handle 0, with its one token read. -/
def prefillOfOne : Cmd :=
  { newCmd State.reset 0 (0x20 :: (List.replicate 63 0).set 23 1) with
    phase := .running
    work := { Work.none with input := [3], inputRead := true } }

/-- In FULL with every island in RUN and every voice free, handle 0 is resident, mirrored and has a row, and a Vibrato run
withholds the next probe of pair 0 (target 7, R473). -/
def struckFormation : State :=
  { State.reset with
    bsc := { Bsc.reset with stage := .full }
    isl := { Isl.reset with each := Vector.ofFn fun i => { IslandSt.reset i with st := .run } }
    models := State.reset.models.set 0 { Model.empty with st := .resident }
    cmds := [prefillOfOne]
    mir := { Mir.reset with model := 1 }
    vib := { Vib.reset with unlocked := true, runFrom := some 0, target := 7, count := 1 } }

/-- The model can run, by its empty layer plan, and is not split. -/
theorem struckFormation_ready :
    modelReady struckFormation (.handle 0) = true ∧
      modelOf struckFormation (.handle 0) = some { Model.empty with st := .resident } ∧
      planOk { Model.empty with st := .resident } [] = true ∧ stagesOf struckFormation (.handle 0) = none := by
  decide +kernel

theorem struckFormation_nextRows :
    nextRows struckFormation (.handle 0) =
      [{ cmd := 0, part := 0, key := prefillOfOne.key, pos := 0, kind := .prefill 1 }] := by
  decide +kernel

theorem struckFormation_passVoices : passVoices struckFormation (.handle 0) = allVoices := by
  decide +kernel

theorem struckFormation_islands :
    ((passIslands struckFormation (.handle 0) (passVoices struckFormation (.handle 0))).all fun i =>
      islRuns struckFormation (Fin.ofNat 32 i)) = true := by
  decide +kernel

/-- The pass starts without V0 and V1, the voices of the pair whose formation probe was struck. -/
theorem struckFormation_started_voices :
    (standingChange (passStart (.handle 0) .voices [] []) struckFormation).passes.map (·.voices) = [allVoices.drop 2] := by
  decide +kernel

/-- Refutes O50: the clause of PASS_START gives the pass every free voice whenever no formation probe is reported (`[]`), but it
does not exclude a Vibrato run of target 7. In `struckFormation` such a run strikes the formation probe of pair 0, and the
mirrored pass starts on V2 to V15 only, where `passVoices` holds all 16. -/
theorem not_passesAndAutoHush : ¬ Obligations.PassesAndAutoHush := by
  unfold Obligations.PassesAndAutoHush
  intro h
  obtain ⟨_, hstart, _⟩ := h struckFormation rfl
  obtain ⟨hready, hmodel, hplan, hstages⟩ := struckFormation_ready
  have hrows : nextRows struckFormation (.handle 0) ≠ [] := by simp [struckFormation_nextRows]
  have hfree : passVoices struckFormation (.handle 0) ≠ [] := by rw [struckFormation_passVoices]; decide
  obtain ⟨t, p, hexec, hpasses, -, -, hvoices, -⟩ :=
    ((hstart (.handle 0) .voices [] _ hready hmodel).2 hplan hstages rfl).2 hrows hfree struckFormation_islands
  have ht : standingChange (passStart (.handle 0) .voices [] []) struckFormation = t :=
    Host.Outcome.next.inj ((live_of (s := struckFormation) rfl).symm.trans hexec)
  have hstruck := struckFormation_started_voices
  rw [ht, hpasses, List.map_append, List.map_singleton, hvoices, struckFormation_passVoices] at hstruck
  exact absurd hstruck (by decide)

end Sys2Proof.Proofs

namespace Sys2Proof.Proofs

/-! ### The ledgers of the breath governor (02): the rule of each of its operations -/

open Sys2Proof.Machine

section
variable {s t u : State} {l l' : Ledger} {f : LedgerSt → LedgerSt} {r : Waiting} {c : Consumer} {g : Tag}

@[simp] theorem ledger_setLedger : ledger (setLedger l f s) l = f (ledger s l) := by cases l <;> rfl

theorem ledger_setLedger_ne (h : l' ≠ l) : ledger (setLedger l f s) l' = ledger s l' := by
  cases l <;> cases l' <;> simp [ledger, setLedger] at h ⊢

/-- `t` came from `s` by work of the governor on ledger `l`: beyond this ledger only the number of the next grant and the
breath-wait times of the commands may differ. -/
structure WithinLedger (l : Ledger) (s t : State) : Prop where
  frame : t = { s with brg := { s.brg with core := t.brg.core, io := t.brg.io, nextId := t.brg.nextId }, cmds := t.cmds }
  other : ∀ l', l' ≠ l → ledger t l' = ledger s l'

theorem WithinLedger.refl : WithinLedger l s s := ⟨rfl, fun _ _ => rfl⟩

theorem WithinLedger.trans (h : WithinLedger l s t) (k : WithinLedger l t u) : WithinLedger l s u :=
  ⟨by rw [k.frame, h.frame], fun l' hl => (k.other l' hl).trans (h.other l' hl)⟩

/-- Such work that left the grants of the ledger as they were. -/
structure SameGrants (l : Ledger) (s t : State) : Prop extends WithinLedger l s t where
  grants : (ledger t l).grants = (ledger s l).grants
  nextId : t.brg.nextId = s.brg.nextId

theorem SameGrants.refl : SameGrants l s s := ⟨.refl, rfl, rfl⟩

theorem SameGrants.trans (h : SameGrants l s t) (k : SameGrants l t u) : SameGrants l s u :=
  ⟨h.toWithinLedger.trans k.toWithinLedger, k.grants.trans h.grants, k.nextId.trans h.nextId⟩

theorem SameGrants.grants_eq (h : SameGrants l s t) : (ledger t l').grants = (ledger s l').grants := by
  by_cases hl : l' = l
  · rw [hl, h.grants]
  · rw [h.other l' hl]

/-- The standing charges lie outside the ledgers, so the total follows the grants. -/
theorem WithinLedger.total_eq (h : WithinLedger l s t) (hg : (ledger t l').grants = (ledger s l').grants) :
    total t l' = total s l' := by
  unfold total granted
  rw [hg, h.frame]
  cases l' <;> rfl

theorem SameGrants.total_eq (h : SameGrants l s t) : total t l' = total s l' := h.toWithinLedger.total_eq h.grants_eq

theorem WithinLedger.effCeil_eq (h : WithinLedger l s t) : effCeil t l' = effCeil s l' := by
  rw [h.frame]; cases l' <;> rfl

theorem withinLedger_setLedger : WithinLedger l s (setLedger l f s) :=
  ⟨by cases l <;> rfl, fun _ hl => ledger_setLedger_ne hl⟩

theorem setLedger_nextId : (setLedger l f s).brg.nextId = s.brg.nextId := by cases l <;> rfl

theorem sameGrants_setLedger (h : (f (ledger s l)).grants = (ledger s l).grants) : SameGrants l s (setLedger l f s) :=
  ⟨withinLedger_setLedger, by rw [ledger_setLedger, h], setLedger_nextId⟩

theorem sameGrants_noteLedger : SameGrants l s (noteLedger l s) := by unfold noteLedger; exact sameGrants_setLedger rfl

@[simp] theorem noteLedger_reqs : (ledger (noteLedger l s) l').reqs = (ledger s l').reqs := by
  by_cases h : l' = l
  · subst h; simp [noteLedger]
  · rw [sameGrants_noteLedger.other l' h]

theorem sameGrants_request : SameGrants (ledgerOf c) s (request c g s) := by
  unfold request
  split
  · exact .refl
  · exact sameGrants_setLedger rfl

/-- A request changes what waits in its ledger, and nothing else. -/
theorem ledger_request : ledger (request c g s) l = { ledger s l with reqs := (ledger (request c g s) l).reqs } := by
  by_cases h : l = ledgerOf c
  · subst h; unfold request; split <;> simp
  · rw [sameGrants_request.other l h]

/-- Requests of the ledger's own units leave the other ledger and every grant alone. -/
theorem sameGrants_requests {rs : List BreathReq} (h : ∀ r ∈ rs, ledgerOf r.unit = l) :
    SameGrants l s (rs.foldl (fun s r => request r.unit r.tag s) s) := by
  induction rs generalizing s with
  | nil => exact .refl
  | cons r rs ih =>
    obtain ⟨hr, hrs⟩ := List.forall_mem_cons.mp h
    exact .trans (hr ▸ sameGrants_request) (ih hrs)

theorem withinLedger_withGrant : WithinLedger l s (withGrant l r s) := withinLedger_setLedger

@[simp] theorem withGrant_grants : (ledger (withGrant l r s) l).grants = grantsWith s r (ledger s l).grants := by
  simp [withGrant]

@[simp] theorem noteWait_brg : (noteWait r s).brg = s.brg := by unfold noteWait; split <;> rfl

/-- Giving a grant does, beyond the grant itself, only the governor's own book-keeping. -/
theorem withinLedger_withGrant_giveGrant : WithinLedger l (withGrant l r s) (giveGrant l r s) :=
  ⟨by cases l <;> (unfold giveGrant noteWait; split) <;> rfl,
    fun l' hl => by cases l <;> cases l' <;> simp [giveGrant, ledger, setLedger] at hl ⊢⟩

theorem withinLedger_giveGrant : WithinLedger l s (giveGrant l r s) :=
  withinLedger_withGrant.trans withinLedger_withGrant_giveGrant

/-- The ledger after a grant: the unit holds it, and the request no longer waits. -/
theorem ledger_giveGrant : ledger (giveGrant l r s) l =
    { ledger s l with grants := grantsWith s r (ledger s l).grants, reqs := (ledger s l).reqs.erase r } := by
  cases l <;> simp [giveGrant, ledger, setLedger, withGrant]

/-- What R40 weighs before it gives a grant is the total after it. -/
theorem total_giveGrant : total (giveGrant l r s) l = total (withGrant l r s) l :=
  withinLedger_withGrant_giveGrant.total_eq (by rw [ledger_giveGrant, withGrant_grants])

/-! ### The arbitration (R30, R40) -/

/-- An arbitration works on its ledger alone, and gives no grant that takes the total beyond its limit. -/
theorem arbitrate_bounded {limit n : ℕ} {rem : List Waiting} :
    WithinLedger l s (arbitrate l limit n rem s) ∧ total (arbitrate l limit n rem s) l ≤ max (total s l) limit := by
  induction n generalizing rem s with
  | zero => exact ⟨.refl, le_max_left _ _⟩
  | succ n ih =>
    unfold arbitrate
    split
    · exact ⟨.refl, le_max_left _ _⟩
    · next r _ =>
      extract_lets rest t
      split
      · exact ih
      split
      · next hfits =>
        obtain ⟨hwithin, htotal⟩ := ih (s := giveGrant l r s) (rem := rest)
        rw [total_giveGrant, max_eq_right hfits] at htotal
        exact ⟨withinLedger_giveGrant.trans hwithin, le_max_of_le_right htotal⟩
      split
      · exact ⟨.refl, le_max_left _ _⟩
      · exact ih

/-- The ledger of a BREATH_GRANT when its requests have joined those that wait. -/
def joined (l : Ledger) (reqs : List BreathReq) (s : State) : State :=
  (reqs.filter fun r => ledgerOf r.unit == l && tagOk (noteLedger l s) r).foldl (fun s r => request r.unit r.tag s)
    (noteLedger l s)

theorem sameGrants_joined {reqs : List BreathReq} : SameGrants l s (joined l reqs s) :=
  sameGrants_noteLedger.trans <| sameGrants_requests fun r hr => by
    simp only [List.mem_filter, Bool.and_eq_true, beq_iff_eq] at hr
    exact hr.2.1

/-- BREATH_GRANT grants nothing in MUTE, in REST and without a reference clock; else it arbitrates what is not held back. -/
theorem breathGrant_eq {reqs : List BreathReq} : breathGrant l reqs s =
    (let t := joined l reqs s
     let rs := (ledger t l).reqs.filter fun r => !heldBack t l r
     if muted t || (t.pwr.st == .rest && t.pwr.waking.isNone) || t.isl.refLost then t
     else noteLedger l (arbitrate l (ledgerLimit t l) rs.length rs t)) := rfl

/-- BREATH_GRANT works on its ledger alone, and its total ends at most at the greater of the total before and the effective
ceiling (R30, R32, R40). -/
theorem breathGrant_bounded {reqs : List BreathReq} :
    WithinLedger l s (breathGrant l reqs s) ∧ total (breathGrant l reqs s) l ≤ max (total s l) (effCeil s l) := by
  have hjoined : SameGrants l s (joined l reqs s) := sameGrants_joined
  rw [breathGrant_eq]
  extract_lets t rs
  split
  · exact ⟨hjoined.toWithinLedger, hjoined.total_eq ▸ le_max_left _ _⟩
  · obtain ⟨hwithin, hle⟩ := arbitrate_bounded (s := t) (l := l) (limit := ledgerLimit t l) (n := rs.length) (rem := rs)
    refine ⟨(hjoined.toWithinLedger.trans hwithin).trans sameGrants_noteLedger.toWithinLedger, ?_⟩
    calc total (noteLedger l (arbitrate l (ledgerLimit t l) rs.length rs t)) l
        = total (arbitrate l (ledgerLimit t l) rs.length rs t) l := sameGrants_noteLedger.total_eq
      _ ≤ max (total t l) (ledgerLimit t l) := hle
      _ ≤ max (total s l) (effCeil s l) := by
        rw [hjoined.total_eq, ← hjoined.effCeil_eq]
        exact max_le_max le_rfl (Nat.min_le_left _ _)

end

/-- Settles O32: a grant is given only under the limit of the arbitration, which the effective ceiling bounds, and the
requests and the grants of a ledger leave the other alone. -/
theorem grantsStayUnderTheCeiling : Obligations.GrantsStayUnderTheCeiling := by
  intro l reqs s hporst
  obtain ⟨hwithin, htotal⟩ := breathGrant_bounded (s := s) (l := l) (reqs := reqs)
  exact ⟨live_of hporst, htotal, fun l' hl => by rw [hwithin.other l' hl]⟩

end Sys2Proof.Proofs

namespace Sys2Proof.Proofs

/-! ### What an arbitration weighs does not depend on who waits (R40 to R42) -/

open Sys2Proof.Machine

section
variable {s t : State} {l l' : Ledger} {r : Waiting} {c : Consumer} {g : Tag} {v : Voice}

theorem WithinLedger.clk_eq (h : WithinLedger l s t) : t.clk = s.clk := by rw [h.frame]

theorem WithinLedger.isl_eq (h : WithinLedger l s t) : t.isl = s.isl := by rw [h.frame]

theorem WithinLedger.pwr_eq (h : WithinLedger l s t) : t.pwr = s.pwr := by rw [h.frame]

theorem WithinLedger.vib_eq (h : WithinLedger l s t) : t.vib = s.vib := by rw [h.frame]

theorem WithinLedger.muted_eq (h : WithinLedger l s t) : muted t = muted s := by rw [h.frame]; rfl

theorem WithinLedger.voiceTag_eq (h : WithinLedger l s t) : voiceTag t v = voiceTag s v := by rw [h.frame]; rfl

theorem WithinLedger.tagOk_eq {q : BreathReq} (h : WithinLedger l s t) : tagOk t q = tagOk s q := by rw [h.frame]; rfl

/-- A partition's charge follows the grants of the core ledger. -/
theorem WithinLedger.charge_eq {p : Part} (h : WithinLedger l s t)
    (hg : (ledger t .core).grants = (ledger s .core).grants) : charge t p = charge s p := by
  unfold charge
  rw [show t.brg.core.grants = s.brg.core.grants from hg, h.frame]
  rfl

/-- The same grant, given to states with the same grants. -/
theorem SameGrants.after_withGrant (h : SameGrants l s t) : SameGrants l (withGrant l r s) (withGrant l r t) where
  frame := by
    rw [h.frame]; cases l <;> rfl
  other l' hl := by rw [withinLedger_withGrant.other l' hl, withinLedger_withGrant.other l' hl, h.other l' hl]
  grants := by simp only [withGrant_grants, grantsWith, h.grants, h.nextId, h.clk_eq]
  nextId := by unfold withGrant; rw [setLedger_nextId, setLedger_nextId, h.nextId]

/-- Whether a grant would lift a partition above its maximum is settled by the grants held. -/
theorem SameGrants.overMax_withGrant (h : SameGrants l s t) :
    overMax t (withGrant l r t) = overMax s (withGrant l r s) := by
  have hmax : t.brg.partMax = s.brg.partMax := by rw [h.frame]
  unfold overMax
  simp only [hmax, h.charge_eq h.grants_eq, h.after_withGrant.charge_eq h.after_withGrant.grants_eq]

/-- The limit of R30 and R32 does not depend on what waits. -/
theorem ledgerLimit_request : ledgerLimit (request c g s) (ledgerOf c) = ledgerLimit s (ledgerOf c) := by
  have hsame : SameGrants (ledgerOf c) s (request c g s) := sameGrants_request
  have hslope : slopeOf (request c g s) (ledgerOf c) = slopeOf s (ledgerOf c) := by
    unfold slopeOf
    rw [ledger_request, hsame.frame]
  unfold ledgerLimit
  rw [hsame.effCeil_eq, hsame.total_eq, hsame.clk_eq, hslope, ledger_request]

/-! ### A lone request (R38, R40) -/

theorem streamerFull_noteLedger : streamerFull (noteLedger l s) c = streamerFull s c := by
  simp [streamerFull, sameGrants_noteLedger.grants_eq]

/-- A new request is the only one that waits in a ledger where none waited. -/
theorem ledger_request_of_none (hnone : (ledger s (ledgerOf c)).reqs = []) (hroom : streamerFull s c = false) :
    (ledger (request c g s) (ledgerOf c)).reqs = [requestOf c g s] := by
  simp [request, hnone, hroom]

/-- A grant fits: it lifts no partition above its maximum, and the total not above the limit of R30 and R32. -/
def Fits (l : Ledger) (r : Waiting) (s : State) : Prop :=
  (l = .core → overMax s (withGrant l r s) = false) ∧ total (withGrant l r s) l ≤ ledgerLimit (noteLedger l s) l

/-- An arbitration of one request that fits gives the grant. -/
theorem arbitrate_lone {limit : ℕ} (hover : l = .core → overMax s (withGrant l r s) = false)
    (hfits : total (withGrant l r s) l ≤ limit) : arbitrate l limit 1 [r] s = giveGrant l r s := by
  have hcore : (l == .core && overMax s (withGrant l r s)) = false := by cases l <;> simp_all
  simp [arbitrate, firstBy, hcore, hfits]

section
variable {q : BreathReq} (hl : ledgerOf q.unit = l) (htag : tagOk s q = true) (hnone : (ledger s l).reqs = [])
  (hroom : streamerFull s q.unit = false) (hmute : muted s = false) (hrest : s.pwr.st ≠ .rest)
  (hlost : s.isl.refLost = false) (hvib : s.vib.runFrom = none) (hfits : Fits l (requestOf q.unit q.tag s) s)
include hl htag

theorem joined_lone : joined l [q] s = request q.unit q.tag (noteLedger l s) := by
  simp [joined, hl, sameGrants_noteLedger.tagOk_eq, htag]

include hnone hroom

theorem joined_lone_reqs : (ledger (joined l [q] s) l).reqs = [requestOf q.unit q.tag s] := by
  subst hl
  rw [joined_lone rfl htag, ledger_request_of_none (by simpa using hnone) (by rw [streamerFull_noteLedger, hroom])]
  simp [requestOf, sameGrants_noteLedger.clk_eq]

include hmute hrest hlost hvib hfits

/-- BREATH_GRANT of one request that fits, into a ledger where none waits, gives the grant. -/
theorem breathGrant_lone :
    breathGrant l [q] s = noteLedger l (giveGrant l (requestOf q.unit q.tag s) (joined l [q] s)) := by
  have hsame : SameGrants l s (joined l [q] s) := sameGrants_joined
  have hlimit : ledgerLimit (joined l [q] s) l = ledgerLimit (noteLedger l s) l := by
    rw [joined_lone hl htag, ← hl, ledgerLimit_request]
  have hheld : heldBack (joined l [q] s) l (requestOf q.unit q.tag s) = false := by
    simp [heldBack, hsame.vib_eq, hvib]
  obtain ⟨hover, hunder⟩ := hfits
  rw [breathGrant_eq]
  simp only [hsame.muted_eq, hmute, hsame.pwr_eq, hsame.isl_eq, hlost, joined_lone_reqs hl htag hnone hroom,
    List.filter_cons, hheld]
  simp only [beq_eq_false_iff_ne.mpr hrest, Bool.false_and, Bool.or_self, Bool.false_eq_true, if_false, Bool.not_false,
    if_true, List.filter_nil, List.length_singleton]
  rw [arbitrate_lone]
  · exact fun hc => by rw [hsame.overMax_withGrant, hover hc]
  · rw [hsame.after_withGrant.total_eq, hlimit]; exact hunder

/-- The ledger afterwards: the unit holds its grant, and no request waits. -/
theorem breathGrant_lone_ledger :
    (ledger (breathGrant l [q] s) l).reqs = [] ∧
      (ledger (breathGrant l [q] s) l).grants = grantsWith s (requestOf q.unit q.tag s) (ledger s l).grants := by
  have hsame : SameGrants l s (joined l [q] s) := sameGrants_joined
  rw [breathGrant_lone hl htag hnone hroom hmute hrest hlost hvib hfits, noteLedger_reqs,
    sameGrants_noteLedger.grants_eq, ledger_giveGrant]
  exact ⟨by simp [joined_lone_reqs hl htag hnone hroom],
    by simp only [grantsWith, hsame.grants, hsame.nextId, hsame.clk_eq]⟩

end

/-! ### The end of a lease (R37, R38) -/

/-- The grants of a ledger that LEASE_EXPIRY of this number ends. -/
def leaseDue (id : ℕ) (s : State) (g : Grant) : Bool := g.id == id && decide (g.since + 1000 ≤ s.clk)

theorem leaseExpiry_of_lease {id : ℕ} (h : (s.brg.core.grants.find? fun g => leaseDue id s g && isIdleBreath g) = none) :
    (leaseExpiry id s).isl = s.isl ∧
      ∀ l, (ledger (leaseExpiry id s) l).grants = (ledger s l).grants.filter fun g => !leaseDue id s g := by
  unfold leaseDue at h ⊢
  unfold leaseExpiry noteLedgers
  simp only [h, sameGrants_noteLedger.isl_eq, sameGrants_noteLedger.grants_eq]
  exact ⟨rfl, fun l => by cases l <;> rfl⟩

theorem leaseExpiry_of_idle {id : ℕ} {e : Grant}
    (h : (s.brg.core.grants.find? fun g => leaseDue id s g && isIdleBreath g) = some e) (hu : e.unit = .voice v .idle) :
    leaseExpiry id s = noteLedger .core (renewIdle v (noteLedger .core s)) := by
  unfold leaseDue at h
  unfold leaseExpiry
  simp only [h, hu]

/-! ### The renewal of an idle breath (R37, R47) -/

/-- The idle breath that a clocked voice island renews: it carries the tag of what holds the voice (R510). -/
def idleRequest (v : Voice) (s : State) : Waiting := requestOf (.voice v .idle) (voiceTag s v) s

theorem idleRequest_noteLedger : idleRequest v (noteLedger l s) = idleRequest v s := by
  unfold idleRequest requestOf
  rw [sameGrants_noteLedger.voiceTag_eq, sameGrants_noteLedger.clk_eq]

/-- The renewal is refused where it does not fit. -/
theorem renewal_refused_iff : (overMax (noteLedger .core s) (withGrant .core r (noteLedger .core s)) ||
    decide (ledgerLimit (noteLedger .core s) .core < total (withGrant .core r (noteLedger .core s)) .core)) = true ↔
      ¬ Fits .core r s := by
  have hsame : SameGrants .core s (noteLedger .core s) := sameGrants_noteLedger
  rw [hsame.overMax_withGrant, hsame.after_withGrant.total_eq, Bool.or_eq_true, decide_eq_true_iff]
  simp only [Fits, true_imp_iff, not_and_or, Bool.not_eq_false, not_le]

theorem renewIdle_of_fits (h : Fits .core (idleRequest v s) s) :
    (renewIdle v (noteLedger .core s)).isl = s.isl ∧ (ledger (renewIdle v (noteLedger .core s)) .core).grants =
      grantsWith s (idleRequest v s) (ledger s .core).grants := by
  have hr : requestOf (.voice v .idle) (voiceTag (noteLedger .core s) v) (noteLedger .core s) = idleRequest v s :=
    idleRequest_noteLedger
  have hgiven : SameGrants .core (withGrant .core (idleRequest v s) s)
      (withGrant .core (idleRequest v s) (noteLedger .core s)) := sameGrants_noteLedger.after_withGrant
  unfold renewIdle
  simp only [hr, if_neg (mt renewal_refused_iff.mp (not_not_intro h))]
  exact ⟨hgiven.isl_eq, hgiven.grants.trans withGrant_grants⟩

theorem renewIdle_of_not_fits (h : ¬ Fits .core (idleRequest v s) s) :
    renewIdle v (noteLedger .core s) = stopForBreath v (noteLedger .core s) := by
  have hr : requestOf (.voice v .idle) (voiceTag (noteLedger .core s) v) (noteLedger .core s) = idleRequest v s :=
    idleRequest_noteLedger
  unfold renewIdle
  simp only [hr, if_pos (renewal_refused_iff.mpr h)]

/-! ### The clock of a voice island stops (R37) -/

/-- One voice of `stopForBreath`: what it held ends, its island leaves RUN, and its idle breath is requested. -/
def stopVoice (s : State) (n : Nat) : State :=
  let s := dropUnits (fun u => unitIsland u == n + 1) s
  let s := setIsl (Fin.ofNat 32 (n + 1)) (fun x => { x with
    st := if x.st = .run then .gated else x.st
    ramped := false
    bad := false
    fresh := false }) s
  request (.voice (Fin.ofNat 16 n) .idle) (voiceTag s (Fin.ofNat 16 n)) s

theorem stopForBreath_eq : stopForBreath v s =
    (if s.isl.pair.getLsbD (v.val / 2) then [v.val / 2 * 2, v.val / 2 * 2 + 1] else [v.val]).foldl stopVoice s := rfl

theorem holdsGrant_voice {k : VLevel} :
    holdsGrant s (.voice v k) = (ledger s .core).grants.any (·.unit == .voice v k) := rfl

/-- The voice is without its idle breath, its island does not run, and the idle breath is requested. -/
structure IdleStopped (v : Voice) (s : State) : Prop where
  grant : holdsGrant s (.voice v .idle) = false
  island : (islOf s (voiceIsland v)).st ≠ .run
  waits : (ledger s .core).reqs.any (·.unit == .voice v .idle) = true

@[simp] theorem ledger_dropUnits {p : Consumer → Bool} : ledger (dropUnits p s) l = { ledger s l with
    grants := (ledger s l).grants.filter fun g => !p g.unit, reqs := (ledger s l).reqs.filter fun r => !p r.unit } := by
  cases l <;> rfl

theorem request_waits (hroom : streamerFull s c = false) :
    (ledger (request c g s) (ledgerOf c)).reqs.any (·.unit == c) = true := by
  unfold request
  split
  · next h =>
    simp only [hroom, Bool.or_false, List.any_eq_true, Bool.and_eq_true] at h ⊢
    obtain ⟨r, hr, hc, -⟩ := h
    exact ⟨r, hr, hc⟩
  · simp [requestOf]

theorem mem_request_reqs {r : Waiting} (h : r ∈ (ledger s l).reqs) : r ∈ (ledger (request c g s) l).reqs := by
  unfold request
  split
  · exact h
  by_cases hl : l = ledgerOf c
  · subst hl; simp [h]
  · rwa [ledger_setLedger_ne hl]

theorem ledger_setIsl {i : Island} {f : IslandSt → IslandSt} : ledger (setIsl i f s) l = ledger s l := by cases l <;> rfl

theorem islOf_setIsl_ne {i j : Island} {f : IslandSt → IslandSt} (h : i ≠ j) : islOf (setIsl i f s) j = islOf s j := by
  have h' : i.val ≠ j.val := fun e => h (Fin.ext e)
  simp [islOf, setIsl, h']

theorem stopVoice_grants {n : ℕ} :
    (ledger (stopVoice s n) l).grants = (ledger s l).grants.filter fun e => unitIsland e.unit != n + 1 := by
  unfold stopVoice
  rw [sameGrants_request.grants_eq, ledger_setIsl, ledger_dropUnits]
  rfl

theorem stopVoice_islOf {n : ℕ} {i : Island} : islOf (stopVoice s n) i =
    if Fin.ofNat 32 (n + 1) = i then
      { islOf s i with
        st := if (islOf s i).st = .run then .gated else (islOf s i).st
        ramped := false
        bad := false
        fresh := false }
    else islOf s i := by
  unfold stopVoice
  rw [islOf, sameGrants_request.isl_eq, ← islOf]
  split
  · next h => subst h; rw [islOf_setIsl]; rfl
  · next h => rw [islOf_setIsl_ne h]; rfl

theorem idleStopped_stopVoice_self : IdleStopped v (stopVoice s v.val) where
  grant := by
    rw [holdsGrant_voice, stopVoice_grants]
    simp only [List.any_eq_false, List.mem_filter, bne_iff_ne, beq_iff_eq]
    intro e ⟨_, hne⟩ he
    exact hne (by rw [he]; rfl)
  island := by
    have hi : (Fin.ofNat 32 (v.val + 1) : Island) = voiceIsland v := rfl
    rw [stopVoice_islOf, if_pos hi]
    dsimp only
    split
    · exact IslSt.noConfusion
    · assumption
  waits := by
    have hv : (Fin.ofNat 16 v.val : Voice) = v := Fin.ofNat_val_eq_self v
    unfold stopVoice
    rw [hv]
    exact request_waits (c := .voice v .idle) rfl

theorem idleStopped_stopVoice {n : ℕ} (hn : n < 16) (h : IdleStopped v s) : IdleStopped v (stopVoice s n) := by
  by_cases hv : v.val = n
  · exact hv ▸ idleStopped_stopVoice_self
  obtain ⟨hgrant, hisland, hwaits⟩ := h
  have hi : (Fin.ofNat 32 (n + 1) : Island) ≠ voiceIsland v := by
    have := v.isLt
    simp only [voiceIsland, ne_eq, Fin.ext_iff, Fin.val_ofNat]
    omega
  refine ⟨?_, by rwa [stopVoice_islOf, if_neg hi], ?_⟩
  · rw [holdsGrant_voice] at hgrant ⊢
    rw [stopVoice_grants]
    exact List.any_eq_false.mpr fun e he => List.any_eq_false.mp hgrant e (List.mem_of_mem_filter he)
  · obtain ⟨r, hr, hu⟩ := List.any_eq_true.mp hwaits
    refine List.any_eq_true.mpr ⟨r, mem_request_reqs ?_, hu⟩
    rw [ledger_setIsl, ledger_dropUnits]
    have : unitIsland r.unit = v.val + 1 := by rw [beq_iff_eq.mp hu]; rfl
    simp [hr, this, hv]

theorem idleStopped_foldl {ns : List ℕ} (hns : ∀ n ∈ ns, n < 16) (h : IdleStopped v s ∨ v.val ∈ ns) :
    IdleStopped v (ns.foldl stopVoice s) := by
  induction ns generalizing s with
  | nil => simpa using h
  | cons n ns ih =>
    obtain ⟨hn, hns⟩ := List.forall_mem_cons.mp hns
    refine ih hns ?_
    rcases h with h | h
    · exact .inl (idleStopped_stopVoice hn h)
    · rcases List.mem_cons.mp h with rfl | h
      · exact .inl idleStopped_stopVoice_self
      · exact .inr h

theorem idleStopped_stopForBreath : IdleStopped v (stopForBreath v s) := by
  have hv := v.isLt
  rw [stopForBreath_eq]
  split
  · exact idleStopped_foldl (by simp; omega) (.inr (by simp; omega))
  · exact idleStopped_foldl (by simp) (.inr (by simp))

theorem idleStopped_noteLedger (h : IdleStopped v s) : IdleStopped v (noteLedger .core s) where
  grant := by
    rw [holdsGrant_voice, sameGrants_noteLedger.grants_eq]; exact h.grant
  island := by rw [islOf, sameGrants_noteLedger.isl_eq]; exact h.island
  waits := by rw [noteLedger_reqs]; exact h.waits

end

/-- Settles O33: a lone request that fits is the arbitration's only candidate, a lease that is no idle breath only leaves its
ledger, and an idle breath goes on exactly where its renewal fits. -/
theorem grantsAndLeases : Obligations.GrantsAndLeases := by
  intro s hporst
  refine ⟨?_, ?_, ?_⟩
  · intro l q hl htag hnone hroom hmute hrest hlost hvib w hover hunder
    exact ⟨live_of hporst, breathGrant_lone_ledger hl htag hnone hroom hmute hrest hlost hvib ⟨hover, hunder⟩⟩
  · intro id hlease
    exact ⟨_, live_of hporst, leaseExpiry_of_lease hlease⟩
  · intro id e v hfound hunit w fits
    have hexpiry := leaseExpiry_of_idle (s := s) hfound hunit
    have hiff : Fits .core (idleRequest v s) s ↔ fits := by simp only [Fits, true_imp_iff]; rfl
    refine ⟨_, live_of hporst, fun hfits => ?_, fun hnot => ?_⟩
    · obtain ⟨hisl, hgrants⟩ := renewIdle_of_fits (hiff.mpr hfits)
      rw [hexpiry, sameGrants_noteLedger.isl_eq]
      exact ⟨hisl, sameGrants_noteLedger.grants.trans hgrants⟩
    · rw [hexpiry, renewIdle_of_not_fits (mt hiff.mp hnot)]
      obtain ⟨hgrant, hisland, hwaits⟩ :=
        idleStopped_noteLedger (idleStopped_stopForBreath (v := v) (s := noteLedger .core s))
      exact ⟨hgrant, hisland, hwaits⟩

end Sys2Proof.Proofs

namespace Sys2Proof.Proofs

/-! ### The pin, over-current and the BRG registers (R30, R43, R46 to R52) -/

open Sys2Proof.Machine

section
variable {s : State} {l l' : Ledger} {r : ErrRec} {meas : ℕ} {v : Word}

/-- An error record touches the error queue and the counters of the events, not the governor. -/
@[simp] theorem logErr_brg : (logErr r s).brg = s.brg := by
  unfold logErr
  split
  · rfl
  split
  · simp only [trimBacklog]
    split <;> rfl
  split <;> rfl

theorem ledger_eq_of_brg {t : State} (h : s.brg = t.brg) : ledger s l = ledger t l := by
  unfold ledger; rw [h]

/-- The marks of R51 stand in BRG_STATUS.STARVED and are worked out only while the pin is low. -/
theorem markStarved_eq : markStarved s = { s with brg := { s.brg with starved := (markStarved s).brg.starved } } := by
  unfold markStarved; split <;> rfl

theorem markStarved_of_released (h : s.brg.lim = false) : markStarved s = s := by simp [markStarved, h]

/-- The run of samples above the margin, this one included, while nothing holds the ledger (R49). -/
def ocRunWith (l : Ledger) (meas : ℕ) (s : State) : ℕ :=
  if effCeil s l + s.brg.margin < meas ∧ (ledger s l).oc = false then (ledger s l).ocRun + 1 else 0

/-- One sample of a ledger: the fourth of a run starts the hold, and the run begins again (R49). -/
def sampled (l : Ledger) (meas : ℕ) (s : State) : LedgerSt :=
  { ledger s l with
    meas := meas
    ocRun := if ocRunWith l meas s = 4 then 0 else ocRunWith l meas s
    oc := (ledger s l).oc || ocRunWith l meas s == 4 }

theorem sampleLedger_brg : (sampleLedger l meas s).brg = (setLedger l (fun _ => sampled l meas s) s).brg := by
  have hrun : (if (decide (effCeil s l + s.brg.margin < meas) && !(ledger s l).oc) = true then (ledger s l).ocRun + 1
      else 0) = ocRunWith l meas s := by simp [ocRunWith]
  unfold sampleLedger sampled
  simp only [hrun]
  by_cases h : ocRunWith l meas s = 4 <;> cases l <;> simp [h, setLedger, ledger]

theorem ledger_sampleLedger : ledger (sampleLedger l meas s) l = sampled l meas s := by
  rw [ledger_eq_of_brg sampleLedger_brg, ledger_setLedger]

theorem ledger_sampleLedger_ne (h : l' ≠ l) : ledger (sampleLedger l meas s) l' = ledger s l' := by
  rw [ledger_eq_of_brg sampleLedger_brg, ledger_setLedger_ne h]

/-- The fourth sample of a run is detected. -/
theorem sampled_of_fourth (hoc : (ledger s l).oc = false) (h : effCeil s l + s.brg.margin < meas)
    (hrun : (ledger s l).ocRun = 3) : (sampled l meas s).oc = true := by
  simp [sampled, ocRunWith, hoc, h, hrun]

/-- A sample that is not above the margin ends the run. -/
theorem sampled_of_low (h : meas ≤ effCeil s l + s.brg.margin) :
    (sampled l meas s).ocRun = 0 ∧ (sampled l meas s).oc = (ledger s l).oc := by
  simp [sampled, ocRunWith, not_lt.mpr h]

/-! What each row does where PORST_N is high, or its register is served. -/

theorem exec_breathLimAssert (hp : s.porst = false) (hlim : s.brg.lim = false) :
    exec .breathLimAssert s = .next (occur 2 (markStarved { s with brg := { s.brg with lim := true } })) := by
  change execBreathLimAssert s = _
  rw [execBreathLimAssert, live_of hp, hlim]; rfl

theorem exec_breathLimRelease (hp : s.porst = false) :
    exec .breathLimRelease s = .next { s with brg := { s.brg with lim := false, starved := 0 } } := by
  change execBreathLimRelease s = _
  rw [execBreathLimRelease, live_of hp]

theorem exec_overCurrentSample {core io : ℕ} (hp : s.porst = false) :
    exec (.overCurrentSample core io) s = .next (sampleLedger .io io (sampleLedger .core core s)) := by
  change execOverCurrentSample core io s = _
  rw [execOverCurrentSample, live_of hp]

theorem exec_brgStatusWrite (h : served s 0x1010 = true) : exec (.brgStatusWrite v) s = .next (writeBrgStatus v s) := by
  change live s _ = _
  rw [live_of (served_porst h), regWrite_of_served h]

theorem exec_brgCeilWrite (h : served s 0x1000 = true) : exec (.brgCeilWrite v) s = .next (writeBrgCeil v s) := by
  change live s _ = _
  rw [live_of (served_porst h), regWrite_of_served h]

theorem exec_brgCeilLowWrite (h : served s 0x1004 = true) :
    exec (.brgCeilLowWrite v) s = .next (writeBrgCeilLow v s) := by
  change live s _ = _
  rw [live_of (served_porst h), regWrite_of_served h]

theorem exec_brgPeakRead (h : served s 0x1024 = true) :
    exec .brgPeakRead s = .next (reply (.bar0 0x1024 (w32 (max s.brg.core.peak (total s .core) % 512 +
      0x10000 * (max s.brg.io.peak (total s .io) % 128)))) (brgReadEff 0x1024 s)) := by
  change live s _ = _
  rw [live_of (served_porst h), regRead_of_served h rfl]

/-- The field of a ceiling in its register, as the statement and as the model reads it. -/
theorem ceilField_eq : bits v.toNat 8 0 = (v.extractLsb' 0 9).toNat := by
  simp [bits, BitVec.extractLsb'_toNat]

end

/-- Settles O34: the pin, the samples and the BRG registers, one row of the table after the other. -/
theorem ceilingsAndOverCurrent : Obligations.CeilingsAndOverCurrent := by
  intro s hporst
  refine ⟨fun hlim => ⟨_, exec_breathLimAssert hporst hlim, ?_⟩, ⟨_, exec_breathLimRelease hporst, rfl, rfl, rfl⟩,
    fun core io => ⟨_, exec_overCurrentSample hporst, ?_⟩, fun v h => ⟨_, exec_brgStatusWrite h, ?_⟩,
    fun v h => ?_, fun v h => ?_, fun h => ⟨_, exec_brgPeakRead h, rfl, rfl, rfl⟩⟩
  · rw [markStarved_eq]
    exact ⟨rfl, rfl, rfl, by simp [occur, satAdd]⟩
  · have hcore : (sampleLedger .io io (sampleLedger .core core s)).brg.core = sampled .core core s :=
      (ledger_sampleLedger_ne (l' := .core) (by decide)).trans ledger_sampleLedger
    have hio : (sampleLedger .io io (sampleLedger .core core s)).brg.io.meas = io :=
      congrArg LedgerSt.meas (ledger_sampleLedger (l := .io))
    rw [slopeOf, ledger, hcore]
    refine ⟨rfl, hio, rfl, fun hoc hhigh hrun => ?_, fun hlow => sampled_of_low hlow⟩
    have hhold := sampled_of_fourth (l := .core) hoc hhigh hrun
    exact ⟨hhold, if_pos hhold⟩
  · unfold writeBrgStatus
    cases v.getLsbD 1 <;> cases v.getLsbD 2 <;> simp [setLedger]
  · intro c
    rw [exec_brgCeilWrite h, writeBrgCeil, ceilField_eq]
    refine ⟨fun hlow hhigh hroom => ?_, fun hout => ?_, fun hlow hhigh hroom => ?_⟩
    · rw [if_neg (by omega), if_neg (by omega)]
    · rw [if_pos (by omega)]
    · rw [if_neg (by omega), if_pos (by omega)]
  · intro c
    rw [exec_brgCeilLowWrite h, writeBrgCeilLow, ceilField_eq]
    refine ⟨fun hlow hhigh => ⟨_, rfl, ?_, fun hlim => ?_⟩, fun hout => by rw [if_pos (by omega)]⟩
    · rw [if_neg (by omega)]
      exact markStarved_eq
    · rw [if_neg (by omega), markStarved_of_released]
      exact hlim

end Sys2Proof.Proofs

namespace Sys2Proof.Proofs

/-! ### Gating and waking islands (R37, R61, R62) -/

open Sys2Proof.Machine

section
variable {s t : State} {i j : Island} {a : ℕ} {st : IslSt}

/-! What the operations that end, request or note grants leave of the islands. -/

@[simp] theorem setLedger_isl {l : Ledger} {f : LedgerSt → LedgerSt} : (setLedger l f s).isl = s.isl := by cases l <;> rfl

@[simp] theorem noteRise_isl {l : Ledger} : (noteRise l s t).isl = t.isl := by
  unfold noteRise
  split
  · rfl
  · rw [sameGrants_noteLedger.isl_eq, setLedger_isl]

@[simp] theorem standingChange_isl {f : State → State} : (standingChange f s).isl = (f s).isl := by
  simp [standingChange]

/-- A change that lifts no total is made as it stands. -/
theorem standingChange_of_total {f : State → State} (h : ∀ l, total (f s) l ≤ total s l) : standingChange f s = f s := by
  have hcore : noteRise .core s (f s) = f s := if_pos (h .core)
  rw [standingChange, hcore]
  exact if_pos (h .io)

/-! What a collapse loses. -/

theorem memByte_filter {m : Memory} {p : Host.Cell → Bool} (h : ∀ b, p (a, b) = true) :
    memByte (m.filter p) a = memByte m a := by
  induction m with
  | nil => rfl
  | cons x m ih =>
    obtain ⟨k, b⟩ := x
    by_cases hk : k = a
    · subst hk; simp [memByte, h]
    · rw [List.filter_cons]
      split <;> simp [memByte, hk, ih]

theorem loseContents_brg : (loseContents i s).brg = s.brg := by
  unfold loseContents
  split_ifs <;> rfl

theorem loseContents_isl : (loseContents i s).isl = s.isl := by
  unfold loseContents
  split_ifs <;> rfl

/-- The collapse of a section island, or of the window's, loses that memory alone. -/
theorem loseContents_memByte
    (hsec : ¬ (17 ≤ i.val ∧ i.val ≤ 20 ∧ 0x800000 * (i.val - 17) ≤ a ∧ a < 0x800000 * (i.val - 17) + 0x600000))
    (hwin : ¬ (i.val = 21 ∧ 0x2000000 ≤ a ∧ a < 0x3000000)) :
    memByte (loseContents i s).mem a = memByte s.mem a := by
  unfold loseContents
  split
  · rfl
  split
  · next h => exact memByte_filter fun _ => by simp; omega
  split
  · next h =>
    have hval : i.val = 21 := congrArg Fin.val h
    exact memByte_filter fun _ => by simp; omega
  · rfl

/-! An island stops. -/

/-- An island that stops, before what its power loses. -/
def islandStopped (i : Island) (st : IslSt) (s : State) : State :=
  dropUnits (fun u => unitIsland u == i.val)
    (setIsl i (fun x => { x with st := st, bad := false, fresh := false, ramped := false }) s)

theorem stopIsland_eq : stopIsland i st s =
    if st = .gated then islandStopped i st s else loseContents i (islandStopped i st s) := rfl

theorem islandStopped_frame : islandStopped i st s =
    { s with isl := (islandStopped i st s).isl, brg := (islandStopped i st s).brg } := rfl

theorem stopIsland_isl : (stopIsland i st s).isl = (islandStopped i st s).isl := by
  rw [stopIsland_eq]; split
  · rfl
  · exact loseContents_isl

theorem stopIsland_brg : (stopIsland i st s).brg = (islandStopped i st s).brg := by
  rw [stopIsland_eq]; split
  · rfl
  · exact loseContents_brg

theorem islOf_eq_of_isl (h : t.isl = s.isl) : islOf t j = islOf s j := by rw [islOf, h, islOf]

/-- The island is in its new state, and no other changes. -/
theorem stopIsland_islOf : (islOf (stopIsland i st s) i).st = st ∧ ∀ j, j ≠ i → islOf (stopIsland i st s) j = islOf s j := by
  have hisl : ∀ j, islOf (stopIsland i st s) j =
      islOf (setIsl i (fun x => { x with st := st, bad := false, fresh := false, ramped := false }) s) j :=
    fun _ => islOf_eq_of_isl stopIsland_isl
  exact ⟨by rw [hisl, islOf_setIsl], fun j hj => by rw [hisl, islOf_setIsl_ne hj.symm]⟩

/-- Its units hold nothing more in either ledger. -/
theorem stopIsland_grants : ∀ e ∈ (stopIsland i st s).brg.core.grants ++ (stopIsland i st s).brg.io.grants,
    unitIsland e.unit ≠ i.val := by
  have hledger : ∀ l, ∀ e ∈ (ledger (islandStopped i st s) l).grants, unitIsland e.unit ≠ i.val := fun l e he => by
    rw [islandStopped, ledger_dropUnits] at he
    simpa using (List.mem_filter.mp he).2
  rw [stopIsland_brg]
  exact fun e he => (List.mem_append.mp he).elim (hledger .core e) (hledger .io e)

/-! ISLAND_GATE (R61). -/

theorem exec_islandGate {b : Bool} (hp : s.porst = false) : exec (.islandGate i b) s = .next (islandGate i b s) := by
  change execIslandGate i b s = _
  rw [execIslandGate, live_of hp]

/-- The islands that are never gated, and those that work needs, stay as they are. -/
theorem islandGate_refused {b : Bool} (h : i = 0 ∨ i = 24 ∨ i = 28 ∨ i = 30 ∨ islandIdle s i = false) :
    islandGate i b s = s := by
  unfold islandGate
  refine if_pos ?_
  rcases h with h | h | h | h | h <;> simp [h]

/-- An idle island that runs is gated; where nothing forbids it, it is collapsed instead. -/
theorem islandGate_idle {b : Bool} (hm : muted s = false) (h0 : i ≠ 0) (h24 : i ≠ 24) (h28 : i ≠ 28) (h30 : i ≠ 30)
    (hidle : islandIdle s i = true) (hrun : (islOf s i).st = .run)
    (hb : b = true → s.isl.keep.getLsbD i.val = false ∧ contentsIdle s i = true) :
    islandGate i b s = stopIsland i (if b then .collapsed else .gated) s := by
  cases b <;> simp_all [islandGate]

/-! ISLAND_WAKE_COMPLETE (R37, R62). -/

theorem endDoze_isl : (endDoze s).isl = s.isl := by unfold endDoze; split <;> rfl

theorem islandsPos_isl : (islandsPos i s).isl = s.isl := by unfold islandsPos; split <;> rfl

/-- Where no register write waits for the island, none is acted on. -/
theorem runActs_of_none (h : (s.isl.acts.filter fun e => regIsland e.1 == i.val) = []) :
    islOf (runActs i s) j = islOf s j := by
  unfold runActs
  simp only [h]
  rfl

/-- An island that wakes runs, and no other changes: not 29, whose ports may fault it, and with no register write that waits
for it. -/
theorem wakeIsland_islOf (hport : i ≠ 29) (hacts : (s.isl.acts.filter fun e => regIsland e.1 == i.val) = []) :
    islRuns (wakeIsland i s) i = true ∧ ∀ j, j ≠ i → islOf (wakeIsland i s) j = islOf s j := by
  have hwake : ∀ j, islOf (wakeIsland i s) j = islOf (startIsland i s) j := fun j => by
    unfold wakeIsland
    extract_lets lost s1 s2 s3 s4
    have h2 : s2.isl = s1.isl := by dsimp only [s2]; split <;> simp [loseContents_isl]
    have h3 : s3.isl = s2.isl := by dsimp only [s3]; split_ifs <;> rfl
    have h4 : islOf s4 j = islOf (islandsPos i s3) j := runActs_of_none (by rw [islandsPos_isl, h3, h2]; exact hacts)
    rw [if_neg hport, islOf_eq_of_isl endDoze_isl, h4, islOf_eq_of_isl (islandsPos_isl.trans (h3.trans h2))]
  refine ⟨?_, fun j hj => ?_⟩
  · rw [islRuns, hwake, startIsland, islOf_setIsl]; rfl
  · rw [hwake, startIsland, islOf_setIsl_ne hj.symm]

theorem exec_islandWakeComplete (hp : s.porst = false) :
    exec (.islandWakeComplete i) s = .next (standingChange (islandWake i) s) := by
  change execIslandWakeComplete i s = _
  rw [execIslandWakeComplete, live_of hp]

theorem wakeGated_runs (h : unitOf i = none ∨ unitGranted s i = true) : wakeGated i s = wakeIsland i s := by
  unfold wakeGated
  split
  · next u hu => exact if_pos (h.resolve_left (by simp [hu]))
  · rfl

theorem wakeGated_requests {u : Consumer} (hu : unitOf i = some u) (h : unitGranted s i = false) :
    wakeGated i s = request u .system s := by
  simp [wakeGated, hu, h]

section
variable (hfull : s.bsc.stage = .full) (hon : s.pwr.st = .on) (hlost : s.isl.refLost = false)
include hfull hon hlost

/-- During service an island that is gated or collapsed wakes under the grant that R37 and R62 name. -/
theorem islandWake_eq (hst : (islOf s i).st = .gated ∨ (islOf s i).st = .collapsed) : islandWake i s =
    if 1 ≤ i.val ∧ i.val ≤ 16 then
      withLease (.voice (Fin.ofNat 16 (i.val - 1)) .idle) (voiceTag s (Fin.ofNat 16 (i.val - 1))) (wakeIsland i) s
    else if (islOf s i).st = .gated then wakeGated i s
    else withBurst (.ramp i) .system (wakeIsland i) s := by
  have hstage : ¬ stageCode s.bsc.stage < 3 := by rw [hfull]; decide
  have hmuted : muted s = false := by rw [muted, hfull]; rfl
  unfold islandWake
  rcases hst with hst | hst <;> simp [hst, hstage, hmuted, hon, hlost]

/-- So does the power-up of a re-qualification (R66). -/
theorem islandWake_requal_eq (hst : (islOf s i).st = .fault) (hreq : (islOf s i).requal.isSome = true)
    (hramp : (islOf s i).ramped = false) : islandWake i s =
    if 1 ≤ i.val ∧ i.val ≤ 16 then
      withLease (.voice (Fin.ofNat 16 (i.val - 1)) .idle) (voiceTag s (Fin.ofNat 16 (i.val - 1))) (rampUp i) s
    else withBurst (.ramp i) .system (rampUp i) s := by
  have hstage : ¬ stageCode s.bsc.stage < 3 := by rw [hfull]; decide
  have hmuted : muted s = false := by rw [muted, hfull]; rfl
  unfold islandWake
  simp [hst, hreq, hramp, hstage, hmuted, hon, hlost]

end

/-- A voice island wakes under its idle breath, which stays held; another that is collapsed under its ramp grant, which ends. -/
theorem wake_under_grant {k : State → State} (h : (1 ≤ i.val ∧ i.val ≤ 16) ∧
      holdsGrant s (.voice (Fin.ofNat 16 (i.val - 1)) .idle) = true ∨
    ¬ (1 ≤ i.val ∧ i.val ≤ 16) ∧ holdsGrant s (.ramp i) = true) :
    ∃ u, u.isl = s.isl ∧ (if 1 ≤ i.val ∧ i.val ≤ 16 then
      withLease (.voice (Fin.ofNat 16 (i.val - 1)) .idle) (voiceTag s (Fin.ofNat 16 (i.val - 1))) k s
      else withBurst (.ramp i) .system k s) = k u := by
  rcases h with ⟨hvoice, hidle⟩ | ⟨hvoice, hramp⟩
  · exact ⟨s, rfl, by rw [if_pos hvoice, withLease_of hidle]⟩
  · exact ⟨endGrant (.ramp i) s, setLedger_isl, by rw [if_neg hvoice, withBurst_of hramp]⟩

/-- During service an island whose grant is held wakes, and of the islands the end of the grant itself changes none. -/
theorem islandWake_runs (hfull : s.bsc.stage = .full) (hon : s.pwr.st = .on) (hlost : s.isl.refLost = false)
    (h : ((1 ≤ i.val ∧ i.val ≤ 16) ∧ ((islOf s i).st = .gated ∨ (islOf s i).st = .collapsed) ∧
        holdsGrant s (.voice (Fin.ofNat 16 (i.val - 1)) .idle) = true) ∨
      (¬ (1 ≤ i.val ∧ i.val ≤ 16) ∧ (islOf s i).st = .gated ∧ (unitOf i = none ∨ unitGranted s i = true)) ∨
      (¬ (1 ≤ i.val ∧ i.val ≤ 16) ∧ (islOf s i).st = .collapsed ∧ holdsGrant s (.ramp i) = true)) :
    ∃ u, u.isl = s.isl ∧ islandWake i s = wakeIsland i u := by
  rcases h with ⟨hvoice, hst, hidle⟩ | ⟨hvoice, hst, hunit⟩ | ⟨hvoice, hst, hramp⟩
  · exact ⟨s, rfl, by rw [islandWake_eq hfull hon hlost hst, if_pos hvoice, withLease_of hidle]⟩
  · exact ⟨s, rfl, by rw [islandWake_eq hfull hon hlost (.inl hst), if_neg hvoice, if_pos hst, wakeGated_runs hunit]⟩
  · rw [islandWake_eq hfull hon hlost (.inr hst), if_neg (c := (islOf s i).st = .gated) (by simp [hst])]
    exact wake_under_grant (.inr ⟨hvoice, hramp⟩)

end

/-- Settles O36: gating is one `stopIsland`, a wake one `wakeIsland` or `rampUp`, each of which touches its own island alone. -/
theorem gatingAndWaking : Obligations.GatingAndWaking := by
  intro s i hporst hmuted
  refine ⟨fun b h => (exec_islandGate hporst).trans (by rw [islandGate_refused h]), ?_, ?_⟩
  · intro h0 h24 h28 h30 hidle hrun
    have hgate {b : Bool} := islandGate_idle (b := b) hmuted h0 h24 h28 h30 hidle hrun
    refine ⟨⟨_, exec_islandGate hporst, ?_⟩, fun hkeep hcontents => ⟨_, exec_islandGate hporst, ?_⟩⟩
    · rw [hgate (by simp), if_neg Bool.false_ne_true]
      exact ⟨stopIsland_islOf.1, stopIsland_islOf.2, islandStopped_frame, stopIsland_grants⟩
    · rw [hgate fun _ => ⟨hkeep, hcontents⟩, if_pos rfl]
      exact ⟨stopIsland_islOf.1, stopIsland_islOf.2, stopIsland_grants, fun a => loseContents_memByte⟩
  · intro hfull hon hlost hport hacts voice idle mayRun
    refine ⟨fun hmay => ⟨_, exec_islandWakeComplete hporst, ?_⟩, fun u hvoice hst hunit hgrant => ?_,
      fun hst hreq hramp hheld => ⟨_, exec_islandWakeComplete hporst, ?_⟩⟩
    · obtain ⟨u, hu, hwake⟩ := islandWake_runs hfull hon hlost hmay
      obtain ⟨hruns, hothers⟩ := wakeIsland_islOf (s := u) hport (by rw [hu]; exact hacts)
      rw [islRuns, islOf_eq_of_isl standingChange_isl, hwake]
      refine ⟨hruns, fun j hj => ?_⟩
      rw [islOf_eq_of_isl standingChange_isl, hwake, hothers j hj, islOf_eq_of_isl hu]
    · have hwake : islandWake i s = request u .system s := by
        rw [islandWake_eq hfull hon hlost (.inl hst), if_neg hvoice, if_pos hst, wakeGated_requests hunit hgrant]
      rw [exec_islandWakeComplete hporst, standingChange_of_total fun l => hwake ▸ sameGrants_request.total_eq.le, hwake]
    · obtain ⟨u, hu, hwake⟩ := wake_under_grant (k := rampUp i) hheld
      rw [← islandWake_requal_eq hfull hon hlost hst hreq hramp] at hwake
      have hisl : ∀ j, islOf (standingChange (islandWake i) s) j = islOf (rampUp i u) j := fun j =>
        islOf_eq_of_isl (by rw [standingChange_isl, hwake])
      refine ⟨?_, fun j hj => ?_⟩
      · rw [hisl, rampUp, islOf_setIsl, islOf_eq_of_isl hu]
      · rw [hisl, rampUp, islOf_setIsl_ne hj.symm, islOf_eq_of_isl hu]

end Sys2Proof.Proofs

namespace Sys2Proof.Proofs

/-! ### TBS_NOW (R70) -/

open Sys2Proof.Machine

section
variable {s : State} {l : Ledger}

theorem WithinLedger.tbs_eq {t : State} (h : WithinLedger l s t) : t.tbs = s.tbs := by rw [h.frame]

@[simp] theorem noteLedgers_tbs : (noteLedgers s).tbs = s.tbs := by
  rw [noteLedgers, sameGrants_noteLedger.tbs_eq, sameGrants_noteLedger.tbs_eq]

@[simp] theorem noteLedgers_clk : (noteLedgers s).clk = s.clk := by
  rw [noteLedgers, sameGrants_noteLedger.clk_eq, sameGrants_noteLedger.clk_eq]

/-- What one cycle makes of the time base. -/
theorem tick_tbs : (tick s).tbs = { s.tbs with
    now := (s.tbs.now + cycleNs s + (trimStep s).1).toNat % 2 ^ 64
    acc := (trimStep s).2
    cycle := if s.isl.refLost then s.tbs.cycle else if s.tbs.cycle = 23 then 0 else s.tbs.cycle + 1
    crossed := s.tbs.crossed || decide (s.tbs.now / downbeatNs <
      (s.tbs.now + cycleNs s + (trimStep s).1).toNat % 2 ^ 64 / downbeatNs)
    alarms := s.tbs.alarms.map fun a => { a with fresh := false } } := by
  unfold tick
  simp only [noteLedgers_tbs]
  rfl

theorem tick_clk : (tick s).clk = s.clk + cycleNs s := by
  unfold tick
  simp only [noteLedgers_clk]
  rfl

theorem cycleNs_cases : cycleNs s = 25 ∨ cycleNs s = 26 ∨ cycleNs s = 27 := by
  unfold cycleNs
  split_ifs <;> simp

/-- A trim within 200 ppm moves a cycle by at most one nanosecond. -/
theorem trimStep_bounds (hlow : -200000 ≤ s.tbs.trim) (hhigh : s.tbs.trim ≤ 200000) (hacc : 0 ≤ s.tbs.acc)
    (hacc' : s.tbs.acc < 1000000000) : -1 ≤ (trimStep s).1 ∧ (trimStep s).1 ≤ 1 := by
  unfold trimStep
  split
  · simp
  · rcases cycleNs_cases (s := s) with h | h | h <;> simp only [h] <;> omega

/-- Within that trim, and short of the wrap, a cycle turns TBS_NOW forward. -/
theorem tick_now_le (hlow : -200000 ≤ s.tbs.trim) (hhigh : s.tbs.trim ≤ 200000) (hacc : 0 ≤ s.tbs.acc)
    (hacc' : s.tbs.acc < 1000000000) (hroom : s.tbs.now + 28 < 2 ^ 64) : s.tbs.now ≤ (tick s).tbs.now := by
  obtain ⟨hback, hon⟩ := trimStep_bounds hlow hhigh hacc hacc'
  have hcycle := cycleNs_cases (s := s)
  have hnow : (tick s).tbs.now = (s.tbs.now + cycleNs s + (trimStep s).1).toNat := by
    rw [tick_tbs]
    exact Nat.mod_eq_of_lt (by omega)
  omega

/-- Every command but the release and the assertion of PORST_N and the tick leaves memory canonical, the fuses grown, the
queue alone and TBS_NOW no lower. -/
theorem exec_keeps {c : Instr} (hassert : c ≠ .porstNAssert) (hrelease : ∀ b, c ≠ .porstNRelease b)
    (htick : c ≠ .tbsTick) : KeepsOut s (exec c s) := by
  cases c with
  | porstNAssert => exact absurd rfl hassert
  | porstNRelease b => exact absurd rfl (hrelease b)
  | tbsTick => exact absurd rfl htick
  | otpLoadComplete => exact execOtpLoadComplete_keeps .rfl
  | scoreHeaderRead _ _ => exact execScoreHeaderRead_keeps .rfl
  | scoreCopyReadEnd _ => exact execScoreCopyReadEnd_keeps .rfl
  | scoreVerifyEnd => exact execScoreVerifyEnd_keeps .rfl
  | islandsExit => exact execIslandsExit_keeps .rfl
  | channelTrainAttemptEnd _ _ _ => exact execChannelTrainAttemptEnd_keeps .rfl
  | earlyServiceStart => exact execEarlyServiceStart_keeps .rfl
  | scoreUpdateCopyWritten _ => exact execScoreUpdateCopyWritten_keeps .rfl
  | breathGrant _ _ => exact execBreathGrant_keeps .rfl
  | leaseExpiry _ => exact execLeaseExpiry_keeps .rfl
  | breathLimAssert => exact execBreathLimAssert_keeps .rfl
  | breathLimRelease => exact execBreathLimRelease_keeps .rfl
  | overCurrentSample _ _ => exact execOverCurrentSample_keeps .rfl
  | brgStatusWrite _ => exact execBrgStatusWrite_keeps .rfl
  | brgCeilWrite _ => exact execBrgCeilWrite_keeps .rfl
  | brgCeilLowWrite _ => exact execBrgCeilLowWrite_keeps .rfl
  | brgPeakRead => exact execBrgPeakRead_keeps .rfl
  | clockMonitorWindow _ => exact execClockMonitorWindow_keeps .rfl
  | aonClockCheckWindow _ => exact execAonClockCheckWindow_keeps .rfl
  | refclk38Loss => exact execRefclk38Loss_keeps .rfl
  | islFaultWrite _ => exact execIslFaultWrite_keeps .rfl
  | islandGate _ _ => exact execIslandGate_keeps .rfl
  | islandWakeComplete _ => exact execIslandWakeComplete_keeps .rfl
  | downbeatCrossing => exact execDownbeatCrossing_keeps .rfl
  | downbeatOutPulseEnd => exact execDownbeatOutPulseEnd_keeps .rfl
  | downbeatInCapture => exact execDownbeatInCapture_keeps .rfl
  | alarmFire _ => exact execAlarmFire_keeps .rfl
  | tbsNowLoRead => exact execTbsNowLoRead_keeps .rfl
  | tbsLoad _ => exact execTbsLoad_keeps .rfl
  | tbsAlarmHiWrite _ _ => exact execTbsAlarmHiWrite_keeps .rfl
  | downbeatMissed => exact execDownbeatMissed_keeps .rfl
  | configRequest _ => exact execConfigRequest_keeps .rfl
  | hostLinkReset _ => exact execHostLinkReset_keeps .rfl
  | flr => exact execFlr_keeps .rfl
  | flrComplete => exact execFlrComplete_keeps .rfl
  | hifPartResetWrite _ _ => exact execHifPartResetWrite_keeps .rfl
  | partResetComplete _ => exact execPartResetComplete_keeps .rfl
  | unmappedBar0Access _ _ => exact execUnmappedBar0Access_keeps .rfl
  | bar2Read _ _ => exact execBar2Read_keeps .rfl
  | bar2Write _ _ => exact execBar2Write_keeps .rfl
  | glbHwinLenWrite _ _ => exact execGlbHwinLenWrite_keeps .rfl
  | glbWinBaseHiWrite _ => exact execGlbWinBaseHiWrite_keeps .rfl
  | dmaReadCompletion _ _ => exact execDmaReadCompletion_keeps .rfl
  | dmaReadFailure _ _ => exact execDmaReadFailure_keeps .rfl
  | ltrMessage => exact execLtrMessage_keeps .rfl
  | msixHeldSend _ => exact execMsixHeldSend_keeps .rfl
  | hifSqTailWrite _ _ => exact execHifSqTailWrite_keeps .rfl
  | submissionFetch _ _ => exact execSubmissionFetch_keeps .rfl
  | hifCqHeadWrite _ _ => exact execHifCqHeadWrite_keeps .rfl
  | hifSqSizeWrite _ _ => exact execHifSqSizeWrite_keeps .rfl
  | hifCqSizeWrite _ _ => exact execHifCqSizeWrite_keeps .rfl
  | hifSqStatusWrite _ _ => exact execHifSqStatusWrite_keeps .rfl
  | completionRecordWrite _ => exact execCompletionRecordWrite_keeps .rfl
  | hifQDramUserWrite _ _ => exact execHifQDramUserWrite_keeps .rfl
  | hifQStripsWrite _ _ => exact execHifQStripsWrite_keeps .rfl
  | hifQSectionUseWrite _ _ => exact execHifQSectionUseWrite_keeps .rfl
  | hifEvqHeadWrite _ => exact execHifEvqHeadWrite_keeps .rfl
  | hifErrqSizeWrite _ => exact execHifErrqSizeWrite_keeps .rfl
  | hifErrqLostRead => exact execHifErrqLostRead_keeps .rfl
  | hifDeferTotalRead => exact execHifDeferTotalRead_keeps .rfl
  | errorRecordWrite => exact execErrorRecordWrite_keeps .rfl
  | nop _ => exact execNop_keeps .rfl
  | fence _ => exact execFence_keeps .rfl
  | modelLoad _ => exact execModelLoad_keeps .rfl
  | modelSwap _ => exact execModelSwap_keeps .rfl
  | modelEvict _ => exact execModelEvict_keeps .rfl
  | modelPin _ => exact execModelPin_keeps .rfl
  | modelQuery _ => exact execModelQuery_keeps .rfl
  | prefill _ => exact execPrefill_keeps .rfl
  | generate _ => exact execGenerate_keeps .rfl
  | scoreTokens _ => exact execScoreTokens_keeps .rfl
  | embed _ => exact execEmbed_keeps .rfl
  | hush _ => exact execHush_keeps .rfl
  | wake _ => exact execWake_keeps .rfl
  | contextDestroy _ => exact execContextDestroy_keeps .rfl
  | maskLoad _ => exact execMaskLoad_keeps .rfl
  | maskBind _ => exact execMaskBind_keeps .rfl
  | kernel _ => exact execKernel_keeps .rfl
  | abort _ => exact execAbort_keeps .rfl
  | flashWriteImage _ => exact execFlashWriteImage_keeps .rfl
  | flashEraseSlot _ => exact execFlashEraseSlot_keeps .rfl
  | scoreUpdate _ => exact execScoreUpdate_keeps .rfl
  | progressQuery _ => exact execProgressQuery_keeps .rfl
  | deferredStart _ => exact execDeferredStart_keeps .rfl
  | patienceExpiry _ => exact execPatienceExpiry_keeps .rfl
  | passStart _ _ _ _ => exact execPassStart_keeps .rfl
  | passEnd _ _ => exact execPassEnd_keeps .rfl
  | autoHush _ _ => exact execAutoHush_keeps .rfl
  | streamerBurstComplete _ _ _ _ _ => exact execStreamerBurstComplete_keeps .rfl
  | repairEnd => exact execRepairEnd_keeps .rfl
  | prismBlockDecoded _ _ _ _ _ => exact execPrismBlockDecoded_keeps .rfl
  | swapVerifyEnd => exact execSwapVerifyEnd_keeps .rfl
  | swapWriteStart => exact execSwapWriteStart_keeps .rfl
  | swapShardWritten => exact execSwapShardWritten_keeps .rfl
  | swapRevertEnd => exact execSwapRevertEnd_keeps .rfl
  | flashInitComplete _ _ _ => exact execFlashInitComplete_keeps .rfl
  | flashPageRead _ _ _ => exact execFlashPageRead_keeps .rfl
  | flashPageProgrammed _ => exact execFlashPageProgrammed_keeps .rfl
  | flashBlockErased _ => exact execFlashBlockErased_keeps .rfl
  | flashWriteCheckPassEnd => exact execFlashWriteCheckPassEnd_keeps .rfl
  | flashPatrol _ => exact execFlashPatrol_keeps .rfl
  | blockRefreshComplete _ _ => exact execBlockRefreshComplete_keeps .rfl
  | dmcRequestAccept _ _ => exact execDmcRequestAccept_keeps .rfl
  | dmcRequestIssue _ _ _ _ => exact execDmcRequestIssue_keeps .rfl
  | rowIdleClose _ _ => exact execRowIdleClose_keeps .rfl
  | refreshSlot _ => exact execRefreshSlot_keeps .rfl
  | mr4Poll _ _ => exact execMr4Poll_keeps .rfl
  | dqsTrack _ _ => exact execDqsTrack_keeps .rfl
  | retrainComplete _ _ => exact execRetrainComplete_keeps .rfl
  | scrubRead _ _ => exact execScrubRead_keeps .rfl
  | selfRefreshExitComplete _ => exact execSelfRefreshExitComplete_keeps .rfl
  | hazardApply _ => exact execHazardApply_keeps .rfl
  | dmcCntSnap _ => exact execDmcCntSnap_keeps .rfl
  | dmcCntClear _ => exact execDmcCntClear_keeps .rfl
  | sectionScrub _ _ _ => exact execSectionScrub_keeps .rfl
  | eventSourcePending _ => exact execEventSourcePending_keeps .rfl
  | eventRecordWrite => exact execEventRecordWrite_keeps .rfl
  | evcClaimRead => exact execEvcClaimRead_keeps .rfl
  | evcDoneWrite _ => exact execEvcDoneWrite_keeps .rfl
  | evcArmedWrite _ _ => exact execEvcArmedWrite_keeps .rfl
  | evcSoftSetWrite _ => exact execEvcSoftSetWrite_keeps .rfl
  | evcLatchWrite _ _ => exact execEvcLatchWrite_keeps .rfl
  | evcCountRead _ => exact execEvcCountRead_keeps .rfl
  | preemptSaveComplete _ => exact execPreemptSaveComplete_keeps .rfl
  | kernelRestore _ => exact execKernelRestore_keeps .rfl
  | kernelSetStart _ _ => exact execKernelSetStart_keeps .rfl
  | kernelTimeout _ => exact execKernelTimeout_keeps .rfl
  | vceCtrlWrite _ _ => exact execVceCtrlWrite_keeps .rfl
  | add _ => exact execAdd_keeps .rfl
  | sub _ => exact execSub_keeps .rfl
  | and _ => exact execAnd_keeps .rfl
  | or _ => exact execOr_keeps .rfl
  | xor _ => exact execXor_keeps .rfl
  | not _ => exact execNot_keeps .rfl
  | sll _ => exact execSll_keeps .rfl
  | srl _ => exact execSrl_keeps .rfl
  | sra _ => exact execSra_keeps .rfl
  | mul _ => exact execMul_keeps .rfl
  | mulhu _ => exact execMulhu_keeps .rfl
  | mulhs _ => exact execMulhs_keeps .rfl
  | divu _ => exact execDivu_keeps .rfl
  | divs _ => exact execDivs_keeps .rfl
  | remu _ => exact execRemu_keeps .rfl
  | rems _ => exact execRems_keeps .rfl
  | mins _ => exact execMins_keeps .rfl
  | maxs _ => exact execMaxs_keeps .rfl
  | minu _ => exact execMinu_keeps .rfl
  | maxu _ => exact execMaxu_keeps .rfl
  | neg _ => exact execNeg_keeps .rfl
  | abs _ => exact execAbs_keeps .rfl
  | clz _ => exact execClz_keeps .rfl
  | popc _ => exact execPopc_keeps .rfl
  | cmp _ => exact execCmp_keeps .rfl
  | plog _ => exact execPlog_keeps .rfl
  | addi _ => exact execAddi_keeps .rfl
  | andi _ => exact execAndi_keeps .rfl
  | ori _ => exact execOri_keeps .rfl
  | xori _ => exact execXori_keeps .rfl
  | slli _ => exact execSlli_keeps .rfl
  | srli _ => exact execSrli_keeps .rfl
  | srai _ => exact execSrai_keeps .rfl
  | lui _ => exact execLui_keeps .rfl
  | br _ => exact execBr_keeps .rfl
  | jal _ => exact execJal_keeps .rfl
  | sysNop _ => exact execSysNop_keeps .rfl
  | stop _ => exact execStop_keeps .rfl
  | jalr _ => exact execJalr_keeps .rfl
  | rdsr _ => exact execRdsr_keeps .rfl
  | wrpr _ => exact execWrpr_keeps .rfl
  | ldb _ _ => exact execLdb_keeps .rfl
  | ldbu _ _ => exact execLdbu_keeps .rfl
  | ldh _ _ => exact execLdh_keeps .rfl
  | ldhu _ _ => exact execLdhu_keeps .rfl
  | ldw _ _ => exact execLdw_keeps .rfl
  | stb _ => exact execStb_keeps .rfl
  | sth _ => exact execSth_keeps .rfl
  | stw _ => exact execStw_keeps .rfl
  | tcfg _ => exact execTcfg_keeps .rfl
  | trel _ => exact execTrel_keeps .rfl
  | tld _ _ => exact execTld_keeps .rfl
  | tst _ => exact execTst_keeps .rfl
  | tmma _ _ => exact execTmma_keeps .rfl
  | tsacc _ => exact execTsacc_keeps .rfl
  | tout _ _ => exact execTout_keeps .rfl
  | tewAdd _ => exact execTewAdd_keeps .rfl
  | tewSub _ => exact execTewSub_keeps .rfl
  | tewMul _ => exact execTewMul_keeps .rfl
  | tewMax _ => exact execTewMax_keeps .rfl
  | tewMin _ => exact execTewMin_keeps .rfl
  | tewAddr _ => exact execTewAddr_keeps .rfl
  | tewMulr _ => exact execTewMulr_keeps .rfl
  | tewAddc _ => exact execTewAddc_keeps .rfl
  | tewMulc _ => exact execTewMulc_keeps .rfl
  | tewCvt _ => exact execTewCvt_keeps .rfl
  | tewExp _ => exact execTewExp_keeps .rfl
  | tewRsqrt _ => exact execTewRsqrt_keeps .rfl
  | tewRecip _ => exact execTewRecip_keeps .rfl
  | tewSilu _ => exact execTewSilu_keeps .rfl
  | rsum _ => exact execRsum_keeps .rfl
  | rsumsq _ => exact execRsumsq_keeps .rfl
  | rmax _ => exact execRmax_keeps .rfl
  | tq _ => exact execTq_keeps .rfl
  | tdq _ _ => exact execTdq_keeps .rfl
  | scld _ _ => exact execScld_keeps .rfl
  | trda _ => exact execTrda_keeps .rfl
  | gather _ _ => exact execGather_keeps .rfl
  | scatter _ => exact execScatter_keeps .rfl
  | bar _ => exact execBar_keeps .rfl
  | waitev _ => exact execWaitev_keeps .rfl
  | setev _ => exact execSetev_keeps .rfl
  | brthHold _ => exact execBrthHold_keeps .rfl
  | brthRelease _ => exact execBrthRelease_keeps .rfl
  | mirrorProbe _ _ _ => exact execMirrorProbe_keeps .rfl
  | mirRequalWrite _ => exact execMirRequalWrite_keeps .rfl
  | mirrorSelftestEnd _ _ => exact execMirrorSelftestEnd_keeps .rfl
  | cantorMismatch => exact execCantorMismatch_keeps .rfl
  | aonCopyOutvoted _ _ => exact execAonCopyOutvoted_keeps .rfl
  | portDetect _ _ => exact execPortDetect_keeps .rfl
  | portEqualizeEnd _ _ => exact execPortEqualizeEnd_keeps .rfl
  | portAlignEnd _ _ => exact execPortAlignEnd_keeps .rfl
  | portIdentEnd _ _ => exact execPortIdentEnd_keeps .rfl
  | portDownExpiry _ => exact execPortDownExpiry_keeps .rfl
  | ensRetrain _ => exact execEnsRetrain_keeps .rfl
  | data _ _ => exact execData_keeps .rfl
  | join _ _ => exact execJoin_keeps .rfl
  | reach _ _ => exact execReach_keeps .rfl
  | reserve _ _ => exact execReserve_keeps .rfl
  | reserveReply _ _ => exact execReserveReply_keeps .rfl
  | release _ _ => exact execRelease_keeps .rfl
  | commit _ _ => exact execCommit_keeps .rfl
  | rollback _ _ => exact execRollback_keeps .rfl
  | stageDone _ _ => exact execStageDone_keeps .rfl
  | fault _ _ => exact execFault_keeps .rfl
  | destroy _ _ => exact execDestroy_keeps .rfl
  | downbeat _ _ _ => exact execDownbeat_keeps .rfl
  | keepalive _ _ => exact execKeepalive_keeps .rfl
  | ack _ _ => exact execAck_keeps .rfl
  | ident _ _ => exact execIdent_keeps .rfl
  | keepaliveIdleTimer _ => exact execKeepaliveIdleTimer_keeps .rfl
  | ackTimer _ => exact execAckTimer_keeps .rfl
  | replayTimeout _ => exact execReplayTimeout_keeps .rfl
  | linkSilence _ => exact execLinkSilence_keeps .rfl
  | ensDbinLoRead => exact execEnsDbinLoRead_keeps .rfl
  | vibUnlockWrite _ => exact execVibUnlockWrite_keeps .rfl
  | vibGo => exact execVibGo_keeps .rfl
  | vibStop => exact execVibStop_keeps .rfl
  | vibLock => exact execVibLock_keeps .rfl
  | vibDurationExpiry => exact execVibDurationExpiry_keeps .rfl
  | glbOppointWrite _ => exact execGlbOppointWrite_keeps .rfl
  | avsTransactionEnd _ => exact execAvsTransactionEnd_keeps .rfl
  | avsSettleExpiry => exact execAvsSettleExpiry_keeps .rfl
  | thermalSample _ => exact execThermalSample_keeps .rfl
  | glbThermRead => exact execGlbThermRead_keeps .rfl
  | dozeEntry => exact execDozeEntry_keeps .rfl
  | restRequest _ => exact execRestRequest_keeps .rfl
  | restWakeRequest _ => exact execRestWakeRequest_keeps .rfl
  | restWake _ => exact execRestWake_keeps .rfl
  | restExitComplete => exact execRestExitComplete_keeps .rfl
  | gpioChange _ _ => exact execGpioChange_keeps .rfl
  | idcode => exact execIdcode_keeps .rfl
  | samplePreload _ => exact execSamplePreload_keeps .rfl
  | extest => exact execExtest_keeps .rfl
  | clamp => exact execClamp_keeps .rfl
  | highz => exact execHighz_keeps .rfl
  | dbgReg _ => exact execDbgReg_keeps .rfl
  | dbgStat => exact execDbgStat_keeps .rfl
  | bypass => exact execBypass_keeps .rfl
  | registerWrite _ _ => exact execRegisterWrite_keeps .rfl
  | linkUp _ _ => exact execLinkUp_keeps .rfl
  | linkError _ _ => exact execLinkError_keeps .rfl
  | rcRegisterRead _ _ => exact execRcRegisterRead_keeps .rfl
  | hushWakeDeviceWorkEnd _ => exact execHushWakeDeviceWorkEnd_keeps .rfl

theorem KeepsOut.now_le {o : Host.Outcome State Fault Refusal} (h : KeepsOut s o) :
    ∃ t, o = .next t ∧ s.tbs.now ≤ t.tbs.now := by
  obtain ⟨h⟩ := h
  exact ⟨_, rfl, h.now⟩

end

/-- Settles O37: a tick adds at least 24 ns short of the wrap, and every other command but PORST_N keeps TBS_NOW. -/
theorem timeNeverRunsBack : Obligations.TimeNeverRunsBack := by
  intro c s hassert hrelease hroom
  by_cases htick : c = .tbsTick
  · obtain ⟨hlow, hhigh, hacc, hacc', hnow⟩ := hroom htick
    subst htick
    refine ⟨_, rfl, ?_⟩
    split
    · exact le_rfl
    · exact tick_now_le hlow hhigh hacc hacc' hnow
  · exact KeepsOut.now_le (exec_keeps hassert hrelease htick)

end Sys2Proof.Proofs

namespace Sys2Proof.Proofs

/-! ### The cycle of TBS_NOW and the downbeat's events (R67, R70, R73, R434, R435) -/

open Sys2Proof.Machine

section
variable {s : State} {n : Port} {p : Packet} {hops : ℕ}

/-- Without trim a cycle adds its own nanoseconds. -/
theorem tick_now_of_untrimmed (htrim : s.tbs.trim = 0) (hacc : s.tbs.acc = 0) (hroom : s.tbs.now + 28 < 2 ^ 64) :
    (tick s).tbs.now = s.tbs.now + cycleNs s := by
  have hstep : (trimStep s).1 = 0 := by
    unfold trimStep
    split_ifs <;> simp [htrim, hacc]
  have hcycle := cycleNs_cases (s := s)
  have hnow : (tick s).tbs.now = (s.tbs.now + cycleNs s + (trimStep s).1).toNat % 2 ^ 64 := by rw [tick_tbs]
  rw [hnow, hstep]
  omega

/-- The crossing of a multiple of the downbeat's period is noted until DOWNBEAT_CROSSING. -/
theorem tick_crossed_iff : (tick s).tbs.crossed = true ↔
    s.tbs.crossed = true ∨ s.tbs.now / downbeatNs < (tick s).tbs.now / downbeatNs := by
  rw [tick_tbs]
  simp

/-- Downbeats that a device sends touch the instants of its ports and what leaves it. -/
theorem sendDownbeat_keeps_tbs : (sendDownbeat hops p s).tbs = s.tbs ∧ (sendDownbeat hops p s).dbOut = s.dbOut := by
  unfold sendDownbeat
  generalize List.range 4 = ports
  induction ports generalizing s with
  | nil => exact ⟨rfl, rfl⟩
  | cons i ports ih =>
    rw [List.foldl_cons]
    obtain ⟨htbs, hout⟩ := ih (s := if portActive s (Fin.ofNat 4 i) ∧ (portOf s (Fin.ofNat 4 i)).nhops = hops then
      sendLocal (Fin.ofNat 4 i) p s else s)
    refine ⟨htbs.trans ?_, hout.trans ?_⟩
    · split <;> rfl
    · split <;> rfl

theorem pulseOut_dbOut : (pulseOut s).dbOut = (s.dbOut || s.ens.dbOutEn) := by
  unfold pulseOut
  split <;> simp_all

theorem pulseOut_tbs : (pulseOut s).tbs = s.tbs := by
  unfold pulseOut
  split <;> rfl

/-- DOWNBEAT_CROSSING after a crossing: the pulse, and in LEADER one downbeat more and one LOADED fewer. -/
theorem crossing_of_crossed (h : s.tbs.crossed = true) : (crossing s).dbOut = (s.dbOut || s.ens.dbOutEn) ∧
    (crossing s).tbs = if s.tbs.lock = .leader then
      { s.tbs with crossed := false, dbCount := s.tbs.dbCount + 1, loadedLeft := s.tbs.loadedLeft - 1 }
    else { s.tbs with crossed := false } := by
  unfold crossing
  simp only [h, Bool.not_true, Bool.false_eq_true, if_false, pulseOut_tbs]
  by_cases hlead : s.tbs.lock = .leader
  · simp only [hlead, ne_eq, not_true_eq_false, if_false, if_true]
    exact ⟨sendDownbeat_keeps_tbs.2.trans pulseOut_dbOut, sendDownbeat_keeps_tbs.1⟩
  · simp only [hlead, ne_eq, not_false_eq_true, if_true, if_false]
    exact ⟨pulseOut_dbOut, pulseOut_tbs⟩

/-! What each row does where PORST_N is high. -/

theorem exec_tbsTick (hp : s.porst = false) : exec .tbsTick s = .next (tick s) := live_of hp

theorem exec_downbeatCrossing (hp : s.porst = false) : exec .downbeatCrossing s = .next (crossing s) := live_of hp

theorem exec_downbeatOutPulseEnd (hp : s.porst = false) :
    exec .downbeatOutPulseEnd s = .next { s with dbOut := false } := by
  change execDownbeatOutPulseEnd s = _
  rw [execDownbeatOutPulseEnd, live_of hp]

theorem exec_downbeatInCapture (hp : s.porst = false) :
    exec .downbeatInCapture s = .next { s with ens := { s.ens with dbin := s.tbs.now } } := by
  change execDownbeatInCapture s = _
  rw [execDownbeatInCapture, live_of hp]

/-- A follower counts a miss; four in a row, or one in HOLDOVER, leave it in HOLDOVER (R73). -/
theorem exec_downbeatMissed (hp : s.porst = false) : exec .downbeatMissed s =
    .next (if s.tbs.lock = .align ∨ s.tbs.lock = .locked ∨ s.tbs.lock = .holdover then
      { s with tbs := { s.tbs with
        miss := min 255 (s.tbs.miss + 1), goodRun := 0
        lock := if s.tbs.lock = .holdover ∨ 4 ≤ min 255 (s.tbs.miss + 1) then .holdover else s.tbs.lock } }
    else s) := live_of hp

end

/-- Settles O38: the tick by the equations of the cycle, the crossing by what sending leaves alone, the rest row by row. -/
theorem theTimeBaseCounts : Obligations.TheTimeBaseCounts := by
  intro s hporst
  refine ⟨fun htrim hacc hroom => ⟨_, exec_tbsTick hporst, ?_⟩, fun hnot => ?_,
    fun hcrossed => ⟨_, exec_downbeatCrossing hporst, ?_⟩, exec_downbeatOutPulseEnd hporst,
    exec_downbeatInCapture hporst, fun hlock => ?_, fun hlock => ?_, fun hlock => ?_⟩
  · have hnow := tick_now_of_untrimmed htrim hacc hroom
    refine ⟨hnow, tick_clk, fun hlost => ?_, hnow ▸ tick_crossed_iff⟩
    rw [tick_tbs]
    exact if_neg (by simp [hlost])
  · rw [exec_downbeatCrossing hporst, crossing, hnot]
    rfl
  · obtain ⟨hout, htbs⟩ := crossing_of_crossed hcrossed
    rw [hout, htbs]
    by_cases hlead : s.tbs.lock = .leader <;> simp [hlead]
  · rw [exec_downbeatMissed hporst]
    rcases hlock with hlock | hlock <;> simp [hlock]
  · rw [exec_downbeatMissed hporst]
    simp [hlock]
  · rw [exec_downbeatMissed hporst]
    rcases hlock with hlock | hlock | hlock | hlock <;> simp [hlock]

end Sys2Proof.Proofs

namespace Sys2Proof.Proofs

/-! ### LOAD, TBS_NOW_LO and the alarms (R72, R75 to R78) -/

open Sys2Proof.Machine

section
variable {s : State} {a b : Fin 2} {v : Word} {r : ErrRec} {off why : ℕ}

/-- An error record touches the error queue and the counters of the events, not the time base. -/
@[simp] theorem logErr_tbs : (logErr r s).tbs = s.tbs := by
  unfold logErr
  split
  · rfl
  split
  · simp only [trimBacklog]
    split <;> rfl
  split <;> rfl

theorem regRefused_tbs : (regRefused off v why s).tbs = s.tbs := logErr_tbs

/-- A LOAD that R75 allows. -/
theorem writeTbsCtrl_of_load (hload : v.getLsbD 0 = true) (hlock : s.tbs.lock = .standalone ∨ s.tbs.lock = .leader)
    (hset : s.tbs.now ≤ s.tbs.set) : writeTbsCtrl v s = { s with tbs := { s.tbs with
      now := s.tbs.set, loadedLeft := if s.tbs.lock = .leader then 8 else s.tbs.loadedLeft } } := by
  unfold writeTbsCtrl
  rw [if_neg (by simp [hload]), if_pos ⟨hlock, hset⟩]

/-- Any other LOAD is ignored and logged. -/
theorem writeTbsCtrl_refused (hload : v.getLsbD 0 = true)
    (hnot : ¬ ((s.tbs.lock = .standalone ∨ s.tbs.lock = .leader) ∧ s.tbs.now ≤ s.tbs.set)) :
    writeTbsCtrl v s = regRefused 0x2010 v 2 s := by
  unfold writeTbsCtrl
  rw [if_neg (by simp [hload]), if_neg hnot]

/-! The two alarms. -/

theorem alarms_set_same {al : Alarm} : (s.tbs.alarms.set a al)[a] = al := by simp

theorem alarms_set_ne {al : Alarm} (h : b ≠ a) : (s.tbs.alarms.set a al)[b] = s.tbs.alarms[b] := by
  have h' : a.val ≠ b.val := fun e => h (Fin.ext e.symm)
  simp [h']

/-- The value that a HI write commits: the staged low half and the written high half (R77). -/
theorem setHi_stagedLo {lo : Word} : setHi lo.toNat v = lo.toNat + 2 ^ 32 * v.toNat := by
  have := lo.isLt
  unfold setHi
  omega

/-- An alarm that does not fire: unarmed, committed since the last increment, or not reached. -/
theorem alarmIdle_iff {now : ℕ} {al : Alarm} : (!al.armed || al.fresh || decide (now < al.value)) = true ↔
    al.armed = false ∨ al.fresh = true ∨ now < al.value := by simp [or_assoc]

theorem fireAlarm_idle (h : s.tbs.alarms[a].armed = false ∨ s.tbs.alarms[a].fresh = true ∨
    s.tbs.now < s.tbs.alarms[a].value) : fireAlarm a s = s := by
  unfold fireAlarm
  exact if_pos (alarmIdle_iff.mpr h)

/-- The alarm after it has fired: disarmed, or a whole number of periods on (R72). -/
def firedAlarm (now : ℕ) (al : Alarm) : Alarm :=
  if al.period = 0 then { al with fired := true, armed := false }
  else { al with fired := true, value := (al.value + ((now - al.value) / al.period + 1) * al.period) % 2 ^ 64 }

theorem fireAlarm_due (harmed : s.tbs.alarms[a].armed = true) (hfresh : s.tbs.alarms[a].fresh = false)
    (hdue : s.tbs.alarms[a].value ≤ s.tbs.now) : fireAlarm a s =
      occur 38 { s with tbs := { s.tbs with alarms := s.tbs.alarms.set a (firedAlarm s.tbs.now s.tbs.alarms[a]) } } := by
  unfold fireAlarm
  refine if_neg fun hidle => ?_
  rcases alarmIdle_iff.mp hidle with h | h | h
  · exact Bool.noConfusion (harmed.symm.trans h)
  · exact Bool.noConfusion (hfresh.symm.trans h)
  · exact absurd hdue (not_le.mpr h)

theorem firedAlarm_fired {now : ℕ} {al : Alarm} : (firedAlarm now al).fired = true := by
  unfold firedAlarm
  split <;> rfl

/-- An alarm of period 0 disarms, and keeps its value. -/
theorem firedAlarm_once {now : ℕ} {al : Alarm} (h : al.period = 0) :
    (firedAlarm now al).armed = false ∧ (firedAlarm now al).value = al.value := by simp [firedAlarm, h]

theorem firedAlarm_armed {now : ℕ} {al : Alarm} (h : 0 < al.period) : (firedAlarm now al).armed = al.armed := by
  simp [firedAlarm, h.ne']

/-- The first of value plus whole periods that lies beyond TBS_NOW. -/
theorem firedAlarm_value {now : ℕ} {al : Alarm} (hperiod : 0 < al.period) (hdue : al.value ≤ now)
    (hroom : now + al.period < 2 ^ 64) : now < (firedAlarm now al).value ∧
      (firedAlarm now al).value ≤ now + al.period ∧ ((firedAlarm now al).value - al.value) % al.period = 0 := by
  have hdiv := Nat.div_add_mod (now - al.value) al.period
  have hmod := Nat.mod_lt (now - al.value) hperiod
  have hstep : ((now - al.value) / al.period + 1) * al.period = al.period * ((now - al.value) / al.period) + al.period := by
    ring
  have hvalue : (firedAlarm now al).value = al.value + ((now - al.value) / al.period + 1) * al.period := by
    unfold firedAlarm
    rw [if_neg (by omega)]
    exact Nat.mod_eq_of_lt (by omega)
  rw [hvalue]
  exact ⟨by omega, by omega, by rw [Nat.add_sub_cancel_left, Nat.mul_mod_left]⟩

/-! What each row does where PORST_N is high, or its register is served. -/

theorem exec_tbsLoad (h : served s 0x2010 = true) : exec (.tbsLoad v) s = .next (writeTbsCtrl v s) := by
  change live s _ = _
  rw [live_of (served_porst h), regWrite_of_served h]

theorem exec_tbsNowLoRead (h : served s 0x2000 = true) : exec .tbsNowLoRead s =
    .next (reply (.bar0 0x2000 (lo32 s.tbs.now)) (tbsReadEff 0x2000 s)) := by
  change live s _ = _
  rw [live_of (served_porst h), regRead_of_served h rfl]

theorem exec_tbsAlarmHiWrite (h : served s (0x2024 + 8 * a.val) = true) :
    exec (.tbsAlarmHiWrite a v) s = .next (writeAlarmHi a v s) := by
  change live s _ = _
  rw [live_of (served_porst h), regWrite_of_served h]

theorem exec_alarmFire (hp : s.porst = false) : exec (.alarmFire a) s = .next (fireAlarm a s) := by
  change execAlarmFire a s = _
  rw [execAlarmFire, live_of hp]

/-- A LO register takes a write of its whole DW. -/
theorem writeReg_alarmLo : writeReg (0x2020 + 8 * a.val) v s = some (writeAlarmLo a v s) := by
  fin_cases a <;> rfl

theorem registerWrite_alarmLo (h : served s (0x2020 + 8 * a.val) = true) :
    registerWrite (0x2020 + 8 * a.val) [(v, 0xF)] s = writeAlarmLo a v s := by
  have hpage : partResetAt (0x2020 + 8 * a.val) = none := by fin_cases a <;> rfl
  simp only [registerWrite, writeDw, ne_eq, not_true_eq_false, if_false, hpage, regWrite_of_served h, writeReg_alarmLo,
    Option.getD_some]

theorem exec_registerWrite_alarmLo (h : served s (0x2020 + 8 * a.val) = true) :
    exec (.registerWrite (0x2020 + 8 * a.val) [(v, 0xF)]) s = .next (writeAlarmLo a v s) := by
  change execRegisterWrite _ _ s = _
  have htotal : ∀ l, total (registerWrite (0x2020 + 8 * a.val) [(v, 0xF)] s) l ≤ total s l := fun l => by
    rw [registerWrite_alarmLo h]
    cases l <;> exact le_rfl
  rw [execRegisterWrite, live_of (served_porst h), standingChange_of_total htotal, registerWrite_alarmLo h]

end

/-- Settles O39: a LOAD by its two conditions, a HI write by the halves it joins, and ALARM_FIRE by the value that follows. -/
theorem alarmsAndLoads : Obligations.AlarmsAndLoads := by
  intro s hporst
  refine ⟨fun v hserved hload => ⟨fun hlock hset => ?_, fun hnot => ?_⟩, fun hserved => exec_tbsNowLoRead hserved,
    fun a v hserved => ⟨_, exec_tbsAlarmHiWrite hserved, rfl, ?_, fun b hb => alarms_set_ne hb⟩,
    fun a v hserved => ⟨_, exec_registerWrite_alarmLo hserved, rfl, alarms_set_same⟩,
    fun a => ⟨fun hidle => ?_, fun harmed hfresh hdue => ?_⟩⟩
  · rw [exec_tbsLoad hserved, writeTbsCtrl_of_load hload hlock hset]
  · exact ⟨_, exec_tbsLoad hserved, writeTbsCtrl_refused hload hnot,
      (congrArg State.tbs (writeTbsCtrl_refused hload hnot)).trans regRefused_tbs⟩
  · exact alarms_set_same.trans (by rw [setHi_stagedLo])
  · rw [exec_alarmFire hporst, fireAlarm_idle hidle]
  · refine ⟨_, exec_alarmFire hporst, ?_⟩
    have halarm : (fireAlarm a s).tbs.alarms[a] = firedAlarm s.tbs.now s.tbs.alarms[a] := by
      rw [fireAlarm_due harmed hfresh hdue]
      exact alarms_set_same
    rw [halarm, fireAlarm_due harmed hfresh hdue]
    refine ⟨firedAlarm_fired, rfl, by simp [occur, satAdd], firedAlarm_once, fun hperiod hroom => ?_⟩
    exact ⟨(firedAlarm_armed hperiod).trans harmed, firedAlarm_value hperiod hdue hroom⟩

end Sys2Proof.Proofs

namespace Sys2Proof.Proofs

/-! ### The clock monitors (R61, R63 to R68) -/

open Sys2Proof.Machine

section
variable {s t : State} {i j : Island} {count kind k n : ℕ} {v : Word}

/-! Work on one island after another. -/

/-- A fold over the islands `k` to `n + k - 1`, each step of which works on its own island alone: `R` is kept throughout, and
`P` holds of each of those islands at the end. -/
theorem foldl_islands {f : State → ℕ → State} {R : State → Prop} {P : Island → IslandSt → Prop} (hR : R s)
    (hstep : ∀ u m, m + k < 32 → R u → islOf u (Fin.ofNat 32 (m + k)) = islOf s (Fin.ofNat 32 (m + k)) →
      R (f u m) ∧ P (Fin.ofNat 32 (m + k)) (islOf (f u m) (Fin.ofNat 32 (m + k))) ∧
        ∀ j, j ≠ Fin.ofNat 32 (m + k) → islOf (f u m) j = islOf u j) (hn : n + k ≤ 32) :
    R ((List.range n).foldl f s) ∧ ∀ j : Island,
      (k ≤ j.val ∧ j.val < n + k → P j (islOf ((List.range n).foldl f s) j)) ∧
      (¬ (k ≤ j.val ∧ j.val < n + k) → islOf ((List.range n).foldl f s) j = islOf s j) := by
  induction n with
  | zero => exact ⟨hR, fun j => ⟨fun h => absurd h (by omega), fun _ => rfl⟩⟩
  | succ n ih =>
    obtain ⟨hRn, hislands⟩ := ih (by omega)
    have hval : (Fin.ofNat 32 (n + k)).val = n + k := Nat.mod_eq_of_lt (by omega)
    rw [List.range_succ, List.foldl_append, List.foldl_cons, List.foldl_nil]
    obtain ⟨hRs, hP, hothers⟩ := hstep _ n (by omega) hRn ((hislands _).2 (by omega))
    refine ⟨hRs, fun j => ?_⟩
    by_cases hj : j = Fin.ofNat 32 (n + k)
    · have hjn : j.val = n + k := hj ▸ hval
      exact ⟨fun _ => hj ▸ hP, fun hout => absurd ⟨by omega, by omega⟩ hout⟩
    · have hne : j.val ≠ n + k := fun e => hj (Fin.ext (e.trans hval.symm))
      rw [hothers j hj]
      exact ⟨fun h => (hislands j).1 (by omega), fun h => (hislands j).2 (by omega)⟩

/-! CLOCK_MONITOR_WINDOW (R63). -/

theorem setIsl_self : setIsl i (fun x => x) s = s := by simp [setIsl]

/-- What a window in range makes of its island. -/
def goodWindow (s : State) (i : Island) (count : ℕ) (x : IslandSt) : IslandSt :=
  if x.st ≠ .run then x
  else if x.fresh then { x with fresh := false, bad := false }
  else { x with meas := count * 2 / 5, target := targetMhz s i, bad := false }

theorem targetOf_setIsl {f : IslandSt → IslandSt} : targetOf (setIsl j f s) i = targetOf s i := rfl

theorem setIsl_setIsl {f g : IslandSt → IslandSt} : setIsl i g (setIsl i f s) = setIsl i (fun x => g (f x)) s := by
  simp [setIsl]

theorem windowOf_good {skip : Bool} (hrequal : (islOf s i).requal = none)
    (hjudge : islRuns s i = true → judge (targetOf s i) count = 0) :
    windowOf i count skip s = setIsl i (goodWindow s i count) s := by
  have hset {g : IslandSt → IslandSt} (h : goodWindow s i count (islOf s i) = g (islOf s i)) :
      setIsl i g s = setIsl i (goodWindow s i count) s := by
    unfold setIsl
    rw [show s.isl.each[i] = islOf s i from rfl, h]
  unfold windowOf
  by_cases hrun : (islOf s i).st = .run
  · have hzero : judge (targetOf s i) count = 0 := hjudge (by simp [islRuns, hrun])
    by_cases hfresh : (islOf s i).fresh = true
    · simp only [hrun, hfresh, bne_self_eq_false, Bool.false_and, Bool.false_eq_true, if_false, if_true]
      exact hset (by simp [goodWindow, hrun, hfresh])
    · simp only [hrun, hfresh, hrequal, targetOf_setIsl, hzero, bne_self_eq_false, Bool.false_and, Bool.false_eq_true,
        if_false, setIsl_setIsl]
      have hlast := hset (g := fun x => { x with meas := count * 2 / 5, target := targetMhz s i, bad := false })
        (by simp [goodWindow, hrun, hfresh])
      split
      · exact hlast
      · exact hlast
  · have hleft : (((islOf s i).st != .run) && !((islOf s i).requal.isSome && (islOf s i).ramped)) = true := by
      simp [hrun, hrequal]
    simp only [hleft, if_true]
    exact setIsl_self.symm.trans (hset (by simp [goodWindow, hrun]))

/-- `t` came from `s` by work on the states of single islands. -/
def OnlyIslands (s t : State) : Prop := t = { s with isl := { s.isl with each := t.isl.each } }

theorem OnlyIslands.setIsl {f : IslandSt → IslandSt} (h : OnlyIslands s t) : OnlyIslands s (setIsl i f t) := by
  unfold OnlyIslands Machine.setIsl
  rw [h]

theorem OnlyIslands.targetOf_eq (h : OnlyIslands s t) : targetOf t i = targetOf s i := by rw [h]; rfl

/-- A window in which every running island is in range. -/
theorem monitorWindow_good {counts : List ℕ} (hlen : counts.length = 32) (hlost : s.isl.refLost = false)
    (hgood : ∀ i : Island, (islOf s i).requal = none ∧
      (islRuns s i = true → judge (targetOf s i) (counts.getD i.val 0) = 0)) :
    ∃ u, OnlyIslands s u ∧ (∀ i, islOf u i = goodWindow s i (counts.getD i.val 0) (islOf s i)) ∧
      monitorWindow counts s = { u with isl := { u.isl with discard := false, spreadActive := u.isl.spread } } := by
  refine ⟨(List.range 32).foldl (fun u m => windowOf (Fin.ofNat 32 m) (counts.getD m 0) s.isl.discard u) s, ?_⟩
  obtain ⟨hframe, hislands⟩ := foldl_islands (s := s) (k := 0) (n := 32) (R := OnlyIslands s)
    (P := fun i x => x = goodWindow s i (counts.getD i.val 0) (islOf s i))
    (f := fun u m => windowOf (Fin.ofNat 32 m) (counts.getD m 0) s.isl.discard u) rfl
    (fun u m hm hu hsame => by
      obtain ⟨hrequal, hjudge⟩ := hgood (Fin.ofNat 32 m)
      have hm' : (Fin.ofNat 32 m).val = m := Nat.mod_eq_of_lt hm
      rw [hm'] at hjudge
      rw [Nat.add_zero] at hsame ⊢
      have hwindow : windowOf (Fin.ofNat 32 m) (counts.getD m 0) s.isl.discard u =
          setIsl (Fin.ofNat 32 m) (goodWindow u (Fin.ofNat 32 m) (counts.getD m 0)) u :=
        windowOf_good (by rw [hsame, hrequal]) fun hrun => by
          rw [hu.targetOf_eq]
          exact hjudge (by rwa [islRuns, hsame] at hrun)
      rw [hwindow]
      refine ⟨hu.setIsl, ?_, fun j hj => islOf_setIsl_ne (Ne.symm hj)⟩
      rw [islOf_setIsl, hsame, hm']
      simp only [goodWindow, targetMhz, hu.targetOf_eq]) le_rfl
  refine ⟨hframe, fun i => (hislands i).1 ⟨Nat.zero_le _, i.isLt⟩, ?_⟩
  unfold monitorWindow
  rw [if_neg (by simp [hlost, hlen])]

/-- A window out of range of an island that runs (R64): judged at once when the count is 0, else by the window before. -/
theorem windowOf_judged (h0 : i ≠ 0) (hrun : (islOf s i).st = .run) (hfresh : (islOf s i).fresh = false)
    (hrequal : (islOf s i).requal = none) : windowOf i count false s =
      (let s' := setIsl i (fun x => { x with meas := count * 2 / 5, target := targetMhz s i }) s
       let kind := judge (targetOf s i) count
       if kind = 1 ∨ (kind ≠ 0 ∧ (islOf s i).bad) then clockFault i kind s'
       else setIsl i (fun x => { x with bad := kind != 0 }) s') := by
  unfold windowOf
  simp only [hrun, hfresh, hrequal, targetOf_setIsl, bne_self_eq_false, Bool.false_and, Bool.false_eq_true, if_false,
    Bool.false_or, beq_eq_false_iff_ne.mpr h0]
  rfl

/-! The loss of REFCLK38 (R67, R508). -/

theorem loseContents_evc : (loseContents i s).evc = s.evc := by
  unfold loseContents
  split_ifs <;> rfl

theorem stopIsland_evc {st : IslSt} : (stopIsland i st s).evc = s.evc := by
  rw [stopIsland_eq]
  split
  · rfl
  · exact loseContents_evc

theorem stopIsland_faults {st : IslSt} : (stopIsland i st s).isl.fault = s.isl.fault := by
  rw [stopIsland_isl]
  rfl

/-- Every island but 0 stops in FAULT before the loss itself is noted. -/
theorem refLoss_islands (hlost : s.isl.refLost = false) :
    ∃ u, (∀ i : Island, i ≠ 0 → (islOf u i).st = .fault) ∧ islOf u 0 = islOf s 0 ∧ u.isl.fault = s.isl.fault ∧
      u.evc = s.evc ∧ refLoss kind s = occur 5 { u with
        isl := { u.isl with
          fault := u.isl.fault ||| 1, causeIsland := 0, causeKind := BitVec.ofNat 2 kind, refLost := true }
        tbs := { u.tbs with lock := .free }
        link := { u.link with up := false }
        hif := { u.hif with errWait := [] } } := by
  obtain ⟨⟨hfault, hevc⟩, hislands⟩ := foldl_islands (s := s) (k := 1) (n := 31)
    (R := fun u => u.isl.fault = s.isl.fault ∧ u.evc = s.evc) (P := fun _ x => x.st = .fault)
    (f := fun u m => setIsl (Fin.ofNat 32 (m + 1)) (fun x => { x with requal := none })
      (stopIsland (Fin.ofNat 32 (m + 1)) .fault u)) ⟨rfl, rfl⟩
    (fun u m _ hu _ => by
      obtain ⟨hstopped, hothers⟩ := stopIsland_islOf (i := Fin.ofNat 32 (m + 1)) (st := .fault) (s := u)
      refine ⟨⟨stopIsland_faults.trans hu.1, stopIsland_evc.trans hu.2⟩, ?_, fun j hj => ?_⟩
      · rw [islOf_setIsl]; exact hstopped
      · rw [islOf_setIsl_ne (Ne.symm hj), hothers j hj]) le_rfl
  refine ⟨_, fun i hi => (hislands i).1 ⟨?_, i.isLt⟩, (hislands 0).2 (by simp), hfault, hevc, ?_⟩
  · exact Nat.one_le_iff_ne_zero.mpr fun h => hi (Fin.ext h)
  · unfold refLoss
    rw [if_neg (by simp [hlost])]

/-- The fault of island 0 is shown, source 5 occurs, the time base runs free, and the link is down. -/
theorem refLoss_effect (hlost : s.isl.refLost = false) :
    (∀ i : Island, i ≠ 0 → (islOf (refLoss kind s) i).st = .fault) ∧ (islOf (refLoss kind s) 0).st = (islOf s 0).st ∧
      (refLoss kind s).isl.fault = s.isl.fault ||| 1 ∧ (refLoss kind s).isl.refLost = true ∧
      (refLoss kind s).link.up = false ∧ (refLoss kind s).tbs.lock = .free ∧ (refLoss kind s).hif.errWait = [] ∧
      (refLoss kind s).evc.count[5] = min 255 (s.evc.count[5] + 1) := by
  obtain ⟨u, hstopped, hzero, hfault, hevc, hloss⟩ := refLoss_islands (kind := kind) hlost
  rw [hloss, ← hfault, ← hzero, ← hevc]
  exact ⟨hstopped, rfl, rfl, rfl, rfl, rfl, rfl, by simp [occur, satAdd]⟩

/-- A count of 0 of island 0 acts as the loss of REFCLK38; one within 60 and 140 per cent clears the mark. -/
theorem aonCheck_stopped (hlost : s.isl.refLost = false) : aonCheck 0 s = refLoss 1 s := by
  simp [aonCheck, hlost]

theorem aonCheck_good (hlost : s.isl.refLost = false) (hlow : 60 * 768 ≤ 100 * count) (hhigh : 100 * count ≤ 140 * 768) :
    aonCheck count s = { s with isl := { s.isl with aonBad := false } } := by
  have hkind : (if count = 0 then 1 else if 100 * count < 60 * 768 then 2 else if 140 * 768 < 100 * count then 3 else 0) =
      0 := by
    rw [if_neg (by omega), if_neg (by omega), if_neg (by omega)]
  unfold aonCheck
  simp only [hlost, hkind]
  rfl

/-! ISL_FAULT and the re-qualification (R66). -/

/-- The register bit of an island. -/
theorem islandBit {m : ℕ} (hm : m < 32) : (BitVec.ofNat 32 (2 ^ i.val)).getLsbD m = decide (i.val = m) := by
  rw [BitVec.getLsbD_ofNat, Nat.testBit_two_pow, decide_eq_true hm, Bool.true_and]

/-- A write with a single 1 acts on that bit alone. -/
theorem writeIslFault_single : writeIslFault (BitVec.ofNat 32 (2 ^ i.val)) s = faultBit i.val s := by
  have hbit : ∀ m, m < 32 → ((BitVec.ofNat 32 (2 ^ i.val)).getLsbD m = true ↔ i.val = m) := fun m hm => by
    rw [islandBit hm, decide_eq_true_iff]
  have hfold : ∀ n, n ≤ 32 → (List.range n).foldl
      (fun s m => if (BitVec.ofNat 32 (2 ^ i.val)).getLsbD m then faultBit m s else s) s =
        if i.val < n then faultBit i.val s else s := fun n hn => by
    induction n with
    | zero => rfl
    | succ n ih =>
      rw [List.range_succ, List.foldl_append, ih (by omega), List.foldl_cons, List.foldl_nil]
      by_cases hi : i.val = n
      · rw [if_pos ((hbit n (by omega)).mpr hi), if_neg (by omega), if_pos (by omega), hi]
      · rw [if_neg (fun h => hi ((hbit n (by omega)).mp h))]
        exact if_congr (by omega) rfl rfl
  exact (hfold 32 le_rfl).trans (if_pos i.isLt)

/-- A 1 at the bit of a faulted island that can re-qualify begins its re-qualification. -/
theorem faultBit_requalifies (hcan : requalifies i.val = true) (hst : (islOf s i).st = .fault)
    (hnone : (islOf s i).requal = none) (hmute : muted s = false) (hlost : s.isl.refLost = false) :
    faultBit i.val s = setIsl i (fun x => { x with requal := some 4, ramped := false, bad := false }) s := by
  have h0 : i.val ≠ 0 := fun h => by rw [h] at hcan; exact absurd hcan (by decide)
  have hi : (Fin.ofNat 32 i.val : Island) = i := Fin.ofNat_val_eq_self i
  unfold faultBit
  simp only [hi]
  rw [if_neg h0, if_pos hcan, if_pos ⟨hst, by simp [hnone], by simp [hmute], by simp [hlost]⟩]

/-- The last good window of a re-qualification collapses the island and clears its bit. -/
theorem requalWindow_last : (islOf (requalWindow i 1 0 s) i).st = .collapsed ∧
    (requalWindow i 1 0 s).isl.fault.getLsbD i.val = false := by
  constructor
  · exact (stopIsland_islOf (st := .collapsed)).1
  · change ((stopIsland i .collapsed _).isl.fault &&& ~~~BitVec.ofNat 32 (2 ^ i.val)).getLsbD i.val = false
    rw [BitVec.getLsbD_and, BitVec.getLsbD_not, islandBit i.isLt]
    simp

/-! What each row does where PORST_N is high, or its register is served. -/

theorem exec_clockMonitorWindow {counts : List ℕ} (hp : s.porst = false) :
    exec (.clockMonitorWindow counts) s = .next (monitorWindow counts s) := by
  change execClockMonitorWindow counts s = _
  rw [execClockMonitorWindow, live_of hp]

theorem exec_aonClockCheckWindow (hp : s.porst = false) :
    exec (.aonClockCheckWindow count) s = .next (aonCheck count s) := by
  change execAonClockCheckWindow count s = _
  rw [execAonClockCheckWindow, live_of hp]

theorem exec_refclk38Loss (hp : s.porst = false) : exec .refclk38Loss s = .next (refLoss 1 s) := by
  change execRefclk38Loss s = _
  rw [execRefclk38Loss, live_of hp]

theorem exec_islFaultWrite (h : served s 0x2108 = true) : exec (.islFaultWrite v) s = .next (writeIslFault v s) := by
  change live s _ = _
  rw [live_of (served_porst h), regWrite_of_served h]

end

/-- Settles O35: the windows island by island, the loss of the reference by what stopping an island leaves, and ISL_FAULT by
its one bit. -/
theorem clockMonitoring : Obligations.ClockMonitoring := by
  intro s hporst
  refine ⟨fun counts hlen hlost hgood => ⟨_, exec_clockMonitorWindow hporst, ?_⟩, fun i count h0 hrun hfresh hrequal => ?_,
    fun count hlost hlow hhigh => ?_, fun hlost c hc => ?_, fun i hserved hcan hst hnone hmute hlost => ?_,
    fun i k hk => ?_⟩
  · obtain ⟨u, hframe, hislands, hwindow⟩ := monitorWindow_good hlen hlost hgood
    have hisl : ∀ i, islOf (monitorWindow counts s) i = goodWindow s i (counts.getD i.val 0) (islOf s i) := fun i => by
      rw [hwindow]
      exact hislands i
    refine ⟨?_, ?_, ?_, ?_, fun i => ?_⟩
    · rw [hwindow, hframe]
    · rw [hwindow, hframe]
    · rw [hwindow, hframe]
    · rw [hwindow]
    · rw [hisl, islRuns]
      unfold goodWindow
      by_cases hrun : (islOf s i).st = .run <;> by_cases hfresh : (islOf s i).fresh = true <;> simp [hrun, hfresh]
  · intro s'
    rw [windowOf_judged h0 hrun hfresh hrequal]
    refine ⟨fun hzero => ?_, fun hkind hbad => ?_, fun hkind hbad => ?_⟩
    · have hone : judge (targetOf s i) count = 1 := if_pos hzero
      simp only [hone, true_or, if_true]
      rfl
    · have hne : ¬ (judge (targetOf s i) count = 1 ∨ judge (targetOf s i) count ≠ 0 ∧ (islOf s i).bad = true) := by
        rw [hbad]; simp; omega
      have hbit : (judge (targetOf s i) count != 0) = true := bne_iff_ne.mpr (by omega)
      simp only [if_neg hne, hbit]
      rfl
    · exact if_pos (.inr ⟨by omega, hbad⟩)
  · rw [exec_aonClockCheckWindow hporst, aonCheck_good hlost hlow hhigh]
  · refine ⟨refLoss 1 s, ?_, refLoss_effect hlost⟩
    rcases hc with rfl | rfl
    · exact exec_refclk38Loss hporst
    · rw [exec_aonClockCheckWindow hporst, aonCheck_stopped hlost]
  · rw [exec_islFaultWrite hserved, writeIslFault_single, faultBit_requalifies hcan hst hnone hmute hlost]
  · refine ⟨?_, requalWindow_last⟩
    unfold requalWindow
    rw [if_neg (by simp), if_pos hk]

end Sys2Proof.Proofs

namespace Sys2Proof.Proofs

/-! ### What sending on the ensemble ports leaves alone (R425 to R430) -/

open Sys2Proof.Machine

section
variable {s t u : State} {n m : Port} {p : Packet} {c : Consumer} {g : Tag} {r : ErrRec} {k : ℕ}

/-- Every port expects the packet that it expected, and skips packets as it did. -/
def SameRx (s t : State) : Prop :=
  ∀ m, (portOf t m).rxSeq = (portOf s m).rxSeq ∧ (portOf t m).skipping = (portOf s m).skipping

theorem SameRx.trans (h : SameRx s t) (k : SameRx t u) : SameRx s u :=
  fun m => ⟨(k m).1.trans (h m).1, (k m).2.trans (h m).2⟩

theorem sameRx_of_ports (h : t.ens.ports = s.ens.ports) : SameRx s t := fun m => by
  unfold portOf
  rw [h]
  exact ⟨rfl, rfl⟩

/-- `t` came from `s` by sending: beside what left the device, the ports' sending sides, grants and requests, the injections of
Vibrato and the records of errors may differ. -/
structure Sends (s t : State) : Prop where
  frame : t = { s with
    brg := t.brg, hif := { t.hif with pages := s.hif.pages }, evc := t.evc, vib := t.vib, out := t.out
    ens := { s.ens with ports := t.ens.ports } }
  rx : SameRx s t

theorem Sends.refl : Sends s s := ⟨rfl, sameRx_of_ports rfl⟩

theorem Sends.trans (h : Sends s t) (k : Sends t u) : Sends s u := ⟨by rw [k.frame, h.frame], h.rx.trans k.rx⟩

theorem portOf_setPort {f : PortState → PortState} : portOf (setPort n f s) n = f (portOf s n) := by
  simp [portOf, setPort]

theorem portOf_setPort_ne {f : PortState → PortState} (h : m ≠ n) : portOf (setPort n f s) m = portOf s m := by
  have h' : n.val ≠ m.val := fun e => h (Fin.ext e.symm)
  simp [portOf, setPort, h']

theorem sameRx_setPort {f : PortState → PortState} (h : ∀ q, (f q).rxSeq = q.rxSeq ∧ (f q).skipping = q.skipping) :
    SameRx s (setPort n f s) := fun m => by
  by_cases hm : m = n
  · subst hm; rw [portOf_setPort]; exact h _
  · rw [portOf_setPort_ne hm]; exact ⟨rfl, rfl⟩

theorem Sends.setPort {f : PortState → PortState} (h : Sends s t)
    (hf : ∀ q, (f q).rxSeq = q.rxSeq ∧ (f q).skipping = q.skipping) : Sends s (setPort n f t) :=
  h.trans ⟨rfl, sameRx_setPort hf⟩

theorem Sends.send {x : Msg} (h : Sends s t) : Sends s (send x t) := h.trans ⟨rfl, sameRx_of_ports rfl⟩

/-- An error record enters the error queue or is lost, which is an occurrence of source 7. -/
theorem logErr_frame : logErr r s =
    { s with hif := { (logErr r s).hif with pages := s.hif.pages }, evc := (logErr r s).evc } := by
  unfold logErr
  split
  · rfl
  split
  · simp only [trimBacklog]
    split <;> rfl
  split <;> rfl

theorem logErr_ens : (logErr r s).ens = s.ens := by rw [logErr_frame]

theorem Sends.logErr (h : Sends s t) : Sends s (logErr r t) :=
  h.trans ⟨by rw [logErr_frame], sameRx_of_ports (by rw [logErr_ens])⟩

theorem Sends.setLedger {l : Ledger} {f : LedgerSt → LedgerSt} (h : Sends s t) : Sends s (setLedger l f t) :=
  h.trans (by cases l <;> exact ⟨rfl, sameRx_of_ports rfl⟩)

theorem Sends.request (h : Sends s t) : Sends s (request c g t) := by
  unfold Machine.request
  split
  · exact h
  · exact h.setLedger

theorem Sends.endGrant (h : Sends s t) : Sends s (endGrant c t) := by
  unfold Machine.endGrant
  exact h.setLedger

theorem Sends.applyInjection {i : ℕ} (h : Sends s t) : Sends s (applyInjection i t) := by
  unfold Machine.applyInjection
  exact .logErr (h.trans ⟨rfl, sameRx_of_ports rfl⟩)

theorem Sends.freeBuf {vc : Fin 2} (h : Sends s t) : Sends s (freeBuf n vc t) := by
  unfold Machine.freeBuf
  exact h.setPort fun _ => ⟨rfl, rfl⟩

theorem Sends.transmit (h : Sends s t) : Sends s (transmit n p t) := by
  unfold Machine.transmit
  extract_lets q p' hit t' vc
  have hinject : Sends s t' := by
    dsimp only [t']
    split
    · exact h.applyInjection
    · exact h
  exact .send (.setPort hinject fun _ => ⟨rfl, rfl⟩)

theorem Sends.replayOne {e : SentPkt} (h : Sends s t) : Sends s (replayOne n e t) := by
  unfold Machine.replayOne
  exact .send (.setPort h fun _ => ⟨rfl, rfl⟩)

theorem Sends.sendLocal (h : Sends s t) : Sends s (sendLocal n p t) := by
  unfold Machine.sendLocal
  exact .send (.setPort h fun _ => ⟨rfl, rfl⟩)

theorem Sends.drain (h : Sends s t) : Sends s (drain n k t) := by
  induction k generalizing t with
  | zero => exact h
  | succ k ih =>
    unfold Machine.drain
    split
    · exact h
    split
    · exact h
    · split
      · exact ih h.endGrant.replayOne
      · exact h.request
    · split
      · extract_lets t1 t2
        have hleft : Sends s t1 := h.endGrant.setPort fun _ => ⟨rfl, rfl⟩
        have hfreed : Sends s t2 := by
          dsimp only [t2]
          split
          · exact hleft.freeBuf
          · exact hleft
        exact ih hfreed.transmit
      · exact h.request

theorem Sends.enqueue {from_ : Option Port} (h : Sends s t) : Sends s (enqueue n from_ p t) := by
  unfold Machine.enqueue drainPort
  exact .drain (.setPort h fun _ => ⟨rfl, rfl⟩)

theorem Sends.originate (h : Sends s t) : Sends s (originate p t) := by
  unfold Machine.originate
  extract_lets r
  split
  · exact h.enqueue
  · exact h

theorem Sends.foldl {α : Type} {f : State → α → State} {l : List α} (h : Sends s t)
    (hf : ∀ u x, Sends s u → Sends s (f u x)) : Sends s (l.foldl f t) := by
  induction l generalizing t with
  | nil => exact h
  | cons x l ih => exact ih (hf t x h)

theorem Sends.toStages {sp : Split} {f : ℕ → Packet} (h : Sends s t) : Sends s (toStages sp f t) := by
  unfold Machine.toStages
  exact h.foldl fun _ _ hu => hu.originate

theorem Sends.sendAck {nak : Bool} (h : Sends s t) : Sends s (sendAck n nak t) := by
  unfold Machine.sendAck
  exact .sendLocal (.setPort h fun _ => ⟨rfl, rfl⟩)

theorem Sends.sendReach (h : Sends s t) : Sends s (sendReach t) := by
  unfold Machine.sendReach
  refine h.foldl fun u i hu => ?_
  dsimp only
  split
  · exact hu.enqueue
  · exact hu

end

end Sys2Proof.Proofs

namespace Sys2Proof.Proofs

/-! ### What the end of commands and passes leaves alone (R27, R200, R214) -/

open Sys2Proof.Machine

section
variable {s t u : State} {n : Port} {c : Cmd} {a : Part} {key id status detail : ℕ} {refused : Bool} {payload : List Byte}

/-- `t` came from `s` by the admission or the end of commands and passes: the ensemble link, the passes that run, the islands,
the time base, the score and memory are as they were. -/
def Settles (s t : State) : Prop :=
  t = { s with
    brg := t.brg, bsc := t.bsc, out := t.out, hif := t.hif, objs := t.objs, cmds := t.cmds, ctxs := t.ctxs
    models := t.models, jobs := t.jobs, early := t.early, strips := t.strips, str := t.str, nand := t.nand, evc := t.evc
    pwr := t.pwr, voices := t.voices }

theorem Settles.refl : Settles s s := rfl

theorem Settles.trans (h : Settles s t) (k : Settles t u) : Settles s u := by
  unfold Settles at *
  rw [k, h]

theorem Settles.ens_eq (h : Settles s t) : t.ens = s.ens := by rw [h]

theorem Settles.passes_eq (h : Settles s t) : t.passes = s.passes := by rw [h]

theorem Settles.foldl {α : Type} {f : State → α → State} {l : List α} (h : Settles s t)
    (hf : ∀ u x, Settles s u → Settles s (f u x)) : Settles s (l.foldl f t) := by
  induction l generalizing t with
  | nil => exact h
  | cons x l ih => exact ih (hf t x h)

theorem Settles.logErr {r : ErrRec} (h : Settles s t) : Settles s (logErr r t) := by
  refine h.trans ?_
  unfold Settles
  rw [logErr_frame]

/-! The end of a command. -/

theorem trimPages_frame : trimPages a key s = { s with objs := (trimPages a key s).objs } := by
  unfold trimPages
  split <;> rfl

theorem settleCtx_frame :
    settleCtx a key s = { s with objs := (settleCtx a key s).objs, ctxs := (settleCtx a key s).ctxs } := by
  unfold settleCtx
  split
  · rfl
  · next x _ =>
    cases x.st
    case live =>
      dsimp only
      rw [trimPages_frame]
      rfl
    all_goals rfl

/-- What a command held goes: objects, and its own session. -/
theorem releaseCmd_frame :
    releaseCmd c s = { s with objs := (releaseCmd c s).objs, ctxs := (releaseCmd c s).ctxs } := by
  unfold releaseCmd
  extract_lets busy t
  split
  · rfl
  split
  · rfl
  split
  · rw [settleCtx_frame]
    rfl
  split
  · rfl
  · rfl

/-- The command leaves the table. -/
theorem leave_frame : leave c s = { s with
    cmds := s.cmds.filter (·.id != c.id), objs := (leave c s).objs, ctxs := (leave c s).ctxs
    pwr := (leave c s).pwr } := by
  unfold leave
  extract_lets t
  have ht : t = { s with cmds := s.cmds.filter (·.id != c.id), objs := t.objs, ctxs := t.ctxs } :=
    releaseCmd_frame (s := { s with cmds := s.cmds.filter (·.id != c.id) })
  split
  · unfold markIdle
    rw [ht]
  · rw [ht]

theorem Settles.leave (h : Settles s t) : Settles s (leave c t) := by
  refine h.trans ?_
  unfold Settles
  rw [leave_frame]

theorem Settles.queueRec {r : CompRec} (h : Settles s t) : Settles s (queueRec a r t) := by
  unfold Machine.queueRec
  split
  · exact h
  · exact h.trans rfl

theorem Settles.settleEarly (h : Settles s t) : Settles s (settleEarly t) := by
  unfold Machine.settleEarly
  split
  · exact h
  · extract_lets gone named t1 bsc t2
    have hdropped : Settles s t1 := h.foldl fun _ _ hu => hu.trans rfl
    have hcounted : Settles s t2 := hdropped.trans rfl
    split
    · exact hcounted
    · exact hcounted.trans rfl

theorem Settles.finish (h : Settles s t) : Settles s (finish id status detail refused payload t) := by
  unfold Machine.finish
  split
  · exact h
  · next c _ =>
    extract_lets r t1 err t2
    have hended : Settles s t1 := by
      dsimp only [t1]
      split
      · exact h.leave
      · exact h.leave.queueRec
    have hlogged : Settles s t2 := by
      dsimp only [t2]
      split
      · exact hended.logErr
      · exact hended
    exact hlogged.settleEarly

theorem Settles.failCmd (h : Settles s t) : Settles s (failCmd id status detail t) := by
  unfold Machine.failCmd
  split
  · exact h
  · exact h.finish

theorem cmdOf_id (h : cmdOf s id = some c) : c.id = id := by simpa using List.find?_some h

theorem queueRec_cqWait {r : CompRec} (h : muted s = false) : ∃ held,
    (pageOf (queueRec a r s) a).cqWait = (pageOf s a).cqWait ++ [{ r with held := held }] := by
  unfold queueRec
  rw [if_neg (by simp [h]), pageOf_setPage]
  exact ⟨_, rfl⟩

theorem settleEarly_of_none (h : s.bsc.early = false) : settleEarly s = s := by
  unfold settleEarly
  exact if_pos (by simp [h])

/-- Outside MUTE and early service a command that is to have a record leaves the table, and its record joins its queue. -/
theorem finish_done (hc : cmdOf s id = some c) (hsilent : c.silent = false) (hmute : muted s = false)
    (hearly : s.bsc.early = false) :
    (finish id status detail refused payload s).cmds = s.cmds.filter (·.id != id) ∧ ∃ held,
      (pageOf (finish id status detail refused payload s) c.part).cqWait =
        (pageOf s c.part).cqWait ++ [{ recordOf s c status detail refused payload with held := held }] := by
  have hleave := leave_frame (c := c) (s := s)
  have hmuted : muted (leave c s) = false := by rw [hleave]; exact hmute
  obtain ⟨held, hrec⟩ :=
    queueRec_cqWait (a := c.part) (r := recordOf s c status detail refused payload) hmuted
  have hqueue : (queueRec c.part (recordOf s c status detail refused payload) (leave c s)).bsc = s.bsc ∧
      (queueRec c.part (recordOf s c status detail refused payload) (leave c s)).cmds = s.cmds.filter (·.id != id) := by
    unfold queueRec
    rw [if_neg (by simp [hmuted]), ← cmdOf_id hc]
    exact ⟨by rw [hleave]; rfl, by rw [hleave]; rfl⟩
  have hpage : pageOf (leave c s) c.part = pageOf s c.part := by rw [hleave]; rfl
  unfold finish
  simp only [hc, hsilent, Bool.false_eq_true, if_false]
  split
  · rw [settleEarly_of_none (by rw [logErr_frame]; exact (congrArg Bsc.early hqueue.1).trans hearly)]
    refine ⟨by rw [logErr_frame]; exact hqueue.2, held, ?_⟩
    rw [logErr_frame, ← hpage]
    exact hrec
  · rw [settleEarly_of_none ((congrArg Bsc.early hqueue.1).trans hearly), ← hpage]
    exact ⟨hqueue.2, held, hrec⟩

/-! The end of a pass. -/

/-- `t` came from `s` by the freeing of what a pass held. -/
def Frees (s t : State) : Prop :=
  t = { s with
    brg := t.brg, objs := t.objs, models := t.models, early := t.early, strips := t.strips, str := t.str, pwr := t.pwr
    voices := t.voices }

theorem Frees.refl : Frees s s := rfl

theorem Frees.trans (h : Frees s t) (k : Frees t u) : Frees s u := by
  unfold Frees at *
  rw [k, h]

theorem Frees.foldl {α : Type} {f : State → α → State} {l : List α} (h : Frees s t)
    (hf : ∀ u x, Frees s u → Frees s (f u x)) : Frees s (l.foldl f t) := by
  induction l generalizing t with
  | nil => exact h
  | cons x l ih => exact ih (hf t x h)

theorem Frees.endStall {i : Fin 64} (h : Frees s t) : Frees s (endStall i t) := by
  unfold Machine.endStall
  split
  · exact h
  · exact h.trans rfl

theorem Frees.endWindow {m : ModelRef} (h : Frees s t) : Frees s (endWindow m t) := by
  unfold Machine.endWindow
  split
  · exact h
  · extract_lets last t1
    have hstalls : Frees s t1 := h.foldl fun _ _ hu => hu.endStall
    cases m <;> exact hstalls.trans rfl

/-- The pass is gone with what it held; then the waits of its rows' commands are judged anew. -/
theorem endPass_frees {p : Pass} {halted : List Voice} :
    ∃ u, Frees { s with passes := s.passes.filter (·.model != p.model) } u ∧
      endPass p halted s = syncHolds (fun c => p.rows.any (·.cmd == c.id)) u := by
  unfold endPass
  extract_lets tag t1 t2
  have hwindow : Frees { s with passes := s.passes.filter (·.model != p.model) } t1 := (Frees.endWindow .refl).trans rfl
  have hobjs : Frees { s with passes := s.passes.filter (·.model != p.model) } t2 := hwindow.trans rfl
  have hvoices : Frees { s with passes := s.passes.filter (·.model != p.model) }
      (p.voices.foldl (fun s v => freeVoice ((halted ++ p.halted).contains v) v s) t2) :=
    hobjs.foldl fun _ _ hu => hu.trans rfl
  refine ⟨dropGrants (fun u t => u == .aperture || t == tag) _, ?_, rfl⟩
  exact hvoices.trans rfl

theorem endPass_settles {p : Pass} {halted : List Voice} :
    Settles { s with passes := s.passes.filter (·.model != p.model) } (endPass p halted s) := by
  obtain ⟨u, hu, hend⟩ := endPass_frees (s := s) (p := p) (halted := halted)
  rw [hend]
  have hsettled : Settles { s with passes := s.passes.filter (·.model != p.model) } u := by
    unfold Settles
    rw [hu]
  exact hsettled.trans rfl

end

end Sys2Proof.Proofs

namespace Sys2Proof.Proofs

/-! ### What the ends and admissions that a packet brings leave of the link (R432, R437 to R442) -/

open Sys2Proof.Machine

section
variable {s t u : State} {n : Port} {p : Packet} {c : Cmd} {h : Handle} {d id status detail key : ℕ} {a : Part} {q : Pass}
  {halted : List Voice}

/-- `t` came from `s` by sending and by the ends or admissions of commands and passes: of the link, the ports' sending sides,
the RESERVEs in progress and the count of destroyed contexts may differ. -/
structure Ends (s t : State) : Prop where
  ens : t.ens = { s.ens with ports := t.ens.ports, reserving := t.ens.reserving, destroyed := t.ens.destroyed }
  rx : SameRx s t

theorem Ends.refl : Ends s s := ⟨rfl, sameRx_of_ports rfl⟩

theorem Ends.trans (h : Ends s t) (k : Ends t u) : Ends s u := ⟨by rw [k.ens, h.ens], h.rx.trans k.rx⟩

theorem Sends.ends (h : Sends s t) : Ends s t := ⟨by rw [h.frame], h.rx⟩

theorem Settles.ends (h : Settles s t) : Ends s t := ⟨by rw [h.ens_eq], sameRx_of_ports (by rw [h.ens_eq])⟩

theorem Ends.foldl {α : Type} {f : State → α → State} {l : List α} (h : Ends s t)
    (hf : ∀ u x, Ends s u → Ends s (f u x)) : Ends s (l.foldl f t) := by
  induction l generalizing t with
  | nil => exact h
  | cons x l ih => exact ih (hf t x h)

/-! The end of a pass. -/

theorem Sends.tellStages (h : Sends s t) : Sends s (tellStages q status detail t) := by
  unfold Machine.tellStages
  split
  · extract_lets part
    split
    · exact h.toStages
    · exact h.originate
  · exact h

theorem Settles.failCmds {ids : List ℕ} (h : Settles s t) :
    Settles s (ids.foldl (fun t id => Machine.failCmd id status detail t) t) :=
  h.foldl fun _ _ hu => hu.failCmd

theorem endPass_passes : (endPass q halted s).passes = s.passes.filter (·.model != q.model) :=
  endPass_settles.passes_eq

/-- The pass no longer runs. -/
theorem passOf_none (h : s.passes = t.passes.filter (·.model != q.model)) : passOf s q.model = none := by
  simp [passOf, h]

theorem endPass_ends : Ends s (endPass q halted s) :=
  (show Ends s { s with passes := s.passes.filter (·.model != q.model) } from ⟨rfl, sameRx_of_ports rfl⟩).trans
    endPass_settles.ends

theorem Ends.abandonPass (h : Ends s t) : Ends s (abandonPass q status detail halted t) := by
  unfold Machine.abandonPass
  extract_lets t1
  have htold : Ends s t1 := (h.trans endPass_ends).trans (Sends.tellStages .refl).ends
  exact htold.trans (Settles.failCmds .refl).ends

theorem Ends.dropReserving (h : Ends s t) : Ends s (dropReserving id t) := by
  unfold Machine.dropReserving
  split
  · extract_lets ens t1
    have hdropped : Ends s t1 := h.trans ⟨rfl, sameRx_of_ports rfl⟩
    exact hdropped.foldl fun _ _ hu => hu.trans (Sends.originate .refl).ends
  · exact h

theorem Ends.destroyCtx (h : Ends s t) : Ends s (destroyCtx a key t) := by
  unfold Machine.destroyCtx
  extract_lets split_ t1
  have hdropped : Ends s t1 := h.trans (Settles.ends rfl)
  clear_value split_
  cases split_
  case none => exact hdropped
  case some sp =>
    dsimp only
    split
    · exact hdropped.trans (Sends.toStages .refl).ends
    · exact hdropped

/-- Of the link an unjoining changes, beside what the ends of its commands do, the one joined bit. -/
theorem unjoin_ends : Ends (setJoined h false s) (unjoin h status detail s) := by
  unfold unjoin
  extract_lets t1 t2 t3
  split
  · exact .refl
  · have hpass : Ends t1 t2 := by
      dsimp only [t2]
      split
      · exact Ends.refl.abandonPass
      · exact .refl
    have hcmds : Ends t1 t3 := by
      refine hpass.foldl fun u c hu => ?_
      exact hu.dropReserving.trans (Settles.finish .refl).ends
    refine hcmds.foldl fun u x hu => ?_
    exact hu.destroyCtx.trans ⟨rfl, sameRx_of_ports rfl⟩

/-! The reachable set (R432). -/

/-- `t` came from `s` without a change of the reachable set or of what the ports expect. -/
structure KeepsReach (s t : State) : Prop where
  reach : t.ens.reach = s.ens.reach
  rx : SameRx s t

theorem KeepsReach.refl : KeepsReach s s := ⟨rfl, sameRx_of_ports rfl⟩

theorem KeepsReach.trans (h : KeepsReach s t) (k : KeepsReach t u) : KeepsReach s u :=
  ⟨k.reach.trans h.reach, h.rx.trans k.rx⟩

theorem Ends.keepsReach (h : Ends s t) : KeepsReach s t := ⟨by rw [h.ens], h.rx⟩

theorem KeepsReach.foldl {α : Type} {f : State → α → State} {l : List α} (h : KeepsReach s t)
    (hf : ∀ u x, KeepsReach s u → KeepsReach s (f u x)) : KeepsReach s (l.foldl f t) := by
  induction l generalizing t with
  | nil => exact h
  | cons x l ih => exact ih (hf t x h)

theorem KeepsReach.setJoined {b : Bool} (k : KeepsReach s t) : KeepsReach s (setJoined h b t) :=
  k.trans ⟨rfl, sameRx_of_ports rfl⟩

theorem KeepsReach.unjoin (k : KeepsReach s t) : KeepsReach s (unjoin h status detail t) :=
  k.setJoined.trans unjoin_ends.keepsReach

theorem KeepsReach.logErr {r : ErrRec} (k : KeepsReach s t) : KeepsReach s (logErr r t) :=
  k.trans (Sends.logErr .refl).ends.keepsReach

theorem KeepsReach.loseDevice (k : KeepsReach s t) : KeepsReach s (loseDevice d t) := by
  unfold Machine.loseDevice
  exact .logErr (k.trans ⟨rfl, sameRx_of_ports rfl⟩)

theorem KeepsReach.findDevice (k : KeepsReach s t) : KeepsReach s (findDevice d t) := by
  unfold Machine.findDevice
  refine k.logErr.foldl fun u i hu => ?_
  dsimp only
  split
  · split
    · exact hu.trans (Sends.originate .refl).ends.keepsReach
    · exact hu
  · exact hu

theorem KeepsReach.settleJoins (k : KeepsReach s t) : KeepsReach s (settleJoins t) := by
  unfold Machine.settleJoins
  refine k.foldl fun u i hu => ?_
  dsimp only
  split
  · exact hu
  · split
    · split
      · exact hu.unjoin
      · exact hu
    · exact hu.setJoined

/-- The reachable set becomes the new one, whatever follows from it. -/
theorem setReach_spec {new : BitVec 256} : (setReach new s).ens.reach = new ∧ SameRx s (setReach new s) := by
  unfold setReach
  extract_lets old ds ens t1 t2
  split
  · next hnew => exact ⟨hnew.symm, sameRx_of_ports rfl⟩
  · have hdevices : KeepsReach t1 t2 := by
      refine KeepsReach.refl.foldl fun u d hu => ?_
      split
      · exact hu.findDevice
      · exact hu.loseDevice
    have hall : KeepsReach t1 (Machine.settleJoins (Machine.sendReach t2)) :=
      (hdevices.trans (Sends.sendReach .refl).ends.keepsReach).settleJoins
    exact ⟨hall.reach, SameRx.trans (sameRx_of_ports rfl) hall.rx⟩

/-! Admission (R211, R439). -/

theorem Settles.sendReads {k : ℕ} (h : Settles s t) : Settles s (sendReads id k t) := by
  induction k generalizing t with
  | zero => exact h
  | succ k ih =>
    unfold Machine.sendReads
    split
    · exact h
    · extract_lets m
      split
      · exact h
      · exact ih (h.trans rfl)

theorem Settles.accessFault {at_ : ℕ} (h : Settles s t) : Settles s (accessFault c at_ t) := by
  unfold Machine.accessFault
  exact h.logErr.failCmd

theorem Settles.request {x : Consumer} {g : Tag} (h : Settles s t) : Settles s (request x g t) := by
  unfold Machine.request
  split
  · exact h
  · cases ledgerOf x <;> exact h.trans rfl

theorem Settles.want {at_ len : ℕ} (h : Settles s t) : Settles s (want id at_ len t) := by
  have hwanted := h.trans (u := setCmd id (fun c => { c with
    input := [], inAddr := at_, inWant := len, inAsked := 0, attempt := 0 }) t) rfl
  unfold Machine.want askInput
  split
  · exact hwanted
  · extract_lets first
    split
    · exact hwanted
    split
    · exact hwanted.accessFault
    split
    · exact hwanted
    split
    · exact hwanted.request
    · exact hwanted.sendReads

theorem Settles.enterCtx (h : Settles s t) : Settles s (enterCtx c t) := by
  unfold Machine.enterCtx
  split
  · exact h
  · extract_lets fresh t1 t2 binds t3 d t4 x
    have hmade : Settles s t1 := by
      dsimp only [t1]
      split
      · exact h.trans rfl
      · exact h
    have hmarked : Settles s t2 := by
      dsimp only [t2]
      split
      · exact hmade.trans rfl
      · exact hmade
    split
    · exact hmarked.trans rfl
    · exact hmarked

theorem Settles.beginLoad {j : Job} (h : Settles s t) : Settles s (beginLoad j t) := by
  unfold Machine.beginLoad
  extract_lets m rev hold t1 t2
  have hjobs : Settles s t1 := h.trans rfl
  have hmodel : Settles s t2 := by
    dsimp only [t2]
    split
    · exact hjobs.trans rfl
    split
    · exact hjobs.trans rfl
    · exact hjobs
  split
  · extract_lets t3 t4
    have hruns : Settles s t4 := by
      dsimp only [t4]
      split
      · exact hmodel.trans rfl
      · exact hmodel.trans rfl
    split
    · exact hruns.want
    · exact hruns
  · exact hmodel

theorem Settles.start (h : Settles s t) : Settles s (start id t) := by
  unfold Machine.start
  split
  · exact h
  · extract_lets t1
    have hclaimed : Settles s t1 := by
      dsimp only [t1]
      unfold claimSlot
      split_ifs <;> exact h.enterCtx.trans rfl
    split
    · exact hclaimed.beginLoad
    · exact hclaimed

theorem Settles.enterDefer {r : ℕ} {judged : Bool} (h : Settles s t) : Settles s (enterDefer c r judged t) := by
  unfold Machine.enterDefer noteDefer
  extract_lets t1 t2
  split
  · exact h.trans rfl
  · exact h.trans rfl

theorem Sends.releasePeers (h : Sends s t) : Sends s (releasePeers id t) := by
  unfold Machine.releasePeers
  split
  · exact h
  · split
    · split
      · exact h.toStages
      · exact h
    · exact h

theorem Ends.refuse (h : Ends s t) : Ends s (refuse id status detail t) := by
  unfold Machine.refuse
  exact (h.trans (Sends.releasePeers .refl).ends).trans (Settles.finish .refl).ends

theorem Ends.defer {r : ℕ} {judged : Bool} (h : Ends s t) : Ends s (defer c r judged t) := by
  unfold Machine.defer
  split
  · exact h.trans (Settles.enterDefer .refl).ends
  · extract_lets v t1
    have hrefused : Ends s t1 := h.refuse
    split
    · exact hrefused
    · exact hrefused.trans (Settles.enterDefer .refl).ends

theorem Ends.decide_ (h : Ends s t) : Ends s (decide_ id t) := by
  unfold Machine.decide_
  split
  · exact h
  · extract_lets r b
    clear_value b
    split
    · exact h.refuse
    split
    · exact h.refuse
    split
    · exact h.trans (Settles.start .refl).ends
    split
    · split
      · exact h.refuse
      · exact h.refuse
    · exact h.defer

theorem Sends.releaseStages {asked : List ℕ} (h : Sends s t) : Sends s (releaseStages c asked t) := by
  unfold Machine.releaseStages
  exact h.foldl fun _ _ hu => hu.originate

theorem Ends.settleReserve {r : Reserving} (h : Ends s t) : Ends s (settleReserve r t) := by
  unfold Machine.settleReserve
  split
  · exact h
  · extract_lets ens t1 t2
    have hsettled : Ends s t1 := h.trans ⟨rfl, sameRx_of_ports rfl⟩
    split
    · exact (hsettled.trans (Sends.releaseStages .refl).ends).refuse
    · have hdecided : Ends s t2 := hsettled.decide_
      split
      · exact hdecided.trans (Sends.releaseStages .refl).ends
      · exact hdecided

end

end Sys2Proof.Proofs

namespace Sys2Proof.Proofs

/-! ### A routed packet that arrives (R426, R430) -/

open Sys2Proof.Machine

section
variable {s t u : State} {n : Port} {p : Packet} {k : State → State} {m : ℕ}

/-- The port has taken a packet in order. -/
def taken (n : Port) (s : State) : State :=
  setPort n (fun q => { q with
    rxSeq := (q.rxSeq + 1) % 4096, rxNew := q.rxNew + 1, skipping := false, lastRx := s.clk }) s

theorem taken_out : (taken n s).out = s.out := rfl

/-- The port has taken a packet in order and freed its buffer. -/
def arrived (n : Port) (p : Packet) (s : State) : State := freeBuf n (vcOf p) (taken n s)

theorem portOf_arrived : (portOf (arrived n p s) n).rxSeq = ((portOf s n).rxSeq + 1) % 4096 ∧
    (portOf (arrived n p s) n).skipping = false ∧ (portOf (arrived n p s) n).rxNew = (portOf s n).rxNew + 1 := by
  unfold arrived freeBuf taken
  rw [portOf_setPort, portOf_setPort]
  exact ⟨rfl, rfl, by simp⟩

theorem arrived_neighbour : (portOf (arrived n p s) n).neighbour = (portOf s n).neighbour := by
  unfold arrived freeBuf taken
  rw [portOf_setPort, portOf_setPort]

theorem receive_arrives (ha : Spec.arrives s n p) : receive n p k s =
    let t := if p.dst = deviceNo s then k (arrived n p s) else forward n p (taken n s)
    if 16 ≤ (portOf t n).rxNew then sendAck n false t else t := by
  obtain ⟨-, hactive, hform, hseq, -⟩ := ha
  unfold receive
  rw [if_neg (by simp [hactive]), if_neg (by simp [hform]), if_neg (by simp [hseq])]
  rfl

/-- A packet for this device is consumed; at most an ACK follows. -/
theorem receive_own (ha : Spec.arrives s n p) (hd : p.dst = deviceNo s) :
    Sends (k (arrived n p s)) (receive n p k s) := by
  rw [receive_arrives ha, if_pos hd]
  dsimp only
  split
  · exact Sends.refl.sendAck
  · exact .refl

theorem receiveCtrl_of (ht : p.type = 2) (hm : byteAt p.arg 0 = m ∨ ¬ (1 ≤ byteAt p.arg 0 ∧ byteAt p.arg 0 ≤ 10)) :
    receiveCtrl n p m k s = receive n p (fun s => if byteAt p.arg 0 = m then k s else dropPacket n p 4 s) s := by
  have hlisted : ¬ (p.type ≠ 2 ∨ (byteAt p.arg 0 ≠ m ∧ listedMsg (byteAt p.arg 0) = true)) := by
    simp only [listedMsg, Bool.and_eq_true, decide_eq_true_eq]
    omega
  unfold receiveCtrl
  rw [if_neg hlisted]

theorem receiveCtrl_own (ha : Spec.arrives s n p) (hd : p.dst = deviceNo s) (ht : p.type = 2) (hm : byteAt p.arg 0 = m) :
    Sends (k (arrived n p s)) (receiveCtrl n p m k s) := by
  have h := receive_own (k := fun s => if byteAt p.arg 0 = m then k s else dropPacket n p 4 s) ha hd
  simp only [hm, if_true] at h
  rw [receiveCtrl_of ht (.inl hm)]
  simpa only [hm, if_true] using h

/-- What a port expects after it has taken a packet whose handler leaves that alone. -/
theorem rx_of_arrived (h : SameRx (arrived n p s) t) (k : Sends t u) :
    (portOf u n).rxSeq = ((portOf s n).rxSeq + 1) % 4096 ∧ (portOf u n).skipping = false := by
  obtain ⟨hseq, hskip, -⟩ := portOf_arrived (s := s) (n := n) (p := p)
  have hall := (h.trans k.rx) n
  exact ⟨hall.1.trans hseq, hall.2.trans hskip⟩

/-! Discards (R430). -/

/-- A discard is counted with its reason; the record of it leaves the link alone. -/
theorem dropPacket_frame {why : ℕ} : (dropPacket n p why s).out = s.out ∧
    (dropPacket n p why s).ens =
      { s.ens with dropCount := min 65535 (s.ens.dropCount + 1), dropReason := why } := by
  unfold dropPacket
  rw [logErr_frame]
  exact ⟨rfl, rfl⟩

/-- An unlisted message is discarded with reason 4. -/
theorem receiveCtrl_unlisted (ha : Spec.arrives s n p) (hd : p.dst = deviceNo s) (ht : p.type = 2)
    (hm : byteAt p.arg 0 ≠ m) (hu : ¬ (1 ≤ byteAt p.arg 0 ∧ byteAt p.arg 0 ≤ 10)) :
    (receiveCtrl n p m k s).ens.dropCount = min 65535 (s.ens.dropCount + 1) ∧
      (receiveCtrl n p m k s).ens.dropReason = 4 := by
  have h := receive_own (k := fun s => if byteAt p.arg 0 = m then k s else dropPacket n p 4 s) ha hd
  rw [receiveCtrl_of ht (.inr hu), h.frame]
  simp only [hm, if_false]
  rw [dropPacket_frame.2]
  exact ⟨rfl, rfl⟩

/-- The first reason of R430 that holds of a packet for another device. -/
theorem routeFail_of {why : ℕ} (hw : (p.ttl ≤ 1 ∧ why = 1) ∨ (1 < p.ttl ∧ routeOf s p.dst = 0xFF ∧ why = 2) ∨
    (1 < p.ttl ∧ (∃ m : Port, routeOf s p.dst = m.val ∧ portActive s m = false) ∧ why = 3)) :
    routeFail s p = some why := by
  unfold routeFail
  dsimp only
  obtain ⟨httl, rfl⟩ | ⟨httl, hroute, rfl⟩ | ⟨httl, ⟨m, hroute, hdown⟩, rfl⟩ := hw
  · rw [if_pos httl]
  · rw [if_neg (by omega), if_pos hroute]
  · have hm : Fin.ofNat 4 (routeOf s p.dst) = m := by
      apply Fin.ext
      rw [hroute]
      exact Nat.mod_eq_of_lt m.isLt
    rw [if_neg (by omega), if_neg (by omega), if_pos (.inr (by rw [hm, hdown]; rfl))]

theorem portActive_taken {i : Port} : portActive (taken n s) i = portActive s i := by
  unfold taken portActive
  by_cases hi : i = n
  · subst hi; rw [portOf_setPort]; rfl
  · rw [portOf_setPort_ne hi]; rfl

theorem routeFail_taken : routeFail (taken n s) p = routeFail s p := by
  unfold routeFail
  simp only [portActive_taken]
  rfl

theorem receive_other (ha : Spec.arrives s n p) (hd : p.dst ≠ deviceNo s) {why : ℕ} (hw : routeFail s p = some why) :
    receive n p k s = dropPacket n p why (arrived n p s) := by
  have hnew : (portOf (dropPacket n p why (arrived n p s)) n).rxNew = (portOf s n).rxNew + 1 := by
    unfold portOf
    rw [dropPacket_frame.2]
    exact portOf_arrived.2.2
  have hforward : forward n p (taken n s) = dropPacket n p why (arrived n p s) := by
    rw [forward, routeFail_taken, hw]
    rfl
  have hroom := ha.2.2.2.2
  rw [receive_arrives ha, if_neg hd, hforward]
  exact if_neg (by omega)

/-! Forwarding (R425, R430). -/

theorem drain_of_none {i : ℕ} (h : nextOut (portOf s n) = none) : drain n i s = s := by
  cases i with
  | zero => rfl
  | succ i =>
    rw [drain, h]
    split <;> rfl

theorem nextOut_of_quiet {q : PortState} (hd : ∀ e ∈ q.unacked, e.due = false) (hq : q.queue = []) :
    nextOut q = none := by
  have hnone : q.unacked.find? (·.due) = none := by simpa using hd
  simp [nextOut, hnone, hq]

theorem nextOut_of_queued {q : PortState} {e : Option Port × Packet} (hd : ∀ e ∈ q.unacked, e.due = false)
    (hq : q.queue = [e]) (hv : vcOf e.2 = 0) (hc : hasCredit q 0 = true) : nextOut q = some (.inr e) := by
  have hnone : q.unacked.find? (·.due) = none := by simpa using hd
  simp [nextOut, hnone, hq, hv, hc]

theorem portOf_send {x : Msg} : portOf (send x s) n = portOf s n := rfl

/-- Without a run of Vibrato the packet leaves as it is, with the next SEQ, and waits for its acknowledgement. -/
theorem transmit_of_quiet (h : s.vib.runFrom = none) :
    (transmit n p s).out = .packet n { p with seq := (portOf s n).txSeq } false :: s.out ∧
      (portOf (transmit n p s) n).queue = (portOf s n).queue ∧
      (∃ e, e.due = false ∧ (portOf (transmit n p s) n).unacked = (portOf s n).unacked ++ [e]) ∧
      ∀ i, i ≠ n → portOf (transmit n p s) i = portOf s i := by
  have hmiss : opportunity 5 (fun u => u == n.val) s = false := by simp [opportunity, h]
  unfold transmit
  simp only [hmiss, Bool.false_eq_true, if_false]
  refine ⟨rfl, ?_, ?_, fun i hi => ?_⟩
  · rw [portOf_send, portOf_setPort]
  · rw [portOf_send, portOf_setPort]
    refine ⟨_, ?_, rfl⟩
    rfl
  · rw [portOf_send, portOf_setPort_ne hi]

/-- A packet has joined the queue of the port `i` and has left it for the wire, and its buffer at `n` is free. -/
def departing (n i : Port) (p : Packet) (s : State) : State :=
  freeBuf n (vcOf p) (setPort i (fun q => { q with queue := q.queue.erase (some n, p) })
    (endGrant (.port i) (setPort i (fun q => { q with queue := q.queue ++ [(some n, p)] }) s)))

theorem portOf_endGrant {c : Consumer} : portOf (endGrant c s) n = portOf s n := by
  unfold endGrant setLedger
  cases ledgerOf c <;> rfl

theorem departing_out {i : Port} : (departing n i p s).out = s.out := rfl

theorem portOf_departing {i : Port} (hi : n ≠ i) (hq : (portOf s i).queue = []) :
    portOf (departing n i p s) i = portOf s i ∧ (portOf (departing n i p s) n).rxNew = max 1 (portOf s n).rxNew := by
  unfold departing freeBuf
  refine ⟨?_, ?_⟩
  · rw [portOf_setPort_ne (Ne.symm hi), portOf_setPort, portOf_endGrant, portOf_setPort]
    cases hp : portOf s i
    rw [hp] at hq
    cases hq
    simp
  · rw [portOf_setPort, portOf_setPort_ne hi, portOf_endGrant, portOf_setPort_ne hi]

/-- A CTRL packet that is forwarded by a port with nothing to send, a credit and the grant goes out at once. -/
theorem enqueue_of_quiet {i : Port} (hi : n ≠ i) (hactive : portActive s i = true) (hq : (portOf s i).queue = [])
    (hd : ∀ e ∈ (portOf s i).unacked, e.due = false) (hc : hasCredit (portOf s i) 0 = true)
    (hg : holdsGrant s (.port i) = true) (hv : vcOf p = 0) (hrun : s.vib.runFrom = none) :
    enqueue i (some n) p s = transmit i p (departing n i p s) := by
  have hport : portOf (setPort i (fun q => { q with queue := q.queue ++ [(some n, p)] }) s) i =
      { portOf s i with queue := [(some n, p)] } := by rw [portOf_setPort, hq]; rfl
  have hnext : nextOut (portOf (setPort i (fun q => { q with queue := q.queue ++ [(some n, p)] }) s) i) =
      some (.inr (some n, p)) := by
    rw [hport]
    exact nextOut_of_queued hd rfl hv hc
  have hactive' : portActive (setPort i (fun q => { q with queue := q.queue ++ [(some n, p)] }) s) i = true := by
    unfold portActive
    rw [hport]
    exact hactive
  obtain ⟨-, hqueue, ⟨e, he, hunacked⟩, -⟩ := transmit_of_quiet (n := i) (p := p) (s := departing n i p s) hrun
  obtain ⟨hsame, -⟩ := portOf_departing (p := p) hi hq
  unfold enqueue drainPort
  rw [hport, List.length_singleton, Nat.add_comm, drain, hactive', hnext]
  dsimp only
  rw [if_neg (by simp), if_pos (by exact hg)]
  refine drain_of_none (nextOut_of_quiet (fun x hx => ?_) (hqueue.trans (by rw [hsame, hq])))
  have hx' : x ∈ (portOf s i).unacked ++ [e] := by rw [← hsame, ← hunacked]; exact hx
  rcases List.mem_append.1 hx' with hx' | hx'
  · exact hd x hx'
  · rw [List.mem_singleton.1 hx', he]

/-- Forwarding of a CTRL packet by such a port: it goes out with TTL one lower and the port's next SEQ. -/
theorem receive_forwarded (ha : Spec.arrives s n p) (hd : p.dst ≠ deviceNo s) (ht : p.type = 2) {i : Port}
    (httl : 1 < p.ttl) (hr : routeOf s p.dst = i.val) (hi : i ≠ n) (hactive : portActive s i = true)
    (hq : (portOf s i).queue = []) (hdue : ∀ e ∈ (portOf s i).unacked, e.due = false)
    (hc : hasCredit (portOf s i) 0 = true) (hg : holdsGrant s (.port i) = true) (hrun : s.vib.runFrom = none) :
    (receive n p k s).out = .packet i { p with ttl := p.ttl - 1, seq := (portOf s i).txSeq } false :: s.out ∧
      (receive n p k s).ens.dropCount = s.ens.dropCount := by
  have hto : Fin.ofNat 4 (routeOf s p.dst) = i := Fin.ext (by rw [hr]; exact Nat.mod_eq_of_lt i.isLt)
  have hpass : routeFail s p = none := by
    unfold routeFail
    dsimp only
    rw [hto, hactive, if_neg (by omega), if_neg (by omega), if_neg (by simp; omega)]
  have hsame : portOf (taken n s) i = portOf s i := portOf_setPort_ne hi
  have hforward : forward n p (taken n s) = enqueue i (some n) { p with ttl := p.ttl - 1 } (taken n s) := by
    rw [forward, routeFail_taken, hpass, ← hto]
    rfl
  have hsent : Sends (taken n s) (forward n p (taken n s)) := by
    rw [hforward]
    exact Sends.refl.enqueue
  rw [enqueue_of_quiet (s := taken n s) hi.symm (by rw [portActive_taken]; exact hactive) (by rw [hsame]; exact hq)
    (by rw [hsame]; exact hdue) (by rw [hsame]; exact hc) hg (by simp [vcOf, ht]) hrun] at hforward
  obtain ⟨hport, hnew⟩ :=
    portOf_departing (s := taken n s) (p := { p with ttl := p.ttl - 1 }) hi.symm (by rw [hsame]; exact hq)
  obtain ⟨hout, -, -, hothers⟩ := transmit_of_quiet (n := i) (p := { p with ttl := p.ttl - 1 })
    (s := departing n i { p with ttl := p.ttl - 1 } (taken n s)) hrun
  have hfew : ¬ 16 ≤ (portOf (forward n p (taken n s)) n).rxNew := by
    have hroom := ha.2.2.2.2
    rw [hforward, hothers n hi.symm, hnew, taken, portOf_setPort]
    dsimp only
    omega
  rw [receive_arrives ha, if_neg hd]
  dsimp only
  rw [if_neg hfew]
  refine ⟨?_, ?_⟩
  · rw [hforward, hout, hport, hsame, departing_out, taken_out]
  · rw [hsent.frame]
    rfl

end

end Sys2Proof.Proofs

namespace Sys2Proof.Proofs

/-! ### What each CTRL and DATA packet does at its destination (R432, R437 to R442) -/

open Sys2Proof.Machine

section
variable {s t : State} {n : Port} {p : Packet} {c : Cmd} {h : Handle} {key : ℕ} {a : Part} {q : Pass} {x : Ctx}

/-! DATA (R438). -/

theorem splitHandle_lt {i : ℕ} {sp : Split} (hs : splitHandle s i a = some sp) : i < 64 := by
  by_contra hge
  rw [splitHandle, if_pos (by omega)] at hs
  cases hs

/-- The piece stands in the one block of the handle, which is the block of its pass. -/
theorem dataIn_block {sp : Split} (hs : splitHandle s (byteAt p.arg 0) (pktPart p) = some sp) :
    ∃ b, b ∈ (dataIn p s).ens.blocks ∧ b.h.val = byteAt p.arg 0 ∧ b.num = le p.arg 2 2 ∧
      (le p.arg 4 4, p.payload) ∈ b.data ∧ ∀ x ∈ (dataIn p s).ens.blocks, x.h = b.h → x = b := by
  simp only [dataIn, hs]
  refine ⟨_, List.mem_append_right _ (List.mem_singleton_self _), Nat.mod_eq_of_lt (splitHandle_lt hs), rfl,
    List.mem_append_right _ (List.mem_singleton_self _), fun x hx hsame => ?_⟩
  rcases List.mem_append.1 hx with hx | hx
  · simp only [List.mem_filter, bne_iff_ne] at hx
    exact absurd hsame hx.2
  · exact List.mem_singleton.1 hx

/-! JOIN (R437). -/

theorem setJoined_bit {b : Bool} : (setJoined h b s).ens.joined.getLsbD h.val = b := by
  have hbit : (BitVec.ofNat 64 (2 ^ h.val)).getLsbD h.val = true := by
    rw [BitVec.getLsbD_ofNat, Nat.testBit_two_pow_self]
    simp
  cases b
  · change (s.ens.joined &&& ~~~(BitVec.ofNat 64 (2 ^ h.val))).getLsbD h.val = false
    rw [BitVec.getLsbD_and, BitVec.getLsbD_not, hbit]
    simp
  · change (s.ens.joined ||| BitVec.ofNat 64 (2 ^ h.val)).getLsbD h.val = true
    rw [BitVec.getLsbD_or, hbit, Bool.or_true]

theorem judgeJoin_ens {r : JoinRep} : (judgeJoin h r s).ens = s.ens := by
  unfold judgeJoin
  split
  · rfl
  · exact logErr_ens

theorem joinIn_rx : SameRx s (joinIn p s) := by
  unfold joinIn
  split
  · exact sameRx_of_ports rfl
  · extract_lets i st r ens t
    have hreported : KeepsReach s t := ⟨rfl, sameRx_of_ports rfl⟩
    refine KeepsReach.rx ?_
    split
    · refine (hreported.trans ?_).setJoined
      exact ⟨by rw [judgeJoin_ens], sameRx_of_ports (by rw [judgeJoin_ens])⟩
    split
    · exact hreported
    split
    · exact hreported.unjoin
    · exact hreported.setJoined

theorem joinIn_report (hh : byteAt p.arg 4 = h.val) : ∃ r, r ∈ (joinIn p s).ens.joins ∧ r.device = p.src ∧ r.h = h ∧
    r.state = byteAt p.arg 5 ∧ r.record = slice p.payload 0 64 ∧
    (joinIn p s).ens.joined.getLsbD h.val = ((r.state == 2 || r.state == 3) && joinedNow (joinIn p s) h) := by
  have hto : Fin.ofNat 64 (byteAt p.arg 4) = h := Fin.ext (by rw [hh]; exact Nat.mod_eq_of_lt h.isLt)
  unfold joinIn
  rw [if_neg (by have := h.isLt; omega)]
  extract_lets i st r ens t
  have hi : i = h := hto
  clear_value i
  subst hi
  have hr : r ∈ t.ens.joins := List.mem_append_right _ (List.mem_singleton_self _)
  refine ⟨r, ?_, rfl, rfl, rfl, rfl, ?_⟩
  · split
    · change r ∈ (judgeJoin i r t).ens.joins
      rw [judgeJoin_ens]
      exact hr
    split
    · exact hr
    split
    · rw [unjoin_ends.ens]
      exact hr
    · exact hr
  · split
    · next hready =>
      have hin : (r.state == 2 || r.state == 3) = true := by simpa using hready
      rw [hin, Bool.true_and, tryJoin, setJoined_bit]
      rfl
    · next hready =>
      have hout : (r.state == 2 || r.state == 3) = false := by simpa using hready
      rw [hout, Bool.false_and]
      split
      · next hno => simpa using hno
      split
      · rw [unjoin_ends.ens]
        exact setJoined_bit
      · exact setJoined_bit

/-! REACH (R432). -/

theorem testBit_ofBits {l : List Bool} {d : ℕ} : (ofBits l).testBit d = l.getD d false := by
  induction l generalizing d with
  | nil => simp [ofBits]
  | cons b l ih =>
    cases d with
    | zero => cases b <;> simp [ofBits, b2n]
    | succ d =>
      have hbit : b2n b < 2 := by cases b <;> decide
      have hhalf : (b2n b + 2 * ofBits l) / 2 = ofBits l := by omega
      rw [Nat.testBit_succ, List.getD_cons_succ, ← ih, ofBits, hhalf]

theorem getLsbD_maskOf {w d : ℕ} {f : ℕ → Bool} (hd : d < w) : (BitVec.ofNat w (maskOf w f)).getLsbD d = f d := by
  rw [BitVec.getLsbD_ofNat, maskOf, testBit_ofBits]
  simp [hd, List.getD]

theorem reachIn_bit {d : ℕ} (hd : d < 256) : (reachIn n p s).ens.reach.getLsbD d = if routedOn s n d then
    d == (portOf s n).neighbour || bitAt (leNat (slice p.payload 0 32)) d else s.ens.reach.getLsbD d := by
  unfold reachIn reachVia
  rw [setReach_spec.1, getLsbD_maskOf hd]

theorem reachIn_rx : SameRx s (reachIn n p s) := by
  unfold reachIn reachVia
  exact setReach_spec.2

/-! Sessions of a stage (R439). -/

/-- A change of the entries of a table that keeps what they are found by. -/
theorem find?_map_of_same {α : Type} {l : List α} {f : α → Bool} {g : α → α} (hg : ∀ x, f (g x) = f x) :
    (l.map g).find? f = (l.find? f).map g := by
  rw [List.find?_map, show f ∘ g = f from funext hg]

theorem ctxOf_setCtx {f : Ctx → Ctx} (hf : ∀ x, (f x).part = x.part ∧ (f x).num = x.num) :
    ctxOf (setCtx a key f s) a key = (ctxOf s a key).map f := by
  unfold ctxOf setCtx
  rw [find?_map_of_same]
  · cases hx : s.ctxs.find? fun x => x.part == a && x.num == key with
    | none => rfl
    | some x =>
      have hmatch : x.part = a ∧ x.num = key := by simpa using List.find?_some hx
      exact congrArg some (if_pos hmatch)
  · intro x
    split
    · rw [(hf x).1, (hf x).2]
    · rfl

theorem dropCtx_ctxs : (dropCtx a key s).ctxs = s.ctxs.filter fun x => !(x.part == a && x.num == key) := rfl

theorem ctxOf_dropCtx : ctxOf (dropCtx a key s) a key = none := by
  simp only [ctxOf, dropCtx_ctxs, List.find?_eq_none, List.mem_filter]
  rintro x ⟨-, hx⟩ hmatch
  rw [hmatch] at hx
  cases hx

theorem ctxOf_dropCtx_ne {b : Part} {k : ℕ} (hne : b ≠ a ∨ k ≠ key) : ctxOf (dropCtx a key s) b k = ctxOf s b k := by
  unfold ctxOf
  rw [dropCtx_ctxs, List.find?_filter]
  congr 1
  funext x
  by_cases hb : (x.part == b && x.num == k) = true
  · have hother : ¬ (x.part = a ∧ x.num = key) := by
      simp only [Bool.and_eq_true, beq_iff_eq] at hb
      rw [hb.1, hb.2]
      exact not_and_or.2 hne
    simpa [hb] using not_and_or.1 hother
  · simp [hb]

theorem releaseIn_pages (hx : ctxOf s (pktPart p) (stageKey p.src (pktCtx p)) = some x) :
    (x.pos = 0 → ctxOf (releaseIn p s) (pktPart p) (stageKey p.src (pktCtx p)) = none) ∧
      (x.pos ≠ 0 → (releaseIn p s).ctxs = s.ctxs) := by
  unfold releaseIn
  dsimp only
  rw [hx]
  dsimp only
  refine ⟨fun h0 => ?_, fun h0 => ?_⟩
  · rw [if_pos h0, ctxOf_dropCtx]
  · rw [if_neg h0, trimPages_frame]

theorem releaseIn_rx : SameRx s (releaseIn p s) := by
  unfold releaseIn
  dsimp only
  split
  · exact sameRx_of_ports rfl
  split
  · exact sameRx_of_ports rfl
  · rw [trimPages_frame]
    exact sameRx_of_ports rfl

theorem commitIn_pos (hx : ctxOf s (pktPart p) (stageKey p.src (pktCtx p)) = some x) :
    ctxOf (commitIn p s) (pktPart p) (stageKey p.src (pktCtx p)) = some { x with pos := le p.arg 4 4 } := by
  rw [commitIn, ctxOf_setCtx, hx]
  · rfl
  · exact fun _ => ⟨rfl, rfl⟩

/-! RESERVE (R439). -/

theorem reservePages_cons {pg : KvPage} {pgs : List KvPage} :
    reservePages a key (pg :: pgs) s = reservePages a key pgs (placeObj a 1 (.kv key pg) 1 s) := rfl

/-- Reserving adds objects and changes nothing else. -/
theorem reservePages_frame {pgs : List KvPage} : ∃ l, reservePages a key pgs s = { s with objs := s.objs ++ l } := by
  induction pgs generalizing s with
  | nil => exact ⟨[], by rw [List.append_nil]; rfl⟩
  | cons pg pgs ih =>
    obtain ⟨l, hl⟩ := ih (s := placeObj a 1 (.kv key pg) 1 s)
    obtain ⟨o, ho⟩ : ∃ o, placeObj a 1 (.kv key pg) 1 s = { s with objs := s.objs ++ [o] } := ⟨_, rfl⟩
    refine ⟨o :: l, ?_⟩
    rw [reservePages_cons, hl, ho]
    dsimp only
    rw [List.append_assoc]
    rfl

theorem mem_heldPages {pg : KvPage} :
    pg ∈ heldPages s a key ↔ ∃ o ∈ s.objs, o.part = a ∧ o.kind = .kv key pg := by
  unfold heldPages
  rw [List.mem_filterMap]
  refine exists_congr fun o => and_congr_right fun _ => ?_
  cases o.kind <;> simp [and_assoc]

theorem reservePages_held {pgs : List KvPage} {pg : KvPage} (hpg : pg ∈ pgs) :
    pg ∈ heldPages (reservePages a key pgs s) a key := by
  induction pgs generalizing s with
  | nil => cases hpg
  | cons pg' pgs ih =>
    rw [reservePages_cons]
    rcases List.mem_cons.1 hpg with rfl | hpg
    · obtain ⟨l, hl⟩ := reservePages_frame (s := placeObj a 1 (.kv key pg) 1 s) (a := a) (key := key) (pgs := pgs)
      rw [hl, mem_heldPages]
      exact ⟨_, List.mem_append_left _ (List.mem_append_right _ (List.mem_singleton_self _)), rfl, rfl⟩
    · exact ih hpg

/-- The session of a stage that admits a RESERVE. -/
def stageCtx (p : Packet) (h : Handle) (s : State) : State :=
  if (ctxOf s (pktPart p) (stageKey p.src (pktCtx p))).isNone then
    setCtx (pktPart p) (stageKey p.src (pktCtx p))
      (fun x => { x with st := .live, model := some (.handle h), mask := none, mstate := 0 })
      (newCtx (pktPart p) (stageKey p.src (pktCtx p)) s)
  else s

theorem stageCtx_ctx : (ctxOf (stageCtx p h s) (pktPart p) (stageKey p.src (pktCtx p))).isSome = true := by
  unfold stageCtx
  split
  · rw [ctxOf_setCtx, Option.isSome_map]
    · simp [ctxOf, newCtx, addObj]
    · exact fun _ => ⟨rfl, rfl⟩
  · next hsome => simpa [Option.isSome_iff_ne_none] using hsome

theorem stageCtx_ens : (stageCtx p h s).ens = s.ens := by
  unfold stageCtx
  split <;> rfl

/-- The reply of a stage to a RESERVE. -/
def stageReply (p : Packet) (tier short : ℕ) : Packet :=
  ctrl p.src 0x04 (pktPart p).val (pktCtx p) (BitVec.ofNat 8 tier :: toLe 3 (min 0xFFFFFF short)) []

/-- What a stage lacks for a RESERVE. -/
def stageShort (p : Packet) (h : Handle) (s : State) : Option (ℕ × ℕ) :=
  shortTier s (pktPart p) [(1, (stagePages s h (pktPart p) (stageKey p.src (pktCtx p)) (le p.arg 4 4)).length),
    (6, b2n (ctxOf s (pktPart p) (stageKey p.src (pktCtx p))).isNone)]

theorem reserveIn_eq : reserveIn p s = match partFrom s p.src (pktPart p) with
    | none => s
    | some h => match stageShort p h s with
      | some (tier, n) => originate (stageReply p tier n) (quotaLast (pktPart p) tier n s)
      | none => originate (stageReply p 0 0) (reservePages (pktPart p) (stageKey p.src (pktCtx p))
          (stagePages s h (pktPart p) (stageKey p.src (pktCtx p)) (le p.arg 4 4)) (stageCtx p h s)) := rfl

theorem reserveIn_admits (hp : partFrom s p.src (pktPart p) = some h) (hs : stageShort p h s = none) :
    (ctxOf (reserveIn p s) (pktPart p) (stageKey p.src (pktCtx p))).isSome = true ∧
      ∀ pg ∈ stagePages s h (pktPart p) (stageKey p.src (pktCtx p)) (le p.arg 4 4),
        pg ∈ heldPages (reserveIn p s) (pktPart p) (stageKey p.src (pktCtx p)) := by
  obtain ⟨l, hl⟩ := reservePages_frame (s := stageCtx p h s) (a := pktPart p) (key := stageKey p.src (pktCtx p))
    (pgs := stagePages s h (pktPart p) (stageKey p.src (pktCtx p)) (le p.arg 4 4))
  have hsent := Sends.refl.originate (p := stageReply p 0 0) (s := reservePages (pktPart p) (stageKey p.src (pktCtx p))
    (stagePages s h (pktPart p) (stageKey p.src (pktCtx p)) (le p.arg 4 4)) (stageCtx p h s))
  rw [reserveIn_eq, hp]
  dsimp only
  rw [hs]
  dsimp only
  rw [hsent.frame]
  refine ⟨?_, fun pg hpg => ?_⟩
  · have hctx := stageCtx_ctx (s := s) (p := p) (h := h)
    rw [hl]
    exact hctx
  · exact reservePages_held hpg

theorem reserveIn_refuses {tier k : ℕ} (hp : partFrom s p.src (pktPart p) = some h)
    (hs : stageShort p h s = some (tier, k)) : (reserveIn p s).ctxs = s.ctxs ∧ (reserveIn p s).objs = s.objs ∧
      (pageOf (reserveIn p s) (pktPart p)).lastTier = tier ∧ (pageOf (reserveIn p s) (pktPart p)).lastShort = k := by
  have hsent := Sends.refl.originate (p := stageReply p tier k) (s := quotaLast (pktPart p) tier k s)
  have hpage : pageOf (quotaLast (pktPart p) tier k s) (pktPart p) =
    { pageOf s (pktPart p) with lastTier := tier, lastShort := k } := pageOf_setPage
  rw [reserveIn_eq, hp]
  dsimp only
  rw [hs]
  dsimp only
  rw [hsent.frame]
  exact ⟨rfl, rfl, congrArg Page.lastTier hpage, congrArg Page.lastShort hpage⟩

theorem reserveIn_rx : SameRx s (reserveIn p s) := by
  rw [reserveIn_eq]
  split
  · exact sameRx_of_ports rfl
  · next h _ =>
    split
    · exact SameRx.trans (sameRx_of_ports rfl) (Sends.originate .refl).rx
    · obtain ⟨l, hl⟩ := reservePages_frame (s := stageCtx p h s) (a := pktPart p) (key := stageKey p.src (pktCtx p))
        (pgs := stagePages s h (pktPart p) (stageKey p.src (pktCtx p)) (le p.arg 4 4))
      refine SameRx.trans (sameRx_of_ports ?_) (Sends.originate .refl).rx
      rw [hl]
      exact congrArg Ens.ports stageCtx_ens

end

end Sys2Proof.Proofs

namespace Sys2Proof.Proofs

/-! ### What the replies of the other stages and the ends of their parts do (R438 to R442) -/

open Sys2Proof.Machine

section
variable {s t u v : State} {n : Port} {p : Packet} {c : Cmd} {r : Reserving} {q : Pass} {status detail id m : ℕ}
  {payload : List Byte} {refused : Bool}

/-! One completed command. -/

theorem done_congr (h : Spec.done s t c status detail payload) (hcmds : u.cmds = s.cmds)
    (hpages : u.hif.pages = s.hif.pages) (hcmds' : v.cmds = t.cmds) (hpages' : v.hif.pages = t.hif.pages) :
    Spec.done u v c status detail payload := by
  unfold Spec.done pageOf at *
  rw [hcmds, hpages, hcmds', hpages']
  exact h

theorem done_of_sends (h : Spec.done s t c status detail payload) (k : Sends t u) :
    Spec.done s u c status detail payload :=
  done_congr h rfl rfl (by rw [k.frame]) (by rw [k.frame])

theorem done_from_sends (h : Spec.done t u c status detail payload) (k : Sends s t) :
    Spec.done s u c status detail payload :=
  done_congr h (by rw [k.frame]) (by rw [k.frame]) rfl rfl

theorem finish_spec (hc : cmdOf s id = some c) (hsilent : c.silent = false) (hmute : muted s = false)
    (hearly : s.bsc.early = false) :
    Spec.done s (finish id status detail refused payload s) c status (detail % 65536) payload := by
  obtain ⟨hcmds, held, hrec⟩ := finish_done (status := status) (detail := detail) (refused := refused)
    (payload := payload) hc hsilent hmute hearly
  obtain rfl := cmdOf_id hc
  exact ⟨hcmds, _, hrec, rfl, rfl, rfl, rfl, rfl, rfl, rfl⟩

/-! RESERVE_REPLY (R439). -/

/-- The RESERVE with the reply of this packet. -/
def replied (p : Packet) (r : Reserving) : Reserving :=
  { r with replies := r.replies ++ [(p.src, byteAt p.arg 4, le p.arg 5 3)] }

/-- The state with these RESERVEs in progress. -/
def withReserving (l : List Reserving) (s : State) : State := { s with ens := { s.ens with reserving := l } }

/-- The one RESERVE in progress is of the command and waits for this reply. -/
structure Awaits (s : State) (p : Packet) (r : Reserving) (c : Cmd) : Prop where
  only : s.ens.reserving = [r]
  cmd : r.cmd = c.id
  inTable : cmdOf s c.id = some c
  part : c.part = pktPart p
  ctx : c.ctx = pktCtx p
  asked : p.src ∈ r.asked
  waits : ∀ e ∈ r.replies, e.1 ≠ p.src

theorem replyIn_eq (h : Awaits s p r c) : replyIn p s =
    if (r.asked.all fun d => (replied p r).replies.any (·.1 == d)) then
      settleReserve (replied p r) (withReserving [replied p r] s)
    else withReserving [replied p r] s := by
  obtain ⟨honly, hcmd, htable, hpart, hctx, hasked, hopen⟩ := h
  have hnone : r.replies.any (·.1 == p.src) = false := by simpa using hopen
  unfold replyIn
  extract_lets mine
  have hfound : s.ens.reserving.find? mine = some r := by
    rw [honly, List.find?_singleton, if_pos]
    simp only [mine, hcmd, htable, hnone, List.contains_iff_mem.2 hasked]
    simp [hpart, hctx]
  rw [hfound]
  dsimp only
  rw [honly, List.map_singleton, if_pos rfl]
  rfl

theorem replyIn_pending (h : Awaits s p r c) {d : ℕ} (hd : d ∈ r.asked) (hne : d ≠ p.src)
    (hno : ∀ e ∈ r.replies, e.1 ≠ d) : replyIn p s = withReserving [replied p r] s := by
  rw [replyIn_eq h, if_neg]
  simp only [List.all_eq_true, not_forall]
  refine ⟨d, hd, ?_⟩
  simp only [replied, List.any_append, List.any_eq_true, Bool.or_eq_true, beq_iff_eq, not_or, not_exists, not_and,
    List.any_cons, List.any_nil, Bool.or_false]
  exact ⟨fun e he => hno e he, Ne.symm hne⟩

/-- A refusing reply that was the last one awaited. -/
theorem settleReserve_refused {d tier k : ℕ} (hc : cmdOf s r.cmd = some c)
    (hfind : ((r.asked.filterMap fun d => r.replies.find? (·.1 == d)).find? fun e => e.2.1 != 0) = some (d, tier, k)) :
    settleReserve r s = refuse c.id 0x20 (tier + 8 * min 8191 k)
      (releaseStages c r.asked (withReserving (s.ens.reserving.filter (·.cmd != r.cmd)) s)) := by
  unfold settleReserve
  rw [hc]
  dsimp only
  rw [hfind]
  rfl

theorem refuse_done (hc : cmdOf s c.id = some c) (hsilent : c.silent = false) (hmute : muted s = false)
    (hearly : s.bsc.early = false) : Spec.done s (refuse c.id status detail s) c status (detail % 65536)
      (if c.op = 0x21 then failPayload s c status else List.replicate 16 0) := by
  have hsent : Sends s (releasePeers c.id s) := Sends.refl.releasePeers
  unfold refuse
  rw [hc]
  refine done_from_sends (finish_spec ?_ hsilent ?_ ?_) hsent
  all_goals rw [hsent.frame]; assumption

theorem refuse_reserving : (refuse id status detail s).ens.reserving = s.ens.reserving := by
  unfold refuse
  dsimp only
  rw [(Settles.finish .refl).ens_eq, (Sends.releasePeers .refl).frame]

theorem replyIn_refused (h : Awaits s p r c) (hasked : r.asked = [p.src]) (hrefused : byteAt p.arg 4 ≠ 0)
    (hsilent : c.silent = false) (hmute : muted s = false) (hearly : s.bsc.early = false) :
    (replyIn p s).ens.reserving = [] ∧ Spec.done s (replyIn p s) c 0x20
      ((byteAt p.arg 4 + 8 * min 8191 (le p.arg 5 3)) % 65536)
      (if c.op = 0x21 then failPayload s c 0x20 else List.replicate 16 0) := by
  have hnone : r.replies.find? (·.1 == p.src) = none := by simpa using h.waits
  have hfind : (((replied p r).asked.filterMap fun d => (replied p r).replies.find? (·.1 == d)).find?
      fun e => e.2.1 != 0) = some (p.src, byteAt p.arg 4, le p.arg 5 3) := by
    simp [replied, hasked, hnone, hrefused]
  have hall : (r.asked.all fun d => (replied p r).replies.any (·.1 == d)) = true := by simp [replied, hasked]
  have hc : cmdOf s r.cmd = some c := by rw [h.cmd]; exact h.inTable
  have hrest : ([replied p r].filter (·.cmd != r.cmd)) = [] := by simp [replied]
  have hsent : Sends (withReserving [] s) (releaseStages c [p.src] (withReserving [] s)) := Sends.refl.releaseStages
  have hsettled : replyIn p s = refuse c.id 0x20 (byteAt p.arg 4 + 8 * min 8191 (le p.arg 5 3))
      (releaseStages c [p.src] (withReserving [] s)) := by
    rw [replyIn_eq h, if_pos hall, settleReserve_refused (s := withReserving [replied p r] s) (r := replied p r) hc hfind,
      ← hasked]
    change refuse _ _ _ (releaseStages c r.asked (withReserving ([replied p r].filter (·.cmd != r.cmd)) s)) = _
    rw [hrest]
  have hpayload : failPayload (releaseStages c [p.src] (withReserving [] s)) c 0x20 = failPayload s c 0x20 := by
    rw [hsent.frame]
    rfl
  rw [hsettled]
  refine ⟨by rw [refuse_reserving, hsent.frame]; rfl, ?_⟩
  rw [← hpayload]
  refine done_congr (done_from_sends (refuse_done ?_ hsilent ?_ ?_) hsent) rfl rfl rfl rfl
  · rw [hsent.frame]; exact h.inTable
  · rw [hsent.frame]; exact hmute
  · rw [hsent.frame]; exact hearly

theorem replyIn_rx : SameRx s (replyIn p s) := by
  unfold replyIn
  extract_lets mine
  split
  · exact sameRx_of_ports rfl
  · extract_lets r' t
    have hnoted : Ends s t := ⟨rfl, sameRx_of_ports rfl⟩
    split
    · exact hnoted.settleReserve.rx
    · exact hnoted.rx

/-! ROLLBACK and STAGE_DONE (R438, R440). -/

/-- The pass is gone, and of the blocks exactly those of the entry device's pass are. -/
theorem rollbackIn_blocks : ∀ b ∈ (rollbackIn p s).ens.blocks, b.part = pktPart p → b.num = le p.arg 4 2 →
    ∀ sp, splitHandle s b.h.val (pktPart p) = some sp → sp.devices.getD 0 0 ≠ p.src := by
  have hblocks : (rollbackIn p s).ens.blocks = s.ens.blocks.filter fun b => !(b.part == pktPart p &&
      b.num == le p.arg 4 2 && (splitHandle s b.h.val b.part).any fun sp => sp.devices.getD 0 0 == p.src) := by
    unfold rollbackIn
    dsimp only
    split
    · rw [endPass_settles.ens_eq]
    · rfl
  intro b hb hpart hnum sp hsp
  rw [hblocks] at hb
  have hkept := (List.mem_filter.1 hb).2
  simpa [hpart, hnum, hsp] using hkept

theorem rollbackIn_pass (hq : splitPass s (pktPart p) (le p.arg 4 2) false p.src = some q) :
    passOf (rollbackIn p s) q.model = none := by
  unfold rollbackIn
  dsimp only
  rw [hq]
  exact passOf_none endPass_passes

theorem rollbackIn_rx : SameRx s (rollbackIn p s) := by
  unfold rollbackIn
  dsimp only
  split
  · exact SameRx.trans (sameRx_of_ports rfl) endPass_ends.rx
  · exact sameRx_of_ports rfl

theorem stageDoneIn_pass (hq : splitPass s (pktPart p) (le p.payload 0 2) true p.src = some q)
    (hrun : passOf s q.model = some q) (hnew : p.src ∉ q.stagesDone) : passOf (stageDoneIn p s) q.model =
      some { q with stagesDone := q.stagesDone ++ [p.src], stageWait := q.stageWait + le p.arg 4 4 } := by
  unfold stageDoneIn
  rw [hq]
  dsimp only
  rw [if_neg (by simpa using hnew)]
  unfold passOf at *
  rw [find?_map_of_same, hrun]
  · exact congrArg some (if_pos rfl)
  · intro e
    split <;> rfl

theorem stageDoneIn_rx : SameRx s (stageDoneIn p s) := by
  unfold stageDoneIn
  split
  · exact sameRx_of_ports rfl
  split <;> exact sameRx_of_ports rfl

/-! FAULT (R440, R441). -/

theorem filter_map_of_fixed {α : Type} {l : List α} {f : α → Bool} {g : α → α} (hkeeps : ∀ x, f (g x) = f x)
    (hfixed : ∀ x, f x = true → g x = x) : (l.map g).filter f = l.filter f := by
  induction l with
  | nil => rfl
  | cons x l ih =>
    rw [List.map_cons, List.filter_cons, List.filter_cons, hkeeps, ih]
    split
    · next hx => rw [hfixed x hx]
    · rfl

/-- Judging the waits anew changes of a command that is concerned only its wait. -/
theorem syncHolds_cmds {who : Cmd → Bool} : ∃ g : Cmd → Cmd, (syncHolds who s).cmds = s.cmds.map g ∧
    (∀ c, who c = false → g c = c) ∧ ∀ c, ∃ k w, g c = { c with queuedNs := k, waitFrom := w } := by
  refine ⟨_, rfl, fun c hc => ?_, fun c => ?_⟩
  · simp [hc]
  · split_ifs
    all_goals exact ⟨_, _, rfl⟩

/-- The end of a pass of one command leaves that command in the table, and the others as they are. -/
theorem endPass_cmds {row : PassRow} {halted : List Voice} (hrows : q.rows = [row]) (hc : cmdOf s row.cmd = some c) :
    ∃ k w, cmdOf (endPass q halted s) row.cmd = some { c with queuedNs := k, waitFrom := w } ∧
      (endPass q halted s).cmds.filter (·.id != row.cmd) = s.cmds.filter (·.id != row.cmd) ∧
      (endPass q halted s).hif = s.hif ∧ (endPass q halted s).bsc = s.bsc := by
  obtain ⟨u, hu, hend⟩ := endPass_frees (s := s) (p := q) (halted := halted)
  obtain ⟨g, hmap, hsame, hwait⟩ := syncHolds_cmds (s := u) (who := fun c => q.rows.any (·.cmd == c.id))
  have hcmds : u.cmds = s.cmds := by rw [hu]
  have hid : ∀ x, (g x).id = x.id := fun x => by
    obtain ⟨_, _, hx⟩ := hwait x
    rw [hx]
  obtain ⟨k, w, hg⟩ := hwait c
  refine ⟨k, w, ?_, ?_, ?_, ?_⟩
  · unfold cmdOf at *
    rw [hend, hmap, hcmds, find?_map_of_same, hc]
    · exact congrArg some hg
    · intro x
      rw [hid]
  · rw [hend, hmap, hcmds]
    refine filter_map_of_fixed (fun x => by rw [hid]) fun x hx => hsame x ?_
    rw [hrows, List.any_cons, List.any_nil, Bool.or_false]
    exact beq_eq_false_iff_ne.2 (Ne.symm (bne_iff_ne.1 hx))
  · rw [hend]
    change u.hif = s.hif
    rw [hu]
  · rw [hend]
    change u.bsc = s.bsc
    rw [hu]

theorem failCmd_done (hc : cmdOf s id = some c) (hsilent : c.silent = false) (hmute : muted s = false)
    (hearly : s.bsc.early = false) :
    ∃ y, Spec.done s (failCmd id status detail s) c status (detail % 65536) y := by
  unfold failCmd
  rw [hc]
  exact ⟨_, finish_spec hc hsilent hmute hearly⟩

/-- A pass of one command is abandoned: the command completes with the status. -/
theorem abandonPass_done {row : PassRow} (hrows : q.rows = [row]) (hc : cmdOf s row.cmd = some c)
    (hsilent : c.silent = false) (hmute : muted s = false) (hearly : s.bsc.early = false) :
    ∃ y, Spec.done s (abandonPass q status detail [] s) c status (detail % 65536) y := by
  obtain ⟨k, w, hc', hcmds, hhif, hbsc⟩ := endPass_cmds (halted := []) hrows hc
  have hsent : Sends (endPass q [] s) (tellStages q status detail (endPass q [] s)) := Sends.refl.tellStages
  have hone : abandonPass q status detail [] s =
      failCmd row.cmd status detail (tellStages q status detail (endPass q [] s)) := by
    unfold abandonPass
    rw [hrows]
    rfl
  have hmute' : muted (tellStages q status detail (endPass q [] s)) = false := by
    rw [hsent.frame, ← hmute]
    exact congrArg (fun b : Bsc => b.stage == .mute) hbsc
  have hearly' : (tellStages q status detail (endPass q [] s)).bsc.early = false := by
    rw [hsent.frame, ← hearly]
    exact congrArg Bsc.early hbsc
  obtain ⟨y, hdone⟩ := failCmd_done (status := status) (detail := detail) (s := tellStages q status detail (endPass q [] s))
    (c := { c with queuedNs := k, waitFrom := w }) (by rw [hsent.frame]; exact hc') hsilent hmute' hearly'
  refine ⟨y, ?_⟩
  rw [hone]
  obtain ⟨hleft, x, hqueue, hstatus, hop, htag, hctx, hdetail, hpayload, hcmd⟩ := done_from_sends hdone hsent
  have hid := cmdOf_id hc
  refine ⟨?_, x, ?_, hstatus, hop, htag, hctx, hdetail, hpayload, hcmd⟩
  · rw [hleft]
    change (endPass q [] s).cmds.filter (·.id != c.id) = _
    rw [hid, hcmds]
  · rw [hqueue]
    unfold pageOf
    rw [hhif]

theorem abandonPass_passes {halted : List Voice} :
    (abandonPass q status detail halted s).passes = s.passes.filter (·.model != q.model) := by
  unfold abandonPass
  dsimp only
  rw [(Settles.failCmds .refl).passes_eq, (Sends.tellStages .refl).frame]
  exact endPass_passes

/-- What the FAULT of a stage does to the one command of the pass. -/
theorem faultIn_done {row : PassRow} (hq : splitPass s (pktPart p) (le p.arg 6 2) true p.src = some q)
    (hrows : q.rows = [row]) (hc : cmdOf s row.cmd = some c) (hsilent : c.silent = false) (hmute : muted s = false)
    (hearly : s.bsc.early = false) (hst : byteAt p.arg 4 ∈ [0x40, 0x41, 0x42, 0x50, 0x51]) :
    passOf (faultIn p s) q.model = none ∧ ∃ y, Spec.done s (faultIn p s) c (byteAt p.arg 4)
      (stageDetail p.src (byteAt p.arg 4) (byteAt p.arg 5) (Config.freeNat s.freeCtr) % 65536) y := by
  have heq : faultIn p s = abandonPass q (byteAt p.arg 4)
      (stageDetail p.src (byteAt p.arg 4) (byteAt p.arg 5) (Config.freeNat s.freeCtr)) []
      { s with freeCtr := s.freeCtr + 1 } := by
    unfold faultIn
    dsimp only
    have hlisted : ([0x40, 0x41, 0x42, 0x50, 0x51] : List ℕ).contains (byteAt p.arg 4) = true :=
      List.contains_iff_mem.2 hst
    rw [if_neg (by rw [hlisted]; simp), hq]
  rw [heq]
  refine ⟨passOf_none abandonPass_passes, ?_⟩
  obtain ⟨y, hy⟩ := abandonPass_done (s := { s with freeCtr := s.freeCtr + 1 }) (status := byteAt p.arg 4)
    (detail := stageDetail p.src (byteAt p.arg 4) (byteAt p.arg 5) (Config.freeNat s.freeCtr)) hrows hc hsilent hmute hearly
  exact ⟨y, done_congr hy rfl rfl rfl rfl⟩

theorem faultIn_rx : SameRx s (faultIn p s) := by
  unfold faultIn
  dsimp only
  split
  · exact sameRx_of_ports rfl
  split
  · exact sameRx_of_ports rfl
  · have hcounted : Ends s { s with freeCtr := s.freeCtr + 1 } := ⟨rfl, sameRx_of_ports rfl⟩
    exact hcounted.abandonPass.rx

end

end Sys2Proof.Proofs

namespace Sys2Proof.Proofs

/-! ### What the packets between neighbours do (R424, R427, R434) -/

open Sys2Proof.Machine

section
variable {s : State} {n : Port} {p : Packet} {f : State → State} {hops res : ℕ}

theorem inPort_of {st : PortSt} (hst : (portOf s n).st = st) (hrun : islRuns s 29 = true) : inPort n st f s = f s :=
  if_pos ⟨hst, hrun⟩

/-- A CRC-good packet shows life on the port. -/
def heard (n : Port) (s : State) : State := setPort n (fun q => { q with lastRx := s.clk }) s

/-! KEEPALIVE and ACK (R427, R428). -/

theorem exec_keepalive (hp : s.porst = false) (hst : (portOf s n).st = .active) (hrun : islRuns s 29 = true) :
    exec (.keepalive n { p with type := 4 }) s = .next (heard n s) := by
  change live s _ = _
  rw [live_of hp, inPort_of hst hrun]
  rfl

theorem exec_ack (hp : s.porst = false) (hst : (portOf s n).st = .active) (hrun : islRuns s 29 = true) :
    exec (.ack n p) s = .next (ackIn n p s) := by
  change live s _ = _
  rw [live_of hp, inPort_of hst hrun]

theorem ackIn_bad (h : ackOk p = false) : ackIn n p s = s := by
  unfold ackIn
  rw [h]
  rfl

/-- The port after an acknowledgement. -/
def acked (n : Port) (p : Packet) (s : State) : State :=
  setPort n (fun q => { q with
    unacked := ackedBy (le p.arg 0 2) q.unacked
    granted := (q.granted.set 0 (byteAt p.arg 2)).set 1 (byteAt p.arg 3)
    lastRx := s.clk }) s

theorem ackedBy_subset {seq : ℕ} {l : List SentPkt} : ackedBy seq l ⊆ l := by
  unfold ackedBy
  split
  · exact ((List.tail_sublist _).trans (List.dropWhile_sublist _)).subset
  · exact List.Subset.refl _

/-- What stands up to the acknowledged packet has gone. -/
theorem ackedBy_append {seq : ℕ} {x y : List SentPkt} {e : SentPkt} (he : e.pkt.seq = seq)
    (hx : ∀ d ∈ x, d.pkt.seq ≠ seq) : ackedBy seq (x ++ e :: y) = y := by
  unfold ackedBy
  rw [if_pos (by simp [he]), List.dropWhile_append_of_pos (by simpa using hx), List.dropWhile_cons_of_neg (by simp [he])]
  rfl

theorem ackIn_good (h : ackOk p = true) (hnak : byteAt p.arg 4 = 0) (hq : (portOf s n).queue = [])
    (hdue : ∀ e ∈ (portOf s n).unacked, e.due = false) : ackIn n p s = acked n p s := by
  have hport : portOf (acked n p s) n = { portOf s n with
      unacked := ackedBy (le p.arg 0 2) (portOf s n).unacked
      granted := ((portOf s n).granted.set 0 (byteAt p.arg 2)).set 1 (byteAt p.arg 3)
      lastRx := s.clk } := portOf_setPort
  have hquiet : nextOut (portOf (acked n p s) n) = none := by
    rw [hport]
    exact nextOut_of_quiet (fun e he => hdue e (ackedBy_subset he)) hq
  unfold ackIn
  rw [h, if_neg (by simp)]
  dsimp only
  rw [if_neg (by omega)]
  exact drain_of_none hquiet

theorem acked_port : (portOf (acked n p s) n).unacked = ackedBy (le p.arg 0 2) (portOf s n).unacked ∧
    (portOf (acked n p s) n).granted[(0 : Fin 2)] = byteAt p.arg 2 ∧
    (portOf (acked n p s) n).granted[(1 : Fin 2)] = byteAt p.arg 3 := by
  rw [acked, portOf_setPort]
  exact ⟨rfl, by simp, by simp⟩

/-! IDENT (R424). -/

theorem exec_ident (hp : s.porst = false) (hst : (portOf s n).st = .ident) (hrun : islRuns s 29 = true) :
    exec (.ident n p) s = .next (identIn n p s) := by
  change live s _ = _
  rw [live_of hp, inPort_of hst hrun]

/-- The port has noted what the peer says of itself. -/
def identified (n : Port) (p : Packet) (s : State) : State :=
  setPort n (fun q => { q with
    neighbour := byteAt p.arg 0
    nrole := byteAt p.arg 2
    nhops := byteAt p.arg 3 % 32
    answered := min 16 (q.answered + 1)
    lastRx := s.clk }) s

theorem identIn_of (h : identOk p = true) : identIn n p s =
    if byteAt p.arg 0 = deviceNo s then trainFail n 3 (identified n p s)
    else if byteAt p.arg 2 = 1 ∧ isLeader s = true then trainFail n 4 (identified n p s)
    else if (portOf s n).idents < 16 then sendIdent n (identified n p s) else identified n p s := by
  have hport : (portOf (identified n p s) n).idents = (portOf s n).idents := by
    rw [identified, portOf_setPort]
  unfold identIn
  rw [h, if_neg (by simp), ← hport]
  rfl

theorem trainFail_failed {cause : ℕ} : Spec.failed (trainFail n cause s) n cause := by
  have hport : portOf (trainFail n cause s) n =
      { portOf s n with st := .down, since := s.clk, cause := cause, penalty := true } := by
    unfold trainFail portRecord enterPort portOf
    rw [logErr_ens]
    exact portOf_setPort.trans (by rw [portOf_setPort]; rfl)
  unfold Spec.failed
  rw [hport]
  exact ⟨rfl, rfl, rfl⟩

theorem sendIdent_port : portOf (sendIdent n s) n =
      { portOf s n with idents := (portOf s n).idents + 1, lastTx := s.clk } ∧
    ∃ a, (sendIdent n s).out = .packet n a false :: s.out ∧ a.type = 6 := by
  refine ⟨?_, _, rfl, rfl⟩
  unfold sendIdent sendLocal
  dsimp only
  rw [portOf_send, portOf_setPort, portOf_setPort]
  rfl

/-! DOWNBEAT (R73, R434). -/

theorem exec_downbeat (hp : s.porst = false) (hst : (portOf s n).st = .active) (hrun : islRuns s 29 = true) :
    exec (.downbeat n p res) s = .next (downbeatIn n p res s) := by
  change live s _ = _
  rw [live_of hp, inPort_of hst hrun]

theorem portOf_heard {m : Port} : (portOf (heard n s) m).st = (portOf s m).st ∧
    (portOf (heard n s) m).nhops = (portOf s m).nhops ∧ (portOf (heard n s) m).delay = (portOf s m).delay := by
  unfold heard
  by_cases hm : m = n
  · subst hm; rw [portOf_setPort]; exact ⟨rfl, rfl, rfl⟩
  · rw [portOf_setPort_ne hm]; exact ⟨rfl, rfl, rfl⟩

theorem upstream_heard : upstream (heard n s) = upstream s := by
  unfold upstream portActive
  simp only [portOf_heard.1, portOf_heard.2.1]
  rfl

theorem downbeatIn_elsewhere (h : upstream s ≠ some n) : downbeatIn n p res s = heard n s := by
  unfold downbeatIn
  dsimp only
  refine if_pos ?_
  rw [show upstream (setPort n _ s) = upstream s from upstream_heard]
  simp [h]

theorem downbeatIn_upstream (hok : downbeatOk p = true) (h : upstream s = some n)
    (hlock : s.tbs.lock = .seek ∨ s.tbs.lock = .locked) :
    downbeatIn n p res s = acceptDownbeat n (hopsOf s) p res (heard n s) := by
  unfold downbeatIn
  dsimp only
  refine if_neg ?_
  rw [show upstream (setPort n _ s) = upstream s from upstream_heard, hok, h]
  rcases hlock with hlock | hlock <;> simp [setPort, hlock]

theorem Sends.sendDownbeat {t : State} (h : Sends s t) : Sends s (sendDownbeat hops p t) := by
  unfold Machine.sendDownbeat
  refine h.foldl fun u i hu => ?_
  dsimp only
  split
  · exact hu.sendLocal
  · exact hu

/-- The first downbeat: the time base steps to the leader's time, and aligns. -/
theorem acceptDownbeat_seek (h : s.tbs.lock = .seek) : (acceptDownbeat n hops p res s).tbs.lock = .align ∧
    (acceptDownbeat n hops p res s).tbs.dbCount = s.tbs.dbCount + 1 ∧
    s.tbs.now ≤ (acceptDownbeat n hops p res s).tbs.now := by
  simp only [acceptDownbeat, h, beq_self_eq_true, Bool.true_or, if_true]
  rw [sendDownbeat_keeps_tbs.1]
  exact ⟨rfl, rfl, le_max_left _ _⟩

theorem lockAfter_locked {run : ℕ} {e : Int} :
    (lockAfter .locked run hops e).1 = if e.natAbs ≤ 40 * hops then .locked else .align := by
  unfold lockAfter
  dsimp only
  split <;> rfl

/-- A downbeat without LOADED to a locked time base: it does not step, and it stays locked within 40 ns per hop. -/
theorem acceptDownbeat_locked (h : s.tbs.lock = .locked) (hl : byteAt p.payload 10 = 0) :
    let t := acceptDownbeat n hops p res s
    t.tbs.now = s.tbs.now ∧ t.tbs.miss = 0 ∧ t.ens.leader = byteAt p.payload 8 ∧
      t.tbs.phase = (16 * (s.tbs.now : Int) -
        ((16 * leNat p.arg + leNat (slice p.payload 0 8) + (portOf s n).delay : ℕ) : Int) + 8) / 16 ∧
      t.tbs.lock = if t.tbs.phase.natAbs ≤ 40 * hops then .locked else .align := by
  have hstay : (LockSt.locked == LockSt.seek) = false := rfl
  have hunloaded : bitAt 0 0 = false := rfl
  simp only [acceptDownbeat, h, hl, hstay, hunloaded, Bool.and_false, Bool.false_and, Bool.or_false, Bool.false_eq_true,
    if_false]
  rw [(Sends.sendDownbeat .refl).frame]
  exact ⟨rfl, rfl, rfl, rfl, lockAfter_locked⟩

end

end Sys2Proof.Proofs

namespace Sys2Proof.Proofs

/-! ### The rows of the packets -/

open Sys2Proof.Machine

section
variable {s : State} {n : Port} {p : Packet} {i : Instr} {k : State → State} {m : ℕ}

/-! What sending leaves. -/

theorem Sends.ctxOf {t : State} {a : Part} {key : ℕ} (h : Sends s t) : ctxOf t a key = ctxOf s a key := by
  unfold Machine.ctxOf
  rw [h.frame]

theorem Sends.heldPages {t : State} {a : Part} {key : ℕ} (h : Sends s t) : heldPages t a key = heldPages s a key := by
  unfold Machine.heldPages
  rw [h.frame]

theorem Sends.pageOf {t : State} {a : Part} (h : Sends s t) : pageOf t a = pageOf s a := by
  unfold Machine.pageOf
  rw [h.frame]

theorem Sends.passOf {t : State} {m : ModelRef} (h : Sends s t) : passOf t m = passOf s m := by
  unfold Machine.passOf
  rw [h.frame]

theorem Sends.tables {t : State} (h : Sends s t) : t.ctxs = s.ctxs ∧ t.objs = s.objs ∧ t.cmds = s.cmds ∧ t.mem = s.mem := by
  rw [h.frame]
  exact ⟨rfl, rfl, rfl, rfl⟩

theorem Sends.blocks {t : State} (h : Sends s t) : t.ens.blocks = s.ens.blocks := by rw [h.frame]

theorem Sends.reserving {t : State} (h : Sends s t) : t.ens.reserving = s.ens.reserving := by rw [h.frame]

/-! The rows. -/

/-- Every CTRL row consumes its message, and none touches what the ports expect. -/
theorem ctrlTable_row {row : ℕ × (Port → Packet → Instr)} (hrow : row ∈ Spec.ctrlTable) :
    (1 ≤ row.1 ∧ row.1 ≤ 10) ∧ ∃ k : Packet → Port → State → State,
      (∀ n p s, exec (row.2 n p) s = live s (receiveCtrl n p row.1 (k p n))) ∧ ∀ n p s, SameRx s (k p n s) := by
  simp only [Spec.ctrlTable, List.mem_cons, List.not_mem_nil, or_false] at hrow
  obtain rfl | rfl | rfl | rfl | rfl | rfl | rfl | rfl | rfl | rfl := hrow
  · exact ⟨by decide, fun p _ => joinIn p, fun _ _ _ => rfl, fun _ _ _ => joinIn_rx⟩
  · exact ⟨by decide, fun p n => reachIn n p, fun _ _ _ => rfl, fun _ _ _ => reachIn_rx⟩
  · exact ⟨by decide, fun p _ => reserveIn p, fun _ _ _ => rfl, fun _ _ _ => reserveIn_rx⟩
  · exact ⟨by decide, fun p _ => replyIn p, fun _ _ _ => rfl, fun _ _ _ => replyIn_rx⟩
  · exact ⟨by decide, fun p _ => releaseIn p, fun _ _ _ => rfl, fun _ _ _ => releaseIn_rx⟩
  · exact ⟨by decide, fun p _ => commitIn p, fun _ _ _ => rfl, fun _ _ _ => sameRx_of_ports rfl⟩
  · exact ⟨by decide, fun p _ => rollbackIn p, fun _ _ _ => rfl, fun _ _ _ => rollbackIn_rx⟩
  · exact ⟨by decide, fun p _ => stageDoneIn p, fun _ _ _ => rfl, fun _ _ _ => stageDoneIn_rx⟩
  · exact ⟨by decide, fun p _ => faultIn p, fun _ _ _ => rfl, fun _ _ _ => faultIn_rx⟩
  · exact ⟨by decide, fun p _ => dropCtx (pktPart p) (stageKey p.src (pktCtx p)), fun _ _ _ => rfl,
      fun _ _ _ => sameRx_of_ports rfl⟩

/-- The packet is CTRL message `m`, for this device and in order. -/
structure IsMsg (s : State) (n : Port) (p : Packet) (m : ℕ) : Prop where
  arrives : Spec.arrives s n p
  here : p.dst = deviceNo s
  type : p.type = 2
  msg : byteAt p.arg 0 = m

/-- The state with these ports. -/
def withPorts (ports : Vector PortState 4) (s : State) : State := { s with ens := { s.ens with ports := ports } }

theorem arrived_eq : ∃ ports, arrived n p s = withPorts ports s := ⟨_, rfl⟩

/-- The row of the message runs its handler on the state where the packet has arrived; beyond that it may send an ACK. -/
theorem exec_msg (h : IsMsg s n p m) (hx : exec i s = live s (receiveCtrl n p m k)) : ∃ ports t,
    arrived n p s = withPorts ports s ∧ exec i s = .next t ∧ Sends (k (withPorts ports s)) t := by
  obtain ⟨ports, hports⟩ := arrived_eq (s := s) (n := n) (p := p)
  have hsent := receiveCtrl_own (k := k) h.arrives h.here h.type h.msg
  rw [hports] at hsent
  rw [hx, live_of h.arrives.1]
  exact ⟨ports, _, hports, rfl, hsent⟩

theorem exec_data (ha : Spec.arrives s n p) (hd : p.dst = deviceNo s) (ht : p.type = 1) :
    ∃ ports t, exec (.data n p) s = .next t ∧ Sends (dataIn p (withPorts ports s)) t := by
  obtain ⟨ports, hports⟩ := arrived_eq (s := s) (n := n) (p := p)
  have hsent := receive_own (k := dataIn p) ha hd
  rw [hports] at hsent
  change ∃ ports t, live s _ = _ ∧ _
  rw [live_of ha.1, if_pos ht]
  exact ⟨ports, _, rfl, hsent⟩

/-- A row of the table at a CTRL packet that arrives (R426, R430, R444). -/
theorem ctrlTable_arrives {row : ℕ × (Port → Packet → Instr)} (hrow : row ∈ Spec.ctrlTable) (ha : Spec.arrives s n p)
    (ht : p.type = 2) :
    (byteAt p.arg 0 = row.1 → p.dst = deviceNo s → ∃ t, exec (row.2 n p) s = .next t ∧
      (portOf t n).rxSeq = ((portOf s n).rxSeq + 1) % 4096 ∧ (portOf t n).skipping = false) ∧
    (¬ (1 ≤ byteAt p.arg 0 ∧ byteAt p.arg 0 ≤ 10) → p.dst = deviceNo s → ∃ t, exec (row.2 n p) s = .next t ∧
      t.ens.dropCount = min 65535 (s.ens.dropCount + 1) ∧ t.ens.dropReason = 4) ∧
    (byteAt p.arg 0 = row.1 → p.dst ≠ deviceNo s →
      (∀ why, (p.ttl ≤ 1 ∧ why = 1) ∨ (1 < p.ttl ∧ routeOf s p.dst = 0xFF ∧ why = 2) ∨
          (1 < p.ttl ∧ (∃ m : Port, routeOf s p.dst = m.val ∧ portActive s m = false) ∧ why = 3) →
        ∃ t, exec (row.2 n p) s = .next t ∧ t.ens.dropCount = min 65535 (s.ens.dropCount + 1) ∧
          t.ens.dropReason = why ∧ (portOf t n).rxSeq = ((portOf s n).rxSeq + 1) % 4096 ∧ t.out = s.out) ∧
      (∀ m : Port, 1 < p.ttl → routeOf s p.dst = m.val → m ≠ n → portActive s m = true → (portOf s m).queue = [] →
        (∀ e ∈ (portOf s m).unacked, e.due = false) → hasCredit (portOf s m) 0 = true →
        holdsGrant s (.port m) = true → s.vib.runFrom = none → ∃ t, exec (row.2 n p) s = .next t ∧
          t.out = .packet m { p with ttl := p.ttl - 1, seq := (portOf s m).txSeq } false :: s.out ∧
          t.ens.dropCount = s.ens.dropCount)) := by
  obtain ⟨hlisted, k, hx, hrx⟩ := ctrlTable_row hrow
  rw [hx, live_of ha.1]
  refine ⟨fun hm hd => ?_, fun hu hd => ?_, fun hm hd =>
    ⟨fun why hwhy => ?_, fun i httl hr hi hactive hq hdue hc hg hrun => ?_⟩⟩
  · exact ⟨_, rfl, rx_of_arrived (hrx _ _ _) (receiveCtrl_own ha hd ht hm)⟩
  · exact ⟨_, rfl, receiveCtrl_unlisted ha hd ht (fun hm => hu (hm ▸ hlisted)) hu⟩
  · rw [receiveCtrl_of ht (.inl hm), receive_other ha hd (routeFail_of hwhy)]
    obtain ⟨hout, hens⟩ := dropPacket_frame (n := n) (p := p) (why := why) (s := arrived n p s)
    refine ⟨_, rfl, ?_, ?_, ?_, hout⟩
    · rw [hens]
      rfl
    · rw [hens]
    · unfold portOf
      rw [hens]
      exact portOf_arrived.1
  · rw [receiveCtrl_of ht (.inl hm)]
    exact ⟨_, rfl, receive_forwarded ha hd ht httl hr hi hactive hq hdue hc hg hrun⟩

/-- The DETAIL of status 0x41 names the device and the layer, that of status 0x40 the layer (R441). -/
theorem faultIn_detail {free : ℕ} (ha : Spec.arrives s n p) :
    (byteAt p.arg 4 = 0x41 → stageDetail p.src (byteAt p.arg 4) (byteAt p.arg 5) free % 65536 =
      p.src + 0x100 * byteAt p.arg 5) ∧
    (byteAt p.arg 4 = 0x40 → stageDetail p.src (byteAt p.arg 4) (byteAt p.arg 5) free % 65536 = byteAt p.arg 5) := by
  have hsrc : p.src < 256 := by
    have hform := ha.2.2.1
    simp only [routedForm, Bool.and_eq_true, decide_eq_true_eq] at hform
    exact hform.2
  have hlayer : byteAt p.arg 5 < 256 := BitVec.isLt _
  refine ⟨fun hst => ?_, fun hst => ?_⟩
  · rw [hst]
    exact Nat.mod_eq_of_lt (show p.src + 0x100 * byteAt p.arg 5 < 65536 by omega)
  · rw [hst]
    exact Nat.mod_eq_of_lt (show byteAt p.arg 5 < 65536 by omega)

end

/-- Settles O59: an arriving packet runs its handler on the state where the port has taken it, and what the port sends after it
touches none of what the handler did. That a RELEASE drops a session without committed tokens and a COMMIT only sets P is the
model's choice (log entry 76). -/
theorem packets : Obligations.Packets := by
  intro s n p part key own msg
  have hmsg : ∀ {m}, msg m → IsMsg s n p m := fun ⟨⟨ha, hd⟩, ht, hm⟩ => ⟨ha, hd, ht, hm⟩
  refine ⟨fun row hrow ha ht => ctrlTable_arrives hrow ha ht, fun ⟨ha, hd⟩ ht sp hsp => ?_, fun h i hi => ?_, fun h => ?_,
    fun h i hi => ?_, fun h r c hres hcmd hc hpart hctx hasked hopen => ?_, fun h x hx => ?_, fun h x hx => ?_, fun h => ?_,
    fun h q hq hrun hnew => ?_, fun h q r c hq hrows hc hsilent hmute hearly hst => ?_, fun h => ?_, fun hp hrun => ?_⟩
  · obtain ⟨ports, t, ht, hsent⟩ := exec_data ha hd ht
    obtain ⟨b, hb⟩ := dataIn_block (s := withPorts ports s) hsp
    refine ⟨t, b, ht, ?_⟩
    rw [hsent.blocks]
    exact hb
  · obtain ⟨ports, t, hports, ht, hsent⟩ := exec_msg (i := .join n p) (hmsg h) rfl
    obtain ⟨r, hr, hdev, hh, hstate, hrecord, hjoined⟩ := joinIn_report (s := withPorts ports s) hi
    refine ⟨t, r, ht, ?_, hdev, hh, hstate, hrecord, ?_⟩
    · rw [hsent.frame]
      exact hr
    · rw [hsent.frame]
      exact hjoined
  · obtain ⟨ports, t, hports, ht, hsent⟩ := exec_msg (i := .reach n p) (hmsg h) rfl
    refine ⟨t, ht, fun d hd => ?_⟩
    have hkept : t.ens.reach = (reachIn n p (withPorts ports s)).ens.reach := by rw [hsent.frame]
    rw [hkept, reachIn_bit hd, ← hports, arrived_neighbour]
    rfl
  · obtain ⟨ports, t, hports, ht, hsent⟩ := exec_msg (i := .reserve n p) (hmsg h) rfl
    refine ⟨fun hshort => ⟨t, ht, ?_⟩, fun tier l hshort => ⟨t, ht, ?_⟩⟩
    · rw [hsent.ctxOf, hsent.heldPages]
      exact reserveIn_admits (s := withPorts ports s) hi hshort
    · obtain ⟨hctxs, hobjs, -⟩ := hsent.tables
      rw [hsent.pageOf, hctxs, hobjs]
      exact reserveIn_refuses (s := withPorts ports s) hi hshort
  · obtain ⟨ports, t, hports, ht, hsent⟩ := exec_msg (i := .reserveReply n p) (hmsg h) rfl
    have hwait : Awaits (withPorts ports s) p r c := ⟨hres, hcmd, hc, hpart, hctx, hasked, hopen⟩
    refine ⟨fun d hd hne hno => ⟨t, ht, ?_⟩, fun hone hrefused hsilent hmute hearly => ⟨t, ht, ?_⟩⟩
    · obtain ⟨-, -, hcmds, -⟩ := hsent.tables
      rw [hsent.reserving, hcmds, replyIn_pending hwait hd hne hno]
      exact ⟨rfl, rfl⟩
    · obtain ⟨hgone, hdone⟩ := replyIn_refused hwait hone hrefused hsilent hmute hearly
      exact ⟨by rw [hsent.reserving]; exact hgone, done_congr (done_of_sends hdone hsent) rfl rfl rfl rfl⟩
  · obtain ⟨ports, t, hports, ht, hsent⟩ := exec_msg (i := .release n p) (hmsg h) rfl
    refine ⟨t, ht, ?_⟩
    rw [hsent.ctxOf, hsent.tables.1]
    exact releaseIn_pages (s := withPorts ports s) hx
  · obtain ⟨ports, t, hports, ht, hsent⟩ := exec_msg (i := .commit n p) (hmsg h) rfl
    refine ⟨t, ht, ?_⟩
    obtain ⟨-, hobjs, -, hmem⟩ := hsent.tables
    rw [hsent.ctxOf, hobjs, hmem]
    exact ⟨commitIn_pos (s := withPorts ports s) hx, rfl, rfl⟩
  · obtain ⟨ports, t, hports, ht, hsent⟩ := exec_msg (i := .rollback n p) (hmsg h) rfl
    refine ⟨t, ht, ?_, fun q hq => ?_⟩
    · rw [hsent.blocks]
      exact rollbackIn_blocks (s := withPorts ports s)
    · rw [hsent.passOf]
      exact rollbackIn_pass (s := withPorts ports s) hq
  · obtain ⟨ports, t, hports, ht, hsent⟩ := exec_msg (i := .stageDone n p) (hmsg h) rfl
    refine ⟨t, ht, ?_⟩
    rw [hsent.passOf]
    exact stageDoneIn_pass (s := withPorts ports s) hq hrun hnew
  · obtain ⟨ports, t, hports, ht, hsent⟩ := exec_msg (i := .fault n p) (hmsg h) rfl
    obtain ⟨hgone, y, hdone⟩ := faultIn_done (s := withPorts ports s) hq hrows hc hsilent hmute hearly hst
    refine ⟨t, _, y, ht, by rw [hsent.passOf]; exact hgone, done_congr (done_of_sends hdone hsent) rfl rfl rfl rfl, ?_⟩
    exact faultIn_detail (hmsg h).arrives
  · obtain ⟨ports, t, hports, ht, hsent⟩ := exec_msg (i := .destroy n p) (hmsg h) rfl
    refine ⟨t, ht, ?_⟩
    simp only [hsent.ctxOf]
    exact ⟨ctxOf_dropCtx (s := withPorts ports s), fun y k hne => ctxOf_dropCtx_ne (s := withPorts ports s) hne⟩
  · refine ⟨fun hst => ⟨exec_keepalive hp hst hrun, fun hbad => ?_, fun hok hnak hq hdue => ?_⟩,
      fun hst hok => ⟨fun hown => ?_, fun hother hdouble hlead => ?_, fun hother hfree hfew => ?_⟩,
      fun hst hok res => ⟨fun helse => ?_, fun hup => ⟨fun hseek => ?_, fun hlocked hplain => ?_⟩⟩⟩
    · rw [exec_ack hp hst hrun, ackIn_bad hbad]
    · obtain ⟨hunacked, hzero, hone⟩ := acked_port (n := n) (p := p) (s := s)
      rw [exec_ack hp hst hrun, ackIn_good hok hnak hq hdue]
      refine ⟨_, rfl, rfl, fun x y e hsplit he hx => ?_, hzero, hone⟩
      rw [hunacked, hsplit, ackedBy_append he hx]
    · rw [exec_ident hp hst hrun, identIn_of hok, if_pos hown]
      exact ⟨_, rfl, trainFail_failed⟩
    · rw [exec_ident hp hst hrun, identIn_of hok, if_neg hother, if_pos ⟨hdouble, hlead⟩]
      exact ⟨_, rfl, trainFail_failed⟩
    · obtain ⟨hport, a, hout, ha⟩ := sendIdent_port (s := identified n p s) (n := n)
      rw [exec_ident hp hst hrun, identIn_of hok, if_neg hother, if_neg hfree, if_pos hfew]
      refine ⟨_, a, rfl, ?_, ?_, ?_, hout, ha⟩
      all_goals rw [hport, identified, portOf_setPort]
      exact hst
    · rw [exec_downbeat hp hst hrun, downbeatIn_elsewhere helse]
      rfl
    · rw [exec_downbeat hp hst hrun, downbeatIn_upstream hok hup (.inl hseek)]
      exact ⟨_, rfl, acceptDownbeat_seek (s := heard n s) hseek⟩
    · rw [exec_downbeat hp hst hrun, downbeatIn_upstream hok hup (.inr hlocked)]
      have haccept := acceptDownbeat_locked (s := heard n s) (n := n) (hops := hopsOf s) (res := res) hlocked hplain
      rw [portOf_heard.2.2] at haccept
      exact ⟨_, rfl, haccept⟩

end Sys2Proof.Proofs

namespace Sys2Proof.Proofs

/-! ### What a change of the ledgers leaves (R32, R38, R52) -/

open Sys2Proof.Machine

section
variable {s t u : State} {l : Ledger} {f : State → State} {c : Consumer} {g : Tag}

/-- `t` came from `s` by work of the governor on its ledgers. -/
def OnlyLedgers (s t : State) : Prop :=
  t = { s with brg := { s.brg with core := t.brg.core, io := t.brg.io, nextId := t.brg.nextId }, cmds := t.cmds }

theorem OnlyLedgers.refl : OnlyLedgers s s := rfl

theorem OnlyLedgers.trans (h : OnlyLedgers s t) (k : OnlyLedgers t u) : OnlyLedgers s u := by
  unfold OnlyLedgers at *
  rw [k, h]

theorem WithinLedger.onlyLedgers (h : WithinLedger l s t) : OnlyLedgers s t := h.frame

theorem OnlyLedgers.foldl {α : Type} {k : State → α → State} {xs : List α} (h : OnlyLedgers s t)
    (hk : ∀ u x, OnlyLedgers s u → OnlyLedgers s (k u x)) : OnlyLedgers s (xs.foldl k t) := by
  induction xs generalizing t with
  | nil => exact h
  | cons x xs ih => exact ih (hk t x h)

theorem onlyLedgers_request : OnlyLedgers s (request c g s) := sameGrants_request.onlyLedgers

theorem onlyLedgers_endGrant : OnlyLedgers s (endGrant c s) := withinLedger_setLedger.onlyLedgers

theorem OnlyLedgers.bsc_eq (h : OnlyLedgers s t) : t.bsc = s.bsc := by rw [h]

theorem OnlyLedgers.score_eq (h : OnlyLedgers s t) : t.score = s.score := by rw [h]

theorem OnlyLedgers.dmc_eq (h : OnlyLedgers s t) : t.dmc = s.dmc := by rw [h]

theorem OnlyLedgers.hif_eq (h : OnlyLedgers s t) : t.hif = s.hif := by rw [h]

theorem OnlyLedgers.evc_eq (h : OnlyLedgers s t) : t.evc = s.evc := by rw [h]

/-- What a rise of a total adds to the history and the peak is no grant. -/
theorem sameGrants_noteRise : SameGrants l t (noteRise l s t) := by
  unfold noteRise
  split
  · exact .refl
  · exact (sameGrants_setLedger rfl).trans sameGrants_noteLedger

theorem onlyLedgers_standingChange : OnlyLedgers (f s) (standingChange f s) :=
  sameGrants_noteRise.onlyLedgers.trans sameGrants_noteRise.onlyLedgers

theorem standingChange_grants : (ledger (standingChange f s) l).grants = (ledger (f s) l).grants :=
  sameGrants_noteRise.grants_eq.trans sameGrants_noteRise.grants_eq

theorem standingChange_holdsGrant : holdsGrant (standingChange f s) c = holdsGrant (f s) c := by
  unfold holdsGrant
  rw [standingChange_grants]

end

end Sys2Proof.Proofs

namespace Sys2Proof.Proofs

/-! ### The copies of the score (R84, R85, R99, R102) -/

open Sys2Proof.Machine

section
variable {s : State} {b : Bool} {rest : List Bool} {r : ℕ} {f : Sfdp} {h c : List Byte}

theorem nextCopy_of_cons (hs : s.bsc.tries = b :: rest) : nextCopy s =
    enterStage .scoreRead 0 (setBsc (fun x => { x with
      copy := b
      tries := rest
      spi := .used
      header := []
      image := [] }) s) := by
  unfold nextCopy
  rw [hs]

theorem nextCopy_of_nil (hs : s.bsc.tries = []) : nextCopy s = enterMute 1 0 s := by
  unfold nextCopy
  rw [hs]

/-- The state in which the copy in hand has failed. -/
def withReason (r : ℕ) (s : State) : State :=
  setBsc (fun x => if x.copy then { x with bReason := r } else { x with aReason := r }) s

theorem copyFails_eq : copyFails r s = nextCopy (withReason r s) := rfl

theorem withReason_tries : (withReason r s).bsc.tries = s.bsc.tries := by
  unfold withReason setBsc
  dsimp only
  split <;> rfl

/-- The reason stands in the field of the copy that failed. -/
theorem withReason_reason :
    (if s.bsc.copy then (withReason r s).bsc.bReason else (withReason r s).bsc.aReason) = r := by
  cases hcopy : s.bsc.copy <;> simp [withReason, setBsc, hcopy]

/-- A failed copy is followed by the copy left to try (R84, R99). -/
theorem copyFails_next (hs : s.bsc.tries = b :: rest) :
    (copyFails r s).bsc.stage = .scoreRead ∧ (copyFails r s).bsc.copy = b ∧ (copyFails r s).bsc.tries = rest ∧
      (if s.bsc.copy then (copyFails r s).bsc.bReason else (copyFails r s).bsc.aReason) = r := by
  rw [copyFails_eq, nextCopy_of_cons (withReason_tries.trans hs)]
  exact ⟨rfl, rfl, rfl, withReason_reason⟩

/-- After the last copy comes MUTE, which ends every grant (R102). -/
theorem copyFails_last (hs : s.bsc.tries = []) : (copyFails r s).bsc.stage = .mute ∧ (copyFails r s).bsc.muteCause = 1 ∧
    (copyFails r s).brg.core.grants = [] ∧ (copyFails r s).brg.io.grants = [] := by
  rw [copyFails_eq, nextCopy_of_nil (withReason_tries.trans hs)]
  exact ⟨rfl, rfl, rfl, rfl⟩

/-- The first copy that BOOT_SEL names, and those left (R84). -/
theorem copiesOf_eq {p : BitVec 2} :
    copiesOf p = decide (p = 1) :: (if p = 1 then [false] else if p = 2 then [] else [true]) := by
  unfold copiesOf
  by_cases hp : p = 1
  · rw [if_pos hp, if_pos hp, decide_eq_true hp]
  · rw [if_neg hp, if_neg hp, decide_eq_false hp]
    split <;> rfl

theorem startIsland_runs {i : Island} : islRuns (startIsland i s) i = true := by
  rw [islRuns, startIsland, islOf_setIsl]
  rfl

/-- The state in which the fuses show, with the copies to try. -/
def fusesShown (s : State) : State :=
  setBsc (fun x => { x with rollback := s.fuses.rollback, revoked := s.fuses.revoked, tries := copiesOf x.bootSel })
    (startIsland 28 { s with glb := { s.glb with loaded := true, serial := s.fuses.serial } })

theorem otpLoaded_eq (hs : s.bsc.stage = .otp) : otpLoaded s = nextCopy (fusesShown s) := by
  unfold otpLoaded
  rw [if_neg (not_not_intro hs)]
  rfl

/-- SCORE_READ takes a header only where it has none. -/
theorem scoreHeader_eq (hs : s.bsc.stage = .scoreRead) (hnone : s.bsc.header = []) (hlen : h.length = 128) :
    scoreHeader f h s = if !f.present then copyFails 1 s
      else if !headerOk h then copyFails 2 s
      else if f.density < copyBase s.bsc.copy + scoreLen h then copyFails 1 s
      else setBsc (fun x => { x with header := h, percent := 12800 / scoreLen h, offset := 128 }) s := by
  unfold scoreHeader
  rw [if_neg (by simp [hs, hnone, hlen])]

theorem copyRead_eq (hs : s.bsc.stage = .scoreRead) (hheader : s.bsc.header ≠ [])
    (hlen : c.length = scoreLen s.bsc.header) (htake : c.take 128 = s.bsc.header) :
    copyRead c s = enterStage .scoreVerify 0 (setBsc (fun x => { x with image := c }) s) := by
  unfold copyRead
  rw [if_neg (by simp [hs, hheader, hlen, htake])]

theorem scoreVerified_error (hs : s.bsc.stage = .scoreVerify) (hj : judgeScore s s.bsc.image = .error r) :
    scoreVerified s = copyFails r s := by
  unfold scoreVerified
  rw [if_neg (not_not_intro hs), hj]

theorem scoreVerified_ok {k : Score} (hs : s.bsc.stage = .scoreVerify) (hj : judgeScore s s.bsc.image = .ok k) :
    scoreVerified s = applyScore k s := by
  unfold scoreVerified
  rw [if_neg (not_not_intro hs), hj]

end

end Sys2Proof.Proofs

namespace Sys2Proof.Proofs

/-! ### The accepted score is applied (R33, R103) -/

open Sys2Proof.Machine

section
variable {s t u : State} {c : Score}

/-- `t` came from `s` by work on the operating point: array grants end, clocks and targets move, the voltage is written. -/
def MovesPoint (s t : State) : Prop :=
  t = { s with brg := { s.brg with core := t.brg.core }, isl := t.isl, pwr := t.pwr, out := t.out }

theorem MovesPoint.refl : MovesPoint s s := rfl

theorem MovesPoint.trans (h : MovesPoint s t) (k : MovesPoint t u) : MovesPoint s u := by
  unfold MovesPoint at *
  rw [k, h]

theorem MovesPoint.setTargets (h : MovesPoint s t) : MovesPoint s (setTargets t) := by
  unfold Machine.setTargets
  generalize List.range 32 = is
  induction is generalizing t with
  | nil => exact h
  | cons i is ih => exact ih (h.trans rfl)

theorem MovesPoint.moveClocks {pt : ℕ} (h : MovesPoint s t) : MovesPoint s (moveClocks pt t) := by
  unfold Machine.moveClocks
  extract_lets t1
  have hclocks : MovesPoint s t1 := .setTargets (h.trans (u := setPwr (fun p => { p with clockPt := pt }) t) rfl)
  exact hclocks.trans rfl

theorem MovesPoint.shedArrays {n : ℕ} (h : MovesPoint s t) : MovesPoint s (shedArrays n t) := by
  induction n generalizing t with
  | zero => exact h
  | succ n ih =>
    unfold Machine.shedArrays
    split
    · exact h
    split
    · exact ih (h.trans rfl)
    · exact h

theorem MovesPoint.startChange {pt : ℕ} (h : MovesPoint s t) : MovesPoint s (startChange pt t) := by
  unfold Machine.startChange
  extract_lets t1
  have hmoved : MovesPoint s t1 := by
    dsimp only [t1]
    split
    · exact .shedArrays (h.trans (u := setPwr (fun p => { p with chargePt := min pt p.chargePt }) t) rfl)
    · exact h.moveClocks
  exact hmoved.trans rfl

theorem MovesPoint.seekPoint (h : MovesPoint s t) : MovesPoint s (seekPoint t) := by
  unfold Machine.seekPoint
  dsimp only
  split
  · exact h
  · exact h.startChange

/-- `t` came from `s` by the judging of pending sources: beside their bits, only MSI-X, PME and WAKE_N may differ. -/
def Presents (s t : State) : Prop :=
  t = { s with evc := { s.evc with pend := t.evc.pend }, link := t.link, out := t.out }

theorem Presents.refl : Presents s s := rfl

theorem Presents.trans (h : Presents s t) (k : Presents t u) : Presents s u := by
  unfold Presents at *
  rw [k, h]

theorem Presents.raiseMsix {v : Fin 2} (h : Presents s t) : Presents s (raiseMsix v t) := by
  unfold Machine.raiseMsix
  split
  · exact h
  split
  · exact h.trans rfl
  · exact h.trans rfl

theorem Presents.sendPme {n : Source} (h : Presents s t) : Presents s (sendPme n t) := by
  unfold Machine.sendPme
  split
  · extract_lets link t1
    split
    · exact h.trans rfl
    · exact h.trans rfl
  · exact h

theorem Presents.assertWake (h : Presents s t) : Presents s (assertWake t) := by
  unfold Machine.assertWake
  split
  · exact h.trans rfl
  · exact h

theorem Presents.updatePend {n : Source} (h : Presents s t) : Presents s (updatePend n t) := by
  unfold Machine.updatePend
  extract_lets was now evc t1 t2
  have hturned : Presents s t1 := h.trans rfl
  have hwoken : Presents s t2 := hturned.sendPme.assertWake
  split
  · exact h
  split
  · split
    · exact hwoken.raiseMsix
    · exact hwoken
  · exact hturned

theorem Presents.updatePends {ns : List ℕ} (h : Presents s t) : Presents s (updatePends ns t) := by
  induction ns generalizing t with
  | nil => exact h
  | cons n ns ih => exact ih h.updatePend

theorem presents_notePresentable {f : State → State} : Presents (f s) (notePresentable f s) := by
  unfold notePresentable
  extract_lets t
  split
  · exact Presents.refl.raiseMsix
  · exact .refl

/-- EVENTS is applied: beside the source controller's own state, only what it presents may differ. -/
theorem applyEvents_frame : applyEvents c s = { s with
    evc := (applyEvents c s).evc, link := (applyEvents c s).link, out := (applyEvents c s).out } ∧
    (applyEvents c s).evc.claimMode = !c.queueMode := by
  unfold applyEvents
  extract_lets bitsAt host cpu
  have h := presents_notePresentable (s := s) (f := fun s => { s with evc := { s.evc with
      claimMode := !c.queueMode, routeHost := host, routeCpu := cpu, inServ := none, armed := BitVec.allOnes 64 } })
  have k := h.updatePends (ns := List.range 64)
  exact ⟨by rw [k], by rw [k]⟩

theorem applyEnsemble_frame :
    applyEnsemble c s = { s with tbs := (applyEnsemble c s).tbs, ens := (applyEnsemble c s).ens } := by
  unfold applyEnsemble
  split <;> rfl

theorem islandsPos_frame {i : Island} : islandsPos i s = { s with bsc := { s.bsc with
    percent := (islandsPos i s).bsc.percent, unit := (islandsPos i s).bsc.unit } } := by
  unfold islandsPos
  split <;> rfl

/-- The score in force, the stage, and what BREATH gives the governor. -/
def inForce (s : State) : Option Score × Stage × ℕ × ℕ × ℕ × ℕ × ℕ × ℕ :=
  (s.score, s.bsc.stage, s.bsc.version, s.brg.ceil, s.brg.ceilLow, s.brg.slope, s.brg.ioCeil, s.brg.margin)

theorem OnlyLedgers.inForce_eq (h : OnlyLedgers s t) : inForce t = inForce s := by
  rw [h]
  rfl

/-- The state in which SCORE_VERIFY has accepted the score. -/
def accepted (c : Score) (s : State) : State :=
  setBsc (fun x => { x with
    version := c.version
    build := c.build
    fw := c.fw
    spi := .idle
    debugOk := c.debugUnlock
    image := [] }) { s with score := some c }

/-- The stage ISLANDS is entered and BREATH is applied, in the order of R103. -/
theorem inForce_applyBreath : inForce (markStarved (applyBreath c (islandsPos 28 (enterStage .islands 0 (accepted c s))))) =
    (some c, .islands, c.version, c.breath.ceil, c.breath.ceilLow, c.breath.slope, c.breath.ioCeil, c.breath.margin) := by
  rw [markStarved_eq, islandsPos_frame]
  rfl

/-- What follows in R103, from the operating point to the events, leaves it in force. -/
theorem inForce_applyScore : inForce (applyScore c s) =
    (some c, .islands, c.version, c.breath.ceil, c.breath.ceilLow, c.breath.slope, c.breath.ioCeil, c.breath.margin) := by
  have hpoint (u : State) : inForce (seekPoint u) = inForce u := by rw [MovesPoint.refl.seekPoint (s := u)]; rfl
  rw [← inForce_applyBreath (s := s)]
  unfold applyScore
  extract_lets t0 t1 t2 t3
  calc inForce (applyDram c (applyEvents c (applyEnsemble c (applyIslands c t3))))
      = inForce (applyEvents c (applyEnsemble c (applyIslands c t3))) := rfl
    _ = inForce (applyEnsemble c (applyIslands c t3)) := by rw [applyEvents_frame.1]; rfl
    _ = inForce (applyIslands c t3) := by rw [applyEnsemble_frame]; rfl
    _ = inForce (setPwr (fun p => { p with req := c.breath.oppoint }) t2) := hpoint _
    _ = inForce t2 := rfl

theorem applyScore_mode : (applyScore c s).evc.claimMode = !c.queueMode := applyEvents_frame.2

end

/-- Settles O30, row by row: the copies follow one another through `nextCopy`, and an accepted score is in force after all that
`applyScore` does, because only its first steps write what the statement reads. -/
theorem theScoreIsReadAndJudged : Obligations.TheScoreIsReadAndJudged := by
  intro s hporst
  refine ⟨fun hotp => ?_, fun f h hread hnone hlen => ?_, fun c hread hheader hlen htake => ?_,
    fun hverify => ⟨fun r hjudge => ?_, fun c hjudge => ?_⟩, fun r b rest htries => copyFails_next htries,
    fun r htries => copyFails_last htries⟩
  · refine ⟨_, live_of hporst, ?_⟩
    rw [otpLoaded_eq hotp, nextCopy_of_cons copiesOf_eq]
    exact ⟨rfl, rfl, rfl, rfl, startIsland_runs, rfl, rfl, rfl⟩
  · have hexec : exec (.scoreHeaderRead f h) s = .next (scoreHeader f h s) := live_of hporst
    rw [hexec, scoreHeader_eq hread hnone hlen]
    refine ⟨fun hnor => by rw [hnor]; rfl, fun hnor hbad => by rw [hnor, hbad]; rfl, fun hnor hgood hfits => ?_⟩
    rw [hnor, hgood, if_neg (not_lt.mpr hfits)]
    exact ⟨_, rfl, rfl⟩
  · refine ⟨_, live_of hporst, ?_⟩
    rw [copyRead_eq hread hheader hlen htake]
    exact ⟨rfl, rfl, rfl⟩
  · refine (live_of hporst).trans ?_
    unfold standingChange
    rw [scoreVerified_error hverify hjudge]
  · have hnoted := onlyLedgers_standingChange (f := scoreVerified) (s := s)
    rw [scoreVerified_ok hverify hjudge] at hnoted
    have hforce := hnoted.inForce_eq.trans inForce_applyScore
    simp only [inForce, Prod.mk.injEq] at hforce
    obtain ⟨hscore, hstage, hversion, hceil, hlow, hslope, hio, hmargin⟩ := hforce
    exact ⟨_, live_of hporst, hscore, hstage, hversion, hceil, hlow, hslope, hio, hmargin,
      (congrArg Evc.claimMode hnoted.evc_eq).trans applyScore_mode⟩

end Sys2Proof.Proofs

namespace Sys2Proof.Proofs

/-! ### What the ensemble ports leave of the start-up (R103, R422) -/

open Sys2Proof.Machine

section
variable {s t u : State} {n : Port} {p : Packet} {c : Cmd} {h : Handle} {d id status detail key : ℕ} {a : Part} {q : Pass}
  {halted : List Voice} {refused : Bool} {payload : List Byte} {r : ErrRec}

/-- `t` came from `s` without a change of the stage or of the pages that are open. -/
structure KeepsStage (s t : State) : Prop where
  stage : t.bsc.stage = s.bsc.stage
  pages : ∀ p, pageOpen t p = pageOpen s p

theorem KeepsStage.refl : KeepsStage s s := ⟨rfl, fun _ => rfl⟩

theorem KeepsStage.trans (k : KeepsStage s t) (m : KeepsStage t u) : KeepsStage s u :=
  ⟨m.stage.trans k.stage, fun p => (m.pages p).trans (k.pages p)⟩

theorem KeepsStage.foldl {α : Type} {f : State → α → State} {l : List α} (k : KeepsStage s t)
    (hf : ∀ u x, KeepsStage s u → KeepsStage s (f u x)) : KeepsStage s (l.foldl f t) := by
  induction l generalizing t with
  | nil => exact k
  | cons x l ih => exact ih (hf t x k)

/-- Work that leaves BSC and the pages alone. -/
theorem KeepsStage.of_eq (k : KeepsStage s t) (hbsc : u.bsc = t.bsc) (hpages : u.hif.pages = t.hif.pages) :
    KeepsStage s u :=
  k.trans ⟨by rw [hbsc], fun p => by rw [pageOpen, pageOf, hpages, pageOpen, pageOf]⟩

theorem KeepsStage.sends (k : KeepsStage s t) (hs : Sends t u) : KeepsStage s u :=
  k.of_eq (by rw [hs.frame]) (by rw [hs.frame])

theorem KeepsStage.logErr (k : KeepsStage s t) : KeepsStage s (logErr r t) := k.sends (.logErr .refl)

/-! The end of a command and of a pass. -/

theorem KeepsStage.queueRec {x : CompRec} (k : KeepsStage s t) : KeepsStage s (queueRec a x t) := by
  unfold Machine.queueRec
  split
  · exact k
  · refine k.trans ⟨rfl, fun p => ?_⟩
    by_cases hp : p = a
    · subst hp
      rw [pageOpen, pageOf_setPage]
      rfl
    · have hne : a.val ≠ p.val := fun e => hp (Fin.ext e.symm)
      simp [pageOpen, pageOf, setPage, hne]

theorem KeepsStage.dropCtxs {xs : List Ctx} (k : KeepsStage s t) :
    KeepsStage s (xs.foldl (fun s x => dropCtx x.part x.num s) t) :=
  k.foldl fun _ _ hu => hu.of_eq rfl rfl

theorem KeepsStage.settleEarly (k : KeepsStage s t) : KeepsStage s (settleEarly t) := by
  unfold Machine.settleEarly
  split
  · exact k
  · extract_lets gone named t1 bsc t2
    have hcounted : KeepsStage s t2 := k.dropCtxs.trans ⟨rfl, fun _ => rfl⟩
    split
    · exact hcounted
    · exact hcounted.trans ⟨rfl, fun _ => rfl⟩

theorem KeepsStage.finish (k : KeepsStage s t) : KeepsStage s (finish id status detail refused payload t) := by
  unfold Machine.finish
  split
  · exact k
  · next c _ =>
    extract_lets r t1 err t2
    have hleft : KeepsStage s (leave c t) := k.of_eq (by rw [leave_frame]) (by rw [leave_frame])
    have hended : KeepsStage s t1 := by
      dsimp only [t1]
      split
      · exact hleft
      · exact hleft.queueRec
    have hlogged : KeepsStage s t2 := by
      dsimp only [t2]
      split
      · exact hended.logErr
      · exact hended
    exact hlogged.settleEarly

theorem KeepsStage.failCmd (k : KeepsStage s t) : KeepsStage s (failCmd id status detail t) := by
  unfold Machine.failCmd
  split
  · exact k
  · exact k.finish

theorem KeepsStage.endPass (k : KeepsStage s t) : KeepsStage s (endPass q halted t) := by
  obtain ⟨u, hu, hend⟩ := endPass_frees (s := t) (p := q) (halted := halted)
  rw [hend]
  refine k.of_eq ?_ ?_
  · exact (congrArg State.bsc hu :)
  · exact (congrArg (fun u : State => u.hif.pages) hu :)

theorem KeepsStage.abandonPass (k : KeepsStage s t) : KeepsStage s (abandonPass q status detail halted t) := by
  unfold Machine.abandonPass
  extract_lets t1
  have htold : KeepsStage s t1 := k.endPass.sends (.tellStages .refl)
  exact htold.foldl fun _ _ hu => hu.failCmd

/-! Split models. -/

theorem KeepsStage.dropReserving (k : KeepsStage s t) : KeepsStage s (dropReserving id t) := by
  unfold Machine.dropReserving
  split
  · extract_lets ens t1
    have hdropped : KeepsStage s t1 := k.of_eq rfl rfl
    exact hdropped.foldl fun _ _ hu => hu.sends (.originate .refl)
  · exact k

theorem KeepsStage.destroyCtx (k : KeepsStage s t) : KeepsStage s (destroyCtx a key t) := by
  unfold Machine.destroyCtx
  extract_lets split_ t1
  have hdropped : KeepsStage s t1 := k.of_eq rfl rfl
  clear_value split_
  cases split_
  case none => exact hdropped
  case some sp =>
    dsimp only
    split
    · exact hdropped.sends (.toStages .refl)
    · exact hdropped

theorem KeepsStage.unjoin (k : KeepsStage s t) : KeepsStage s (unjoin h status detail t) := by
  unfold Machine.unjoin
  extract_lets t1 t2 t3
  have hleft : KeepsStage s t1 := k.of_eq rfl rfl
  split
  · exact hleft
  · have hpass : KeepsStage s t2 := by
      dsimp only [t2]
      split
      · exact hleft.abandonPass
      · exact hleft
    have hcmds : KeepsStage s t3 := hpass.foldl fun _ _ hu => hu.dropReserving.finish
    exact hcmds.foldl fun _ _ hu => hu.destroyCtx.of_eq rfl rfl

theorem KeepsStage.settleJoins (k : KeepsStage s t) : KeepsStage s (settleJoins t) := by
  unfold Machine.settleJoins
  refine k.foldl fun u i hu => ?_
  dsimp only
  split
  · exact hu
  · split
    · split
      · exact hu.unjoin
      · exact hu
    · exact hu.of_eq rfl rfl

/-! The reachable set and the ports. -/

theorem KeepsStage.loseDevice (k : KeepsStage s t) : KeepsStage s (loseDevice d t) := by
  unfold Machine.loseDevice
  extract_lets ens t1
  have hcounted : KeepsStage s t1 := k.of_eq rfl rfl
  exact hcounted.logErr

theorem KeepsStage.findDevice (k : KeepsStage s t) : KeepsStage s (findDevice d t) := by
  unfold Machine.findDevice
  refine k.logErr.foldl fun u i hu => ?_
  dsimp only
  split
  · split
    · exact hu.sends (.originate .refl)
    · exact hu
  · exact hu

theorem KeepsStage.setReach {new : BitVec 256} (k : KeepsStage s t) : KeepsStage s (setReach new t) := by
  unfold Machine.setReach
  extract_lets old ds ens t1 t2
  split
  · exact k
  · have hset : KeepsStage s t1 := k.of_eq rfl rfl
    have hdevices : KeepsStage s t2 := by
      refine hset.foldl fun u d hu => ?_
      split
      · exact hu.findDevice
      · exact hu.loseDevice
    exact (hdevices.sends (.sendReach .refl)).settleJoins

theorem KeepsStage.leavePort {st : PortSt} {cause : Option ℕ} (k : KeepsStage s t) :
    KeepsStage s (leavePort n st cause t) := by
  unfold Machine.leavePort
  extract_lets was t1
  have hleft : KeepsStage s t1 := k.of_eq rfl rfl
  split
  · exact hleft.logErr.setReach
  · exact hleft

theorem KeepsStage.settlePorts (k : KeepsStage s t) : KeepsStage s (settlePorts t) := by
  unfold Machine.settlePorts
  split
  · exact k
  · refine k.foldl fun u i hu => ?_
    dsimp only
    split
    · split
      · exact hu
      · exact hu.leavePort
    split
    · exact hu.of_eq rfl rfl
    · exact hu

end

end Sys2Proof.Proofs

namespace Sys2Proof.Proofs

/-! ### The channels of the stacked memory in TRAIN (R104, R105, R254) -/

open Sys2Proof.Machine

section
variable {s t : State} {c d : Chan} {f : Channel → Channel} {n ms : ℕ} {k : Fin 8}

@[simp] theorem chanOf_setChan : chanOf (setChan c f s) c = f (chanOf s c) := by
  simp [chanOf, setChan, setDmc]

theorem chanOf_setChan_ne (h : c ≠ d) : chanOf (setChan c f s) d = chanOf s d := by
  by_cases hctl : ctlOf c = ctlOf d
  · have hloc : (localOf c).val ≠ (localOf d).val := fun e => by
      have hc : c.val / 8 % 2 = d.val / 8 % 2 := congrArg Fin.val hctl
      have hl : c.val % 8 % 8 = d.val % 8 % 8 := e
      exact h (Fin.ext (by omega))
    simp [chanOf, setChan, setDmc, hctl, hloc]
  · have hctl' : (ctlOf c).val ≠ (ctlOf d).val := fun e => hctl (Fin.ext e)
    simp [chanOf, setChan, setDmc, hctl']

theorem chanOf_of_dmc (h : t.dmc = s.dmc) : chanOf t c = chanOf s c := by rw [chanOf, h, chanOf]

theorem OnlyLedgers.chanOf_eq (h : OnlyLedgers s t) : chanOf t c = chanOf s c := chanOf_of_dmc h.dmc_eq

/-! The position of TRAIN is written, and nothing else. -/

@[simp] theorem trainPos_dmc : (trainPos s).dmc = s.dmc := rfl
@[simp] theorem trainPos_evc : (trainPos s).evc = s.evc := rfl
@[simp] theorem trainPos_hif : (trainPos s).hif = s.hif := rfl
@[simp] theorem trainPos_brg : (trainPos s).brg = s.brg := rfl
@[simp] theorem trainPos_stage : (trainPos s).bsc.stage = s.bsc.stage := rfl
@[simp] theorem trainPos_joined : (trainPos s).bsc.joined = s.bsc.joined := rfl
@[simp] theorem trainPos_trainFail : (trainPos s).bsc.trainFail = s.bsc.trainFail := rfl

theorem chanOf_trainPos : chanOf (trainPos s) c = chanOf s c := chanOf_of_dmc trainPos_dmc

/-- An attempt writes its channel, and may request the channel's grant. -/
theorem onlyLedgers_beginAttempt :
    OnlyLedgers (setChan c (fun h => { h with step := 1, attempt := n }) s) (beginAttempt c n s) := by
  unfold beginAttempt
  extract_lets t
  split
  · exact .refl
  · exact onlyLedgers_request

theorem chanOf_beginAttempt : chanOf (beginAttempt c n s) c = { chanOf s c with step := 1, attempt := n } := by
  rw [onlyLedgers_beginAttempt.chanOf_eq, chanOf_setChan]

theorem chanOf_beginAttempt_ne (h : c ≠ d) : chanOf (beginAttempt c n s) d = chanOf s d := by
  rw [onlyLedgers_beginAttempt.chanOf_eq, chanOf_setChan_ne h]

theorem beginAttempt_bsc : (beginAttempt c n s).bsc = s.bsc := onlyLedgers_beginAttempt.bsc_eq

theorem beginAttempt_hif : (beginAttempt c n s).hif = s.hif := onlyLedgers_beginAttempt.hif_eq

theorem beginAttempt_evc : (beginAttempt c n s).evc = s.evc := onlyLedgers_beginAttempt.evc_eq

theorem report_latch {i : Source} : (report i s).evc.latch.getLsbD i = true := by
  have hbit : (bit64 i).getLsbD i = true := by
    rw [bit64, BitVec.getLsbD_ofNat, Nat.testBit_two_pow_self, Bool.and_true]
    exact decide_eq_true i.isLt
  simp only [report, BitVec.getLsbD_or, hbit, Bool.or_true]

/-! ISLANDS_EXIT (R103, R104). -/

/-- The pages of the score's partitions are open. -/
def pagesOpened (s : State) : State :=
  { s with hif := { s.hif with
    pages := Vector.ofFn fun (p : Part) => { s.hif.pages[p] with isOpen := (partCfg s p).isSome } } }

theorem pageOpen_pagesOpened {p : Part} : pageOpen (pagesOpened s) p = (partCfg s p).isSome := by
  simp [pageOpen, pageOf, pagesOpened]

theorem pageOpen_of_hif {p : Part} (h : t.hif = s.hif) : pageOpen t p = pageOpen s p := by
  rw [pageOpen, pageOf, h, pageOpen, pageOf]

theorem enterStage_hif {st : Stage} : (enterStage st n s).hif = s.hif := rfl

theorem islandsExit_eq (hs : s.bsc.stage = .islands)
    (hall : ((startList s).all fun i => islRuns s (Fin.ofNat 32 i)) = true) : islandsExit s =
    trainPos (beginAttempt 8 1 (beginAttempt 0 1 (settlePorts (enterStage .train 0 (pagesOpened s))))) := by
  unfold islandsExit
  rw [if_neg (by rw [hall]; simp [hs])]
  rfl

/-- TRAIN has begun with the score's pages open and the first attempt of channels 0 and 8. -/
theorem islandsExit_train (hs : s.bsc.stage = .islands)
    (hall : ((startList s).all fun i => islRuns s (Fin.ofNat 32 i)) = true) :
    (islandsExit s).bsc.stage = .train ∧ (∀ p, pageOpen (islandsExit s) p = (partCfg s p).isSome) ∧
      ∀ c : Chan, c = 0 ∨ c = 8 → (chanOf (islandsExit s) c).step = 1 ∧ (chanOf (islandsExit s) c).attempt = 1 := by
  rw [islandsExit_eq hs hall]
  have hports : KeepsStage (enterStage .train 0 (pagesOpened s)) (settlePorts (enterStage .train 0 (pagesOpened s))) :=
    KeepsStage.refl.settlePorts
  generalize settlePorts (enterStage .train 0 (pagesOpened s)) = u at hports
  refine ⟨?_, fun p => ?_, fun c hc => ?_⟩
  · rw [trainPos_stage, beginAttempt_bsc, beginAttempt_bsc]
    exact hports.stage
  · rw [pageOpen_of_hif trainPos_hif, pageOpen_of_hif beginAttempt_hif, pageOpen_of_hif beginAttempt_hif, hports.pages,
      pageOpen_of_hif enterStage_hif, pageOpen_pagesOpened]
  · rw [chanOf_trainPos]
    rcases hc with rfl | rfl
    · rw [chanOf_beginAttempt_ne (by decide), chanOf_beginAttempt]
      exact ⟨rfl, rfl⟩
    · rw [chanOf_beginAttempt]
      exact ⟨rfl, rfl⟩

/-! The end of an attempt (R104, R105). -/

/-- The time of the attempt is kept in its channel. -/
def timed (c : Chan) (ms : ℕ) (s : State) : State := setChan c (fun h => { h with ms := min 65535 ms }) s

theorem attemptEnd_good (ht : isTraining s c = true) (hg : holdsGrant s (.dram c) = true) :
    attemptEnd c none ms s = joinChannel c (timed c ms s) := by
  unfold attemptEnd
  rw [if_neg (by simp [ht]), withLease_of hg, timed]

theorem attemptEnd_failed (ht : isTraining s c = true) (hg : holdsGrant s (.dram c) = true) :
    attemptEnd c (some k) ms s = attemptFails c (k.val + 1) (timed c ms s) := by
  unfold attemptEnd
  rw [if_neg (by simp [ht]), withLease_of hg, timed]

theorem timed_attempt : (chanOf (timed c ms s) c).attempt = (chanOf s c).attempt := by rw [timed, chanOf_setChan]

/-- The row of an attempt's end: beyond it, only the history and the peak of a ledger may rise. -/
theorem exec_attemptEnd {r : Option (Fin 8)} (hp : s.porst = false) : ∃ t,
    exec (.channelTrainAttemptEnd c r ms) s = .next t ∧ OnlyLedgers (attemptEnd c r ms s) t ∧
      holdsGrant t (.dram c) = holdsGrant (attemptEnd c r ms s) (.dram c) :=
  ⟨_, live_of hp, onlyLedgers_standingChange, standingChange_holdsGrant⟩

theorem isTraining_stage (ht : isTraining s c = true) : s.bsc.stage = .train := by
  unfold isTraining at ht
  simp only [Bool.and_eq_true, beq_iff_eq] at ht
  obtain ⟨⟨⟨⟨hstage, -⟩, -⟩, -⟩, -⟩ := ht
  exact hstage

/-- The channel has joined: STEP 8, its bit of CH_JOINED, and source 33. -/
def channelJoined (c : Chan) (s : State) : State :=
  setBsc (fun x => { x with joined := x.joined ||| BitVec.ofNat 16 (2 ^ c.val) })
    (report 33 (setChan c (fun h => { h with step := 8, joined := true }) (endGrant (.dram c) s)))

theorem chanOf_channelJoined : chanOf (channelJoined c s) c = { chanOf s c with step := 8, joined := true } := by
  have hset : (channelJoined c s).dmc =
      (setChan c (fun h => { h with step := 8, joined := true }) (endGrant (.dram c) s)).dmc := rfl
  rw [chanOf_of_dmc hset, chanOf_setChan, onlyLedgers_endGrant.chanOf_eq]

/-- After a channel that is not the sixteenth TRAIN goes on, with the next channel of its controller. -/
theorem joinChannel_train (h : s.bsc.joined ||| BitVec.ofNat 16 (2 ^ c.val) ≠ BitVec.allOnes 16) :
    joinChannel c s = trainPos (if c.val % 8 = 7 then channelJoined c s
      else beginAttempt (Fin.ofNat 16 (c.val + 1)) 1 (channelJoined c s)) := if_neg h

theorem joinChannel_last (h : s.bsc.joined ||| BitVec.ofNat 16 (2 ^ c.val) = BitVec.allOnes 16) :
    joinChannel c s = startPreload (channelJoined c s) := if_pos h

/-- What the next channel's first attempt leaves of the channel that joined, of BSC and of the events. -/
theorem nextChannel_leaves :
    let t := if c.val % 8 = 7 then s else beginAttempt (Fin.ofNat 16 (c.val + 1)) 1 s
    chanOf t c = chanOf s c ∧ t.bsc = s.bsc ∧ t.evc = s.evc := by
  extract_lets t
  dsimp only [t]
  split
  · exact ⟨rfl, rfl, rfl⟩
  · next hlast =>
    have hne : Fin.ofNat 16 (c.val + 1) ≠ c := fun e => by
      have hval : (c.val + 1) % 16 = c.val := congrArg Fin.val e
      have hlt := c.isLt
      omega
    exact ⟨chanOf_beginAttempt_ne hne, beginAttempt_bsc, beginAttempt_evc⟩

/-- A channel that joins while others are left (R104). -/
theorem joinChannel_joins (h : s.bsc.joined ||| BitVec.ofNat 16 (2 ^ c.val) ≠ BitVec.allOnes 16) :
    (chanOf (joinChannel c s) c).joined = true ∧ (chanOf (joinChannel c s) c).step = 8 ∧
      (joinChannel c s).bsc.joined = s.bsc.joined ||| BitVec.ofNat 16 (2 ^ c.val) ∧
      (joinChannel c s).bsc.stage = s.bsc.stage ∧ (joinChannel c s).evc.latch.getLsbD 33 = true := by
  rw [joinChannel_train h]
  obtain ⟨hchan, hbsc, hevc⟩ := nextChannel_leaves (c := c) (s := channelJoined c s)
  generalize (if c.val % 8 = 7 then channelJoined c s
    else beginAttempt (Fin.ofNat 16 (c.val + 1)) 1 (channelJoined c s)) = t at hchan hbsc hevc
  rw [chanOf_trainPos, hchan, chanOf_channelJoined, trainPos_joined, trainPos_stage, trainPos_evc, hbsc, hevc]
  exact ⟨rfl, rfl, rfl, rfl, report_latch⟩

/-- A failed attempt below the third is followed by the next. -/
theorem attemptFails_again (h : (chanOf s c).attempt < 3) :
    attemptFails c n s = trainPos (beginAttempt c ((chanOf s c).attempt + 1) s) := if_pos h

/-- The channel has failed at a step. -/
def channelFailed (c : Chan) (step : ℕ) (s : State) : State :=
  setBsc (fun x => { x with trainFail := true })
    (setChan c (fun h => { h with step := step, failed := true }) (endGrant (.dram c) s))

theorem chanOf_channelFailed : chanOf (channelFailed c n s) c = { chanOf s c with step := n, failed := true } := by
  have hset : (channelFailed c n s).dmc =
      (setChan c (fun h => { h with step := n, failed := true }) (endGrant (.dram c) s)).dmc := rfl
  rw [chanOf_of_dmc hset, chanOf_setChan, onlyLedgers_endGrant.chanOf_eq]

/-- The error record of a channel that failed its attempts. -/
def failRecord (c : Chan) (s : State) : ErrRec :=
  { devErr 0x12 (25 + c.val / 8) s with arg1 := (chanOf s c).attempt, arg2 := c.val }

theorem attemptFails_last (h : 3 ≤ (chanOf s c).attempt) :
    attemptFails c n s = trainPos (logErr (failRecord c s) (channelFailed c n s)) := if_neg (not_lt.mpr h)

/-- Where the error queue has room a record waits for its write. -/
theorem logErr_errWait {r : ErrRec} (h : Spec.canLog s = true) :
    (logErr r s).hif.errWait = s.hif.errWait ++ [r] := by
  simp only [Spec.canLog, Bool.and_eq_true, Bool.not_eq_true', bne_iff_ne, decide_eq_true_eq] at h
  obtain ⟨⟨⟨hmute, hlost⟩, hsize⟩, hroom⟩ := h
  unfold logErr
  rw [if_neg (by simp [hmute, hlost]), if_neg hsize, if_pos hroom]

theorem logErr_dmc {r : ErrRec} : (logErr r s).dmc = s.dmc := by rw [logErr_frame]

theorem logErr_bsc {r : ErrRec} : (logErr r s).bsc = s.bsc := by rw [logErr_frame]

theorem endGrant_dram : holdsGrant (endGrant (.dram c) s) (.dram c) =
    (s.brg.io.grants.eraseP (·.unit == .dram c)).any (·.unit == .dram c) := rfl

theorem attemptFails_fails (h : 3 ≤ (chanOf s c).attempt) :
    (chanOf (attemptFails c n s) c).failed = true ∧ (chanOf (attemptFails c n s) c).step = n ∧
      (attemptFails c n s).bsc.trainFail = true ∧ holdsGrant (attemptFails c n s) (.dram c) =
        ((s.brg.io.grants.eraseP (·.unit == .dram c)).any (·.unit == .dram c)) ∧
      (Spec.canLog s = true → (attemptFails c n s).hif.errWait = s.hif.errWait ++ [failRecord c s]) := by
  rw [attemptFails_last h]
  rw [chanOf_trainPos, chanOf_of_dmc logErr_dmc, chanOf_channelFailed, trainPos_trainFail, logErr_bsc, trainPos_hif,
    ← endGrant_dram]
  refine ⟨rfl, rfl, rfl, ?_, fun hlog => logErr_errWait (s := channelFailed c n s) hlog⟩
  unfold holdsGrant ledger
  rw [trainPos_brg, logErr_brg]
  rfl

end

end Sys2Proof.Proofs

namespace Sys2Proof.Proofs

/-! ### PRELOAD follows TRAIN (R104, R106, R110) -/

open Sys2Proof.Machine

section
variable {s t : State} {i n status : ℕ}

theorem fullEntry_stage : (fullEntry s).bsc.stage = .full := by
  unfold fullEntry
  extract_lets t1 bsc t2
  exact (KeepsStage.refl (s := t2)).settleEarly.stage

theorem preloadFailed_bsc : (preloadFailed i status s).bsc = s.bsc := by
  unfold preloadFailed
  split
  · rfl
  · exact logErr_bsc

theorem preloadPos_stage : (preloadPos s).bsc.stage = s.bsc.stage := by
  unfold preloadPos
  split <;> rfl

/-- Starting entries either waits in PRELOAD or ends in FULL. -/
theorem preloadGo_stage (h : s.bsc.stage = .preload) :
    (preloadGo n s).bsc.stage = .preload ∨ (preloadGo n s).bsc.stage = .full := by
  induction n generalizing s with
  | zero => exact .inl h
  | succ n ih =>
    have hnext : ∀ u : State, u.bsc.stage = .preload → ∀ k,
        (preloadGo n { u with bsc := { u.bsc with preloadIdx := k } }).bsc.stage = .preload ∨
          (preloadGo n { u with bsc := { u.bsc with preloadIdx := k } }).bsc.stage = .full := fun u hu k => ih hu
    have hfailed : ∀ st, (preloadFailed s.bsc.preloadIdx st s).bsc.stage = .preload := fun st => by
      rw [preloadFailed_bsc, h]
    unfold preloadGo
    split
    · exact .inl h
    dsimp only
    split
    · exact .inr fullEntry_stage
    split
    · exact hnext _ (hfailed _) _
    split
    · exact .inl (preloadPos_stage.trans h)
    split
    · exact hnext _ (hfailed _) _
    · exact .inl (preloadPos_stage.trans h)

theorem startPreload_stage : (startPreload s).bsc.stage = .preload ∨ (startPreload s).bsc.stage = .full :=
  preloadGo_stage rfl

end

end Sys2Proof.Proofs

namespace Sys2Proof.Proofs

/-! ### The start of early service (R107) -/

open Sys2Proof.Machine

section
variable {s t u : State} {e : EarlyCfg} {b k page part : ℕ} {who : Option Cmd}

/-- `t` came from `s` by reads of the flash: beside its counters and marks, the records of errors may differ. -/
def ReadsFlash (s t : State) : Prop :=
  t = { s with nand := t.nand, flc := t.flc, hif := t.hif, evc := t.evc }

theorem ReadsFlash.refl : ReadsFlash s s := rfl

theorem ReadsFlash.trans (h : ReadsFlash s t) (m : ReadsFlash t u) : ReadsFlash s u := by
  unfold ReadsFlash at *
  rw [m, h]

theorem ReadsFlash.foldl {α : Type} {f : State → α → State} {l : List α} (h : ReadsFlash s t)
    (hf : ∀ u x, ReadsFlash s u → ReadsFlash s (f u x)) : ReadsFlash s (l.foldl f t) := by
  induction l generalizing t with
  | nil => exact h
  | cons x l ih => exact ih (hf t x h)

theorem ReadsFlash.logErr {r : ErrRec} (h : ReadsFlash s t) : ReadsFlash s (logErr r t) := by
  refine h.trans ?_
  unfold ReadsFlash
  rw [logErr_frame]

theorem ReadsFlash.setBlock {f : NandBlock → NandBlock} (h : ReadsFlash s t) : ReadsFlash s (setBlock b f t) :=
  h.trans rfl

theorem ReadsFlash.markBlock (h : ReadsFlash s t) : ReadsFlash s (markBlock b k t) := by
  unfold Machine.markBlock
  split
  · split
    · exact h.setBlock
    · exact h
  · exact h

theorem ReadsFlash.countReads (h : ReadsFlash s t) : ReadsFlash s (countReads b k t) := by
  unfold Machine.countReads
  extract_lets t1
  have hcounted : ReadsFlash s t1 := h.setBlock
  split
  · exact hcounted.markBlock
  · exact hcounted

theorem ReadsFlash.cwLost (h : ReadsFlash s t) : ReadsFlash s (cwLost b page part who t) := by
  unfold Machine.cwLost
  extract_lets slot
  exact .logErr (h.trans rfl)

theorem readsFlash_readStart : ReadsFlash s (readStart s e) := by
  unfold readStart
  refine ReadsFlash.refl.foldl fun u x hu => ?_
  exact hu.countReads.foldl fun _ _ hv => hv.cwLost

theorem ReadsFlash.bsc_eq (h : ReadsFlash s t) : t.bsc = s.bsc := by rw [h]

theorem ReadsFlash.score_eq (h : ReadsFlash s t) : t.score = s.score := by rw [h]

theorem ReadsFlash.early_eq (h : ReadsFlash s t) : t.early = s.early := by rw [h]

theorem ReadsFlash.strips_eq (h : ReadsFlash s t) : t.strips = s.strips := by rw [h]

/-- The leases that early service reads under have ended (R264). -/
def leasesEnded (s : State) (e : EarlyCfg) : State :=
  ((startPages s e).map (·.1 % 2)).dedup.foldl (fun s c => endGrant (.flash (Fin.ofNat 2 c)) s) s

theorem onlyLedgers_leasesEnded : OnlyLedgers s (leasesEnded s e) :=
  OnlyLedgers.refl.foldl fun _ _ hu => hu.trans onlyLedgers_endGrant

theorem OnlyLedgers.early_eq (h : OnlyLedgers s t) : t.early = s.early := by rw [h]

theorem OnlyLedgers.strips_eq (h : OnlyLedgers s t) : t.strips = s.strips := by rw [h]

theorem OnlyLedgers.fuses_eq (h : OnlyLedgers s t) : t.fuses = s.fuses := by rw [h]

theorem OnlyLedgers.slotState_eq {n : Fin 32} (h : OnlyLedgers s t) : slotState t n = slotState s n := by
  rw [h]
  rfl

theorem OnlyLedgers.slotLen_eq {n : ℕ} (h : OnlyLedgers s t) : slotLen t n = slotLen s n := by
  rw [h]
  rfl

theorem OnlyLedgers.pagePlace_eq {n : Fin 32} (h : OnlyLedgers s t) : pagePlace t n k = pagePlace s n k := by
  rw [h]
  rfl

theorem OnlyLedgers.slotBytes_eq {n : Fin 32} {off len : ℕ} (h : OnlyLedgers s t) :
    slotBytes t n off len = slotBytes s n off len := by
  have hpage {b p : ℕ} : nandPage t b p = nandPage s b p := by rw [h]; rfl
  simp only [slotBytes, h.pagePlace_eq, hpage]

theorem OnlyLedgers.slotDamaged_eq {n : Fin 32} {off len : ℕ} (h : OnlyLedgers s t) :
    slotDamaged t n off len = slotDamaged s n off len := by
  have hflag {b p i : ℕ} : isFlagged t b p i = isFlagged s b p i := by rw [h]; rfl
  simp only [slotDamaged, h.pagePlace_eq, hflag]

theorem OnlyLedgers.ensDevice_eq (h : OnlyLedgers s t) : ensDevice t = ensDevice s := by
  rw [h]
  rfl

/-- The image that early service finds does not depend on what the ledgers hold. -/
theorem OnlyLedgers.earlyImage_eq (h : OnlyLedgers s t) : earlyImage t e = earlyImage s e := by
  simp only [earlyImage, h.slotState_eq, h.slotDamaged_eq, h.slotBytes_eq, h.slotLen_eq, h.ensDevice_eq, h.fuses_eq]

/-- EARLY_SERVICE_START acts: the score names an early model, the stage and the flash allow it, early service has neither begun
nor failed, and the leases of the channels that it reads are held. -/
structure MayStart (s : State) (e : EarlyCfg) : Prop where
  cfg : earlyCfg s = some e
  stage : s.bsc.stage = .train ∨ s.bsc.stage = .preload
  ready : s.flc.ready = true
  early : s.bsc.early = false
  fail : s.bsc.earlyFail = false
  leases : (((startPages s e).map (·.1 % 2)).dedup.all (holdsFlash s .system)) = true

/-- The early model is in service: EARLY, its identifier, and strips 48 to 63. -/
def earlyBegun (m : Model) (s : State) : State :=
  { s with
    early := some m
    hif := { s.hif with earlyId := m.hdr.modelId }
    bsc := { s.bsc with early := true, tEarly := w32 (s.clk / 1000) }
    strips := Vector.ofFn fun (i : Fin 64) =>
      if 48 ≤ i.val then { Strip.reset with owner := some .early } else s.strips[i] }

/-- What the image that was found makes of the state whose pages have been read. -/
def earlyEnds : Except (ℕ × ℕ) Model → State → State
  | .error x, s => earlyFailed x.1 x.2 s
  | .ok m, s => stageChange (earlyBegun m s)

theorem earlyStart_eq (h : MayStart s e) :
    earlyStart s = earlyEnds (earlyImage s e) (readStart (leasesEnded s e) e) := by
  have hacts : ¬ ((s.bsc.stage ≠ .train ∧ s.bsc.stage ≠ .preload) ∨ !s.flc.ready ∨ s.bsc.early ∨ s.bsc.earlyFail) := by
    rcases h.stage with hs | hs <;> simp [hs, h.ready, h.early, h.fail]
  rw [← onlyLedgers_leasesEnded.earlyImage_eq]
  simp only [earlyStart, h.cfg]
  rw [if_neg hacts, withFlash, if_pos h.leases, ← leasesEnded]
  cases earlyImage (leasesEnded s e) e <;> rfl

theorem readsFlash_start : ReadsFlash (leasesEnded s e) (readStart (leasesEnded s e) e) := readsFlash_readStart

/-- With a good image early service has begun, on strips 48 to 63 and no others (R107, R108). -/
theorem earlyStart_ok {m : Model} (h : MayStart s e) (hm : earlyImage s e = .ok m) :
    (earlyStart s).bsc.early = true ∧ (earlyStart s).early = some m ∧ (earlyStart s).hif.earlyId = m.hdr.modelId ∧
      (∀ i : Fin 64, 48 ≤ i.val → (earlyStart s).strips[i].owner = some .early ∧ (earlyStart s).strips[i].st = .free) ∧
      (∀ i : Fin 64, i.val < 48 → (earlyStart s).strips[i] = s.strips[i]) ∧
      (earlyStart s).evc.latch.getLsbD 37 = true := by
  have hstrips : (readStart (leasesEnded s e) e).strips = s.strips := by
    rw [readsFlash_start.strips_eq, onlyLedgers_leasesEnded.strips_eq]
  rw [earlyStart_eq h, hm]
  generalize readStart (leasesEnded s e) e = u at hstrips
  have hstrip (i : Fin 64) : (stageChange (earlyBegun m u)).strips[i] =
      if 48 ≤ i.val then { Strip.reset with owner := some .early } else s.strips[i] := by
    simp [stageChange, earlyBegun, hstrips]
  refine ⟨rfl, rfl, rfl, fun i hi => ?_, fun i hi => ?_, report_latch⟩
  · rw [earlyEnds, hstrip, if_pos hi]
    exact ⟨rfl, rfl⟩
  · rw [earlyEnds, hstrip, if_neg (by omega)]

/-- Early service that has not begun fails once, with a record. -/
theorem earlyFailed_eq {id status : ℕ} (he : earlyCfg s = some e) (hearly : s.bsc.early = false)
    (hfail : s.bsc.earlyFail = false) : earlyFailed id status s =
      logErr { devErr 0x15 24 s with arg0 := id, arg1 := status } { s with bsc := { s.bsc with earlyFail := true } } := by
  unfold earlyFailed
  rw [if_neg (by simp [he, hearly, hfail])]

/-- With any other image EARLY_FAIL is set, and the strips stay as they are (R107). -/
theorem earlyStart_error {x : ℕ × ℕ} (h : MayStart s e) (hx : earlyImage s e = .error x) :
    (earlyStart s).bsc.earlyFail = true ∧ (earlyStart s).bsc.early = false ∧ (earlyStart s).early = s.early ∧
      (earlyStart s).strips = s.strips := by
  have hread := readsFlash_start (s := s) (e := e)
  have hended := onlyLedgers_leasesEnded (s := s) (e := e)
  have hbsc := hread.bsc_eq.trans hended.bsc_eq
  have hearly := hread.early_eq.trans hended.early_eq
  have hstrips := hread.strips_eq.trans hended.strips_eq
  have hcfg : earlyCfg (readStart (leasesEnded s e) e) = some e := by
    rw [earlyCfg, hread.score_eq, hended.score_eq]
    exact h.cfg
  rw [earlyStart_eq h, hx]
  generalize readStart (leasesEnded s e) e = u at hbsc hearly hstrips hcfg
  rw [earlyEnds, earlyFailed_eq hcfg (hbsc ▸ h.early) (hbsc ▸ h.fail), logErr_frame]
  exact ⟨rfl, (congrArg Bsc.early hbsc).trans h.early, hearly, hstrips⟩

end

/-- Settles O31: what each command does is the equation of its row, and the ensemble ports, the reads of the flash and the
governor's book-keeping leave what the statement reads. -/
theorem trainingAndEarlyService : Obligations.TrainingAndEarlyService := by
  intro s hporst
  refine ⟨fun hislands hall => ?_, fun c ms htrain hheld => ?_, fun e hcfg hstage hready hearly hfail hleases => ?_⟩
  · obtain ⟨hstage, hpages, hchans⟩ := islandsExit_train hislands hall
    have hnoted := onlyLedgers_standingChange (f := islandsExit) (s := s)
    refine ⟨_, live_of hporst, ?_, fun p => ?_, fun c hc => ?_⟩
    · rw [hnoted.bsc_eq, hstage]
    · rw [pageOpen_of_hif hnoted.hif_eq, hpages]
    · rw [hnoted.chanOf_eq]
      exact hchans c hc
  · have htraining : s.bsc.stage = .train := isTraining_stage htrain
    refine ⟨fun hleft => ?_, fun hlast => ?_, fun k hfew => ?_, fun k hmany => ?_⟩
    · obtain ⟨t, hexec, hnoted, -⟩ := exec_attemptEnd (c := c) (r := none) (ms := ms) hporst
      rw [attemptEnd_good htrain hheld] at hnoted
      obtain ⟨hjoined, hstep, hbits, hstage, hlatch⟩ := joinChannel_joins (s := timed c ms s) hleft
      refine ⟨t, hexec, ?_⟩
      rw [hnoted.chanOf_eq, hnoted.bsc_eq, hnoted.evc_eq]
      exact ⟨hjoined, hstep, hbits, hstage.trans htraining, hlatch⟩
    · obtain ⟨t, hexec, hnoted, -⟩ := exec_attemptEnd (c := c) (r := none) (ms := ms) hporst
      rw [attemptEnd_good htrain hheld, joinChannel_last (s := timed c ms s) hlast] at hnoted
      refine ⟨t, hexec, ?_⟩
      rw [hnoted.bsc_eq]
      exact startPreload_stage
    · obtain ⟨t, hexec, hnoted, -⟩ := exec_attemptEnd (c := c) (r := some k) (ms := ms) hporst
      rw [attemptEnd_failed htrain hheld, attemptFails_again (timed_attempt.trans_lt hfew)] at hnoted
      refine ⟨t, hexec, ?_⟩
      rw [hnoted.chanOf_eq, hnoted.bsc_eq, chanOf_trainPos, chanOf_beginAttempt, trainPos_joined, beginAttempt_bsc]
      exact ⟨rfl, congrArg (· + 1) timed_attempt, rfl⟩
    · obtain ⟨t, hexec, hnoted, hgrant⟩ := exec_attemptEnd (c := c) (r := some k) (ms := ms) hporst
      rw [attemptEnd_failed htrain hheld] at hnoted hgrant
      obtain ⟨hfailed, hstep, hflag, hgrants, hlog⟩ :=
        attemptFails_fails (n := k.val + 1) (s := timed c ms s) (timed_attempt.symm ▸ hmany)
      refine ⟨t, hexec, ?_⟩
      rw [hnoted.chanOf_eq, hnoted.bsc_eq, hnoted.hif_eq, hgrant]
      exact ⟨hfailed, hstep, hflag, hgrants, fun hroom => ⟨_, hlog hroom, rfl, timed_attempt, rfl⟩⟩
  · have hmay : MayStart s e := ⟨hcfg, hstage, hready, hearly, hfail, hleases⟩
    exact ⟨fun m hm => ⟨_, live_of hporst, earlyStart_ok hmay hm⟩, fun x hx => ⟨_, live_of hporst, earlyStart_error hmay hx⟩⟩

end Sys2Proof.Proofs

namespace Sys2Proof.Proofs

/-! ### Any BAR0 register (R120 to R122) -/

open Sys2Proof.Machine

section
variable {s t : State} {off : ℕ} {v : Word} {be : BitVec 4} {w : Bool} {l : Ledger} {p : Part} {b : Block}

/-- What serves an offset: the link, Memory Space Enable, and a block that answers, with an open page that is not in
reset. -/
theorem served_block (h : served s off = true) : ∃ b, blockOf off = some b ∧ linkAnswers s = true ∧ s.link.mse = true ∧
    answers s b = true ∧ ∀ p, b = .page p → pageOpen s p = true := by
  simp only [served, Bool.and_eq_true] at h
  obtain ⟨⟨⟨_, hlink⟩, hmse⟩, hblock⟩ := h
  split at hblock
  · cases hblock
  next b hb =>
  rw [Bool.and_eq_true] at hblock
  refine ⟨b, hb, hlink, hmse, hblock.1, fun p hp => ?_⟩
  subst hp
  have hpage := hblock.2
  simp only [Bool.and_eq_true] at hpage
  exact hpage.1

/-- A read of a served offset without a register is an unmapped access, answered with 0 (R121). -/
theorem regRead_of_unmapped {val : State → Option Word} {eff : State → State} (h : served s off = true)
    (hv : val s = none) : regRead off val eff s = reply (.bar0 off 0) (unmapped off false s) := by
  obtain ⟨b, hb, hlink, hmse, hans, hopen⟩ := served_block h
  unfold regRead barAccess
  simp only [hlink, hmse, hb, hans, hv]
  cases b
  case page p => simp [hopen p rfl]
  all_goals rfl

/-- An unmapped access touches GLB_UNMAPPED, the error queue and, where a record is lost, the source of losses. -/
theorem unmapped_frame : unmapped off w s = { s with
    glb := (unmapped off w s).glb, hif := { (unmapped off w s).hif with pages := s.hif.pages }
    evc := (unmapped off w s).evc } := by
  unfold unmapped unmappedFor
  dsimp only
  split
  · rfl
  · rw [logErr_frame]

/-- GLB_UNMAPPED_ADDR takes the access, and LOGGED of its partition is set (R122). -/
theorem unmapped_glb : (unmapped off w s).glb = { s.glb with
    unmOffset := off % 2 ^ 20, unmPart := barPart off, unmWrite := w
    unmLogged := if s.glb.unmLogged.getLsbD (barPart off).val then s.glb.unmLogged
      else s.glb.unmLogged ||| BitVec.ofNat 8 (2 ^ (barPart off).val) } := by
  unfold unmapped unmappedFor
  dsimp only
  split
  · rfl
  · rw [logErr_frame]

theorem getLsbD_twoPow_self {n i : ℕ} (h : i < n) : (BitVec.ofNat n (2 ^ i)).getLsbD i = true := by
  rw [BitVec.getLsbD_ofNat, Nat.testBit_two_pow_self, Bool.and_true, decide_eq_true h]

theorem unmapped_logged : (unmapped off w s).glb.unmLogged.getLsbD (barPart off).val = true := by
  rw [unmapped_glb]
  dsimp only
  split
  · assumption
  · rw [BitVec.getLsbD_or, getLsbD_twoPow_self (barPart off).isLt, Bool.or_true]

theorem unmapped_total : total (unmapped off w s) l = total s l := by
  rw [unmapped_frame]
  cases l <;> rfl

theorem standingChange_unmapped : standingChange (unmapped off w) s = unmapped off w s :=
  standingChange_of_total fun _ => unmapped_total.le

theorem standingChange_congr {f g : State → State} (h : f s = g s) : standingChange f s = standingChange g s := by
  rw [standingChange, h, standingChange]

/-- A whole DW that is not HIF_PART_RESET writes its register, or is an unmapped access. -/
theorem registerWrite_whole (h : served s off = true) (hp : partResetAt off = none) :
    registerWrite off [(v, 0xF)] s = (writeReg off v s).getD (unmapped off true s) := by
  change writeDw off v 0xF s = _
  unfold writeDw
  rw [if_neg (by decide), hp]
  exact regWrite_of_served h

/-- A DW with a byte enable clear is an unmapped access (R121). -/
theorem registerWrite_partial (h : served s off = true) (hbe : be ≠ 0xF) :
    registerWrite off [(v, be)] s = unmapped off true s := by
  change writeDw off v be s = _
  unfold writeDw
  rw [if_pos hbe]
  exact regWrite_of_served h

theorem exec_registerWrite {ds : List (Word × BitVec 4)} (h : served s off = true) :
    exec (.registerWrite off ds) s = .next (standingChange (registerWrite off ds) s) := live_of (served_porst h)

/-- A write that moves no charge of the ledgers is made as it stands. -/
theorem exec_registerWrite_of_total (h : served s off = true) (hp : partResetAt off = none)
    (hw : writeReg off v s = some t) (ht : ∀ l, total t l = total s l) :
    exec (.registerWrite off [(v, 0xF)]) s = .next t := by
  have hset : registerWrite off [(v, 0xF)] s = t := by rw [registerWrite_whole h hp, hw, Option.getD_some]
  rw [exec_registerWrite h, standingChange_of_total fun l => by rw [hset]; exact (ht l).le, hset]

theorem exec_rcRegisterRead (h : served s off = true) :
    exec (.rcRegisterRead off 1) s = .next (regRead off (readReg off) (readEff off) s) := live_of (served_porst h)

theorem exec_unmappedBar0Access (h : served s off = true) :
    exec (.unmappedBar0Access off w) s = .next (unmappedAccess off w s) := live_of (served_porst h)

/-- The offset of a register is not unmapped. -/
theorem unmappedAccess_known (h : served s off = true) (hv : readReg off s = some v) : unmappedAccess off w s = s := by
  obtain ⟨b, hb, -, -, -, hopen⟩ := served_block h
  unfold unmappedAccess
  cases w
  · rw [if_neg Bool.false_ne_true, if_pos]
    rw [hv, hb]
    cases b
    case page p => simp [hopen p rfl]
    all_goals rfl
  · rw [if_pos rfl, regWrite_of_served h, hv]
    rfl

theorem unmappedAccess_write (h : served s off = true) (hv : readReg off s = none) :
    unmappedAccess off true s = unmapped off true s := by
  unfold unmappedAccess
  rw [if_pos rfl, regWrite_of_served h, hv]
  rfl

theorem unmappedAccess_read (h : served s off = true) (hv : readReg off s = none) :
    unmappedAccess off false s = reply (.bar0 off 0) (unmapped off false s) := by
  unfold unmappedAccess
  rw [if_neg Bool.false_ne_true, if_neg (by simp [hv])]
  exact regRead_of_unmapped h hv

/-! The GLB registers that take part of a word. -/

theorem lowByte_eq : BitVec.ofNat 8 (bits v.toNat 7 0) = v.extractLsb' 0 8 := by
  apply BitVec.eq_of_toNat_eq
  simp [bits]

theorem writeReg_unmappedBits : writeReg 0x00C v s =
    some { s with glb := { s.glb with unmLogged := s.glb.unmLogged &&& ~~~v.extractLsb' 0 8 } } := by
  rw [← lowByte_eq]
  rfl

end

/-- Settles O43: a served access reaches its register or is an unmapped access, and neither an unmapped access nor a GLB register
moves a charge. -/
theorem anyRegister : Obligations.AnyRegister := by
  intro s off h
  refine ⟨fun v hp => ?_, fun v be hbe => ?_, fun _ _ => rfl, fun _ => rfl, fun v hv => ⟨?_, ?_, ?_⟩,
    fun hv => ⟨?_, ?_, ?_⟩, fun w => ⟨?_, ?_⟩, fun v hoff => ?_, fun v hoff => ?_, fun v hoff => ?_⟩
  · rw [exec_registerWrite h]
    refine congrArg _ (standingChange_congr ?_)
    rw [registerWrite_whole h hp]
    cases writeReg off v s <;> rfl
  · rw [exec_registerWrite h, standingChange_congr (registerWrite_partial h hbe), standingChange_unmapped]
  · rw [exec_rcRegisterRead h, regRead_of_served h hv]
  · rw [exec_unmappedBar0Access h, unmappedAccess_known h hv]
  · rw [exec_unmappedBar0Access h, unmappedAccess_known h hv]
  · rw [exec_rcRegisterRead h, regRead_of_unmapped h hv]
  · rw [exec_unmappedBar0Access h, unmappedAccess_write h hv]
  · rw [exec_unmappedBar0Access h, unmappedAccess_read h hv]
  · rw [unmapped_glb]
    rfl
  · have hpart : (unmapped off w s).glb.unmPart = barPart off := by rw [unmapped_glb]
    rw [hpart]
    exact unmapped_logged
  · subst hoff
    exact exec_registerWrite_of_total h rfl writeReg_unmappedBits fun l => by cases l <;> rfl
  · subst hoff
    exact exec_registerWrite_of_total h rfl rfl fun l => by cases l <;> rfl
  · subst hoff
    exact exec_registerWrite_of_total h rfl rfl fun l => by cases l <;> rfl

end Sys2Proof.Proofs

namespace Sys2Proof.Proofs

/-! ### What a reset of the host link or of a partition leaves (R129 to R131, R163, R234) -/

open Sys2Proof.Machine

section
variable {s t u : State} {p q : Part} {v : Word}

/-! The judging of pending sources, on the link. -/

/-- Beside the held messages, PME_Status and WAKE_N, the link of `t` is that of `s`. -/
def SameConfig (s t : State) : Prop :=
  t.link = { s.link with pba := t.link.pba, pmeStatus := t.link.pmeStatus, wakeN := t.link.wakeN }

theorem SameConfig.refl : SameConfig s s := rfl

theorem SameConfig.trans (h : SameConfig s t) (k : SameConfig t u) : SameConfig s u := by
  unfold SameConfig at *
  rw [k, h]

theorem sameConfig_raiseMsix {i : Fin 2} : SameConfig s (raiseMsix i s) := by
  unfold raiseMsix
  split
  · rfl
  split
  · rfl
  · rfl

theorem sameConfig_sendPme {n : Source} : SameConfig s (sendPme n s) := by
  unfold sendPme
  split
  · dsimp only
    split
    · rfl
    · rfl
  · rfl

theorem sameConfig_assertWake : SameConfig s (assertWake s) := by
  unfold assertWake
  split
  · rfl
  · rfl

theorem sameConfig_updatePend {n : Source} : SameConfig s (updatePend n s) := by
  unfold updatePend
  extract_lets was now evc t1 t2
  have hwoken : SameConfig s t2 := (sameConfig_sendPme (s := t1)).trans sameConfig_assertWake
  split
  · exact .refl
  split
  · split
    · exact hwoken.trans sameConfig_raiseMsix
    · exact hwoken
  · rfl

theorem sameConfig_updatePends {ns : List ℕ} : SameConfig s (updatePends ns s) := by
  induction ns generalizing s with
  | nil => exact .refl
  | cons n ns ih => exact sameConfig_updatePend.trans ih

/-! The HIF registers. -/

theorem pageOf_setPage_ne {f : Page → Page} (h : q ≠ p) : pageOf (setPage p f s) q = pageOf s q := by
  have hval : p.val ≠ q.val := fun e => h (Fin.ext e.symm)
  simp [pageOf, setPage, hval]

/-- Of the registers and queues of HIF, trimming the backlog changes the backlog and the counts of its losses. -/
theorem trimBacklog_hif {n : ℕ} : (trimBacklog n s).hif = { s.hif with
    errWait := (trimBacklog n s).hif.errWait, errLost := (trimBacklog n s).hif.errLost
    errLostRun := (trimBacklog n s).hif.errLostRun } := by
  induction n generalizing s with
  | zero => rfl
  | succ n ih =>
    rw [trimBacklog]
    split
    · rfl
    · rw [ih]
      rfl

/-- A page at its reset values. -/
def resetted (g : Page) : Page := { Page.reset with isOpen := g.isOpen, resetting := g.resetting }

theorem pageOf_resetPage : pageOf (resetPage p s) p = resetted (pageOf s p) := pageOf_setPage

/-- Every page that is named comes to its reset values. -/
theorem pageOf_resetPages {ns : List ℕ} (hp : p ∈ ns.map (Fin.ofNat 8)) :
    pageOf (ns.foldl (fun s i => resetPage (Fin.ofNat 8 i) s) s) p = resetted (pageOf s p) := by
  have hkeeps : ∀ {ns : List ℕ} {s : State}, pageOf s p = resetted (pageOf s p) →
      pageOf (ns.foldl (fun s i => resetPage (Fin.ofNat 8 i) s) s) p = pageOf s p := by
    intro ns
    induction ns with
    | nil => exact fun _ => rfl
    | cons n ns ih =>
      intro s h
      have hn : pageOf (resetPage (Fin.ofNat 8 n) s) p = pageOf s p := by
        by_cases hpn : p = Fin.ofNat 8 n
        · rw [← hpn, pageOf_resetPage, ← h]
        · exact pageOf_setPage_ne hpn
      rw [List.foldl_cons, ih (by rw [hn]; exact h), hn]
  induction ns generalizing s with
  | nil => simp at hp
  | cons n ns ih =>
    rw [List.foldl_cons]
    by_cases hpn : p = Fin.ofNat 8 n
    · rw [← hpn, hkeeps (by rw [pageOf_resetPage]; rfl), pageOf_resetPage]
    · have hns : p ∈ ns.map (Fin.ofNat 8) := by
        rw [List.map_cons, List.mem_cons] at hp
        exact hp.resolve_left hpn
      rw [ih hns, resetPage, pageOf_setPage_ne hpn]

theorem resetHif_hif : pageOf (resetHif s) p = resetted (pageOf s p) ∧ (resetHif s).hif.evq = Ring.reset ∧
    (resetHif s).hif.errq = Ring.reset := by
  have hmem : p ∈ (List.range 8).map (Fin.ofNat 8) := by revert p; decide
  unfold resetHif
  extract_lets t hif
  refine ⟨?_, by rw [trimBacklog_hif], by rw [trimBacklog_hif]⟩
  rw [pageOf, trimBacklog_hif]
  exact pageOf_resetPages hmem

/-! The resets. -/

/-- EVC when a reset of the host link has cleared its registers, and nothing is judged yet. -/
def evcCleared (s : State) : State :=
  { s with evc := { s.evc with
      inServ := none, count := Vector.replicate 64 0, mask := 0, armed := BitVec.allOnes 64, pend := 0 } }

/-- What is still active becomes pending again, which may tell the host, and no more. -/
theorem resetEvcHost_eq : ∃ pend pba pme wake out, resetEvcHost s = { evcCleared s with
    evc := { (evcCleared s).evc with pend := pend }, out := out
    link := { s.link with pba := pba, pmeStatus := pme, wakeN := wake } } := by
  have hevc : Presents (evcCleared s) (resetEvcHost s) := .updatePends .refl
  have hlink : SameConfig (evcCleared s) (resetEvcHost s) := sameConfig_updatePends
  generalize resetEvcHost s = t at hevc hlink
  refine ⟨t.evc.pend, t.link.pba, t.link.pmeStatus, t.link.wakeN, t.out, ?_⟩
  unfold Presents at hevc
  unfold SameConfig at hlink
  rw [hlink] at hevc
  exact hevc

/-- What every reset of the host link clears is clear after it. -/
theorem resetHost_resets : Spec.hostIsReset (resetHost s) := by
  unfold resetHost
  generalize resetCmds (fun _ => true) s = t
  obtain ⟨-, hevq, herrq⟩ := resetHif_hif (s := t) (p := 0)
  have hpage (p : Part) : pageOf (resetHif t) p = resetted (pageOf t p) := resetHif_hif.1
  generalize resetHif t = w at hevq herrq hpage
  obtain ⟨pend, pba, pme, wake, out, hx⟩ := resetEvcHost_eq (s := resetConfig (resetGlb w))
  rw [hx]
  refine ⟨rfl, rfl, rfl, rfl, rfl, rfl, rfl, rfl, rfl, rfl, fun p => ?_, fun p => ?_, hevq, herrq, rfl, rfl, rfl⟩
  · exact Vector.getElem_replicate p.isLt
  · change (pageOf w p).sq = _ ∧ (pageOf w p).cq = _ ∧ (pageOf w p).cqWait = _ ∧ (pageOf w p).fetchStop = _ ∧
      (pageOf w p).deferMark = _
    rw [hpage]
    exact ⟨rfl, rfl, rfl, rfl, rfl⟩

theorem exec_hostLinkReset {k : LinkReset} (hp : s.porst = false) :
    exec (.hostLinkReset k) s = .next (hostLinkReset k s) := live_of hp

theorem exec_flr (hp : s.porst = false) : exec .flr s = .next (flr s) := live_of hp

theorem exec_hifPartResetWrite (hp : s.porst = false) :
    exec (.hifPartResetWrite p v) s = .next (partResetWrite p v s) := live_of hp

theorem hostLinkReset_resets {k : LinkReset} : Spec.hostIsReset (hostLinkReset k s) ∧ (hostLinkReset k s).link.up = false ∧
    (hostLinkReset k s).link.flrBusy = false ∧ (hostLinkReset k s).glb.perst = true ∧
    (k = .perst → (hostLinkReset k s).link.perst = true) := by
  have h := resetHost_resets (s := s)
  unfold hostLinkReset
  generalize resetHost s = t at h
  refine ⟨h, rfl, rfl, rfl, ?_⟩
  rintro rfl
  exact Bool.or_true _

theorem flr_resets (h : linkAnswers s = true) :
    Spec.hostIsReset (flr s) ∧ (flr s).link.flrBusy = true ∧ (flr s).glb.flr = true := by
  have hreset := resetHost_resets (s := s)
  unfold flr
  rw [if_neg (by simp [h])]
  generalize resetHost s = t at hreset
  exact ⟨hreset, rfl, rfl⟩

/-- A partition-reset register that answers judges the key (R163). -/
theorem partResetWrite_of (hlink : linkAnswers s = true) (hmse : s.link.mse = true) (hans : answers s (.page p) = true)
    (hopen : pageOpen s p = true) : partResetWrite p v s = writePartReset p v s := by
  simp [partResetWrite, barAccess, hlink, hmse, hans, hopen]

theorem lowHalf_eq : bits v.toNat 15 0 = (v.extractLsb' 0 16).toNat := by
  simp [bits]

theorem lowHalf_key : bits v.toNat 15 0 = 0x5A5A ↔ v.extractLsb' 0 16 = 0x5A5A := by
  rw [lowHalf_eq]
  exact BitVec.toNat_inj (y := 0x5A5A#16)

theorem writePartReset_refused (h : (pageOf s p).resetting = true ∨ v.extractLsb' 0 16 ≠ 0x5A5A) :
    writePartReset p v s = regRefused (0x4000 + 0x200 * p.val + 0x44) v 2 s := by
  rw [ne_eq, ← lowHalf_key] at h
  exact if_pos (by simpa using h)

theorem writePartReset_starts (hrun : (pageOf s p).resetting = false) (hkey : v.extractLsb' 0 16 = 0x5A5A) :
    writePartReset p v s = partReset p s := by
  rw [← lowHalf_key] at hkey
  exact if_neg (by simp [hrun, hkey])

/-- The two sources of a partition: its completion queue, and its deferral queue (R221). -/
def cqSource (p : Part) : Source := Fin.ofNat 64 (8 + p.val)
def deferSource (p : Part) : Source := Fin.ofNat 64 (40 + p.val)
def ownSources (p : Part) : BitVec 64 := bit64 (cqSource p) ||| bit64 (deferSource p)

theorem ownSources_iff {n : Source} : n.val = 8 + p.val ∨ n.val = 40 + p.val ↔ n = cqSource p ∨ n = deferSource p := by
  have hp := p.isLt
  have hn := n.isLt
  simp only [cqSource, deferSource, Fin.ext_iff, Fin.val_ofNat]
  omega

theorem ownSources_bit {n : Source} (h : n = cqSource p ∨ n = deferSource p) : (ownSources p).getLsbD n = true := by
  unfold ownSources bit64
  rw [BitVec.getLsbD_or, BitVec.getLsbD_ofNat, BitVec.getLsbD_ofNat]
  rcases h with rfl | rfl
  · rw [Nat.testBit_two_pow_self, decide_eq_true (cqSource p).isLt]
    rfl
  · rw [Nat.testBit_two_pow_self, decide_eq_true (deferSource p).isLt]
    exact Bool.or_true _

/-- EVC when a partition reset has cleared the registers of its sources, and nothing is judged yet. -/
def evcPartCleared (p : Part) (s : State) : State :=
  { s with evc := { s.evc with
      inServ := if s.evc.inServ = some (cqSource p) ∨ s.evc.inServ = some (deferSource p) then none else s.evc.inServ
      count := (s.evc.count.set (cqSource p) 0).set (deferSource p) 0
      mask := s.evc.mask &&& ~~~ownSources p
      armed := s.evc.armed ||| ownSources p
      pend := s.evc.pend &&& ~~~ownSources p } }

theorem resetEvcPart_frame : Presents (evcPartCleared p s) (resetEvcPart p s) := presents_notePresentable.updatePends

/-- The sources of the partition are armed, unmasked and out of service, and have no occurrence (R234). -/
theorem evcPartCleared_source {n : Source} (h : n = cqSource p ∨ n = deferSource p) :
    (evcPartCleared p s).evc.armed.getLsbD n = true ∧ (evcPartCleared p s).evc.mask.getLsbD n = false ∧
      (evcPartCleared p s).evc.count[n] = 0 ∧ (evcPartCleared p s).evc.inServ ≠ some n := by
  have hbit := ownSources_bit h
  refine ⟨?_, ?_, ?_, ?_⟩
  · rw [evcPartCleared, BitVec.getLsbD_or, hbit, Bool.or_true]
  · rw [evcPartCleared, BitVec.getLsbD_and, BitVec.getLsbD_not, hbit, Bool.not_true, Bool.and_false, Bool.and_false]
  · change ((s.evc.count.set (cqSource p) 0).set (deferSource p) 0)[n.val] = 0
    rw [Vector.getElem_set]
    split
    · rfl
    · next hne =>
      have hn : n = cqSource p := h.resolve_right fun e => hne (congrArg Fin.val e).symm
      rw [hn, Vector.getElem_set_self]
  · change (if s.evc.inServ = some (cqSource p) ∨ s.evc.inServ = some (deferSource p) then none else s.evc.inServ) ≠ some n
    split
    · exact nofun
    · next hother =>
      intro hn
      rw [hn] at hother
      exact hother (h.imp (congrArg some) (congrArg some))

/-- A partition reset from where its commands and its sessions have ended. -/
theorem partReset_eq : ∃ u, partReset p s =
    resetEvcPart p (setPage p (fun g => { g with resetting := true }) (resetPage p (dropMasks p u))) := ⟨_, rfl⟩

/-- While the reset runs the page reads as reset; the partition's masks are gone, and its sources are as after a reset
(R163, R234). -/
theorem partReset_resets : (pageOf (partReset p s) p).resetting = true ∧ (pageOf (partReset p s) p).sq = Ring.reset ∧
    (pageOf (partReset p s) p).cq = Ring.reset ∧ (pageOf (partReset p s) p).cqWait = [] ∧
    (pageOf (partReset p s) p).userDram = 0 ∧ (partReset p s).defMask[p] = none ∧
    (∀ i : Fin 32, (partReset p s).masks[p][i] = none) ∧
    ∀ n : Source, n = cqSource p ∨ n = deferSource p →
      (partReset p s).evc.armed.getLsbD n = true ∧ (partReset p s).evc.mask.getLsbD n = false ∧
      (partReset p s).evc.count[n] = 0 ∧ (partReset p s).evc.inServ ≠ some n := by
  obtain ⟨u, hu⟩ := partReset_eq (p := p) (s := s)
  rw [hu]
  have hpage : pageOf (setPage p (fun g => { g with resetting := true }) (resetPage p (dropMasks p u))) p =
      { resetted (pageOf (dropMasks p u) p) with resetting := true } := by rw [pageOf_setPage, pageOf_resetPage]
  have hdef : (setPage p (fun g => { g with resetting := true }) (resetPage p (dropMasks p u))).defMask =
      u.defMask.set p none := rfl
  have hmasks : (setPage p (fun g => { g with resetting := true }) (resetPage p (dropMasks p u))).masks =
      u.masks.set p (Vector.replicate 32 none) := rfl
  generalize setPage p (fun g => { g with resetting := true }) (resetPage p (dropMasks p u)) = w at hpage hdef hmasks
  have hframe := resetEvcPart_frame (p := p) (s := w)
  have hpages : pageOf (resetEvcPart p w) p = pageOf w p := by rw [pageOf, hframe]; rfl
  have hevc : (resetEvcPart p w).evc = { (evcPartCleared p w).evc with pend := (resetEvcPart p w).evc.pend } := by
    rw [hframe]
  rw [hpages, hpage, hframe]
  refine ⟨rfl, rfl, rfl, rfl, rfl, ?_, fun i => ?_, fun n hn => evcPartCleared_source hn⟩
  · change w.defMask[p] = none
    rw [hdef]
    exact Vector.getElem_set_self _
  · change w.masks[p][i] = none
    rw [hmasks]
    exact (congrArg (·[i]) (Vector.getElem_set_self p.isLt)).trans (Vector.getElem_replicate i.isLt)

end

/-- Settles O41: what a reset leaves is what its last operations write, and the judging of events after them touches none of
it. -/
theorem resetsOfTheHostLink : Obligations.ResetsOfTheHostLink := by
  intro s hporst
  refine ⟨fun k => ⟨_, exec_hostLinkReset hporst, hostLinkReset_resets⟩, fun h => ⟨_, exec_flr hporst, flr_resets h⟩,
    fun h => ?_, live_of hporst, fun p v hlink hmse hans hopen => ?_, fun p => ⟨_, live_of hporst, pageOf_setPage,
      fun q hq => pageOf_setPage_ne hq, rfl⟩⟩
  · rw [exec_flr hporst, flr, h]
    rfl
  · rw [exec_hifPartResetWrite hporst, partResetWrite_of hlink hmse hans hopen]
    refine ⟨fun h => by rw [writePartReset_refused h], fun hrun hkey => ⟨_, by rw [writePartReset_starts hrun hkey], ?_⟩⟩
    obtain ⟨hrunning, hsq, hcq, hwait, huser, hdef, hmasks, hsources⟩ := partReset_resets (p := p) (s := s)
    exact ⟨hrunning, hsq, hcq, hwait, huser, hdef, hmasks, fun n hn => hsources n (ownSources_iff.mp hn)⟩

end Sys2Proof.Proofs

namespace Sys2Proof.Proofs

/-! ### Configuration space, LTR and held MSI-X messages (R81, R116 to R118, R512, R513) -/

open Sys2Proof.Machine

section
variable {s : State} {off i n w speed width : ℕ} {v : Word} {be : BitVec 4} {r : CfgReq} {k : Link} {m : Fin 2}

/-! Configuration space. -/

theorem exec_configRequest (hp : s.porst = false) : exec (.configRequest r) s = .next (configRequest r s) := live_of hp

theorem configRequest_down (h : s.link.up = false) : configRequest r s = s := by
  simp [configRequest, h]

theorem configRequest_retry (hup : s.link.up = true) (h : s.bsc.stage = .otp ∨ s.link.flrBusy = true) :
    configRequest r s = send (.config none) s := by
  unfold configRequest
  rw [if_neg (by simp [hup]), if_pos h]

/-- Where the device answers, the link is up, the stage is past OTP, and no FLR runs (R81, R130). -/
theorem linkAnswers_link (h : linkAnswers s = true) : s.link.up = true ∧ s.bsc.stage ≠ .otp ∧ s.link.flrBusy = false := by
  simp only [linkAnswers, Bool.and_eq_true, bne_iff_ne, Bool.not_eq_true'] at h
  obtain ⟨⟨⟨hstage, hup⟩, hflr⟩, -⟩ := h
  exact ⟨hup, hstage, hflr⟩

theorem configRequest_write (h : linkAnswers s = true) :
    configRequest (.write off v be) s = send (.config (some 0)) (cfgWrite off v be s) := by
  obtain ⟨hup, hstage, hflr⟩ := linkAnswers_link h
  unfold configRequest
  rw [if_neg (by simp [hup]), if_neg (by simp [hstage, hflr]), if_neg (by simp [h])]

/-- A read answers a value, an open one where the layout leaves the register open, and changes no more. -/
theorem configRequest_read (h : linkAnswers s = true) : ∃ x ctr, configRequest (.read off) s =
    { s with out := .config (some x) :: s.out, freeCtr := ctr } ∧ ∀ y, cfgRead s off = some y → x = y := by
  obtain ⟨hup, hstage, hflr⟩ := linkAnswers_link h
  unfold configRequest
  rw [if_neg (by simp [hup]), if_neg (by simp [hstage, hflr]), if_neg (by simp [h])]
  dsimp only
  split
  · next y hy => exact ⟨y, s.freeCtr, rfl, fun z hz => Option.some.inj (hy.symm.trans hz)⟩
  · next hnone => exact ⟨_, _, rfl, fun z hz => by rw [hnone] at hz; cases hz⟩

/-- With all four byte enables a register takes the word as it is. -/
theorem cfgWrite_link : (cfgWrite off v 0xF s).link = cfgSet (off / 4 * 4) v.toNat v.toNat s.link := by
  have hmask : beMask 0xF = 0xFFFFFFFF := by decide
  have hword : v.toNat &&& 0xFFFFFFFF = v.toNat := by
    rw [show 0xFFFFFFFF = 2 ^ 32 - 1 from rfl, Nat.and_two_pow_sub_one_eq_mod, Nat.mod_eq_of_lt v.isLt]
  change cfgSet (off / 4 * 4) (((cfgRead s (off / 4 * 4)).getD 0 &&& (0xFFFFFFFF - beMask 0xF)) ||| (v.toNat &&& beMask 0xF))
    (v.toNat &&& beMask 0xF) s.link = _
  rw [hmask, hword, Nat.sub_self, Nat.and_zero, Nat.zero_or]

theorem bitAt_toNat : bitAt v.toNat i = v.getLsbD i := by
  rw [bitAt, BitVec.getLsbD, Nat.testBit_eq_decide_div_mod_eq]
  rfl

theorem w32_toNat : w32 v.toNat = v := by
  rw [w32, BitVec.ofNat_toNat, BitVec.setWidth_eq]

theorem cfgSet_command : cfgSet 0x04 v.toNat w k =
    { k with mse := v.getLsbD 1, bme := v.getLsbD 2, command := v &&& 0x540 } := by
  calc cfgSet 0x04 v.toNat w k
      = { k with mse := bitAt v.toNat 1, bme := bitAt v.toNat 2, command := w32 v.toNat &&& 0x540 } := rfl
    _ = _ := by rw [bitAt_toNat, bitAt_toNat, w32_toNat]

theorem cfgSet_msix : cfgSet 0x50 v.toNat w k = { k with msixMask := v.getLsbD 30, msixEn := v.getLsbD 31 } := by
  rw [← bitAt_toNat, ← bitAt_toNat]
  rfl

theorem cfgSet_aer : cfgSet 0x104 n v.toNat k = { k with aerStatus := k.aerStatus &&& ~~~v } := by
  conv_rhs => rw [← w32_toNat (v := v)]
  rfl

/-- PME_En is written, and a 1 clears PME_Status (R513). -/
theorem pmWrite_pme : (pmWrite n w k).pmeEn = bitAt n 8 ∧ (pmWrite n w k).pmeStatus = (k.pmeStatus && !bitAt w 15) := by
  unfold pmWrite
  dsimp only
  split <;> exact ⟨rfl, rfl⟩

/-- The two low bits name D0 or D3hot; another value leaves the state of power. -/
theorem pmWrite_d3 : (pmWrite n w k).d3 = if n % 4 = 0 then false else if n % 4 = 3 then true else k.d3 := by
  unfold pmWrite
  dsimp only
  split
  · next h => rw [if_pos h]
  · next h => rw [if_neg (by omega), if_pos h]
  · next h0 h3 => rw [if_neg h0, if_neg h3]

/-! LINK_UP. -/

theorem exec_linkUp (hp : s.porst = false) : exec (.linkUp speed width) s = .next (linkUp speed width s) := live_of hp

/-- LINK_UP is refused but at a legal speed and width, with a reference clock. -/
theorem linkUp_refused_iff :
    (speed < 1 ∨ 4 < speed ∨ (!([1, 2, 4] : List Nat).contains width) = true ∨ s.isl.refLost = true) ↔
    ¬ ((1 ≤ speed ∧ speed ≤ 4) ∧ (width = 1 ∨ width = 2 ∨ width = 4) ∧ s.isl.refLost = false) := by
  simp only [List.contains_cons, List.contains_nil, Bool.not_eq_true', Bool.or_eq_false_iff, beq_eq_false_iff_ne]
  cases s.isl.refLost
  · simp
    omega
  · simp

/-! LTR and MSI-X. -/

theorem exec_ltrMessage (hp : s.porst = false) : exec .ltrMessage s = .next (ltrMessage s) := live_of hp

/-- 1 ms while no command is in the table and every ring is empty, else 20 microseconds (R118). -/
theorem ltrNeed_eq : ltrNeed s =
    if s.cmds = [] ∧ ∀ p : Part, (pageOf s p).sq.head = (pageOf s p).sq.tail then 1000000 else 20000 := by
  have hrings : (s.hif.pages.toList.any fun g => g.sq.head != g.sq.tail) = false ↔
      ∀ p : Part, (pageOf s p).sq.head = (pageOf s p).sq.tail := by
    simp only [List.any_eq_false, Vector.mem_toList_iff, bne_iff_ne, not_not]
    refine ⟨fun h p => h _ (Vector.getElem_mem p.isLt), fun h g hg => ?_⟩
    obtain ⟨i, hi, rfl⟩ := Vector.getElem_of_mem hg
    exact h ⟨i, hi⟩
  unfold ltrNeed
  by_cases hidle : s.cmds = [] ∧ ∀ p : Part, (pageOf s p).sq.head = (pageOf s p).sq.tail
  · obtain ⟨hcmds, hempty⟩ := hidle
    exact (if_neg (by rw [hrings.mpr hempty, hcmds]; decide)).trans (if_pos ⟨hcmds, hempty⟩).symm
  · refine (if_pos ?_).trans (if_neg hidle).symm
    rw [← hrings, not_and_or, Bool.not_eq_false] at hidle
    simpa using hidle

theorem ltrMessage_sends (hen : s.link.ltrEn = true) (hup : s.link.up = true) (hrest : s.pwr.st ≠ .rest)
    (hnew : s.link.ltrSent ≠ some (ltrNeed s)) : ltrMessage s =
      { s with link := { s.link with ltrSent := some (ltrNeed s) }, out := .ltr (some (ltrNeed s)) :: s.out } :=
  if_neg (by simp [hen, hup, hrest, hnew])

theorem ltrMessage_idle (h : s.link.ltrEn = false ∨ s.link.up = false ∨ s.pwr.st = .rest ∨
    s.link.ltrSent = some (ltrNeed s)) : ltrMessage s = s :=
  if_pos (by simpa [or_assoc] using h)

theorem exec_msixHeldSend (hp : s.porst = false) : exec (.msixHeldSend m) s = .next (msixHeldSend m s) := live_of hp

theorem msixHeldSend_idle (h : s.link.pba.getLsbD m = false ∨ msixHeld s m = true ∨ muted s = true) :
    msixHeldSend m s = s :=
  if_pos (by simpa [or_assoc] using h)

/-- A held message that nothing holds any more leaves, and its pending bit with it (R512). -/
theorem msixHeldSend_sends (hpba : s.link.pba.getLsbD m = true) (hheld : msixHeld s m = false) (hmute : muted s = false) :
    msixHeldSend m s = { s with
      link := { s.link with pba := s.link.pba &&& ~~~BitVec.ofNat 2 (2 ^ m.val) }, out := msixMsg s m :: s.out } :=
  if_neg (by simp [hpba, hheld, hmute])

theorem pba_cleared {b : BitVec 2} : (b &&& ~~~BitVec.ofNat 2 (2 ^ m.val)).getLsbD m = false ∧
    ∀ u : Fin 2, u ≠ m → (b &&& ~~~BitVec.ofNat 2 (2 ^ m.val)).getLsbD u = b.getLsbD u := by
  revert b m
  decide

end

/-- Settles O40, row by row; the layout of the registers is the model's choice (log entry 6), and so is what a disabled ring
counts for LTR (log entry 38). -/
theorem configurationSpaceAndMessages : Obligations.ConfigurationSpaceAndMessages := by
  intro s hporst
  refine ⟨fun r hdown => ?_, fun r hup hbusy => ?_, fun h => ⟨fun off => ?_, fun off v be => ⟨?_, rfl⟩, fun v => ?_⟩,
    fun speed width => ⟨fun h => ?_, fun h => ?_⟩, ?_, fun v => ⟨fun hpba hheld hmute => ?_, fun h => ?_⟩⟩
  · rw [exec_configRequest hporst, configRequest_down hdown]
  · rw [exec_configRequest hporst, configRequest_retry hup hbusy]
  · obtain ⟨x, ctr, hread, hx⟩ := configRequest_read (off := off) h
    refine ⟨_, x, exec_configRequest hporst, ?_⟩
    rw [hread]
    refine ⟨rfl, rfl, ?_⟩
    rintro rfl
    exact hx _ rfl
  · rw [exec_configRequest hporst, configRequest_write h]
  · dsimp only
    simp only [cfgWrite_link]
    refine ⟨rfl, cfgSet_command, cfgSet_msix, cfgSet_aer, ?_, ?_, pmWrite_d3⟩
    · rw [← bitAt_toNat]
      exact pmWrite_pme.1
    · rw [← bitAt_toNat]
      exact pmWrite_pme.2
  · exact ⟨_, (exec_linkUp hporst).trans (congrArg _ (if_neg (linkUp_refused_iff.not.mpr (not_not_intro h)))), rfl⟩
  · exact (exec_linkUp hporst).trans (congrArg _ (if_pos (linkUp_refused_iff.mpr h)))
  · dsimp only
    rw [exec_ltrMessage hporst, ← ltrNeed_eq]
    exact ⟨fun hen hup hrest hnew => by rw [ltrMessage_sends hen hup hrest hnew], fun h => by rw [ltrMessage_idle h]⟩
  · rw [exec_msixHeldSend hporst, msixHeldSend_sends hpba hheld hmute]
    obtain ⟨hclear, hother⟩ := pba_cleared (m := v) (b := s.link.pba)
    exact ⟨_, rfl, rfl, hclear, rfl, hother⟩
  · rw [exec_msixHeldSend hporst, msixHeldSend_idle h]

end Sys2Proof.Proofs

namespace Sys2Proof.Proofs

/-! ### Bytes of stacked memory, written and read back (R126, R248 to R250) -/

open Sys2Proof.Machine

section
variable {s t u : State} {a n k x : ℕ} {b : Byte} {bs cs : List Byte} {m : Memory} {c : Chan} {w : Bool}

theorem memByte_below (h : ∀ e ∈ m, x < e.1) : memByte m x = 0 := by
  induction m with
  | nil => rfl
  | cons e m ih =>
    obtain ⟨hx, hm⟩ := List.forall_mem_cons.mp h
    obtain ⟨k, v⟩ := e
    rw [memByte, if_neg hx.ne', ih hm]

/-- In the canonical form a byte that is written is read back. -/
theorem memByte_memSet (h : Memory.wf m = true) : memByte (memSet m a b) a = b := by
  induction m with
  | nil =>
    rw [memSet]
    split
    · next hb => exact hb.symm
    · exact if_pos rfl
  | cons e m ih =>
    obtain ⟨k, v⟩ := e
    obtain ⟨-, hm, hwf⟩ := Memory.wf_cons.mp h
    rw [memSet]
    split
    · next hk => rw [memByte, if_neg hk.ne, ih hwf]
    split
    · next hk =>
      subst hk
      split
      · next hb => rw [memByte_below hm, hb]
      · exact if_pos rfl
    · next hlt hne =>
      split
      · next hb =>
        rw [memByte_below, hb]
        exact List.forall_mem_cons.mpr ⟨by omega, fun e he => by have := hm e he; omega⟩
      · exact if_pos rfl

theorem memByte_memSet_ne (h : x ≠ a) : memByte (memSet m a b) x = memByte m x := by
  induction m with
  | nil =>
    rw [memSet]
    split
    · rfl
    · exact if_neg h.symm
  | cons e m ih =>
    obtain ⟨k, v⟩ := e
    rw [memSet]
    split
    · rw [memByte, memByte, ih]
    split
    · next hk =>
      subst hk
      rw [memByte, if_neg h.symm]
      split
      · rfl
      · exact if_neg h.symm
    · split
      · rfl
      · exact if_neg h.symm

theorem memByte_memWrite_outside (h : x < a ∨ a + bs.length ≤ x) : memByte (memWrite m a bs) x = memByte m x := by
  induction bs generalizing m a with
  | nil => rfl
  | cons b bs ih =>
    rw [List.length_cons] at h
    rw [memWrite, ih (by omega), memByte_memSet_ne (by omega)]

theorem memByte_memWrite (hwf : Memory.wf m = true) {i : ℕ} (hi : i < bs.length) :
    memByte (memWrite m a bs) (a + i) = bs[i] := by
  induction bs generalizing m a i with
  | nil => cases hi
  | cons b bs ih =>
    rw [memWrite]
    cases i with
    | zero => rw [memByte_memWrite_outside (by omega)]; exact memByte_memSet hwf
    | succ i =>
      rw [show a + (i + 1) = a + 1 + i by omega, ih (Memory.wf_memSet hwf) (Nat.lt_of_succ_lt_succ hi)]
      rfl

theorem memWrite_append : memWrite m a (bs ++ cs) = memWrite (memWrite m a bs) (a + bs.length) cs := by
  induction bs generalizing m a with
  | nil => rfl
  | cons b bs ih =>
    rw [List.cons_append, memWrite, ih, memWrite, List.length_cons, Nat.add_assoc, Nat.add_comm 1]

/-! What moving bursts leaves (R245 to R247). -/

/-- `t` came from `s` by work of the controllers on their rows and counters; no channel failed or came back. -/
structure MovesRows (s t : State) : Prop where
  frame : t = { s with dmc := t.dmc }
  dead : ∀ c, (chanOf t c).dead = (chanOf s c).dead

theorem MovesRows.refl : MovesRows s s := ⟨rfl, fun _ => rfl⟩

theorem MovesRows.trans (h : MovesRows s t) (k : MovesRows t u) : MovesRows s u :=
  ⟨by rw [k.frame, h.frame], fun c => (k.dead c).trans (h.dead c)⟩

theorem MovesRows.foldl {α : Type} {f : State → α → State} {l : List α} (h : MovesRows s t)
    (hf : ∀ t x, MovesRows t (f t x)) : MovesRows s (l.foldl f t) := by
  induction l generalizing t with
  | nil => exact h
  | cons x l ih => exact ih (h.trans (hf t x))

theorem movesRows_setChan {f : Channel → Channel} (hf : ∀ h, (f h).dead = h.dead) : MovesRows s (setChan c f s) where
  frame := rfl
  dead d := by
    by_cases hd : c = d
    · subst hd; rw [chanOf_setChan, hf]
    · rw [chanOf_setChan_ne hd]

theorem movesRows_bump {j : Fin 8} : MovesRows s (bump c j n s) := by
  unfold bump
  refine movesRows_setChan ?_
  exact fun _ => rfl

theorem movesRows_closeRow {i : Fin 16} : MovesRows s (closeRow c i s) := by
  unfold closeRow
  refine movesRows_setChan fun h => ?_
  dsimp only
  split
  · rfl
  · rfl

theorem movesRows_openRow {i : Fin 16} : MovesRows s (openRow c i n s) := by
  unfold openRow
  refine ((movesRows_closeRow.trans movesRows_closeRow).trans (movesRows_setChan ?_)).trans movesRows_bump
  exact fun _ => rfl

theorem movesRows_setCheck : MovesRows s (setCheck c n s) := by
  unfold setCheck
  refine movesRows_setChan ?_
  exact fun _ => rfl

theorem movesRows_moveBursts {us : List ℕ} : MovesRows s (moveBursts w us s) := by
  unfold moveBursts
  split
  · exact .refl
  · next v vs =>
    extract_lets p ch was t1 len t2 t3
    have hopened : MovesRows s t1 := by
      dsimp only [t1]
      split
      · exact .refl
      · exact movesRows_openRow
    have hcounted : MovesRows s t2 := (hopened.trans movesRows_bump).trans movesRows_bump
    have hchecked : MovesRows s t3 := by
      dsimp only [t3]
      split
      · exact hcounted.foldl fun _ _ => movesRows_setCheck
      · exact hcounted
    split
    · exact hchecked.trans movesRows_closeRow
    · exact hchecked

theorem movesRows_moveAll : MovesRows s (moveAll w a n s) := MovesRows.refl.foldl fun _ _ => movesRows_moveBursts

/-! Memory without damage. -/

/-- Nothing that `n` bytes of stacked memory at `a` touch is uncorrectable, no channel has failed, and no vibrato runs. -/
structure Sound (s : State) (a n : ℕ) : Prop where
  base : stackBase ≤ a
  good : ∀ e ∈ s.bad, ¬ (e.1 < a + n ∧ a < e.1 + 32)
  alive : ∀ c, (chanOf s c).dead = false
  quiet : s.vib.runFrom = none

theorem eccUnit_stack (h : stackBase ≤ a) : eccUnit a = 32 := if_pos h

theorem badIn_none_iff (h : stackBase ≤ a) :
    (badIn s a n).isNone = true ↔ ∀ e ∈ s.bad, ¬ (e.1 < a + n ∧ a < e.1 + 32) := by
  rw [badIn, Option.isNone_iff_eq_none, List.find?_eq_none, eccUnit_stack h]
  simp

theorem Sound.moved (h : Sound s a n) (k : MovesRows s t) : Sound t a n where
  base := h.base
  good := by rw [k.frame]; exact h.good
  alive c := (k.dead c).trans (h.alive c)
  quiet := by rw [k.frame]; exact h.quiet

theorem Sound.mono (h : Sound s a n) {a' n' : ℕ} (ha : a ≤ a') (hn : a' + n' ≤ a + n) : Sound s a' n' where
  base := h.base.trans ha
  good e he := by have := h.good e he; omega
  alive := h.alive
  quiet := h.quiet

theorem Sound.badMerges_nil (h : Sound s a n) : badMerges s a n = [] := by
  rw [badMerges, List.filter_eq_nil_iff, eccUnit_stack h.base]
  intro e he
  have := h.good e he
  simp
  omega

theorem Sound.deadAt_false (h : Sound s a n) {x : ℕ} : deadAt s x = false := by
  simp [deadAt, h.alive]

/-- A block that no damage touches is read as it is. -/
theorem readBlock_sound {u : ℕ} {parts : List Part} (halive : ∀ c, (chanOf s c).dead = false) (hquiet : s.vib.runFrom = none)
    (hgood : ∀ e ∈ s.bad, e.1 ≠ u) : readBlock u .clean parts s = (none, s) := by
  have hfind : s.bad.find? (fun e => e.1 == u) = none := by simpa [List.find?_eq_none] using hgood
  have hopp : ∀ k ok, opportunity k ok s = false := fun k ok => by rw [opportunity, hquiet]
  simp [readBlock, halive, hfind, hopp]

theorem readBlocks_sound {us : List ℕ} {parts : List Part} (halive : ∀ c, (chanOf s c).dead = false)
    (hquiet : s.vib.runFrom = none) (hgood : ∀ u ∈ us, ∀ e ∈ s.bad, e.1 ≠ u) : readBlocks parts us [] s = ([], s) := by
  induction us with
  | nil => rfl
  | cons u us ih =>
    obtain ⟨hu, hus⟩ := List.forall_mem_cons.mp hgood
    have hblock : readBlock u .clean parts s = (none, s) := readBlock_sound halive hquiet hu
    simp [readBlocks, hblock, ih hus]

theorem mem_blocksOf {u : ℕ} (h : u ∈ blocksOf a n) : u < a + n ∧ a < u + 32 := by
  unfold blocksOf at h
  split at h
  · cases h
  · rw [List.mem_map] at h
    obtain ⟨i, hi, rfl⟩ := h
    rw [List.mem_range] at hi
    omega

/-- A sound read answers the bytes of memory and moves its bursts. -/
theorem readStack_sound {parts : List Part} (h : Sound s a n) :
    readStack a n [] parts s = (.ok (memRead s.mem a n), moveAll false a n s) := by
  have hmoved : Sound (moveAll false a n s) a n := h.moved movesRows_moveAll
  have hread : readBlocks parts (blocksOf a n) [] (moveAll false a n s) = ([], moveAll false a n s) :=
    readBlocks_sound hmoved.alive hmoved.quiet fun u hu e he heq =>
      hmoved.good e he (heq ▸ mem_blocksOf hu)
  unfold readStack
  rw [hread]
  rfl

/-- A sound write changes its bytes. -/
theorem storeUnits_sound (h : Sound s a bs.length) (hk : bs.length < k) :
    storeUnits k a bs s = { s with mem := memWrite s.mem a bs } := by
  induction k generalizing a bs s with
  | zero => cases hk
  | succ k ih =>
    unfold storeUnits
    split
    · next hnil => rw [List.isEmpty_iff.mp hnil]; rfl
    next hne =>
    have hpos : 0 < bs.length := List.length_pos_iff.mpr fun e => hne (by rw [e]; rfl)
    extract_lets unit n whole left t
    have hn : n = min bs.length (32 - a % 32) := by dsimp only [n, unit]; rw [eccUnit_stack h.base]
    have hnone : (badIn s a n).isSome = false := by
      rw [← Option.not_isNone, (badIn_none_iff h.base).mpr (h.mono le_rfl (by omega)).good]
      rfl
    have hleft : left = s.bad := by
      dsimp only [left]
      split
      · rw [List.filter_eq_self]
        intro e he
        have := h.good e he
        simp
        omega
      · rfl
    have ht : t = { s with mem := memWrite s.mem a (bs.take n) } := by
      dsimp only [t]
      rw [h.deadAt_false, hnone, hleft, Bool.and_false, Bool.or_false, if_neg Bool.false_ne_true]
    have hrest : Sound t (a + n) (bs.drop n).length := by
      rw [ht, List.length_drop]
      have := h.mono (a' := a + n) (n' := bs.length - n) (by omega) (by omega)
      exact ⟨this.base, this.good, this.alive, this.quiet⟩
    rw [ih hrest (by rw [List.length_drop]; omega), ht]
    have hlen : (bs.take n).length = n := by rw [List.length_take]; omega
    have happ := memWrite_append (m := s.mem) (a := a) (bs := bs.take n) (cs := bs.drop n)
    rw [List.take_append_drop, hlen] at happ
    rw [happ]

/-- A sound write changes its bytes and the rows and counters of the controllers, and no more. -/
theorem storeMem_sound (h : Sound s a bs.length) :
    MovesRows { s with mem := memWrite s.mem a bs } (storeMem a bs s) := by
  unfold storeMem storeRaw
  rw [storeUnits_sound h (Nat.lt_succ_self _)]
  extract_lets t part
  rw [if_neg h.base.not_gt]
  exact (MovesRows.refl.foldl fun _ _ => movesRows_bump).trans movesRows_moveAll

end

end Sys2Proof.Proofs

namespace Sys2Proof.Proofs

/-! ### BAR2 (R123 to R125) -/

open Sys2Proof.Machine

section
variable {s t : State} {a o n : ℕ} {b : List Byte} {x : HostReq}

theorem barAccess_of {f : State → State} (hlink : linkAnswers s = true) (hmse : s.link.mse = true) : barAccess f s = f s := by
  simp [barAccess, hlink, hmse]

theorem exec_bar2Read (hp : s.porst = false) (hlink : linkAnswers s = true) (hmse : s.link.mse = true) :
    exec (.bar2Read o n) s = .next (bar2Read o n s) :=
  (live_of hp).trans (congrArg _ (barAccess_of hlink hmse))

theorem exec_bar2Write (hp : s.porst = false) (hlink : linkAnswers s = true) (hmse : s.link.mse = true) :
    exec (.bar2Write o b) s = .next (bar2Write o b s) :=
  (live_of hp).trans (congrArg _ (barAccess_of hlink hmse))

/-- An access of at least one byte within BAR2 is judged by where it lies. -/
theorem bar2Read_eq (hn : n ≠ 0) (hend : o + n ≤ 0x10000000) : bar2Read o n s =
    if bar2Inside s (s.glb.winBase + o) n then takeBar2 (.read o (s.glb.winBase + o) n) s
    else reply (.bar2 o (some (List.replicate n 0))) (bar2Outside (s.glb.winBase + o) s) := by
  unfold bar2Read
  rw [if_neg (by omega)]
  cases bar2Inside s (s.glb.winBase + o) n <;> rfl

theorem bar2Write_eq (hb : b ≠ []) (hend : o + b.length ≤ 0x10000000) : bar2Write o b s =
    if bar2Inside s (s.glb.winBase + o) b.length then takeBar2 (.write (s.glb.winBase + o) b) s
    else bar2Outside (s.glb.winBase + o) s := by
  unfold bar2Write
  rw [if_neg (by rw [List.isEmpty_iff]; exact not_or_intro hb (by omega))]
  cases bar2Inside s (s.glb.winBase + o) b.length <;> rfl

/-- P0's memory is stacked memory. -/
theorem bar2Inside_base (h : bar2Inside s a n = true) : stackBase ≤ a := by
  unfold bar2Inside at h
  simp only [Bool.and_eq_true, decide_eq_true_eq] at h
  exact (Nat.le_add_right _ _).trans h.1.2

theorem bar2Outside_glb : (bar2Outside a s).glb = { s.glb with winOutside := true } ∧ (bar2Outside a s).mem = s.mem := by
  unfold bar2Outside
  dsimp only
  split
  · exact ⟨rfl, rfl⟩
  · rw [logErr_frame]
    exact ⟨rfl, rfl⟩

/-- OUTSIDE is told once, until it is cleared. -/
theorem bar2Outside_again (h : s.glb.winOutside = true) : bar2Outside a s = s := by
  unfold bar2Outside
  rw [h, if_pos rfl, ← h]

/-- The accesses that the link holds. -/
def withHeld (l : List HostReq) (s : State) : State := { s with link := { s.link with held := l } }

theorem withHeld_nil (h : s.link.held = []) : withHeld [] s = s := by
  rw [withHeld, ← h]

theorem takeBar2_of_none (h : s.link.held = []) : takeBar2 x s = serveBar2 1 (withHeld [x] s) := by
  have htaken : setLink (fun l => { l with held := l.held ++ [x] }) s = withHeld [x] s := by
    rw [setLink, h]
    rfl
  unfold takeBar2
  rw [htaken]
  rfl

theorem serveBar2_one (hx : ∀ m, x ≠ .reply m) : serveBar2 1 (withHeld [x] s) =
    if !bar2Ready s then withHeld [x] s
    else if holdsGrant s (.dma none) then bar2Do x (endGrant (.dma none) (withHeld [] s))
    else request (.dma none) .system (withHeld [x] s) := by
  cases x with
  | reply m => exact absurd rfl (hx m)
  | read o a n => rfl
  | write a b => rfl

/-- With no access held, the one that is taken is carried out under a burst. -/
theorem takeBar2_granted (hx : ∀ m, x ≠ .reply m) (hheld : s.link.held = []) (hready : bar2Ready s = true)
    (hgrant : holdsGrant s (.dma none) = true) : takeBar2 x s = bar2Do x (endGrant (.dma none) s) := by
  rw [takeBar2_of_none hheld, serveBar2_one hx, hready, hgrant, withHeld_nil hheld]
  rfl

/-- Without a burst it is held and asks for one (R16, R125). -/
theorem takeBar2_held (hx : ∀ m, x ≠ .reply m) (hheld : s.link.held = []) (hready : bar2Ready s = true)
    (hgrant : holdsGrant s (.dma none) = false) : takeBar2 x s = request (.dma none) .system (withHeld [x] s) := by
  rw [takeBar2_of_none hheld, serveBar2_one hx, hready, hgrant]
  rfl

theorem Sound.endGrant {c : Consumer} (h : Sound s a n) : Sound (endGrant c s) a n := by
  have hframe := onlyLedgers_endGrant (s := s) (c := c)
  exact ⟨h.base, by rw [hframe]; exact h.good, by rw [hframe]; exact h.alive, by rw [hframe]; exact h.quiet⟩

/-- A sound read answers the bytes. -/
theorem bar2Do_read (h : Sound s a n) :
    bar2Do (.read o a n) s = send (.bar2 o (some (memRead s.mem a n))) (moveAll false a n s) := by
  unfold bar2Do
  dsimp only
  rw [readStack_sound h]

/-- A sound write changes them. -/
theorem bar2Do_write (h : Sound s a b.length) : bar2Do (.write a b) s = storeMem a b s := by
  unfold bar2Do bar2Put
  dsimp only
  rw [h.badMerges_nil]
  rfl

/-- Outside, a read answers zeros, and both set OUTSIDE; a write that finds it set changes nothing. -/
theorem exec_bar2_outside (hp : s.porst = false) (hlink : linkAnswers s = true) (hmse : s.link.mse = true) (hb : b ≠ [])
    (hend : o + b.length ≤ 0x10000000) (hout : bar2Inside s (s.glb.winBase + o) b.length = false) :
    exec (.bar2Read o b.length) s = .next (reply (.bar2 o (some (List.replicate b.length 0)))
      (bar2Outside (s.glb.winBase + o) s)) ∧
    ∃ t, exec (.bar2Write o b) s = .next t ∧ t.glb = { s.glb with winOutside := true } ∧ t.mem = s.mem ∧
      (s.glb.winOutside = true → t = s) := by
  rw [exec_bar2Read hp hlink hmse, bar2Read_eq (List.length_pos_iff.mpr hb).ne' hend, exec_bar2Write hp hlink hmse,
    bar2Write_eq hb hend, hout]
  exact ⟨rfl, _, rfl, bar2Outside_glb.1, bar2Outside_glb.2, bar2Outside_again⟩

/-- A BAR2 access in P0's carve-out that the device can take at once. -/
structure Bar2Served (s : State) (o n : ℕ) : Prop where
  porst : s.porst = false
  link : linkAnswers s = true
  mse : s.link.mse = true
  some : n ≠ 0
  fits : o + n ≤ 0x10000000
  inside : bar2Inside s (s.glb.winBase + o) n = true
  ready : bar2Ready s = true
  unheld : s.link.held = []

/-- Where no damage, failed channel or vibrato run stands against it, the access finds sound memory. -/
theorem Bar2Served.sound (h : Bar2Served s o n) (hgood : (badIn s (s.glb.winBase + o) n).isNone = true)
    (halive : ∀ c, (chanOf s c).dead = false) (hquiet : s.vib.runFrom = none) : Sound s (s.glb.winBase + o) n where
  base := bar2Inside_base h.inside
  good := (badIn_none_iff (bar2Inside_base h.inside)).mp hgood
  alive := halive
  quiet := hquiet

theorem Bar2Served.exec_read (h : Bar2Served s o n) :
    exec (.bar2Read o n) s = .next (takeBar2 (.read o (s.glb.winBase + o) n) s) := by
  rw [exec_bar2Read h.porst h.link h.mse, bar2Read_eq h.some h.fits, if_pos h.inside]

theorem Bar2Served.exec_write (h : Bar2Served s o b.length) :
    exec (.bar2Write o b) s = .next (takeBar2 (.write (s.glb.winBase + o) b) s) := by
  rw [exec_bar2Write h.porst h.link h.mse,
    bar2Write_eq (List.ne_nil_of_length_pos (Nat.pos_of_ne_zero h.some)) h.fits, if_pos h.inside]

/-- BAR2_READ under a burst answers the bytes of memory. -/
theorem exec_bar2Read_granted (h : Bar2Served s o n) (hsound : Sound s (s.glb.winBase + o) n)
    (hgrant : holdsGrant s (.dma none) = true) : exec (.bar2Read o n) s =
      .next (send (.bar2 o (some (memRead s.mem (s.glb.winBase + o) n)))
        (moveAll false (s.glb.winBase + o) n (endGrant (.dma none) s))) := by
  rw [h.exec_read, takeBar2_granted (x := .read o (s.glb.winBase + o) n) nofun h.unheld h.ready hgrant,
    bar2Do_read hsound.endGrant]
  rfl

/-- BAR2_WRITE under a burst changes its bytes, the rows and counters of the controllers, and nothing else. -/
theorem exec_bar2Write_granted (h : Bar2Served s o b.length) (hsound : Sound s (s.glb.winBase + o) b.length)
    (hgrant : holdsGrant s (.dma none) = true) (hwf : Memory.wf s.mem = true) : ∃ t, exec (.bar2Write o b) s = .next t ∧
      t = { endGrant (.dma none) s with mem := t.mem, dmc := t.dmc } ∧
      (∀ i, (hi : i < b.length) → memByte t.mem (s.glb.winBase + o + i) = b[i]) ∧
      ∀ x, x < s.glb.winBase + o ∨ s.glb.winBase + o + b.length ≤ x → memByte t.mem x = memByte s.mem x := by
  have hmoved := storeMem_sound (hsound.endGrant (c := .dma none))
  refine ⟨_, by rw [h.exec_write, takeBar2_granted (x := .write (s.glb.winBase + o) b) nofun h.unheld h.ready hgrant,
    bar2Do_write hsound.endGrant], ?_⟩
  have hmem : (storeMem (s.glb.winBase + o) b (endGrant (.dma none) s)).mem = memWrite s.mem (s.glb.winBase + o) b := by
    rw [hmoved.frame]
    rfl
  rw [hmem]
  exact ⟨hmoved.frame, fun i hi => memByte_memWrite hwf hi, fun x hx => memByte_memWrite_outside hx⟩

/-- Without a burst both are held and ask for one. -/
theorem exec_bar2_ungranted (hgrant : holdsGrant s (.dma none) = false) :
    (Bar2Served s o n → exec (.bar2Read o n) s =
      .next (request (.dma none) .system (withHeld [.read o (s.glb.winBase + o) n] s))) ∧
    (Bar2Served s o b.length → exec (.bar2Write o b) s =
      .next (request (.dma none) .system (withHeld [.write (s.glb.winBase + o) b] s))) :=
  ⟨fun h => by rw [h.exec_read, takeBar2_held (x := .read o (s.glb.winBase + o) n) nofun h.unheld h.ready hgrant],
    fun h => by rw [h.exec_write, takeBar2_held (x := .write (s.glb.winBase + o) b) nofun h.unheld h.ready hgrant]⟩

end

/-! ### Windows (R128, R133, R134) -/

section
variable {s : State} {p q : Part} {v : Word} {f : HostWin → HostWin}

theorem exec_glbHwinLenWrite (h : served s (0x108 + 16 * p.val) = true) :
    exec (.glbHwinLenWrite p v) s = .next (writeHwinLen p v s) := by
  have hoff : 0x108 + 16 * p.val = hwinOff p + 8 := by rw [hwinOff]; omega
  rw [hoff] at h
  exact (live_of (served_porst h)).trans (congrArg _ (regWrite_of_served h))

theorem setHwin_self : (setHwin p f s).glb.hwin[p] = f s.glb.hwin[p] := Vector.getElem_set_self p.isLt

theorem setHwin_ne (h : q ≠ p) : (setHwin p f s).glb.hwin[q] = s.glb.hwin[q] :=
  Vector.getElem_set_ne p.isLt q.isLt fun e => h (Fin.ext e.symm)

theorem lenField_eq : bits v.toNat 19 0 = (v.extractLsb' 0 20).toNat := by
  simp [bits]

theorem hiField_eq : bits v.toNat 7 0 = (v.extractLsb' 0 8).toNat := by
  simp [bits]

/-- The staged base, with both halves of it. -/
theorem stagedBase_eq {w : HostWin} : setHi w.loW.toNat w.hiW = w.loW.toNat + 2 ^ 32 * w.hiW.toNat := by
  rw [setHi, Nat.mod_eq_of_lt w.loW.isLt, Nat.mul_comm]

/-- GLB_HWIN_LEN commits the staged base with the length. -/
theorem exec_glbHwinLenWrite_commits (h : served s (0x108 + 16 * p.val) = true)
    (hfits : (v.extractLsb' 0 20).toNat ≤ 524288) : ∃ t, exec (.glbHwinLenWrite p v) s = .next t ∧
      t.glb.hwin[p] = { s.glb.hwin[p] with
        base := s.glb.hwin[p].loW.toNat + 2 ^ 32 * s.glb.hwin[p].hiW.toNat, len := (v.extractLsb' 0 20).toNat } ∧
      (∀ q, q ≠ p → t.glb.hwin[q] = s.glb.hwin[q]) ∧ t = { s with glb := { s.glb with hwin := t.glb.hwin } } := by
  have hset : writeHwinLen p v s = setHwin p (fun w => { w with
      base := w.loW.toNat + 2 ^ 32 * w.hiW.toNat, len := (v.extractLsb' 0 20).toNat }) s := by
    unfold writeHwinLen
    rw [lenField_eq]
    simp only [if_neg hfits.not_gt, stagedBase_eq]
  rw [exec_glbHwinLenWrite h, hset]
  exact ⟨_, rfl, setHwin_self, fun q hq => setHwin_ne hq, rfl⟩

/-- A length above 524,288 MiB is a reserved encoding. -/
theorem exec_glbHwinLenWrite_refused (h : served s (0x108 + 16 * p.val) = true)
    (hover : 524288 < (v.extractLsb' 0 20).toNat) :
    exec (.glbHwinLenWrite p v) s = .next (regRefused (0x108 + 16 * p.val) v 1 s) := by
  rw [exec_glbHwinLenWrite h, writeHwinLen, lenField_eq, if_pos hover, hwinOff]
  congr 2
  omega

/-- GLB_WIN_BASE_HI commits both halves of the base. -/
theorem exec_glbWinBaseHiWrite (h : served s 0x28 = true) : exec (.glbWinBaseHiWrite v) s =
    .next { s with glb := { s.glb with
      winHi := (v.extractLsb' 0 8).toNat
      winBase := (v.extractLsb' 0 8).toNat * 2 ^ 32 + s.glb.winLo.toNat } } := by
  rw [← hiField_eq]
  exact (live_of (served_porst h)).trans (congrArg _ (regWrite_of_served h))

end

/-! ### DMA reads (R117, R119, R132, R162) -/

section
variable {s : State} {id : ℕ} {c : Cmd} {d : List Byte} {w : DmaFail} {p : Part}

theorem cmdOf_setCmd {f : Cmd → Cmd} (hf : ∀ c, (f c).id = c.id) : cmdOf (setCmd id f s) id = (cmdOf s id).map f := by
  have hkeeps : ∀ c : Cmd, ((if c.id = id then f c else c).id == id) = (c.id == id) := fun c => by
    split
    · rw [hf]
    · rfl
  unfold setCmd
  refine (find?_map_of_same (g := fun c : Cmd => if c.id = id then f c else c) hkeeps).trans ?_
  change (cmdOf s id).map _ = _
  cases hc : cmdOf s id with
  | none => rfl
  | some c => exact congrArg some (if_pos (cmdOf_id hc))

/-- Bytes that were asked join the input, under a burst, and the rest is asked for. -/
theorem exec_dmaReadCompletion_more (hp : s.porst = false) (hc : cmdOf s id = some c) (hd : d ≠ []) (hrun : hifRuns s = true)
    (hgrant : holdsGrant s (.dma (some id)) = true) (hasked : c.input.length + d.length ≤ c.inAsked)
    (hmore : c.input.length + d.length ≠ c.inWant) : exec (.dmaReadCompletion id d) s =
      .next (settleGone (askInput id (setCmd id (fun x => { x with input := c.input ++ d, attempt := 0 })
        (endGrant (.dma (some id)) s)))) := by
  refine (live_of hp).trans ?_
  unfold dmaRead
  rw [hc]
  dsimp only
  rw [if_neg (by rw [List.isEmpty_iff]; exact not_or_intro hd (by omega)), withDma_of hrun hgrant,
    if_neg (by rw [List.length_append]; exact hmore)]

/-- The state in which `n` further bytes of a command's input have been asked of the host. -/
def readSent (id n : ℕ) (c : Cmd) (s : State) : State :=
  send (.readReq (hostAddr s c.part c.inAddr + c.inAsked) n)
    (setCmd id (fun x => { x with inAsked := x.inAsked + n, inHost := hostAddr s c.part c.inAddr }) s)

theorem cmdOf_readSent {n : ℕ} (hc : cmdOf s id = some c) : cmdOf (readSent id n c s) id =
    some { c with inAsked := c.inAsked + n, inHost := hostAddr s c.part c.inAddr } := by
  have hset := cmdOf_setCmd (s := s) (id := id) (f := fun x => { x with
    inAsked := x.inAsked + n, inHost := hostAddr s c.part c.inAddr }) fun _ => rfl
  rw [hc] at hset
  exact hset

theorem sendReads_done {k : ℕ} (hc : cmdOf s id = some c) (hall : c.inWant ≤ c.inAsked) : sendReads id k s = s := by
  cases k with
  | zero => rfl
  | succ k => simp [sendReads, hc, Nat.sub_eq_zero_of_le hall]

/-- What one read request takes is asked by one. -/
theorem sendReads_one {k : ℕ} (hc : cmdOf s id = some c) (hwant : c.inAsked < c.inWant)
    (hone : c.inWant - c.inAsked ≤ maxRead s) (htag : outstanding s < tagLimit s) :
    sendReads id (k + 1) s = readSent id (c.inWant - c.inAsked) c s := by
  have hrest : sendReads id k (readSent id (c.inWant - c.inAsked) c s) = readSent id (c.inWant - c.inAsked) c s :=
    sendReads_done (cmdOf_readSent hc) (by dsimp only; omega)
  unfold sendReads
  rw [hc]
  dsimp only
  rw [min_eq_right hone, if_neg (by omega)]
  exact hrest

section
variable (hc : cmdOf s id = some c) (hwant : c.inAsked < c.inWant) (hrun : hifRuns s = true)
  (hwin : inHostWin s c.part (c.inAddr + c.inAsked) (c.inWant - c.inAsked) = true)
include hc hwant hrun hwin

/-- Input that is wanted, within the window as it stands, is asked under a burst only. -/
theorem askInput_eq : askInput id s = if !holdsGrant s (.dma (some id)) then request (.dma (some id)) .system s
    else sendReads id (c.inWant / 128 + 1) s := by
  unfold askInput
  rw [hc]
  dsimp only
  rw [if_neg hwant.not_ge, hwin, hrun]
  rfl

theorem askInput_ungranted (hgrant : holdsGrant s (.dma (some id)) = false) :
    askInput id s = request (.dma (some id)) .system s := by
  rw [askInput_eq hc hwant hrun hwin, hgrant]
  rfl

theorem askInput_granted (hgrant : holdsGrant s (.dma (some id)) = true) (hone : c.inWant - c.inAsked ≤ maxRead s)
    (htag : outstanding s < tagLimit s) : askInput id s = readSent id (c.inWant - c.inAsked) c s := by
  rw [askInput_eq hc hwant hrun hwin, hgrant]
  exact sendReads_one hc hwant hone htag

end

/-- The record of a failed attempt of a command's read (R132). -/
def readRecord (c : Cmd) (w : DmaFail) (s : State) : ErrRec :=
  { cmdErr 0x06 30 c s with arg0 := c.inHost + c.input.length, arg1 := c.attempt + 1, arg2 := dmaCause w }

theorem noteAer_cmds : (noteAer w s).cmds = s.cmds := by
  unfold noteAer
  dsimp only
  split
  · rfl
  · rfl

theorem setCmd_congr {f g : Cmd → Cmd} (h : ∀ x ∈ s.cmds, x.id = id → f x = g x) : setCmd id f s = setCmd id g s := by
  have hcmds : (s.cmds.map fun c => if c.id = id then f c else c) = s.cmds.map fun c => if c.id = id then g c else c :=
    List.map_congr_left fun x hx => by
      split
      · next hid => exact h x hx hid
      · rfl
  unfold setCmd
  rw [hcmds]

/-- Attempts 1 to 3 ask for the rest again, the fourth loses the input: of a table in which no other command bears the
number. -/
theorem exec_dmaReadFailure_command (hp : s.porst = false) (hc : cmdOf s id = some c)
    (hone : ∀ x ∈ s.cmds, x.id = id → x = c) (hasked : c.input.length < c.inAsked) (hfail : canFail s w = true) :
    exec (.dmaReadFailure (.command id) w) s = .next (settleGone (if c.attempt + 1 < 4
      then askInput id (setCmd id (fun x => { x with attempt := c.attempt + 1, inAsked := c.input.length })
        (logErr (readRecord c w s) (noteAer w s)))
      else inputLost c (logErr (readRecord c w s) (noteAer w s)))) := by
  have hcmds : (logErr (readRecord c w s) (noteAer w s)).cmds = s.cmds := by rw [logErr_frame, noteAer_cmds]
  have hown := setCmd_congr (s := logErr (readRecord c w s) (noteAer w s)) (id := id)
    (f := fun x => { x with attempt := c.attempt + 1, inAsked := x.input.length })
    (g := fun x => { x with attempt := c.attempt + 1, inAsked := c.input.length }) fun x hx hid => by
      rw [hone x (hcmds ▸ hx) hid]
  rw [← hown]
  refine (live_of hp).trans ?_
  unfold dmaFailure readFailed
  dsimp only
  rw [hc]
  dsimp only
  rw [if_neg (by simp [hfail, hasked])]
  rfl

/-- The record of a failed attempt of an entry's fetch, and of the stop after the fourth (R162). -/
def fetchRecord (p : Part) (w : DmaFail) (s : State) : ErrRec :=
  { devErr 0x06 30 s with
    part := p.val, arg0 := (pageOf s p).sq.base + 64 * (pageOf s p).sq.head, arg1 := (pageOf s p).fetchTries + 1
    arg2 := dmaCause w }

def stopRecord (p : Part) (a : ℕ) (s : State) : ErrRec := { devErr 0x05 30 s with part := p.val, arg0 := a }

/-- The state in which a failed attempt of a fetch has been reported. -/
def fetchReported (p : Part) (w : DmaFail) (s : State) : State :=
  logErr (fetchRecord p w s) (noteAer w (setPage p (fun g => { g with asked := 0 }) s))

/-- Attempts 1 to 3 of a fetch ask again, the fourth stops the ring. -/
theorem exec_dmaReadFailure_fetch (hp : s.porst = false) (hasked : (pageOf s p).asked ≠ 0) (hfail : canFail s w = true) :
    exec (.dmaReadFailure (.fetch p) w) s = .next (if (pageOf s p).fetchTries + 1 < 4
      then askFetch p (setPage p (fun g => { g with fetchTries := (pageOf s p).fetchTries + 1 }) (fetchReported p w s))
      else logErr (stopRecord p ((pageOf s p).sq.base + 64 * (pageOf s p).sq.head) (fetchReported p w s))
        (setPage p (fun g => { g with fetchTries := 0, fetchStop := true }) (fetchReported p w s))) := by
  refine (live_of hp).trans ?_
  unfold dmaFailure fetchFailed
  dsimp only
  rw [if_neg (by simp [hfail, hasked])]
  rfl

end

end Sys2Proof.Proofs

namespace Sys2Proof.Proofs

/-! O42. After a failed attempt the model has every command of the number ask again from the end of its own input, the
statement from the end of the input of the one that `cmdOf` finds. The model gives each command a number of its own
(`nextCmd`), but the statement speaks of every state, and so of a table in which two commands bear one number. Where no other
command bears it, `exec_dmaReadFailure_command` has the clause. -/

open Sys2Proof.Machine

/-- Command 7 of P0 with these bytes of its input read, and four asked. -/
def askedCmd (input : List Byte) : Cmd :=
  { newCmd State.reset 0 (List.replicate 64 0) with id := 7, phase := .running, input := input, inAsked := 4 }

/-- PORST_N high, and two commands that bear the number 7. -/
def twiceSeven : State := { State.reset with cmds := [askedCmd [], askedCmd [1]] }

/-- In the model each of them asks from the end of its own input. -/
theorem twiceSeven_failure :
    (dmaFailure (.command 7) .poisoned twiceSeven).cmds.map (·.inAsked) = [0, 1] := by
  decide +kernel

/-- By the clause both ask from the end of the first one's, which wants no more, so that nothing is sent and nothing dropped. -/
theorem clause_asks (r : ErrRec) :
    (settleGone (askInput 7 (setCmd 7 (fun x => { x with attempt := 1, inAsked := 0 })
      (logErr r (noteAer .poisoned twiceSeven))))).cmds.map (·.inAsked) = [0, 0] := by
  rfl

/-- Refutes O42: in `twiceSeven` an attempt of command 7 fails. By the clause of DMA_READ_FAILURE the second command then asks
from byte 0, where the first one's input ends; in the model it asks from byte 1, where its own does. -/
theorem not_dmaWindowsAndBar2 : ¬ Obligations.DmaWindowsAndBar2 := by
  intro h
  obtain ⟨-, -, -, -, -, hfail, -⟩ := h twiceSeven rfl
  obtain ⟨r, -, -, -, -, -, hretry, -⟩ := hfail 7 (askedCmd []) .poisoned rfl (by decide) rfl
  have hnext := Host.Outcome.next.inj ((live_of (s := twiceSeven) rfl).symm.trans (hretry (by decide)))
  have hasked := twiceSeven_failure
  rw [hnext] at hasked
  exact absurd ((clause_asks r).symm.trans hasked) (by decide)

end Sys2Proof.Proofs

namespace Sys2Proof.Proofs

/-! ### Doorbells, sizes and USER fields (R141, R150, R151, R159 to R162) -/

open Sys2Proof.Machine

section
variable {s : State} {p : Part} {v : Word} {f : State → State} {g : Page → Page} {r : ErrRec} {q : Ring} {l : Ledger}
  {k n part off tier : ℕ} {was b : Bool}

/-! The pages and the event queue under the operations that the rows share. -/

theorem onlyPage_setPage : Spec.onlyPage p s (setPage p g s) := ⟨rfl, fun _ hq => pageOf_setPage_ne hq⟩

theorem pageOf_logErr : pageOf (logErr r s) p = pageOf s p := by rw [pageOf, logErr_frame, pageOf]

/-- An error record enters the error queue, not the event queue. -/
theorem logErr_evq : (logErr r s).hif.evq = s.hif.evq := by
  unfold logErr
  split
  · rfl
  split
  · rw [trimBacklog_hif]
  split <;> rfl

theorem pageOff_add : pageOff p + k = 0x4000 + k + 0x200 * p.val := by rw [pageOff]; omega

/-- A row of a partition page, where the page serves its offset. -/
theorem live_pageWrite (k : ℕ) (h : served s (0x4000 + k + 0x200 * p.val) = true) :
    live s (regWrite (pageOff p + k) f) = .next (f s) := by
  rw [live_of (served_porst h), regWrite_of_served (pageOff_add ▸ h)]

/-! A doorbell that is ignored (R161). -/

theorem badDoorbell_again : badDoorbell true off part v s = s := rfl

/-- The record of a doorbell enters the error queue or is lost. -/
theorem badDoorbell_frame : badDoorbell was off part v s = { s with
    hif := { (badDoorbell was off part v s).hif with pages := s.hif.pages, evq := s.hif.evq }
    evc := (badDoorbell was off part v s).evc } := by
  unfold badDoorbell
  split
  · rfl
  · rw [← logErr_evq, ← logErr_frame]

theorem pageOf_badDoorbell : pageOf (badDoorbell was off part v s) p = pageOf s p := by
  rw [pageOf, badDoorbell_frame, pageOf]

/-! HIF_SQ_TAIL. -/

/-- The engine's asking for entries requests a grant, or marks the page and sends one read. -/
theorem askFetch_frame : askFetch p s = { s with
    brg := (askFetch p s).brg, out := (askFetch p s).out
    hif := { s.hif with pages := (askFetch p s).hif.pages } } := by
  unfold askFetch request
  dsimp only
  split
  · rfl
  split
  · split <;> rfl
  split <;> rfl

theorem total_askFetch : total (askFetch p s) l = total s l := by
  unfold askFetch
  dsimp only
  split
  · rfl
  split
  · exact sameGrants_request.total_eq
  split
  · rfl
  · cases l <;> rfl

theorem writeSqTail_moves (h : (v.extractLsb' 0 16).toNat < (pageOf s p).sq.size) : writeSqTail p v s =
    setPage p (fun g => { g with sq := { g.sq with tail := (v.extractLsb' 0 16).toNat } }) s := by
  unfold writeSqTail
  rw [lowHalf_eq]
  exact if_neg h.not_ge

theorem writeSqTail_ignored (h : (pageOf s p).sq.size ≤ (v.extractLsb' 0 16).toNat) : writeSqTail p v s =
    badDoorbell (pageOf s p).sq.dbBad (pageOff p + 0x0C) p.val v
      (setPage p (fun g => { g with sq := { g.sq with dbBad := true } }) s) := by
  unfold writeSqTail
  rw [lowHalf_eq]
  exact if_pos h

theorem total_writeSqTail : total (writeSqTail p v s) l = total s l := by
  unfold writeSqTail
  dsimp only
  split
  · rw [badDoorbell_frame]
    cases l <;> rfl
  · cases l <;> rfl

theorem writeSqTail_pwr : (writeSqTail p v s).pwr = s.pwr := by
  unfold writeSqTail
  dsimp only
  split
  · rw [badDoorbell_frame, setPage_pwr]
  · rfl

/-- Outside REST a tail doorbell wakes nothing, and moves no charge. -/
theorem exec_hifSqTailWrite (h : served s (0x400C + 0x200 * p.val) = true) (hawake : s.pwr.st ≠ .rest) :
    exec (.hifSqTailWrite p v) s = .next (askFetch p (writeSqTail p v s)) := by
  have htail : writeTail p v s = askFetch p (writeSqTail p v s) :=
    if_neg fun hrest => hawake (by rw [← hrest.1, askFetch_frame, writeSqTail_pwr])
  have hwrite : regWrite (pageOff p + 0x0C) (writeTail p v) s = writeTail p v s :=
    regWrite_of_served (by rw [pageOff_add]; exact h)
  refine (live_of (served_porst h)).trans (congrArg _ ?_)
  rw [standingChange_congr hwrite, standingChange_of_total fun l => ?_, htail]
  rw [htail, total_askFetch, total_writeSqTail]

/-! The heads. -/

theorem exec_hifCqHeadWrite (h : served s (0x402C + 0x200 * p.val) = true) :
    exec (.hifCqHeadWrite p v) s = .next (writeCqHead p v s) := live_pageWrite 0x2C h

theorem writeCqHead_moves (h : headOk (pageOf s p).cq (v.extractLsb' 0 16).toNat = true) : writeCqHead p v s =
    setPage p (fun g => { g with cq := { g.cq with head := (v.extractLsb' 0 16).toNat } }) s := by
  unfold writeCqHead
  rw [lowHalf_eq]
  exact if_pos h

theorem pageOf_writeCqHead_ignored (h : headOk (pageOf s p).cq (v.extractLsb' 0 16).toNat = false) :
    pageOf (writeCqHead p v s) p = { pageOf s p with cq := { (pageOf s p).cq with dbBad := true } } := by
  unfold writeCqHead
  rw [lowHalf_eq]
  dsimp only
  rw [if_neg (ne_true_of_eq_false h), pageOf_badDoorbell, pageOf_setPage]

theorem exec_hifEvqHeadWrite (h : served s 0x500C = true) : exec (.hifEvqHeadWrite v) s = .next (writeEvqHead v s) :=
  (live_of (served_porst h)).trans (congrArg _ (regWrite_of_served h))

/-- A head of the event queue that is taken sends vector 0 where records remain, in queue mode (R228). -/
theorem writeEvqHead_moves (h : headOk s.hif.evq (v.extractLsb' 0 16).toNat = true) : writeEvqHead v s =
    if s.evc.claimMode = false ∧ (v.extractLsb' 0 16).toNat ≠ s.hif.evq.tail
    then raiseMsix 0 { s with hif := { s.hif with evq := { s.hif.evq with head := (v.extractLsb' 0 16).toNat } } }
    else { s with hif := { s.hif with evq := { s.hif.evq with head := (v.extractLsb' 0 16).toNat } } } := by
  unfold writeEvqHead
  rw [lowHalf_eq]
  dsimp only
  rw [if_pos h]
  simp only [Bool.and_eq_true, Bool.not_eq_true', bne_iff_ne]

theorem writeEvqHead_ignored (h : headOk s.hif.evq (v.extractLsb' 0 16).toNat = false) :
    (writeEvqHead v s).hif.evq = { s.hif.evq with dbBad := true } := by
  unfold writeEvqHead
  rw [lowHalf_eq]
  dsimp only
  rw [if_neg (ne_true_of_eq_false h), badDoorbell_frame]

/-! Sizes (R150, R159, R160): the three rows judge a size alike, and differ in the ring, the condition of a disabling, the
refusal and what they do with the ring. -/

theorem sizeField_eq : bits v.toNat 16 0 = (v.extractLsb' 0 17).toNat := by simp [bits]

/-- The sizes of R159. -/
theorem sizeOk_iff : sizeOk n = true ↔ n = 0 ∨ ∃ k, 4 ≤ k ∧ k ≤ 16 ∧ n = 2 ^ k := by
  simp only [sizeOk, Bool.or_eq_true, beq_iff_eq, List.any_eq_true, List.mem_range]
  refine or_congr_right ⟨fun ⟨k, hk, hn⟩ => ⟨k + 4, by omega, by omega, hn⟩,
    fun ⟨k, hlow, hhigh, hn⟩ => ⟨k - 4, by omega, ?_⟩⟩
  rw [hn, Nat.sub_add_cancel hlow]

/-- A size written to the ring `q`, which `b` allows to be disabled. -/
def judgeSize (q : Ring) (n : ℕ) (b : Bool) (refuse : ℕ → State) (take : Ring → State) : State :=
  if !sizeOk n then refuse 1
  else match sizeWrite q n b with
    | some q' => take q'
    | none => refuse 2

section
variable {refuse : ℕ → State} {take : Ring → State}

theorem judgeSize_illegal (h : ¬ (n = 0 ∨ ∃ k, 4 ≤ k ∧ k ≤ 16 ∧ n = 2 ^ k)) :
    judgeSize q n b refuse take = refuse 1 := by
  rw [← sizeOk_iff, Bool.not_eq_true] at h
  simp [judgeSize, h]

theorem judgeSize_disable : judgeSize q 0 true refuse take = take { q with size := 0 } := rfl

theorem judgeSize_held : judgeSize q 0 false refuse take = refuse 2 := rfl

theorem judgeSize_enable (h : n = 0 ∨ ∃ k, 4 ≤ k ∧ k ≤ 16 ∧ n = 2 ^ k) (hn : 0 < n) (hq : q.size = 0) :
    judgeSize q n b refuse take = take (q.enable n) := by
  simp [judgeSize, sizeOk_iff.2 h, sizeWrite, hn.ne', hq]

theorem judgeSize_resize (h : n = 0 ∨ ∃ k, 4 ≤ k ∧ k ≤ 16 ∧ n = 2 ^ k) (hn : 0 < n) (hq : 0 < q.size) :
    judgeSize q n b refuse take = refuse 2 := by
  simp [judgeSize, sizeOk_iff.2 h, sizeWrite, hn.ne', hq.ne']

end

theorem exec_hifSqSizeWrite (h : served s (0x4008 + 0x200 * p.val) = true) : exec (.hifSqSizeWrite p v) s =
    .next (judgeSize (pageOf s p).sq (v.extractLsb' 0 17).toNat true
      (fun why => regRefused (0x4008 + 0x200 * p.val) v why s)
      fun q => setPage p (fun g => { g with asked := 0, sq := q }) s) := by
  have hoff : pageOff p + 0x08 = 0x4008 + 0x200 * p.val := pageOff_add
  rw [← sizeField_eq, ← hoff]
  exact live_pageWrite 0x08 h

theorem exec_hifCqSizeWrite (h : served s (0x4028 + 0x200 * p.val) = true) : exec (.hifCqSizeWrite p v) s =
    .next (judgeSize (pageOf s p).cq (v.extractLsb' 0 17).toNat (inflight s p == 0 && (pageOf s p).cqWait.isEmpty)
      (fun why => regRefused (0x4028 + 0x200 * p.val) v why s)
      fun q => setPage p (fun g => { g with cq := q }) s) := by
  have hoff : pageOff p + 0x28 = 0x4028 + 0x200 * p.val := pageOff_add
  rw [← sizeField_eq, ← hoff]
  exact live_pageWrite 0x28 h

/-- The error queue with a ring that has just been given this size: FULL counts a backlog beyond the room, and disabling
keeps 16 records (R219). -/
def errqSized (n : ℕ) (q : Ring) (s : State) : State :=
  let full := n != 0 && q.room < s.hif.errWait.length
  let s := { s with hif := { s.hif with
    errq := { q with fullCount := if full then satAdd 255 q.fullCount 1 else q.fullCount } } }
  if n = 0 then trimBacklog s.hif.errWait.length s else s

theorem writeErrqSize_eq : writeErrqSize v s =
    judgeSize s.hif.errq (v.extractLsb' 0 17).toNat true (fun why => regRefused 0x5028 v why s)
      fun q => errqSized (v.extractLsb' 0 17).toNat q s := by
  rw [← sizeField_eq]
  rfl

theorem exec_hifErrqSizeWrite (h : served s 0x5028 = true) :
    exec (.hifErrqSizeWrite v) s = .next (writeErrqSize v s) :=
  (live_of (served_porst h)).trans (congrArg _ (regWrite_of_served h))

theorem enable_room : (q.enable n).room = n - 1 := by simp [Ring.room, Ring.used, Ring.enable]

/-- A size that gives the backlog room counts nothing and drops nothing. -/
theorem errqSized_fits (hn : 0 < n) (hfits : s.hif.errWait.length ≤ q.room) :
    errqSized n q s = { s with hif := { s.hif with errq := q } } := by
  have hfull : (n != 0 && decide (q.room < s.hif.errWait.length)) = false := by
    rw [decide_eq_false hfits.not_gt, Bool.and_false]
  unfold errqSized
  dsimp only
  rw [hfull, if_neg hn.ne']
  rfl

/-- The base in use is the one last written (R150). -/
theorem enable_eq : q.enable n = { q with
    size := n, head := 0, tail := 0, phase := true, base := q.lo.toNat % 2 ^ 32 + 2 ^ 32 * q.hi.toNat } := by
  rw [Ring.enable, setHi, Nat.mul_comm]

/-! HIF_SQ_STATUS and the USER fields (R141, R162). -/

theorem exec_hifSqStatusWrite (h : served s (0x4014 + 0x200 * p.val) = true) :
    exec (.hifSqStatusWrite p v) s = .next (writeSqStatus p v s) := live_pageWrite 0x14 h

theorem writeUser_over (h : (carve s p tier).2 < n) : writeUser p tier off n v g s = regRefused off v 1 s := if_pos h

/-- A USER field that does not grow is taken. -/
theorem writeUser_shrinks (hfits : n ≤ (carve s p tier).2) (hshrinks : n ≤ userPart s p tier) :
    writeUser p tier off n v g s = setPage p g s :=
  (if_neg hfits.not_gt).trans (if_neg fun hgrows => hgrows.1.not_ge hshrinks)

theorem exec_hifQDramUserWrite (h : served s (0x4088 + 0x200 * p.val) = true) : exec (.hifQDramUserWrite p v) s =
    .next (writeUser p 1 (0x4088 + 0x200 * p.val) (v.extractLsb' 0 18).toNat v
      (fun g => { g with userDram := (v.extractLsb' 0 18).toNat }) s) := by
  have hoff : pageOff p + 0x88 = 0x4088 + 0x200 * p.val := pageOff_add
  have hfield : bits v.toNat 17 0 = (v.extractLsb' 0 18).toNat := by simp [bits]
  rw [← hoff, ← hfield]
  exact live_pageWrite 0x88 h

theorem exec_hifQStripsWrite (h : served s (0x4090 + 0x200 * p.val) = true) : exec (.hifQStripsWrite p v) s =
    .next (writeUser p 2 (0x4090 + 0x200 * p.val) (v.extractLsb' 16 7).toNat v
      (fun g => { g with userStrips := (v.extractLsb' 16 7).toNat }) s) := by
  have hoff : pageOff p + 0x90 = 0x4090 + 0x200 * p.val := pageOff_add
  have hfield : bits v.toNat 22 16 = (v.extractLsb' 16 7).toNat := by simp [bits, Nat.shiftRight_eq_div_pow]
  rw [← hoff, ← hfield]
  exact live_pageWrite 0x90 h

theorem exec_hifQSectionUseWrite (h : served s (0x4098 + 0x200 * p.val) = true) : exec (.hifQSectionUseWrite p v) s =
    .next (writeUser p 3 (0x4098 + 0x200 * p.val) (v.extractLsb' 0 9).toNat v
      (fun g => { g with userSec := (v.extractLsb' 0 9).toNat }) s) := by
  have hoff : pageOff p + 0x98 = 0x4098 + 0x200 * p.val := pageOff_add
  have hfield : bits v.toNat 8 0 = (v.extractLsb' 0 9).toNat := ceilField_eq
  rw [← hoff, ← hfield]
  exact live_pageWrite 0x98 h

end

/-- Settles O44: a doorbell by its two answers, a size by `judgeSize`, a USER field by its bounds; each that is taken is one
write to its page or its queue. -/
theorem ringsAndDoorbells : Obligations.RingsAndDoorbells := by
  intro s p v i n g legal
  refine ⟨fun h hawake => ⟨fun hin => ?_, fun hout => ?_⟩, fun h => ⟨fun hok => ?_, fun hbad => ?_⟩,
    fun h => ⟨fun hok hrest => ?_, fun hok hmode hleft => ?_, fun hbad => ?_⟩,
    fun h => ⟨fun _ hzero => ?_, fun hlegal hn hoff => ?_, fun hlegal hn hon => ?_, fun hnot => ?_⟩,
    fun h => ⟨fun hzero hnone hwait => ?_, fun hzero hbusy => ?_, fun hlegal hn hoff => ?_, fun hnot => ?_⟩,
    fun h => ⟨fun hlegal hn hoff hroom => ?_, fun hlegal hn hon => ?_, fun hnot => ?_⟩,
    fun h => ⟨_, exec_hifSqStatusWrite h, onlyPage_setPage, pageOf_setPage⟩,
    fun h => ⟨fun hover => ?_, fun hfits hshrinks => ?_⟩, fun h => ⟨fun hover => ?_, fun hfits hshrinks => ?_⟩,
    fun h => ⟨fun hover => ?_, fun hfits hshrinks => ?_⟩⟩
  · refine ⟨_, exec_hifSqTailWrite h hawake, ?_⟩
    rw [writeSqTail_moves hin]
    exact ⟨onlyPage_setPage, pageOf_setPage⟩
  · refine ⟨_, exec_hifSqTailWrite h hawake, ?_⟩
    rw [writeSqTail_ignored hout, pageOf_badDoorbell]
    refine ⟨pageOf_setPage, fun hset => ?_⟩
    rw [show (pageOf s p).sq.dbBad = true from hset, badDoorbell_again]
    exact onlyPage_setPage
  · rw [exec_hifCqHeadWrite h, writeCqHead_moves hok]
    exact ⟨_, rfl, onlyPage_setPage, pageOf_setPage⟩
  · exact ⟨_, exec_hifCqHeadWrite h, pageOf_writeCqHead_ignored hbad⟩
  · rw [exec_hifEvqHeadWrite h, writeEvqHead_moves hok, if_neg]
    rintro ⟨hqueue, hleft⟩
    exact hrest.elim (fun hclaim => Bool.false_ne_true (hqueue.symm.trans hclaim)) hleft
  · rw [exec_hifEvqHeadWrite h, writeEvqHead_moves hok, if_pos ⟨hmode, hleft⟩]
  · exact ⟨_, exec_hifEvqHeadWrite h, writeEvqHead_ignored hbad⟩
  · rw [exec_hifSqSizeWrite h, show (v.extractLsb' 0 17).toNat = 0 from hzero, judgeSize_disable]
    exact ⟨_, rfl, onlyPage_setPage, pageOf_setPage⟩
  · rw [exec_hifSqSizeWrite h, judgeSize_enable hlegal hn hoff, enable_eq]
    exact ⟨_, rfl, onlyPage_setPage, pageOf_setPage⟩
  · rw [exec_hifSqSizeWrite h, judgeSize_resize hlegal hn hon]
  · rw [exec_hifSqSizeWrite h, judgeSize_illegal hnot]
  · have hfree : (inflight s p == 0 && (pageOf s p).cqWait.isEmpty) = true := by
      rw [hnone, show (pageOf s p).cqWait = [] from hwait]
      rfl
    rw [exec_hifCqSizeWrite h, show (v.extractLsb' 0 17).toNat = 0 from hzero, hfree, judgeSize_disable]
    exact ⟨_, rfl, onlyPage_setPage, pageOf_setPage⟩
  · have hheld : (inflight s p == 0 && (pageOf s p).cqWait.isEmpty) = false := by simpa [imp_iff_not_or] using hbusy
    rw [exec_hifCqSizeWrite h, show (v.extractLsb' 0 17).toNat = 0 from hzero, hheld, judgeSize_held]
  · rw [exec_hifCqSizeWrite h, judgeSize_enable hlegal hn hoff]
    refine ⟨_, rfl, onlyPage_setPage, ?_⟩
    rw [pageOf_setPage]
    exact ⟨rfl, rfl, rfl, rfl⟩
  · rw [exec_hifCqSizeWrite h, judgeSize_illegal hnot]
  · rw [exec_hifErrqSizeWrite h, writeErrqSize_eq, judgeSize_enable hlegal hn hoff, errqSized_fits hn]
    rw [enable_room]
    exact Nat.le_sub_one_of_lt hroom
  · rw [exec_hifErrqSizeWrite h, writeErrqSize_eq, judgeSize_resize hlegal hn hon]
  · rw [exec_hifErrqSizeWrite h, writeErrqSize_eq, judgeSize_illegal hnot]
  · rw [exec_hifQDramUserWrite h, writeUser_over hover]
  · rw [exec_hifQDramUserWrite h, writeUser_shrinks hfits hshrinks]
    exact ⟨_, rfl, onlyPage_setPage, pageOf_setPage⟩
  · rw [exec_hifQStripsWrite h, writeUser_over hover]
  · rw [exec_hifQStripsWrite h, writeUser_shrinks hfits hshrinks]
    exact ⟨_, rfl, onlyPage_setPage, pageOf_setPage⟩
  · rw [exec_hifQSectionUseWrite h, writeUser_over hover]
  · rw [exec_hifQSectionUseWrite h, writeUser_shrinks hfits hshrinks]
    exact ⟨_, rfl, onlyPage_setPage, pageOf_setPage⟩

end Sys2Proof.Proofs

namespace Sys2Proof.Proofs

/-! ### Fetching entries and writing records (R152 to R154, R200, R207, R218, R220) -/

open Sys2Proof.Machine

section
variable {s t u : State} {p : Part} {c : Cmd} {r : CompRec} {x : ErrRec} {q : Ring} {e : List Byte}
  {i k n op flags tag id status detail : ℕ} {m o : Source} {refused : Bool} {payload : List Byte}

/-! The engine asks for entries (R152). -/

/-- The entries that one request asks: those of one read, up to the end of the ring, its tail, and 256 in flight. -/
def askedEntries (p : Part) (s : State) : ℕ :=
  min (min (maxRead s / 64) ((pageOf s p).sq.size - (pageOf s p).sq.head))
    (min (pageOf s p).sq.used (256 - inflight s p))

theorem askFetch_stopped (h : fetchOk s p = false) : askFetch p s = s := if_pos (by rw [h]; rfl)

section
variable (hok : fetchOk s p = true) (hasked : (pageOf s p).asked = 0) (hrun : hifRuns s = true)
include hok hasked hrun

theorem askFetch_ungranted (hgrant : holdsGrant s (.dma none) = false) :
    askFetch p s = request (.dma none) .system s := by
  simp [askFetch, hok, hasked, hrun, hgrant]

theorem askFetch_granted (hgrant : holdsGrant s (.dma none) = true) (htag : outstanding s < tagLimit s) :
    askFetch p s = send (.readReq ((pageOf s p).sq.base + 64 * (pageOf s p).sq.head) (64 * askedEntries p s))
      (setPage p (fun g => { g with asked := askedEntries p s }) s) := by
  simp [askFetch, hok, hasked, hrun, hgrant, htag, askedEntries]

end

theorem askFetch_cmds : (askFetch p s).cmds = s.cmds := by rw [askFetch_frame]

theorem askFetch_nextCmd : (askFetch p s).nextCmd = s.nextCmd := by rw [askFetch_frame]

theorem pageOf_send {y : Msg} : pageOf (send y s) p = pageOf s p := rfl

/-- Asking for entries marks the page, and changes nothing else of it. -/
theorem askFetch_page : pageOf (askFetch p s) p = { pageOf s p with asked := (pageOf (askFetch p s) p).asked } := by
  unfold askFetch request
  dsimp only
  split
  · rfl
  split
  · split <;> rfl
  split
  · rfl
  · rw [pageOf_send, pageOf_setPage]

/-! SUBMISSION_FETCH. -/

theorem exec_submissionFetch (hp : s.porst = false) :
    exec (.submissionFetch p e) s = .next (submissionFetch p e s) := live_of hp

theorem submissionFetch_stopped (h : fetchOk s p = false) : submissionFetch p e s = s := if_pos (by rw [h]; rfl)

/-- Without a read that has been issued the engine asks for one. -/
theorem submissionFetch_unasked (hlen : e.length = 64) (hasked : (pageOf s p).asked = 0) :
    submissionFetch p e s = askFetch p s := by
  cases hok : fetchOk s p
  · rw [submissionFetch_stopped hok, askFetch_stopped hok]
  · simp [submissionFetch, hok, hlen, hasked]

theorem submissionFetch_asked (hok : fetchOk s p = true) (hlen : e.length = 64) (hasked : (pageOf s p).asked ≠ 0)
    (hrun : hifRuns s = true) (hgrant : holdsGrant s (.dma none) = true) :
    submissionFetch p e s = askFetch p (fetched p e (endGrant (.dma none) s)) := by
  unfold submissionFetch
  rw [if_neg (by simp [hok, hlen]), if_neg hasked, withDma_of hrun hgrant]

/-- The page of which the head has passed an entry. -/
def headPassed (g : Page) : Page :=
  { g with fetchTries := 0, asked := g.asked - 1, sq := { g.sq with head := (g.sq.head + 1) % g.sq.size } }

/-- The state in which the head has passed an entry, and its command is in the table. -/
def entryRead (p : Part) (c : Cmd) (s : State) : State :=
  { setPage p headPassed s with cmds := s.cmds ++ [c], nextCmd := s.nextCmd + 1 }

theorem entryRead_page : pageOf (entryRead p c s) p = headPassed (pageOf s p) := pageOf_setPage (f := headPassed)

/-- An entry of another opcode than FENCE's is checked as the command of the next number. -/
theorem fetched_eq (hop : (newCmd s p e).op ≠ 0x02) : fetched p e s =
    checkEntry s.nextCmd (entryRead p (newCmd s p e) s) := by
  unfold fetched
  dsimp only
  rw [if_neg hop]
  rfl

/-! The fields of an entry of these first bytes. -/

theorem entryOf_length : (Spec.entryOf op flags tag).length = 64 := by
  simp [Spec.entryOf, toLe]

theorem leNat_zeros : leNat (List.replicate n 0) = 0 := by
  induction n with
  | zero => rfl
  | succ n ih => rw [List.replicate_succ, leNat, ih]; rfl

/-- Beyond the tag every field is 0. -/
theorem le_entryOf (h : 4 ≤ i) : le (Spec.entryOf op flags tag) i k = 0 := by
  obtain ⟨j, rfl⟩ := Nat.exists_eq_add_of_le h
  have hdrop : (Spec.entryOf op flags tag).drop (4 + j) = List.replicate (60 - j) 0 := by
    rw [← List.drop_drop, ← List.drop_replicate]
    rfl
  rw [le, slice, hdrop, List.take_replicate, leNat_zeros]

theorem byteAt_entryOf (h : 4 ≤ i) : byteAt (Spec.entryOf op flags tag) i = 0 := by
  obtain ⟨j, rfl⟩ := Nat.exists_eq_add_of_le h
  have hget : (Spec.entryOf op flags tag).getD (4 + j) 0 = (List.replicate 60 (0 : Byte)).getD j 0 := by
    rw [Nat.add_comm]
    rfl
  rw [byteAt, hget, List.getD_eq_getElem?_getD, List.getElem?_replicate]
  split <;> rfl

theorem newCmd_op : (newCmd s p (Spec.entryOf op flags tag)).op = op % 256 := BitVec.toNat_ofNat op 8

theorem le_tag (h : tag < 65536) : le (Spec.entryOf op flags tag) 2 2 = tag := by
  change leNat (toLe 2 tag) = tag
  simp only [toLe, leNat, BitVec.toNat_ofNat]
  omega

theorem newCmd_tag (h : tag < 65536) : (newCmd s p (Spec.entryOf op flags tag)).tag = tag := le_tag h

theorem newCmd_ctx : (newCmd s p (Spec.entryOf op flags tag)).ctx = 0 := le_entryOf (by decide)

theorem newCmd_model : (newCmd s p (Spec.entryOf op flags tag)).model = 0 := byteAt_entryOf (by decide)

/-- No field of such an entry has a reserved bit set. -/
theorem firstReserved_entryOf (h : tag < 65536) : firstReserved headFields (Spec.entryOf op 0 tag) = none := by
  have hop : le (Spec.entryOf op 0 tag) 0 1 &&& 0xFF = le (Spec.entryOf op 0 tag) 0 1 :=
    Nat.and_two_pow_sub_one_of_lt_two_pow (n := 8) (BitVec.ofNat 8 op).isLt
  have htag : le (Spec.entryOf op 0 tag) 2 2 &&& full 2 = le (Spec.entryOf op 0 tag) 2 2 :=
    Nat.and_two_pow_sub_one_of_lt_two_pow (n := 16) ((le_tag h).trans_lt h)
  have hflags : le (Spec.entryOf op 0 tag) 1 1 = 0 := rfl
  unfold firstReserved
  rw [List.find?_eq_none]
  intro i hi
  match i with
  | 0 => simp [headFields, hop]
  | 1 => simp [headFields, hflags]
  | 2 => simp [headFields, htag]
  | 3 => simp [headFields]
  | i + 4 =>
    rw [byteAt_entryOf (by omega)]
    split
    · simp [le_entryOf]
    · simp

/-- A NOP with nothing beyond its tag has no reserved bit set. -/
theorem reservedCheck_nop (h : tag < 65536) : reservedCheck (newCmd s p (Spec.entryOf 0x01 0 tag)) = none := by
  have hop : (newCmd s p (Spec.entryOf 0x01 0 tag)).op = 0x01 := newCmd_op
  have hbody : bodyFields (newCmd s p (Spec.entryOf 0x01 0 tag)) = [] := by simp [bodyFields, hop]
  unfold reservedCheck
  rw [hbody, List.append_nil, hop, newCmd_ctx, newCmd_model]
  simp [namesModel, isWork, newCmd, firstReserved_entryOf h]

/-! A NOP needs nothing, and nothing holds it back (R171). -/

/-- A NOP as it is fetched. -/
structure FreshNop (c : Cmd) : Prop where
  op : c.op = 0x01
  ctx : c.ctx = 0
  early : c.early = false

section
variable (h : FreshNop c)
include h

theorem servedNow_nop : servedNow u c = true := by simp [servedNow, alwaysServed, h.op]

theorem capacity_nop : capacity u c = 0 := by
  simp [capacity, servedNow_nop h, Cmd.usesFlash, makesCtx, isWork, h.op, h.early]

theorem barrierOf_nop : barrierOf u c = none := by simp [barrierOf, isWork, Cmd.specK, Cmd.isGen, h.op]

theorem starvedNow_nop : starvedNow u c = false := by simp [starvedNow, isWork, h.op]

theorem unjudged_nop : unjudged u c = false := by simp [unjudged, servedNow_nop h]

theorem needs_nop : needs u c = [] := by simp [needs, isWork, h.op]

theorem reserve_nop : reserve c u = u := by simp [reserve, isWork, h.op]

theorem splitPeers_nop : splitPeers u c = none := by simp [splitPeers, isWork, h.op]

theorem checks_nop : firstBad [handleCheck u c, contextCheck u c, bodyCheck u c] = none := by
  simp [firstBad, handleCheck, contextCheck, bodyCheck, namesModel, isWork, h.op]

end

/-! The admission of the only command, a NOP. -/

section
variable (hcmds : u.cmds = [c])
include hcmds

theorem cmdOf_of_single : cmdOf u c.id = some c := by simp [cmdOf, hcmds]

theorem setCmd_of_single {f : Cmd → Cmd} : setCmd c.id f u = { u with cmds := [f c] } := by simp [setCmd, hcmds]

variable (h : FreshNop c)
include h

theorem blocked_nop : blocked u c = false := by simp [blocked, hcmds, h.op, h.ctx, isWork, Cmd.usesFlash]

variable (hjobs : u.jobs = [])
include hjobs

theorem start_nop : start c.id u = { u with cmds := [{ c with phase := .ready }] } := by
  have hctx : enterCtx c u = u := if_pos (by simp [makesCtx, isWork, h.op])
  have hslot : claimSlot c u = u := by simp [claimSlot, h.op]
  unfold start
  rw [cmdOf_of_single hcmds]
  dsimp only
  rw [hctx, hslot, setCmd_of_single hcmds, hjobs]
  rfl

theorem decide_nop : decide_ c.id u = { u with cmds := [{ c with phase := .ready }] } := by
  rw [← start_nop hcmds h hjobs]
  unfold decide_
  rw [cmdOf_of_single hcmds]
  dsimp only
  rw [capacity_nop h, barrierOf_nop h, starvedNow_nop h]
  rfl

theorem admitQuota_nop :
    admitQuota c.id u = { u with cmds := [{ c with reserved := false, phase := .ready }] } := by
  have hreserved : (isWork c.op || [0x28, 0x29, 0x31].contains c.op) = false := by simp [isWork, h.op]
  have hkept : FreshNop { c with reserved := false } := ⟨h.op, h.ctx, h.early⟩
  unfold admitQuota
  rw [cmdOf_of_single hcmds]
  dsimp only
  rw [needs_nop h, autoEvict, if_pos (by simp), needs_nop h, reserve_nop h, hreserved, setCmd_of_single hcmds]
  dsimp only [shortTier, List.find?_nil, Option.map_none]
  rw [splitPeers_nop h]
  exact decide_nop rfl hkept hjobs

theorem admitCmd_nop (hphase : c.phase = .waiting) (hres : u.ens.reserving = []) :
    admitCmd c.id u = { u with cmds := [{ c with early := false, reserved := false, phase := .ready }] } := by
  have hfree : ¬ (c.phase ≠ .waiting ∨ blocked u c = true ∨ (u.ens.reserving.any fun r => r.cmd == c.id) = true) := by
    simp [hphase, blocked_nop hcmds h, hres]
  have hearly : (u.bsc.stage != .full && earlyServed c.op && servedNow u c) = false := by simp [earlyServed, h.op]
  have hkept : FreshNop { c with early := false } := ⟨h.op, h.ctx, rfl⟩
  unfold admitCmd
  rw [cmdOf_of_single hcmds]
  dsimp only
  rw [if_neg hfree, hearly, setCmd_of_single hcmds, unjudged_nop hkept, checks_nop hkept]
  dsimp only
  rw [if_neg Bool.false_ne_true, if_neg (by simp [hkept.op])]
  exact admitQuota_nop rfl hkept hjobs

theorem checkEntry_nop (hphase : c.phase = .waiting) (hres : u.ens.reserving = []) (hzero : reservedCheck c = none) :
    checkEntry c.id u = { u with cmds := [{ c with early := false, reserved := false, phase := .ready }] } := by
  rw [← admitCmd_nop hcmds h hjobs hphase hres]
  unfold checkEntry
  rw [cmdOf_of_single hcmds]
  dsimp only
  rw [if_neg (by simp [opcodes, h.op]), hzero]

end

/-- A NOP fetched into an empty table is admitted. -/
theorem fetched_nop (htag : tag < 65536) (hcmds : s.cmds = []) (hjobs : s.jobs = []) (hres : s.ens.reserving = []) :
    (∃ c, (fetched p (Spec.entryOf 0x01 0 tag) s).cmds = [c] ∧ c.id = s.nextCmd ∧ c.part = p ∧ c.tag = tag ∧
      c.phase = .ready) ∧
    pageOf (fetched p (Spec.entryOf 0x01 0 tag) s) p = headPassed (pageOf s p) ∧
    (fetched p (Spec.entryOf 0x01 0 tag) s).nextCmd = s.nextCmd + 1 := by
  have hnop : FreshNop (newCmd s p (Spec.entryOf 0x01 0 tag)) := ⟨newCmd_op, newCmd_ctx, rfl⟩
  have hone : (entryRead p (newCmd s p (Spec.entryOf 0x01 0 tag)) s).cmds = [newCmd s p (Spec.entryOf 0x01 0 tag)] :=
    congrArg (· ++ [_]) hcmds
  have hchecked := checkEntry_nop hone hnop hjobs rfl hres (reservedCheck_nop htag)
  rw [fetched_eq (by rw [hnop.op]; decide), show s.nextCmd = (newCmd s p (Spec.entryOf 0x01 0 tag)).id from rfl, hchecked]
  exact ⟨⟨_, rfl, rfl, rfl, newCmd_tag (s := s) (p := p) htag, rfl⟩,
    entryRead_page (c := newCmd s p (Spec.entryOf 0x01 0 tag)), rfl⟩

/-! What a refusal leaves of the rings. -/

/-- The submission rings, the stage and early service are as they were. -/
structure SameRings (s t : State) : Prop where
  sq : ∀ p, (pageOf t p).sq = (pageOf s p).sq
  bsc : t.bsc = s.bsc

theorem SameRings.trans (h : SameRings s t) (k : SameRings t u) : SameRings s u :=
  ⟨fun p => (k.sq p).trans (h.sq p), k.bsc.trans h.bsc⟩

theorem sameRings_of_pages (hpages : t.hif.pages = s.hif.pages) (hbsc : t.bsc = s.bsc) : SameRings s t :=
  ⟨fun p => by rw [pageOf, hpages, pageOf], hbsc⟩

theorem sameRings_logErr : SameRings s (logErr x s) := sameRings_of_pages (by rw [logErr_frame]) (by rw [logErr_frame])

theorem sameRings_leave : SameRings s (leave c s) := sameRings_of_pages (by rw [leave_frame]) (by rw [leave_frame])

theorem sameRings_queueRec : SameRings s (queueRec p r s) := by
  unfold queueRec
  split
  · exact ⟨fun _ => rfl, rfl⟩
  · refine ⟨fun p' => ?_, rfl⟩
    by_cases hp : p' = p
    · rw [hp, pageOf_setPage]
    · rw [pageOf_setPage_ne hp]

/-- A command that ends while no early service runs. -/
theorem sameRings_finish (hearly : s.bsc.early = false) : SameRings s (finish id status detail refused payload s) := by
  unfold finish
  split
  · exact ⟨fun _ => rfl, rfl⟩
  · extract_lets r t1 x t2
    have hended : SameRings s t1 := by
      dsimp only [t1]
      split
      · exact sameRings_leave
      · exact sameRings_leave.trans sameRings_queueRec
    have hlogged : SameRings s t2 := by
      dsimp only [t2]
      split
      · exact hended.trans sameRings_logErr
      · exact hended
    rw [settleEarly_of_none (by rw [hlogged.bsc, hearly])]
    exact hlogged

theorem sameRings_refuse (hearly : s.bsc.early = false) : SameRings s (refuse id status detail s) := by
  have hsent : Sends s (releasePeers id s) := Sends.refl.releasePeers
  have hpeers : SameRings s (releasePeers id s) := sameRings_of_pages (by rw [hsent.frame]) (by rw [hsent.frame])
  exact hpeers.trans (sameRings_finish (by rw [hpeers.bsc, hearly]))

theorem refuse_nextCmd : (refuse id status detail s).nextCmd = s.nextCmd := by
  have hsent : Sends s (releasePeers id s) := Sends.refl.releasePeers
  unfold refuse
  dsimp only
  rw [Settles.finish .refl, hsent.frame]

/-- An opcode that does not exist is refused, after a record of kind 0x01 (R158, R207). -/
theorem checkEntry_unknown (hc : cmdOf s id = some c) (hop : c.op ∉ opcodes) : checkEntry id s =
    refuse id 0x30 0 (logErr { cmdErr 0x01 24 c s with arg0 := le c.entry 0 8, arg1 := c.ringIdx } s) := by
  unfold checkEntry
  rw [hc]
  dsimp only
  rw [if_pos (by simpa using hop)]

/-- What an entry of opcode 0 leaves that is fetched into an empty table (R158): its record, and no command. -/
theorem fetched_zero (hcmds : s.cmds = []) (hmute : muted s = false) (hearly : s.bsc.early = false) :
    (fetched p (Spec.entryOf 0x00 0 tag) s).cmds = [] ∧ (∃ r,
      (pageOf (fetched p (Spec.entryOf 0x00 0 tag) s) p).cqWait = (pageOf s p).cqWait ++ [r] ∧ r.status = 0x30 ∧
      r.tag = (newCmd s p (Spec.entryOf 0x00 0 tag)).tag ∧ r.opcode = 0) ∧
    (pageOf (fetched p (Spec.entryOf 0x00 0 tag) s) p).sq.head =
      ((pageOf s p).sq.head + 1) % (pageOf s p).sq.size ∧
    (fetched p (Spec.entryOf 0x00 0 tag) s).nextCmd = s.nextCmd + 1 := by
  have hop : (newCmd s p (Spec.entryOf 0x00 0 tag)).op = 0 := newCmd_op
  rw [fetched_eq (by rw [hop]; decide)]
  have hid : (newCmd s p (Spec.entryOf 0x00 0 tag)).id = s.nextCmd := rfl
  have hpart : (newCmd s p (Spec.entryOf 0x00 0 tag)).part = p := rfl
  have hsilent : (newCmd s p (Spec.entryOf 0x00 0 tag)).silent = false := rfl
  generalize newCmd s p (Spec.entryOf 0x00 0 tag) = c at *
  have hone : (entryRead p c s).cmds = [c] := congrArg (· ++ [c]) hcmds
  have hpage : pageOf (entryRead p c s) p = headPassed (pageOf s p) := entryRead_page
  have hnext : (entryRead p c s).nextCmd = s.nextCmd + 1 := rfl
  have hstage : (entryRead p c s).bsc = s.bsc := rfl
  rw [← hid, checkEntry_unknown (cmdOf_of_single hone) (by rw [hop]; decide)]
  generalize { cmdErr 0x01 24 c (entryRead p c s) with arg0 := le c.entry 0 8, arg1 := c.ringIdx } = x
  generalize entryRead p c s = w at *
  have hlogged : SameRings w (logErr x w) := sameRings_logErr
  have hloggedCmds : (logErr x w).cmds = [c] := by rw [logErr_frame, hone]
  have hloggedEarly : (logErr x w).bsc.early = false := by rw [hlogged.bsc, hstage, hearly]
  have hloggedMute : muted (logErr x w) = false := by rw [muted, hlogged.bsc, hstage, ← muted, hmute]
  obtain ⟨hleft, r, hwait, hstatus, hopcode, hrtag, -⟩ := refuse_done (status := 0x30) (detail := 0)
    (cmdOf_of_single hloggedCmds) hsilent hloggedMute hloggedEarly
  refine ⟨?_, ⟨r, ?_, hstatus, hrtag, hopcode.trans hop⟩, ?_, ?_⟩
  · rw [hleft, hloggedCmds]
    simp
  · rw [← hpart, hwait, pageOf_logErr, hpart, hpage]
    rfl
  · rw [(hlogged.trans (sameRings_refuse hloggedEarly)).sq, hpage]
    rfl
  · rw [refuse_nextCmd, logErr_frame, hnext, hid]

/-! Records (R153, R154, R200, R207). -/

theorem push_eq : q.push = { q with
    tail := if q.tail + 1 = q.size then 0 else q.tail + 1
    phase := if q.tail + 1 = q.size then !q.phase else q.phase } := by
  unfold Ring.push
  split <;> rfl

theorem occur_count : (occur m s).evc.count[o] = if o = m then min 255 (s.evc.count[o] + 1) else s.evc.count[o] := by
  change (s.evc.count.set m (satAdd 255 s.evc.count[m] 1))[o.val] = _
  by_cases h : o = m
  · rw [h, if_pos rfl, Vector.getElem_set_self]
    rfl
  · rw [if_neg h, Vector.getElem_set_ne _ _ fun hval => h (Fin.ext hval.symm)]
    rfl

/-- A completion record begins with its status, its opcode, its tag and its context (R200). -/
theorem compBytes_head {phase : Bool} : (compBytes r phase).take 6 =
    [BitVec.ofNat 8 r.status, BitVec.ofNat 8 r.opcode] ++ toLe 2 r.tag ++ toLe 2 r.ctx := by
  simp [compBytes, toLe]

theorem exec_completionRecordWrite (hp : s.porst = false) :
    exec (.completionRecordWrite p) s = .next (compRecord p s) := live_of hp

theorem compRecord_idle (h : (pageOf s p).cqWait = [] ∨ (pageOf s p).cq.size = 0 ∨ (pageOf s p).cq.room = 0) :
    compRecord p s = s := by
  refine if_pos ?_
  rcases h with h | h | h <;> simp [h]

/-- The page of which a record has been written, and `rest` still waits. -/
def recordTaken (rest : List CompRec) (g : Page) : Page := { g with cqWait := rest, cq := g.cq.push }

/-- The state in which the record `r` has been written at the tail. -/
def recordWritten (p : Part) (r : CompRec) (rest : List CompRec) (s : State) : State :=
  syncHolds (·.id == r.cmd) (occur (cqSource p) (send
    (.write ((pageOf s p).cq.base + 32 * (pageOf s p).cq.tail) (compBytes r (pageOf s p).cq.phase))
    (setPage p (recordTaken rest) s)))

theorem recordWritten_page {rest : List CompRec} :
    pageOf (recordWritten p r rest s) p = recordTaken rest (pageOf s p) := pageOf_setPage (f := recordTaken rest)

theorem recordWritten_out {rest : List CompRec} : (recordWritten p r rest s).out =
    .write ((pageOf s p).cq.base + 32 * (pageOf s p).cq.tail) (compBytes r (pageOf s p).cq.phase) :: s.out := by
  unfold recordWritten
  rfl

theorem recordWritten_count {rest : List CompRec} : (recordWritten p r rest s).evc.count[o] =
    if o = cqSource p then min 255 (s.evc.count[o] + 1) else s.evc.count[o] :=
  occur_count (s := setPage p (recordTaken rest) s)

theorem recordWritten_mem {rest : List CompRec} : (recordWritten p r rest s).mem = s.mem := by
  unfold recordWritten
  rfl

/-- Without output the first record that waits is written. -/
theorem writeComp_eq {rest : List CompRec} (hwait : (pageOf s p).cqWait = r :: rest) (hout : (pageOf s p).outWait = []) :
    writeComp p s = recordWritten p r rest s := by
  have hnone : sendOutput p s = s := by rw [sendOutput, hout, moveOutput]
  unfold writeComp
  dsimp only
  rw [hnone, hwait]
  rfl

theorem compRecord_writes {rest : List CompRec} (hwait : (pageOf s p).cqWait = r :: rest) (hout : (pageOf s p).outWait = [])
    (hmute : muted s = false) (hsize : (pageOf s p).cq.size ≠ 0) (hroom : (pageOf s p).cq.room ≠ 0)
    (hrun : hifRuns s = true) (hgrant : holdsGrant s (.dma none) = true) :
    compRecord p s = recordWritten p r rest (endGrant (.dma none) s) := by
  unfold compRecord
  dsimp only
  rw [if_neg (by simp [hwait, hmute, hsize, hroom]), hout, List.find?_nil]
  exact (withDma_of hrun hgrant).trans (writeComp_eq (s := endGrant (.dma none) s) hwait hout)

theorem exec_errorRecordWrite (hp : s.porst = false) : exec .errorRecordWrite s = .next (errRecord s) := live_of hp

theorem errRecord_idle (h : s.hif.errWait = [] ∨ s.hif.errq.size = 0 ∨ s.hif.errq.room = 0) : errRecord s = s := by
  refine if_pos ?_
  rcases h with h | h | h <;> simp [h]

theorem errRecord_writes {rest : List ErrRec} (hwait : s.hif.errWait = x :: rest) (hmute : muted s = false)
    (hsize : s.hif.errq.size ≠ 0) (hroom : s.hif.errq.room ≠ 0) (hrun : hifRuns s = true)
    (hgrant : holdsGrant s (.dma none) = true) : errRecord s = occur 6 (send
      (.write (s.hif.errq.base + 32 * s.hif.errq.tail) (errBytes x s.hif.errLostRun s.hif.errq.phase))
      { endGrant (.dma none) s with hif := { s.hif with errWait := rest, errLostRun := 0, errq := s.hif.errq.push } }) := by
  have hkept : (endGrant (.dma none) s).hif = s.hif := rfl
  unfold errRecord
  rw [if_neg (by simp [hwait, hmute, hsize, hroom]), withDma_of hrun hgrant, writeErr, hkept, hwait]

theorem exec_hifErrqLostRead (h : served s 0x504C = true) : exec .hifErrqLostRead s =
    .next (reply (.bar0 0x504C (BitVec.ofNat 32 s.hif.errLost)) { s with hif := { s.hif with errLost := 0 } }) :=
  (live_of (served_porst h)).trans (congrArg _ (regRead_of_served h rfl))

/-- The number of deferred entries and the peak, which starts again from it (R220). -/
theorem exec_hifDeferTotalRead (h : served s 0x5048 = true) : exec .hifDeferTotalRead s =
    .next (reply (.bar0 0x5048 (w32 (deferTotal s + 0x10000 * max s.hif.deferPeak (deferTotal s))))
      { s with hif := { s.hif with deferPeak := deferTotal s } }) :=
  (live_of (served_porst h)).trans (congrArg _ (regRead_of_served h rfl))

end

/-- Settles O45: a fetch by the state in which the head has passed the entry and what its check makes of the command, a
record by the state in which it has been written. -/
theorem recordsAndFetch : Obligations.RecordsAndFetch := by
  intro s hporst
  refine ⟨fun p hok hasked hrun => ⟨fun hgrant => ?_, fun hgrant htag => ?_⟩,
    fun p tag htag hok hasked hcmds hjobs hres hrun hgrant => ⟨?_, fun hearly => ?_⟩, fun p e hstop => ?_,
    fun p e hlen hasked => ?_,
    fun p => ⟨fun r rest hwait hout hmute hsize hroom hrun hgrant => ?_, fun hidle => ?_⟩,
    ⟨fun r rest hwait hmute hsize hroom hrun hgrant => ?_, fun hidle => ?_⟩, fun h => ?_, fun h => ?_⟩
  · exact askFetch_ungranted hok hasked hrun hgrant
  · refine ⟨_, rfl, ?_⟩
    rw [askFetch_granted hok hasked hrun hgrant htag, pageOf_send, pageOf_setPage]
    exact ⟨rfl, rfl⟩
  · obtain ⟨⟨c, hone, hid, hpart, hctag, hphase⟩, hpage, hnext⟩ :=
      fetched_nop (s := endGrant (.dma none) s) (p := p) htag hcmds hjobs hres
    rw [exec_submissionFetch hporst, submissionFetch_asked hok entryOf_length hasked hrun hgrant]
    refine ⟨_, c, rfl, askFetch_cmds.trans hone, hid, hpart, hctag, hphase, askFetch_nextCmd.trans hnext, ?_, ?_⟩
    · rw [askFetch_page, hpage]
      rfl
    · rw [askFetch_page, hpage]
      rfl
  · have hmute : muted s = false := by
      simp only [fetchOk, Bool.and_eq_true, Bool.not_eq_true'] at hok
      exact hok.2
    obtain ⟨hleft, ⟨r, hwait, hstatus, hrtag, hopcode⟩, hhead, hnext⟩ :=
      fetched_zero (s := endGrant (.dma none) s) (p := p) (tag := tag) hcmds hmute hearly
    rw [exec_submissionFetch hporst, submissionFetch_asked hok entryOf_length hasked hrun hgrant]
    refine ⟨_, r, rfl, askFetch_cmds.trans hleft, ?_, hstatus, hrtag.trans (newCmd_tag htag), hopcode, ?_,
      askFetch_nextCmd.trans hnext⟩
    · rw [askFetch_page]
      exact hwait
    · rw [askFetch_page]
      exact hhead
  · rw [exec_submissionFetch hporst, submissionFetch_stopped hstop]
  · rw [exec_submissionFetch hporst, submissionFetch_unasked hlen hasked]
  · rw [exec_completionRecordWrite hporst, compRecord_writes hwait hout hmute hsize hroom hrun hgrant]
    refine ⟨_, rfl, recordWritten_out, compBytes_head, ?_, fun n => ?_, recordWritten_mem⟩
    · rw [recordWritten_page, recordTaken, push_eq]
      rfl
    · have hsource : n.val = 8 + p.val ↔ n = cqSource p := by simp [cqSource, Fin.ext_iff]; omega
      simp only [hsource]
      exact recordWritten_count
  · rw [exec_completionRecordWrite hporst, compRecord_idle hidle]
  · rw [exec_errorRecordWrite hporst, errRecord_writes hwait hmute hsize hroom hrun hgrant, push_eq]
    exact ⟨_, rfl, rfl, rfl, occur_count.trans (if_pos rfl)⟩
  · rw [exec_errorRecordWrite hporst, errRecord_idle hidle]
  · exact exec_hifErrqLostRead h
  · exact ⟨_, exec_hifDeferTotalRead h⟩

end Sys2Proof.Proofs

namespace Sys2Proof.Proofs

/-! ### What the end of a command leaves alone, and the fields of its payload (R165, R200, R214) -/

open Sys2Proof.Machine

section
variable {s t u : State} {c d : Cmd} {a : Part} {r : CompRec} {f : Obj → Bool}
  {id key n v status detail : ℕ} {refused : Bool} {payload : List Byte}

/-! The whole state but what commands leave behind. -/

/-- `t` came from `s` by the ends of commands: their tables, their records, the stage with its early service and the idle time
may differ. -/
def Completes (s t : State) : Prop :=
  t = { s with
    bsc := t.bsc, hif := t.hif, objs := t.objs, cmds := t.cmds, ctxs := t.ctxs, early := t.early, strips := t.strips
    evc := t.evc, pwr := t.pwr }

theorem Completes.refl : Completes s s := rfl

theorem Completes.trans (h : Completes s t) (k : Completes t u) : Completes s u := by
  unfold Completes at *
  rw [k, h]

theorem Completes.foldl {α : Type} {g : State → α → State} {l : List α} (h : Completes s t)
    (hg : ∀ u x, Completes s u → Completes s (g u x)) : Completes s (l.foldl g t) := by
  induction l generalizing t with
  | nil => exact h
  | cons x l ih => exact ih (hg t x h)

theorem Completes.logErr {x : ErrRec} (h : Completes s t) : Completes s (logErr x t) := by
  refine h.trans ?_
  unfold Completes
  rw [logErr_frame]

theorem Completes.leave (h : Completes s t) : Completes s (leave c t) := by
  refine h.trans ?_
  unfold Completes
  rw [leave_frame]

theorem queueRec_frame : queueRec a r s = { s with hif := (queueRec a r s).hif } := by
  unfold queueRec
  split <;> rfl

theorem Completes.queueRec (h : Completes s t) : Completes s (queueRec a r t) := by
  refine h.trans ?_
  unfold Completes
  rw [queueRec_frame]

theorem Completes.settleEarly (h : Completes s t) : Completes s (settleEarly t) := by
  unfold Machine.settleEarly
  split
  · exact h
  · extract_lets gone named t1 bsc t2
    have hdropped : Completes s t1 := h.foldl fun _ _ hu => hu.trans rfl
    have hcounted : Completes s t2 := hdropped.trans rfl
    split
    · exact hcounted
    · exact hcounted.trans rfl

theorem Completes.finish (h : Completes s t) : Completes s (finish id status detail refused payload t) := by
  unfold Machine.finish
  split
  · exact h
  · next c _ =>
    extract_lets r t1 err t2
    have hended : Completes s t1 := by
      dsimp only [t1]
      split
      · exact h.leave
      · exact h.leave.queueRec
    have hlogged : Completes s t2 := by
      dsimp only [t2]
      split
      · exact hended.logErr
      · exact hended
    exact hlogged.settleEarly

theorem Completes.failCmd (h : Completes s t) : Completes s (failCmd id status detail t) := by
  unfold Machine.failCmd
  split
  · exact h
  · exact h.finish

/-- Outside early service a command that ends without a fault leaves the table, and its record joins its queue: nothing else. -/
theorem finish_eq (hc : cmdOf s id = some c) (hsilent : c.silent = false) (hearly : s.bsc.early = false)
    (hlow : status < 0x40) : finish id status detail refused payload s =
      queueRec c.part (recordOf s c status detail refused payload) (leave c s) := by
  have hkept : (queueRec c.part (recordOf s c status detail refused payload) (leave c s)).bsc = s.bsc := by
    rw [queueRec_frame, leave_frame]
  unfold finish
  rw [hc]
  dsimp only
  rw [hsilent, if_neg Bool.false_ne_true, if_neg (by omega)]
  exact settleEarly_of_none (by rw [hkept, hearly])

/-! What a command takes with it. -/

/-- Every object of `t` is one of `s`, or a KV page left to a running row (R27), and every context of `t` runs on the model of
one of `s`. -/
structure Sheds (s t : State) : Prop where
  objs : ∀ o ∈ t.objs, o ∈ s.objs ∨ ∃ j pg, o.kind = .kv (goneKey j) pg
  ctxs : ∀ x ∈ t.ctxs, ∃ y ∈ s.ctxs, y.model = x.model

theorem Sheds.refl : Sheds s s := ⟨fun _ ho => .inl ho, fun x hx => ⟨x, hx, rfl⟩⟩

theorem Sheds.trans (h : Sheds s t) (k : Sheds t u) : Sheds s u where
  objs _ ho := (k.objs _ ho).elim (h.objs _) .inr
  ctxs x hx := by
    obtain ⟨y, hy, hxy⟩ := k.ctxs x hx
    obtain ⟨z, hz, hyz⟩ := h.ctxs y hy
    exact ⟨z, hz, hyz.trans hxy⟩

theorem Sheds.of_tables (hobjs : t.objs = s.objs) (hctxs : t.ctxs = s.ctxs) : Sheds s t where
  objs _ ho := .inl (hobjs ▸ ho)
  ctxs x hx := ⟨x, hctxs ▸ hx, rfl⟩

theorem Sheds.foldl {α : Type} {g : State → α → State} {l : List α} (h : Sheds s t)
    (hg : ∀ u x, Sheds s u → Sheds s (g u x)) : Sheds s (l.foldl g t) := by
  induction l generalizing t with
  | nil => exact h
  | cons x l ih => exact ih (hg t x h)

theorem Sheds.dropObjs (h : Sheds s t) : Sheds s (dropObjs f t) :=
  h.trans ⟨fun _ ho => .inl (List.mem_of_mem_filter ho), fun x hx => ⟨x, hx, rfl⟩⟩

theorem Sheds.freeObjs (h : Sheds s t) : Sheds s (freeObjs f t) := by
  refine h.trans ⟨fun o ho => ?_, fun x hx => ⟨x, hx, rfl⟩⟩
  obtain ⟨o', ho', hleft⟩ := List.mem_filterMap.1 ho
  split at hleft
  · dsimp only at hleft
    split at hleft
    · obtain ⟨row, -, rfl⟩ := Option.map_eq_some_iff.1 hleft
      exact .inr ⟨_, _, rfl⟩
    · exact absurd hleft (by simp)
  · exact .inl (Option.some.inj hleft ▸ ho')

theorem Sheds.setCtx {g : Ctx → Ctx} (h : Sheds s t) (hg : ∀ x, (g x).model = x.model) : Sheds s (setCtx a key g t) := by
  refine h.trans ⟨fun _ ho => .inl ho, fun x hx => ?_⟩
  obtain ⟨y, hy, rfl⟩ := List.mem_map.1 hx
  refine ⟨y, hy, ?_⟩
  split
  · exact (hg y).symm
  · rfl

theorem Sheds.dropCtx (h : Sheds s t) : Sheds s (dropCtx a key t) :=
  Sheds.freeObjs (h.trans ⟨fun _ ho => .inl ho, fun x hx => ⟨x, List.mem_of_mem_filter hx, rfl⟩⟩)

theorem Sheds.trimPages (h : Sheds s t) : Sheds s (trimPages a key t) := by
  unfold Machine.trimPages
  split
  · exact h
  · exact h.freeObjs

theorem Sheds.settleCtx (h : Sheds s t) : Sheds s (settleCtx a key t) := by
  unfold Machine.settleCtx
  split
  · exact h.freeObjs
  · next x _ =>
    refine Sheds.setCtx ?_ fun _ => rfl
    cases x.st
    case live => exact h.trimPages.dropObjs
    case hushed => exact h.freeObjs
    all_goals exact h.freeObjs.dropObjs

theorem Sheds.releaseCmd (h : Sheds s t) : Sheds s (releaseCmd c t) := by
  unfold Machine.releaseCmd
  extract_lets busy t1
  have hown : Sheds s t1 := h.dropObjs
  split
  · exact hown.dropCtx
  split
  · exact hown
  split
  · exact hown.settleCtx
  split
  · exact hown.dropObjs
  · exact hown

theorem Sheds.leave (h : Sheds s t) : Sheds s (leave c t) := by
  unfold Machine.leave
  extract_lets t1
  have hreleased : Sheds s t1 := Sheds.releaseCmd (h.trans (.of_tables rfl rfl))
  split
  · exact hreleased.trans (.of_tables rfl rfl)
  · exact hreleased

/-! One record of a command that has changed since. -/

theorem setCmd_others {g : Cmd → Cmd} (hg : ∀ x, (g x).id = x.id) :
    (setCmd id g s).cmds.filter (·.id != id) = s.cmds.filter (·.id != id) := by
  refine filter_map_of_fixed (fun x => ?_) fun x hx => if_neg (by simpa using hx)
  split
  · rw [hg]
  · rfl

/-- The record of a command is that of the command as it was: its entry stands, and no other command was touched. -/
theorem done_of_updated (h : Spec.done u t d status detail payload) (hid : d.id = c.id) (hpart : d.part = c.part)
    (hentry : d.entry = c.entry) (hcmds : u.cmds.filter (·.id != c.id) = s.cmds.filter (·.id != c.id))
    (hpages : u.hif.pages = s.hif.pages) : Spec.done s t c status detail payload := by
  obtain ⟨hleft, r, hqueue, hstatus, hop, htag, hctx, hrest⟩ := h
  rw [hid] at hleft hrest
  rw [hpart] at hqueue
  refine ⟨hleft.trans hcmds, r, ?_, hstatus, ?_, ?_, ?_, hrest⟩
  · rw [hqueue, pageOf, hpages, pageOf]
  · rw [hop, Cmd.op, hentry, Cmd.op]
  · rw [htag, Cmd.tag, hentry, Cmd.tag]
  · rw [hctx, Cmd.ctx, hentry, Cmd.ctx]

/-! The fields of a payload. -/

theorem leNat_toLe : leNat (toLe n v) = v % 256 ^ n := by
  induction n generalizing v with
  | zero => rw [pow_zero, Nat.mod_one]; rfl
  | succ n ih =>
    rw [toLe, leNat, ih, BitVec.toNat_ofNat, pow_succ' 256, Nat.mod_mul]

end

end Sys2Proof.Proofs

namespace Sys2Proof.Proofs

/-! ### Commands that act at their admission (R171 to R178, R194, R197, R211) -/

open Sys2Proof.Machine

section
variable {s t u : State} {c d : Cmd} {a : Part} {h k : Handle} {id op key n status detail : ℕ} {refused : Bool}
  {payload : List Byte} {f : Cmd → State → State}

theorem admitCmd_of_admitted (hc : cmdOf s id = some c) (hphase : c.phase ≠ .waiting) : admitCmd id s = s := by
  unfold admitCmd
  rw [hc]
  exact if_pos (.inl hphase)

/-- An admitted command that is not yet at work acts, and its admission is over. -/
theorem atAdmission_ready (h : Spec.isReady s id c op) : atAdmission op id f s = f c s := by
  obtain ⟨-, hc, hop, hphase, -⟩ := h
  unfold atAdmission
  rw [hc, Option.map_some, if_neg (by simp [hop]), admitCmd_of_admitted hc (by simp [hphase])]
  dsimp only
  rw [hc]
  exact if_neg (by simp [hphase])

theorem live_atAdmission (h : Spec.isReady s id c op) : live s (atAdmission op id f) = .next (f c s) := by
  rw [live_of h.1, atAdmission_ready h]

/-- A ready command that completes writes its one record, whatever its own work has done beside the tables of commands. -/
theorem ready_finish_done (h : Spec.isReady s id c op) (hcmds : t.cmds = s.cmds) (hpages : t.hif.pages = s.hif.pages)
    (hstage : t.bsc.stage = s.bsc.stage) (hearly : t.bsc.early = s.bsc.early) :
    Spec.done s (finish c.id status detail refused payload t) c status (detail % 65536) payload := by
  obtain ⟨-, hc, -, -, hsilent, hmute, hnone⟩ := h
  obtain rfl := cmdOf_id hc
  refine done_congr (finish_spec ?_ hsilent ?_ ?_) hcmds.symm hpages.symm rfl rfl
  · rw [cmdOf, hcmds]; exact hc
  · rw [muted, hstage]; exact hmute
  · rw [hearly, hnone]

/-! NOP, FENCE, MODEL_PIN and MODEL_QUERY (R171, R172, R177, R178). -/

theorem exec_nop (h : Spec.isReady s id c 0x01) : exec (.nop id) s = .next (finish c.id 0x00 0 false noPayload s) :=
  live_atAdmission h

theorem fenceRow_waits (h : Spec.isReady s id c 0x02) (hd : d ∈ s.cmds) (hpart : d.part = c.part) (hearlier : d.id < id) :
    fenceRow id s = s := by
  unfold fenceRow
  rw [h.2.1]
  exact if_pos (.inr (List.any_eq_true.2 ⟨d, hd, by simp [hpart, hearlier]⟩))

theorem fenceRow_passes (h : Spec.isReady s id c 0x02) (hall : ∀ d ∈ s.cmds, d.part = c.part → id ≤ d.id) :
    fenceRow id s = finish c.id 0x00 0 false (payloadOf [(0, 4, c.count)]) s := by
  have hnone : (s.cmds.any fun d => d.part == c.part && decide (d.id < id)) = false := by
    rw [List.any_eq_false]
    intro d hd
    simpa using hall d hd
  unfold fenceRow
  rw [h.2.1]
  dsimp only
  rw [if_neg (by simp [h.2.2.1, hnone]), atAdmission_ready h]

theorem exec_fence (hp : s.porst = false) : exec (.fence id) s = .next (fenceRow id s) := live_of hp

/-- The handle pinned or unpinned, as the command asks. -/
def pinSet (c : Cmd) (s : State) : State := setModel c.handle (fun m => { m with pinned := c.byte 16 == 1 }) s

theorem exec_modelPin (h : Spec.isReady s id c 0x13) : exec (.modelPin id) s =
    .next (finish c.id 0x00 0 false (payloadOf [(0, 1, b2n s.models[c.handle].pinned)]) (pinSet c s)) :=
  live_atAdmission h

theorem models_setModel {g : Model → Model} : (setModel h g s).models[h] = g s.models[h] := Vector.getElem_set_self h.isLt

theorem models_setModel_ne {g : Model → Model} (hne : k ≠ h) : (setModel h g s).models[k] = s.models[k] :=
  Vector.getElem_set_ne h.isLt k.isLt fun e => hne (Fin.ext e.symm)

theorem finish_models : (finish id status detail refused payload s).models = s.models := by
  rw [Completes.finish .refl]

theorem modelStCode_lt (st : ModelSt) : modelStCode st < 6 := by cases st <;> decide

/-- An answer laid out as that of MODEL_QUERY. -/
theorem payloadOf_query {a b d e f g : ℕ} : payloadOf [(0, 8, a), (8, 1, b), (9, 1, d), (10, 1, e), (12, 2, f), (14, 2, g)] =
    toLe 8 a ++ [BitVec.ofNat 8 b, BitVec.ofNat 8 d, BitVec.ofNat 8 e, 0] ++ toLe 2 f ++ toLe 2 g := by
  simp [payloadOf, patch, toLe, List.replicate]

theorem queryPayload_fields {h : Handle} : (queryPayload s h).length = 16 ∧
    byteAt (queryPayload s h) 8 = modelStCode s.models[h].st ∧ byteAt (queryPayload s h) 9 = s.models[h].owner.val ∧
    (s.models[h].st ≠ .loading → le (queryPayload s h) 0 8 = s.models[h].hdr.modelId % 2 ^ 64) := by
  unfold queryPayload
  extract_lets m hdr drafts mark
  rw [payloadOf_query]
  refine ⟨rfl, (BitVec.toNat_ofNat _ 8).trans (Nat.mod_eq_of_lt (Nat.lt_trans (modelStCode_lt _) (by decide))),
    (BitVec.toNat_ofNat _ 8).trans (Nat.mod_eq_of_lt (Nat.lt_trans m.owner.isLt (by decide))), fun hload => ?_⟩
  rw [show hdr = m.hdr from if_neg hload]
  exact leNat_toLe (n := 8)

theorem exec_modelQuery (h : Spec.isReady s id c 0x14) :
    exec (.modelQuery id) s = .next (finish c.id 0x00 0 false (queryPayload s c.handle) s) := live_atAdmission h

/-! MODEL_EVICT (R176). -/

/-- `t` came from `s` by the destruction of contexts: beside what sending leaves, their table and their objects differ. -/
structure Destroys (s t : State) : Prop where
  frame : t = { s with
    brg := t.brg, hif := { t.hif with pages := s.hif.pages }, evc := t.evc, vib := t.vib, out := t.out, ens := t.ens
    objs := t.objs, ctxs := t.ctxs }

theorem Destroys.refl : Destroys s s := ⟨rfl⟩

theorem Destroys.trans (h : Destroys s t) (k : Destroys t u) : Destroys s u := ⟨by rw [k.frame, h.frame]⟩

theorem Sends.destroys (h : Sends s t) : Destroys s t := ⟨by rw [h.frame]⟩

theorem destroyCtx_sends : Sends (dropCtx a key s) (destroyCtx a key s) := by
  unfold destroyCtx
  extract_lets peers t
  clear_value peers
  cases peers with
  | none => exact .refl
  | some sp =>
    dsimp only
    split
    · exact Sends.refl.toStages
    · exact .refl

theorem destroyCtx_destroys : Destroys s (destroyCtx a key s) :=
  (show Destroys s (dropCtx a key s) from ⟨rfl⟩).trans destroyCtx_sends.destroys

theorem destroyCtx_ctxs : (destroyCtx a key s).ctxs = s.ctxs.filter fun x => !(x.part == a && x.num == key) :=
  destroyCtx_sends.tables.1

/-- The contexts `l` destroyed, one after the other. -/
def destroyAll (l : List Ctx) (s : State) : State := l.foldl (fun s x => destroyCtx x.part x.num s) s

theorem destroyAll_destroys {l : List Ctx} : Destroys s (destroyAll l s) := by
  induction l generalizing s with
  | nil => exact .refl
  | cons x l ih => exact destroyCtx_destroys.trans ih

theorem mem_destroyAll {l : List Ctx} {x : Ctx} :
    x ∈ (destroyAll l s).ctxs ↔ x ∈ s.ctxs ∧ ∀ y ∈ l, ¬ (x.part = y.part ∧ x.num = y.num) := by
  induction l generalizing s with
  | nil => simp [destroyAll]
  | cons y l ih =>
    change x ∈ (destroyAll l (destroyCtx y.part y.num s)).ctxs ↔ _
    rw [ih, destroyCtx_ctxs, List.mem_filter, List.forall_mem_cons, and_assoc]
    simp only [Bool.not_eq_true', Bool.and_eq_false_iff, beq_eq_false_iff_ne, ne_eq, not_and_or]

theorem tellJoin_sends : Sends s (tellJoin h s) := by
  unfold tellJoin
  extract_lets m
  split
  · split
    · exact Sends.refl.toStages
    · exact .refl
  · exact .refl

theorem clearDrafts_destroys : Destroys s (clearDrafts h s) := by
  unfold clearDrafts
  extract_lets hit
  induction hit generalizing s with
  | nil => exact .refl
  | cons x l ih => exact Destroys.trans ⟨rfl⟩ ih

theorem clearDrafts_sheds : Sheds s (clearDrafts h s) := by
  unfold clearDrafts
  extract_lets hit
  exact Sheds.refl.foldl fun _ _ hu => hu.dropObjs.setCtx fun _ => rfl

/-- The state in which the contexts of a handle are gone, and its freeing has been told to the other stages. -/
def freeing (h : Handle) (s : State) : State :=
  tellJoin h (setModel h (fun m => { m with st := .evicting }) (clearDrafts h (destroyAll (boundTo s h) s)))

theorem freeing_destroys : Destroys (setModel h (fun m => { m with st := .evicting }) s) (freeing h s) := by
  have hcleared : Destroys s (clearDrafts h (destroyAll (boundTo s h) s)) :=
    destroyAll_destroys.trans clearDrafts_destroys
  refine Destroys.trans ⟨?_⟩ tellJoin_sends.destroys
  rw [hcleared.frame]
  rfl

theorem freeing_ctxs : ∀ x ∈ (freeing h s).ctxs, x.model ≠ some (.handle h) := by
  intro x hx hbound
  rw [freeing, tellJoin_sends.tables.1] at hx
  obtain ⟨y, hy, hxy⟩ := (clearDrafts_sheds (h := h)).ctxs x hx
  obtain ⟨hold, hkept⟩ := mem_destroyAll.1 hy
  exact hkept y (List.mem_filter.2 ⟨hold, by simp [hxy, hbound]⟩) ⟨rfl, rfl⟩

/-- Its units and strips are gone, its window is empty, and no stage's report names the handle. -/
def emptied (h : Handle) (s : State) : State :=
  { dropObjs (fun o => o.kind == .model h none || o.kind == .strips h none) s with
    strips := s.strips.map fun t => if t.owner = some (.handle h) then Strip.reset else t
    ens := { s.ens with
      joined := s.ens.joined &&& ~~~BitVec.ofNat 64 (2 ^ h.val)
      joins := s.ens.joins.filter (·.h != h)
      blocks := s.ens.blocks.filter (·.h != h) } }

theorem freeModel_eq : freeModel h s = report 36 (setModel h (fun _ => Model.empty) (emptied h (freeing h s))) := rfl

theorem emptied_kept : (emptied h s).cmds = s.cmds ∧ (emptied h s).hif = s.hif ∧ (emptied h s).bsc = s.bsc ∧
    (emptied h s).models = s.models := ⟨rfl, rfl, rfl, rfl⟩

theorem freeing_kept : (freeing h s).cmds = s.cmds ∧ (freeing h s).hif.pages = s.hif.pages ∧ (freeing h s).bsc = s.bsc ∧
    (freeing h s).models = s.models.set h { s.models[h] with st := .evicting } := by
  rw [freeing_destroys.frame]
  exact ⟨rfl, rfl, rfl, rfl⟩

theorem emptied_ctxs : (emptied h s).ctxs = s.ctxs := rfl

/-- Beside the handle, its contexts and its objects, freeing leaves the tables of commands and models alone. -/
theorem freeModel_kept : (freeModel h s).cmds = s.cmds ∧ (freeModel h s).hif.pages = s.hif.pages ∧
    (freeModel h s).bsc = s.bsc ∧ (freeModel h s).models = s.models.set h Model.empty := by
  obtain ⟨hcmds, hhif, hbsc, hmodels⟩ := emptied_kept (h := h) (s := freeing h s)
  obtain ⟨hcmds', hpages, hbsc', hmodels'⟩ := freeing_kept (h := h) (s := s)
  simp [freeModel_eq, setModel, hcmds, hhif, hbsc, hmodels, hcmds', hpages, hbsc', hmodels']

theorem freeModel_ctxs : ∀ x ∈ (freeModel h s).ctxs, x.model ≠ some (.handle h) := by
  simp only [freeModel_eq, report_ctxs, setModel_ctxs, emptied_ctxs]
  exact freeing_ctxs

theorem freeModel_objs : ∀ o ∈ (freeModel h s).objs, o.kind ≠ .model h none ∧ o.kind ≠ .strips h none := by
  intro o ho
  simpa using (List.mem_filter.1 ho).2

theorem freeModel_latch : (freeModel h s).evc.latch.getLsbD 36 = true := report_latch

/-- The state in which an eviction has begun: its wait has ended, and its handle is EVICTING. -/
def evictionBegun (c : Cmd) (s : State) : State :=
  setCmd c.id (fun d => { d with mark := s.nextCmd })
    (setModel c.handle (fun m => { m with st := .evicting }) (endWait c.id s))

theorem setCmd_models {g : Cmd → Cmd} : (setCmd id g s).models = s.models := rfl

theorem setCmd_self : setCmd id (fun x => x) s = s := by simp [setCmd]

/-- Of the commands the beginning of an eviction changes what concerns neither their entries nor their numbers. -/
theorem evictionBegun_cmds : ∃ g : Cmd → Cmd, (evictionBegun c s).cmds = s.cmds.map g ∧ (∀ x, x.id ≠ c.id → g x = x) ∧
    ∀ x, ∃ k w m, g x = { x with queuedNs := k, waitFrom := w, mark := m } := by
  refine ⟨_, List.map_map, fun x hx => ?_, fun x => ?_⟩
  · simp [hx]
  · by_cases hx : x.id = c.id
    · exact ⟨_, _, _, by simp only [Function.comp, hx, if_pos]; rfl⟩
    · exact ⟨x.queuedNs, x.waitFrom, x.mark, by simp only [Function.comp, hx, if_false]⟩

theorem users_evictionBegun :
    users (evictionBegun c s) { c with mark := s.nextCmd } = users s { c with mark := s.nextCmd } := by
  obtain ⟨g, hmap, hsame, hkeeps⟩ := evictionBegun_cmds (c := c) (s := s)
  unfold users
  rw [hmap]
  refine filter_map_of_fixed (fun x => ?_) fun x hx => hsame x (by simp at hx; exact hx.1.1)
  by_cases hx : x.id = c.id
  · obtain ⟨_, _, _, hg⟩ := hkeeps x
    rw [hg]
    simp [hx]
  · rw [hsame x hx]

theorem ctxUsers_evictionBegun (hjobs : s.jobs = []) (hnone : ctxUsers s h = []) :
    ctxUsers (evictionBegun c s) h = [] := by
  obtain ⟨g, hmap, -, hkeeps⟩ := evictionBegun_cmds (c := c) (s := s)
  have hjobs' : (evictionBegun c s).jobs = [] := hjobs
  unfold ctxUsers at *
  rw [hmap, List.filter_map, List.map_eq_nil_iff, ← hnone]
  refine List.filter_congr fun x _ => ?_
  obtain ⟨_, _, _, hg⟩ := hkeeps x
  simp only [Function.comp, hg, abortable, hjobs, hjobs', List.any_nil]
  rfl

section
variable (hst : s.models[c.handle].st ≠ .evicting)
  (husers : users s { c with mark := s.nextCmd } = []) (hctx : ctxUsers s c.handle = [])
  (hpass : passOf s (.handle c.handle) = none) (hrep : s.models[c.handle].repairing = none) (hjobs : s.jobs = [])
include hst husers hctx hpass hrep hjobs

/-- Nothing holds the eviction up: the handle is freed, and the command completes. -/
theorem evictRow_frees : ∃ p, evictRow c s = finish c.id 0x00 0 false p (freeModel c.handle (evictionBegun c s)) := by
  have hfirst : ((endWait c.id s).models[c.handle].st != .evicting) = true := bne_iff_ne.2 hst
  have hfree : ¬ (users (evictionBegun c s) { c with mark := s.nextCmd } ≠ [] ∨
      (passOf (evictionBegun c s) (.handle c.handle)).isSome = true ∨
      (evictionBegun c s).models[c.handle].repairing.isSome = true) := by
    rw [users_evictionBegun, husers]
    have hmodel : (evictionBegun c s).models[c.handle].repairing = none := by
      rw [evictionBegun, setCmd_models, models_setModel]
      exact hrep
    rw [hmodel, show passOf (evictionBegun c s) (.handle c.handle) = none from hpass]
    simp
  unfold evictRow
  extract_lets h w first w1 c1 ts w2 w3 w4 units n count
  have hw1 : w1 = evictionBegun c s := if_pos hfirst
  have hc1 : c1 = { c with mark := s.nextCmd } := by
    dsimp only [c1]
    rw [if_pos hfirst, hw1]
    rfl
  have hts : ts = [] := by
    dsimp only [ts]
    rw [hw1, hc1, users_evictionBegun, husers, List.filter_nil, ite_self]
  have hw3 : w3 = evictionBegun c s := by
    dsimp only [w3, w2]
    rw [hts, hc1, hw1]
    exact setCmd_self
  have hw4 : w4 = evictionBegun c s := by
    dsimp only [w4]
    rw [hw3, ctxUsers_evictionBegun hjobs hctx]
    rfl
  rw [if_neg (by simp [show w.jobs = [] from hjobs]), hw3, hc1, hw4, if_neg hfree]
  exact ⟨_, rfl⟩

theorem modelEvict_done (hr : Spec.isReady s id c 0x12) : ∃ t p, exec (.modelEvict id) s = .next t ∧ Spec.done s t c 0 0 p ∧
    t.models[c.handle] = Model.empty ∧ (∀ h, h ≠ c.handle → t.models[h] = s.models[h]) ∧
    (∀ x ∈ t.ctxs, x.model ≠ some (.handle c.handle)) ∧
    (∀ o ∈ t.objs, o.kind ≠ .model c.handle none ∧ o.kind ≠ .strips c.handle none) ∧
    t.evc.latch.getLsbD 36 = true := by
  have hexec : exec (.modelEvict id) s = .next (evictRow c s) := live_atAdmission hr
  obtain ⟨p, hevict⟩ := evictRow_frees hst husers hctx hpass hrep hjobs
  obtain ⟨hcmds, hpages, hbsc, hmodels⟩ := freeModel_kept (h := c.handle) (s := evictionBegun c s)
  obtain ⟨-, hc, -, -, hsilent, hmute, hnone⟩ := hr
  obtain ⟨g, hmap, hsame, hkeeps⟩ := evictionBegun_cmds (c := c) (s := s)
  obtain rfl := cmdOf_id hc
  obtain ⟨kq, kw, km, hg⟩ := hkeeps c
  have hid : ∀ x, (g x).id = x.id := fun x => by
    obtain ⟨_, _, _, hx⟩ := hkeeps x
    rw [hx]
  have hc' : cmdOf (freeModel c.handle (evictionBegun c s)) c.id = some (g c) := by
    rw [cmdOf, hcmds, hmap, find?_map_of_same fun x => by rw [hid]]
    exact congrArg (Option.map g) hc
  have hearly : (freeModel c.handle (evictionBegun c s)).bsc.early = false := by rw [hbsc]; exact hnone
  have hend := finish_eq (status := 0x00) (detail := 0) (refused := false) (payload := p) hc' (by rw [hg]; exact hsilent)
    hearly (by decide)
  have hsheds : Sheds (freeModel c.handle (evictionBegun c s))
      (finish c.id 0x00 0 false p (freeModel c.handle (evictionBegun c s))) := by
    rw [hend, queueRec_frame]
    exact Sheds.refl.leave.trans (.of_tables rfl rfl)
  have hevc : (finish c.id 0x00 0 false p (freeModel c.handle (evictionBegun c s))).evc =
      (freeModel c.handle (evictionBegun c s)).evc := by rw [hend, queueRec_frame, leave_frame]
  refine ⟨_, p, hexec.trans (congrArg _ hevict), ?_, ?_, fun h hh => ?_, fun x hx => ?_, fun o ho => ?_, ?_⟩
  · refine done_of_updated (finish_spec hc' (by rw [hg]; exact hsilent) ?_ hearly) (hid c) (by rw [hg]) (by rw [hg]) ?_ hpages
    · rw [muted, hbsc]; exact hmute
    · rw [hcmds, hmap]
      exact filter_map_of_fixed (fun x => by rw [hid]) fun x hx => hsame x (by simpa using hx)
  · rw [finish_models, hmodels]
    exact Vector.getElem_set_self _
  · rw [finish_models, hmodels]
    refine (Vector.getElem_set_ne c.handle.isLt h.isLt fun e => hh (Fin.ext e.symm)).trans ?_
    rw [evictionBegun, setCmd_models]
    exact models_setModel_ne hh
  · obtain ⟨y, hy, hxy⟩ := hsheds.ctxs x hx
    rw [← hxy]
    exact freeModel_ctxs y hy
  · obtain hold | ⟨j, pg, hkv⟩ := hsheds.objs o ho
    · exact freeModel_objs o hold
    · rw [hkv]
      exact ⟨nofun, nofun⟩
  · rw [hevc]
    exact freeModel_latch

end

/-! ABORT (R194). -/

theorem exec_abort (h : Spec.isReady s id c 0x40) : exec (.abort id) s = .next (abortRow c s) := live_atAdmission h

theorem abortRow_none (hnone : abortTargets s c = []) : abortRow c s = finish c.id 0x03 0 false noPayload s := by
  unfold abortRow
  rw [hnone]
  rfl

/-- Of a command without a load, a set or a RESERVE in progress, an ABORT leaves nothing but its record. -/
theorem abortCmd_eq {reason : ℕ} (hd : cmdOf s d.id = some d) (hload : d.op ≠ 0x10) (hswap : d.op ≠ 0x11)
    (hsets : s.sets = []) (hpasses : s.passes = []) (hres : s.ens.reserving = []) :
    abortCmd d.id reason s = failCmd d.id 0x02 reason (releasePeers d.id s) := by
  have hsent : Sends s (releasePeers d.id s) := Sends.refl.releasePeers
  have hdrop : dropReserving d.id s = s := by
    unfold dropReserving
    rw [hres]
    rfl
  have hset : Machine.setOf (releasePeers d.id s) d.id = none := by rw [Machine.setOf, hsent.frame, hsets]; rfl
  have hnopass : (failCmd d.id 0x02 reason (releasePeers d.id s)).passes = [] := by
    rw [Completes.failCmd .refl, hsent.frame, hpasses]
  unfold abortCmd
  rw [hd]
  dsimp only
  rw [hdrop, if_neg (not_or_intro hload hswap), hset]
  dsimp only
  unfold dropEmptyPasses
  rw [hnopass]
  rfl

/-- What an ABORT selects is an earlier command of its partition, with a record to come. -/
theorem abortTargets_mem (h : d ∈ abortTargets s c) : d.part = c.part ∧ d.id < c.id ∧ d.silent = false := by
  have hall := (List.mem_filter.1 h).2
  simp only [abortable, Bool.and_eq_true, beq_iff_eq, decide_eq_true_eq, Bool.not_eq_true'] at hall
  obtain ⟨⟨⟨⟨hpart, hearlier⟩, -⟩, -⟩, ⟨hsilent, -⟩, -⟩ := hall
  exact ⟨hpart, hearlier, hsilent⟩

/-- A command that ends leaves the others in the table. -/
theorem cmdOf_left {i : ℕ} (hleft : t.cmds = s.cmds.filter (·.id != d.id)) (hne : i ≠ d.id) : cmdOf t i = cmdOf s i := by
  rw [cmdOf, hleft, List.find?_filter, cmdOf]
  refine congrArg (fun q => s.cmds.find? q) (funext fun x => ?_)
  by_cases hx : x.id = i
  · simp [hx, hne]
  · simp [hx]

theorem failCmd_bsc (hc : cmdOf s c.id = some c) (hsilent : c.silent = false) (hnone : s.bsc.early = false)
    (hstatus : status < 0x40) : (failCmd c.id status detail s).bsc = s.bsc := by
  unfold failCmd
  rw [hc]
  dsimp only
  rw [finish_eq hc hsilent hnone hstatus, queueRec_frame, leave_frame]

section
variable (htargets : abortTargets s c = [d]) (hd : cmdOf s d.id = some d)
  (hload : d.op ≠ 0x10) (hswap : d.op ≠ 0x11) (hsets : s.sets = []) (hpasses : s.passes = [])
  (hres : s.ens.reserving = [])
include htargets hd hload hswap hsets hpasses hres

theorem abortRow_one : abortRow c s =
    finish c.id 0x00 0 false (payloadOf [(0, 2, 1)]) (failCmd d.id 0x02 1 (releasePeers d.id s)) := by
  unfold abortRow
  rw [htargets]
  exact congrArg (finish c.id 0x00 0 false (payloadOf [(0, 2, 1)]))
    (abortCmd_eq hd hload hswap hsets hpasses hres)

/-- The aborted command's record comes first, then that of the ABORT. -/
theorem abort_one_done (hr : Spec.isReady s id c 0x40) : ∃ t, exec (.abort id) s = .next t ∧
    t.cmds = s.cmds.filter (fun x => x.id != d.id && x.id != id) ∧
    ∃ r q, (pageOf t c.part).cqWait = (pageOf s c.part).cqWait ++ [r, q] ∧ r.status = 0x02 ∧ r.detail = 1 ∧
      r.tag = d.tag ∧ q.status = 0x00 ∧ q.tag = c.tag ∧ q.payload = 1 :: List.replicate 15 0 := by
  have hexec := exec_abort hr
  rw [abortRow_one htargets hd hload hswap hsets hpasses hres] at hexec
  obtain ⟨-, hc, -, -, hsilent, hmute, hnone⟩ := hr
  obtain rfl := cmdOf_id hc
  obtain ⟨hpart, hearlier, hdsilent⟩ := abortTargets_mem (s := s) (c := c) (d := d) (by simp [htargets])
  have hsent : Sends s (releasePeers d.id s) := Sends.refl.releasePeers
  generalize releasePeers d.id s = u at hsent hexec
  obtain ⟨-, -, hcmds, -⟩ := hsent.tables
  have hmute' : muted u = false := by rw [hsent.frame]; exact hmute
  have hnone' : u.bsc.early = false := by rw [hsent.frame]; exact hnone
  have hd' : cmdOf u d.id = some d := by rw [cmdOf, hcmds]; exact hd
  obtain ⟨-, hleft, r, hqueue, hstatus, -, htag, -, hdetail, -⟩ :=
    failCmd_done (status := 0x02) (detail := 1) hd' hdsilent hmute' hnone'
  have hbsc : (failCmd d.id 0x02 1 u).bsc = u.bsc := failCmd_bsc hd' hdsilent hnone' (by decide)
  have hc' : cmdOf (failCmd d.id 0x02 1 u) c.id = some c := by
    rw [cmdOf_left hleft (Nat.ne_of_gt hearlier), cmdOf, hcmds]
    exact hc
  obtain ⟨hleft', q, hqueue', hstatus', -, htag', -, -, hpayload, -⟩ :=
    finish_spec (status := 0x00) (detail := 0) (refused := false) (payload := payloadOf [(0, 2, 1)]) hc' hsilent
      (by rw [muted, hbsc]; exact hmute') (by rw [hbsc]; exact hnone')
  refine ⟨_, hexec, ?_, r, q, ?_, hstatus, hdetail, htag, hstatus', htag', hpayload⟩
  · rw [hleft', hleft, hcmds, List.filter_filter]
    exact List.filter_congr fun x _ => Bool.and_comm _ _
  · rw [hqueue', ← hpart, hqueue, hpart, hsent.pageOf, List.append_assoc]
    rfl

end

/-! PROGRESS_QUERY of the stage (R83, R197). -/

/-- `t` came from `s` by a look at the stage: how far it has come may be seen further on. -/
def Looks (s t : State) : Prop :=
  t = { s with
    freeCtr := t.freeCtr, dmc := t.dmc
    bsc := { s.bsc with percent := t.bsc.percent, layer := t.bsc.layer, offset := t.bsc.offset } }

theorem Looks.refl : Looks s s := rfl

theorem Looks.trans (h : Looks s t) (k : Looks t u) : Looks s u := by
  unfold Looks at *
  rw [k, h]

theorem trainSeen_looks : Looks s (trainSeen s) := by
  unfold trainSeen
  split
  · exact .refl
  · next c cs _ =>
    extract_lets t seen t'
    have hseen : ∀ (l : List Chan) u, Looks s u → Looks s (l.foldl (fun s c => seen c s) u) := fun l => by
      induction l with
      | nil => exact fun _ hu => hu
      | cons x l ih => exact fun u hu => ih _ (hu.trans rfl)
    exact (hseen (c :: cs) t rfl).trans rfl

theorem bscReadEff_looks : Looks s (bscReadEff s) := by
  unfold bscReadEff bscSeen
  extract_lets f
  split
  · split
    · exact .refl
    · exact rfl
  · exact rfl
  · exact trainSeen_looks
  · exact .refl

/-- An answer laid out as that of PROGRESS_QUERY for the stage. -/
theorem payloadOf_stage {a b d e f : ℕ} : payloadOf [(0, 4, a), (4, 1, b), (5, 2, d), (8, 4, e), (12, 4, f)] =
    toLe 4 a ++ [BitVec.ofNat 8 b] ++ toLe 2 d ++ [0] ++ toLe 4 e ++ toLe 4 f := by
  simp [payloadOf, patch, toLe, List.replicate]

/-- The answer shows the stage of boot and the joined channels. -/
theorem progress_stage (hwhat : c.byte 16 = 1) :
    le (progress s c) 0 4 = (bscStage s).toNat ∧ le (progress s c) 12 4 = s.bsc.joined.toNat := by
  have hp : progress s c = payloadOf [(0, 4, (bscStage s).toNat), (4, 1, s.bsc.unit), (5, 2, s.bsc.layer),
      (8, 4, s.bsc.offset), (12, 4, s.bsc.joined.toNat)] := by
    unfold progress
    rw [hwhat]
    rfl
  rw [hp, payloadOf_stage]
  exact ⟨(leNat_toLe (n := 4)).trans (Nat.mod_eq_of_lt (BitVec.isLt _)),
    (leNat_toLe (n := 4)).trans (Nat.mod_eq_of_lt (Nat.lt_of_lt_of_le (BitVec.isLt _) (by decide)))⟩

theorem exec_progressQuery (h : Spec.isReady s id c 0x50) (hwhat : c.byte 16 = 1) :
    exec (.progressQuery id) s = .next (finish c.id 0x00 0 false (progress (bscReadEff s) c) (bscReadEff s)) := by
  refine (live_atAdmission h).trans ?_
  rw [if_pos hwhat]

/-! The deferral queue (R210, R211). -/

theorem dropOrphans_of_none (hjobs : s.jobs = []) : dropOrphans s = s := by
  unfold dropOrphans
  rw [hjobs]
  rfl

theorem exec_deferredStart (hp : s.porst = false) :
    exec (.deferredStart id) s = .next (dropOrphans (deferredStart id s)) :=
  live_of (f := fun s => dropOrphans (deferredStart id s)) hp

theorem deferredStart_none (hfirst : firstBy (serviceKey s) (s.cmds.filter (couldStart s)) = none) :
    deferredStart id s = s := by
  unfold deferredStart
  rw [hfirst]

/-- A command that makes no session and takes no slot starts: it is admitted. -/
theorem start_eq (hjobs : s.jobs = []) (hc : cmdOf s id = some c) (hctx : makesCtx c = false) (hwrite : c.op ≠ 0x48)
    (herase : c.op ≠ 0x49) : start id s = setCmd id (fun x => { x with phase := .ready }) s := by
  have henter : enterCtx c s = s := if_pos (by rw [hctx]; rfl)
  have hclaim : claimSlot c s = s := by
    unfold claimSlot
    rw [if_neg hwrite, if_neg herase]
  unfold start
  rw [hc]
  dsimp only
  rw [henter, hclaim, show (setCmd id (fun x => { x with phase := .ready }) s).jobs = [] from hjobs]
  rfl

theorem deferredStart_kernel (hjobs : s.jobs = [])
    (hfirst : firstBy (serviceKey s) (s.cmds.filter (couldStart s)) = some c) (hid : c.id = id)
    (hc : cmdOf s id = some c) (hphase : c.phase = .deferred true) (hop : c.op = 0x38) :
    deferredStart id s = setCmd id (fun x => { x with phase := .ready }) s := by
  unfold deferredStart
  rw [hfirst]
  dsimp only
  rw [if_neg (not_not_intro hid), if_neg (by simp [hphase]), if_neg (by simp [hop])]
  exact start_eq hjobs hc (by simp [makesCtx, isWork, hop]) (by simp [hop]) (by simp [hop])

theorem exec_patienceExpiry (hp : s.porst = false) : exec (.patienceExpiry id) s = .next (patienceExpiry id s) :=
  live_of hp

theorem patienceExpiry_early (hc : cmdOf s id = some c) (hclk : s.clk < c.deadline) : patienceExpiry id s = s := by
  unfold patienceExpiry
  rw [hc]
  exact if_pos (by simp [hclk])

theorem patienceExpiry_refuses (hc : cmdOf s id = some c) (hdef : c.isDeferred = true) (hclk : c.deadline ≤ s.clk)
    (hbarrier : barrierOf s c = none) (hcould : couldStart s c = false) :
    patienceExpiry id s = refuse id 0x21 (shortNow s c) s := by
  unfold patienceExpiry
  rw [hc]
  dsimp only
  rw [if_neg (by simp [hdef, hcould, hclk]), hbarrier]

end

/-- Settles O47: each command by the one equation of its row and the record that `finish` writes; the payload of a refused
GENERATE is the model's reading (log entry 57). -/
theorem deviceCommands : Obligations.DeviceCommands := by
  intro s id c
  refine ⟨fun h => ⟨_, exec_nop h, ready_finish_done h rfl rfl rfl rfl⟩, fun h => ⟨fun hall => ?_, fun d hd hpart hlt => ?_⟩,
    fun h => ⟨_, exec_modelPin h, ?_, fun k hk => ?_, ?_⟩,
    fun h => ⟨_, _, exec_modelQuery h, ready_finish_done h rfl rfl rfl rfl, ?_⟩,
    fun h hst husers hctx hpass hrep hjobs => modelEvict_done hst husers hctx hpass hrep hjobs h,
    fun h hnone => ?_, fun d h htargets hd hload hswap hsets hpasses hres =>
      abort_one_done htargets hd hload hswap hsets hpasses hres h,
    fun h hwhat => ?_,
    fun hp hjobs hfirst hid hc hphase hop => ?_, fun hp hjobs hfirst => ?_,
    fun hp hc hsilent hmute hearly hdef => ⟨fun hclk => ?_, fun hclk hbarrier hcould => ?_⟩⟩
  · exact ⟨_, (exec_fence h.1).trans (congrArg _ (fenceRow_passes h hall)), ready_finish_done h rfl rfl rfl rfl⟩
  · rw [exec_fence h.1, fenceRow_waits h hd hpart hlt]
  · rw [finish_models]
    exact models_setModel
  · rw [finish_models]
    exact models_setModel_ne hk
  · have hbyte : payloadOf [(0, 1, b2n s.models[c.handle].pinned)] =
        (if s.models[c.handle].pinned then 1 else 0) :: List.replicate 15 0 := by
      cases s.models[c.handle].pinned <;> rfl
    rw [← hbyte]
    exact ready_finish_done h rfl rfl rfl rfl
  · obtain ⟨hlen, hst, howner, hid⟩ := queryPayload_fields (s := s) (h := c.handle)
    exact ⟨hlen, hst, howner, hid, finish_models⟩
  · rw [exec_abort h, abortRow_none hnone]
    exact ⟨_, rfl, ready_finish_done h rfl rfl rfl rfl⟩
  · have hlooks : bscReadEff s = _ := bscReadEff_looks
    obtain ⟨hstage, hjoined⟩ := progress_stage (s := bscReadEff s) hwhat
    exact ⟨_, _, exec_progressQuery h hwhat,
      ready_finish_done h (by rw [hlooks]) (by rw [hlooks]) (by rw [hlooks]) (by rw [hlooks]), hstage,
      hjoined.trans (by rw [hlooks])⟩
  · rw [exec_deferredStart hp, deferredStart_kernel hjobs hfirst hid hc hphase hop,
      dropOrphans_of_none (s := setCmd id (fun x => { x with phase := .ready }) s) hjobs]
  · rw [exec_deferredStart hp, deferredStart_none hfirst, dropOrphans_of_none hjobs]
  · rw [exec_patienceExpiry hp, patienceExpiry_early hc hclk]
  · obtain rfl := cmdOf_id hc
    rw [exec_patienceExpiry hp, patienceExpiry_refuses hc hdef hclk hbarrier hcould]
    exact ⟨_, rfl, refuse_done hc hsilent hmute hearly⟩

end Sys2Proof.Proofs

namespace Sys2Proof.Proofs

/-! ### Sessions, masks and KERNEL: a table in which two commands bear one number (R191, R192)

O48. The model marks every command of the number as running where it admits a KERNEL. It gives each command a number of its own
(`nextCmd`), but the statement speaks of every state, and so of a table in which a work command bears the number of the KERNEL.
That one's row then wants voices, the free ones no longer serve the KERNEL, and the model stops a set for it (R337), where the
statement has nothing else change. Where no other command bears the number, `exec_kernel_runs` has the clause. -/

open Sys2Proof.Machine

section
variable {s : State} {c : Cmd} {id : ℕ}

theorem any_map_of_same {α : Type} {p : α → Bool} {g : α → α} {l : List α} (h : ∀ a ∈ l, p (g a) = p a) :
    (l.map g).any p = l.any p := by
  induction l with
  | nil => rfl
  | cons a l ih =>
    rw [List.map_cons, List.any_cons, List.any_cons, h a List.mem_cons_self, ih fun x hx => h x (List.mem_cons_of_mem a hx)]

/-- The run of a KERNEL makes no row want work. -/
theorem rowsWanted_setCmd_running (hone : ∀ d ∈ s.cmds, d.id = id → d = c) (hop : c.op = 0x38) :
    rowsWanted (setCmd id (fun x => { x with phase := .running }) s) = rowsWanted s := by
  refine any_map_of_same fun d hd => ?_
  split
  · next hid =>
    obtain rfl := hone d hd hid
    have hnot : isWork d.op = false := by rw [hop]; rfl
    change (isWork d.op && _) = (isWork d.op && _)
    rw [hnot, Bool.false_and, Bool.false_and]
  · rfl

/-- Which voices are chosen depends on the table of commands only by whether rows want work. -/
theorem choose_setCmd {f : Cmd → Cmd} {voices : ℕ} {mirror : Bool} (hrows : rowsWanted (setCmd id f s) = rowsWanted s) :
    choose (setCmd id f s) voices mirror = choose s voices mirror := by
  unfold choose
  rw [hrows]
  rfl

theorem callVictims_served (h : (choose s c.kVoices c.kMirror).isSome = true) : callVictims c s = s := if_pos (by simp [h])

theorem readCode_read (h : c.input.length = c.kLen ∨ c.inWant ≠ 0) : readCode c s = s := if_pos h

/-- A KERNEL that free voices serve, and whose code is there or wanted, starts. -/
theorem exec_kernel_runs (hready : Spec.isReady s id c 0x38) (hone : ∀ d ∈ s.cmds, d.id = id → d = c)
    (hpaused : paused s = false) (hset : Machine.setOf s id = none) (hfree : (choose s c.kVoices c.kMirror).isSome = true)
    (hcode : c.input.length = c.kLen ∨ c.inWant ≠ 0) :
    exec (.kernel id) s = .next (setCmd id (fun x => { x with phase := .running }) s) := by
  obtain ⟨hporst, hc, hop, hphase, -⟩ := hready
  refine (live_of (f := kernelRow id) hporst).trans (congrArg _ ?_)
  unfold kernelRow
  rw [if_neg (by simp [hc, hop]), admitCmd_of_admitted hc (by simp [hphase])]
  dsimp only
  rw [hc]
  dsimp only
  rw [if_neg (by simp [hpaused, hset]), if_neg (by simp [hphase]), callVictims_served, readCode_read hcode]
  rw [choose_setCmd (rowsWanted_setCmd_running hone hop)]
  exact hfree

end

/-- A score of which only the class of P0 matters here: P1 has none. -/
def gradedScore : Score :=
  { version := 1, build := 0, fw := 0, debugUnlock := false, commit := false, revoke := 0, keySlot := 0
    breath := ⟨320, 200, 40, 60, 40, 10, 8, 0⟩
    parts := (Vector.replicate 8 none).set 0 (some ⟨0, 64, 16, 16, 0, 4, 0, 0, 10, 1, 0, 64⟩)
    dram := ⟨4, 0, 0, 0, 100, 4, 24⟩
    dies := 1, slots := [], ens := none, queueMode := false, routes := [], preload := [], early := none
    spread := 0, noCollapse := 0 }

/-- Command 0 of P0: an admitted KERNEL of one voice and no code. -/
def oneVoiceKernel : Cmd :=
  { newCmd State.reset 0 ([0x38] ++ List.replicate 15 0 ++ [1] ++ List.replicate 47 0) with phase := .ready }

/-- A PREFILL of P0 that waits, with the number 0 too. -/
def waitingPrefill : Cmd := newCmd State.reset 0 (0x20 :: List.replicate 63 0)

/-- A set of P1 with twelve voices. -/
def twelveVoices : KSet :=
  { cmd := 1, part := 1, mirror := false, voices := (List.range 12).map (Fin.ofNat 16), startedAt := 0, resumedAt := 0
    given := [], stopping := false, saved := [] }

/-- At FULL, 1 ms after the set was given its voices: two commands that bear the number 0. -/
def kernelAndPrefill : State :=
  { State.reset with
    clk := 1000000, score := some gradedScore, bsc := { Bsc.reset with stage := .full }
    cmds := [oneVoiceKernel, waitingPrefill], sets := [twelveVoices] }

theorem kernelAndPrefill_serves :
    (choose kernelAndPrefill oneVoiceKernel.kVoices oneVoiceKernel.kMirror).isSome = true := by
  decide +kernel

/-- In the model the set is ordered to stop. -/
theorem kernelAndPrefill_stops : (kernelRow 0 kernelAndPrefill).sets.map (·.stopping) = [true] := by
  decide +kernel

/-- Refutes O48: in `kernelAndPrefill` voices 12 to 15 are free, and by the clause of KERNEL command 0 starts and no set is
touched; in the model the set of P1 is ordered to stop. -/
theorem not_contextsMasksAndKernels : ¬ Obligations.ContextsMasksAndKernels := by
  intro h
  obtain ⟨-, -, -, -, -, hkernel, -⟩ := h kernelAndPrefill 0 oneVoiceKernel
  obtain ⟨hruns, -⟩ := hkernel ⟨rfl, rfl, rfl, rfl, rfl, rfl, rfl⟩ rfl rfl kernelAndPrefill_serves
  have hexec : exec (.kernel 0) kernelAndPrefill = .next (kernelRow 0 kernelAndPrefill) := live_of rfl
  have hstops := kernelAndPrefill_stops
  rw [Host.Outcome.next.inj (hexec.symm.trans (hruns (.inl rfl)))] at hstops
  exact absurd hstops (by decide)

end Sys2Proof.Proofs

namespace Sys2Proof.Proofs

/-! ### KERNEL sets: the voices they are given, save and restore, the timeout (R192, R193, R337 to R339, R345) -/

open Sys2Proof.Machine

section
variable {s t u : State} {c : Cmd} {k : KSet} {n v : Voice} {q : Pair} {vs : List Voice} {f : VoiceSt → VoiceSt}
  {id i m voices : ℕ} {mirror held : Bool}

/-! What work on voices leaves alone. -/

/-- `t` came from `s` by work on voices and their grants. -/
def VoiceWork (s t : State) : Prop := t = { s with voices := t.voices, brg := t.brg }

theorem VoiceWork.refl : VoiceWork s s := rfl

theorem VoiceWork.trans (h : VoiceWork s t) (g : VoiceWork t u) : VoiceWork s u := by
  unfold VoiceWork at *
  rw [g, h]

theorem VoiceWork.foldl {α : Type} {g : State → α → State} {l : List α} (h : VoiceWork s t)
    (hg : ∀ u x, VoiceWork u (g u x)) : VoiceWork s (l.foldl g t) := by
  induction l generalizing t with
  | nil => exact h
  | cons x l ih => exact ih (h.trans (hg t x))

theorem voiceWork_setVoice : VoiceWork s (setVoice n f s) := rfl

theorem voiceWork_freeVoice : VoiceWork s (freeVoice held n s) := rfl

theorem toIdle_voices : (toIdle n s).voices = s.voices := rfl

theorem voiceOf_freeVoice : (voiceOf (freeVoice held v s) v).run = (if held && (voiceOf s v).hold then .held else .free) ∧
    (voiceOf (freeVoice held v s) v).preempt = (voiceOf s v).preempt := by
  unfold freeVoice
  rw [voiceOf, toIdle_voices, ← voiceOf, voiceOf_setVoice]
  exact ⟨rfl, rfl⟩

theorem voiceOf_freeVoice_ne (h : v ≠ n) : voiceOf (freeVoice held v s) n = voiceOf s n := by
  unfold freeVoice
  rw [voiceOf, toIdle_voices, ← voiceOf]
  exact voiceOf_setVoice_ne h

/-- A standing total that does not change raises no demand. -/
theorem standingChange_of_same {g : State → State} (h : g s = s) : standingChange g s = s :=
  (standingChange_of_total fun l => by rw [h]).trans h

/-! Pairs at a pass boundary (R448, R452). -/

/-- `t` came from `s` by the forming and dissolving of pairs. -/
def Joins (s t : State) : Prop := t = { s with mir := t.mir, isl := t.isl }

theorem Joins.refl : Joins s s := rfl

theorem Joins.trans (h : Joins s t) (g : Joins t u) : Joins s u := by
  unfold Joins at *
  rw [g, h]

theorem pairAt_setPair {g : PairState → PairState} : pairAt (setPair q g s) q = g (pairAt s q) := Vector.getElem_set_self _

theorem pairAt_setPair_ne {j : Pair} {g : PairState → PairState} (h : q ≠ j) : pairAt (setPair q g s) j = pairAt s j :=
  Vector.getElem_set_ne q.isLt j.isLt fun e => h (Fin.ext e)

/-- Every pair in service stays so. -/
def KeepsPairs (s t : State) : Prop := ∀ j, pairOut (pairAt s j) = false → pairOut (pairAt t j) = false

theorem keepsPairs_setPair {g : PairState → PairState} (h : (g (pairAt s q)).st = .formed ∨ (g (pairAt s q)).st = .unformed) :
    KeepsPairs s (setPair q g s) := fun j hj => by
  by_cases hq : q = j
  · subst hq
    rw [pairAt_setPair, pairOut]
    obtain h | h := h <;> rw [h] <;> rfl
  · rw [pairAt_setPair_ne hq]
    exact hj

theorem dissolvePair_joins : Joins s (dissolvePair q s) ∧ KeepsPairs s (dissolvePair q s) := by
  unfold dissolvePair
  split
  · exact ⟨rfl, keepsPairs_setPair (s := s) (g := fun p => { p with st := .unformed }) (.inr rfl)⟩
  · exact ⟨.refl, fun _ => id⟩

/-- A probe cycle that reports its pattern passes. -/
theorem probeCycle_joins (hvib : s.vib.runFrom = none) : Joins s (probeCycle q 1 { code := 2, diff := 1 } s) ∧
    ∀ j, (pairAt (probeCycle q 1 { code := 2, diff := 1 } s) j).st = (pairAt s j).st := by
  unfold probeCycle opportunity
  extract_lets lo w
  rw [show w.vib.runFrom = none from hvib, if_neg Bool.false_ne_true, if_neg (by decide), if_pos rfl, if_pos rfl]
  refine ⟨rfl, fun j => ?_⟩
  change (pairAt w j).st = _
  by_cases hq : q = j
  · subst hq
    rw [pairAt_setPair]
  · rw [pairAt_setPair_ne hq]

/-- The formation probe, of which nothing else is told, passes. -/
theorem formPair_joins (hvib : s.vib.runFrom = none) : Joins s (formPair q [] s) ∧ KeepsPairs s (formPair q [] s) := by
  unfold formPair
  split
  · exact ⟨.refl, fun _ => id⟩
  · dsimp only [List.find?_nil]
    obtain ⟨hjoins, hst⟩ := probeCycle_joins (q := q)
      (s := setPair q (fun p => { p with st := .formed })
        { s with isl := { s.isl with pair := s.isl.pair ||| BitVec.ofNat 8 (2 ^ q.val) } }) hvib
    have hset : Joins s (setPair q (fun p => { p with st := .formed })
        { s with isl := { s.isl with pair := s.isl.pair ||| BitVec.ofNat 8 (2 ^ q.val) } }) := rfl
    refine ⟨hset.trans hjoins, fun j hj => ?_⟩
    have hformed := keepsPairs_setPair (s := s) (q := q) (g := fun p => { p with st := .formed }) (.inl rfl) j hj
    rw [pairOut, hst]
    exact hformed

theorem joinPairs_joins (hvib : s.vib.runFrom = none ∨ mirror = false) :
    Joins s (joinPairs mirror [] vs s) ∧ KeepsPairs s (joinPairs mirror [] vs s) := by
  unfold joinPairs
  induction vs generalizing s with
  | nil => exact ⟨.refl, fun _ => id⟩
  | cons v vs ih =>
    have hone : Joins s (if mirror then formPair (pairOf v) [] s else dissolvePair (pairOf v) s) ∧
        KeepsPairs s (if mirror then formPair (pairOf v) [] s else dissolvePair (pairOf v) s) := by
      obtain hvib | hmirror := hvib
      · split
        · exact formPair_joins hvib
        · exact dissolvePair_joins
      · rw [hmirror]
        exact dissolvePair_joins
    obtain ⟨hrest, hkeeps⟩ := ih (s := if mirror then formPair (pairOf v) [] s else dissolvePair (pairOf v) s)
      (hvib.imp_left fun h => by rw [hone.1]; exact h)
    exact ⟨hone.1.trans hrest, fun j hj => hkeeps j (hone.2 j hj)⟩

/-! The voices that are chosen (R192, R448). -/

theorem choose_some (h : choose s voices mirror = some vs) : vs = (if mirror then
      (allPairs.filter (pairFree s)).map fun k => (Fin.ofNat 16 (2 * k.val) : Voice)
      else allVoices.filter (soloFree s)).take voices ∧ vs.length = voices ∧
    (rowsWanted s = true → inSets s + (if mirror then 2 * voices else voices) + 4 ≤ inService s) := by
  unfold choose at h
  extract_lets phys l at h
  split at h
  · contradiction
  · next hkept =>
    split at h
    · contradiction
    · next hlen =>
      obtain rfl := Option.some.inj h
      refine ⟨rfl, ?_, fun hrows => ?_⟩
      · rw [List.length_take]
        omega
      · simp only [hrows, Bool.true_and, decide_eq_true_eq, not_lt] at hkept
        exact hkept

theorem choose_nodup (h : choose s voices mirror = some vs) : vs.Nodup := by
  rw [(choose_some h).1]
  refine List.Nodup.sublist (List.take_sublist _ _) ?_
  split
  · refine List.Nodup.map (fun a b hab => ?_) (List.Nodup.filter _ (by decide))
    have hval : 2 * a.val % 16 = 2 * b.val % 16 := congrArg Fin.val hab
    exact Fin.ext (by omega)
  · exact List.Nodup.filter _ (by decide)

/-- Of mirrored work the leading voices are chosen, so that no trailing voice is. -/
theorem choose_trailer (h : choose s voices true = some vs) {w : Voice} (hv : v ∈ vs) (hw : w ∈ vs) : trailer v ≠ w := by
  rw [(choose_some h).1, if_pos rfl] at hv hw
  obtain ⟨a, -, rfl⟩ := List.mem_map.1 (List.mem_of_mem_take hv)
  obtain ⟨b, -, rfl⟩ := List.mem_map.1 (List.mem_of_mem_take hw)
  intro heq
  have hval : (2 * a.val % 16 + 1) % 16 = 2 * b.val % 16 := congrArg Fin.val heq
  omega

theorem choose_pair (h : choose s voices mirror = some vs) (hv : v ∈ vs) : pairOut (pairAt s (pairOf v)) = false := by
  rw [(choose_some h).1] at hv
  have hmem := List.mem_of_mem_take hv
  split at hmem
  · obtain ⟨a, ha, rfl⟩ := List.mem_map.1 hmem
    have hpair : pairOf (Fin.ofNat 16 (2 * a.val)) = a := by
      ext
      change 2 * a.val % 16 / 2 % 8 = a.val
      omega
    rw [hpair]
    have hfree := (List.mem_filter.1 ha).2
    simp only [pairFree, Bool.and_eq_true, Bool.not_eq_true'] at hfree
    exact hfree.1.2
  · have hfree := (List.mem_filter.1 hmem).2
    simp only [soloFree, Bool.and_eq_true, Bool.not_eq_true'] at hfree
    exact hfree.2

/-! Voices changed one after another. -/

/-- Where step `i` changes the voice at place `i` and no other of the list, each voice is changed once. -/
theorem voiceOf_foldl_range {step : State → ℕ → State} {g : ℕ → VoiceSt → VoiceSt}
    (hown : ∀ w i (h : i < vs.length), voiceOf (step w i) vs[i] = g i (voiceOf w vs[i]))
    (hothers : ∀ w i j (_ : i < vs.length) (h : j < vs.length), i ≠ j → voiceOf (step w i) vs[j] = voiceOf w vs[j])
    (hm : m ≤ vs.length) (hi : i < vs.length) : voiceOf ((List.range m).foldl step s) vs[i] =
      if i < m then g i (voiceOf s vs[i]) else voiceOf s vs[i] := by
  induction m with
  | zero => rfl
  | succ m ih =>
    rw [List.range_succ, List.foldl_append, List.foldl_cons, List.foldl_nil]
    by_cases him : m = i
    · subst him
      rw [hown _ _ hi, ih (by omega), if_neg (by omega), if_pos (by omega)]
    · rw [hothers _ _ _ (by omega) hi him, ih (by omega)]
      exact if_congr (by omega) rfl rfl

/-- The voice at place `i` of a new set (R193). -/
def startAt (id n : ℕ) (code : List Word) (c : Cmd) (i : ℕ) (x : VoiceSt) : VoiceSt :=
  startVoice x (.set id i) code c.kEntry [(1, i), (2, n), (3, c.kArg % 2 ^ 32), (4, bits c.kArg 39 32)]

/-- The start of the voice at place `i`, with its trailing voice where the set is mirrored. -/
def startPlace (id : ℕ) (code : List Word) (c : Cmd) (vs : List Voice) (s : State) (i : ℕ) : State :=
  let v := vs.getD i 0
  let s := setVoice v (startAt id vs.length code c i) s
  if c.kMirror then setVoice (trailer v) (startAt id vs.length code c i) s else s

theorem voiceWork_startPlace {code : List Word} : VoiceWork s (startPlace id code c vs s i) := by
  unfold startPlace
  extract_lets v w
  split <;> rfl

theorem voiceOf_startPlace {code : List Word} (hchosen : choose s voices c.kMirror = some vs) :
    (∀ w i (h : i < vs.length), voiceOf (startPlace id code c vs w i) vs[i] = startAt id vs.length code c i (voiceOf w vs[i])) ∧
    ∀ w i j (_ : i < vs.length) (h : j < vs.length), i ≠ j →
      voiceOf (startPlace id code c vs w i) vs[j] = voiceOf w vs[j] := by
  have hget : ∀ i (h : i < vs.length), vs.getD i 0 = vs[i] := fun i h => List.getD_eq_getElem _ _ h
  unfold startPlace
  refine ⟨fun w i h => ?_, fun w i j hi hj hij => ?_⟩
  · rw [hget i h]
    dsimp only
    split
    · next hmirror =>
      rw [hmirror] at hchosen
      rw [voiceOf_setVoice_ne (choose_trailer hchosen (List.getElem_mem _) (List.getElem_mem _)), voiceOf_setVoice]
    · rw [voiceOf_setVoice]
  · have hne : vs[i] ≠ vs[j] := fun e => hij ((choose_nodup hchosen).getElem_inj_iff.1 e)
    rw [hget i hi]
    dsimp only
    split
    · next hmirror =>
      rw [hmirror] at hchosen
      rw [voiceOf_setVoice_ne (choose_trailer hchosen (List.getElem_mem _) (List.getElem_mem _)), voiceOf_setVoice_ne hne]
    · rw [voiceOf_setVoice_ne hne]

/-! KERNEL_SET_START (R192, R193). -/

/-- The set of a KERNEL that is given voices now. -/
def newSet (c : Cmd) (id : ℕ) (vs : List Voice) (s : State) : KSet :=
  { cmd := id, part := c.part, mirror := c.kMirror, voices := vs, startedAt := s.clk, resumedAt := s.clk, given := vs
    stopping := false, saved := [] }

theorem exec_kernelSetStart {probes : List FormProbe} (hp : s.porst = false) :
    exec (.kernelSetStart id probes) s = .next (standingChange (setStart id probes) s) :=
  live_of (f := standingChange (setStart id probes)) hp

theorem setStart_waits {probes : List FormProbe} (hc : cmdOf s id = some c)
    (h : choose s c.kVoices c.kMirror = none ∨ paused s = true ∨ firstForVoices s id = false) :
    setStart id probes s = s := by
  unfold setStart
  rw [hc]
  dsimp only
  split
  · rfl
  · next hgo =>
    obtain ⟨-, hrest⟩ := not_or.1 hgo
    obtain ⟨hpaused, hfirst⟩ := not_or.1 hrest
    obtain hnone | hp | hf := h
    · rw [hnone]
      split
      · contradiction
      · rfl
    · exact absurd hp hpaused
    · simp [hf] at hfirst

theorem setStart_given {code : List Word} (hc : cmdOf s id = some c) (hset : Machine.setOf s id = none)
    (hpaused : paused s = false) (hcode : kernelCode c = some code) (hchosen : choose s c.kVoices c.kMirror = some vs)
    (hfirst : firstForVoices s id = true) (hvib : s.vib.runFrom = none) :
    let u := (List.range vs.length).foldl (startPlace id code c vs) (joinPairs c.kMirror [] vs s)
    setStart id [] s = endWait id { u with sets := u.sets ++ [newSet c id vs u] } := by
  obtain ⟨-, hkeeps⟩ := joinPairs_joins (mirror := c.kMirror) (vs := vs) (.inl hvib)
  have hin : (vs.any fun v => pairOut (pairAt (joinPairs c.kMirror [] vs s) (pairOf v))) = false :=
    List.any_eq_false.2 fun v hv => by simp [hkeeps _ (choose_pair hchosen hv)]
  unfold setStart
  rw [hc]
  dsimp only
  rw [if_neg (by simp [hset, hpaused, hfirst]), hcode, hchosen]
  dsimp only
  rw [hin]
  rfl

/-- A set that is given its voices: each starts as R193 says, and memory stays. -/
theorem exec_kernelSetStart_given {code : List Word} (hp : s.porst = false) (hc : cmdOf s id = some c)
    (hset : Machine.setOf s id = none) (hpaused : paused s = false) (hcode : kernelCode c = some code)
    (hchosen : choose s c.kVoices c.kMirror = some vs) (hfirst : firstForVoices s id = true) (hvib : s.vib.runFrom = none) :
    ∃ t, exec (.kernelSetStart id []) s = .next t ∧ t.sets = s.sets ++ [newSet c id vs s] ∧ t.mem = s.mem ∧
      ∀ i (h : i < vs.length), voiceOf t vs[i] = startAt id vs.length code c i (voiceOf s vs[i]) := by
  obtain ⟨hjoins, -⟩ := joinPairs_joins (mirror := c.kMirror) (vs := vs) (.inl hvib)
  have hwork : VoiceWork (joinPairs c.kMirror [] vs s)
      ((List.range vs.length).foldl (startPlace id code c vs) (joinPairs c.kMirror [] vs s)) :=
    VoiceWork.refl.foldl fun _ _ => voiceWork_startPlace
  have hvoices : ∀ i (h : i < vs.length),
      voiceOf ((List.range vs.length).foldl (startPlace id code c vs) (joinPairs c.kMirror [] vs s)) vs[i] =
        startAt id vs.length code c i (voiceOf s vs[i]) := fun i h => by
    obtain ⟨hown, hothers⟩ := voiceOf_startPlace (id := id) (code := code) hchosen
    rw [voiceOf_foldl_range hown hothers le_rfl h, if_pos h]
    refine congrArg _ ?_
    rw [voiceOf, hjoins]
    rfl
  have hgiven := setStart_given hc hset hpaused hcode hchosen hfirst hvib
  have honly : OnlyLedgers (setStart id [] s) (standingChange (setStart id []) s) := onlyLedgers_standingChange
  revert hwork hvoices hgiven
  generalize (List.range vs.length).foldl (startPlace id code c vs) (joinPairs c.kMirror [] vs s) = u
  intro hwork hvoices hgiven
  rw [hgiven] at honly
  refine ⟨_, exec_kernelSetStart hp, ?_, ?_, fun i h => ?_⟩
  · rw [honly]
    change u.sets ++ [newSet c id vs u] = _
    rw [hwork, hjoins]
    rfl
  · rw [honly]
    change u.mem = s.mem
    rw [hwork, hjoins]
  · rw [voiceOf, honly]
    exact hvoices i h

theorem startAt_reg {code : List Word} {x : VoiceSt} {j : Fin 16} : (startAt id m code c i x).s[j] =
    w32 ((([(1, i), (2, m), (3, c.kArg % 2 ^ 32), (4, bits c.kArg 39 32)].find? fun r => r.1 = j.val).map (·.2)).getD 0) :=
  Vector.getElem_ofFn _

/-- The registers of a voice at the start of a set (R193). -/
theorem startAt_regs {code : List Word} {x : VoiceSt} : let y := startAt id m code c i x
    y.s[(1 : Fin 16)] = BitVec.ofNat 32 i ∧ y.s[(2 : Fin 16)] = BitVec.ofNat 32 m ∧
    y.s[(3 : Fin 16)] = BitVec.ofNat 32 c.kArg ∧ y.s[(4 : Fin 16)] = BitVec.ofNat 32 (c.kArg / 2 ^ 32 % 256) ∧
    ∀ j : Fin 16, j = 0 ∨ 5 ≤ j → y.s[j] = 0 := by
  refine ⟨startAt_reg, startAt_reg, startAt_reg.trans ?_, startAt_reg, fun j hj => startAt_reg.trans ?_⟩
  · exact BitVec.eq_of_toNat_eq (by simp [w32])
  · have hnone : ([(1, i), (2, m), (3, c.kArg % 2 ^ 32), (4, bits c.kArg 39 32)].find? fun r => r.1 = j.val) = none := by
      rw [List.find?_eq_none]
      simp
      omega
    rw [hnone]
    rfl

/-! PREEMPT_SAVE_COMPLETE (R338). -/

theorem setOf_cmd (h : Machine.setOf s id = some k) : k.cmd = id := by simpa using List.find?_some h

/-- The set of a KERNEL, where a change touches the sets of that number alone and keeps the number. -/
theorem setOf_map {g : KSet → KSet} (hset : Machine.setOf s id = some k) (hg : (g k).cmd = k.cmd)
    (ht : t.sets = s.sets.map fun j => if j.cmd = id then g j else j) : Machine.setOf t id = some (g k) := by
  have hfind : ∀ l : List KSet, l.find? (·.cmd == id) = some k →
      (l.map fun j => if j.cmd = id then g j else j).find? (·.cmd == id) = some (g k) := fun l => by
    induction l with
    | nil => exact nofun
    | cons j l ih =>
      intro h
      rw [List.map_cons]
      by_cases hj : j.cmd = id
      · obtain rfl : j = k := by simpa [List.find?_cons, hj] using h
        rw [if_pos hj, List.find?_cons_of_pos (by simp [hg, setOf_cmd hset])]
      · rw [List.find?_cons_of_neg (by simp [hj])] at h
        rw [if_neg hj, List.find?_cons_of_neg (by simp [hj]), ih h]
  rw [Machine.setOf, ht]
  exact hfind _ hset

/-- A voice of a set that is saved counts the preemption and is free. -/
def saveVoice (s : State) (v : Voice) : State :=
  freeVoice false v (setVoice v (fun x => { x with preempt := satAdd 0xFFFFFFFF x.preempt 1 }) s)

theorem voiceWork_saveVoice : VoiceWork s (saveVoice s v) := voiceWork_setVoice.trans voiceWork_freeVoice

theorem voiceOf_saveVoice : (voiceOf (saveVoice s v) v).run = .free ∧
    (voiceOf (saveVoice s v) v).preempt = min 0xFFFFFFFF ((voiceOf s v).preempt + 1) := by
  obtain ⟨hrun, hpreempt⟩ := voiceOf_freeVoice (held := false) (v := v)
    (s := setVoice v (fun x => { x with preempt := satAdd 0xFFFFFFFF x.preempt 1 }) s)
  exact ⟨hrun, hpreempt.trans (by rw [voiceOf_setVoice]; rfl)⟩

theorem voiceOf_saveVoice_ne (h : v ≠ n) : voiceOf (saveVoice s v) n = voiceOf s n :=
  (voiceOf_freeVoice_ne h).trans (voiceOf_setVoice_ne h)

theorem voiceOf_foldl_other {g : State → Voice → State} (hg : ∀ w v, v ≠ n → voiceOf (g w v) n = voiceOf w n)
    (h : n ∉ vs) : voiceOf (vs.foldl g s) n = voiceOf s n := by
  induction vs generalizing s with
  | nil => rfl
  | cons v vs ih =>
    rw [List.mem_cons, not_or] at h
    exact (ih h.2).trans (hg s v (Ne.symm h.1))

theorem voiceOf_foldl_saveVoice (hnodup : vs.Nodup) (hv : v ∈ vs) : (voiceOf (vs.foldl saveVoice s) v).run = .free ∧
    (voiceOf (vs.foldl saveVoice s) v).preempt = min 0xFFFFFFFF ((voiceOf s v).preempt + 1) := by
  induction vs generalizing s with
  | nil => contradiction
  | cons w vs ih =>
    obtain ⟨hw, hnodup⟩ := List.nodup_cons.1 hnodup
    rw [List.foldl_cons]
    by_cases hvw : v = w
    · subst hvw
      rw [voiceOf_foldl_other (fun _ _ => voiceOf_saveVoice_ne) hw]
      exact voiceOf_saveVoice
    · obtain ⟨hrun, hpreempt⟩ := ih (s := saveVoice s w) hnodup ((List.mem_cons.1 hv).resolve_left hvw)
      rw [voiceOf_saveVoice_ne (Ne.symm hvw)] at hpreempt
      exact ⟨hrun, hpreempt⟩

theorem exec_preemptSaveComplete (hp : s.porst = false) : exec (.preemptSaveComplete id) s = .next (preemptSaved id s) :=
  live_of hp

theorem preemptSaved_unordered (hset : Machine.setOf s id = some k) (hstop : k.stopping = false) : preemptSaved id s = s := by
  unfold preemptSaved
  rw [hset]
  exact if_pos (by simp [hstop])

/-- A set whose state is saved and whose voices are gone. -/
def savedSet (s : State) (k : KSet) : KSet → KSet := fun j =>
  { j with stopping := false, saved := k.voices.map (voiceOf s), voices := [] }

theorem preemptSaved_ordered (hset : Machine.setOf s id = some k) (hstop : k.stopping = true) :
    let u := k.voices.foldl saveVoice s
    preemptSaved id s = { u with sets := u.sets.map fun j => if j.cmd = id then savedSet s k j else j } := by
  unfold preemptSaved
  rw [hset]
  exact if_neg (by simp [hstop])

theorem voiceOf_preemptSaved (hset : Machine.setOf s id = some k) (hstop : k.stopping = true) :
    voiceOf (preemptSaved id s) v = voiceOf (k.voices.foldl saveVoice s) v := by
  rw [preemptSaved_ordered hset hstop]
  rfl

theorem preemptSaved_frame (hset : Machine.setOf s id = some k) (hstop : k.stopping = true) :
    (preemptSaved id s).sets = (s.sets.map fun j => if j.cmd = id then savedSet s k j else j) ∧
    (preemptSaved id s).mem = s.mem ∧ (preemptSaved id s).cmds = s.cmds := by
  have hwork : VoiceWork s (k.voices.foldl saveVoice s) := VoiceWork.refl.foldl fun _ _ => voiceWork_saveVoice
  rw [preemptSaved_ordered hset hstop, hwork]
  exact ⟨rfl, rfl, rfl⟩

/-! KERNEL_RESTORE (R339). -/

theorem exec_kernelRestore (hp : s.porst = false) :
    exec (.kernelRestore id) s = .next (standingChange (restore id) s) :=
  live_of (f := standingChange (restore id)) hp

theorem firstBy_mem {α : Type} {key : α → List ℕ} {l : List α} {a : α} (h : firstBy key l = some a) : a ∈ l := by
  induction l generalizing a with
  | nil => contradiction
  | cons b l ih =>
    unfold firstBy at h
    split at h
    · exact List.mem_cons.2 (.inl (Option.some.inj h).symm)
    · next d hd =>
      split at h
      · exact List.mem_cons_of_mem b (ih (hd.trans h))
      · exact List.mem_cons.2 (.inl (Option.some.inj h).symm)

/-- While a KERNEL of a lower class number waits, a preempted set is not the first to have voices. -/
theorem firstForVoices_of_lowerWaits (hset : Machine.setOf s id = some k)
    (hlower : lowerWaits s (((partCfg s k.part).map (·.cls)).getD 3) = true) : firstForVoices s id = false := by
  unfold firstForVoices
  cases hfirst : firstBy (serviceKey s) (s.cmds.filter (couldHave s)) with
  | none => rfl
  | some d =>
    have hcould := (List.mem_filter.1 (firstBy_mem hfirst)).2
    by_cases hd : d.id = id
    · unfold couldHave at hcould
      rw [hd, hset] at hcould
      simp [hlower] at hcould
    · simp [hd]

theorem restore_waits (hset : Machine.setOf s id = some k) (h : k.saved = [] ∨
    lowerWaits s (((partCfg s k.part).map (·.cls)).getD 3) = true ∨ firstForVoices s id = false ∨
    choose s k.saved.length false = none) : restore id s = s := by
  unfold restore
  rw [hset]
  dsimp only
  split
  · rfl
  · next hgo =>
    simp only [Bool.or_eq_true, List.isEmpty_iff, Bool.not_eq_true', not_or, Bool.not_eq_false] at hgo
    obtain ⟨hsaved, hfirst⟩ := hgo
    obtain h | h | h | h := h
    · exact absurd h hsaved
    · rw [firstForVoices_of_lowerWaits hset h] at hfirst
      contradiction
    · rw [h] at hfirst
      contradiction
    · rw [h]

/-- A voice with the state of a record: its latches are empty, its counters, HOLD and halt record stay. -/
def restoredVoice (r x : VoiceSt) : VoiceSt :=
  { r with
    latchA := none
    latchB := none
    wait := .none
    hold := x.hold
    cause := x.cause
    element := x.element
    elValid := x.elValid
    tile := x.tile
    detail := x.detail
    overrun := x.overrun
    valid := x.valid
    haltPc := x.haltPc
    haltWord := x.haltWord
    haltAddr := x.haltAddr
    reuseA := x.reuseA
    reuseB := x.reuseB
    tmma := x.tmma
    arrayWait := x.arrayWait
    preempt := x.preempt
    dbgItem := x.dbgItem
    dbgHalf := x.dbgHalf }

/-- The record of place `i` comes back on the voice at that place. -/
def restorePlace (k : KSet) (vs : List Voice) (s : State) (i : ℕ) : State :=
  setVoice (vs.getD i 0) (restoredVoice (k.saved.getD i VoiceSt.reset)) s

/-- A set with its state back on these voices. -/
def restoredSet (s : State) (vs : List Voice) : KSet → KSet := fun j =>
  { j with saved := [], voices := vs, given := vs, resumedAt := s.clk }

theorem restore_given (hset : Machine.setOf s id = some k) (hsaved : k.saved ≠ []) (hfirst : firstForVoices s id = true)
    (hchosen : choose s k.saved.length false = some vs) :
    let u := (List.range vs.length).foldl (restorePlace k vs) (joinPairs false [] vs s)
    restore id s = { u with sets := u.sets.map fun j => if j.cmd = id then restoredSet u vs j else j } := by
  unfold restore
  rw [hset]
  dsimp only
  rw [if_neg (by simp [hsaved, hfirst]), hchosen]
  rfl

theorem exec_kernelRestore_given (hp : s.porst = false) (hset : Machine.setOf s id = some k) (hsaved : k.saved ≠ [])
    (hfirst : firstForVoices s id = true) (hchosen : choose s k.saved.length false = some vs) :
    ∃ t, exec (.kernelRestore id) s = .next t ∧ Machine.setOf t id = some (restoredSet s vs k) ∧
      ∀ i (h : i < vs.length) (g : i < k.saved.length), voiceOf t vs[i] = restoredVoice k.saved[i] (voiceOf s vs[i]) := by
  obtain ⟨hjoins, -⟩ := joinPairs_joins (s := s) (vs := vs) (.inr (rfl : false = false))
  have hwork : VoiceWork (joinPairs false [] vs s)
      ((List.range vs.length).foldl (restorePlace k vs) (joinPairs false [] vs s)) := VoiceWork.refl.foldl fun _ _ => voiceWork_setVoice
  have hvoices : ∀ i (h : i < vs.length) (g : i < k.saved.length),
      voiceOf ((List.range vs.length).foldl (restorePlace k vs) (joinPairs false [] vs s)) vs[i] =
        restoredVoice k.saved[i] (voiceOf s vs[i]) := fun i h g => by
    have hget : ∀ i (h : i < vs.length), vs.getD i 0 = vs[i] := fun i h => List.getD_eq_getElem _ _ h
    have hplace := voiceOf_foldl_range (s := joinPairs false [] vs s) (step := restorePlace k vs)
      (g := fun i => restoredVoice (k.saved.getD i VoiceSt.reset))
      (fun w i h => by rw [restorePlace, hget i h, voiceOf_setVoice])
      (fun w i j hi hj hij => by
        rw [restorePlace, hget i hi, voiceOf_setVoice_ne fun e => hij ((choose_nodup hchosen).getElem_inj_iff.1 e)])
      le_rfl h
    rw [hplace, if_pos h, List.getD_eq_getElem _ _ g]
    refine congrArg _ ?_
    rw [voiceOf, hjoins]
    rfl
  have hgiven := restore_given hset hsaved hfirst hchosen
  have honly : OnlyLedgers (restore id s) (standingChange (restore id) s) := onlyLedgers_standingChange
  revert hwork hvoices hgiven
  generalize (List.range vs.length).foldl (restorePlace k vs) (joinPairs false [] vs s) = u
  intro hwork hvoices hgiven
  rw [hgiven] at honly
  refine ⟨_, exec_kernelRestore hp, setOf_map (g := restoredSet s vs) hset rfl ?_, fun i h g => ?_⟩
  · rw [honly]
    change (u.sets.map fun j => if j.cmd = id then restoredSet u vs j else j) = _
    rw [hwork, hjoins]
    rfl
  · rw [voiceOf, honly]
    exact hvoices i h g

/-! KERNEL_TIMEOUT (R193, R339). -/

theorem exec_kernelTimeout (hp : s.porst = false) : exec (.kernelTimeout id) s = .next (kernelTimeout id s) := live_of hp

theorem kernelTimeout_early (hset : Machine.setOf s id = some k) (hc : cmdOf s id = some c)
    (hclk : s.clk < k.startedAt + 1000 * c.kTimeout) : kernelTimeout id s = s := by
  unfold kernelTimeout
  rw [hset, hc]
  exact if_pos hclk

theorem kernelTimeout_due (hset : Machine.setOf s id = some k) (hc : cmdOf s id = some c)
    (hclk : k.startedAt + 1000 * c.kTimeout ≤ s.clk) : kernelTimeout id s = endSet k 0x02 4 0xFF true [] s := by
  unfold kernelTimeout
  rw [hset, hc]
  exact if_neg (by omega)

/-- A payload laid out as that of a KERNEL. -/
theorem payloadOf_kernel {a b d e f g : ℕ} :
    payloadOf [(0, 4, a), (4, 4, b), (8, 1, d), (9, 1, e), (10, 1, f), (12, 2, g)] =
      toLe 4 a ++ toLe 4 b ++ [BitVec.ofNat 8 d, BitVec.ofNat 8 e, BitVec.ofNat 8 f, 0] ++ toLe 2 g ++ [0, 0] := by
  simp [payloadOf, patch, toLe, List.replicate]

theorem kernelPayload_timeout : byteAt (kernelPayload s k 0xFF true) 10 = 1 ∧ byteAt (kernelPayload s k 0xFF true) 9 = 0xFF ∧
    le (kernelPayload s k 0xFF true) 4 4 = (s.clk - k.startedAt) / 1000 % 2 ^ 32 := by
  unfold kernelPayload
  extract_lets first mask
  rw [payloadOf_kernel]
  exact ⟨rfl, rfl, leNat_toLe (n := 4)⟩

/-- The voices of a set that ends, none of which has halted. -/
def freeVoices (k : KSet) (s : State) : State :=
  (if k.saved.isEmpty then physical k else []).foldl (fun s v => freeVoice (([] : List Voice).contains v) v s)
    { s with sets := s.sets.filter (·.cmd != k.cmd) }

theorem endSet_eq {status detail idx : ℕ} {timeout : Bool} : endSet k status detail idx timeout [] s =
    finish k.cmd status detail false (kernelPayload s k idx timeout) (freeVoices k s) := rfl

theorem freeVoices_frame : freeVoices k s =
    { s with sets := s.sets.filter (·.cmd != k.cmd), voices := (freeVoices k s).voices, brg := (freeVoices k s).brg } :=
  VoiceWork.refl.foldl (t := { s with sets := s.sets.filter (·.cmd != k.cmd) }) fun _ _ => voiceWork_freeVoice

theorem run_foldl_freeVoice (hv : v ∈ vs ∨ (voiceOf s v).run = .free) :
    (voiceOf (vs.foldl (fun s v => freeVoice (([] : List Voice).contains v) v s) s) v).run = .free := by
  induction vs generalizing s with
  | nil => exact hv.resolve_left List.not_mem_nil
  | cons w vs ih =>
    refine ih ?_
    by_cases hvw : w = v
    · subst hvw
      exact .inr (voiceOf_freeVoice (held := false)).1
    · rw [voiceOf_freeVoice_ne hvw]
      exact hv.imp_left fun h => (List.mem_cons.1 h).resolve_left (Ne.symm hvw)

theorem freeVoices_free (hsaved : k.saved = []) (hv : v ∈ physical k) : (voiceOf (freeVoices k s) v).run = .free := by
  unfold freeVoices
  rw [if_pos (by simp [hsaved])]
  exact run_foldl_freeVoice (.inl hv)

theorem endSet_spec {status detail idx : ℕ} {timeout : Bool} (hset : Machine.setOf s id = some k) (hc : cmdOf s id = some c)
    (hsilent : c.silent = false) (hmute : muted s = false) (hearly : s.bsc.early = false) :
    let t := endSet k status detail idx timeout [] s
    Spec.done s t c status (detail % 65536) (kernelPayload s k idx timeout) ∧ Machine.setOf t id = none ∧
      (k.saved = [] → ∀ v ∈ physical k, (voiceOf t v).run = .free) := by
  have hid := setOf_cmd hset
  have hframe : freeVoices k s = _ := freeVoices_frame
  have hfree := fun (hsaved : k.saved = []) v (hv : v ∈ physical k) => freeVoices_free (s := s) hsaved hv
  rw [endSet_eq, hid]
  generalize freeVoices k s = u at hframe hfree
  have hrest : Completes u (finish id status detail false (kernelPayload s k idx timeout) u) := Completes.finish .refl
  refine ⟨?_, ?_, fun hsaved v hv => ?_⟩
  · refine done_congr (s := u) (finish_spec (by rw [hframe]; exact hc) hsilent (by rw [hframe]; exact hmute)
      (by rw [hframe]; exact hearly)) ?_ ?_ rfl rfl
    · rw [hframe]
    · rw [hframe]
  · rw [Machine.setOf, hrest]
    change u.sets.find? _ = none
    rw [hframe, List.find?_eq_none]
    intro j hj
    simpa [hid] using (List.mem_filter.1 hj).2
  · rw [voiceOf, hrest]
    exact hfree hsaved v hv

/-! VCE_CTRL (R345). -/

theorem exec_vceCtrlWrite {w : Word} (h : served s (0x20004 + 0x1000 * n.val) = true) :
    exec (.vceCtrlWrite n w) s = .next (writeVceCtrl n w s) := by
  have hoff : vceBase n + 0x004 = 0x20004 + 0x1000 * n.val := by
    unfold vceBase
    omega
  refine (live_of (f := regWrite (vceBase n + 0x004) (writeVceCtrl n w)) (served_porst h)).trans ?_
  rw [regWrite_of_served (by rw [hoff]; exact h)]

theorem writeVceCtrl_voice {w : Word} : voiceOf (writeVceCtrl n w s) n = { voiceOf s n with
    hold := w.getLsbD 0
    run := if w.getLsbD 0 = false ∧ (voiceOf s n).run = .held then .free else (voiceOf s n).run } := by
  unfold writeVceCtrl
  rw [voiceOf_setVoice]
  have hrun : (if (!w.getLsbD 0 && (voiceOf s n).run == .held) then VoiceRun.free else (voiceOf s n).run) =
      if w.getLsbD 0 = false ∧ (voiceOf s n).run = .held then .free else (voiceOf s n).run :=
    if_congr (by simp) rfl rfl
  rw [← hrun]

end

/-- Settles O56: each row by its equation. The pairs of the voices given stay in service, as `joinPairs_joins` has it; a set's
voices are distinct, and of mirrored work no trailing voice is a leading one. -/
theorem kernelSets : Obligations.KernelSets := by
  intro s id hp
  refine ⟨fun k vs hchosen => ?_, fun c hc => ⟨fun h probes => ?_, fun code vs _ _ hset hpaused hcode hchosen hfirst hvib => ?_⟩,
    fun k hset hstop => ?_, fun k hset hstop hnodup => ?_, fun k hset => ⟨fun h => ?_, fun vs hsaved hfirst hchosen => ?_⟩,
    fun k c hset hc => ⟨fun hclk => ?_, fun hclk hsilent hmute hearly => ?_⟩, fun n v hserved => ?_⟩
  · exact choose_some hchosen
  · rw [exec_kernelSetStart hp, standingChange_of_same (setStart_waits hc h)]
  · obtain ⟨t, hexec, hsets, hmem, hvoices⟩ := exec_kernelSetStart_given hp hc hset hpaused hcode hchosen hfirst hvib
    refine ⟨t, _, hexec, hsets, rfl, rfl, rfl, rfl, rfl, rfl, hmem, fun i h => ?_⟩
    rw [hvoices i h]
    obtain ⟨h1, h2, h3, h4, hrest⟩ := startAt_regs (id := id) (m := vs.length) (c := c) (i := i) (code := code)
      (x := voiceOf s vs[i])
    exact ⟨rfl, rfl, rfl, rfl, h1, h2, h3, h4, hrest, fun j => congrArg Tile.live (Vector.getElem_replicate _),
      fun j => congrArg Accum.kind (Vector.getElem_replicate _), rfl⟩
  · rw [exec_preemptSaveComplete hp, preemptSaved_unordered hset hstop]
  · obtain ⟨hsets, hmem, hcmds⟩ := preemptSaved_frame hset hstop
    refine ⟨_, exec_preemptSaveComplete hp, setOf_map (g := savedSet s k) hset rfl hsets, fun v hv => ?_, fun v hv => ?_, hmem,
      hcmds⟩
    · rw [voiceOf_preemptSaved hset hstop]
      exact voiceOf_foldl_saveVoice hnodup hv
    · rw [voiceOf_preemptSaved hset hstop]
      exact voiceOf_foldl_other (fun _ _ => voiceOf_saveVoice_ne) hv
  · rw [exec_kernelRestore hp, standingChange_of_same (restore_waits hset h)]
  · obtain ⟨t, hexec, hset', hvoices⟩ := exec_kernelRestore_given hp hset hsaved hfirst hchosen
    refine ⟨t, hexec, hset', fun i h g => ?_⟩
    rw [hvoices i h g]
    exact ⟨rfl, rfl, rfl, rfl, rfl, rfl, rfl, rfl, rfl⟩
  · rw [exec_kernelTimeout hp, kernelTimeout_early hset hc hclk]
  · obtain ⟨hdone, hnone, hfree⟩ := endSet_spec (status := 0x02) (detail := 4) (idx := 0xFF) (timeout := true) hset hc hsilent
      hmute hearly
    obtain ⟨htimeout, hidx, hrun⟩ := kernelPayload_timeout (s := s) (k := k)
    rw [exec_kernelTimeout hp, kernelTimeout_due hset hc hclk]
    exact ⟨_, _, rfl, hdone, hnone, htimeout, hidx, hrun, hfree⟩
  · exact ⟨_, exec_vceCtrlWrite hserved, rfl, writeVceCtrl_voice, fun m hm => voiceOf_setVoice_ne (Ne.symm hm)⟩

end Sys2Proof.Proofs

namespace Sys2Proof.Proofs

/-! ### The start of a work command, and its input (R170, R180 to R185, R411) -/

open Sys2Proof.Machine

section
variable {s t u : State} {c d : Cmd} {o : FlashOp} {b : List Byte} {w : Work}
  {id i op ending status detail a e : ℕ} {refused : Bool} {payload : List Byte}

/-! The fields of the payloads. -/

/-- A payload laid out as that of a GENERATE. -/
theorem payloadOf_gen {a b d e f : ℕ} : payloadOf [(0, 4, a), (4, 4, b), (8, 4, d), (12, 1, e), (14, 2, f)] =
    toLe 4 a ++ toLe 4 b ++ toLe 4 d ++ [BitVec.ofNat 8 e, 0] ++ toLe 2 f := by
  simp [payloadOf, patch, toLe, List.replicate]

/-- A payload laid out as that of a SCORE_TOKENS or an EMBED. -/
theorem payloadOf_three {a b d : ℕ} : payloadOf [(0, 4, a), (4, 4, b), (8, 4, d)] =
    toLe 4 a ++ toLe 4 b ++ toLe 4 d ++ [0, 0, 0, 0] := by
  simp [payloadOf, patch, toLe, List.replicate]

/-- A payload laid out as that of a PREFILL. -/
theorem payloadOf_two {a b : ℕ} : payloadOf [(0, 4, a), (4, 4, b)] =
    toLe 4 a ++ toLe 4 b ++ [0, 0, 0, 0, 0, 0, 0, 0] := by
  simp [payloadOf, patch, toLe, List.replicate]

theorem payloadOf_gen_fields {d f : ℕ} : let p := payloadOf [(0, 4, 0), (4, 4, 0), (8, 4, d), (12, 1, e), (14, 2, f)]
    le p 0 8 = 0 ∧ le p 8 4 = d % 2 ^ 32 ∧ byteAt p 12 = e % 256 := by
  rw [payloadOf_gen]
  have hfirst : le (toLe 4 0 ++ toLe 4 0 ++ toLe 4 d ++ [BitVec.ofNat 8 e, 0] ++ toLe 2 f) 0 8 =
      leNat (toLe 4 0 ++ toLe 4 0) := rfl
  exact ⟨hfirst.trans (by decide), leNat_toLe (n := 4), BitVec.toNat_ofNat e 8⟩

/-- END of a GENERATE, and the other fields of one that has generated nothing. -/
theorem genPayload_fields (hwork : c.work = Work.none) :
    le (genPayload s c ending) 0 8 = 0 ∧ le (genPayload s c ending) 8 4 = positionOf s c % 2 ^ 32 ∧
      byteAt (genPayload s c ending) 12 = ending % 256 := by
  unfold genPayload
  rw [hwork]
  exact payloadOf_gen_fields

/-! The row of a work command. -/

/-- What a work command does once it is admitted and nothing stands before it. -/
def workBegun (c : Cmd) (s : State) : State :=
  if c.noPass then endAtOnce c s
  else
    let s := if c.isGen then checkMask c.id s else s
    if (cmdOf s c.id).isNone then s
    else if c.tokensIn = 0 then setWork c.id (fun w => { w with inputRead := true }) s
    else readBuf c.id c.inAddr' (4 * c.tokensIn) (takeInput c.id) s

theorem live_beginWork (h : Spec.begins s id c op) : live s (beginWork op id) = .next (workBegun c s) := by
  obtain ⟨⟨hporst, hc, hop, hphase, -⟩, hwake, hwork, hwant⟩ := h
  obtain rfl := cmdOf_id hc
  rw [live_of hporst]
  unfold beginWork
  rw [if_neg (by simp [hc, hop]), admitCmd_of_admitted hc (by simp [hphase])]
  dsimp only
  rw [hc]
  dsimp only
  rw [if_neg (by simp [hphase, hwake, hwork, hwant, Work.none])]
  rfl

theorem exec_prefill (h : Spec.begins s id c 0x20) : exec (.prefill id) s = .next (workBegun c s) := live_beginWork h

theorem exec_generate (h : Spec.begins s id c 0x21) : exec (.generate id) s = .next (workBegun c s) := live_beginWork h

theorem exec_scoreTokens (h : Spec.begins s id c 0x22) : exec (.scoreTokens id) s = .next (workBegun c s) := live_beginWork h

theorem exec_embed (h : Spec.begins s id c 0x23) : exec (.embed id) s = .next (workBegun c s) := live_beginWork h

/-! A work command that runs no pass. -/

/-- What a command with no input commits. -/
theorem commitAll_nothing (hwork : c.work = Work.none) : commitAll c s = s := by
  unfold commitAll commitInput
  rw [hwork, show (Work.none.input.take Work.none.input.length) = [] from rfl]
  dsimp only
  rw [List.drop_nil, List.foldl_nil, ite_self]

theorem output_nil (hc : cmdOf s id = some c) : output id a [] s = s := by
  unfold output
  rw [hc]
  rfl

theorem endPrefill_eq (hc : cmdOf s id = some c) (hwork : c.work = Work.none) : endPrefill id s =
    finish id 0x00 0 false (payloadOf [(0, 4, positionOf s c), (4, 4, positionOf s c)]) s := by
  unfold endPrefill
  rw [hc]
  dsimp only
  rw [hwork]
  rfl

theorem endScore_eq (hc : cmdOf s id = some c) (hwork : c.work = Work.none) : endScore id s =
    finish id 0x00 0 false (payloadOf [(0, 4, 0), (4, 4, positionOf s c), (8, 4, 0)]) s := by
  unfold endScore
  rw [hc]
  dsimp only
  rw [commitAll_nothing hwork, hwork, show scoreBytes Work.none = [] from rfl, output_nil hc]
  rfl

theorem endEmbed_eq (hc : cmdOf s id = some c) (hwork : c.work = Work.none) (hnone : c.inCount = 0) : endEmbed id s =
    finish id 0x00 0 false (payloadOf [(0, 4, (hdrFor s c).hidden), (4, 4, positionOf s c), (8, 4, 0)]) s := by
  unfold endEmbed
  rw [hc]
  dsimp only
  rw [commitAll_nothing hwork, if_pos hnone, output_nil hc]
  rfl

theorem endGen_eq (hc : cmdOf s id = some c) : endGen id status detail ending s =
    finish id status detail false (genPayload s c ending) s := by
  unfold endGen
  rw [hc]

theorem workBegun_noPass (hnone : c.noPass = true) : workBegun c s = endAtOnce c s := if_pos hnone

/-! The check of R411. -/

theorem deadEnd_eq (hc : cmdOf s c.id = some c) : ∃ apt, deadEnd c s =
    finish c.id 0x24 (stateOfCmd s c) false (genPayload s c 5) { s with apt := apt } :=
  ⟨_, endGen_eq hc⟩

theorem checkMask_dead (hc : cmdOf s c.id = some c) (hdead : allowedAt s c (stateOfCmd s c) = []) :
    checkMask c.id s = deadEnd c s := by
  unfold checkMask
  rw [hc]
  exact if_pos hdead

theorem checkMask_onlyEos (hc : cmdOf s c.id = some c) (halive : allowedAt s c (stateOfCmd s c) ≠ [])
    (heos : onlyEos (allowedAt s c (stateOfCmd s c)) (hdrFor s c).eos = true) :
    ∃ apt, checkMask c.id s = finish c.id 0x00 0 false (genPayload s c 3) { s with apt := apt } := by
  unfold checkMask
  rw [hc]
  dsimp only
  rw [if_neg halive, if_pos heos]
  exact ⟨_, endGen_eq hc⟩

theorem checkMask_passes (hc : cmdOf s c.id = some c) (halive : allowedAt s c (stateOfCmd s c) ≠ [])
    (heos : onlyEos (allowedAt s c (stateOfCmd s c)) (hdrFor s c).eos = false) : checkMask c.id s = s := by
  unfold checkMask
  rw [hc]
  dsimp only
  rw [if_neg halive, if_neg (by simp [heos])]

theorem cmdOf_done (h : Spec.done s t c status detail payload) : cmdOf t c.id = none := by
  obtain ⟨hcmds, -⟩ := h
  rw [cmdOf, hcmds, List.find?_eq_none]
  intro x hx
  simpa using (List.mem_filter.1 hx).2

/-- A GENERATE that its mask ends does nothing more. -/
theorem workBegun_ended (hgen : c.isGen = true) (hpass : c.noPass = false)
    (hdone : Spec.done s (checkMask c.id s) c status detail payload) : workBegun c s = checkMask c.id s := by
  unfold workBegun
  rw [if_neg (by simp [hpass]), if_pos hgen]
  exact if_pos (by rw [cmdOf_done hdone]; rfl)

/-- A work command that its mask does not end. -/
theorem workBegun_goes (hc : cmdOf s c.id = some c) (hpass : c.noPass = false)
    (hmask : c.isGen = true → checkMask c.id s = s) : workBegun c s =
      if c.tokensIn = 0 then setWork c.id (fun w => { w with inputRead := true }) s
      else readBuf c.id c.inAddr' (4 * c.tokensIn) (takeInput c.id) s := by
  have hcheck : (if c.isGen then checkMask c.id s else s) = s := by
    split
    · next hgen => exact hmask hgen
    · rfl
  unfold workBegun
  rw [if_neg (by simp [hpass])]
  dsimp only
  rw [hcheck, if_neg (by rw [hc]; nofun)]

theorem readBuf_host {k : List Byte → State → State} {len : ℕ} (hc : cmdOf s id = some c) (ha : 0x8000000000 ≤ a) :
    readBuf id a len k s = want id a len s := by
  unfold readBuf
  rw [hc]
  exact if_pos ha

/-! What a command that is gone leaves behind (R127). -/

/-- `t` came from `s` by the end of work whose command is gone. -/
def Forgets (s t : State) : Prop :=
  t = { s with nand := t.nand, flc := t.flc, evc := t.evc, bsc := t.bsc }

theorem Forgets.refl : Forgets s s := rfl

theorem Forgets.trans (h : Forgets s t) (k : Forgets t u) : Forgets s u := by
  unfold Forgets at *
  rw [k, h]

theorem finish_gone (hc : cmdOf s id = none) : finish id status detail refused payload s = s := by
  unfold finish
  rw [hc]

theorem endOp_forgets (hgone : cmdOf s o.cmd = none) : Forgets s (endOp o status detail i s) := by
  unfold endOp
  extract_lets flc w pay
  rw [finish_gone (s := w) hgone]
  rfl

theorem failWrite_forgets (hgone : cmdOf s o.cmd = none) : Forgets s (failWrite o status detail s) :=
  Forgets.trans (t := setSlot o.slot 1 0 0 s) rfl (endOp_forgets hgone)

theorem erased_forgets {st : ℕ × ℕ} (ho : s.flc.op = some o) (hgone : cmdOf s o.cmd = none) (hfail : o.fail = some st) :
    Forgets s (erased s) := by
  unfold erased
  rw [ho]
  dsimp only
  rw [hfail]
  split
  · exact .refl
  · split
    · exact failWrite_forgets hgone
    · exact failWrite_forgets hgone

theorem clearSlot_forgets {st : ℕ × ℕ} (ho : s.flc.op = some o) (hgone : cmdOf s o.cmd = none) :
    Forgets s (clearSlot (some st) s) := by
  have hop : ∀ f, (setOp f s).flc.op = some (f o) := fun f => congrArg (Option.map f) ho
  refine Forgets.trans (t := setOp (fun o => { o with
    clearing := true, checking := false, fail := some st, blocks := goodBlocks s o.slot }) s) rfl ?_
  exact erased_forgets (hop _) hgone rfl

theorem dropWrite_forgets : Forgets s (dropWrite s) := by
  unfold dropWrite
  split
  · next o ho =>
    split
    · exact .refl
    · next hgo =>
      have hgone : cmdOf s o.cmd = none := by
        simp only [Bool.or_eq_true, not_or] at hgo
        obtain ⟨⟨hgone, -⟩, -⟩ := hgo
        simpa using hgone
      split
      · exact failWrite_forgets hgone
      · exact clearSlot_forgets ho hgone
  · exact .refl

theorem settleGone_forgets (hjobs : s.jobs = []) : Forgets s (settleGone s) := by
  have hdrop : Forgets s (dropWrite s) := dropWrite_forgets
  have hnone : dropOrphans (dropWrite s) = dropWrite s := dropOrphans_of_none (by rw [hdrop]; exact hjobs)
  unfold settleGone
  rw [hnone]
  dsimp only
  split
  · exact hdrop.trans rfl
  · exact hdrop

/-! The input arrives (R170). -/

/-- A command with these bytes of its input. -/
def withInput (b : List Byte) (c : Cmd) : Cmd := { c with input := b, attempt := 0 }

/-- The state once the burst of the last bytes is over. -/
def inputRead (b : List Byte) (c : Cmd) (s : State) : State :=
  setCmd c.id (withInput (c.input ++ b)) (endGrant (.dma (some c.id)) s)

theorem cmdOf_inputRead (hc : cmdOf s c.id = some c) : cmdOf (inputRead b c s) c.id = some (withInput (c.input ++ b) c) := by
  refine (cmdOf_setCmd (f := withInput (c.input ++ b)) fun _ => rfl).trans ?_
  rw [show cmdOf (endGrant (.dma (some c.id)) s) c.id = cmdOf s c.id from rfl, hc]
  rfl

theorem exec_dmaReadCompletion_work (hp : s.porst = false) (hc : cmdOf s c.id = some c) (hlow : 0x20 ≤ c.op)
    (hhigh : c.op ≤ 0x23) (hjobs : s.jobs = []) (hrun : hifRuns s = true)
    (hgrant : holdsGrant s (.dma (some c.id)) = true) (hb : b ≠ []) (hlast : c.input.length + b.length = c.inWant)
    (hasked : c.inWant ≤ c.inAsked) : exec (.dmaReadCompletion c.id b) s =
      .next (settleGone (takeInput c.id (c.input ++ b) (inputRead b c s))) := by
  have hdone : inputDone c (c.input ++ b) (inputRead b c s) = takeInput c.id (c.input ++ b) (inputRead b c s) := by
    have hnojob : jobFor (inputRead b c s) (.cmd c.id) = none := by
      rw [jobFor, show (inputRead b c s).jobs = [] from hjobs]
      rfl
    unfold inputDone
    rw [hnojob, if_neg nofun, if_neg (by omega), if_pos (by simp [isWork, hlow, hhigh])]
  refine (live_of hp).trans ?_
  unfold dmaRead
  rw [hc]
  dsimp only
  rw [if_neg (by rw [List.isEmpty_iff]; exact not_or_intro hb (by omega)), withDma_of hrun hgrant,
    if_pos (by rw [List.length_append]; exact hlast)]
  exact congrArg (fun u => Host.Outcome.next (settleGone u)) hdone

/-- The entries that the command has read. -/
def tokensRead (c : Cmd) (b : List Byte) : List ℕ := (List.range c.tokensIn).map fun i => le (c.input ++ b) (4 * i) 4

/-- The state in which the command has them. -/
def tokensTaken (b : List Byte) (c : Cmd) (s : State) : State :=
  setWork c.id (fun w => { w with input := tokensRead c b, inputRead := true }) (inputRead b c s)

theorem takeInput_good (hc : cmdOf s c.id = some c)
    (hgood : ∀ i < c.tokensIn, le (c.input ++ b) (4 * i) 4 < 2 ^ 18 ∧ le (c.input ++ b) (4 * i) 4 < (hdrFor s c).vocab) :
    takeInput c.id (c.input ++ b) (inputRead b c s) =
      tokensTaken b c s := by
  have hnone : (tokensRead c b).findIdx? (tokenBad (hdrFor s c).vocab) = none := by
    rw [List.findIdx?_eq_none_iff]
    intro t ht
    obtain ⟨i, hi, rfl⟩ := List.mem_map.1 ht
    obtain ⟨hsize, hvocab⟩ := hgood i (List.mem_range.1 hi)
    simp only [tokenBad, Bool.or_eq_false_iff, decide_eq_false_iff_not]
    omega
  unfold takeInput
  rw [cmdOf_inputRead hc]
  change (match (tokensRead c b).findIdx? (tokenBad (hdrFor s c).vocab) with
    | some i => _
    | none => _) = _
  rw [hnone]
  rfl

/-- The command has its tokens, whatever ends beside it. -/
theorem cmdOf_tokensTaken (hc : cmdOf s c.id = some c) (hjobs : s.jobs = []) :
    cmdOf (settleGone (tokensTaken b c s)) c.id =
      some { withInput (c.input ++ b) c with work := { c.work with input := tokensRead c b, inputRead := true } } := by
  have hgone : Forgets (tokensTaken b c s) (settleGone (tokensTaken b c s)) := settleGone_forgets hjobs
  rw [cmdOf, hgone]
  refine (cmdOf_setCmd (f := fun x => { x with work := { x.work with input := tokensRead c b, inputRead := true } })
    fun _ => rfl).trans ?_
  rw [cmdOf_inputRead hc]
  rfl

/-- A session without the binding that a command made. -/
def unbind (x : Ctx) : Ctx := { x with st := .new, model := none, draft := none }

/-- Before the refusal of a bad entry the binding that the command made is undone. -/
def unbound (c : Cmd) (s : State) : State := if c.boundCtx then setCtx c.part c.key unbind s else s

theorem positionOf_unbound : positionOf (unbound c s) c = positionOf s c := by
  unfold unbound positionOf
  split
  · rw [ctxOf_setCtx (f := unbind) fun _ => ⟨rfl, rfl⟩, Option.map_map]
    rfl
  · rfl

theorem unbound_frame : unbound c s = { s with ctxs := (unbound c s).ctxs } := by
  unfold unbound
  split <;> rfl

theorem takeInput_bad (hc : cmdOf s c.id = some c) (hmade : c.madeCtx = false) (hi : i < c.tokensIn)
    (hbad : ¬ (le (c.input ++ b) (4 * i) 4 < 2 ^ 18 ∧ le (c.input ++ b) (4 * i) 4 < (hdrFor s c).vocab))
    (hfirst : ∀ j < i, le (c.input ++ b) (4 * j) 4 < 2 ^ 18 ∧ le (c.input ++ b) (4 * j) 4 < (hdrFor s c).vocab) :
    takeInput c.id (c.input ++ b) (inputRead b c s) = finish c.id 0x31 (min 0xFFFE (0x8000 + i)) true
      (if c.op = 0x21 then failPayload s c 0x31 else List.replicate 16 0) (unbound c (inputRead b c s)) := by
  have hsome : (tokensRead c b).findIdx? (tokenBad (hdrFor s c).vocab) = some i := by
    have hlen : (tokensRead c b).length = c.tokensIn := by simp [tokensRead]
    have htok : ∀ j (h : j < (tokensRead c b).length), (tokensRead c b)[j] = le (c.input ++ b) (4 * j) 4 := fun j h => by
      simp [tokensRead]
    rw [List.findIdx?_eq_some_iff_getElem]
    refine ⟨by omega, ?_, fun j hj => ?_⟩
    · rw [htok]
      simp only [tokenBad, Bool.or_eq_true, decide_eq_true_eq]
      omega
    · have hgood := hfirst j hj
      rw [htok]
      simp only [tokenBad, Bool.or_eq_true, decide_eq_true_eq]
      omega
  have hpay : (if (withInput (c.input ++ b) c).isGen then
        failPayload (unbound c (inputRead b c s)) (withInput (c.input ++ b) c) 0x31 else noPayload) =
      if c.op = 0x21 then failPayload s c 0x31 else List.replicate 16 0 := by
    refine if_ctx_congr (by simp [Cmd.isGen, withInput, Cmd.op]) (fun hgen => ?_) fun _ => rfl
    have hpos : positionOf (unbound c (inputRead b c s)) (withInput (c.input ++ b) c) = positionOf s c :=
      positionOf_unbound (s := inputRead b c s)
    unfold failPayload genPayload
    rw [hpos, show (withInput (c.input ++ b) c).op = c.op from rfl, if_pos hgen, if_pos hgen]
    rfl
  unfold takeInput
  rw [cmdOf_inputRead hc]
  change (match (tokensRead c b).findIdx? (tokenBad (hdrFor s c).vocab) with
    | some i => _
    | none => _) = _
  rw [hsome, ← hpay]
  dsimp only
  exact if_neg (by simp [withInput, hmade])

/-- The refusal of a bad entry writes the record of the command as it stood. -/
theorem refusal_done (hc : cmdOf s c.id = some c) (hsilent : c.silent = false) (hmute : muted s = false)
    (hearly : s.bsc.early = false) (hjobs : s.jobs = []) : Spec.done s
      (settleGone (finish c.id status detail true payload (unbound c (inputRead b c s)))) c status (detail % 65536)
      payload := by
  have hframe : unbound c (inputRead b c s) = { inputRead b c s with ctxs := (unbound c (inputRead b c s)).ctxs } :=
    unbound_frame
  generalize unbound c (inputRead b c s) = u at hframe
  have hc' : cmdOf u c.id = some (withInput (c.input ++ b) c) := by
    rw [hframe]
    exact cmdOf_inputRead hc
  have hspec := finish_spec (status := status) (detail := detail) (refused := true) (payload := payload) hc' hsilent
    (by rw [hframe]; exact hmute) (by rw [hframe]; exact hearly)
  have hends : Completes u (finish c.id status detail true payload u) := Completes.finish .refl
  have hgone : Forgets (finish c.id status detail true payload u)
      (settleGone (finish c.id status detail true payload u)) := settleGone_forgets (by rw [hends, hframe]; exact hjobs)
  refine done_of_updated (done_congr hspec rfl rfl ?_ ?_) rfl rfl rfl ?_ ?_
  · rw [hgone]
  · rw [hgone]
  · rw [hframe]
    exact setCmd_others (s := endGrant (.dma (some c.id)) s) (g := withInput (c.input ++ b)) fun _ => rfl
  · rw [hframe]
    rfl

/-- The row of each work command. -/
theorem exec_workRow {row : ℕ × (ℕ → Instr)}
    (hrow : row ∈ [(0x20, Instr.prefill), (0x21, Instr.generate), (0x22, Instr.scoreTokens), (0x23, Instr.embed)])
    (h : Spec.begins s id c row.1) : exec (row.2 id) s = .next (workBegun c s) := by
  simp only [List.mem_cons, List.not_mem_nil, or_false] at hrow
  obtain rfl | rfl | rfl | rfl := hrow
  · exact exec_prefill h
  · exact exec_generate h
  · exact exec_scoreTokens h
  · exact exec_embed h

theorem noPass_of_tokensIn (h : c.tokensIn ≠ 0) : c.noPass = false := by
  unfold Cmd.tokensIn at h
  unfold Cmd.noPass
  split
  · next hgen =>
    rw [if_pos hgen] at h
    exact beq_eq_false_iff_ne.2 fun hmax => h (by rw [hmax]; simp)
  · next hgen =>
    rw [if_neg hgen] at h
    exact beq_eq_false_iff_ne.2 h

/-! What the start of each work command comes to where it ends at once. -/

theorem noPass_of_inCount (hgen : c.isGen = false) (hnone : c.inCount = 0) : c.noPass = true := by
  unfold Cmd.noPass
  rw [if_neg (by simp [hgen]), hnone]
  rfl

theorem noPass_gen (hgen : c.isGen = true) : c.noPass = (c.maxTokens == 0) := if_pos hgen

theorem begins_atHand (h : Spec.begins s id c op) :
    Spec.isReady s id c op ∧ cmdOf s c.id = some c ∧ c.op = op ∧ c.work = Work.none ∧ c.isGen = (op == 0x21) := by
  obtain ⟨hready, -, hwork, -⟩ := h
  have hhand := hready
  obtain ⟨-, hc, hop, -⟩ := hhand
  obtain rfl := cmdOf_id hc
  exact ⟨hready, hc, hop, hwork, by rw [Cmd.isGen, hop]⟩

theorem workBegun_prefill (h : Spec.begins s id c 0x20) (hnone : c.inCount = 0) : workBegun c s =
    finish c.id 0x00 0 false (payloadOf [(0, 4, positionOf s c), (4, 4, positionOf s c)]) s := by
  obtain ⟨-, hc, hop, hwork, hgen⟩ := begins_atHand h
  rw [workBegun_noPass (noPass_of_inCount hgen hnone), ← endPrefill_eq hc hwork]
  unfold endAtOnce
  rw [hop]
  rfl

theorem workBegun_score (h : Spec.begins s id c 0x22) (hnone : c.inCount = 0) : workBegun c s =
    finish c.id 0x00 0 false (payloadOf [(0, 4, 0), (4, 4, positionOf s c), (8, 4, 0)]) s := by
  obtain ⟨-, hc, hop, hwork, hgen⟩ := begins_atHand h
  rw [workBegun_noPass (noPass_of_inCount hgen hnone), ← endScore_eq hc hwork]
  unfold endAtOnce
  rw [hop]
  rfl

theorem workBegun_embed (h : Spec.begins s id c 0x23) (hnone : c.inCount = 0) : workBegun c s =
    finish c.id 0x00 0 false (payloadOf [(0, 4, (hdrFor s c).hidden), (4, 4, positionOf s c), (8, 4, 0)]) s := by
  obtain ⟨-, hc, hop, hwork, hgen⟩ := begins_atHand h
  rw [workBegun_noPass (noPass_of_inCount hgen hnone), ← endEmbed_eq hc hwork hnone]
  unfold endAtOnce
  rw [hop]
  rfl

theorem workBegun_gen (h : Spec.begins s id c 0x21) (hmax : c.maxTokens = 0) : workBegun c s =
    finish c.id 0x00 0 false (genPayload s c 1) s := by
  obtain ⟨-, hc, hop, -, hgen⟩ := begins_atHand h
  rw [workBegun_noPass (by rw [noPass_gen hgen, hmax]; rfl), ← endGen_eq hc]
  unfold endAtOnce
  rw [hop]
  rfl

end

/-- Settles O49: the row of a work command by `workBegun`, its last bytes by `takeInput`, and then what `settleGone` leaves of
work whose command is gone. -/
theorem workCommands : Obligations.WorkCommands := by
  intro s id c
  refine ⟨fun h hnone => ?_, fun h hmax => ?_, fun h hnone => ?_, fun h hnone => ?_, fun h hmax => ⟨fun hdead => ?_,
    fun halive heos => ?_, fun halive heos hprompt => ?_⟩, fun row hrow h htokens hmask haddr => ?_,
    fun b hp hc hlow hhigh hsilent hmute hearly _ hmade hjobs hrun hgrant hb hlast hasked => ⟨fun hgood => ?_,
    fun i hi hbad hfirst => ?_⟩⟩
  · refine ⟨_, _, exec_prefill h, workBegun_prefill h hnone ▸ ready_finish_done h.1 rfl rfl rfl rfl, ?_⟩
    rw [payloadOf_two]
    exact ⟨leNat_toLe (n := 4), leNat_toLe (n := 4)⟩
  · obtain ⟨hready, hc, hop, hwork, hgen⟩ := begins_atHand h
    exact ⟨_, _, exec_generate h, workBegun_gen h hmax ▸ ready_finish_done hready rfl rfl rfl rfl, genPayload_fields hwork⟩
  · refine ⟨_, _, exec_scoreTokens h, workBegun_score h hnone ▸ ready_finish_done h.1 rfl rfl rfl rfl, ?_⟩
    rw [payloadOf_three]
    exact ⟨leNat_toLe (n := 4), leNat_toLe (n := 4)⟩
  · refine ⟨_, _, exec_embed h, workBegun_embed h hnone ▸ ready_finish_done h.1 rfl rfl rfl rfl, ?_⟩
    rw [payloadOf_three]
    exact leNat_toLe (n := 4)
  · obtain ⟨hready, hc, hop, hwork, hgen⟩ := begins_atHand h
    obtain ⟨apt, hend⟩ := deadEnd_eq hc
    have hcheck := (checkMask_dead hc hdead).trans hend
    have hdone : Spec.done s (checkMask c.id s) c 0x24 (stateOfCmd s c % 65536) (genPayload s c 5) :=
      hcheck ▸ ready_finish_done hready rfl rfl rfl rfl
    rw [exec_generate h, workBegun_ended hgen (by simp [noPass_gen hgen, hmax]) hdone]
    obtain ⟨-, -, hending⟩ := genPayload_fields (s := s) (ending := 5) hwork
    exact ⟨_, _, rfl, hdone, hending⟩
  · obtain ⟨hready, hc, hop, hwork, hgen⟩ := begins_atHand h
    obtain ⟨apt, hcheck⟩ := checkMask_onlyEos hc halive heos
    have hdone : Spec.done s (checkMask c.id s) c 0x00 0 (genPayload s c 3) :=
      hcheck ▸ ready_finish_done hready rfl rfl rfl rfl
    rw [exec_generate h, workBegun_ended hgen (by simp [noPass_gen hgen, hmax]) hdone]
    obtain ⟨-, -, hending⟩ := genPayload_fields (s := s) (ending := 3) hwork
    exact ⟨_, _, rfl, hdone, hending⟩
  · obtain ⟨hready, hc, hop, hwork, hgen⟩ := begins_atHand h
    have hnone : c.tokensIn = 0 := by simp [Cmd.tokensIn, hgen, hprompt]
    rw [exec_generate h, workBegun_goes hc (by simp [noPass_gen hgen, hmax]) fun _ => checkMask_passes hc halive heos,
      if_pos hnone]
    obtain ⟨-, hc', -⟩ := hready
    rw [cmdOf_id hc']
  · obtain ⟨hready, hc, hop, hwork, hgen⟩ := begins_atHand h
    rw [exec_workRow hrow h, workBegun_goes hc (noPass_of_tokensIn htokens) fun hg => ?_, if_neg htokens,
      readBuf_host hc haddr]
    · obtain ⟨-, hc', -⟩ := hready
      rw [cmdOf_id hc']
    · rw [hgen, beq_iff_eq] at hg
      obtain ⟨halive, heos⟩ := hmask hg
      exact checkMask_passes hc halive heos
  · obtain rfl := cmdOf_id hc
    rw [exec_dmaReadCompletion_work hp hc hlow hhigh hjobs hrun hgrant hb hlast hasked, takeInput_good hc hgood]
    exact ⟨_, _, rfl, cmdOf_tokensTaken hc hjobs, rfl, rfl⟩
  · obtain rfl := cmdOf_id hc
    have hdone := refusal_done (b := b) (status := 0x31) (detail := min 0xFFFE (0x8000 + i))
      (payload := if c.op = 0x21 then failPayload s c 0x31 else List.replicate 16 0) hc hsilent hmute hearly hjobs
    rw [Nat.mod_eq_of_lt (by omega)] at hdone
    rw [exec_dmaReadCompletion_work hp hc hlow hhigh hjobs hrun hgrant hb hlast hasked, takeInput_bad hc hmade hi hbad hfirst]
    exact ⟨_, rfl, hdone⟩

end Sys2Proof.Proofs

namespace Sys2Proof.Proofs

/-! ### Stores to resident space, and jobs (R140, R174, R300 to R304) -/

open Sys2Proof.Machine

section
variable {s t u v : State} {bs : List Byte} {units : List (ℕ × ℕ)} {a k n : ℕ}

/-! What a store leaves alone, and what it rests on. -/

/-- `t` came from `s` by stores to device memory. -/
def Stores (s t : State) : Prop := t = { s with mem := t.mem, bad := t.bad, dmc := t.dmc }

theorem Stores.refl : Stores s s := rfl

theorem Stores.trans (h : Stores s t) (g : Stores t u) : Stores s u := by
  unfold Stores at *
  rw [g, h]

theorem MovesRows.stores (h : MovesRows s t) : Stores s t := by
  unfold Stores
  rw [h.frame]

theorem stores_storeUnits : Stores s (storeUnits k a bs s) := by
  induction k generalizing a bs s with
  | zero => exact .refl
  | succ k ih =>
    unfold storeUnits
    split
    · exact .refl
    · extract_lets m r whole left w
      refine Stores.trans (t := w) ?_ ih
      dsimp only [w]
      split
      · exact .refl
      · rfl

/-- What a store to stacked memory does besides storing moves rows. -/
theorem movesRows_storeMem : MovesRows (storeRaw a bs s) (storeMem a bs s) := by
  unfold storeMem
  extract_lets w part
  split
  · exact .refl
  · exact (MovesRows.refl.foldl fun _ _ => movesRows_bump).trans movesRows_moveAll

theorem stores_storeMem : Stores s (storeMem a bs s) := Stores.trans stores_storeUnits movesRows_storeMem.stores

theorem stores_storeResident : Stores s (storeResident units k a bs s) := by
  induction k generalizing a bs s with
  | zero => exact .refl
  | succ k ih =>
    unfold storeResident
    split
    · exact .refl
    · exact stores_storeMem.trans ih

theorem stores_putShard : Stores s (putShard units a bs s) := stores_storeResident

/-- Two states in which stores go alike. -/
structure SameStacks (s t : State) : Prop where
  mem : t.mem = s.mem
  bad : t.bad = s.bad
  dead : ∀ x, deadAt t x = deadAt s x

theorem SameStacks.symm (h : SameStacks s t) : SameStacks t s := ⟨h.mem.symm, h.bad.symm, fun x => (h.dead x).symm⟩

theorem SameStacks.trans (h : SameStacks s t) (g : SameStacks t u) : SameStacks s u :=
  ⟨g.mem.trans h.mem, g.bad.trans h.bad, fun x => (g.dead x).trans (h.dead x)⟩

theorem MovesRows.sameStacks (h : MovesRows s t) : SameStacks s t := by
  refine ⟨by rw [h.frame], by rw [h.frame], fun x => ?_⟩
  have hplace : placeOf t x = placeOf s x := by
    rw [h.frame]
    rfl
  rw [deadAt, deadAt, hplace, h.dead]

theorem SameStacks.storeUnits (h : SameStacks s t) : SameStacks (storeUnits k a bs s) (storeUnits k a bs t) := by
  induction k generalizing a bs s t with
  | zero => exact h
  | succ k ih =>
    unfold Machine.storeUnits
    split
    · exact h
    · refine ih ?_
      have hbad : badIn t = badIn s := by
        funext x m
        rw [badIn, h.bad, badIn]
      rw [h.dead, hbad, h.bad, h.mem]
      split
      · exact h
      · exact ⟨rfl, rfl, h.dead⟩

theorem SameStacks.storeMem (h : SameStacks s t) : SameStacks (storeMem a bs s) (storeMem a bs t) :=
  movesRows_storeMem.sameStacks.symm.trans (h.storeUnits.trans movesRows_storeMem.sameStacks)

theorem SameStacks.storeResident (h : SameStacks s t) :
    SameStacks (storeResident units k a bs s) (storeResident units k a bs t) := by
  induction k generalizing a bs s t with
  | zero => exact h
  | succ k ih =>
    unfold Machine.storeResident
    split
    · exact h
    · exact ih h.storeMem

theorem SameStacks.putShard (h : SameStacks s t) : (putShard units a bs t).mem = (putShard units a bs s).mem :=
  h.storeResident.mem

end

end Sys2Proof.Proofs

namespace Sys2Proof.Proofs

/-! ### Loads and swaps (R173, R174, R295, R300 to R306) -/

open Sys2Proof.Machine

section
variable {s t u : State} {c : Cmd} {j k : Job} {x : Shard} {o : JobFor} {r : ShardRead} {b : List Byte} {h : Handle}
  {id a i op : ℕ}

/-! Jobs. -/

theorem jobFor_owner (hj : jobFor s o = some j) : j.owner = o := by simpa using List.find?_some hj

/-- The job of an owner, where a change touches the jobs of that owner alone and keeps the owner. -/
theorem jobFor_map {g : Job → Job} (hg : ∀ k, (g k).owner = k.owner) (hj : jobFor s o = some j)
    (ht : t.jobs = s.jobs.map fun k => if k.owner = o then g k else k) : jobFor t o = some (g j) := by
  have hkeeps : ∀ k : Job, ((if k.owner = o then g k else k).owner == o) = (k.owner == o) := fun k => by
    split
    · rw [hg]
    · rfl
  rw [jobFor, ht, find?_map_of_same hkeeps]
  refine (congrArg _ hj).trans ?_
  exact congrArg some (if_pos (jobFor_owner hj))

theorem jobFor_setJob {g : Job → Job} (hg : ∀ k, (g k).owner = k.owner) (hj : jobFor s o = some j) :
    jobFor (setJob o g s) o = some (g j) := jobFor_map hg hj rfl

theorem setJob_id : setJob o (fun k => k) s = s := by simp [setJob]

theorem setJob_setJob {f g : Job → Job} (hf : ∀ k, (f k).owner = k.owner) :
    setJob o g (setJob o f s) = setJob o (fun k => g (f k)) s := by
  unfold setJob
  dsimp only
  rw [List.map_map]
  refine congrArg (fun l => { s with jobs := l }) (List.map_congr_left fun k _ => ?_)
  rw [Function.comp_apply]
  by_cases ho : k.owner = o
  · rw [if_pos ho, if_pos ((hf k).trans ho), if_pos ho]
  · rw [if_neg ho, if_neg ho, if_neg ho]

/-- With every load and swap owned, none goes. -/
theorem dropOrphans_owned (hown : Spec.owned s) : dropOrphans s = s := by
  unfold dropOrphans
  dsimp only
  rw [List.filter_eq_nil_iff.2 fun j hj => ?_]
  · rfl
  · cases howner : j.owner with
    | preload n => simp
    | cmd n =>
      obtain horphan | hcmd := hown j hj n howner
      · simp [horphan]
      · simp [Option.isSome_iff_ne_none.1 hcmd]

theorem owned_map {g : Job → Job} (hown : Spec.owned s) (hg : ∀ k, (g k).owner = k.owner ∧ (g k).orphan = k.orphan)
    (ht : t.jobs = s.jobs.map fun k => if k.owner = o then g k else k) (hcmds : t.cmds = s.cmds) : Spec.owned t := by
  intro k hk n howner
  rw [ht] at hk
  obtain ⟨i, hi, rfl⟩ := List.mem_map.1 hk
  rw [cmdOf, hcmds]
  by_cases ho : i.owner = o
  · rw [if_pos ho] at howner ⊢
    rw [(hg i).1] at howner
    rw [(hg i).2]
    exact hown i hi n howner
  · rw [if_neg ho] at howner ⊢
    exact hown i hi n howner

/-! The read of a shard begins. -/

/-- The read of a shard begins, from a slot. -/
theorem fetchShard_slot (hj : jobFor s (.cmd id) = some j) (hslot : (jobSlot j).isSome = true)
    (hshard : jobShard s j = some (i, x)) : fetchShard (.cmd id) a s =
      setJob (.cmd id) (fun k => { k with page := x.offset / 16384, buf := [], attempt := a }) s := by
  unfold fetchShard
  rw [hj]
  dsimp only
  rw [hshard]
  dsimp only
  rw [if_neg (by simpa using Option.isSome_iff_ne_none.1 hslot)]

/-- A job about to read from a slot: only its place of reading changes. -/
def Rereads (g : Job → Job) : Prop := ∀ k, ∃ p l m, g k = { k with page := p, buf := l, attempt := m }

theorem fetchShard_rereads (hj : jobFor s (.cmd id) = some j) (hslot : (jobSlot j).isSome = true) :
    ∃ g, fetchShard (.cmd id) a s = setJob (.cmd id) g s ∧ Rereads g := by
  cases hshard : jobShard s j with
  | none =>
    refine ⟨fun k => k, ?_, fun k => ⟨_, _, _, rfl⟩⟩
    unfold fetchShard
    rw [hj]
    dsimp only
    rw [hshard, setJob_id]
  | some y => exact ⟨_, fetchShard_slot hj hslot hshard, fun k => ⟨_, _, _, rfl⟩⟩

theorem shardFailed_frame {m l : ℕ} : shardFailed j m i l s =
    { s with hif := (shardFailed j m i l s).hif, evc := (shardFailed j m i l s).evc } := by
  unfold shardFailed
  rw [logErr_frame]

/-! MODEL_LOAD and MODEL_SWAP open their image (R173, R174). -/

theorem awaited_full (hfull : s.bsc.stage = .full) : awaited s h = false := by
  unfold awaited
  rw [hfull]
  rfl

/-- At FULL the checks of a load or swap that pass leave everything as it was. -/
theorem admitCmd_load (hc : cmdOf s id = some c) (hop : c.op = 0x10 ∨ c.op = 0x11) (hphase : c.phase = .waiting)
    (hfull : s.bsc.stage = .full) (hearly : ∀ x ∈ s.cmds, x.id = id → x.early = false) (hblocked : blocked s c = false)
    (hreserving : s.ens.reserving = []) (hhandle : handleCheck s c = none) (hcontext : contextCheck s c = none)
    (hbody : bodyCheck s c = none) (hfail : s.flc.fail = false) : admitCmd id s = s := by
  have hnotEarly : ∀ x ∈ s.cmds, x.id = id → ({ x with early := false } : Cmd) = x := fun x hx hid => by
    rw [← hearly x hx hid]
  have hsame : setCmd id (fun x => { x with early := false }) s = s :=
    (setCmd_congr (g := fun x => x) hnotEarly).trans setCmd_self
  unfold admitCmd
  rw [hc]
  dsimp only
  rw [if_neg (by simp [hphase, hblocked, hreserving]), hfull]
  have hearly' : (Stage.full != Stage.full && earlyServed c.op && servedNow s c) = false := rfl
  rw [hearly', hsame, hnotEarly c (List.mem_of_find?_eq_some hc) (cmdOf_id hc)]
  have hjudged : unjudged s c = false := by simp [unjudged, awaited_full hfull]
  rw [hjudged, if_neg Bool.false_ne_true, hhandle, hcontext, hbody]
  rw [show firstBad [none, none, none] = none from rfl]
  dsimp only
  rw [if_pos hop, if_neg (by simp [hfail])]

theorem bitAt_eq_getLsbD (hi : i < 8) : bitAt a i = (BitVec.ofNat 8 a).getLsbD i := by
  rw [BitVec.getLsbD_ofNat, decide_eq_true hi, Bool.true_and, Nat.testBit_eq_decide_div_mod_eq, bitAt]
  exact Bool.beq_eq_decide_eq _ _

/-- The row of MODEL_LOAD, and that of MODEL_SWAP. -/
theorem exec_loadRow {row : ℕ × (ℕ → Instr)} (hrow : row ∈ [(0x10, Instr.modelLoad), (0x11, Instr.modelSwap)])
    (hp : s.porst = false) (hc : cmdOf s id = some c) (hop : c.op = row.1) :
    exec (row.2 id) s = .next (dropOrphans (openImage id s)) := by
  have hsome : (cmdOf s id).map (·.op) = some row.1 := by rw [hc, ← hop]; rfl
  simp only [List.mem_cons, List.not_mem_nil, or_false] at hrow
  obtain rfl | rfl := hrow
  · exact (live_of hp).trans (congrArg _ (if_pos hsome))
  · exact (live_of hp).trans (congrArg _ (if_pos hsome))

/-- The job of a load or swap whose image opens (R173, R174). -/
def openedJob (c : Cmd) (slot : Option (Fin 32)) (addr len : ℕ) : Job :=
  newJob (.cmd c.id) c.handle c.part (c.op == 0x11) slot addr len (c.field 40 8)
    (c.op == 0x10 && (BitVec.ofNat 8 (c.byte 18)).getLsbD 0) ((BitVec.ofNat 8 (c.byte 18)).getLsbD 1)

/-- An image in a slot is opened, or there is none. -/
def slotOpened (c : Cmd) (n : Fin 32) (s : State) : State :=
  if slotState s n ≠ 2 then
    refuse c.id 0x33 (c.model + 0x100 * if slotState s n = 4 ∨ slotState s n = 5 then 5 else 6) s
  else { s with jobs := s.jobs ++ [openedJob c (some n) 0 s.nand.slots[n].len] }

/-- What the opening of an image does once the checks have passed. -/
def imageOpened (c : Cmd) (s : State) : State :=
  if c.byte 16 = 1 then slotOpened c (Fin.ofNat 32 (c.byte 17)) s
  else if c.field 32 4 < 256 then refuse c.id 0x33 (c.model + 0x600) s
  else want c.id (c.field 24 8) 256 { s with jobs := s.jobs ++ [openedJob c none (c.field 24 8) (c.field 32 4)] }

theorem openImage_eq (hc : cmdOf s c.id = some c) (hphase : c.phase = .waiting) (hjobs : s.jobs = [])
    (hblocked : blocked s c = false) (hpaused : paused s = false) (hadmit : admitCmd c.id s = s) :
    openImage c.id s = imageOpened c s := by
  have hnojob : jobFor s (.cmd c.id) = none := by rw [jobFor, hjobs]; rfl
  unfold openImage
  rw [if_neg (by rw [hnojob]; exact nofun), hadmit]
  dsimp only
  rw [hc]
  dsimp only
  rw [if_neg (by simp [hphase, hblocked, hpaused, hnojob]), bitAt_eq_getLsbD (by decide), bitAt_eq_getLsbD (by decide)]
  rfl

/-- A job whose command stands in the table is no orphan. -/
theorem dropOrphans_cmd (hc : (cmdOf s id).isSome = true) (howner : j.owner = .cmd id) (hjobs : s.jobs = [j]) :
    dropOrphans s = s := by
  refine dropOrphans_owned fun k hk n hn => ?_
  rw [hjobs, List.mem_singleton] at hk
  subst hk
  rw [howner] at hn
  exact .inr (JobFor.cmd.inj hn ▸ hc)

theorem imageOpened_slot {n : Fin 32} (hslot : c.byte 16 = 1) (hn : c.byte 17 = n.val) :
    imageOpened c s = slotOpened c n s := by
  have hfin : (Fin.ofNat 32 (c.byte 17) : Fin 32) = n := by rw [hn]; exact Fin.ext (Nat.mod_eq_of_lt n.isLt)
  unfold imageOpened
  rw [if_pos hslot, hfin]

theorem slotOpened_written {n : Fin 32} (hc : cmdOf s c.id = some c) (hjobs : s.jobs = []) (hst : slotState s n = 2) :
    dropOrphans (slotOpened c n s) = { s with jobs := [openedJob c (some n) 0 s.nand.slots[n].len] } := by
  have hopen : slotOpened c n s = { s with jobs := [openedJob c (some n) 0 s.nand.slots[n].len] } := by
    unfold slotOpened
    rw [if_neg (not_not_intro hst), hjobs]
    rfl
  rw [hopen]
  exact dropOrphans_cmd (id := c.id) (j := openedJob c (some n) 0 s.nand.slots[n].len)
    (s := { s with jobs := [openedJob c (some n) 0 s.nand.slots[n].len] }) (Option.isSome_iff_exists.2 ⟨c, hc⟩) rfl rfl

theorem refuse_jobs {status detail : ℕ} : (refuse id status detail s).jobs = s.jobs := by
  have hsent : Sends s (releasePeers id s) := Sends.refl.releasePeers
  unfold refuse
  dsimp only
  rw [Completes.finish .refl, hsent.frame]

theorem slotOpened_unwritten {n : Fin 32} (hc : cmdOf s c.id = some c) (hsilent : c.silent = false) (hmute : muted s = false)
    (hearly : s.bsc.early = false) (hjobs : s.jobs = []) (hop : c.op ≠ 0x21) (hst : slotState s n ≠ 2) :
    Spec.done s (dropOrphans (slotOpened c n s)) c 0x33
      ((c.model + 0x100 * if slotState s n = 4 ∨ slotState s n = 5 then 5 else 6) % 65536) (List.replicate 16 0) := by
  have hdone := refuse_done (status := 0x33)
    (detail := c.model + 0x100 * if slotState s n = 4 ∨ slotState s n = 5 then 5 else 6) hc hsilent hmute hearly
  rw [if_neg hop] at hdone
  unfold slotOpened
  rw [if_pos hst, dropOrphans_of_none (refuse_jobs.trans hjobs)]
  exact hdone

theorem imageOpened_host (hjobs : s.jobs = []) (hslot : c.byte 16 ≠ 1) (hlen : 256 ≤ c.field 32 4) : imageOpened c s =
    want c.id (c.field 24 8) 256 { s with jobs := [openedJob c none (c.field 24 8) (c.field 32 4)] } := by
  unfold imageOpened
  rw [if_neg hslot, if_neg (by omega), hjobs]
  rfl

/-! SWAP_VERIFY_END (R300, R301). -/

theorem exec_swapVerifyEnd (hp : s.porst = false) : exec .swapVerifyEnd s = .next (swapVerifyEnd s) := live_of hp

/-- What a shard of the new image leaves behind concerns neither the number of the device nor its place among stages. -/
theorem corruptDetail_verified {l : ℕ} : corruptDetail (verified j i x r s) l = corruptDetail s l := by
  unfold verified
  split
  · rfl
  · unfold corruptDetail
    rw [show deviceNo (setJob j.owner _ (shardFailed j j.hdr.modelId i x.layer s)) =
      deviceNo (shardFailed j j.hdr.modelId i x.layer s) from rfl, shardFailed_frame]
    rfl

/-- The swap goes on to its write phase. -/
def toWrite (k : Job) : Job := { k with stage := .write, shard := 0, done := 0, got := none }

theorem swapVerifyEnd_good (hat : swapAt s .verify = some (j, .good b)) (hx : j.shards[j.shard]? = some x)
    (hplan : isPlan j.tensors j.shard = false) :
    swapVerifyEnd s = setJob j.owner toWrite (verified j j.shard x (.good b) s) := by
  unfold swapVerifyEnd
  rw [hat]
  dsimp only
  rw [hx]
  dsimp only
  rw [hplan]
  rfl

theorem swapVerifyEnd_bad (hat : swapAt s .verify = some (j, r)) (hx : j.shards[j.shard]? = some x) (hbad : Spec.isBad r) :
    swapVerifyEnd s = if endsJob j x r then
        jobFail j.owner 0x41 (corruptDetail s x.layer) false (verified j j.shard x r s)
      else setJob j.owner toWrite (verified j j.shard x r s) := by
  rw [← corruptDetail_verified (j := j) (x := x) (r := r) (i := j.shard)]
  unfold swapVerifyEnd
  rw [hat]
  dsimp only
  rw [hx]
  obtain rfl | rfl := hbad
  · rfl
  · rfl

/-! SWAP_WRITE_START (R302). -/

theorem exec_swapWriteStart (hp : s.porst = false) : exec .swapWriteStart s = .next (dropOrphans (swapWriteStart s)) :=
  live_of (f := fun s => dropOrphans (swapWriteStart s)) hp

theorem swapWriteStart_begins (hj : s.jobs.find? (fun j => j.swap && j.stage == .write) = some j)
    (hpass : passOf s (.handle j.h) = none) (hbarrier : s.models[j.h].barrier = false) : swapWriteStart s =
      fetchShard j.owner 0 (syncHolds (ofHandle j.h) (setModel j.h (fun m => { m with barrier := true }) s)) := by
  unfold swapWriteStart
  rw [hj]
  dsimp only
  rw [if_neg (by rw [hpass, hbarrier]; exact nofun)]
  rfl

theorem swapWriteStart_waits (hj : s.jobs.find? (fun j => j.swap && j.stage == .write) = some j)
    (hpass : passOf s (.handle j.h) ≠ none) : swapWriteStart s = s := by
  unfold swapWriteStart
  rw [hj]
  exact if_pos (by simp [Option.isSome_iff_ne_none.2 hpass])

/-! SWAP_SHARD_WRITTEN (R303, R304). -/

theorem exec_swapShardWritten (hp : s.porst = false) : exec .swapShardWritten s = .next (dropOrphans (swapShard s)) :=
  live_of (f := fun s => dropOrphans (swapShard s)) hp

theorem reports_frame {m : ℕ} : ∃ e, (List.range m).foldl (fun s _ => report 35 s) s = { s with evc := e } := by
  induction List.range m generalizing s with
  | nil => exact ⟨_, rfl⟩
  | cons _ l ih =>
    obtain ⟨e, he⟩ := ih (s := report 35 s)
    exact ⟨e, he⟩

/-- What the job of a swap says once a shard stands in its place. -/
def placed (j : Job) (b : List Byte) (k : Job) : Job :=
  { k with shard := j.shard + 1, written := j.shard + 1, got := none, done := k.done + b.length }

/-- A shard stands in its place in resident space, and the front has moved. -/
def shardPut (j : Job) (i : ℕ) (b : List Byte) (s : State) : State :=
  setModel j.h (fun m => { m with front := frontOf j (j.shard + 1) })
    (putShard (s.models[j.h].units ++ j.units) (shardPlace j.tensors j.shards i) b s)

theorem shardPut_kept : (shardPut j i b s).jobs = s.jobs ∧ (shardPut j i b s).cmds = s.cmds ∧
    (shardPut j i b s).models[j.h] = { s.models[j.h] with front := frontOf j (j.shard + 1) } ∧
    (shardPut j i b s).mem = (putShard (s.models[j.h].units ++ j.units) (shardPlace j.tensors j.shards i) b s).mem := by
  have hput : Stores s (putShard (s.models[j.h].units ++ j.units) (shardPlace j.tensors j.shards i) b s) := stores_putShard
  unfold shardPut
  refine ⟨?_, ?_, ?_, rfl⟩
  · rw [setModel_jobs, hput]
  · rw [setModel_cmds, hput]
  · rw [models_setModel, hput]

/-- A shard that is not the last is put in its place, and the next is read from the slot. -/
theorem swapPut_more (howner : j.owner = .cmd id) (hk : jobFor s j.owner = some k) (hslot : k.slot.isSome = true)
    (hstage : k.stage = .write) (hmore : j.shard + 1 < j.shards.length) : ∃ g e, Rereads g ∧
      swapPut j i b s = setJob j.owner (fun k => g (placed j b k)) { shardPut j i b s with evc := e } := by
  obtain ⟨hjobs, -⟩ := shardPut_kept (j := j) (i := i) (b := b) (s := s)
  obtain ⟨e, he⟩ := reports_frame (s := shardPut j i b s) (m := frontOf j (j.shard + 1) -
    (putShard (s.models[j.h].units ++ j.units) (shardPlace j.tensors j.shards i) b s).models[j.h].front)
  have hswap : swapPut j i b s = fetchShard j.owner 0 (setJob j.owner (placed j b) { shardPut j i b s with evc := e }) := by
    rw [← he]
    exact if_pos hmore
  have hk' : jobFor (setJob j.owner (placed j b) { shardPut j i b s with evc := e }) j.owner = some (placed j b k) :=
    jobFor_setJob (fun _ => rfl) ((congrArg (fun l => l.find? (·.owner == j.owner)) hjobs).trans hk)
  rw [howner] at hswap hk' ⊢
  rw [hswap]
  obtain ⟨g, hfetch, hreads⟩ := fetchShard_rereads (a := 0) hk'
    (by rw [jobSlot, if_neg (by simp [placed, hstage])]; exact hslot)
  exact ⟨g, e, hreads, hfetch.trans (setJob_setJob fun _ => rfl)⟩

theorem Rereads.keeps {g : Job → Job} (hg : Rereads g) : (g k).owner = k.owner ∧ (g k).orphan = k.orphan ∧
    (g k).shard = k.shard ∧ (g k).done = k.done ∧ (g k).got = k.got ∧ (g k).bad = k.bad ∧ (g k).stage = k.stage ∧
    (g k).failedAt = k.failedAt := by
  obtain ⟨p, l, m, h⟩ := hg k
  rw [h]
  exact ⟨rfl, rfl, rfl, rfl, rfl, rfl, rfl, rfl⟩

/-- Where every load and swap is owned, the write of a shard that is not the last ends none. -/
theorem dropOrphans_swapPut (hown : Spec.owned s) (howner : j.owner = .cmd id) (hk : jobFor s j.owner = some k)
    (hslot : k.slot.isSome = true) (hstage : k.stage = .write) (hmore : j.shard + 1 < j.shards.length) :
    ∃ g, Rereads g ∧ jobFor (dropOrphans (swapPut j i b s)) j.owner = some (g (placed j b k)) ∧
      (dropOrphans (swapPut j i b s)).mem =
        (putShard (s.models[j.h].units ++ j.units) (shardPlace j.tensors j.shards i) b s).mem ∧
      (dropOrphans (swapPut j i b s)).models[j.h] = { s.models[j.h] with front := frontOf j (j.shard + 1) } := by
  obtain ⟨hjobs, hcmds, hmodels, hmem⟩ := shardPut_kept (j := j) (i := i) (b := b) (s := s)
  obtain ⟨g, e, hreads, hput⟩ := swapPut_more (i := i) (b := b) howner hk hslot hstage hmore
  have hkept : ∀ k, (g (placed j b k)).owner = k.owner ∧ (g (placed j b k)).orphan = k.orphan := fun k => by
    obtain ⟨ho, hr, -⟩ := hreads.keeps (k := placed j b k)
    exact ⟨ho, hr⟩
  have hjobs' : (swapPut j i b s).jobs = s.jobs.map fun k => if k.owner = j.owner then g (placed j b k) else k := by
    rw [hput, ← hjobs]
    rfl
  rw [dropOrphans_owned (owned_map hown hkept hjobs' (by rw [hput]; exact hcmds))]
  refine ⟨g, hreads, jobFor_map (g := fun k => g (placed j b k)) (fun k => (hkept k).1) hk hjobs', ?_, ?_⟩
  · rw [hput]
    exact hmem
  · rw [hput]
    exact hmodels

theorem swapShard_good (hat : swapAt s .write = some (j, .good b)) (hi : (writeOrder j.shards)[j.shard]? = some i)
    (hx : j.shards[i]? = some x) : swapShard s = swapPut j i b s := by
  unfold swapShard
  rw [hat]
  dsimp only
  rw [hi]
  dsimp only
  rw [hx]

/-- A layer is bad. -/
def addBad (l : ℕ) (k : Job) : Job := { k with bad := (k.bad ++ [l]).dedup }

/-- The first failure of the write phase is remembered, with the front of that instant. -/
def failedHere (front : ℕ) (x : Shard) (k : Job) : Job :=
  { k with failedAt := k.failedAt.or (some x.layer), frontAt := if k.failedAt.isNone then front else k.frontAt }

/-- The old shards are to be read back. -/
def toRevert (k : Job) : Job := { k with stage := .revert, shard := 0, got := none, bad := [], done := 0 }

/-- Zeros take the place of a failed shard, and its layer is bad. -/
def zeroed (j : Job) (i : ℕ) (x : Shard) (s : State) : State :=
  swapPut ((jobFor s j.owner).getD j) i (zeros x.length) (setJob j.owner (addBad (badLayerOf x.layer)) s)

theorem swapShard_bad (hat : swapAt s .write = some (j, r)) (hi : (writeOrder j.shards)[j.shard]? = some i)
    (hx : j.shards[i]? = some x) (hbad : Spec.isBad r) : swapShard s =
      let u := shardFailed j j.hdr.modelId i x.layer s
      let w := setJob j.owner (failedHere s.models[j.h].front x) u
      if j.degraded && x.layer != 0xFFFF then zeroed j i x u
      else if j.revSlot.isSome then fetchShard j.owner 0 (setJob j.owner toRevert w)
      else zeroed j i x w := by
  unfold swapShard
  rw [hat]
  dsimp only
  rw [hi]
  dsimp only
  rw [hx]
  obtain rfl | rfl := hbad
  · rfl
  · rfl

theorem setJob_owned {g : Job → Job} (hown : Spec.owned s)
    (hg : ∀ k, (g k).owner = k.owner ∧ (g k).orphan = k.orphan) : Spec.owned (setJob o g s) := owned_map hown hg rfl rfl

/-- A shard's failure is written down, and what `g` says of it is in the job. -/
theorem zeroed_more {g : Job → Job} (hown : Spec.owned s) (howner : j.owner = .cmd id) (hj : jobFor s j.owner = some j)
    (hslot : j.slot.isSome = true) (hstage : j.stage = .write) (hmore : j.shard + 1 < j.shards.length)
    (hg : ∀ k, ∃ p q, g k = { k with failedAt := p, frontAt := q })
    (hu : u = { s with hif := u.hif, evc := u.evc, jobs := s.jobs.map fun k => if k.owner = j.owner then g k else k }) :
    ∃ k, jobFor (dropOrphans (zeroed j i x u)) j.owner = some k ∧ k.shard = j.shard + 1 ∧ badLayerOf x.layer ∈ k.bad ∧
      (dropOrphans (zeroed j i x u)).mem = (putShard (s.models[j.h].units ++ j.units) (shardPlace j.tensors j.shards i)
        (List.replicate x.length 0) s).mem := by
  have hkept : ∀ k, (g k).owner = k.owner ∧ (g k).orphan = k.orphan := fun k => by
    obtain ⟨p, q, h⟩ := hg k
    rw [h]
    exact ⟨rfl, rfl⟩
  have hjobs : u.jobs = s.jobs.map fun k => if k.owner = j.owner then g k else k := by rw [hu]
  have hju : jobFor u j.owner = some (g j) := jobFor_map (fun k => (hkept k).1) hj hjobs
  have hownu : Spec.owned (setJob j.owner (addBad (badLayerOf x.layer)) u) :=
    setJob_owned (owned_map hown hkept hjobs (by rw [hu])) fun _ => ⟨rfl, rfl⟩
  have hsame : SameStacks s (setJob j.owner (addBad (badLayerOf x.layer)) u) := by
    rw [hu]
    exact ⟨rfl, rfl, fun _ => rfl⟩
  have hmodels : (setJob j.owner (addBad (badLayerOf x.layer)) u).models = s.models := by rw [hu]; rfl
  have hbad : jobFor (setJob j.owner (addBad (badLayerOf x.layer)) u) j.owner = some (addBad (badLayerOf x.layer) (g j)) :=
    jobFor_setJob (fun _ => rfl) hju
  obtain ⟨p, q, hgj⟩ := hg j
  unfold zeroed
  rw [hju, Option.getD_some]
  rw [hgj] at hbad ⊢
  obtain ⟨f, hreads, hjob, hmem, -⟩ := dropOrphans_swapPut (j := { j with failedAt := p, frontAt := q }) (i := i)
    (b := zeros x.length) hownu howner hbad hslot hstage hmore
  obtain ⟨-, -, hshard, -, -, hbads, -⟩ := hreads.keeps
    (k := placed { j with failedAt := p, frontAt := q } (zeros x.length)
      (addBad (badLayerOf x.layer) { j with failedAt := p, frontAt := q }))
  refine ⟨_, hjob, hshard, ?_, ?_⟩
  · rw [hbads]
    exact List.mem_dedup.2 (List.mem_append_right _ (List.mem_singleton_self _))
  · rw [hmem, hsame.putShard, hmodels]
    rfl

/-- The writing stops, and the old shards are read from the reversion source. -/
theorem dropOrphans_revert {g : Job → Job} (hown : Spec.owned s) (howner : j.owner = .cmd id) (hj : jobFor s j.owner = some j)
    (hsource : j.revSlot.isSome = true) (hg : ∀ k, (g k).owner = k.owner ∧ (g k).orphan = k.orphan)
    (hrev : (g j).revSlot = j.revSlot)
    (hu : u = { s with hif := u.hif, evc := u.evc, jobs := s.jobs.map fun k => if k.owner = j.owner then g k else k }) :
    ∃ f, Rereads f ∧ jobFor (dropOrphans (fetchShard j.owner 0 (setJob j.owner toRevert u))) j.owner =
        some (f (toRevert (g j))) ∧
      (dropOrphans (fetchShard j.owner 0 (setJob j.owner toRevert u))).mem = s.mem ∧
      (dropOrphans (fetchShard j.owner 0 (setJob j.owner toRevert u))).models = s.models := by
  have hjobs : u.jobs = s.jobs.map fun k => if k.owner = j.owner then g k else k := by rw [hu]
  have hju : jobFor u j.owner = some (g j) := jobFor_map (fun k => (hg k).1) hj hjobs
  have hback : jobFor (setJob j.owner toRevert u) j.owner = some (toRevert (g j)) := jobFor_setJob (fun _ => rfl) hju
  have hownu : Spec.owned (setJob j.owner toRevert u) :=
    setJob_owned (owned_map hown hg hjobs (by rw [hu])) fun _ => ⟨rfl, rfl⟩
  have hslot : (jobSlot (toRevert (g j))).isSome = true := by
    rw [show jobSlot (toRevert (g j)) = (g j).revSlot from rfl, hrev]
    exact hsource
  rw [howner] at hback hownu ⊢
  obtain ⟨f, hfetch, hreads⟩ := fetchShard_rereads (a := 0) hback hslot
  have hkept : ∀ k, (f k).owner = k.owner ∧ (f k).orphan = k.orphan := fun k => by
    obtain ⟨ho, hr, -⟩ := hreads.keeps (k := k)
    exact ⟨ho, hr⟩
  rw [hfetch, dropOrphans_owned (setJob_owned hownu hkept)]
  refine ⟨f, hreads, jobFor_setJob (fun k => (hkept k).1) hback, ?_, ?_⟩
  · rw [hu]
    rfl
  · rw [hu]
    rfl

theorem failed_frame {g : Job → Job} : setJob j.owner g (shardFailed j j.hdr.modelId i x.layer s) =
    { s with
      hif := (setJob j.owner g (shardFailed j j.hdr.modelId i x.layer s)).hif
      evc := (setJob j.owner g (shardFailed j j.hdr.modelId i x.layer s)).evc
      jobs := s.jobs.map fun k => if k.owner = j.owner then g k else k } := by
  rw [shardFailed_frame]
  rfl

section
variable (hat : swapAt s .write = some (j, r)) (hj : jobFor s j.owner = some j) (hstage : j.stage = .write)
  (hslot : j.slot.isSome = true) (hi : (writeOrder j.shards)[j.shard]? = some i) (hx : j.shards[i]? = some x)
  (hmore : j.shard + 1 < j.shards.length) (hown : Spec.owned s) (howner : j.owner = .cmd id)
include hat hj hi hx hown howner

include hstage hslot hmore in
/-- A good shard is written. -/
theorem swapShard_writes (hgood : r = .good b) : ∃ k, jobFor (dropOrphans (swapShard s)) j.owner = some k ∧
    (dropOrphans (swapShard s)).mem =
      (putShard (s.models[j.h].units ++ j.units) (shardPlace j.tensors j.shards i) b s).mem ∧
    (dropOrphans (swapShard s)).models[j.h] = { s.models[j.h] with front := frontOf j (j.shard + 1) } ∧
    k.shard = j.shard + 1 ∧ k.done = j.done + b.length ∧ k.got = none := by
  subst hgood
  obtain ⟨g, hreads, hjob, hmem, hmodel⟩ := dropOrphans_swapPut (i := i) (b := b) hown howner hj hslot hstage hmore
  obtain ⟨-, -, hshard, hdone, hgot, -⟩ := hreads.keeps (k := placed j b j)
  rw [swapShard_good hat hi hx]
  exact ⟨_, hjob, hmem, hmodel, hshard, hdone, hgot⟩

/-- A failed shard with a source to revert to stops the writing. -/
theorem swapShard_reverts (hbad : Spec.isBad r) (hsource : j.revSlot.isSome = true) (hdeg : j.degraded = false) :
    ∃ k, jobFor (dropOrphans (swapShard s)) j.owner = some k ∧ (dropOrphans (swapShard s)).mem = s.mem ∧
      (dropOrphans (swapShard s)).models = s.models ∧ k.stage = .revert ∧ k.failedAt = j.failedAt.or (some x.layer) := by
  obtain ⟨f, hreads, hjob, hmem, hmodels⟩ := dropOrphans_revert (g := failedHere s.models[j.h].front x) hown howner hj
    hsource (fun _ => ⟨rfl, rfl⟩) rfl (failed_frame (i := i))
  obtain ⟨-, -, -, -, -, -, hrevert, hfail⟩ := hreads.keeps (k := toRevert (failedHere s.models[j.h].front x j))
  rw [swapShard_bad hat hi hx hbad]
  dsimp only
  rw [if_neg (by simp [hdeg]), if_pos hsource]
  exact ⟨_, hjob, hmem, hmodels, hrevert, hfail⟩

include hstage hslot hmore in
/-- A failed shard without one is zeroed. -/
theorem swapShard_zeroes (hbad : Spec.isBad r) (hzero : j.revSlot = none ∨ (j.degraded = true ∧ x.layer ≠ 0xFFFF)) :
    ∃ k, jobFor (dropOrphans (swapShard s)) j.owner = some k ∧ k.shard = j.shard + 1 ∧ badLayerOf x.layer ∈ k.bad ∧
      (dropOrphans (swapShard s)).mem = (putShard (s.models[j.h].units ++ j.units) (shardPlace j.tensors j.shards i)
        (List.replicate x.length 0) s).mem := by
  rw [swapShard_bad hat hi hx hbad]
  dsimp only
  split
  · have hframe := failed_frame (j := j) (i := i) (x := x) (s := s) (g := fun k => k)
    rw [setJob_id] at hframe
    exact zeroed_more (g := fun k => k) hown howner hj hslot hstage hmore (fun _ => ⟨_, _, rfl⟩) hframe
  · next hkeep =>
    have hnone : j.revSlot = none := hzero.resolve_right fun ⟨hdeg, hlayer⟩ => hkeep (by simp [hdeg, hlayer])
    rw [if_neg (by simp [hnone])]
    exact zeroed_more (g := failedHere s.models[j.h].front x) hown howner hj hslot hstage hmore (fun _ => ⟨_, _, rfl⟩)
      failed_frame

end

/-! SWAP_REVERT_END (R304). -/

/-- `t` came from `s` by the ends of commands and the reads that others ask for. -/
def Asks (s t : State) : Prop :=
  t = { s with
    brg := t.brg, bsc := t.bsc, out := t.out, hif := t.hif, objs := t.objs, cmds := t.cmds, ctxs := t.ctxs, early := t.early
    strips := t.strips, evc := t.evc, pwr := t.pwr }

theorem Asks.refl : Asks s s := rfl

theorem Asks.trans (h : Asks s t) (g : Asks t u) : Asks s u := by
  unfold Asks at *
  rw [g, h]

theorem Completes.asks (h : Completes s t) : Asks s t := by
  unfold Asks
  rw [h]

theorem asks_setCmd {f : Cmd → Cmd} : Asks s (setCmd id f s) := rfl

theorem asks_send {m : Msg} : Asks s (send m s) := rfl

theorem asks_sendReads {n : ℕ} : Asks s (sendReads id n s) := by
  induction n generalizing s with
  | zero => exact .refl
  | succ n ih =>
    unfold sendReads
    split
    · exact .refl
    · extract_lets m
      split
      · exact .refl
      · exact (asks_setCmd.trans asks_send).trans ih

theorem asks_request {y : Consumer} {g : Tag} : Asks s (request y g s) := by
  have honly : OnlyLedgers s (request y g s) := onlyLedgers_request
  unfold Asks
  rw [honly]

theorem asks_askInput : Asks s (askInput id s) := by
  unfold askInput
  split
  · exact .refl
  · extract_lets at_
    split
    · exact .refl
    split
    · exact Completes.asks (Completes.failCmd (Completes.logErr .refl))
    split
    · exact .refl
    split
    · exact asks_request
    · exact asks_sendReads

theorem asks_want {len : ℕ} : Asks s (want id a len s) := asks_setCmd.trans asks_askInput

/-- The next swap's verify phase begins without a job more, and without a change of a model. -/
theorem nextVerify_kept : (nextVerify s).models = s.models ∧ ∀ k ∈ (nextVerify s).jobs, ∃ i ∈ s.jobs, i.owner = k.owner := by
  unfold nextVerify
  split
  · exact ⟨rfl, fun k hk => ⟨k, hk, rfl⟩⟩
  · split
    · exact ⟨rfl, fun k hk => ⟨k, hk, rfl⟩⟩
    · next j hj =>
      have howners : ∀ k ∈ (setJob j.owner (fun j => { j with staging := true }) s).jobs, ∃ i ∈ s.jobs, i.owner = k.owner :=
        fun k hk => by
          obtain ⟨i, hi, rfl⟩ := List.mem_map.1 hk
          exact ⟨i, hi, by split <;> rfl⟩
      extract_lets w
      split
      · next n _ =>
        extract_lets w1
        split
        · have hasks : Asks w1 (want n j.addr (tablesLen j.hdr) w1) := asks_want
          rw [hasks]
          exact ⟨rfl, howners⟩
        · exact ⟨rfl, howners⟩
      · exact ⟨rfl, howners⟩

/-- The command of a swap completes, and neither the models nor the jobs change but for the next swap's. -/
theorem swapFinish_kept {status detail : ℕ} : (swapFinish j status detail s).models = s.models ∧
    ∀ k ∈ (swapFinish j status detail s).jobs, ∃ i ∈ s.jobs, i.owner = k.owner := by
  unfold swapFinish
  split
  · next n _ =>
    have hends : Completes s (finish n status detail false (modelPayload s j.h) s) := Completes.finish .refl
    obtain ⟨hmodels, hjobs⟩ := nextVerify_kept (s := finish n status detail false (modelPayload s j.h) s)
    rw [show (finish n status detail false (modelPayload s j.h) s).models = s.models by rw [hends]] at hmodels
    rw [show (finish n status detail false (modelPayload s j.h) s).jobs = s.jobs by rw [hends]] at hjobs
    exact ⟨hmodels, hjobs⟩
  · exact nextVerify_kept

theorem exec_swapRevertEnd (hp : s.porst = false) : exec .swapRevertEnd s = .next (swapRevertEnd s) := live_of hp

theorem swapRevertEnd_early (hj : s.jobs.find? (fun j => j.swap && j.stage == .revert) = some j)
    (hleft : j.shard < (oldShards s j).length) : swapRevertEnd s = s := by
  unfold swapRevertEnd
  rw [hj]
  exact if_pos hleft

/-- The old model stands in the handle again, as good as its layers. -/
def reverted (j : Job) (s : State) : State :=
  liftBarrier j.h (emptyWindow j.h (setModel j.h (fun m => { m with
    st := if (s.models[j.h].badLayers ++ j.bad).dedup = [] then .resident else .degraded
    badLayers := (s.models[j.h].badLayers ++ j.bad).dedup })
    (dropObjs (fun o => o.kind == .model j.h (some j.owner)) { s with jobs := s.jobs.filter (·.owner != j.owner) })))

theorem swapRevertEnd_back (hj : s.jobs.find? (fun j => j.swap && j.stage == .revert) = some j)
    (hdone : (oldShards s j).length ≤ j.shard) : ∃ why status detail, swapRevertEnd s =
      swapFinish j status detail (swapRecord j j.frontAt why (reverted j s)) := by
  unfold swapRevertEnd
  rw [hj]
  dsimp only
  rw [if_neg (by omega)]
  split
  · exact ⟨_, _, _, rfl⟩
  · exact ⟨_, _, _, rfl⟩

theorem reverted_jobs : (reverted j s).jobs = s.jobs.filter (·.owner != j.owner) := rfl

theorem models_emptyWindow : (emptyWindow h s).models[h] = { s.models[h] with plan := [], streamed := 0 } := models_setModel

theorem models_liftBarrier : (liftBarrier h s).models[h] = { s.models[h] with barrier := false, front := 0x7FF } := by
  have hset : (liftBarrier h s).models = (setModel h (fun m => { m with barrier := false, front := 0x7FF }) s).models := rfl
  rw [hset]
  exact models_setModel

theorem reverted_model : (reverted j s).models[j.h].barrier = false ∧ (reverted j s).models[j.h].front = 0x7FF ∧
    (reverted j s).models[j.h].badLayers = (s.models[j.h].badLayers ++ j.bad).dedup ∧
    (reverted j s).models[j.h].st =
      if s.models[j.h].badLayers = [] ∧ j.bad = [] then .resident else .degraded := by
  have hnone : (s.models[j.h].badLayers ++ j.bad).dedup = [] ↔ s.models[j.h].badLayers = [] ∧ j.bad = [] := by
    rw [List.dedup_eq_nil, List.append_eq_nil_iff]
  rw [reverted, models_liftBarrier, models_emptyWindow, models_setModel]
  exact ⟨rfl, rfl, rfl, if_congr hnone rfl rfl⟩

theorem swapRecord_frame {front why : ℕ} : swapRecord j front why s =
    { s with hif := (swapRecord j front why s).hif, evc := (swapRecord j front why s).evc } := by
  unfold swapRecord
  rw [logErr_frame]

theorem swapRevertEnd_kept (hj : s.jobs.find? (fun j => j.swap && j.stage == .revert) = some j)
    (hdone : (oldShards s j).length ≤ j.shard) : (swapRevertEnd s).models = (reverted j s).models ∧
      ∀ k ∈ (swapRevertEnd s).jobs, k.owner ≠ j.owner := by
  obtain ⟨why, status, detail, heq⟩ := swapRevertEnd_back hj hdone
  obtain ⟨hmodels, hjobs⟩ := swapFinish_kept (j := j) (s := swapRecord j j.frontAt why (reverted j s)) (status := status)
    (detail := detail)
  have hrecord : swapRecord j j.frontAt why (reverted j s) = _ := swapRecord_frame
  rw [heq]
  refine ⟨hmodels.trans (by rw [hrecord]), fun k hk => ?_⟩
  obtain ⟨i, hi, howner⟩ := hjobs k hk
  rw [hrecord] at hi
  rw [← howner]
  simpa using (List.mem_filter.1 (reverted_jobs ▸ hi : i ∈ s.jobs.filter (·.owner != j.owner))).2

/-! REPAIR_END (R295). -/

theorem exec_repairEnd (hp : s.porst = false) : exec .repairEnd s = .next (repairEnd s) := live_of hp

/-- A model once the repair of its shard `i` has ended. -/
def repairedModel (i : ℕ) (ok : Bool) (m : Model) : Model :=
  { m with
    repairing := none
    st := if ok ∨ m.st ≠ .resident then m.st else .degraded
    badLayers := if ok then m.badLayers
      else (m.badLayers ++ [badLayerOf (((m.shards[i]?).map (·.layer)).getD 0xFFFF)]).dedup }

/-- The model and the counters once a repair has ended. -/
def repairSettled (h : Handle) (i : ℕ) (ok : Bool) (s : State) : State :=
  { setModel h (repairedModel i ok) s with
    str := { s.str with
      repaired := if ok then satAdd 65535 s.str.repaired 1 else s.str.repaired
      badRepairs := if ok then s.str.badRepairs else satAdd 65535 s.str.badRepairs 1 } }

theorem repairSettled_model {ok : Bool} : (repairSettled h i ok s).models[h] = repairedModel i ok s.models[h] :=
  models_setModel (s := s)

theorem repairDone_eq {ok : Bool} : ∃ r, repairDone h i ok s =
    if ok then syncHandle h (markIdle (logErr r (repairSettled h i ok s)))
    else tellJoin h (syncHandle h (markIdle (logErr r (repairSettled h i ok s)))) := ⟨_, rfl⟩

theorem repairDone_kept {ok : Bool} : (repairDone h i ok s).models = (repairSettled h i ok s).models ∧
    (repairDone h i ok s).str = (repairSettled h i ok s).str ∧ (repairDone h i ok s).mem = s.mem := by
  obtain ⟨r, heq⟩ := repairDone_eq (h := h) (i := i) (ok := ok) (s := s)
  have hlog : logErr r (repairSettled h i ok s) = _ := logErr_frame
  have hsync : syncHandle h (markIdle (logErr r (repairSettled h i ok s))) =
      { logErr r (repairSettled h i ok s) with
        cmds := (syncHandle h (markIdle (logErr r (repairSettled h i ok s)))).cmds
        pwr := (syncHandle h (markIdle (logErr r (repairSettled h i ok s)))).pwr } := rfl
  generalize logErr r (repairSettled h i ok s) = w at heq hlog hsync
  generalize syncHandle h (markIdle w) = v at heq hsync
  have hmodels : v.models = (repairSettled h i ok s).models := by rw [hsync, hlog]
  have hstr : v.str = (repairSettled h i ok s).str := by rw [hsync, hlog]
  have hmem : v.mem = s.mem := by
    rw [hsync, hlog]
    rfl
  rw [heq]
  split
  · exact ⟨hmodels, hstr, hmem⟩
  · have htell : Sends v (tellJoin h v) := tellJoin_sends
    obtain ⟨-, -, -, hsame⟩ := htell.tables
    exact ⟨(show _ = v.models by rw [htell.frame]).trans hmodels, (show _ = v.str by rw [htell.frame]).trans hstr,
      hsame.trans hmem⟩

/-- A repair that could not be made: its layer is bad. -/
theorem repairDone_bad : (repairDone h i false s).models[h].repairing = none ∧
    (s.models[h].st = .resident → (repairDone h i false s).models[h].st = .degraded) ∧
    (repairDone h i false s).models[h].badLayers ≠ [] ∧
    (repairDone h i false s).str.badRepairs = min 65535 (s.str.badRepairs + 1) ∧
    (repairDone h i false s).mem = s.mem := by
  obtain ⟨hmodels, hstr, hmem⟩ := repairDone_kept (h := h) (i := i) (ok := false) (s := s)
  rw [hmodels, hstr, repairSettled_model]
  refine ⟨rfl, fun hst => ?_, fun hnil => ?_, rfl, hmem⟩
  · exact if_neg fun hok => hok.elim Bool.false_ne_true fun hne => hne hst
  · simp [repairedModel, List.dedup_eq_nil] at hnil

/-- A repair that was made. -/
theorem repairDone_good : (repairDone h i true s).models[h] = { s.models[h] with repairing := none } ∧
    (repairDone h i true s).str.repaired = min 65535 (s.str.repaired + 1) := by
  obtain ⟨hmodels, hstr, -⟩ := repairDone_kept (h := h) (i := i) (ok := true) (s := s)
  rw [hmodels, hstr, repairSettled_model]
  exact ⟨by simp [repairedModel], rfl⟩

section
variable {rep : Repair} (hnow : repairNow s = some h) (hrep : s.models[h].repairing = some rep)
include hnow hrep

theorem repairEnd_good {n : Fin 32} (hgot : rep.got = some (.good b)) (hslot : s.models[h].slot = some n)
    (hable : repairable s h = true) : repairEnd s = repairDone h rep.shard true (rewriteBlocks h n rep.shard b s) := by
  unfold repairEnd
  rw [hnow]
  dsimp only
  rw [hrep]
  dsimp only
  rw [hgot, hslot]
  exact if_pos hable

theorem repairEnd_bad (hgot : rep.got = some r) (hbad : Spec.isBad r) : (repairEnd s).models[h].repairing = none ∧
    (s.models[h].st = .resident → (repairEnd s).models[h].st = .degraded) ∧ (repairEnd s).models[h].badLayers ≠ [] ∧
    (repairEnd s).str.badRepairs = min 65535 (s.str.badRepairs + 1) ∧ (repairEnd s).mem = s.mem := by
  have hend : ∃ e, repairEnd s = repairDone h rep.shard false (logErr e s) := by
    unfold repairEnd
    rw [hnow]
    dsimp only
    rw [hrep]
    dsimp only
    rw [hgot]
    obtain rfl | rfl := hbad
    · exact ⟨_, rfl⟩
    · exact ⟨_, rfl⟩
  obtain ⟨e, hend⟩ := hend
  have hlog : logErr e s = _ := logErr_frame
  rw [hend]
  generalize logErr e s = w at hlog
  obtain ⟨hnone, hst, hlayers, hcount, hmem⟩ := repairDone_bad (h := h) (i := rep.shard) (s := w)
  refine ⟨hnone, fun hres => hst (by rw [hlog]; exact hres), hlayers, hcount.trans (by rw [hlog]), hmem.trans ?_⟩
  rw [hlog]

theorem repairEnd_none (hgot : rep.got = none) :
    repairEnd s = if repairable s h then s else repairDone h rep.shard false s := by
  unfold repairEnd
  rw [hnow]
  dsimp only
  rw [hrep]
  dsimp only
  rw [hgot]

end

theorem rewriteBlocks_stores {n : Fin 32} : Stores s (rewriteBlocks h n i b s) := stores_putShard

end

/-- Settles O51: each row by its equation. Where every load and swap is owned, none goes with its command; the write phase rests
on what `swapPut_more` says of a shard, the end of a revert on what `swapFinish_kept` leaves. The repair that ends and the blocks
it rewrites are the model's readings (log entries 79 and 49). -/
theorem loadsAndSwaps : Obligations.LoadsAndSwaps := by
  intro s hp
  refine ⟨fun row hrow id c hc hop hphase hfull hnotEarly hjobs hblocked hreserving hhandle hcontext hbody hfail hpaused hsilent
      hmute hearly => ?_, fun o j i x a hj hslot hshard ho => ?_, fun j r x hat hx hplan => ⟨fun hgo => ?_, fun hbad hends => ?_⟩,
    fun j hj => ⟨fun hpass hbarrier => ?_, fun hpass hown => ?_⟩,
    fun j r i x hat hj hstage hslot hi hx hmore hown hcmd => ?_,
    fun j hj => ⟨fun hleft => ?_, fun hdone => ?_⟩, fun h r hnow hrep => ⟨fun n b hgot hslot hable => ?_, fun hbad => ?_,
    fun hgot hable => ?_⟩⟩
  · obtain rfl := cmdOf_id hc
    have hload : c.op = 0x10 ∨ c.op = 0x11 := by
      simp only [List.mem_cons, List.not_mem_nil, or_false] at hrow
      obtain rfl | rfl := hrow
      · exact .inl hop
      · exact .inr hop
    have hopen := openImage_eq hc hphase hjobs hblocked hpaused
      (admitCmd_load hc hload hphase hfull hnotEarly hblocked hreserving hhandle hcontext hbody hfail)
    rw [exec_loadRow hrow hp hc hop, hopen, ← hop]
    refine ⟨fun n hbyte hn => ?_, fun hbyte hlen => ?_⟩
    · rw [imageOpened_slot hbyte hn]
      refine ⟨fun hst => congrArg _ (slotOpened_written hc hjobs hst), fun hst => ⟨_, rfl, ?_⟩⟩
      exact slotOpened_unwritten hc hsilent hmute hearly hjobs (by omega) hst
    · rw [imageOpened_host hjobs hbyte hlen]
      rfl
  · obtain ⟨n, rfl⟩ := ho
    exact fetchShard_slot hj hslot hshard
  · rw [exec_swapVerifyEnd hp]
    refine congrArg _ ?_
    by_cases hbad : Spec.isBad r
    · rw [swapVerifyEnd_bad hat hx hbad, hgo.resolve_left (not_not_intro hbad)]
      rfl
    · cases r with
      | good b => exact swapVerifyEnd_good hat hx hplan
      | damaged => exact absurd (.inl rfl) hbad
      | transferFailed => exact absurd (.inr rfl) hbad
  · rw [exec_swapVerifyEnd hp, swapVerifyEnd_bad hat hx hbad, if_pos hends]
  · rw [exec_swapWriteStart hp, swapWriteStart_begins hj hpass hbarrier]
  · rw [exec_swapWriteStart hp, swapWriteStart_waits hj hpass, dropOrphans_owned hown]
  · obtain ⟨n, howner⟩ := hcmd
    rw [exec_swapShardWritten hp]
    refine ⟨fun b hgood => ?_, fun hbad hsource hdeg => ?_, fun hbad hzero => ?_⟩
    · obtain ⟨k, hjob, hmem, hmodel, hrest⟩ := swapShard_writes hat hj hstage hslot hi hx hmore hown howner hgood
      exact ⟨_, k, rfl, hmem, hmodel, hjob, hrest⟩
    · obtain ⟨k, hjob, hmem, hmodels, hrest⟩ := swapShard_reverts hat hj hi hx hown howner hbad hsource hdeg
      exact ⟨_, k, rfl, hmem, hmodels, hjob, hrest⟩
    · obtain ⟨k, hjob, hshard, hlayer, hmem⟩ :=
        swapShard_zeroes hat hj hstage hslot hi hx hmore hown howner hbad hzero
      exact ⟨_, k, rfl, hmem, hjob, hshard, hlayer⟩
  · rw [exec_swapRevertEnd hp, swapRevertEnd_early hj hleft]
  · obtain ⟨hmodels, hjobs⟩ := swapRevertEnd_kept hj hdone
    obtain ⟨hbarrier, hfront, hlayers, hst⟩ := reverted_model (j := j) (s := s)
    refine ⟨_, exec_swapRevertEnd hp, hjobs, ?_⟩
    rw [hmodels]
    exact ⟨hbarrier, hfront, hlayers, hst⟩
  · obtain ⟨hmodel, hcount⟩ := repairDone_good (h := h) (i := r.shard) (s := rewriteBlocks h n r.shard b s)
    obtain ⟨-, -, hmem⟩ := repairDone_kept (h := h) (i := r.shard) (ok := true) (s := rewriteBlocks h n r.shard b s)
    have hput : Stores s (rewriteBlocks h n r.shard b s) := rewriteBlocks_stores
    refine ⟨_, exec_repairEnd hp, ?_⟩
    rw [repairEnd_good hnow hrep hgot hslot hable]
    exact ⟨hmodel.trans (by rw [hput]), hcount.trans (by rw [hput]), hmem⟩
  · obtain ⟨g, hgot, hbad⟩ | ⟨hgot, hable⟩ := hbad
    · exact ⟨_, exec_repairEnd hp, repairEnd_bad hnow hrep hgot hbad⟩
    · rw [exec_repairEnd hp, repairEnd_none hnow hrep hgot, if_neg (by simp [hable])]
      exact ⟨_, rfl, repairDone_bad⟩
  · rw [exec_repairEnd hp, repairEnd_none hnow hrep hgot, if_pos hable]

end Sys2Proof.Proofs

namespace Sys2Proof.Proofs

/-! ### The event controller (R221 to R233) -/

open Sys2Proof.Machine

section
variable {s : State} {m n : Source} {v : Word} {half : Fin 2} {f : State → State} {i : Fin 2}

/-! The bits of a source, of a half and of the latches. -/

theorem getLsbD_bit64 : (bit64 n).getLsbD m = decide (m = n) := by
  rw [bit64, BitVec.getLsbD_ofNat, Nat.testBit_two_pow, decide_eq_true m.isLt, Bool.true_and]
  exact decide_eq_decide.2 ⟨fun h => Fin.ext h.symm, fun h => congrArg Fin.val h.symm⟩

theorem getLsbD_clear {b : BitVec 64} : (b &&& ~~~bit64 n).getLsbD m = (b.getLsbD m && decide (m ≠ n)) := by
  rw [BitVec.getLsbD_and, BitVec.getLsbD_not, getLsbD_bit64, decide_eq_true m.isLt, Bool.true_and, decide_not]

/-- Bit `n` of a 64-bit register is bit `n % 32` of the word written to its half `n / 32`. -/
theorem getLsbD_halfMask : (halfMask half v).getLsbD n = (decide (n.val / 32 = half.val) && v.getLsbD (n.val % 32)) := by
  have hn := n.isLt
  have hhalf := half.isLt
  rw [halfMask, BitVec.getLsbD_ofNat, decide_eq_true hn, Bool.true_and, Nat.testBit_mul_two_pow, BitVec.testBit_toNat]
  by_cases h : n.val / 32 = half.val
  · rw [decide_eq_true (show 32 * half.val ≤ n.val by omega), decide_eq_true h,
      show n.val - 32 * half.val = n.val % 32 by omega]
  · rw [decide_eq_false h, Bool.false_and, Bool.and_eq_false_iff, decide_eq_false_iff_not]
    by_cases hle : 32 * half.val ≤ n.val
    · exact .inr (BitVec.getLsbD_of_ge _ _ (by omega))
    · exact .inl hle

/-! The lowest source of a condition (R224). -/

theorem find?_source_none {p : Source → Bool} (h : ∀ n, p n = false) :
    ((List.range 64).map (Fin.ofNat 64)).find? p = none :=
  List.find?_eq_none.2 fun n _ => ne_true_of_eq_false (h n)

theorem find?_source_lowest {p : Source → Bool} (hn : p n = true) (hlow : ∀ m, m < n → p m = false) :
    ((List.range 64).map (Fin.ofNat 64)).find? p = some n := by
  have hself (k : Source) : Fin.ofNat 64 k.val = k := Fin.ext (Nat.mod_eq_of_lt k.isLt)
  have hfirst : (List.range 64).find? (p ∘ Fin.ofNat 64) = some n.val := by
    refine List.find?_range_eq_some.2 ⟨?_, List.mem_range.2 n.isLt, fun j hj => ?_⟩
    · rw [Function.comp_apply, hself, hn]
    · have hsource := hlow ⟨j, hj.trans n.isLt⟩ hj
      rw [← hself ⟨j, _⟩] at hsource
      rw [Function.comp_apply, hsource]
      rfl
  rw [List.find?_map, hfirst, Option.map_some, hself]

theorem firstDue_lowest (hn : due s n = true) (hlow : ∀ m, m < n → due s m = false) : firstDue s = some n :=
  find?_source_lowest hn hlow

theorem firstDue_none (h : ∀ n, due s n = false) : firstDue s = none := find?_source_none h

theorem due_claimMode (h : s.evc.claimMode = true) : due s n = false := by simp [due, h]

theorem firstPending_lowest (hn : s.evc.pend.getLsbD n = true)
    (hlow : ∀ m : Source, m < n → s.evc.pend.getLsbD m = false) : firstPending s = some n :=
  find?_source_lowest (p := fun n => s.evc.pend.getLsbD n) hn hlow

theorem firstPending_none (h : s.evc.pend = 0) : firstPending s = none :=
  find?_source_none fun n => by rw [h]; exact BitVec.getLsbD_zero

/-! What MSI-X, PME and WAKE_N touch. -/

theorem raiseMsix_frame : raiseMsix i s = { s with link := (raiseMsix i s).link, out := (raiseMsix i s).out } := by
  unfold raiseMsix
  split
  · rfl
  split
  · rfl
  · rfl

theorem raiseMsix_evc : (raiseMsix i s).evc = s.evc := by rw [raiseMsix_frame]

theorem raiseMsix_hif : (raiseMsix i s).hif = s.hif := by rw [raiseMsix_frame]

/-- What has left the device stays. -/
theorem mem_raiseMsix_out {x : Msg} (h : x ∈ s.out) : x ∈ (raiseMsix i s).out := by
  unfold raiseMsix
  split
  · exact h
  split
  · exact h
  · exact List.mem_cons_of_mem _ h

theorem sendPme_evc : (sendPme n s).evc = s.evc := by
  unfold sendPme
  split
  · dsimp only
    split
    · rfl
    · rfl
  · rfl

theorem assertWake_evc : (assertWake s).evc = s.evc := by
  unfold assertWake
  split
  · rfl
  · rfl

/-! EVENT_SOURCE_PENDING (R224). -/

/-- The counting of FULL touches no more than FULL_COUNT of the event queue. -/
theorem countEvqFull_frame : countEvqFull f s = { f s with hif := { (f s).hif with evq := { (f s).hif.evq with
    fullCount := (countEvqFull f s).hif.evq.fullCount } } } := by
  unfold countEvqFull
  dsimp only
  split
  · rfl
  · rfl

theorem countEvqFull_evc : (countEvqFull f s).evc = (f s).evc := by rw [countEvqFull_frame]

theorem updatePend_pend : (updatePend n s).evc.pend =
    if s.evc.pend.getLsbD n = pendingFor s n then s.evc.pend else s.evc.pend ^^^ bit64 n := by
  unfold updatePend
  dsimp only
  by_cases h : s.evc.pend.getLsbD n = pendingFor s n
  · rw [if_pos (beq_iff_eq.2 h), if_pos h]
  · rw [if_neg (by simpa using h), if_neg h]
    split
    · split
      · rw [raiseMsix_evc, assertWake_evc, sendPme_evc]
      · rw [assertWake_evc, sendPme_evc]
    · rfl

theorem updatePend_self : (updatePend n s).evc.pend.getLsbD n = pendingFor s n := by
  rw [updatePend_pend]
  split
  next h => exact h
  next h =>
    rw [BitVec.getLsbD_xor, getLsbD_bit64, decide_eq_true rfl, Bool.xor_true]
    exact Bool.not_eq.2 h

theorem updatePend_ne (h : m ≠ n) : (updatePend n s).evc.pend.getLsbD m = s.evc.pend.getLsbD m := by
  rw [updatePend_pend]
  split
  · rfl
  · rw [BitVec.getLsbD_xor, getLsbD_bit64, decide_eq_false h, Bool.xor_false]

theorem exec_eventSourcePending (hp : s.porst = false) :
    exec (.eventSourcePending n) s = .next (countEvqFull (updatePend n) s) := live_of hp

/-! EVENT_RECORD_WRITE (R226 to R228). -/

/-- The state in which the record of source `n` has been written at the tail. -/
def eventWritten (n : Source) (s : State) : State :=
  send (.write (s.hif.evq.base + 16 * s.hif.evq.tail) (eventBytes s n)) { s with
    hif := { s.hif with evq := s.hif.evq.push }
    evc := { s.evc with armed := s.evc.armed &&& ~~~bit64 n } }

/-- Writing the record of the lowest due source may send vector 0 as well. -/
theorem writeEvent_eq (h : firstDue s = some n) : writeEvent s =
    if s.hif.evq.tail = s.hif.evq.head then raiseMsix 0 (eventWritten n s) else eventWritten n s := by
  unfold writeEvent
  rw [h]
  rfl

theorem writeEvent_writes (h : firstDue s = some n) : (writeEvent s).hif = { s.hif with evq := s.hif.evq.push } ∧
    (writeEvent s).evc = { s.evc with armed := s.evc.armed &&& ~~~bit64 n } ∧
    .write (s.hif.evq.base + 16 * s.hif.evq.tail) (eventBytes s n) ∈ (writeEvent s).out := by
  have hsent : .write (s.hif.evq.base + 16 * s.hif.evq.tail) (eventBytes s n) ∈ (eventWritten n s).out :=
    List.mem_cons_self
  rw [writeEvent_eq h]
  split
  · exact ⟨raiseMsix_hif, raiseMsix_evc, mem_raiseMsix_out hsent⟩
  · exact ⟨rfl, rfl, hsent⟩

theorem exec_eventRecordWrite (hp : s.porst = false) : exec .eventRecordWrite s = .next (eventRecord s) := live_of hp

theorem eventRecord_idle (h : muted s = true ∨ (∀ n, due s n = false) ∨ s.hif.evq.size = 0 ∨ s.hif.evq.room = 0) :
    eventRecord s = s := by
  refine if_pos ?_
  rcases h with h | h | h | h
  · simp [h]
  · simp [firstDue_none h]
  · simp [h]
  · simp [h]

theorem eventRecord_writes (hdue : firstDue s = some n) (hmute : muted s = false) (hsize : s.hif.evq.size ≠ 0)
    (hroom : s.hif.evq.room ≠ 0) (hrun : hifRuns s = true) (hgrant : holdsGrant s (.dma none) = true) :
    eventRecord s = countEvqFull writeEvent (endGrant (.dma none) s) := by
  unfold eventRecord
  rw [if_neg (by simp [hmute, hdue, hsize, hroom]), withDma_of hrun hgrant]

/-! EVC_CLAIM (R229). -/

theorem exec_evcClaimRead (h : served s 0x6004 = true) :
    exec .evcClaimRead s = .next (reply (.bar0 0x6004 (claimValue s)) (claimEff s)) :=
  (live_of (served_porst h)).trans (congrArg _ (regRead_of_served h rfl))

/-- Source `n` in service, and no longer pending. -/
def claimed (n : Source) (s : State) : State :=
  { s with evc := { s.evc with inServ := some n, pend := s.evc.pend &&& ~~~bit64 n } }

theorem claim_takes (hmode : s.evc.claimMode = true) (hfree : s.evc.inServ = none) (hfirst : firstPending s = some n) :
    claimValue s = w32 n.val ∧ claimEff s = claimed n s := by
  simp [claimValue, claimEff, claimed, hmode, hfree, hfirst]

theorem claim_none (h : s.evc.claimMode = false ∨ (s.evc.inServ = none ∧ s.evc.pend = 0)) :
    claimValue s = 0xFF ∧ claimEff s = s := by
  rcases h with hmode | ⟨hfree, hpend⟩
  · simp [claimValue, claimEff, hmode]
  · simp [claimValue, claimEff, hfree, firstPending_none hpend]

theorem claim_busy (hmode : s.evc.claimMode = true) (hbusy : s.evc.inServ ≠ none) :
    claimValue s = 0xFE ∧ claimEff s = s := by
  simp [claimValue, claimEff, hmode, Option.isSome_iff_ne_none.2 hbusy]

/-! EVC_DONE (R230, R231). -/

/-- The source that a word written to EVC_DONE names. -/
def doneSource (v : Word) : Source := Fin.ofNat 64 (v.extractLsb' 0 6).toNat

theorem doneField_eq : bits v.toNat 5 0 = (v.extractLsb' 0 6).toNat := by simp [bits]

theorem exec_evcDoneWrite (h : served s 0x6008 = true) : exec (.evcDoneWrite v) s = .next (writeDone v s) :=
  (live_of (served_porst h)).trans (congrArg _ (regWrite_of_served h))

/-- No source is in service. -/
def released (s : State) : State := { s with evc := { s.evc with inServ := none } }

/-- The pending bits once source `n` has left service: it is pending again if its condition holds. -/
def donePend (n : Source) (s : State) : BitVec 64 :=
  if pendingFor (released s) n then s.evc.pend ||| bit64 n else s.evc.pend

/-- The state in which source `n` has left service, before the host is told that it is presentable. -/
def leftService (n : Source) (s : State) : State :=
  if pendingFor (released s) n then
    assertWake (sendPme n { released s with evc := { (released s).evc with pend := s.evc.pend ||| bit64 n } })
  else released s

theorem leftService_evc : (leftService n s).evc = { s.evc with inServ := none, pend := donePend n s } := by
  unfold leftService donePend
  split
  · rw [assertWake_evc, sendPme_evc]
    rfl
  · rfl

theorem writeDone_takes (hmode : s.evc.claimMode = true) (hin : s.evc.inServ = some (doneSource v)) :
    writeDone v s = if presentable (leftService (doneSource v) s) then raiseMsix 1 (leftService (doneSource v) s)
      else leftService (doneSource v) s := by
  unfold writeDone
  rw [doneField_eq, ← doneSource]
  exact if_pos (by simp [hmode, hin])

theorem writeDone_evc (hmode : s.evc.claimMode = true) (hin : s.evc.inServ = some (doneSource v)) :
    (writeDone v s).evc = { s.evc with inServ := none, pend := donePend (doneSource v) s } := by
  rw [writeDone_takes hmode hin, ← leftService_evc]
  split
  · exact raiseMsix_evc
  · rfl

theorem writeDone_refused (h : s.evc.claimMode = false ∨ s.evc.inServ ≠ some (doneSource v)) :
    writeDone v s = regRefused 0x6008 v 2 s := by
  unfold writeDone
  rw [doneField_eq, ← doneSource]
  refine if_neg ?_
  rcases h with h | h <;> simp [h]

theorem donePend_ne (h : m ≠ n) : (donePend n s).getLsbD m = s.evc.pend.getLsbD m := by
  unfold donePend
  split
  · rw [BitVec.getLsbD_or, getLsbD_bit64, decide_eq_false h, Bool.or_false]
  · rfl

theorem donePend_self (h : pendingFor (released s) n = true) : (donePend n s).getLsbD n = true := by
  rw [donePend, if_pos h, BitVec.getLsbD_or, getLsbD_bit64, decide_eq_true rfl, Bool.or_true]

/-! Latches, software sources and arming (R221, R222, R226). -/

theorem exec_evcLatchWrite (h : served s (0x6020 + 4 * half.val) = true) :
    exec (.evcLatchWrite half v) s = .next (writeLatch half v s) :=
  (live_of (served_porst h)).trans (congrArg _ (regWrite_of_served h))

theorem writeLatch_latch : (writeLatch half v s).evc.latch.getLsbD n = (s.evc.latch.getLsbD n &&
    !(decide (n.val / 32 = half.val) && v.getLsbD (n.val % 32) && latchedMask.getLsbD n)) := by
  simp only [writeLatch, BitVec.getLsbD_and, BitVec.getLsbD_not, getLsbD_halfMask, decide_eq_true n.isLt, Bool.true_and]

theorem exec_evcSoftSetWrite (h : served s 0x6028 = true) :
    exec (.evcSoftSetWrite v) s = .next (writeSoftSet v s) :=
  (live_of (served_porst h)).trans (congrArg _ (regWrite_of_served h))

/-- The software source of bit `k`, for the 16 bits of EVC_SOFT_SET. -/
def softSource (k : ℕ) : Source := Fin.ofNat 64 (48 + k)

theorem softSource_val {k : ℕ} (hk : k < 16) : (softSource k).val = 48 + k := Nat.mod_eq_of_lt (by omega)

/-- Bit `k` of a word written to EVC_SOFT_SET reports its source. -/
def softSet (v : Word) (s : State) (k : ℕ) : State := if v.getLsbD k then report (softSource k) s else s

/-- One of the first `k` bits of a word written to EVC_SOFT_SET reports source `n`. -/
def softHit (v : Word) (k : ℕ) (n : Source) : Bool :=
  (List.range k).any fun j => v.getLsbD j && decide (n = softSource j)

theorem softHit_succ {k : ℕ} :
    softHit v (k + 1) n = (softHit v k n || (v.getLsbD k && decide (n = softSource k))) := by
  simp [softHit, List.range_succ]

/-- No earlier bit reports the source of bit `k`. -/
theorem softHit_self {k : ℕ} (hk : k < 16) : softHit v k (softSource k) = false := by
  refine List.any_eq_false.2 fun j hj => ?_
  have hlt : j < k := List.mem_range.1 hj
  have hne : softSource k ≠ softSource j := fun h => by
    have hval := congrArg Fin.val h
    rw [softSource_val hk, softSource_val (hlt.trans hk)] at hval
    omega
  simp [hne]

/-- The whole word reports source `n` by bit `n - 48`. -/
theorem softHit_word : softHit v 16 n = (decide (48 ≤ n.val) && v.getLsbD (n.val - 48)) := by
  rw [Bool.eq_iff_iff]
  simp only [softHit, List.any_eq_true, List.mem_range, Bool.and_eq_true, decide_eq_true_eq]
  constructor
  · rintro ⟨j, hj, hset, rfl⟩
    rw [softSource_val hj, Nat.add_sub_cancel_left]
    exact ⟨by omega, hset⟩
  · rintro ⟨hlow, hset⟩
    have hj : n.val - 48 < 16 := by omega
    exact ⟨_, hj, hset, Fin.ext (by rw [softSource_val hj]; omega)⟩

theorem report_latch_bit : (report m s).evc.latch.getLsbD n = (s.evc.latch.getLsbD n || decide (n = m)) := by
  simp only [report, BitVec.getLsbD_or, getLsbD_bit64]
  rfl

theorem report_count : (report m s).evc.count[n] = if n = m then min 255 (s.evc.count[n] + 1) else s.evc.count[n] :=
  occur_count

/-- The first `k` bits of EVC_SOFT_SET, one after the other: each that is set sets its latch and counts one occurrence. -/
theorem softSet_foldl {k : ℕ} (hk : k ≤ 16) :
    ((List.range k).foldl (softSet v) s).evc.latch.getLsbD n = (s.evc.latch.getLsbD n || softHit v k n) ∧
    ((List.range k).foldl (softSet v) s).evc.count[n] =
      if softHit v k n then min 255 (s.evc.count[n] + 1) else s.evc.count[n] := by
  induction k with
  | zero => simp [softHit]
  | succ k ih =>
    obtain ⟨hlatch, hcount⟩ := ih (by omega)
    rw [List.range_succ, List.foldl_append, List.foldl_cons, List.foldl_nil, softHit_succ]
    generalize (List.range k).foldl (softSet v) s = u at hlatch hcount
    unfold softSet
    split
    next hset =>
      rw [report_latch_bit, report_count, hlatch, hcount, hset, Bool.true_and, Bool.or_assoc]
      refine ⟨rfl, ?_⟩
      by_cases hn : n = softSource k
      · rw [if_pos hn, hn, softHit_self (by omega), decide_eq_true rfl]
        rfl
      · rw [if_neg hn, decide_eq_false hn, Bool.or_false]
    next hclear =>
      rw [hlatch, hcount, Bool.eq_false_of_not_eq_true hclear, Bool.false_and, Bool.or_false]
      exact ⟨rfl, rfl⟩

theorem exec_evcArmedWrite (h : served s (0x6038 + 4 * half.val) = true) :
    exec (.evcArmedWrite half v) s = .next (eventRecord (countEvqFull (writeArmed half v) s)) :=
  (live_of (served_porst h)).trans (congrArg _ (regWrite_of_served h))

/-- In claim mode no source is due, and the event queue is not FULL. -/
theorem evqFull_claimMode (h : s.evc.claimMode = true) : evqFull s = false := by
  simp [evqFull, firstDue_none fun _ => due_claimMode h]

theorem armed_claimMode (h : s.evc.claimMode = true) :
    eventRecord (countEvqFull (writeArmed half v) s) = writeArmed half v s := by
  have hmode : (writeArmed half v s).evc.claimMode = true := h
  have hcount : countEvqFull (writeArmed half v) s = writeArmed half v s := by
    simp [countEvqFull, evqFull_claimMode hmode]
  rw [hcount, eventRecord_idle (.inr (.inl fun _ => due_claimMode hmode))]

/-! EVC_COUNT (R233). -/

/-- The counter of source `n` cleared. -/
def countCleared (n : Source) (s : State) : State := { s with evc := { s.evc with count := s.evc.count.set n 0 } }

/-- The counter of source `n` stands at this offset (R236). -/
structure CountAt (off : ℕ) (n : Source) : Prop where
  low : 0x6100 ≤ off
  high : off < 0x6200
  aligned : off % 4 = 0
  source : Fin.ofNat 64 ((off - 0x6100) / 4) = n

theorem countAt_offset : CountAt (0x6100 + 4 * n.val) n := by
  have hn := n.isLt
  refine ⟨by omega, by omega, by omega, Fin.ext ?_⟩
  rw [Fin.val_ofNat]
  omega

theorem CountAt.read {off : ℕ} (h : CountAt off n) : evcRead off s = some (w32 s.evc.count[n]) := by
  obtain ⟨hlow, hhigh, haligned, rfl⟩ := h
  unfold evcRead
  split
  case h_20 => exact if_pos ⟨hlow, hhigh, haligned⟩
  all_goals omega

theorem CountAt.readEff {off : ℕ} (h : CountAt off n) : evcReadEff off s = countCleared n s := by
  obtain ⟨hlow, hhigh, -, rfl⟩ := h
  rw [evcReadEff, if_neg (by omega), if_pos ⟨hlow, hhigh⟩]
  rfl

theorem exec_evcCountRead (h : served s (0x6100 + 4 * n.val) = true) : exec (.evcCountRead n) s =
    .next (reply (.bar0 (0x6100 + 4 * n.val) (w32 s.evc.count[n])) (countCleared n s)) := by
  rw [← countAt_offset.readEff]
  exact (live_of (served_porst h)).trans (congrArg _ (regRead_of_served h countAt_offset.read))

theorem countCleared_count : (countCleared n s).evc.count[m] = if m = n then 0 else s.evc.count[m] := by
  change (s.evc.count.set n 0)[m.val] = _
  rw [Vector.getElem_set]
  simp only [Fin.ext_iff, eq_comm]
  rfl

end

/-- Settles O46: a pending bit is judged by `updatePend`, a record is written by `writeEvent` for the lowest due source, and
each EVC register by the equation of its row; the sources that EVC_SOFT_SET reports are those of its low 16 bits. -/
theorem theEventController : Obligations.TheEventController := by
  intro s hporst
  refine ⟨fun n => ?_, ⟨fun n hdue hlow hmute hsize hroom hrun hgrant => ?_, fun hidle => ?_⟩,
    fun h => ⟨fun n hmode hfree hpend hlow => ?_, fun hnone => ?_, fun hmode hbusy => ?_⟩,
    fun v h => ⟨fun hmode hin => ?_, fun hnot => ?_⟩, fun half v h => ?_, fun v h => ?_, fun half v h hmode => ?_,
    fun n h => ?_⟩
  · have hjudged : Presents s (updatePend n s) := Presents.refl.updatePend
    refine ⟨_, exec_eventSourcePending hporst, ?_⟩
    rw [countEvqFull_frame]
    refine ⟨updatePend_self, fun m hm => updatePend_ne hm, ?_⟩
    dsimp only
    rw [hjudged]
    exact ⟨rfl, rfl, rfl⟩
  · refine ⟨_, exec_eventRecordWrite hporst, ?_⟩
    have hfirst := firstDue_lowest hdue hlow
    obtain ⟨hhif, hevc, hsent⟩ := writeEvent_writes (s := endGrant (.dma none) s) hfirst
    rw [eventRecord_writes hfirst hmute hsize hroom hrun hgrant, countEvqFull_frame]
    dsimp only
    rw [hhif, hevc, push_eq]
    exact ⟨hsent, rfl, rfl, fun m => getLsbD_clear, rfl⟩
  · rw [exec_eventRecordWrite hporst, eventRecord_idle hidle]
  · obtain ⟨hvalue, heff⟩ := claim_takes hmode hfree (firstPending_lowest hpend hlow)
    rw [exec_evcClaimRead h, hvalue, heff]
    exact ⟨_, rfl, rfl, fun m => getLsbD_clear⟩
  · obtain ⟨hvalue, heff⟩ := claim_none hnone
    rw [exec_evcClaimRead h, hvalue, heff]
  · obtain ⟨hvalue, heff⟩ := claim_busy hmode hbusy
    rw [exec_evcClaimRead h, hvalue, heff]
  · refine ⟨_, exec_evcDoneWrite h, ?_⟩
    rw [writeDone_evc hmode hin]
    exact ⟨rfl, fun m hm => donePend_ne hm, donePend_self⟩
  · rw [exec_evcDoneWrite h, writeDone_refused hnot]
  · exact ⟨_, exec_evcLatchWrite h, rfl, fun n => writeLatch_latch⟩
  · refine ⟨_, exec_evcSoftSetWrite h, fun n => ?_⟩
    have hset := softSet_foldl (v := v) (s := s) (n := n) (k := 16) le_rfl
    rw [softHit_word] at hset
    exact hset
  · rw [exec_evcArmedWrite h, armed_claimMode hmode]
    refine ⟨_, rfl, rfl, fun n => ?_⟩
    rw [writeArmed, BitVec.getLsbD_or, getLsbD_halfMask]
  · exact ⟨_, exec_evcCountRead h, rfl, fun m => countCleared_count⟩

end Sys2Proof.Proofs

namespace Sys2Proof.Proofs

/-! ### Places, channels and their open rows (R238, R239, R245, R247) -/

open Sys2Proof.Machine

section
variable {s t u v : State} {a b n x hi lo : ℕ} {c : Chan} {d : Fin 2} {i : Fin 8} {e k : Fin 16} {f : Channel → Channel}

/-! Addresses of one aligned 64-byte piece lie in one row. -/

/-- Dividing by 2^lo for lo at least 6 does not see where in its 64-byte piece a number lies. -/
theorem div_piece (h : a / 64 = b / 64) (hlo : 6 ≤ lo) : a / 2 ^ lo = b / 2 ^ lo := by
  obtain ⟨j, rfl⟩ := Nat.exists_eq_add_of_le hlo
  rw [pow_add, ← Nat.div_div_eq_div_mul, ← Nat.div_div_eq_div_mul]
  exact congrArg (· / 2 ^ j) h

theorem bits_piece (h : a / 64 = b / 64) (hlo : 6 ≤ lo) : bits a hi lo = bits b hi lo := by
  rw [bits, bits, div_piece h hlo]

theorem mod_piece (h : a / 64 = b / 64) (hlo : 6 ≤ lo) : a % 2 ^ lo / 64 = b % 2 ^ lo / 64 := by
  obtain ⟨j, rfl⟩ := Nat.exists_eq_add_of_le hlo
  rw [pow_add, show 2 ^ 6 = 64 from rfl, Nat.mod_mul_right_div_self, Nat.mod_mul_right_div_self, h]

theorem placeOf_piece (h : a / 64 = b / 64) : (placeOf s a).chan = (placeOf s b).chan ∧
    (placeOf s a).bank = (placeOf s b).bank ∧ (placeOf s a).row = (placeOf s b).row := by
  have hoff : (a - stackBase) / 64 = (b - stackBase) / 64 := by unfold stackBase; omega
  unfold placeOf
  have hob : 6 ≤ if bigPart s then 30 else 29 := by split <;> omega
  generalize (if bigPart s then 30 else 29) = ob at hob ⊢
  dsimp only
  have ho := mod_piece hoff hob
  have hk := div_piece hoff hob
  generalize (a - stackBase) % 2 ^ ob = o at ho ⊢
  generalize (b - stackBase) % 2 ^ ob = o' at ho ⊢
  have hq : (o / 128 * 64 + o % 64) / 64 = (o' / 128 * 64 + o' % 64) / 64 := by omega
  have hfield {hi lo : ℕ} (hlo : 6 ≤ lo) : bits (o / 128 * 64 + o % 64) hi lo = bits (o' / 128 * 64 + o' % 64) hi lo :=
    bits_piece hq hlo
  rw [bits_piece (hi := 6) ho le_rfl, hk, div_piece (lo := 18) hq (by omega)]
  split <;> simp [hfield]

theorem chanOf_index : chanOf s (Fin.ofNat 16 (8 * d.val + i.val)) = s.dmc[d].chans[i] := by
  have hctl : ctlOf (Fin.ofNat 16 (8 * d.val + i.val)) = d := Fin.ext (by simp [ctlOf]; omega)
  have hloc : localOf (Fin.ofNat 16 (8 * d.val + i.val)) = i := Fin.ext (by simp [localOf])
  simp only [chanOf, hctl, hloc]

/-! The registers of a controller. -/

theorem dmc_setDmc {g : Dmc → Dmc} : (setDmc d g s).dmc[d] = g s.dmc[d] := by simp [setDmc]

theorem dmc_setChan : (setChan c f s).dmc[d] = { s.dmc[d] with chans := (setChan c f s).dmc[d].chans } := by
  by_cases hd : ctlOf c = d
  · subst hd
    simp [setChan, setDmc]
  · have hne : (ctlOf c).val ≠ d.val := fun h => hd (Fin.ext h)
    simp [setChan, setDmc, hne]

/-- `t` came from `s` by work of the controllers on the rows and the counters of their channels, on refresh, or on their
tracking: no request was queued or issued, and the registers of each controller stayed as they were. -/
structure WorksChannels (s t : State) : Prop extends MovesRows s t where
  queue : ∀ c, (chanOf t c).queue = (chanOf s c).queue
  regs : ∀ d : Fin 2, t.dmc[d] = { s.dmc[d] with chans := t.dmc[d].chans }

theorem WorksChannels.refl : WorksChannels s s := ⟨.refl, fun _ => rfl, fun _ => rfl⟩

theorem WorksChannels.trans (h : WorksChannels s t) (g : WorksChannels t u) : WorksChannels s u :=
  ⟨h.toMovesRows.trans g.toMovesRows, fun c => (g.queue c).trans (h.queue c), fun d => by rw [g.regs, h.regs]⟩

theorem WorksChannels.foldl {α : Type} {op : State → α → State} {l : List α} (h : WorksChannels s t)
    (hop : ∀ t x, WorksChannels t (op t x)) : WorksChannels s (l.foldl op t) :=
  List.foldlRecOn l op h fun v hv x _ => hv.trans (hop v x)

theorem WorksChannels.mem_eq (h : WorksChannels s t) : t.mem = s.mem := by rw [h.frame]

theorem worksChannels_setChan (hf : ∀ h, (f h).dead = h.dead ∧ (f h).queue = h.queue) :
    WorksChannels s (setChan c f s) where
  toMovesRows := movesRows_setChan fun h => (hf h).1
  queue x := by
    by_cases hx : c = x
    · subst hx; rw [chanOf_setChan, (hf _).2]
    · rw [chanOf_setChan_ne hx]
  regs _ := dmc_setChan

theorem worksChannels_bump {j : Fin 8} : WorksChannels s (bump c j n s) :=
  worksChannels_setChan (by exact fun _ => ⟨rfl, rfl⟩)

theorem worksChannels_closeRow : WorksChannels s (closeRow c k s) := by
  unfold closeRow
  refine worksChannels_setChan fun h => ?_
  dsimp only
  split
  · exact ⟨rfl, rfl⟩
  · exact ⟨rfl, rfl⟩

theorem worksChannels_openRow : WorksChannels s (openRow c k n s) :=
  ((worksChannels_closeRow.trans worksChannels_closeRow).trans
    (worksChannels_setChan (by exact fun _ => ⟨rfl, rfl⟩))).trans worksChannels_bump

theorem worksChannels_setCheck : WorksChannels s (setCheck c n s) := by
  unfold setCheck
  exact worksChannels_setChan (by exact fun _ => ⟨rfl, rfl⟩)

theorem worksChannels_closeAll : WorksChannels s (closeAll c s) := WorksChannels.refl.foldl fun _ _ => worksChannels_closeRow

/-! The open rows. -/

/-- The row that a bank has open. -/
def rowAt (s : State) (c : Chan) (k : Fin 16) : Option ℕ := (chanOf s c).openRows[k].map (·.row)

theorem isOpenAt_iff : isOpenAt s c k n = true ↔ rowAt s c k = some n := by
  unfold isOpenAt rowAt
  cases (chanOf s c).openRows[k] <;> simp

theorem openRows_setChan (hf : ∀ h, (f h).openRows = h.openRows) :
    (chanOf (setChan c f s) c).openRows = (chanOf s c).openRows := by rw [chanOf_setChan, hf]

theorem openRows_closeRow : (chanOf (closeRow c k s) c).openRows = (chanOf s c).openRows.set k none := by
  unfold closeRow
  rw [chanOf_setChan]
  dsimp only
  split
  · next hnone => rw [← hnone]; exact (Vector.set_getElem_self _).symm
  · rfl

theorem openRows_closeRow_self : (chanOf (closeRow c k s) c).openRows[k] = none := by
  rw [openRows_closeRow]
  exact Vector.getElem_set_self _

theorem openRows_closeRow_other (h : e ≠ k) :
    (chanOf (closeRow c k s) c).openRows[e] = (chanOf s c).openRows[e] := by
  rw [openRows_closeRow]
  exact Vector.getElem_set_ne _ _ fun hval => h (Fin.ext hval.symm)

theorem openRows_closeRows {ks : List (Fin 16)} (h : e ∈ ks ∨ (chanOf s c).openRows[e] = none) :
    (chanOf (ks.foldl (fun s k => closeRow c k s) s) c).openRows[e] = none := by
  induction ks generalizing s with
  | nil => exact h.resolve_left List.not_mem_nil
  | cons k ks ih =>
    refine ih ?_
    by_cases hek : e = k
    · subst hek
      exact .inr openRows_closeRow_self
    · rw [openRows_closeRow_other hek]
      exact h.imp_left fun hmem => (List.mem_cons.mp hmem).resolve_left hek

theorem mem_banks : k ∈ (List.range 16).map (Fin.ofNat 16) :=
  List.mem_map.mpr ⟨k, List.mem_range.mpr k.isLt, Fin.ofNat_val_eq_self k⟩

theorem openRows_closeAll : (chanOf (closeAll c s) c).openRows[k] = none := by
  unfold closeAll
  rw [← List.foldl_map (f := Fin.ofNat 16) (g := fun s k => closeRow c k s)]
  exact openRows_closeRows (.inl mem_banks)

theorem rowAt_setChan (hrows : ∀ h, (f h).openRows = h.openRows) {c' : Chan} : rowAt (setChan c f s) c' k = rowAt s c' k := by
  unfold rowAt
  by_cases hc : c = c'
  · subst hc; rw [chanOf_setChan, hrows]
  · rw [chanOf_setChan_ne hc]

theorem rowAt_bump {j : Fin 8} {c' : Chan} : rowAt (bump c j n s) c' k = rowAt s c' k := by
  unfold bump
  exact rowAt_setChan (by exact fun _ => rfl)

/-- A check word enters its register without another row being opened. -/
theorem rowAt_setCheck {c' : Chan} : rowAt (setCheck c n s) c' k = rowAt s c' k := by
  unfold setCheck rowAt
  extract_lets p w put
  have hput (o : OpenRow) : (put o).row = o.row := by
    dsimp only [put]
    split
    · rfl
    · rfl
  by_cases hc : c = c'
  · subst hc
    rw [chanOf_setChan]
    dsimp only
    by_cases hk : p.bank = k
    · subst hk
      simp [Function.comp_def, hput]
    · have hval : p.bank.val ≠ k.val := fun h => hk (Fin.ext h)
      simp [hval]
  · rw [chanOf_setChan_ne hc]

theorem rowAt_openRow : rowAt (openRow c k n s) c k = some n := by
  unfold openRow
  rw [rowAt_bump, rowAt, chanOf_setChan]
  simp

theorem rowAt_setChecks {us : List ℕ} {c' : Chan} :
    rowAt (us.foldl (fun s u => setCheck c u s) s) c' k = rowAt s c' k := by
  induction us generalizing s with
  | nil => rfl
  | cons u us ih => exact ih.trans rowAt_setCheck

theorem worksChannels_setChecks {us : List ℕ} : WorksChannels s (us.foldl (fun s u => setCheck c u s) s) :=
  WorksChannels.refl.foldl fun _ _ => worksChannels_setCheck

/-- The bursts of a request are work on rows, and leave the row of its first block open unless IDLE is 0 (R245). -/
theorem moveBursts_works {w : Bool} {us : List ℕ} (hchan : (placeOf s x).chan = c) :
    WorksChannels s (moveBursts w (x :: us) s) ∧ (s.dmc[ctlOf c].idle ≠ 0 →
      rowAt (moveBursts w (x :: us) s) c (placeOf s x).bank = some (placeOf s x).row) := by
  subst hchan
  generalize hv : moveBursts w (x :: us) s = v
  unfold moveBursts at hv
  dsimp -zeta only at hv
  extract_lets p ch was t1 len t2 t3 at hv
  subst hv
  have hopened : WorksChannels s t1 ∧ rowAt t1 ch p.bank = some p.row := by
    dsimp only [t1]
    split
    · next hwas => exact ⟨.refl, isOpenAt_iff.mp hwas⟩
    · exact ⟨worksChannels_openRow, rowAt_openRow⟩
  have hcounted : WorksChannels s t2 ∧ rowAt t2 ch p.bank = some p.row :=
    ⟨(hopened.1.trans worksChannels_bump).trans worksChannels_bump, (rowAt_bump.trans rowAt_bump).trans hopened.2⟩
  have hchecked : WorksChannels s t3 ∧ rowAt t3 ch p.bank = some p.row := by
    dsimp only [t3]
    split
    · exact ⟨hcounted.1.trans worksChannels_setChecks, rowAt_setChecks.trans hcounted.2⟩
    · exact hcounted
  split
  · next hidle =>
    refine ⟨hchecked.1.trans worksChannels_closeRow, fun hne => absurd ?_ hne⟩
    rw [hchecked.1.regs] at hidle
    exact hidle
  · exact ⟨hchecked.1, fun _ => hchecked.2⟩

end

end Sys2Proof.Proofs

namespace Sys2Proof.Proofs

/-! ### Requests of a channel: acceptance (R240, R244, R249, R256) -/

open Sys2Proof.Machine

section
variable {s t : State} {a n k x : ℕ} {c : Chan} {r : DmcReq} {q : Queued} {d bs : List Byte}

theorem OnlyLedgers.mem_eq (h : OnlyLedgers s t) : t.mem = s.mem := by rw [h]

theorem OnlyLedgers.out_eq (h : OnlyLedgers s t) : t.out = s.out := by rw [h]

theorem MovesRows.placeOf_eq (h : MovesRows s t) : placeOf t x = placeOf s x := by
  rw [h.frame]
  rfl

/-! A request lies in one piece of its channel (R240). -/

theorem reqOk_piece (h : reqOk s c r = true) : 1 ≤ r.len ∧ r.addr / 64 = (r.addr + r.len - 1) / 64 ∧
    stackBase ≤ r.addr ∧ (placeOf s r.addr).chan = c := by
  simp only [reqOk, Bool.and_eq_true, decide_eq_true_eq, beq_iff_eq] at h
  obtain ⟨⟨⟨⟨⟨⟨hpos, -⟩, hpiece⟩, hbase⟩, -⟩, hchan⟩, -⟩ := h
  exact ⟨hpos, hpiece, hbase, hchan⟩

theorem reqOk_length (h : reqOk s c r = true) (hd : r.data = some d) : d.length = r.len := by
  simp only [reqOk, hd, Bool.and_eq_true, beq_iff_eq] at h
  exact h.2

theorem reqOk_chan (h : reqOk s c r = true) (hx : r.addr ≤ x) (hlt : x < r.addr + r.len) : (placeOf s x).chan = c := by
  obtain ⟨hpos, hpiece, -, hchan⟩ := reqOk_piece h
  rw [(placeOf_piece (show x / 64 = r.addr / 64 by omega)).1, hchan]

/-! A write of bytes that no damage touches. -/

/-- Each of `n` bytes at `a` can be written: no unit of them is uncorrectable, and none lies on a failed channel. Other channels
may have failed, and a vibrato may run, which `Sound` excludes. -/
structure Writable (s : State) (a n : ℕ) : Prop where
  base : stackBase ≤ a
  good : ∀ e ∈ s.bad, ¬ (e.1 < a + n ∧ a < e.1 + 32)
  alive : ∀ x, a ≤ x → x < a + n → deadAt s x = false

theorem storeUnits_writable (h : Writable s a bs.length) (hk : bs.length < k) :
    storeUnits k a bs s = { s with mem := memWrite s.mem a bs } := by
  induction k generalizing a bs s with
  | zero => cases hk
  | succ k ih =>
    unfold storeUnits
    obtain ⟨hbase, hgood, halive⟩ := h
    split
    · next hnil => rw [List.isEmpty_iff.mp hnil]; rfl
    next hne =>
    have hpos : 0 < bs.length := List.length_pos_iff.mpr fun e => hne (by rw [e]; rfl)
    extract_lets unit n whole left t
    have hn : n = min bs.length (32 - a % 32) := by dsimp only [n, unit]; rw [eccUnit_stack hbase]
    have ht : t = { s with mem := memWrite s.mem a (bs.take n) } := by
      have hnone : (badIn s a n).isSome = false := by
        rw [← Option.not_isNone, (badIn_none_iff hbase).mpr fun e he => by have := hgood e he; omega]
        rfl
      have hleft : s.bad.filter (·.1 != a) = s.bad := List.filter_eq_self.mpr fun e he => by
        have := hgood e he
        simp only [bne_iff_ne]
        omega
      dsimp only [t, left]
      rw [halive a le_rfl (by omega), hnone, hleft, ite_self, Bool.and_false, Bool.or_false, if_neg Bool.false_ne_true]
    have hlen : (bs.drop n).length = bs.length - n := List.length_drop
    have hrest : Writable t (a + n) (bs.drop n).length := by
      rw [ht, hlen]
      exact ⟨by omega, fun e he => by have := hgood e he; omega, fun x hx hlt => halive x (by omega) (by omega)⟩
    have happ := memWrite_append (m := s.mem) (a := a) (bs := bs.take n) (cs := bs.drop n)
    rw [List.take_append_drop, List.length_take, min_eq_left (by omega)] at happ
    rw [ih hrest (by omega), ht, happ]

/-- A request that its channel takes can be written. -/
theorem reqOk_writable (h : reqOk s c r = true) (hdead : (chanOf s c).dead = false)
    (hgood : (badIn s r.addr r.len).isNone = true) : Writable s r.addr r.len where
  base := (reqOk_piece h).2.2.1
  good := (badIn_none_iff (reqOk_piece h).2.2.1).mp hgood
  alive x hx hlt := by rw [deadAt, reqOk_chan h hx hlt, hdead, Bool.and_false]

theorem Writable.badMerges_nil (h : Writable s a n) : badMerges s a n = [] := by
  rw [badMerges, List.filter_eq_nil_iff, eccUnit_stack h.base]
  intro e he
  have := h.good e he
  simp
  omega

/-! What each acceptance does. -/

theorem queueDram_leaves : (chanOf (queueDram c q s) c).queue = (chanOf s c).queue ++ [q] ∧
    (queueDram c q s).mem = s.mem := by
  unfold queueDram
  rw [onlyLedgers_request.chanOf_eq, onlyLedgers_request.mem_eq, chanOf_setChan, chanOf_setChan]
  exact ⟨rfl, rfl⟩

/-- A write as it joins the queue, and a read that waits on no queued write (R240). -/
def queuedWrite (s : State) (r : DmcReq) : Queued :=
  { req := r, since := s.clk, value := [], lost := badMerges s r.addr r.len, partialWait := false }
def queuedRead (s : State) (r : DmcReq) : Queued :=
  let lost := s.bad.filter fun b => (blocksOf r.addr r.len).contains b.1
  { req := r, since := s.clk, value := memRead s.mem r.addr r.len, lost := lost, partialWait := false }

/-- No queued request goes before `r` among those of one instant (R240). -/
def GoesNext (s : State) (c : Chan) (r : DmcReq) : Prop :=
  ∀ q ∈ (chanOf s c).queue, q.since < s.clk ∨ sourceIsland c q.req.source ≤ sourceIsland c r.source

/-- The channel judges a request that it takes, that lies in it and that goes next. -/
theorem accept_judges (htakes : takesReq s c = true) (hok : reqOk s c r = true) (hnext : GoesNext s c r) :
    ¬ (!takesReq s c || !reqOk s c r || !(chanOf s c).queue.all fun q =>
      decide (q.since < s.clk) || decide (sourceIsland c q.req.source ≤ sourceIsland c r.source)) = true := by
  have hall : ((chanOf s c).queue.all fun q =>
      decide (q.since < s.clk) || decide (sourceIsland c q.req.source ≤ sourceIsland c r.source)) = true :=
    List.all_eq_true.mpr fun q hq => by simpa only [Bool.or_eq_true, decide_eq_true_eq] using hnext q hq
  simp [htakes, hok, hall]

theorem accept_write (htakes : takesReq s c = true) (hok : reqOk s c r = true) (hnext : GoesNext s c r)
    (hd : r.data = some d) (hroom : ((chanOf s c).queue.filter isWrite).length < 32) (hdead : (chanOf s c).dead = false) :
    accept c r s = queueDram c (queuedWrite s r) (storeRaw r.addr d s) := by
  unfold accept
  rw [if_neg (accept_judges htakes hok hnext)]
  simp only [hd]
  exact if_neg (by simp [hdead]; omega)

theorem accept_read (htakes : takesReq s c = true) (hok : reqOk s c r = true) (hnext : GoesNext s c r)
    (hd : r.data = none) (hroom : ((chanOf s c).queue.filter fun q => !isWrite q).length < 48)
    (hclear : ∀ q ∈ (chanOf s c).queue, isWrite q = true → overlap q.req r = false) :
    accept c r s = queueDram c (queuedRead s r) s := by
  have hhits : ((chanOf s c).queue.filter fun q => isWrite q && overlap q.req r) = [] :=
    List.filter_eq_nil_iff.mpr fun q hq => by simpa using hclear q hq
  unfold accept
  rw [if_neg (accept_judges htakes hok hnext)]
  simp only [hd]
  rw [if_neg (by omega), hhits]
  simp [queuedRead]

/-- The bytes of a write are memory's when it is accepted, and no others change (R240). -/
theorem accept_write_leaves (htakes : takesReq s c = true) (hok : reqOk s c r = true) (hnext : GoesNext s c r)
    (hd : r.data = some d) (hroom : ((chanOf s c).queue.filter isWrite).length < 32) (hdead : (chanOf s c).dead = false)
    (hwf : Memory.wf s.mem = true) (hgood : (badIn s r.addr r.len).isNone = true) :
    (∀ i (h : i < d.length), memByte (accept c r s).mem (r.addr + i) = d[i]) ∧
      (∀ x, x < r.addr ∨ r.addr + d.length ≤ x → memByte (accept c r s).mem x = memByte s.mem x) ∧
      (chanOf (accept c r s) c).queue = (chanOf s c).queue ++
        [{ req := r, since := s.clk, value := [], lost := [], partialWait := false }] := by
  have hwritable := reqOk_writable hok hdead hgood
  have hstored : storeRaw r.addr d s = { s with mem := memWrite s.mem r.addr d } :=
    storeUnits_writable (reqOk_length hok hd ▸ hwritable) (Nat.lt_succ_self _)
  obtain ⟨hqueue, hmem⟩ := queueDram_leaves (c := c) (q := queuedWrite s r) (s := storeRaw r.addr d s)
  rw [accept_write htakes hok hnext hd hroom hdead, hmem, hqueue, hstored, queuedWrite, hwritable.badMerges_nil]
  exact ⟨fun i hi => memByte_memWrite hwf hi, fun x hx => memByte_memWrite_outside hx, rfl⟩

theorem accept_forward {w : Queued} (htakes : takesReq s c = true) (hok : reqOk s c r = true) (hnext : GoesNext s c r)
    (hd : r.data = none) (hroom : ((chanOf s c).queue.filter fun q => !isWrite q).length < 48)
    (hlast : ((chanOf s c).queue.filter fun q => isWrite q && overlap q.req r).getLast? = some w)
    (hcovers : covers w.req r = true) (hfwd : (chanOf s c).fwd = true) (hdead : (chanOf s c).dead = false) :
    accept c r s = send (.dram r (some (memRead s.mem r.addr r.len))) (bump c 4 1 s) := by
  unfold accept
  rw [if_neg (accept_judges htakes hok hnext)]
  simp only [hd]
  rw [if_neg (by omega), if_pos (by simp [hlast, hcovers, hfwd, hdead])]

theorem accept_refused (h : takesReq s c = false) : accept c r s = s := by
  unfold accept
  exact if_pos (by simp [h])

end

end Sys2Proof.Proofs

namespace Sys2Proof.Proofs

/-! ### Issue and scrub (R241, R242, R245, R248 to R250, R257) -/

open Sys2Proof.Machine

section
variable {s t : State} {a i k n x : ℕ} {c : Chan} {w : Bool} {q : Queued} {ecc : Ecc} {d : Fin 2}
  {parts : List Part}

/-! Reads that find nothing wrong. -/

/-- No block of these bytes is uncorrectable or on a failed channel, and no vibrato runs. Other channels may have failed, which
`Sound` excludes. -/
structure Readable (s : State) (a n : ℕ) : Prop where
  quiet : s.vib.runFrom = none
  good : ∀ u ∈ blocksOf a n, ∀ e ∈ s.bad, e.1 ≠ u
  alive : ∀ u ∈ blocksOf a n, (chanOf s (placeOf s u).chan).dead = false

theorem Readable.moved (h : Readable s a n) (k : MovesRows s t) : Readable t a n where
  quiet := by rw [k.frame]; exact h.quiet
  good := by rw [k.frame]; exact h.good
  alive u hu := by rw [k.placeOf_eq, k.dead]; exact h.alive u hu

theorem readBlock_readable (hquiet : s.vib.runFrom = none) (hgood : ∀ e ∈ s.bad, e.1 ≠ x)
    (halive : (chanOf s (placeOf s x).chan).dead = false) : readBlock x .clean parts s = (none, s) := by
  have hfind : s.bad.find? (fun e => e.1 == x) = none := by simpa [List.find?_eq_none] using hgood
  have hopp : ∀ k ok, opportunity k ok s = false := fun k ok => by rw [opportunity, hquiet]
  simp [readBlock, halive, hfind, hopp]

theorem readBlocks_readable {us : List ℕ} (h : Readable s a n) (hus : ∀ u ∈ us, u ∈ blocksOf a n) :
    readBlocks parts us [] s = ([], s) := by
  induction us with
  | nil => rfl
  | cons u us ih =>
    obtain ⟨hu, hrest⟩ := List.forall_mem_cons.mp hus
    have hblock : readBlock u .clean parts s = (none, s) := readBlock_readable h.quiet (h.good u hu) (h.alive u hu)
    simp [readBlocks, hblock, ih hrest]

theorem eccJudge_readable (h : Readable s q.req.addr q.req.len) (hlost : q.lost = []) : eccJudge q [] s = ([], s) := by
  unfold eccJudge
  simp only [hlost]
  rw [readBlocks_readable h fun u hu => (List.mem_filter.mp (List.mem_filter.mp hu).1).1]
  dsimp only
  rw [List.filter_eq_self.mpr fun e he => by simp [he]]
  rfl

/-- The bytes of a request start in its first block. -/
theorem blocksOf_cons (h : 1 ≤ n) : ∃ us, blocksOf a n = 32 * (a / 32) :: us := by
  rw [blocksOf, if_neg (by omega), List.range_succ_eq_map]
  exact ⟨_, rfl⟩

/-- A request of a channel that has not failed reads what no damage touches. -/
theorem reqOk_readable {r : DmcReq} (h : reqOk s c r = true) (hdead : (chanOf s c).dead = false)
    (hgood : (badIn s r.addr r.len).isNone = true) (hquiet : s.vib.runFrom = none) : Readable s r.addr r.len where
  quiet := hquiet
  good u hu e he heq := (badIn_none_iff (reqOk_piece h).2.2.1).mp hgood e he (heq ▸ mem_blocksOf hu)
  alive u hu := by
    obtain ⟨hpos, hpiece, -, hchan⟩ := reqOk_piece h
    have hplace : u / 64 = r.addr / 64 := by
      rw [blocksOf, if_neg (by omega), List.mem_map] at hu
      obtain ⟨j, hj, rfl⟩ := hu
      rw [List.mem_range] at hj
      omega
    rw [(placeOf_piece hplace).1, hchan, hdead]

theorem readsClean_readable (hbase : stackBase ≤ a) (h : Spec.readsClean s a n = true) : Readable s a n := by
  simp only [Spec.readsClean, Spec.alive, Bool.and_eq_true, Option.isNone_iff_eq_none, List.all_eq_true] at h
  obtain ⟨⟨hgood, hquiet⟩, halive⟩ := h
  refine ⟨hquiet, fun u hu e he heq => ?_, fun u hu => ?_⟩
  · exact (badIn_none_iff hbase).mp (Option.isNone_iff_eq_none.mpr hgood) e he (heq ▸ mem_blocksOf hu)
  · have hstack : stackBase ≤ u := by
      unfold blocksOf at hu
      split at hu
      · cases hu
      · rw [List.mem_map] at hu
        obtain ⟨j, -, rfl⟩ := hu
        unfold stackBase at hbase ⊢
        omega
    simpa [deadAt, hstack] using halive u hu

/-! Issue. -/

theorem onlyLedgers_dropUnits {p : Consumer → Bool} : OnlyLedgers s (dropUnits p s) := rfl

theorem onlyLedgers_endLease : OnlyLedgers s (endLease c s) := by
  unfold endLease
  split
  · exact onlyLedgers_dropUnits
  · exact .refl

/-- What is left of a queue when its `k`-th request has been issued. -/
def withoutAt (k : ℕ) (h : Channel) : Channel :=
  let qs := h.queue.eraseIdx k
  { h with queue := qs.map fun x => { x with
      partialWait := x.partialWait && qs.any fun y => isWrite y && overlap y.req x.req } }

theorem withoutAt_reqs {h : Channel} : (withoutAt k h).queue.map (·.req) = (h.queue.eraseIdx k).map (·.req) := by
  unfold withoutAt
  rw [List.map_map]
  rfl

/-- The rows and counters of a request that is issued (R245, R248). -/
def movedFor (c : Chan) (q : Queued) (s : State) : State :=
  let r := q.req
  let s := moveBursts (isWrite q) (blocksOf r.addr r.len) s
  let merges := ((blocksOf r.addr r.len).filter fun u => u < r.addr || r.addr + r.len < u + 32).length
  if isWrite q then bump c 6 merges s else s

/-- The write batch of a channel after an issue (R241). -/
def rebatch (q : Queued) (s : State) (h : Channel) : Channel :=
  let w := (h.queue.filter isWrite).length
  let ends := w == 0 || (isWrite q && w ≤ 8 && w != h.queue.length)
  { h with batch := (h.batch && !ends) || batchStarts s h }

/-- A read is answered with the value that it took (R240). -/
def answered (q : Queued) (s : State) : State := if isWrite q then s else send (.dram q.req (some q.value)) s

/-- Where its blocks are read well, an issue moves the bursts, answers a read, and may end the batch and the lease. -/
theorem issueAt_readable (h : Readable (movedFor c q (setChan c (withoutAt k) s)) q.req.addr q.req.len)
    (hlost : q.lost = []) : issueAt c k q [] s =
      (let t := answered q (movedFor c q (setChan c (withoutAt k) s))
       endLease c (setChan c (rebatch q t) t)) := by
  have hecc := eccJudge_readable h hlost
  unfold movedFor withoutAt at hecc
  unfold issueAt
  dsimp only at hecc ⊢
  rw [hecc]
  rfl

/-- The bursts of a request leave its row open (R245). -/
theorem movedFor_works (hpos : 1 ≤ q.req.len) (hq : (placeOf s q.req.addr).chan = c) :
    WorksChannels s (movedFor c q s) ∧ (s.dmc[ctlOf c].idle ≠ 0 →
      rowAt (movedFor c q s) c (placeOf s q.req.addr).bank = some (placeOf s q.req.addr).row) := by
  obtain ⟨us, hus⟩ := blocksOf_cons (a := q.req.addr) hpos
  obtain ⟨hchan, hbank, hrow⟩ :=
    placeOf_piece (s := s) (show 32 * (q.req.addr / 32) / 64 = q.req.addr / 64 by omega)
  obtain ⟨hworks, hopen⟩ := moveBursts_works (s := s) (x := 32 * (q.req.addr / 32)) (w := isWrite q) (us := us)
    (hchan.trans hq)
  rw [hbank, hrow] at hopen
  rw [← hus] at hworks hopen
  unfold movedFor
  dsimp only
  split
  · exact ⟨hworks.trans worksChannels_bump, fun hidle => rowAt_bump.trans (hopen hidle)⟩
  · exact ⟨hworks, hopen⟩

theorem answered_leaves : (answered q s).mem = s.mem ∧ (answered q s).dmc = s.dmc ∧
    (answered q s).out = if isWrite q then s.out else .dram q.req (some q.value) :: s.out := by
  unfold answered
  split
  · exact ⟨rfl, rfl, rfl⟩
  · exact ⟨rfl, rfl, rfl⟩

theorem issueAt_leaves (hok : reqOk s c q.req = true) (hdead : (chanOf s c).dead = false)
    (hgood : (badIn s q.req.addr q.req.len).isNone = true) (hquiet : s.vib.runFrom = none) (hlost : q.lost = [])
    (hidle : s.dmc[ctlOf c].idle ≠ 0) :
    (issueAt c k q [] s).mem = s.mem ∧
      (chanOf (issueAt c k q [] s) c).queue.map (·.req) = ((chanOf s c).queue.eraseIdx k).map (·.req) ∧
      isOpenAt (issueAt c k q [] s) c (placeOf s q.req.addr).bank (placeOf s q.req.addr).row = true ∧
      (issueAt c k q [] s).out = if isWrite q then s.out else .dram q.req (some q.value) :: s.out := by
  obtain ⟨hpos, -, -, hchan⟩ := reqOk_piece hok
  have hleft : MovesRows s (setChan c (withoutAt k) s) := movesRows_setChan fun _ => rfl
  obtain ⟨hworks, hopen⟩ := movedFor_works (s := setChan c (withoutAt k) s) hpos (hleft.placeOf_eq ▸ hchan)
  rw [hleft.placeOf_eq, dmc_setChan] at hopen
  rw [issueAt_readable (((reqOk_readable hok hdead hgood hquiet).moved hleft).moved hworks.toMovesRows) hlost, isOpenAt_iff,
    ← hopen hidle]
  have hframe := hworks.frame
  have hqueue := hworks.queue c
  generalize movedFor c q (setChan c (withoutAt k) s) = m at hframe hqueue ⊢
  obtain ⟨hmem, hdmc, hout⟩ := answered_leaves (q := q) (s := m)
  rw [chanOf_setChan] at hqueue
  dsimp only
  rw [onlyLedgers_endLease.mem_eq, onlyLedgers_endLease.out_eq, onlyLedgers_endLease.chanOf_eq, rowAt,
    onlyLedgers_endLease.chanOf_eq, chanOf_setChan, setChan_mem, setChan_out, hmem, hout, chanOf_of_dmc hdmc]
  refine ⟨by rw [hframe]; rfl, ?_, rfl, by rw [hframe]; rfl⟩
  rw [← withoutAt_reqs, ← hqueue]
  rfl

theorem issue_of_turn (hn : nthOf w i (chanOf s c).queue = some k) (hq : (chanOf s c).queue[k]? = some q)
    (hretrain : (chanOf s c).retraining = false) (htakes : takesReq s c = true)
    (hmay : mayIssue s c (chanOf s c).queue k q = true) (hgrant : holdsGrant s (.dram c) = true) :
    issue c w i ecc s = issueAt c k q ecc s := by
  unfold issue
  simp only [hn, hq, hretrain, htakes, hmay]
  exact withLease_of hgrant

/-! Scrub. -/

theorem scrubReq_base : stackBase ≤ (scrubReq s d c).req.addr := by
  unfold scrubReq addrOf
  dsimp only
  omega

theorem scrubNext_burst (h : s.dmc[d].posBurst < 63) :
    scrubNext d s = setDmc d (fun x => { x with posBurst := x.posBurst + 1 }) s := by
  unfold scrubNext
  exact if_pos (by omega)

/-- The channel that scrub stands at. -/
def scrubChan (s : State) (d : Fin 2) : Chan := Fin.ofNat 16 (8 * d.val + s.dmc[d].posChannel)

/-- A clean read of scrub moves its burst and the position (R257). -/
theorem scrubRead_clean (htakes : takesReq s (scrubChan s d) = true) (hretrain : (chanOf s (scrubChan s d)).retraining = false)
    (hroom : ((chanOf s (scrubChan s d)).queue.filter fun y => !isWrite y).length < 48)
    (hmay : mayIssue s (scrubChan s d) ((chanOf s (scrubChan s d)).queue ++ [scrubReq s d (scrubChan s d)])
      (chanOf s (scrubChan s d)).queue.length (scrubReq s d (scrubChan s d)) = true)
    (hgrant : holdsGrant s (.dram (scrubChan s d)) = true)
    (hclean : Spec.readsClean s (scrubReq s d (scrubChan s d)).req.addr 32 = true) :
    scrubRead d [] s = endLease (scrubChan s d) (scrubNext d (moveBursts false [(scrubReq s d (scrubChan s d)).req.addr] s)) := by
  have hread := (readsClean_readable scrubReq_base hclean).moved
    (movesRows_moveBursts (w := false) (us := [(scrubReq s d (scrubChan s d)).req.addr]))
  have hecc := eccJudge_readable (q := scrubReq s d (scrubChan s d)) hread rfl
  unfold scrubRead
  dsimp only
  rw [← scrubChan, if_neg (by simp [htakes, hretrain, hmay]; omega), withLease_of hgrant, hecc]
  rfl

theorem scrubRead_leaves (hburst : s.dmc[d].posBurst < 63) :
    let t := endLease c (scrubNext d (moveBursts w [x] s))
    t.dmc[d].posBurst = s.dmc[d].posBurst + 1 ∧ t.dmc[d].posRow = s.dmc[d].posRow ∧ t.dmc[d].posBank = s.dmc[d].posBank ∧
      t.dmc[d].posChannel = s.dmc[d].posChannel ∧ t.mem = s.mem ∧ t.bad = s.bad := by
  have hworks : WorksChannels s (moveBursts w [x] s) := (moveBursts_works rfl).1
  have hregs := hworks.regs d
  have hframe := hworks.frame
  generalize moveBursts w [x] s = m at hregs hframe
  have hm : m.dmc[d].posBurst < 63 := by rw [hregs]; exact hburst
  intro t
  have ht : OnlyLedgers (setDmc d (fun x => { x with posBurst := x.posBurst + 1 }) m) t :=
    scrubNext_burst hm ▸ onlyLedgers_endLease
  have hdmc : t.dmc[d] = { m.dmc[d] with posBurst := m.dmc[d].posBurst + 1 } := by
    rw [ht.dmc_eq]
    exact dmc_setDmc
  rw [hdmc, hregs]
  refine ⟨rfl, rfl, rfl, rfl, ?_, ?_⟩
  · rw [ht.mem_eq, setDmc_mem, hframe]
  · rw [ht, setDmc_bad, hframe]

end

end Sys2Proof.Proofs

namespace Sys2Proof.Proofs

/-! ### Refresh, MR4, retraining, self-refresh and the counters (R251 to R258, R260, R261) -/

open Sys2Proof.Machine

section
variable {s : State} {j n off drift : ℕ} {c : Chan} {d : Fin 2} {i : Fin 8} {k : Fin 16} {perBank : Bool}
  {v : Mr4} {vs : List Mr4} {w : Word}

theorem chanOf_setDmc {g : Dmc → Dmc} (hchans : ∀ x, (g x).chans = x.chans) : chanOf (setDmc d g s) c = chanOf s c := by
  by_cases hd : ctlOf c = d
  · subst hd
    simp [chanOf, setDmc, hchans]
  · have hne : (ctlOf c).val ≠ d.val := fun h => hd (Fin.ext h)
    have hne' : d.val ≠ (ctlOf c).val := fun h => hd (Fin.ext h.symm)
    simp [chanOf, setDmc, hne']

theorem setDmc_id {g : Dmc → Dmc} (h : g s.dmc[d] = s.dmc[d]) : setDmc d g s = s := by
  unfold setDmc
  rw [h]
  simp

/-! A slot (R251, R253). -/

theorem worksChannels_refreshNow : WorksChannels s (refreshNow c perBank s) := by
  unfold refreshNow
  extract_lets h hit waits cycles s1 s2
  have hcounted : WorksChannels s s1 := by
    dsimp only [s1]
    split
    · exact worksChannels_bump
    · exact .refl
  have hclosed : WorksChannels s s2 := hcounted.foldl fun _ _ => worksChannels_closeRow
  exact hclosed.trans (worksChannels_setChan (by exact fun _ => ⟨rfl, rfl⟩))

/-- An all-bank refresh closes every row (R245). -/
theorem openRows_refreshNow : (chanOf (refreshNow c false s) c).openRows[k] = none := by
  unfold refreshNow
  extract_lets h hit waits cycles s1 s2
  rw [openRows_setChan (by exact fun _ => rfl)]
  exact openRows_closeRows (.inl (List.mem_filter.mpr ⟨mem_banks, rfl⟩))

theorem worksChannels_slotChannel : WorksChannels s (slotChannel d perBank i s) := by
  unfold slotChannel
  extract_lets c h acc dueNow s1 w mayWait s2
  have hacc : WorksChannels s s1 := worksChannels_setChan (by exact fun _ => ⟨rfl, rfl⟩)
  have hslot : WorksChannels s s2 := by
    dsimp only [s2]
    split
    · split
      · exact hacc.trans (worksChannels_setChan (by exact fun _ => ⟨rfl, rfl⟩))
      · exact hacc.trans worksChannels_refreshNow
    split
    · exact (hacc.trans (worksChannels_setChan (by exact fun _ => ⟨rfl, rfl⟩))).trans worksChannels_refreshNow
    · exact hacc
  refine hslot.trans (worksChannels_setChan fun h => ?_)
  split
  · exact ⟨rfl, rfl⟩
  · exact ⟨rfl, rfl⟩

/-- A due refresh that may not be postponed closes every row of its channel (R251, R253). -/
theorem slotChannel_due (hpostpone : s.dmc[d].postpone = 0)
    (hdue : 8 ≤ (chanOf s (Fin.ofNat 16 (8 * d.val + i.val))).acc + dueOf (chanOf s (Fin.ofNat 16 (8 * d.val + i.val))).rate) :
    (chanOf (slotChannel d false i s) (Fin.ofNat 16 (8 * d.val + i.val))).openRows[k] = none := by
  unfold slotChannel
  extract_lets c h acc dueNow s1 w mayWait s2
  have hs1 : s1.dmc[d].postpone = 0 := by
    dsimp only [s1]
    rw [dmc_setChan]
    exact hpostpone
  have hwait : mayWait = false := by
    dsimp only [mayWait, w, slotWorth]
    rw [hs1]
    simp
  have hs2 : s2 = refreshNow c false s1 := by
    dsimp only [s2]
    rw [if_pos hdue, hwait]
    rfl
  rw [openRows_setChan (fun h => by split <;> rfl), hs2]
  exact openRows_refreshNow

theorem modeNow_id {x : Dmc} (h : x.mode = x.modeNow) : { x with modeNow := x.mode } = x := by
  cases x
  cases h
  rfl

/-- With MODE all-bank, a slot is that of one channel. -/
theorem refreshSlot_allBank (hsr : s.dmc[d].sr = false) (hrun : islRuns s (Fin.ofNat 32 (25 + d.val)) = true)
    (hon : refreshOn s = true) (hmode : s.dmc[d].mode = false) (hnow : s.dmc[d].modeNow = false) :
    refreshSlot d s = setDmc d (fun x => { x with slot := (x.slot + 1) % 16 })
      (slotChannel d false (Fin.ofNat 8 (s.dmc[d].slot % 8)) s) := by
  have hset : setDmc d (fun x => if x.slot = 0 then { x with modeNow := x.mode } else x) s = s := setDmc_id (by
    split
    · exact modeNow_id (hmode.trans hnow.symm)
    · rfl)
  unfold refreshSlot
  rw [hsr, hrun, hon, Bool.not_true, Bool.or_false, Bool.or_false, if_neg Bool.false_ne_true, hset]
  dsimp only
  rw [hnow]
  rfl

theorem refreshSlot_leaves (hsr : s.dmc[d].sr = false) (hrun : islRuns s (Fin.ofNat 32 (25 + d.val)) = true)
    (hon : refreshOn s = true) (hmode : s.dmc[d].mode = false) (hnow : s.dmc[d].modeNow = false)
    (hpostpone : s.dmc[d].postpone = 0) :
    (refreshSlot d s).dmc[d].slot = (s.dmc[d].slot + 1) % 16 ∧ (refreshSlot d s).mem = s.mem ∧
      (8 ≤ (chanOf s (Fin.ofNat 16 (8 * d.val + s.dmc[d].slot % 8))).acc +
          dueOf (chanOf s (Fin.ofNat 16 (8 * d.val + s.dmc[d].slot % 8))).rate →
        ∀ k : Fin 16, (chanOf (refreshSlot d s) (Fin.ofNat 16 (8 * d.val + s.dmc[d].slot % 8))).openRows[k] = none) := by
  rw [refreshSlot_allBank hsr hrun hon hmode hnow]
  have hval : (Fin.ofNat 8 (s.dmc[d].slot % 8)).val = s.dmc[d].slot % 8 := Nat.mod_mod _ _
  generalize Fin.ofNat 8 (s.dmc[d].slot % 8) = i at hval ⊢
  rw [← hval]
  have hworks : WorksChannels s (slotChannel d false i s) := worksChannels_slotChannel
  have hslot := hworks.regs d
  refine ⟨?_, hworks.mem_eq, fun hdue k => ?_⟩
  · rw [dmc_setDmc, hslot]
  · rw [chanOf_setDmc (by exact fun _ => rfl)]
    exact slotChannel_due hpostpone hdue

/-! MR4 (R252, R253). -/

/-- What a channel shows after its MR4 asked for a rate. -/
def Asked : Mr4 → Channel → Prop
  | .x1, h => h.rate = 0
  | .x2, h => h.rate = 1
  | .x4, h => h.rate = 2
  | .half, _ => True
  | .hotter _, h => h.hot = true

theorem mr4One_asked : Asked v (chanOf (mr4One d i v s) (Fin.ofNat 16 (8 * d.val + i.val))) := by
  unfold mr4One
  cases v with
  | x1 => dsimp only; rw [chanOf_setChan]; rfl
  | x2 => dsimp only; rw [chanOf_setChan]; rfl
  | x4 => dsimp only; rw [chanOf_setChan]; rfl
  | half => trivial
  | hotter value =>
    extract_lets c half set was u
    have hhot : (chanOf u c).hot = true := by
      dsimp only [u, half]
      rw [chanOf_setChan, chanOf_setChan]
      split
      · rfl
      split
      · rfl
      · rfl
    change (chanOf _ c).hot = true
    dsimp only
    split
    · exact hhot
    · rw [chanOf_of_dmc logErr_dmc, hhot]

theorem mr4One_other (h : Fin.ofNat 16 (8 * d.val + i.val) ≠ c) : chanOf (mr4One d i v s) c = chanOf s c := by
  unfold mr4One
  cases v with
  | x1 => exact chanOf_setChan_ne h
  | x2 => exact chanOf_setChan_ne h
  | x4 => exact chanOf_setChan_ne h
  | half => exact chanOf_setChan_ne h
  | hotter value =>
    extract_lets c' half set was u
    have hu : chanOf u c = chanOf s c := (chanOf_setChan_ne h).trans (chanOf_setChan_ne h)
    dsimp only
    split
    · exact hu
    · rw [chanOf_of_dmc logErr_dmc, hu]

/-- The poll of the `j`-th channel. -/
def mr4Each (d : Fin 2) (vs : List Mr4) (s : State) (j : ℕ) : State :=
  match vs[j]? with
  | some v => mr4One d (Fin.ofNat 8 j) v s
  | none => s

theorem index_ne (h : j < 8) (hne : j ≠ i.val) :
    Fin.ofNat 16 (8 * d.val + (Fin.ofNat 8 j).val) ≠ Fin.ofNat 16 (8 * d.val + i.val) := by
  intro heq
  have hval := congrArg Fin.val heq
  simp only [Fin.val_ofNat] at hval
  omega

theorem mr4Each_asked (hn : n ≤ 8) (hi : i.val < n) (hv : vs[i.val]? = some v) :
    Asked v (chanOf ((List.range n).foldl (mr4Each d vs) s) (Fin.ofNat 16 (8 * d.val + i.val))) := by
  induction n with
  | zero => cases hi
  | succ n ih =>
    rw [List.range_succ, List.foldl_append, List.foldl_cons, List.foldl_nil]
    generalize hu : (List.range n).foldl (mr4Each d vs) s = u at ih ⊢
    unfold mr4Each
    by_cases hin : n = i.val
    · subst hin
      rw [hv, Fin.ofNat_val_eq_self]
      exact mr4One_asked
    · have hkept := ih (by omega) (by omega)
      split
      · rw [mr4One_other (index_ne (by omega) hin)]
        exact hkept
      · exact hkept

theorem exec_mr4Poll (hporst : s.porst = false) (hsr : s.dmc[d].sr = false)
    (hrun : islRuns s (Fin.ofNat 32 (25 + d.val)) = true) :
    exec (.mr4Poll d vs) s = .next ((List.range 8).foldl (mr4Each d vs) s) := by
  refine (live_of (f := fun s => if s.dmc[d].sr || !islRuns s (Fin.ofNat 32 (25 + d.val)) then s
    else (List.range 8).foldl (mr4Each d vs) s) hporst).trans ?_
  rw [hsr, hrun]
  rfl

/-! Retraining and self-refresh (R255, R256, R258). -/

theorem worksChannels_startRetrain : WorksChannels s (startRetrain c s) := by
  unfold startRetrain
  exact worksChannels_closeAll.trans (worksChannels_setChan (by exact fun _ => ⟨rfl, rfl⟩))

theorem startRetrain_chan : (chanOf (startRetrain c s) c).retraining = true ∧
    ∀ k : Fin 16, (chanOf (startRetrain c s) c).openRows[k] = none := by
  unfold startRetrain
  rw [openRows_setChan (by exact fun _ => rfl), chanOf_setChan]
  exact ⟨rfl, fun k => openRows_closeAll⟩

theorem trackDrift_within (h : drift ≤ 250) : trackDrift c drift s = s := by
  unfold trackDrift
  exact if_pos (by simp [h])

theorem trackDrift_beyond (h : 250 < drift) (hjoined : (chanOf s c).joined = true) (hdead : (chanOf s c).dead = false) :
    trackDrift c drift s = startRetrain c s := by
  unfold trackDrift
  exact if_neg (by simp [hjoined, hdead]; omega)

theorem worksChannels_trackDrift : WorksChannels s (trackDrift c drift s) := by
  unfold trackDrift
  dsimp only
  split
  · exact .refl
  · exact worksChannels_startRetrain

theorem retrainComplete_ok (h : (chanOf s c).retraining = true) :
    (chanOf (retrainComplete c true s) c).retraining = false ∧ (chanOf (retrainComplete c true s) c).tries = 0 ∧
      (retrainComplete c true s).evc.latch.getLsbD 33 = true := by
  unfold retrainComplete
  dsimp only
  rw [h, Bool.not_true, if_neg Bool.false_ne_true, if_pos rfl, chanOf_of_dmc report_dmc, chanOf_setDmc (by exact fun _ => rfl),
    chanOf_setChan]
  exact ⟨rfl, rfl, report_latch⟩

/-- A third failure in succession fails the channel (R256). -/
theorem retrainComplete_third (h : (chanOf s c).retraining = true) (htries : (chanOf s c).tries = 2) :
    (chanOf (retrainComplete c false s) c).dead = true ∧ (chanOf (retrainComplete c false s) c).retraining = false := by
  unfold retrainComplete
  dsimp only
  rw [h, Bool.not_true, if_neg Bool.false_ne_true, if_neg Bool.false_ne_true, if_neg (by omega), chanOf_of_dmc logErr_dmc,
    chanOf_setChan]
  exact ⟨rfl, rfl⟩

theorem exitDone_stays (h : s.dmc[d].exiting = false) : exitDone d s = s := by
  unfold exitDone
  rw [h]
  rfl

theorem exitDone_exits (h : s.dmc[d].exiting = true) : (exitDone d s).dmc[d].exiting = false ∧
    (exitDone d s).dmc[d].down = false ∧ (exitDone d s).mem = s.mem := by
  unfold exitDone
  rw [h, Bool.not_true, if_neg Bool.false_ne_true]
  extract_lets cs s1 s2 s3
  have hrefreshed : s1.mem = s.mem := (WorksChannels.refl.foldl fun _ _ => worksChannels_refreshNow).mem_eq
  have htracked : s2.mem = s.mem := by
    dsimp only [s2]
    split
    · exact (WorksChannels.refl.foldl fun _ _ => worksChannels_trackDrift).mem_eq.trans hrefreshed
    · exact hrefreshed
  have hleft {t : State} (ht : OnlyLedgers s3 t) : t.dmc[d].exiting = false ∧ t.dmc[d].down = false ∧ t.mem = s.mem := by
    rw [ht.dmc_eq, ht.mem_eq]
    dsimp only [s3]
    rw [dmc_setDmc]
    exact ⟨rfl, rfl, htracked⟩
  refine hleft (OnlyLedgers.refl.foldl fun u x hu => ?_)
  split
  · exact hu.trans onlyLedgers_request
  · exact hu

/-! The hazard mode (R260). -/

theorem exec_hazardApply (hporst : s.porst = false) : exec (.hazardApply c) s = .next
    (setChan c (fun h => if h.queue.any isWrite then h else { h with fwd := s.dmc[ctlOf c].staged.getLsbD (localOf c).val }) s) :=
  live_of hporst

/-! The counters (R60, R261). -/

theorem whenRuns_runs {f : State → State} (h : islRuns s (Fin.ofNat 32 (regIsland off)) = true) : whenRuns off w f s = f s :=
  if_pos h

theorem whenRuns_stopped {f : State → State} (h : islRuns s (Fin.ofNat 32 (regIsland off)) = false) :
    whenRuns off w f s = { s with isl := { s.isl with acts := s.isl.acts ++ [(off, w)] } } :=
  if_neg fun hrun => Bool.false_ne_true (h.symm.trans hrun)

theorem cntCtrl_offset : dmcBase d + 0x100 = 0x8100 + 0x1000 * d.val := by unfold dmcBase; omega

theorem cntCtrl_island : regIsland (0x8100 + 0x1000 * d.val) = 25 + d.val := by
  revert d
  decide

theorem exec_dmcCntSnap (h : served s (0x8100 + 0x1000 * d.val) = true) :
    exec (.dmcCntSnap d) s = .next (whenRuns (0x8100 + 0x1000 * d.val) 1 (cntSnap d) s) := by
  rw [← cntCtrl_offset] at h ⊢
  exact (live_of (served_porst h)).trans (congrArg _ (regWrite_of_served h))

theorem exec_dmcCntClear (h : served s (0x8100 + 0x1000 * d.val) = true) :
    exec (.dmcCntClear d) s = .next (whenRuns (0x8100 + 0x1000 * d.val) 2 (cntClear d) s) := by
  rw [← cntCtrl_offset] at h ⊢
  exact (live_of (served_porst h)).trans (congrArg _ (regWrite_of_served h))

theorem cntSnap_chans : (cntSnap d s).dmc[d].chans[i] = { s.dmc[d].chans[i] with snap := s.dmc[d].chans[i].live } := by
  unfold cntSnap
  rw [dmc_setDmc]
  exact Vector.getElem_map _ _

theorem cntClear_chans : (cntClear d s).dmc[d].chans[i] = { s.dmc[d].chans[i] with live := Vector.replicate 8 0 } := by
  unfold cntClear
  rw [dmc_setDmc]
  exact Vector.getElem_map _ _

end

end Sys2Proof.Proofs

namespace Sys2Proof.Proofs

/-! ### Section scrub (R342), and the rows of the controllers -/

open Sys2Proof.Machine

section
variable {s : State} {a o i drift : ℕ} {m : Fin 4} {c : Chan} {b : Fin 16} {x : OpenRow} {ecc : Ecc}
  {r : DmcReq} {w ok : Bool} {d : Fin 2}

theorem wordsOf_aligned (h : a % 8 = 0) : wordsOf a 8 = [a] := by
  have hone : (a + 8 - 1) / 8 - a / 8 + 1 = 1 := by omega
  have hself : 8 * (a / 8 + 0) = a := by omega
  rw [wordsOf, if_neg (by decide), hone, List.range_one, List.map_singleton, hself]

/-- A word that is not uncorrectable is read as its ECC finds it. -/
theorem readNear_word (halign : a % 8 = 0) (hnear : a < stackBase) (hquiet : s.vib.runFrom = none)
    (hgood : (badIn s a 8).isNone = true) : readNear a 8 [] [] s = (.ok (memRead s.mem a 8), s) ∧
      ∀ k, readNear a 8 [.uncorrectable k] [] s = (.bad [(a, k.val)], markBad a k.val s) := by
  have hfind : s.bad.find? (fun e => e.1 == a) = none := by
    rw [badIn, Option.isNone_iff_eq_none, List.find?_eq_none, eccUnit, if_neg (not_le.mpr hnear)] at hgood
    rw [List.find?_eq_none]
    intro e he heq
    have hfree := hgood e he
    simp only [beq_iff_eq] at heq
    simp [heq] at hfree
  have hopp : ∀ n ok, opportunity n ok s = false := fun n ok => by rw [opportunity, hquiet]
  simp [readNear, wordsOf_aligned halign, readWords, readWord, hfind, hopp]

/-- SECTION_SCRUB found its word uncorrectable: VCE_SEC_UE counts it, and VCE_SEC_UE_ADDR holds its offset (R342). -/
def sectionDamaged (m : Fin 4) (o k : ℕ) (s : State) : State :=
  setSection m (fun x => { x with ue := x.ue + 1, ueAddr := o / 8 * 8 })
    (markBad (0x800000 * m.val + o / 8 * 8) k (endGrant (.secMem m) s))

/-- SECTION_SCRUB reads its word under the grant (R341, R342). -/
theorem sectionScrub_reads (hrun : islRuns s (Fin.ofNat 32 (17 + m.val)) = true) (ho : o < 0x600000)
    (hgrant : holdsGrant s (.secMem m) = true) (hquiet : s.vib.runFrom = none)
    (hgood : (badIn s (0x800000 * m.val + o / 8 * 8) 8).isNone = true) :
    sectionScrub m o [] s = endGrant (.secMem m) s ∧
      ∀ k, sectionScrub m o [.uncorrectable k] s = sectionDamaged m o k.val s := by
  have hm := m.isLt
  obtain ⟨hclean, hdamaged⟩ := readNear_word (s := endGrant (.secMem m) s) (a := 0x800000 * m.val + o / 8 * 8) (by omega)
    (by unfold stackBase; omega) hquiet hgood
  have hgo : ¬ (!islRuns s (Fin.ofNat 32 (17 + m.val)) || decide (0x600000 ≤ o)) = true := by
    rw [hrun]
    simpa using ho
  unfold sectionScrub
  refine ⟨?_, fun k => ?_⟩
  · dsimp only
    rw [if_neg hgo, withBurst_of hgrant, hclean]
  · dsimp only
    rw [if_neg hgo, withBurst_of hgrant, hdamaged, sectionDamaged]

theorem sectionDamaged_leaves {k : ℕ} : (sectionDamaged m o k s).sections[m].ue = s.sections[m].ue + 1 ∧
    (sectionDamaged m o k s).sections[m].ueAddr = o / 8 * 8 ∧ (sectionDamaged m o k s).mem = s.mem := by
  simp [sectionDamaged, setSection, markBad, endGrant, ledgerOf, setLedger]

/-! What each row does where PORST_N is high. -/

theorem exec_dmcRequestAccept (hp : s.porst = false) : exec (.dmcRequestAccept c r) s = .next (accept c r s) := live_of hp

theorem exec_dmcRequestIssue (hp : s.porst = false) : exec (.dmcRequestIssue c w i ecc) s = .next (issue c w i ecc s) :=
  live_of hp

theorem exec_refreshSlot (hp : s.porst = false) : exec (.refreshSlot d) s = .next (refreshSlot d s) := live_of hp

theorem exec_retrainComplete (hp : s.porst = false) : exec (.retrainComplete c ok) s = .next (retrainComplete c ok s) :=
  live_of hp

theorem exec_scrubRead (hp : s.porst = false) : exec (.scrubRead d ecc) s = .next (scrubRead d ecc s) := live_of hp

theorem exec_selfRefreshExitComplete (hp : s.porst = false) :
    exec (.selfRefreshExitComplete d) s = .next (exitDone d s) := live_of hp

theorem exec_sectionScrub (hp : s.porst = false) : exec (.sectionScrub m o ecc) s = .next (sectionScrub m o ecc s) :=
  live_of hp

/-- The idle timer closes a row with no request queued to it (R245). -/
theorem exec_rowIdleClose (hporst : s.porst = false) (hopen : (chanOf s c).openRows[b] = some x)
    (hidle : ∀ q ∈ (chanOf s c).queue, (placeOf s q.req.addr).bank ≠ b ∨ (placeOf s q.req.addr).row ≠ x.row) :
    exec (.rowIdleClose c b) s = .next (closeRow c b s) := by
  have hunwanted : ((chanOf s c).queue.any fun q => bankOf s q == b && (placeOf s q.req.addr).row == x.row) = false :=
    List.any_eq_false.mpr fun q hq => by
      rcases hidle q hq with h | h
      · simp [bankOf, h]
      · simp [h]
  change execRowIdleClose c b s = _
  rw [execRowIdleClose, live_of hporst]
  dsimp only
  rw [hopen]
  exact congrArg _ (if_neg (Bool.eq_false_iff.mp hunwanted))

theorem exec_dqsTrack (hporst : s.porst = false) :
    exec (.dqsTrack c drift) s = .next (if s.dmc[ctlOf c].sr then s else trackDrift c drift s) := by
  change execDqsTrack c drift s = _
  rw [execDqsTrack, live_of hporst]

end

/-- Settles O55: the bytes of memory are those of the accepted requests (log entry 15), an issue moves bursts and answers a
read with the value that it took, and the rows of refresh, tracking, scrub and the counters work on their channels. -/
theorem requestsRowsAndRefresh : Obligations.RequestsRowsAndRefresh := by
  intro s hporst
  refine ⟨fun c r htakes hok hnext => ⟨fun d hd hroom hdead hwf hgood => ?_, fun hd hroom => ⟨fun hclear => ?_,
      fun w hlast hcovers hfwd hdead => ?_⟩⟩, fun c r htakes => ?_,
    fun c w i k q hn hq hretrain htakes hmay hgrant hok hlost hdead hquiet hgood hidle => ?_,
    fun c b o hopen hidle => ?_, fun d hsr hrun hon hmode hnow hpostpone => ?_, fun d vs hsr hrun => ?_,
    fun c drift => ⟨fun hdrift hjoined hdead hsr => ?_, fun hdrift => ?_⟩,
    fun c hretrain => ⟨?_, fun htries => ?_⟩, fun d htakes hretrain hroom hmay hgrant hclean hburst => ?_,
    fun d => ⟨fun h => ?_, fun h => ?_⟩, fun c hreads => ?_,
    fun d h => ⟨fun hrun => ⟨?_, ?_⟩, fun hstop => ⟨?_, ?_⟩⟩, fun m o hrun ho hquiet hgrant hgood => ?_⟩
  · exact ⟨_, exec_dmcRequestAccept hporst, accept_write_leaves htakes hok hnext hd hroom hdead hwf hgood⟩
  · obtain ⟨hqueue, hmem⟩ := queueDram_leaves (c := c) (q := queuedRead s r) (s := s)
    rw [exec_dmcRequestAccept hporst, accept_read htakes hok hnext hd hroom hclear]
    exact ⟨_, rfl, hmem, hqueue⟩
  · rw [exec_dmcRequestAccept hporst, accept_forward htakes hok hnext hd hroom hlast hcovers hfwd hdead]
  · rw [exec_dmcRequestAccept hporst, accept_refused htakes]
  · rw [exec_dmcRequestIssue hporst, issue_of_turn hn hq hretrain htakes hmay hgrant]
    exact ⟨_, rfl, issueAt_leaves hok hdead hgood hquiet hlost hidle⟩
  · exact ⟨_, exec_rowIdleClose hporst hopen hidle, openRows_closeRow_self, worksChannels_closeRow.mem_eq,
      fun e he => openRows_closeRow_other he⟩
  · exact ⟨_, exec_refreshSlot hporst, refreshSlot_leaves hsr hrun hon hmode hnow hpostpone⟩
  · refine ⟨_, exec_mr4Poll hporst hsr hrun, fun i => ?_⟩
    rw [← chanOf_index]
    have hasked {v : Mr4} (hv : vs[i.val]? = some v) := mr4Each_asked (s := s) (d := d) le_rfl i.isLt hv
    exact ⟨fun hv => hasked hv, fun hv => hasked hv, fun hv => hasked hv, fun v hv => hasked hv⟩
  · rw [exec_dqsTrack hporst, hsr, if_neg Bool.false_ne_true, trackDrift_beyond hdrift hjoined hdead]
    exact ⟨_, rfl, startRetrain_chan.1, worksChannels_startRetrain.mem_eq, startRetrain_chan.2⟩
  · rw [exec_dqsTrack hporst, trackDrift_within hdrift, ite_self]
  · exact ⟨_, exec_retrainComplete hporst, retrainComplete_ok hretrain⟩
  · exact ⟨_, exec_retrainComplete hporst, retrainComplete_third hretrain htries⟩
  · rw [exec_scrubRead hporst, scrubRead_clean htakes hretrain hroom hmay hgrant hclean]
    exact ⟨_, rfl, scrubRead_leaves hburst⟩
  · rw [exec_selfRefreshExitComplete hporst, exitDone_stays h]
  · exact ⟨_, exec_selfRefreshExitComplete hporst, exitDone_exits h⟩
  · have hnone : (chanOf s c).queue.any isWrite = false := List.any_eq_false.mpr fun q hq => by simp [hreads q hq]
    refine ⟨_, exec_hazardApply hporst, ?_⟩
    rw [chanOf_setChan, hnone, if_neg Bool.false_ne_true]
  · refine ⟨_, exec_dmcCntSnap h, ?_⟩
    rw [whenRuns_runs (cntCtrl_island ▸ hrun)]
    exact ⟨rfl, fun i => cntSnap_chans⟩
  · refine ⟨_, exec_dmcCntClear h, ?_⟩
    rw [whenRuns_runs (cntCtrl_island ▸ hrun)]
    exact ⟨rfl, fun i => cntClear_chans⟩
  · rw [exec_dmcCntSnap h, whenRuns_stopped (cntCtrl_island ▸ hstop)]
  · rw [exec_dmcCntClear h, whenRuns_stopped (cntCtrl_island ▸ hstop)]
  · obtain ⟨hclean, hdamaged⟩ := sectionScrub_reads hrun ho hgrant hquiet hgood
    refine ⟨(exec_sectionScrub hporst).trans (congrArg _ hclean), fun k => ?_⟩
    rw [exec_sectionScrub hporst, hdamaged k]
    exact ⟨_, rfl, sectionDamaged_leaves⟩

end Sys2Proof.Proofs

namespace Sys2Proof.Proofs

/-! ### Blocks and pages of the flash (R267, R271, R272) -/

open Sys2Proof.Machine

section
variable {s t : State} {b c p x y : ℕ} {f : NandBlock → NandBlock} {r : ErrRec}

/-- What a search finds is found as well among elements that hold all it can find. -/
theorem find?_filter_of_imp {α : Type} {l : List α} {g h : α → Bool} (hgh : ∀ a, h a = true → g a = true) :
    (l.filter g).find? h = l.find? h := by
  rw [List.find?_filter]
  congr 1
  funext a
  cases ha : h a
  · simp
  · simp [hgh a ha]

theorem blockOfNand_num : (blockOfNand s b).num = b := by
  unfold blockOfNand
  cases hb : s.nand.blocks.find? (·.num == b) with
  | none => rfl
  | some k => simpa using List.find?_some hb

theorem blockOfNand_setBlock (hf : ∀ k, (f k).num = k.num) : blockOfNand (setBlock b f s) b = f (blockOfNand s b) := by
  have hnum : (f (blockOfNand s b)).num = b := (hf _).trans blockOfNand_num
  rw [blockOfNand, setBlock, List.find?_cons_of_pos (by simp [hnum])]
  rfl

theorem blockOfNand_setBlock_ne (hne : c ≠ b) (hf : ∀ k, (f k).num = k.num) :
    blockOfNand (setBlock b f s) c = blockOfNand s c := by
  have hnum : (f (blockOfNand s b)).num = b := (hf _).trans blockOfNand_num
  rw [blockOfNand, setBlock, List.find?_cons_of_neg (by simp [hnum, Ne.symm hne]),
    find?_filter_of_imp fun k hk => by simp_all]
  rfl

theorem logErr_nand : (logErr r s).nand = s.nand := by rw [logErr_frame]

theorem logErr_flc : (logErr r s).flc = s.flc := by rw [logErr_frame]

/-- What stands in the array is read from the metadata and the pages alone. -/
theorem blockOfNand_congr (h : t.nand.blocks = s.nand.blocks) : blockOfNand t b = blockOfNand s b := by
  unfold blockOfNand
  rw [h]

/-- A page reads as another does that is stored alike. -/
theorem nandPage_congr (h : (t.nand.pages.find? (·.1 == 768 * c + x)).map (·.2) =
    (s.nand.pages.find? (·.1 == 768 * b + p)).map (·.2)) : nandPage t c x = nandPage s b p := by
  unfold nandPage
  rw [h]

theorem nandPage_of_none (h : s.nand.pages.find? (·.1 == 768 * b + p) = none) :
    nandPage s b p = List.replicate 16384 0xFF := by
  unfold nandPage
  rw [h]
  rfl

/-! Erased blocks. -/

theorem eraseBlock_blocks : blockOfNand (eraseBlock b s) b =
    { blockOfNand s b with pe := (blockOfNand s b).pe + 1, reads := 0, mark := 0, offset := 0, flagged := [] } :=
  blockOfNand_setBlock (f := fun k => { k with pe := k.pe + 1, reads := 0, mark := 0, offset := 0, flagged := [] })
    fun _ => rfl

theorem nandPage_eraseBlock (hp : p < 768) : nandPage (eraseBlock b s) b p = List.replicate 16384 0xFF := by
  refine nandPage_of_none (List.find?_eq_none.mpr fun q hq hkey => ?_)
  obtain ⟨-, hother⟩ := List.mem_filter.mp hq
  rw [beq_iff_eq] at hkey
  rw [hkey, Nat.mul_add_div (by decide), Nat.div_eq_of_lt hp] at hother
  simp at hother

theorem nandPage_eraseBlock_ne (hne : c ≠ b) (hp : p < 768) : nandPage (eraseBlock b s) c p = nandPage s c p := by
  refine nandPage_congr (congrArg _ (find?_filter_of_imp (l := s.nand.pages) fun q hq => ?_))
  simp only [beq_iff_eq, bne_iff_ne] at hq ⊢
  omega

/-! Programmed pages. -/

theorem nandPage_programPage {bytes : List Byte} (hfull : bytes.length = 16384) :
    nandPage (programPage b p bytes s) b p = bytes := by
  rw [nandPage, programPage, List.find?_cons_of_pos (by simp)]
  simp [hfull]

theorem nandPage_programPage_ne {bytes : List Byte} (hp : p < 768) (hy : y < 768) (hne : x ≠ b ∨ y ≠ p) :
    nandPage (programPage b p bytes s) x y = nandPage s x y := by
  have hkey : 768 * x + y ≠ 768 * b + p := by omega
  refine nandPage_congr (congrArg _ ?_)
  rw [programPage, List.find?_cons_of_neg (by simp [Ne.symm hkey]), find?_filter_of_imp fun q hq => by simp_all]
  rfl

end

end Sys2Proof.Proofs

namespace Sys2Proof.Proofs

/-! ### What a page read counts and marks (R269, R271) -/

open Sys2Proof.Machine

section
variable {s t u : State} {b i k n page part first : ℕ} {who : Option Cmd} {r : CwRead}
  {cws : List CwRead} {o : Fin 9}

/-! Marks. -/

/-- `t` came from `s` by marks of a block: nothing but the metadata of blocks differs, and of
that block nothing but its mark. -/
structure Marks (b : ℕ) (s t : State) : Prop where
  frame : t = { s with nand := { s.nand with blocks := t.nand.blocks } }
  block : ∃ m, blockOfNand t b = { blockOfNand s b with mark := m }

theorem Marks.refl : Marks b s s := ⟨rfl, _, rfl⟩

theorem Marks.trans (h : Marks b s t) (m : Marks b t u) : Marks b s u := by
  obtain ⟨i, hi⟩ := h.block
  obtain ⟨j, hj⟩ := m.block
  exact ⟨by rw [m.frame, h.frame], j, by rw [hj, hi]⟩

theorem Marks.flc_eq (h : Marks b s t) : t.flc = s.flc := by rw [h.frame]

theorem Marks.reads_eq (h : Marks b s t) : (blockOfNand t b).reads = (blockOfNand s b).reads := by
  obtain ⟨m, hm⟩ := h.block
  rw [hm]

theorem Marks.flagged_eq (h : Marks b s t) : (blockOfNand t b).flagged = (blockOfNand s b).flagged := by
  obtain ⟨m, hm⟩ := h.block
  rw [hm]

theorem marks_markBlock : Marks b s (markBlock b k s) := by
  unfold markBlock
  split
  · split
    · refine ⟨rfl, if (blockOfNand s b).mark = 0 then k else (blockOfNand s b).mark, ?_⟩
      rw [blockOfNand_setBlock fun x => by split <;> rfl]
      split <;> rfl
    · exact .refl
  · exact .refl

theorem Marks.markIf {p : Prop} [Decidable p] (h : Marks b s t) : Marks b s (if p then markBlock b k t else t) := by
  split
  · exact h.trans marks_markBlock
  · exact h

/-- The page reads of a block, counted. -/
def readsAdded (b n : ℕ) (s : State) : State := setBlock b (fun x => { x with reads := x.reads + n }) s

theorem blockOfNand_readsAdded : blockOfNand (readsAdded b n s) b =
    { blockOfNand s b with reads := (blockOfNand s b).reads + n } :=
  blockOfNand_setBlock (f := fun x => { x with reads := x.reads + n }) fun _ => rfl

theorem marks_countReads : Marks b (readsAdded b n s) (countReads b n s) := Marks.refl.markIf

/-- Within the limit of R271 reads mark nothing. -/
theorem countReads_within (h : (blockOfNand s b).reads + n ≤ 1024 * s.flc.limit) : countReads b n s = readsAdded b n s := by
  have hwithin : ¬ 1024 * s.flc.limit < (blockOfNand (readsAdded b n s) b).reads := by
    rw [blockOfNand_readsAdded]
    exact not_lt.mpr h
  exact if_neg hwithin

/-! Codewords. -/

theorem isFlagged_congr (h : (blockOfNand t b).flagged = (blockOfNand s b).flagged) :
    isFlagged t b page i = isFlagged s b page i := by
  unfold isFlagged
  rw [h]

theorem isFlagged_countReads : isFlagged (countReads b n s) b page i = isFlagged s b page i :=
  isFlagged_congr (by rw [marks_countReads.flagged_eq, blockOfNand_readsAdded])

/-- A decoded codeword counts RECOVERED where it took a retry. -/
def recoveredBy (first : ℕ) (o : Fin 9) (s : State) : State :=
  if o.val = first then s else { s with flc := { s.flc with recovered := satAdd 65535 s.flc.recovered 1 } }

theorem blockOfNand_recoveredBy : blockOfNand (recoveredBy first o s) b = blockOfNand s b := by
  unfold recoveredBy
  split <;> rfl

theorem recoveredBy_flc (hretry : o.val ≠ first) :
    (recoveredBy first o s).flc = { s.flc with recovered := min 65535 (s.flc.recovered + 1) } := by
  rw [recoveredBy, if_neg hretry]
  rfl

/-- A codeword that decodes may mark its block. -/
theorem readCw_decoded (hflag : isFlagged s b page i = false) (hoffset : r.offset = some o) :
    Marks b (recoveredBy first o s) (readCw b page i first part who r s) := by
  unfold readCw
  rw [if_neg (by simp [hflag]), hoffset]
  exact Marks.refl.markIf.markIf

/-- A codeword that its first offset decodes with few corrected bits leaves no trace. -/
theorem readCw_clean (hflag : isFlagged s b page i = false) (hoffset : r.offset = some o) (hlow : o.val < 4)
    (hbits : r.corrected ≤ 48) : readCw b page i o.val part who r s = s := by
  unfold readCw
  rw [if_neg (by simp [hflag]), hoffset]
  dsimp only
  rw [if_pos rfl, if_neg (by omega), if_neg (by omega)]

theorem readCw_failed (hoffset : r.offset = none) : readCw b page i first part who r s = cwLost b page part who s := by
  unfold readCw
  rw [hoffset, ite_self]

/-! Pages. -/

theorem lostOf_clean (hflag : ∀ i < cws.length, isFlagged s b page i = false) (hclean : ∀ x ∈ cws, x.offset = some o) :
    lostOf s b page cws = [] := by
  refine List.filter_eq_nil_iff.mpr fun i hi => ?_
  have hlt := List.mem_range.mp hi
  simp [hflag i hlt, List.getElem?_eq_getElem hlt, hclean _ (List.getElem_mem hlt)]

/-- A page whose codewords all decode at the first offset, none flagged, counts one read of its block and nothing else. -/
theorem readCws_clean (hflag : ∀ i < cws.length, isFlagged s b page i = false)
    (hclean : ∀ x ∈ cws, x.offset = some o ∧ x.corrected ≤ 48) (hlow : o.val < 4)
    (hlimit : (blockOfNand s b).reads + 1 ≤ 1024 * s.flc.limit) :
    readCws b page o.val part who cws s = readsAdded b 1 s := by
  have htries : ∀ x ∈ cws.zipIdx, triesOf o.val x.1 = 0 := fun x hx => by
    simp [triesOf, (hclean _ (List.fst_mem_of_mem_zipIdx hx)).1]
  have hnone : (cws.zipIdx.map fun x => triesOf o.val x.1).foldl max 0 = 0 := by
    rw [List.map_congr_left htries, List.map_const']
    induction cws.zipIdx.length with
    | zero => rfl
    | succ n ih => exact ih
  have hserved : (cws.zipIdx.filterMap fun x => if triesOf o.val x.1 = 0 then none else some (triesOf o.val x.1)) = [] :=
    List.filterMap_eq_nil_iff.mpr fun x hx => if_pos (htries x hx)
  have hread : ∀ l : List (CwRead × ℕ), (∀ x ∈ l, x ∈ cws.zipIdx) →
      l.foldl (fun s x => readCw b page x.2 o.val part who x.1 s) (countReads b 1 s) = countReads b 1 s := by
    intro l
    induction l with
    | nil => exact fun _ => rfl
    | cons x l ih =>
      intro hl
      have hx := hl x List.mem_cons_self
      have hi : x.2 < cws.length := List.snd_lt_of_mem_zipIdx hx
      obtain ⟨hoffset, hbits⟩ := hclean _ (List.fst_mem_of_mem_zipIdx hx)
      rw [List.foldl_cons, readCw_clean (isFlagged_countReads.trans (hflag _ hi)) hoffset hlow hbits]
      exact ih fun y hy => hl y (List.mem_cons_of_mem _ hy)
  unfold readCws
  rw [lostOf_clean hflag fun x hx => (hclean x hx).1]
  simp only [List.contains_nil, Bool.false_eq_true, if_false]
  rw [hnone, hserved, hread _ fun _ hx => hx, countReads_within hlimit]
  rfl

/-- A codeword that no offset decodes takes all of the retries. -/
theorem readCws_failed (hoffset : r.offset = none) :
    readCws b page first part who [r] s = cwLost b page part who (countReads b 9 s) := by
  have hlost : lostOf s b page [r] = [0] := by simp [lostOf, hoffset]
  unfold readCws
  rw [hlost]
  simp [readCw_failed hoffset]

/-- The offset that served last is the first that its block is read at. -/
def offsetTaken (b k : ℕ) (s : State) : State := setBlock b (fun x => { x with offset := k }) s

theorem blockOfNand_offsetTaken : blockOfNand (offsetTaken b k s) b = { blockOfNand s b with offset := k } :=
  blockOfNand_setBlock (f := fun x => { x with offset := k }) fun _ => rfl

/-- A codeword that a retry decodes: the offset becomes its block's first. -/
theorem readCws_retried (hflag : isFlagged s b page 0 = false) (hoffset : r.offset = some o) (hretry : o.val ≠ first)
    (hzero : o.val ≠ 0) : readCws b page first part who [r] s = offsetTaken b o.val
      (readCw b page 0 first part who r (countReads b (1 + o.val) s)) := by
  have hlost : lostOf s b page [r] = [] := by simp [lostOf, hoffset, hflag]
  have htries : triesOf first r = o.val := by simp [triesOf, hoffset, hretry]
  unfold readCws
  rw [hlost]
  simp [htries, hzero, offsetTaken]

theorem cwLost_flc : (cwLost b page part who s).flc =
    { s.flc with uncorr := min 65535 (s.flc.uncorr + 1) } := logErr_flc

theorem countReads_flc : (countReads b n s).flc = s.flc := marks_countReads.flc_eq

/-- What a retry counts, and what it leaves of the block (R269, R271). -/
theorem readCws_retried_leaves (hflag : isFlagged s b page 0 = false) (hoffset : r.offset = some o)
    (hretry : o.val ≠ first) (hzero : o.val ≠ 0) : let t := readCws b page first part who [r] s
    t.flc = { s.flc with recovered := min 65535 (s.flc.recovered + 1) } ∧ (blockOfNand t b).offset = o.val ∧
      (blockOfNand t b).reads = (blockOfNand s b).reads + 1 + o.val := by
  have hcounted : Marks b (readsAdded b (1 + o.val) s) (countReads b (1 + o.val) s) := marks_countReads
  have hread := readCw_decoded (part := part) (who := who) (first := first)
    ((isFlagged_countReads (n := 1 + o.val)).trans hflag) hoffset
  have hreads : (blockOfNand (readCw b page 0 first part who r (countReads b (1 + o.val) s)) b).reads =
      (blockOfNand s b).reads + (1 + o.val) := by
    rw [hread.reads_eq, blockOfNand_recoveredBy, hcounted.reads_eq, blockOfNand_readsAdded]
  dsimp only
  rw [readCws_retried hflag hoffset hretry hzero, blockOfNand_offsetTaken]
  refine ⟨hread.flc_eq.trans ?_, rfl, by dsimp only; omega⟩
  rw [recoveredBy_flc hretry, countReads_flc]

/-! What page reads leave alone. -/

/-- `t` came from `s` by page reads: the slots, the pages, the remap table and the pool stand, and of the FLC block only
RECOVERED and UNCORR differ. -/
def CountsReads (s t : State) : Prop :=
  t = { s with
    nand := { s.nand with blocks := t.nand.blocks }
    flc := { s.flc with recovered := t.flc.recovered, uncorr := t.flc.uncorr }
    hif := t.hif, evc := t.evc }

theorem CountsReads.refl : CountsReads s s := rfl

theorem CountsReads.trans (h : CountsReads s t) (m : CountsReads t u) : CountsReads s u := by
  unfold CountsReads at *
  rw [m, h]

theorem CountsReads.foldl {α : Type} {f : State → α → State} {l : List α} (h : CountsReads s t)
    (hf : ∀ u x, CountsReads u (f u x)) : CountsReads s (l.foldl f t) := by
  induction l generalizing t with
  | nil => exact h
  | cons x l ih => exact ih (h.trans (hf t x))

theorem Marks.countsReads (h : Marks b s t) : CountsReads s t := by
  unfold CountsReads
  rw [h.frame]

theorem countsReads_setBlock {f : NandBlock → NandBlock} : CountsReads s (setBlock b f s) := rfl

theorem countsReads_cwLost : CountsReads s (cwLost b page part who s) := by
  unfold cwLost CountsReads
  extract_lets slot
  rw [logErr_frame]

theorem countsReads_readCw : CountsReads s (readCw b page i first part who r s) := by
  have hcount {o : Fin 9} : CountsReads s (recoveredBy first o s) := by
    unfold recoveredBy
    split <;> exact rfl
  cases hflag : isFlagged s b page i with
  | true =>
    rw [readCw, if_pos hflag]
    exact countsReads_cwLost
  | false =>
    cases hoffset : r.offset with
    | none => rw [readCw_failed hoffset]; exact countsReads_cwLost
    | some o => exact hcount.trans (readCw_decoded hflag hoffset).countsReads

theorem countsReads_readCws : CountsReads s (readCws b page first part who cws s) := by
  unfold readCws
  extract_lets lost tries served t u
  have ht : CountsReads s t := (countsReads_setBlock (s := s)).trans marks_countReads.countsReads
  have hu : CountsReads s u := ht.foldl fun _ _ => countsReads_readCw
  clear_value served
  cases served with
  | none => exact hu
  | some k => exact hu.trans countsReads_setBlock

end

end Sys2Proof.Proofs

namespace Sys2Proof.Proofs

/-! ### The flash comes up (R266, R268) -/

open Sys2Proof.Machine

section
variable {s : State} {id status detail i n : ℕ} {refused : Bool} {payload : List Byte} {ch : Fin 2} {copies : List Bool}
  {bad : List ℕ} {failed : Option (Fin 2)}

/-! What the ends of commands and the entries of PRELOAD leave of the FLC block. -/

theorem finish_flc : (finish id status detail refused payload s).flc = s.flc := by
  rw [Completes.finish .refl]

theorem refuse_flc : (refuse id status detail s).flc = s.flc := by
  unfold refuse
  dsimp only
  rw [finish_flc, (Sends.releasePeers .refl).frame]

theorem refuseFlash_flc : (refuseFlash s).flc = s.flc := by
  unfold refuseFlash
  generalize (s.cmds.filter fun c => c.usesFlash && !c.admitted).map (·.id) = ids
  induction ids generalizing s with
  | nil => rfl
  | cons id ids ih => exact ih.trans refuse_flc

theorem earlyFailed_flc : (earlyFailed id status s).flc = s.flc := by
  unfold earlyFailed
  split
  · rfl
  · exact logErr_flc

theorem commitFuses_flc : (commitFuses s).flc = s.flc := by
  unfold commitFuses
  split
  · rfl
  · split <;> rfl

theorem fullEntry_flc : (fullEntry s).flc = s.flc := by
  unfold fullEntry
  extract_lets t1 bsc t2
  rw [(Completes.refl (s := t2)).settleEarly]
  exact commitFuses_flc

theorem preloadFailed_flc : (preloadFailed i status s).flc = s.flc := by
  unfold preloadFailed
  split
  · rfl
  · exact logErr_flc

theorem preloadPos_flc : (preloadPos s).flc = s.flc := by
  unfold preloadPos
  split <;> rfl

theorem preloadGo_flc : (preloadGo n s).flc = s.flc := by
  induction n generalizing s with
  | zero => rfl
  | succ n ih =>
    unfold preloadGo
    split
    · rfl
    dsimp only
    split
    · exact fullEntry_flc
    split
    · exact ih.trans preloadFailed_flc
    split
    · exact preloadPos_flc
    split
    · exact ih.trans preloadFailed_flc
    · exact preloadPos_flc

theorem preloadAll_flc : (preloadAll s).flc = s.flc := preloadGo_flc

/-- Outside PRELOAD no entry starts. -/
theorem preloadAll_idle (h : s.bsc.stage ≠ .preload) : preloadAll s = s := by
  unfold preloadAll preloadGo
  exact if_pos (by simp [h])

/-! FLASH_INIT_COMPLETE. -/

/-- After ISLANDS the controller of a part with flash, which runs and has neither come up nor failed, is to come up. -/
structure ComesUp (s : State) : Prop where
  part : flashPart s = true
  runs : islRuns s 27 = true
  ready : s.flc.ready = false
  fail : s.flc.fail = false
  mute : muted s = false
  stage : 3 < stageCode s.bsc.stage

theorem ComesUp.acts (h : ComesUp s) : ¬(!flashPart s || !islRuns s 27 || s.flc.ready || s.flc.fail || muted s ||
    decide (stageCode s.bsc.stage ≤ 3)) = true := by
  simp [h.part, h.runs, h.ready, h.fail, h.mute, h.stage]

theorem exec_flashInitComplete (hp : s.porst = false) :
    exec (.flashInitComplete failed copies bad) s = .next (flashInit failed copies bad s) := live_of hp

/-- A channel that fails three attempts makes the whole flash unavailable (R266). -/
theorem flashInit_dead (h : ComesUp s) : (flashInit (some ch) copies bad s).flc = { s.flc with fail := true } := by
  unfold flashInit
  rw [if_neg h.acts]
  exact preloadAll_flc.trans (earlyFailed_flc.trans (refuseFlash_flc.trans logErr_flc))

/-- Good metadata make the flash READY; a slot that was being written or erased is PARTIAL (R266, R268). -/
theorem flashInit_good (h : ComesUp s) (hstage : s.bsc.stage ≠ .preload) :
    flashInit none [true, true, true, true] [] s =
      { settleSlots s with flc := { s.flc with ready := true } } := by
  unfold flashInit
  rw [if_neg h.acts]
  exact preloadAll_idle (s := { settleSlots s with flc := { s.flc with ready := true } }) hstage

theorem settleSlots_slot (k : Fin 32) : (settleSlots s).nand.slots[k] =
    if s.nand.slots[k].st = 4 ∨ s.nand.slots[k].st = 5 then { st := 3, len := 0, id := 0 } else s.nand.slots[k] := by
  simp [settleSlots]

end

end Sys2Proof.Proofs

namespace Sys2Proof.Proofs

/-! ### What the channels of the flash serve: page reads, the patrol and refresh (R264, R265, R271, R272) -/

open Sys2Proof.Machine

section
variable {s t : State} {b p x y : ℕ} {xs ys : List ℕ} {who : FlashReader} {cws reads : List CwRead} {g : Tag}
  {f : State → State} {lost : List (ℕ × ℕ)} {failed : Bool}

/-! The leases of the channels. -/

/-- The lease of a channel ends with the operation that it serves. -/
def channelDone (ch : ℕ) (s : State) : State := endGrant (.flash (Fin.ofNat 2 ch)) s

theorem withFlash_held {ch : ℕ} (h : holdsFlash s g ch = true) : withFlash [ch] g f s = f (channelDone ch s) := by
  rw [withFlash, if_pos (by simp [h])]
  rfl

theorem withFlash_asks {ch : ℕ} (h : holdsFlash s g ch = false) :
    withFlash [ch] g f s = request (.flash (Fin.ofNat 2 ch)) g (channelDone ch s) := by
  rw [withFlash, if_neg (by simp [h]), List.foldl_cons, List.foldl_nil, h]
  rfl

theorem withFlash_both {a c : ℕ} (ha : holdsFlash s g a = true) (hc : holdsFlash s g c = true) :
    withFlash [a, c] g f s = f (channelDone c (channelDone a s)) := by
  rw [withFlash, if_pos (by simp [ha, hc])]
  rfl

/-! FLASH_PAGE_READ. -/

theorem exec_flashPageRead (hp : s.porst = false) :
    exec (.flashPageRead b p cws) s = .next (flashPageRead b p cws s) := live_of hp

/-- The page that its channel serves next is read under the channel's lease. -/
theorem flashPageRead_served (hready : s.flc.ready = true) (hrun : islRuns s 27 = true) (hmute : muted s = false)
    (hlen : cws.length = 4) (hok : cws.all (cwOk (firstOffset s b who)) = true)
    (hnext : nextRead s (b % 2) = some (who, b, p)) :
    flashPageRead b p cws s = withFlash [b % 2] (readerTag s who) (readPage who b p cws) s := by
  unfold flashPageRead
  rw [if_neg (by simp [hready, hrun, hmute, hlen]), hnext]
  exact if_neg (by simp [hok])

theorem flashPageRead_other (hother : ∀ who, nextRead s (b % 2) ≠ some (who, b, p)) : flashPageRead b p cws s = s := by
  unfold flashPageRead
  split
  · rfl
  split
  · rfl
  · next who b' p' hnext =>
    refine if_pos ?_
    by_contra hsame
    obtain ⟨hb, hp, -⟩ := by simpa only [not_or, not_not] using hsame
    exact hother who (by rw [hnext, hb, hp])

/-! FLASH_PATROL. -/

theorem exec_flashPatrol (hp : s.porst = false) : exec (.flashPatrol reads) s = .next (flashPatrol reads s) := live_of hp

theorem flashPatrol_early (h : s.flc.patrol = 0 ∨ s.clk < s.flc.patrolAt + 3600000000000 * s.flc.patrol) :
    flashPatrol reads s = s := by
  unfold flashPatrol
  refine if_pos ?_
  rcases h with h | h <;> simp [h]

/-- The pages of a patrol are read, four codewords each; the period runs anew. -/
def patrolled (qs : List (ℕ × ℕ)) (reads : List CwRead) (s : State) : State :=
  qs.zipIdx.foldl (fun s q => patrolPage q.1 ((reads.drop (4 * q.2)).take 4) s)
    { s with flc := { s.flc with patrolAt := s.clk } }

theorem flashPatrol_due (hready : s.flc.ready = true) (hrun : islRuns s 27 = true) (hmute : muted s = false)
    (hperiod : s.flc.patrol ≠ 0) (hturn : patrolTurn s = true)
    (hdue : s.flc.patrolAt + 3600000000000 * s.flc.patrol ≤ s.clk) (hlen : reads.length = 4 * (patrolPages s).length) :
    flashPatrol reads s = withFlash [0, 1] .system (patrolled (patrolPages s) reads) s := by
  unfold flashPatrol
  exact if_neg (by simp [hready, hrun, hmute, hperiod, hturn, hdue, hlen])

theorem countsReads_patrolled {qs : List (ℕ × ℕ)} :
    CountsReads { s with flc := { s.flc with patrolAt := s.clk } } (patrolled qs reads s) :=
  CountsReads.refl.foldl fun _ _ => countsReads_readCws

theorem patrolled_one (hlen : reads.length = 4) : patrolled [(b, p)] reads s =
    readCws b p (blockOfNand s b).offset 0xFF none reads { s with flc := { s.flc with patrolAt := s.clk } } := by
  have hall : reads.take 4 = reads := List.take_of_length_le hlen.le
  change readCws b p (blockOfNand s b).offset 0xFF none (reads.take 4) _ = _
  rw [hall]

/-! BLOCK_REFRESH_COMPLETE. -/

theorem exec_blockRefreshComplete (hp : s.porst = false) :
    exec (.blockRefreshComplete lost failed) s = .next (blockRefresh lost failed s) := live_of hp

theorem blockRefresh_turn (hready : s.flc.ready = true) (hrun : islRuns s 27 = true) (hmute : muted s = false)
    (hmarked : markedBlocks s = x :: xs) (hpool : s.nand.pool = y :: ys) (hx : refreshTurn s (x % 2) = true)
    (hy : refreshTurn s (y % 2) = true) (hleaseX : holdsFlash s .system (x % 2) = true)
    (hleaseY : holdsFlash s .system (y % 2) = true) : blockRefresh lost failed s =
      let u := channelDone (y % 2) (channelDone (x % 2) s)
      if failed then leavePool (retire y 1 0xFF none u) else moveBlock x y lost u := by
  unfold blockRefresh
  rw [if_neg (by simp [hready, hrun, hmute]), hmarked, hpool]
  dsimp only
  rw [if_neg (by simp [hx, hy]), withFlash_both hleaseX hleaseY]

/-- The remap record is committed: Y holds the pages of X and takes its place, and X joins the pool (R272). -/
def remapped (x y : ℕ) (s : State) : State :=
  let orig := ((s.nand.remap.find? (·.2 == x)).map (·.1)).getD x
  setBlock y (fun b => { b with reads := 0, mark := 0, offset := 0, flagged := ((blockOfNand s x).flagged ++ []).dedup })
    { s with nand := { s.nand with
      pages := (s.nand.pages.filter fun q => q.1 / 768 != y) ++
        (s.nand.pages.filter fun q => q.1 / 768 == x).map fun q => (768 * y + q.1 % 768, q.2)
      remap := (orig, y) :: s.nand.remap.filter (·.1 != orig)
      pool := s.nand.pool.tail ++ [x] } }

theorem moveBlock_nand : (moveBlock x y [] s).nand = (eraseBlock x (remapped x y s)).nand := logErr_nand

theorem moveBlock_flc : (moveBlock x y [] s).flc = { s.flc with refreshes := min 65535 (s.flc.refreshes + 1) } := logErr_flc

theorem blockOfNand_remapped (hne : x ≠ y) : blockOfNand (remapped x y s) x = blockOfNand s x := by
  unfold remapped
  extract_lets orig
  refine (blockOfNand_setBlock_ne hne ?_).trans rfl
  exact fun _ => rfl

/-- Page for page Y holds what X held. -/
theorem nandPage_remapped (hp : p < 768) : nandPage (remapped x y s) y p = nandPage s x p := by
  have hfirst : (s.nand.pages.filter fun q => q.1 / 768 != y).find? (·.1 == 768 * y + p) = none :=
    List.find?_eq_none.mpr fun q hq hkey => by
      have hother := (List.mem_filter.mp hq).2
      simp only [bne_iff_ne, beq_iff_eq] at hother hkey
      omega
  have hkey : ∀ q : ℕ × List Byte, (decide ((q.1 / 768 == x) = true ∧
      (768 * y + q.1 % 768 == 768 * y + p) = true)) = (q.1 == 768 * x + p) := fun q => by
    rw [Bool.eq_iff_iff]
    simp only [decide_eq_true_eq, beq_iff_eq]
    omega
  refine nandPage_congr ?_
  change (((s.nand.pages.filter fun q => q.1 / 768 != y) ++ _).find? _).map _ = _
  rw [List.find?_append, hfirst, Option.none_or, List.find?_map, List.find?_filter]
  simp only [Function.comp_apply, hkey, Option.map_map]
  rfl

theorem nandPage_of_nand (h : t.nand = s.nand) : nandPage t b p = nandPage s b p := nandPage_congr (by rw [h])

/-- A refresh: Y stands in the place of X with its pages, and X, erased, ends the pool (R272). -/
theorem moveBlock_leaves (hpool : s.nand.pool = y :: ys) (hne : x ≠ y) : let t := moveBlock x y [] s
    t.nand.pool = ys ++ [x] ∧ (blockOfNand t x).pe = (blockOfNand s x).pe + 1 ∧ (blockOfNand t x).mark = 0 ∧
      (∀ p, p < 768 → nandPage t y p = nandPage s x p ∧ nandPage t x p = List.replicate 16384 0xFF) ∧
      t.nand.slots = s.nand.slots := by
  have hnand := moveBlock_nand (x := x) (y := y) (s := s)
  dsimp only
  rw [blockOfNand_congr (t := moveBlock x y [] s) (congrArg Nand.blocks hnand), eraseBlock_blocks,
    blockOfNand_remapped hne, hnand]
  refine ⟨?_, rfl, rfl, fun p hp => ⟨?_, ?_⟩, rfl⟩
  · change s.nand.pool.tail ++ [x] = _
    rw [hpool]
    rfl
  · rw [nandPage_of_nand hnand, nandPage_eraseBlock_ne (Ne.symm hne) hp, nandPage_remapped hp]
  · rw [nandPage_of_nand hnand, nandPage_eraseBlock hp]

theorem leavePool_nand : (leavePool s).nand = { s.nand with pool := s.nand.pool.tail } := by
  unfold leavePool
  extract_lets t
  split
  · exact logErr_nand
  · rfl

theorem retire_nand {why part : ℕ} {c : Option Cmd} : (retire y why part c s).nand =
    (setBlock y (fun k => { k with retired := true, mark := 0 }) s).nand := logErr_nand

/-- A program failure retires the block of the pool, which it leaves; nothing is programmed (R272). -/
theorem leavePool_retire {why part : ℕ} {c : Option Cmd} : let t := leavePool (retire y why part c s)
    t.nand.pool = s.nand.pool.tail ∧ (blockOfNand t y).retired = true ∧ t.nand.pages = s.nand.pages := by
  have hblock : blockOfNand (setBlock y (fun k => { k with retired := true, mark := 0 }) s) y =
      { blockOfNand s y with retired := true, mark := 0 } := blockOfNand_setBlock fun _ => rfl
  have hblocks : (leavePool (retire y why part c s)).nand.blocks =
      (setBlock y (fun k => { k with retired := true, mark := 0 }) s).nand.blocks := by rw [leavePool_nand, retire_nand]
  dsimp only
  rw [blockOfNand_congr hblocks, hblock, leavePool_nand, retire_nand]
  exact ⟨rfl, rfl, rfl⟩

end

/-- Settles O53: what each row does is the equation of its row; the counts and marks of page reads leave slots and pages alone
(log entries 47, 48), and a refresh takes the lowest marked block and the pool's first (log entry 79). -/
theorem flashReadsAndRefresh : Obligations.FlashReadsAndRefresh := by
  intro s hporst hrun hmute
  refine ⟨fun hpart hready hfail hstage => ?_,
    fun hready => ⟨fun b p who cws hlen hok hnext => ⟨fun hheld => ?_, fun hfree => ?_⟩,
      fun b p cws hother => ?_, fun hperiod hturn hdue hlease0 hlease1 reads hlen => ?_, fun reads hearly => ?_,
      fun x xs y ys hmarked hpool hne hturnX hturnY hleaseX hleaseY => ⟨?_, ?_⟩⟩,
    fun b p part who k r0 r1 r2 r3 hflag hlow h0 h1 h2 h3 hlimit => ?_,
    fun b p part who first k c hflag hzero hretry => ?_, fun b p part who first c => ?_⟩
  · have hup : ComesUp s := ⟨hpart, hrun, hready, hfail, hmute, hstage⟩
    refine ⟨fun ch copies bad => ⟨_, exec_flashInitComplete hporst, ?_⟩, fun hpreload => ?_⟩
    · rw [flashInit_dead hup]
      exact ⟨rfl, hready⟩
    · exact ⟨_, (exec_flashInitComplete hporst).trans (congrArg _ (flashInit_good hup hpreload)), rfl, settleSlots_slot⟩
  · rw [exec_flashPageRead hporst, flashPageRead_served hready hrun hmute hlen hok hnext, withFlash_held hheld]
    rfl
  · rw [exec_flashPageRead hporst, flashPageRead_served hready hrun hmute hlen hok hnext, withFlash_asks hfree]
    rfl
  · rw [exec_flashPageRead hporst, flashPageRead_other hother]
  · rw [exec_flashPatrol hporst, flashPatrol_due hready hrun hmute hperiod hturn hdue hlen, withFlash_both hlease0 hlease1]
    have hreads := countsReads_patrolled (qs := patrolPages s) (reads := reads) (s := channelDone 1 (channelDone 0 s))
    refine ⟨_, rfl, by rw [hreads]; rfl, by rw [hreads]; rfl, by rw [hreads]; rfl, fun b p hone => ?_⟩
    rw [hone] at hlen ⊢
    rw [patrolled_one hlen]
    rfl
  · rw [exec_flashPatrol hporst, flashPatrol_early hearly]
  · rw [exec_blockRefreshComplete hporst,
      blockRefresh_turn hready hrun hmute hmarked hpool hturnX hturnY hleaseX hleaseY]
    obtain ⟨hjoins, hpe, hmark, hpages, hslots⟩ :=
      moveBlock_leaves (s := channelDone (y % 2) (channelDone (x % 2) s)) hpool hne
    exact ⟨_, rfl, hjoins, congrArg Flc.refreshes moveBlock_flc, hpe, hmark, hpages, hslots⟩
  · rw [exec_blockRefreshComplete hporst,
      blockRefresh_turn hready hrun hmute hmarked hpool hturnX hturnY hleaseX hleaseY]
    obtain ⟨hpooled, hretired, hpages⟩ := leavePool_retire (y := y) (why := 1) (part := 0xFF) (c := none)
      (s := channelDone (y % 2) (channelDone (x % 2) s))
    exact ⟨_, rfl, hpooled.trans (congrArg List.tail hpool), hretired, hpages⟩
  · refine readCws_clean hflag (fun x hx => ?_) hlow hlimit
    simp only [List.mem_cons, List.not_mem_nil, or_false] at hx
    rcases hx with rfl | rfl | rfl | rfl <;> exact ⟨rfl, ‹_›⟩
  · obtain ⟨hflc, hoffset, hreads⟩ := readCws_retried_leaves (part := part) (who := who)
      (r := { offset := some k, corrected := c }) hflag rfl hretry hzero
    dsimp only
    rw [hflc]
    exact ⟨rfl, hoffset, hreads, rfl⟩
  · rw [readCws_failed rfl, cwLost_flc, countReads_flc]

end Sys2Proof.Proofs

namespace Sys2Proof.Proofs

/-! ### Writes and erases of the flash (R195, R268, R273, R274) -/

open Sys2Proof.Machine

section
variable {s : State} {id op b p status detail m : ℕ} {c : Cmd} {o : FlashOp} {rest : List ℕ} {f g : Cmd → Cmd}
  {failed : Bool}

/-! Commands set to work. -/

theorem setCmd_setCmd (hg : ∀ x, (g x).id = x.id) : setCmd id f (setCmd id g s) = setCmd id (fun x => f (g x)) s := by
  have hcmds : (setCmd id f (setCmd id g s)).cmds = (setCmd id (fun x => f (g x)) s).cmds := by
    simp only [setCmd, List.map_map]
    refine List.map_congr_left fun x _ => ?_
    by_cases hx : x.id = id <;> simp [hx, hg]
  change { s with cmds := (setCmd id f (setCmd id g s)).cmds } = _
  rw [hcmds]
  rfl

/-- A command set to work: its wait, if it had one, is counted (R202). -/
def working (s : State) (x : Cmd) : Cmd := { x with phase := .running, queuedNs := queuedNow s x, waitFrom := none }

theorem runCmd_eq : runCmd id s = setCmd id (working s) s := setCmd_setCmd fun _ => rfl

/-! Admission from the deferral queue (R195, R268). -/

/-- A flash command starts with its claim on the slot. -/
theorem start_flash (hjobs : s.jobs = []) (hc : cmdOf s id = some c) (hop : c.op = 0x48 ∨ c.op = 0x49) :
    start id s = setCmd id (fun x => { x with phase := .ready }) (claimSlot c s) := by
  have hctx : makesCtx c = false := by rcases hop with hop | hop <;> simp [makesCtx, isWork, hop]
  have henter : enterCtx c s = s := if_pos (by rw [hctx]; rfl)
  have hnone : (setCmd id (fun x => { x with phase := .ready }) (claimSlot c s)).jobs = [] := by
    rw [setCmd_jobs, claimSlot]
    rcases hop with hop | hop <;> simp [hop, setSlot, hjobs]
  unfold start
  rw [hc]
  dsimp only
  rw [henter, hnone]
  rfl

theorem deferredStart_flash (hjobs : s.jobs = [])
    (hfirst : firstBy (serviceKey s) (s.cmds.filter (couldStart s)) = some c) (hid : c.id = id)
    (hc : cmdOf s id = some c) (hphase : c.phase = .deferred true) (hop : c.op = 0x48 ∨ c.op = 0x49)
    (herased : c.op = 0x48 → slotState s (Fin.ofNat 32 (c.byte 17)) = 1) :
    deferredStart id s = setCmd id (fun x => { x with phase := .ready }) (claimSlot c s) := by
  unfold deferredStart
  rw [hfirst]
  dsimp only
  rw [if_neg (not_not_intro hid), if_neg (by simp [hphase]), if_neg (by simpa using herased)]
  exact start_flash hjobs hc hop

theorem claimSlot_write (hop : c.op = 0x48) : claimSlot c s = setSlot (Fin.ofNat 32 (c.byte 17)) 4 0 0 s := if_pos hop

theorem claimSlot_erase (hop : c.op = 0x49) : claimSlot c s = setSlot (Fin.ofNat 32 (c.byte 17)) 5 0 0 s := by
  unfold claimSlot
  rw [if_neg (by simp [hop])]
  exact if_pos hop

/-! The operation in progress. -/

/-- The state with this operation in progress. -/
def withOp (o : FlashOp) (s : State) : State := { s with flc := { s.flc with op := some o } }

theorem setOp_eq {f : FlashOp → FlashOp} (ho : s.flc.op = some o) : setOp f s = withOp (f o) s := by
  unfold setOp
  rw [ho]
  rfl

theorem erased_more (ho : s.flc.op = some o) (hblocks : o.blocks ≠ []) : erased s = s := by
  unfold erased
  rw [ho]
  exact if_pos (by simpa using hblocks)

theorem erased_last (ho : s.flc.op = some o) (hblocks : o.blocks = []) (herase : o.erase = true) :
    erased s = endOp o 0x00 0 0 (setSlot o.slot 1 0 0 s) := by
  unfold erased
  rw [ho]
  dsimp only
  rw [if_neg (by simp [hblocks]), if_pos herase]

theorem finish_nand {refused : Bool} {payload : List Byte} : (finish id status detail refused payload s).nand = s.nand := by
  rw [Completes.finish .refl]

/-- The end of an operation completes its command, and FLC_LAST and source 34 tell it (R195, R274). -/
theorem endOp_leaves (hc : cmdOf s o.cmd = some c) (hsilent : c.silent = false) (hmute : muted s = false)
    (hearly : s.bsc.early = false) : let t := endOp o status detail m s
    (∃ p, Spec.done s t c status (detail % 65536) p) ∧ t.flc.op = none ∧ t.flc.lastValid = true ∧
      t.flc.lastStatus = status ∧ t.nand = s.nand ∧ t.evc.latch.getLsbD 34 = true := by
  unfold endOp
  extract_lets flc u pay t
  have hdone := finish_spec (s := u) (status := status) (detail := detail) (refused := false) (payload := pay)
    hc hsilent hmute hearly
  have hflc : t.flc = u.flc := finish_flc
  rw [hflc]
  exact ⟨⟨pay, done_congr hdone rfl rfl rfl rfl⟩, rfl, rfl, rfl, finish_nand, report_latch⟩

/-! FLASH_WRITE_IMAGE and FLASH_ERASE_SLOT begin. -/

/-- Once admitted a flash command is set to work, with its operation in progress. -/
theorem live_beginFlash (h : Spec.isReady s id c op) (hfree : s.flc.op = none) : live s (beginFlash op id) =
    let n : Fin 32 := Fin.ofNat 32 (c.byte 17)
    .next (if op = 0x49 then erased (withOp (newOp c true n (goodBlocks s n)) (setCmd id (working s) s))
      else endIfGone (want id (c.field 24 8) 256 (withOp (newOp c false n []) (setCmd id (working s) s)))) := by
  obtain ⟨hporst, hc, hop, hphase, -⟩ := h
  refine (live_of hporst).trans (congrArg _ ?_)
  unfold beginFlash
  rw [admitCmd_of_admitted hc (by simp [hphase])]
  dsimp only
  rw [hc]
  dsimp only
  rw [if_neg (by simp [hop, hphase, hfree]), ← runCmd_eq]
  rfl

theorem exec_flashWriteImage (h : Spec.isReady s id c 0x48) (hfree : s.flc.op = none) : exec (.flashWriteImage id) s =
    .next (endIfGone (want id (c.field 24 8) 256
      (withOp (newOp c false (Fin.ofNat 32 (c.byte 17)) []) (setCmd id (working s) s)))) :=
  live_beginFlash h hfree

theorem exec_flashEraseSlot (h : Spec.isReady s id c 0x49) (hfree : s.flc.op = none)
    (hblocks : goodBlocks s (Fin.ofNat 32 (c.byte 17)) ≠ []) : exec (.flashEraseSlot id) s =
      .next (withOp (newOp c true (Fin.ofNat 32 (c.byte 17)) (goodBlocks s (Fin.ofNat 32 (c.byte 17))))
        (setCmd id (working s) s)) := by
  refine (live_beginFlash h hfree).trans (congrArg _ ?_)
  rw [if_pos rfl]
  exact erased_more rfl hblocks

/-! FLASH_BLOCK_ERASED. -/

theorem exec_flashBlockErased (hp : s.porst = false) :
    exec (.flashBlockErased failed) s = .next (blockErased failed s) := live_of hp

/-- The next block of an erase, erased under the lease of its channel. -/
def nextErased (o : FlashOp) (b : ℕ) (rest : List ℕ) (s : State) : State :=
  withOp { o with blocks := rest, done := o.done + 1 } (eraseBlock b (channelDone (b % 2) s))

theorem blockErased_turn (ho : s.flc.op = some o) (herase : o.erase = true) (hblocks : o.blocks = b :: rest)
    (hrun : islRuns s 27 = true) (hfree : dieFree s b = true) (hheld : holdsFlash s (.part 0) (b % 2) = true) :
    blockErased false s = erased (nextErased o b rest s) := by
  have hdone : (if (o.erase && !false) = true then o.done + 1 else o.done) = o.done + 1 := if_pos (by simp [herase])
  unfold blockErased
  rw [ho]
  dsimp only
  rw [hblocks]
  dsimp only
  rw [if_neg (by simp [herase, hrun, hfree]), withFlash_held hheld, if_neg Bool.false_ne_true,
    setOp_eq (s := eraseBlock b (channelDone (b % 2) s)) ho, hdone]
  rfl

/-- A block that is erased reads all ones and has one more erase; the next one follows (R274). -/
theorem nextErased_leaves : let t := nextErased o b rest s
    t.flc.op = some { o with blocks := rest, done := o.done + 1 } ∧
      (∀ p, p < 768 → nandPage t b p = List.replicate 16384 0xFF) ∧
      (blockOfNand t b).pe = (blockOfNand s b).pe + 1 := by
  have hblock := eraseBlock_blocks (b := b) (s := channelDone (b % 2) s)
  exact ⟨rfl, fun p hp => nandPage_eraseBlock (s := channelDone (b % 2) s) hp, congrArg NandBlock.pe hblock⟩

/-! FLASH_WRITE_CHECK_PASS_END. -/

theorem exec_flashWriteCheckPassEnd (hp : s.porst = false) :
    exec .flashWriteCheckPassEnd s = .next (checkPassEnd s) := live_of hp

/-- After the last shard the program pass begins with item 0: the bytes up to the first shard (R273). -/
theorem checkPassEnd_last (ho : s.flc.op = some o) (herase : o.erase = false) (hcheck : o.checking = true)
    (htables : o.tables ≠ []) (hlast : o.shards.length < o.shard) (hc : cmdOf s o.cmd = some c) : checkPassEnd s =
      endIfGone (want o.cmd (c.field 24 8 + (itemRange o 0).1) (itemRange o 0).2
        (withOp { o with
          checking := false, clearing := false, shard := 0, page := 0, buf := [], done := 0, restarts := 0 } s)) := by
  unfold checkPassEnd
  rw [ho]
  dsimp only
  rw [if_neg (by simp [herase, hcheck, htables, hlast]), setOp_eq ho, startProgram,
    setOp_eq (o := { o with restarts := 0 }) rfl, wantItem]
  change endIfGone (want o.cmd (((cmdOf s o.cmd).map fun c => c.field 24 8).getD 0 + (itemRange o 0).1) _ _) = _
  rw [hc]
  rfl

theorem checkPassEnd_before (ho : s.flc.op = some o) (hmore : o.shard ≤ o.shards.length) : checkPassEnd s = s := by
  unfold checkPassEnd
  rw [ho]
  exact if_pos (by simp [hmore])

/-! FLASH_PAGE_PROGRAMMED. -/

theorem exec_flashPageProgrammed (hp : s.porst = false) :
    exec (.flashPageProgrammed failed) s = .next (pageProgrammed failed s) := live_of hp

/-- A write is ready to program: the place of its next page is known, and its die and the lease are free for it. -/
structure Programs (s : State) (o : FlashOp) (b p : ℕ) : Prop where
  op : s.flc.op = some o
  erase : o.erase = false
  checking : o.checking = false
  clearing : o.clearing = false
  more : 16384 < o.buf.length
  runs : islRuns s 27 = true
  place : pagePlace s o.slot o.page = some (b, p)
  die : dieFree s b = true
  lease : holdsFlash s (.part 0) (b % 2) = true

/-- With more than a page in hand one page is programmed, and the write goes on with the next (R273). -/
theorem pageProgrammed_more (h : Programs s o b p) : ∃ k, pageProgrammed false s =
    withOp { o with page := o.page + 1, buf := o.buf.drop 16384, done := k }
      (programPage b p (o.buf.take 16384) (channelDone (b % 2) s)) := by
  obtain ⟨hop, herase, hcheck, hclear, hmore, hrun, hplace, hdie, hlease⟩ := h
  have hbuf : o.buf.isEmpty = false := by
    rw [List.isEmpty_eq_false_iff, ← List.length_pos_iff]
    omega
  have hleft : (o.buf.drop 16384).isEmpty = false := by
    rw [List.isEmpty_eq_false_iff, ← List.length_pos_iff, List.length_drop]
    omega
  unfold pageProgrammed
  rw [hop]
  dsimp only
  rw [if_neg (by simp [herase, hcheck, hclear, hbuf, hrun]), hplace]
  dsimp only
  rw [if_neg (by simp [hdie]), withFlash_held hlease, if_neg Bool.false_ne_true, hleft,
    setOp_eq (s := programPage b p (o.buf.take 16384) (channelDone (b % 2) s)) hop]
  exact ⟨_, rfl⟩

end

end Sys2Proof.Proofs

namespace Sys2Proof.Proofs

/-! ### SCORE_UPDATE (R111, R196) -/

open Sys2Proof.Machine

section
variable {s : State} {id : ℕ} {c : Cmd} {back : List Byte}

theorem exec_scoreUpdate (h : Spec.isReady s id c 0x4A) (halone : ∀ d ∈ s.cmds, d.op = 0x4A → d.phase ≠ .running) :
    exec (.scoreUpdate id) s = .next (want id (c.field 24 8) (c.field 32 4)
      (setBsc (fun x => { x with updStep := 1, updPercent := 0 }) (setCmd id (working s) s))) := by
  have hnone : (s.cmds.any fun d => d.op == 0x4A && d.phase == .running) = false :=
    List.any_eq_false.mpr fun d hd => by simpa using halone d hd
  obtain rfl := cmdOf_id h.2.1
  refine (live_atAdmission h).trans (congrArg _ ?_)
  unfold scoreUpdateRow
  rw [if_neg (by simp [hnone]), runCmd_eq]

theorem exec_scoreUpdateCopyWritten (hp : s.porst = false) :
    exec (.scoreUpdateCopyWritten back) s = .next (copyWritten back s) := live_of hp

theorem copyWritten_b (hc : s.cmds.find? (fun d => d.op == 0x4A && d.phase == .running) = some c)
    (hsame : sha256 back = sha256 c.input) (hstep : s.bsc.updStep = 2) : copyWritten back s =
      writeNor false c.input (setBsc (fun x => { x with updStep := 3, updPercent := 0 }) s) := by
  unfold copyWritten
  rw [hc]
  dsimp only
  rw [if_neg (by simp [hstep]), if_neg (not_not_intro hsame), if_pos hstep]

/-- Both copies have been read back as written. -/
def updateEnded (s : State) : State := setBsc (fun x => { x with updStep := 0, updPercent := 100, spi := .idle }) s

theorem copyWritten_a (hc : s.cmds.find? (fun d => d.op == 0x4A && d.phase == .running) = some c)
    (hsame : sha256 back = sha256 c.input) (hstep : s.bsc.updStep = 3) : copyWritten back s =
      finish c.id 0x00 0 false (updatePayload c.input) (updateEnded s) := by
  unfold copyWritten
  rw [hc]
  dsimp only
  rw [if_neg (by simp [hstep]), if_neg (not_not_intro hsame), if_neg (by simp [hstep])]
  rfl

/-- An erase covers what is programmed: the length is rounded up to the erase unit. -/
theorem le_ceilDiv_mul {n k : ℕ} : n ≤ ceilDiv n (k + 1) * (k + 1) := by
  have hdiv := Nat.div_add_mod (n + (k + 1) - 1) (k + 1)
  have hmod : (n + (k + 1) - 1) % (k + 1) < k + 1 := Nat.mod_lt _ (by omega)
  rw [Nat.mul_comm] at hdiv
  unfold ceilDiv
  omega

theorem finish_bsc {status detail : ℕ} {refused : Bool} {payload : List Byte} (hc : cmdOf s id = some c)
    (hsilent : c.silent = false) (hearly : s.bsc.early = false) (hlow : status < 0x40) :
    (finish id status detail refused payload s).bsc = s.bsc := by
  rw [finish_eq hc hsilent hearly hlow, queueRec_frame, leave_frame]

end

/-- Settles O54: each row by its equation; the commands' ends by `endOp` and `finish`. The start of a deferred write is the
model's reading (log entry 51), and so are the percents of BSC_UPD (log entry 65). -/
theorem flashWritesAndScoreUpdate : Obligations.FlashWritesAndScoreUpdate := by
  intro s id c n run
  refine ⟨fun hp hjobs hfirst hid hc hphase => ⟨fun hop hslot => ?_, fun hop => ?_⟩,
    fun h hfree => ⟨_, exec_flashWriteImage h hfree, cmdOf_id h.2.1, rfl, rfl, rfl, rfl⟩,
    fun h hfree hblocks => ⟨_, exec_flashEraseSlot h hfree hblocks, cmdOf_id h.2.1, rfl, rfl, rfl⟩,
    fun o b rest hp ho herase hblocks hrun hfree hheld => ⟨fun hrest => ?_, fun hrest hid hc hsilent hmute hearly => ?_⟩,
    fun o hp ho herase hcheck htables => ⟨fun hlast hc => ?_, fun hmore => ?_⟩,
    fun o b p hp ho herase hcheck hclear hmore hrun hplace hpage hdie hlease => ?_,
    exec_scoreUpdate, fun back hp hc hsame => ⟨fun hstep => ?_, fun hstep hcmd hsilent hmute hearly => ?_⟩⟩
  · rw [exec_deferredStart hp, deferredStart_flash hjobs hfirst hid hc hphase (.inl hop) fun _ => hslot, claimSlot_write hop,
      dropOrphans_of_none (s := setCmd id (fun x => { x with phase := .ready }) (setSlot n 4 0 0 s)) hjobs]
  · rw [exec_deferredStart hp, deferredStart_flash hjobs hfirst hid hc hphase (.inr hop) (by simp [hop]),
      claimSlot_erase hop, dropOrphans_of_none (s := setCmd id (fun x => { x with phase := .ready }) (setSlot n 5 0 0 s)) hjobs]
  · rw [exec_flashBlockErased hp, blockErased_turn ho herase hblocks hrun hfree hheld, erased_more rfl hrest]
    exact ⟨_, rfl, nextErased_leaves⟩
  · subst hrest hid
    obtain ⟨⟨pay, hdone⟩, hnone, hvalid, hstatus, hnand, hlatch⟩ := endOp_leaves (status := 0) (detail := 0) (m := 0)
      (o := { o with blocks := [], done := o.done + 1 }) (s := setSlot o.slot 1 0 0 (nextErased o b [] s))
      hc hsilent hmute hearly
    rw [exec_flashBlockErased hp, blockErased_turn ho herase hblocks hrun hfree hheld,
      erased_last (o := { o with blocks := [], done := o.done + 1 }) (s := nextErased o b [] s) rfl rfl herase]
    refine ⟨_, pay, rfl, done_congr hdone rfl rfl rfl rfl, hnone, hvalid, hstatus, ?_, hlatch⟩
    rw [hnand]
    simp [setSlot]
  · rw [exec_flashWriteCheckPassEnd hp, checkPassEnd_last ho herase hcheck htables hlast hc]
    rfl
  · rw [exec_flashWriteCheckPassEnd hp, checkPassEnd_before ho hmore]
  · obtain ⟨k, hnext⟩ := pageProgrammed_more ⟨ho, herase, hcheck, hclear, hmore, hrun, hplace, hdie, hlease⟩
    have hfull : (o.buf.take 16384).length = 16384 := by rw [List.length_take]; omega
    rw [exec_flashPageProgrammed hp, hnext]
    exact ⟨_, _, rfl, rfl, rfl, rfl, nandPage_programPage (s := channelDone (b % 2) s) hfull,
      fun x y hy hne => nandPage_programPage_ne (s := channelDone (b % 2) s) hpage hy hne⟩
  · rw [exec_scoreUpdateCopyWritten hp, copyWritten_b hc hsame hstep]
    exact ⟨_, rfl, rfl, _, rfl, le_ceilDiv_mul⟩
  · rw [exec_scoreUpdateCopyWritten hp, copyWritten_a hc hsame hstep]
    have hdone := finish_spec (status := 0) (detail := 0) (refused := false) (payload := updatePayload c.input)
      (s := updateEnded s) hcmd hsilent hmute hearly
    refine ⟨_, _, rfl, done_congr hdone rfl rfl rfl rfl, ?_⟩
    rw [finish_bsc (s := updateEnded s) hcmd hsilent hearly (by decide)]
    exact ⟨rfl, rfl⟩

end Sys2Proof.Proofs

namespace Sys2Proof.Proofs

/-! ### Strips of a window, and the bytes that land in them (R289, R309) -/

open Sys2Proof.Machine

section
variable {s : State} {i j : Fin 64} {f : Strip → Strip} {a k n : ℕ} {bs : List Byte} {last : Bool}

@[simp] theorem memRead_length {m : Memory} : (memRead m a n).length = n := by simp [memRead]

/-! A store below stacked memory, where ECC covers 8 bytes (R342). -/

theorem badIn_none_iff_near (h : a < stackBase) :
    (badIn s a n).isNone = true ↔ ∀ e ∈ s.bad, ¬ (e.1 < a + n ∧ a < e.1 + 8) := by
  rw [badIn, Option.isNone_iff_eq_none, List.find?_eq_none, eccUnit, if_neg (by omega)]
  simp

theorem storeUnits_near (hfits : a + bs.length ≤ stackBase)
    (hgood : ∀ e ∈ s.bad, ¬ (e.1 < a + bs.length ∧ a < e.1 + 8)) (hk : bs.length < k) :
    storeUnits k a bs s = { s with mem := memWrite s.mem a bs } := by
  induction k generalizing a bs s with
  | zero => cases hk
  | succ k ih =>
    unfold storeUnits
    split
    · next hnil => rw [List.isEmpty_iff.mp hnil]; rfl
    next hne =>
    have hpos : 0 < bs.length := List.length_pos_iff.mpr fun e => hne (by rw [e]; rfl)
    have hnear : a < stackBase := by omega
    extract_lets unit n whole left t
    have hn : n = min bs.length (8 - a % 8) := by dsimp only [n, unit]; rw [eccUnit, if_neg (by omega)]
    have ht : t = { s with mem := memWrite s.mem a (bs.take n) } := by
      have hdead : deadAt s a = false := by simp [deadAt, hnear]
      have hnone : (badIn s a n).isSome = false := by
        rw [← Option.not_isNone, (badIn_none_iff_near hnear).mpr fun e he => by have := hgood e he; omega]
        rfl
      have hleft : s.bad.filter (·.1 != a) = s.bad := List.filter_eq_self.mpr fun e he => by
        have := hgood e he
        simp only [bne_iff_ne]
        omega
      dsimp only [t, left]
      rw [hdead, hnone, hleft, ite_self, Bool.and_false, Bool.or_false, if_neg Bool.false_ne_true]
    have hlen : (bs.drop n).length = bs.length - n := List.length_drop
    have happ := memWrite_append (m := s.mem) (a := a) (bs := bs.take n) (cs := bs.drop n)
    rw [List.take_append_drop, List.length_take, min_eq_left (by omega)] at happ
    rw [ih (by omega) (fun e he => by rw [ht] at he; have := hgood e he; omega) (by omega), ht, happ]

/-! Where a strip has room for bytes that land, and no damage. -/

/-- `n` more bytes fit into the strip, and no unit that they touch is uncorrectable. -/
structure HasRoom (s : State) (i : Fin 64) (n : ℕ) : Prop where
  fits : s.strips[i].filled + n ≤ 0x40000
  good : (badIn s (stripBase i + s.strips[i].filled) n).isNone = true

/-- The bytes of a strip lie below stacked memory. -/
theorem strip_below (h : k ≤ 0x40000) : stripBase i + k < stackBase := by
  have := i.isLt
  unfold stripBase stackBase
  omega

theorem storeMem_strip (h : HasRoom s i bs.length) : storeMem (stripBase i + s.strips[i].filled) bs s =
    { s with mem := memWrite s.mem (stripBase i + s.strips[i].filled) bs } := by
  obtain ⟨hfits, hgood⟩ := h
  have hnear : stripBase i + s.strips[i].filled < stackBase := strip_below (by omega)
  have hend : stripBase i + (s.strips[i].filled + bs.length) < stackBase := strip_below hfits
  unfold storeMem storeRaw
  rw [storeUnits_near (by omega) ((badIn_none_iff_near hnear).mp hgood) (Nat.lt_succ_self _)]
  exact if_pos hnear

/-! One strip changes. -/

theorem setStrip_strip : (setStrip i f s).strips[i] = f s.strips[i] := by simp [setStrip]

theorem setStrip_strip_ne (h : j ≠ i) : (setStrip i f s).strips[j] = s.strips[j] := by
  have hne : i.val ≠ j.val := fun e => h (Fin.ext e.symm)
  simp [setStrip, hne]

/-- A strip whose stall, if there was one, has ended. -/
def unstalled (t : Strip) : Strip := { t with stallFrom := none }

theorem setStrip_of_fixed (h : f s.strips[i] = s.strips[i]) : setStrip i f s = s := by
  unfold setStrip
  rw [h]
  simp

/-- The end of a stall changes its strip and STR_STALL, and no more. -/
theorem endStall_eq : ∃ time, endStall i s = setStrip i unstalled { s with str := { s.str with stall := time } } := by
  unfold endStall
  split
  · next hnone =>
    have hsame : unstalled s.strips[i] = s.strips[i] := by rw [unstalled, ← hnone]
    exact ⟨s.str.stall, (setStrip_of_fixed hsame).symm⟩
  · exact ⟨_, rfl⟩

/-- A complete strip. -/
def readied (t : Strip) : Strip := { unstalled t with st := .ready }

theorem stripReady_eq : ∃ time, stripReady i s = setStrip i readied
    { s with str := { s.str with stall := time, fills := min 0xFFFFFFFF (s.str.fills + 1) } } := by
  obtain ⟨time, hstall⟩ := endStall_eq (i := i) (s := s)
  refine ⟨time, ?_⟩
  unfold stripReady
  rw [hstall]
  simp [setStrip, satAdd, readied]

/-- Bytes have landed in a strip, and with its last ones it is READY. -/
def landed (n : ℕ) (last : Bool) (t : Strip) : Strip :=
  let u := { t with filled := t.filled + n, retry := false }
  if last then readied u else u

/-- What landing bytes changes: memory, the strip, and two counters of STR. -/
theorem stripPut_eq (h : HasRoom s i bs.length) : ∃ time, stripPut i bs last s = setStrip i (landed bs.length last)
    { s with
      mem := memWrite s.mem (stripBase i + s.strips[i].filled) bs
      str := { s.str with
        stall := time
        fills := if last then min 0xFFFFFFFF (s.str.fills + 1) else s.str.fills } } := by
  unfold stripPut
  dsimp only
  rw [storeMem_strip h]
  cases last
  · exact ⟨s.str.stall, rfl⟩
  · obtain ⟨time, hready⟩ := stripReady_eq (i := i) (s := setStrip i (landed bs.length false)
      { s with mem := memWrite s.mem (stripBase i + s.strips[i].filled) bs })
    refine ⟨time, Eq.trans hready ?_⟩
    simp [setStrip, landed]

/-- `t` is `s` after bytes have landed at the fill mark of a strip that `f` has changed, and nowhere else. -/
structure Lands (i : Fin 64) (f : Strip → Strip) (bs : List Byte) (last : Bool) (s t : State) : Prop where
  bytes : ∀ k (h : k < bs.length), memByte t.mem (stripBase i + s.strips[i].filled + k) = bs[k]
  others : ∀ x, x < stripBase i + s.strips[i].filled ∨ stripBase i + s.strips[i].filled + bs.length ≤ x →
    memByte t.mem x = memByte s.mem x
  strip : t.strips[i] = landed bs.length last (f s.strips[i])
  strips : ∀ j, j ≠ i → t.strips[j] = s.strips[j]
  fills : t.str.fills = if last then min 0xFFFFFFFF (s.str.fills + 1) else s.str.fills
  prz : t.prz = s.prz

theorem lands_stripPut (hroom : HasRoom s i bs.length) (hwf : Memory.wf s.mem = true)
    (hmark : (f s.strips[i]).filled = s.strips[i].filled) : Lands i f bs last s (stripPut i bs last (setStrip i f s)) := by
  have hfilled : (setStrip i f s).strips[i].filled = s.strips[i].filled := by rw [setStrip_strip, hmark]
  have hroom' : HasRoom (setStrip i f s) i bs.length := ⟨hfilled ▸ hroom.fits, hfilled ▸ hroom.good⟩
  obtain ⟨time, hput⟩ := stripPut_eq hroom' (last := last)
  rw [hput, hfilled]
  refine ⟨fun k hk => memByte_memWrite hwf hk, fun x hx => memByte_memWrite_outside hx, ?_, fun j hj => ?_, rfl, rfl⟩
  · rw [setStrip_strip]
    exact congrArg _ setStrip_strip
  · rw [setStrip_strip_ne hj]
    exact setStrip_strip_ne hj

@[simp] theorem landed_filled {t : Strip} : (landed n last t).filled = t.filled + n := by cases last <;> rfl
@[simp] theorem landed_fetched {t : Strip} : (landed n last t).fetched = t.fetched := by cases last <;> rfl
@[simp] theorem landed_taken {t : Strip} : (landed n last t).taken = t.taken := by cases last <;> rfl
@[simp] theorem landed_owner {t : Strip} : (landed n last t).owner = t.owner := by cases last <;> rfl
@[simp] theorem landed_st {t : Strip} : (landed n last t).st = if last then .ready else t.st := by cases last <;> rfl

end

end Sys2Proof.Proofs

namespace Sys2Proof.Proofs

/-! ### Bursts of the streamer (R289, R292) -/

open Sys2Proof.Machine

section
variable {s t u : State} {i : Fin 64} {h : Handle} {m : ModelRef} {l : StripLoad} {a n : ℕ} {last : Bool} {ecc : Ecc}
  {parts : List Part} {c : Consumer} {g : Tag} {k : State → State}

/-! A grant of the tag (R34, R510). -/

/-- The consumer's grant of the tag ends. -/
def endTagged (c : Consumer) (g : Tag) (s : State) : State :=
  setLedger (ledgerOf c) (fun l => { l with grants := l.grants.eraseP fun x => x.unit == c && x.tag == g }) s

theorem withTagged_of (h : ((ledger s (ledgerOf c)).grants.any fun x => x.unit == c && x.tag == g) = true) :
    withTagged c g k s = k (endTagged c g s) := if_pos h

/-- A grant of the core ledger ends there, and no more changes. -/
theorem endTagged_frame (hc : ledgerOf c = .core) :
    endTagged c g s = { s with brg := { s.brg with core := (endTagged c g s).brg.core } } := by
  unfold endTagged
  rw [hc]
  rfl

/-! What the end of a grant and the moves of rows leave of the strips. -/

/-- `t` came from `s` by the end of grants and by work of the controllers on their rows and counters. -/
def OnlyMoves (s t : State) : Prop := t = { s with brg := t.brg, dmc := t.dmc }

theorem onlyMoves_endTagged (hc : ledgerOf c = .core) : OnlyMoves s (endTagged c g s) := by
  unfold OnlyMoves
  rw [endTagged_frame hc]

theorem OnlyMoves.movesRows (hm : OnlyMoves s t) (hu : MovesRows t u) : OnlyMoves s u := by
  unfold OnlyMoves at *
  rw [hu.frame, hm]

theorem endTagged_readable (hc : ledgerOf c = .core) (hread : Readable s a n) : Readable (endTagged c g s) a n := by
  rw [endTagged_frame hc]
  exact ⟨hread.quiet, hread.good, hread.alive⟩

/-- Bytes land as they would where no grant has ended and no row has moved. -/
theorem OnlyMoves.lands {f : Strip → Strip} {bs : List Byte} (hm : OnlyMoves s t) (hroom : HasRoom s i bs.length)
    (hwf : Memory.wf s.mem = true) (hmark : (f s.strips[i]).filled = s.strips[i].filled) :
    Lands i f bs last s (stripPut i bs last (setStrip i f t)) := by
  obtain ⟨governor, controllers, rfl⟩ : ∃ x y, t = { s with brg := x, dmc := y } := ⟨_, _, hm⟩
  obtain ⟨hbytes, hothers, hstrip, hrest, hfills, hprz⟩ := lands_stripPut (last := last)
    (s := { s with brg := governor, dmc := controllers }) ⟨hroom.fits, hroom.good⟩ hwf hmark
  exact ⟨hbytes, hothers, hstrip, hrest, hfills, hprz⟩

/-! A clean burst of plain bytes. -/

theorem readStack_readable (hread : Readable s a n) :
    readStack a n [] parts s = (.ok (memRead s.mem a n), moveAll false a n s) := by
  unfold readStack
  rw [readBlocks_readable (hread.moved movesRows_moveAll) fun _ hu => hu]
  rfl

/-- The bytes at the address are stored as they are: they are of no tensor, or of one of a plain format. -/
def IsPlain (s : State) (h : Handle) (a : ℕ) : Prop :=
  ∀ t k, weightTensor s (.handle h) a = some (t, k) → 4 < t.format ∧ t.format ≠ 6

theorem IsPlain.not_coded (hplain : IsPlain s h a) : isCoded s (.handle h) a = false := by
  unfold isCoded
  cases ht : weightTensor s (.handle h) a with
  | none => rfl
  | some e => simpa using (hplain e.1 e.2 ht).2

theorem OnlyMoves.isPlain (hm : OnlyMoves s t) (hplain : IsPlain s h a) : IsPlain t h a := by
  rw [hm]
  exact hplain

/-- `n` more bytes of the strip's load have been read. -/
def fetchMore (n : ℕ) (t : Strip) : Strip := { t with fetched := t.fetched + n }

@[simp] theorem fetchMore_filled {t : Strip} : (fetchMore n t).filled = t.filled := rfl
@[simp] theorem fetchMore_fetched {t : Strip} : (fetchMore n t).fetched = t.fetched + n := rfl
@[simp] theorem fetchMore_owner {t : Strip} : (fetchMore n t).owner = t.owner := rfl
@[simp] theorem fetchMore_st {t : Strip} : (fetchMore n t).st = t.st := rfl

/-- What a clean burst of plain bytes does. -/
theorem burst_plain (hread : Readable s a n) (hplain : IsPlain s h a) : burst i (.handle h) a n [] last s =
    stripPut i (memRead s.mem a n) last (setStrip i (fetchMore n) (moveAll false a n s)) := by
  have htensor : weightTensor (moveAll false a n s) (.handle h) a = weightTensor s (.handle h) a := by
    rw [movesRows_moveAll.frame]
    rfl
  unfold burst weightRead
  simp only [readStack_readable hread, htensor]
  split
  · rfl
  · next t seq ht =>
    obtain ⟨hquant, hcoded⟩ := hplain t seq ht
    rw [if_neg hcoded, if_pos hquant]
    rfl

theorem dropPages_handle : dropPages i (.handle h) a n s = s := rfl

/-! The row. -/

theorem burstOk_filling (hok : burstOk s m i l a n last = true) : s.strips[i].st = .filling := by
  simp only [burstOk, Bool.and_eq_true, beq_iff_eq] at hok
  obtain ⟨⟨⟨⟨⟨⟨⟨⟨⟨hst, -⟩, -⟩, -⟩, -⟩, -⟩, -⟩, -⟩, -⟩, -⟩ := hok
  exact hst

theorem burstOk_fits (hok : burstOk s m i l a n last = true) (hcoded : isCoded s m a = false) :
    s.strips[i].filled + n ≤ 0x40000 := by
  simp only [burstOk, hcoded, Bool.false_eq_true, if_false, Bool.and_eq_true, decide_eq_true_eq] at hok
  obtain ⟨⟨⟨-, hfits⟩, -⟩, -⟩ := hok
  exact hfits

theorem exec_streamerBurstComplete (hp : s.porst = false) :
    exec (.streamerBurstComplete i a n ecc last) s = .next (burstComplete i a n ecc last s) := live_of hp

theorem burstComplete_idle (hst : s.strips[i].st ≠ .filling) : burstComplete i a n ecc last s = s := by
  unfold burstComplete
  split
  · rfl
  split
  · rfl
  · have hnot {m : ModelRef} {l : StripLoad} : burstOk s m i l a n last = false :=
      Bool.eq_false_iff.mpr fun hok => hst (burstOk_filling hok)
    rw [hnot]
    rfl

theorem burstComplete_turn (howner : s.strips[i].owner = some (.handle h)) (hload : loadOf s (.handle h) i = some l)
    (hok : burstOk s (.handle h) i l a n last = true) (hfirst : windowFirst s (.handle h) = true)
    (hrun : islRuns s 21 = true) (hmute : muted s = false)
    (hgrant : ((ledger s .core).grants.any fun x => x.unit == .streamer && x.tag == modelTag s (.handle h)) = true) :
    burstComplete i a n ecc last s = burst i (.handle h) a n ecc last (endTagged .streamer (modelTag s (.handle h)) s) := by
  unfold burstComplete
  simp only [howner, hload]
  rw [if_neg (by simp [hok, hfirst, hrun, hmute]), withTagged_of hgrant, dropPages_handle]

/-- A clean burst of plain bytes lands in its strip. -/
theorem lands_burst (hread : Readable s a n) (hplain : IsPlain s h a) (hroom : HasRoom s i n)
    (hwf : Memory.wf s.mem = true) (hc : ledgerOf c = .core) :
    Lands i (fetchMore n) (memRead s.mem a n) last s (burst i (.handle h) a n [] last (endTagged c g s)) := by
  have hends : OnlyMoves s (endTagged c g s) := onlyMoves_endTagged hc
  have hmoves : OnlyMoves s (moveAll false a n (endTagged c g s)) := hends.movesRows movesRows_moveAll
  have hmem : (endTagged c g s).mem = s.mem := by rw [hends]
  rw [burst_plain (endTagged_readable hc hread) (hends.isPlain hplain), hmem]
  refine hmoves.lands ?_ hwf rfl
  rw [memRead_length]
  exact hroom

end

end Sys2Proof.Proofs

namespace Sys2Proof.Proofs

/-! ### Blocks of the prism (R311, R315, R316, R318) -/

open Sys2Proof.Machine

section
variable {s t : State} {i : Fin 64} {h : Handle} {m : ModelRef} {l : StripLoad} {a esc cause sub k : ℕ} {es : List ℕ}
  {b : List Byte} {lastT lastS d : Bool} {g : Tag} {f : State → State}

/-! The elements of a block as bytes (R311). -/

theorem flatMap_toLe_length : (es.flatMap (toLe 2)).length = 2 * es.length := by
  induction es with
  | nil => rfl
  | cons e es ih =>
    rw [List.flatMap_cons, List.length_append, ih, List.length_cons, Nat.mul_succ, Nat.add_comm]
    rfl

theorem flatMap_toLe_low (hk : k < es.length) : (es.flatMap (toLe 2))[2 * k]? = some (BitVec.ofNat 8 es[k]) := by
  induction es generalizing k with
  | nil => cases hk
  | cons e es ih =>
    cases k with
    | zero => rfl
    | succ k => exact ih (Nat.lt_of_succ_lt_succ hk)

theorem flatMap_toLe_high (hk : k < es.length) :
    (es.flatMap (toLe 2))[2 * k + 1]? = some (BitVec.ofNat 8 (es[k] / 256)) := by
  induction es generalizing k with
  | nil => cases hk
  | cons e es ih =>
    cases k with
    | zero => rfl
    | succ k => exact ih (Nat.lt_of_succ_lt_succ hk)

/-! The decoded block, and the damaged one (R315, R316). -/

theorem injectPrism_quiet (hquiet : s.vib.runFrom = none) (hagain : s.vib.again = none) : injectPrism a b s = (b, s) := by
  simp [injectPrism, opportunity, hquiet, hagain]

/-- `n` more bytes of the strip's load have been decoded. -/
def takeMore (n : ℕ) (t : Strip) : Strip := { t with taken := t.taken + n }

@[simp] theorem takeMore_filled {n : ℕ} {t : Strip} : (takeMore n t).filled = t.filled := rfl
@[simp] theorem takeMore_taken {n : ℕ} {t : Strip} : (takeMore n t).taken = t.taken + n := rfl
@[simp] theorem takeMore_st {n : ℕ} {t : Strip} : (takeMore n t).st = t.st := rfl

/-- The PRZ block changes, and no more. -/
def setPrz (f : Prz → Prz) (s : State) : State := { s with prz := f s.prz }

@[simp] theorem setPrz_prz {f : Prz → Prz} : (setPrz f s).prz = f s.prz := rfl
@[simp] theorem setPrz_strips {f : Prz → Prz} : (setPrz f s).strips = s.strips := rfl

/-- A counter of the prism adds `n`, wrapping (R328). -/
def countPrz (j : Fin 4) (n : ℕ) (p : Prz) : Prz := { p with live := p.live.set j ((p.live[j] + n) % 2 ^ 64) }

theorem bumpPrz_eq {j : Fin 4} {n : ℕ} : bumpPrz j n s = setPrz (countPrz j n) s := rfl

theorem setPrz_setPrz {f k : Prz → Prz} : setPrz f (setPrz k s) = setPrz (f ∘ k) s := rfl

/-- The counters of the prism after a block of `len` bytes with `n` elements, `esc` of them escaped (log entry 54). -/
def countBlock (len n esc : ℕ) : Prz → Prz := countPrz 0 1 ∘ countPrz 1 len ∘ countPrz 2 n ∘ countPrz 3 esc

theorem countBlock_live {len n : ℕ} {p : Prz} : (countBlock len n esc p).live =
    #v[(p.live[0] + 1) % 2 ^ 64, (p.live[1] + len) % 2 ^ 64, (p.live[2] + n) % 2 ^ 64, (p.live[3] + esc) % 2 ^ 64] := by
  ext j hj
  interval_cases j <;> simp [countBlock, countPrz]

theorem HasRoom.setPrz {f : Prz → Prz} {n : ℕ} (hroom : HasRoom s i n) : HasRoom (setPrz f s) i n :=
  ⟨hroom.fits, hroom.good⟩

theorem OnlyMoves.setPrz {f : Prz → Prz} (hm : OnlyMoves s t) : OnlyMoves (setPrz f s) (setPrz f t) := by
  unfold OnlyMoves at *
  rw [hm]
  rfl

theorem prismBlock_decodes (hquiet : s.vib.runFrom = none) (hagain : s.vib.again = none)
    (hdec : decodeBlock lastT (memRead s.mem a 14400) = .ok (es, esc)) :
    prismBlock i m a lastT lastS false s = stripPut i (es.flatMap (toLe 2)) lastS
      (setStrip i (takeMore (le (memRead s.mem a 14400) 4 2))
        (setPrz (countBlock (le (memRead s.mem a 14400) 4 2) es.length esc) s)) := by
  unfold prismBlock
  rw [injectPrism_quiet hquiet hagain]
  simp only [hdec, bumpPrz_eq, setPrz_setPrz]
  rfl

theorem prismBlock_damaged (hquiet : s.vib.runFrom = none) (hagain : s.vib.again = none)
    (hdec : decodeBlock lastT (memRead s.mem a 14400) = .error (cause, sub)) :
    prismBlock i m a lastT lastS d s = damaged i m a cause sub s := by
  unfold prismBlock
  rw [injectPrism_quiet hquiet hagain]
  simp only [hdec]

/-- The first damaged decode is recorded, and its strip reads the block again. -/
theorem damaged_first (hretry : s.strips[i].retry = false) : damaged i m a cause sub s =
    setStrip i (fun t => { t with retry := true, fetched := t.taken }) { s with prz := { s.prz with
      damage := min 65535 (s.prz.damage + 1)
      damageCause := cause
      damageSub := if 7 ≤ cause then sub else 0
      damageAddr := a } } := by
  unfold damaged satAdd
  dsimp only
  rw [hretry, if_neg Bool.false_ne_true]

/-- The first damaged decode leaves memory and the strip's bytes as they are. -/
theorem prismBlock_first_damage (hquiet : s.vib.runFrom = none) (hagain : s.vib.again = none)
    (hdec : decodeBlock lastT (memRead s.mem a 14400) = .error (cause, sub)) (hretry : s.strips[i].retry = false) :
    let t := prismBlock i m a lastT lastS d (endTagged .prism g s)
    t.mem = s.mem ∧ t.strips[i].retry = true ∧ t.strips[i].filled = s.strips[i].filled ∧
      t.strips[i].fetched = s.strips[i].taken ∧ t.prz.damage = min 65535 (s.prz.damage + 1) ∧
      t.prz.damageCause = cause ∧ t.prz.damageAddr = a := by
  obtain ⟨governor, hends⟩ : ∃ x, endTagged .prism g s = { s with brg := x } := ⟨_, endTagged_frame rfl⟩
  dsimp only
  rw [hends, prismBlock_damaged (s := { s with brg := governor }) hquiet hagain hdec,
    damaged_first (s := { s with brg := governor }) hretry, setStrip_strip]
  exact ⟨rfl, rfl, rfl, rfl, rfl, rfl, rfl⟩

/-! The row. -/

theorem blockOk_filling (hok : blockOk s m i l a lastT lastS = true) : s.strips[i].st = .filling := by
  simp only [blockOk, Bool.and_eq_true, beq_iff_eq] at hok
  obtain ⟨⟨⟨⟨⟨⟨⟨⟨hst, -⟩, -⟩, -⟩, -⟩, -⟩, -⟩, -⟩, -⟩ := hok
  exact hst

theorem exec_prismBlockDecoded (hp : s.porst = false) :
    exec (.prismBlockDecoded i a lastT lastS d) s = .next (blockDecoded i a lastT lastS d s) := live_of hp

theorem blockDecoded_idle (hst : s.strips[i].st ≠ .filling) : blockDecoded i a lastT lastS d s = s := by
  unfold blockDecoded
  split
  · rfl
  split
  · rfl
  · have hnot {m : ModelRef} {l : StripLoad} : blockOk s m i l a lastT lastS = false :=
      Bool.eq_false_iff.mpr fun hok => hst (blockOk_filling hok)
    rw [hnot]
    rfl

theorem withDecoders_once (hgrant : ((ledger s .core).grants.any fun x => x.unit == .prism && x.tag == g) = true) :
    withDecoders false g f s = f (endTagged .prism g s) :=
  withTagged_of (c := .prism) (k := f) hgrant

theorem blockDecoded_turn (howner : s.strips[i].owner = some (.handle h)) (hload : loadOf s (.handle h) i = some l)
    (hok : blockOk s (.handle h) i l a lastT lastS = true) (hrun : islRuns s 22 = true) (hmute : muted s = false)
    (halone : ((passOf s (.handle h)).any (·.mirrored)) = false)
    (hgrant : ((ledger s .core).grants.any fun x => x.unit == .prism && x.tag == modelTag s (.handle h)) = true) :
    blockDecoded i a lastT lastS d s =
      prismBlock i (.handle h) a lastT lastS d (endTagged .prism (modelTag s (.handle h)) s) := by
  have honce : ((passOf s (.handle h)).map (·.mirrored)).getD false = false := by
    cases hpass : passOf s (.handle h) with
    | none => rfl
    | some p => simpa [hpass] using halone
  unfold blockDecoded
  simp only [howner, hload]
  rw [if_neg (by simp [hok, hrun, hmute]), honce, withDecoders_once hgrant]

/-- A block that decodes lands in its strip, and the prism counts it. -/
theorem lands_block (hquiet : s.vib.runFrom = none) (hagain : s.vib.again = none)
    (hdec : decodeBlock lastT (memRead s.mem a 14400) = .ok (es, esc)) (hroom : HasRoom s i (2 * es.length))
    (hwf : Memory.wf s.mem = true) :
    Lands i (takeMore (le (memRead s.mem a 14400) 4 2)) (es.flatMap (toLe 2)) lastS
      (setPrz (countBlock (le (memRead s.mem a 14400) 4 2) es.length esc) s)
      (prismBlock i m a lastT lastS false (endTagged .prism g s)) := by
  have hends : OnlyMoves s (endTagged .prism g s) := onlyMoves_endTagged rfl
  have hmem : (endTagged .prism g s).mem = s.mem := by rw [hends]
  have hvib : (endTagged .prism g s).vib = s.vib := by rw [hends]
  rw [prismBlock_decodes (hvib ▸ hquiet) (hvib ▸ hagain) (by rw [hmem]; exact hdec), hmem]
  have hroom' : HasRoom s i (es.flatMap (toLe 2)).length := flatMap_toLe_length ▸ hroom
  exact hends.setPrz.lands hroom'.setPrz hwf takeMore_filled

end

/-- Settles O52: a strip that is not FILLING takes nothing; a clean burst and a decoded block come to `stripPut`, whose bytes
`Lands` places; the first damaged decode changes the strip and the registers of damage alone. -/
theorem stripsAndBlocks : Obligations.StripsAndBlocks := by
  intro s i h hp howner
  refine ⟨fun a n e last hst => ?_, fun a f l d hst => ?_, fun hfilling hmute hquiet hagain hwf =>
    ⟨fun l a n last hload hok hfirst hrun hgrant hbase hclean hgood hplain => ?_,
      fun l a lastT lastS hload hok hrun hgrant halone => ⟨fun es esc hdec hgood hfits => ?_,
        fun cause sub d hdec hretry => ?_⟩⟩⟩
  · rw [exec_streamerBurstComplete hp, burstComplete_idle hst]
  · rw [exec_prismBlockDecoded hp, blockDecoded_idle hst]
  · have hroom : HasRoom s i n := ⟨burstOk_fits hok (IsPlain.not_coded hplain), hgood⟩
    obtain ⟨hbytes, hothers, hstrip, hrest, hfills, -⟩ := lands_burst (last := last) (c := .streamer)
      (g := modelTag s (.handle h)) (readsClean_readable hbase hclean) hplain hroom hwf rfl
    simp only [memRead_length] at hbytes hothers hstrip
    rw [exec_streamerBurstComplete hp, burstComplete_turn howner hload hok hfirst hrun hmute hgrant]
    refine ⟨_, rfl, fun k hk => (hbytes k hk).trans (by simp [memRead]), hothers, ?_, ?_, ?_, ?_, hrest, hfills⟩
    · rw [hstrip, landed_filled, fetchMore_filled]
    · rw [hstrip, landed_fetched, fetchMore_fetched]
    · rw [hstrip, landed_owner, fetchMore_owner]
    · rw [hstrip, landed_st, fetchMore_st, hfilling]
  · obtain ⟨hbytes, hothers, hstrip, -, -, hprz⟩ := lands_block (i := i) (m := .handle h) (lastS := lastS)
      (g := modelTag s (.handle h)) hquiet hagain hdec ⟨hfits, hgood⟩ hwf
    simp only [flatMap_toLe_length] at hbytes hothers hstrip
    rw [exec_prismBlockDecoded hp, blockDecoded_turn howner hload hok hrun hmute halone hgrant]
    refine ⟨_, rfl, fun k hk => ⟨?_, ?_⟩, hothers, ?_, ?_, ?_, ?_, ?_, ?_⟩
    · exact (hbytes (2 * k) (by omega)).trans ((List.getElem_eq_iff _).mpr (flatMap_toLe_low hk))
    · exact (hbytes (2 * k + 1) (by omega)).trans ((List.getElem_eq_iff _).mpr (flatMap_toLe_high hk))
    · rw [hstrip, landed_filled, takeMore_filled, setPrz_strips]
    · rw [hstrip, landed_st, takeMore_st, setPrz_strips, hfilling]
    · rw [hstrip, landed_taken, takeMore_taken, setPrz_strips]
    all_goals
      rw [hprz, setPrz_prz]
      simp [countBlock_live]
  · rw [exec_prismBlockDecoded hp, blockDecoded_turn howner hload hok hrun hmute halone hgrant]
    exact ⟨_, rfl, prismBlock_first_damage hquiet hagain hdec hretry⟩

end Sys2Proof.Proofs
